-- ==== Sys2Proof/Word.lean ====
section
/-!
DEFINITION. The word types of the Buryth K8 and the generic keyed table the model's state uses.
A token is 512 bits (03 R54), an instruction word 64 bits (04 R92), a target 12 bits (04 R89).
-/

/-- An element put before the first one that does not stand before it. -/
def List.isortInsert {α : Type} (le : α → α → Bool) (a : α) : List α → List α
  | [] => [a]
  | b :: r => if le a b then a :: b :: r else b :: List.isortInsert le a r

/-- A list in order; elements that stand level keep their order. -/
def List.isort {α : Type} (l : List α) (le : α → α → Bool) : List α := l.foldr (List.isortInsert le) []

namespace Sys2Proof

/-- An n64 value, an instruction word, or one lane of a record. -/
abbrev Word := BitVec 64

/-- A byte of memory. -/
abbrev Byte := BitVec 8

/-- The 512 bits of a token or of a thread register (03 R54, 01 R9). -/
abbrev Vec := BitVec 512

/-- A 12-bit target (04 R89). -/
abbrev Target := BitVec 12

/-- A table from numbers to records; a number that is not listed has the default record of its reader. -/
abbrev Tbl (α : Type) := List (Nat × α)

/-- The record at a key, if it is listed. -/
def Tbl.look {α : Type} (t : Tbl α) (k : Nat) : Option α :=
  match t with
  | [] => none
  | (k', a) :: r => if k' = k then some a else Tbl.look r k

/-- The record at a key, or the default. -/
def Tbl.get {α : Type} (t : Tbl α) (k : Nat) (d : α) : α :=
  match t.look k with
  | some a => a
  | none => d

/-- The table with the record at a key replaced, or added at the end. -/
def Tbl.set {α : Type} (t : Tbl α) (k : Nat) (a : α) : Tbl α :=
  match t with
  | [] => [(k, a)]
  | (k', b) :: r => if k' = k then (k, a) :: r else (k', b) :: Tbl.set r k a

/-- The table without a key. -/
def Tbl.erase {α : Type} (t : Tbl α) (k : Nat) : Tbl α :=
  t.filter (fun p => p.1 != k)

/-- The keys of a table. -/
def Tbl.keys {α : Type} (t : Tbl α) : List Nat := t.map Prod.fst

end Sys2Proof
end

