-- ==== Sys2Proof/Syntax.lean ====
section
/-!
DEFINITION. The whole syntax: one constructor of `Instr` for each row of the opcode table.
Instructions of the Ifeoz set carry the fields of their format (04 R93-R100); a row of the table that is one action of an
opcode (`sync.wait`, `pgadvise.keep`, ...) keeps the SUB or TY field of the word, which `Instr.wf` fixes.
Host commands carry the record of 10 R285. Device events carry nothing: what an event is about stands in the state
(`Dev.arg`), as the instruction slot that fires does (`Dev.focus`).
-/

namespace Sys2Proof

/-- Format G (04 R93). -/
structure FmtG where
  stg : BitVec 3
  pr : BitVec 2
  ty : BitVec 4
  fzi : BitVec 1
  fzo : BitVec 1
  rm : BitVec 2
  t0 : BitVec 12
  t1 : BitVec 12
  x : BitVec 19
deriving DecidableEq, Repr

/-- Format I (04 R94). -/
structure FmtI where
  stg : BitVec 3
  pr : BitVec 2
  ty : BitVec 4
  t0 : BitVec 12
  imm : BitVec 35
deriving DecidableEq, Repr

/-- Format M (04 R95). -/
structure FmtM where
  stg : BitVec 3
  pr : BitVec 2
  ty : BitVec 4
  lsid : BitVec 5
  scope : BitVec 3
  t0 : BitVec 12
  offs : BitVec 27
deriving DecidableEq, Repr

/-- Format A (04 R96). -/
structure FmtA where
  stg : BitVec 3
  pr : BitVec 2
  ty : BitVec 4
  lsid : BitVec 5
  scope : BitVec 3
  ord : BitVec 2
  t0 : BitVec 12
  offs : BitVec 25
deriving DecidableEq, Repr

/-- Format X (04 R97). -/
structure FmtX where
  stg : BitVec 3
  pr : BitVec 2
  exit : BitVec 3
  xk : BitVec 2
  t0 : BitVec 12
  offs : BitVec 34
deriving DecidableEq, Repr

/-- Format N (04 R98). -/
structure FmtN where
  stg : BitVec 3
  pr : BitVec 2
  af : BitVec 4
  bf : BitVec 4
  cf : BitVec 2
  tile : BitVec 1
  ksteps : BitVec 6
  sparse : BitVec 2
  t0 : BitVec 12
  x : BitVec 20
deriving DecidableEq, Repr

/-- Format Q (04 R99). -/
structure FmtQ where
  stg : BitVec 3
  pr : BitVec 2
  sub : BitVec 4
  limit : BitVec 12
  t0 : BitVec 12
  t1 : BitVec 12
  imm : BitVec 11
deriving DecidableEq, Repr

/-- Format P (04 R100). -/
structure FmtP where
  stg : BitVec 3
  pr : BitVec 2
  fmt : BitVec 4
  scale : BitVec 8
  t0 : BitVec 12
  rest : BitVec 27
deriving DecidableEq, Repr

/-- A host command record without its code (10 R285): context number, generation, completion address and lanes 2 to 7. -/
structure CmdRec where
  ctx : BitVec 12
  gen : BitVec 32
  compl : BitVec 64
  a2 : BitVec 64
  a3 : BitVec 64
  a4 : BitVec 64
  a5 : BitVec 64
  a6 : BitVec 64
  a7 : BitVec 64
deriving DecidableEq, Repr

/-- The instructions, host commands and device events of the opcode table: its first 198 rows in order, then the 43
commands, then the 94 events. -/
inductive Instr where
  /-- ADD (R123): Adds lanes of a and b (or an immediate) modulo 2^n. -/
  | add (f : FmtG)
  /-- SUB (R123): Subtracts lanes of b (or an immediate) from a modulo 2^n. -/
  | sub (f : FmtG)
  /-- MUL (R123): Multiplies lanes modulo 2^n. -/
  | mul (f : FmtG)
  /-- MULH (R126): Delivers the high half of the exact signed or unsigned lane product. -/
  | mulh (f : FmtG)
  /-- MAD (R123): Computes a × b + c per lane modulo 2^n. -/
  | mad (f : FmtG)
  /-- DIV (R68): Divides lanes with truncation toward zero, with the defined divide-by-zero and MIN/−1 results. -/
  | div (f : FmtG)
  /-- REM (R68): Computes the lane remainder with the dividend's sign. -/
  | rem (f : FmtG)
  /-- MIN (R123): Delivers the smaller lane value, signed or unsigned by TY. -/
  | min (f : FmtG)
  /-- MAX (R123): Delivers the larger lane value, signed or unsigned by TY. -/
  | max (f : FmtG)
  /-- ABS (R123): Delivers the absolute value of each lane modulo 2^n. -/
  | abs (f : FmtG)
  /-- NEG (R123): Negates each lane modulo 2^n. -/
  | neg (f : FmtG)
  /-- AND (R123): Bitwise AND of lanes. -/
  | and (f : FmtG)
  /-- OR (R123): Bitwise OR of lanes. -/
  | or (f : FmtG)
  /-- XOR (R123): Bitwise XOR of lanes. -/
  | xor (f : FmtG)
  /-- ANDN (R123): Computes a AND NOT b per lane. -/
  | andn (f : FmtG)
  /-- NOT (R123): Inverts every bit of each lane. -/
  | not (f : FmtG)
  /-- SHL (R124): Shifts lanes left, giving 0 for counts at or above n. -/
  | shl (f : FmtG)
  /-- SHR (R124): Shifts lanes right with zero fill. -/
  | shr (f : FmtG)
  /-- SAR (R124): Shifts lanes right with copies of the top bit. -/
  | sar (f : FmtG)
  /-- ROTL (R124): Rotates lanes left by the count modulo n. -/
  | rotl (f : FmtG)
  /-- CLZ (R123): Counts leading zero bits of each lane. -/
  | clz (f : FmtG)
  /-- POPC (R123): Counts one bits of each lane. -/
  | popc (f : FmtG)
  /-- BREV (R123): Reverses the bits of each lane. -/
  | brev (f : FmtG)
  /-- BFX (R125): Extracts a bit field of each lane, sign- or zero-extended by TY. -/
  | bfx (f : FmtG)
  /-- BFI (R125): Inserts the low LEN bits of b into a at POS. -/
  | bfi (f : FmtG)
  /-- ADDS (R123): Adds lanes with clamping to the type's range. -/
  | adds (f : FmtG)
  /-- SUBS (R123): Subtracts lanes with clamping to the type's range. -/
  | subs (f : FmtG)
  /-- ADDC (R127): Adds lanes and a carry predicate, sending the sum to T0 and the carry-out predicate to T1. -/
  | addc (f : FmtG)
  /-- LEA (R123): Computes a + b × 2^shift modulo 2^64. -/
  | lea (f : FmtG)
  /-- SAD (R123): Adds the exact absolute difference of a and b to c modulo 2^n. -/
  | sad (f : FmtG)
  /-- AVG (R123): Computes the rounded-up average of two lanes exactly. -/
  | avg (f : FmtG)
  /-- CMP (R128): Compares integer lanes under a condition and sends a predicate token. -/
  | cmp (f : FmtG)
  /-- FCMP (R129): Compares floating lanes under a condition, raising NV as the table gives, and sends a predicate token. -/
  | fcmp (f : FmtG)
  /-- SEL (R130): Selects each lane from a or b by the predicate c. -/
  | sel (f : FmtG)
  /-- MOV (R132): Sends its a token unchanged to both targets. -/
  | mov (f : FmtG)
  /-- MOVI (R134): Sends a token whose lanes are set from the immediate according to TY. -/
  | movi (f : FmtI)
  /-- MOVHI (R135): Replaces the upper half of 64-bit lanes, or upper predicate bits, with the immediate. -/
  | movhi (f : FmtI)
  /-- NULL (R133): Sends a null token to both targets. -/
  | null (f : FmtG)
  /-- PAND (R131): ANDs two predicate tokens bit by bit. -/
  | pand (f : FmtG)
  /-- POR (R131): ORs two predicate tokens bit by bit. -/
  | por (f : FmtG)
  /-- PNOT (R131): Inverts a predicate token within its lane count. -/
  | pnot (f : FmtG)
  /-- TAGRD (R137): Sends the instance's tag or one tag field in every lane. -/
  | tagrd (f : FmtG)
  /-- LANE (R136): Sends base + k in lane k. -/
  | lane (f : FmtG)
  /-- BCAST (R138): Broadcasts lane j of a to every lane. -/
  | bcast (f : FmtG)
  /-- EXTL (R138): Moves lane j of a into lane 0 and zeroes the rest. -/
  | extl (f : FmtG)
  /-- INSL (R138): Inserts lane 0 of b into lane j of a. -/
  | insl (f : FmtG)
  /-- GETSR (R139): Reads a special register into every 64-bit lane, waiting to be oldest for flags and prng. -/
  | getsr (f : FmtG)
  /-- BR (R146): Fires a direct exit fixing the successor. -/
  | br (f : FmtX)
  /-- BRIND (R145): Fires an indirect exit to lane 0 of a, with ALIGNMENT on a bad address. -/
  | brind (f : FmtX)
  /-- CALL (R146): Fires a direct exit and sends the fall-through address to T0. -/
  | call (f : FmtX)
  /-- CALLI (R146): Fires an indirect call exit and sends the fall-through address. -/
  | calli (f : FmtX)
  /-- RET (R146): Fires a return exit to lane 0 of a. -/
  | ret (f : FmtX)
  /-- LOOP (R148): Fires the loop exit of a resident block, creating the next instance. -/
  | loop (f : FmtX)
  /-- HALT (R149): Fires the exit that ends the thread at its instance's commit. -/
  | halt (f : FmtX)
  /-- YIELD (R150): Fires a direct exit that resets the slot's fetch waiting age at commit. -/
  | yield (f : FmtX)
  /-- COMPOSE (R155): Seeks and reserves a new logical core of another width and changes the core at commit. -/
  | compose (f : FmtQ)
  /-- TRAP (R151): Fires an exit after whose commit the thread takes SW_TRAP and stops. -/
  | trap (f : FmtX)
  /-- SYS (R151): Fires an exit after whose commit the thread takes SYS_CALL and stops. -/
  | sys (f : FmtX)
  /-- SETSR (R144): Writes a special register from lane 0 of a, taking effect at commit. -/
  | setsr (f : FmtG)
  /-- HINT (R152): Starts a fetch of a block into the placement cache without creating an instance. -/
  | hint (f : FmtX)
  /-- BRKP (R153): Marks a breakpoint that stops the grid at commit when debug stops are enabled. -/
  | brkp (f : FmtX)
  /-- FADD (R161): Adds floating lanes with one rounding. -/
  | fadd (f : FmtG)
  /-- FSUB (R161): Subtracts floating lanes with one rounding. -/
  | fsub (f : FmtG)
  /-- FMUL (R161): Multiplies floating lanes with one rounding. -/
  | fmul (f : FmtG)
  /-- FMA (R163): Computes a × b + c exactly and rounds once. -/
  | fma (f : FmtG)
  /-- FMS (R163): Computes a × b − c exactly and rounds once. -/
  | fms (f : FmtG)
  /-- FNMA (R163): Computes −(a × b) + c exactly and rounds once. -/
  | fnma (f : FmtG)
  /-- FMIN (R57): Delivers the IEEE minimum of two floating lanes. -/
  | fmin (f : FmtG)
  /-- FMAX (R57): Delivers the IEEE maximum of two floating lanes. -/
  | fmax (f : FmtG)
  /-- FABS (R164): Clears the sign bit of each floating lane. -/
  | fabs (f : FmtG)
  /-- FNEG (R164): Inverts the sign bit of each floating lane. -/
  | fneg (f : FmtG)
  /-- FDIV (R161): Divides floating lanes, correctly rounded. -/
  | fdiv (f : FmtG)
  /-- FSQRT (R161): Takes the correctly rounded square root of each lane. -/
  | fsqrt (f : FmtG)
  /-- FRCP (R75): Computes the reciprocal by seed table and two Newton steps. -/
  | frcp (f : FmtG)
  /-- FRSQRT (R75): Computes the reciprocal square root by seed table and two Newton steps. -/
  | frsqrt (f : FmtG)
  /-- FEXP2 (R76): Computes 2^x by table and cubic. -/
  | fexp2 (f : FmtG)
  /-- FLOG2 (R77): Computes log2 x by table and polynomial. -/
  | flog2 (f : FmtG)
  /-- FTANH (R78): Computes tanh through Exp2Core. -/
  | ftanh (f : FmtG)
  /-- FSIG (R78): Computes the logistic sigmoid through Exp2Core. -/
  | fsig (f : FmtG)
  /-- FROUND (R166): Rounds each lane to an integral value in mode RM. -/
  | fround (f : FmtG)
  /-- FCLASS (R168): Sends a predicate of lanes whose class is selected by MASK. -/
  | fclass (f : FmtG)
  /-- FSCALE (R167): Computes a × 2^n with one rounding. -/
  | fscale (f : FmtG)
  /-- FDOT2 (R170): Sums pairs of f16 or b16 products and an addend into f32 lanes with one rounding. -/
  | fdot2 (f : FmtG)
  /-- FDOT4 (R170): Sums groups of four sd8 products and an addend into f32 lanes with one rounding. -/
  | fdot4 (f : FmtG)
  /-- FCLAMP (R165): Computes Minimum(Maximum(a, b), c) per lane. -/
  | fclamp (f : FmtG)
  /-- FCOPYSIGN (R164): Delivers the magnitude of a with the sign of b. -/
  | fcopysign (f : FmtG)
  /-- CVT (R173): Converts lanes between types, with an overflow predicate on T1. -/
  | cvt (f : FmtG)
  /-- CVTI (R174): Converts floating lanes to integers after a power-of-two shift. -/
  | cvti (f : FmtG)
  /-- CVTF (R174): Converts integer lanes to floating after a power-of-two shift. -/
  | cvtf (f : FmtG)
  /-- FMT (R171): Sends a format-and-scale token to operand f of its consumer on entering FIRING. -/
  | fmt (f : FmtP)
  /-- PACK (R176): Converts two tokens into one of half the element width. -/
  | pack (f : FmtG)
  /-- UNPACK (R177): Widens selected lanes of a to twice the width. -/
  | unpack (f : FmtG)
  /-- FMAXEXP (R178): Sends the largest true exponent of the finite nonzero lanes. -/
  | fmaxexp (f : FmtG)
  /-- PERM (R180): Permutes lanes by byte indices from b, from one or two sources. -/
  | perm (f : FmtG)
  /-- SHFL (R181): Moves lanes by a constant in rot, down, up or xor mode. -/
  | shfl (f : FmtG)
  /-- RED (R182): Reduces groups of lanes by the fixed pairwise tree. -/
  | red (f : FmtG)
  /-- SCAN (R183): Computes inclusive or exclusive prefix combinations over the tree. -/
  | scan (f : FmtG)
  /-- CMPR (R184): Compresses masked lanes to the bottom and sends their count. -/
  | cmpr (f : FmtG)
  /-- EXPD (R184): Expands consecutive lanes of a into masked positions. -/
  | expd (f : FmtG)
  /-- VOTE (R185): Evaluates any, all, uniform or count over predicate bits. -/
  | vote (f : FmtG)
  /-- ZIP (R186): Interleaves halves of two tokens. -/
  | zip (f : FmtG)
  /-- UNZIP (R186): De-interleaves two tokens into even or odd lanes. -/
  | unzip (f : FmtG)
  /-- LD (R233): Loads 64 bytes of global memory as a token, possibly speculatively. -/
  | ld (f : FmtM)
  /-- LDA (R269): Loads 64 bytes as an acquire at SCOPE. -/
  | lda (f : FmtM)
  /-- ST (R233): Resolves a store of lanes of b to global memory, performed at commit. -/
  | st (f : FmtM)
  /-- STL (R268): Resolves a store that is a release at SCOPE. -/
  | stl (f : FmtM)
  /-- LDG (R234): Gathers elements from base plus per-lane indices. -/
  | ldg (f : FmtM)
  /-- STG (R234): Resolves a scatter of elements to base plus per-lane indices. -/
  | stg (f : FmtM)
  /-- LDSP (R233): Loads 64 bytes from the group's scratchpad window. -/
  | ldsp (f : FmtM)
  /-- STSP (R280): Resolves a store into the scratchpad window. -/
  | stsp (f : FmtM)
  /-- SREAD (R239): Sends the next elements of a read stream. -/
  | sread (f : FmtM)
  /-- SWRITE (R240): Writes lanes to the next elements of a write stream at commit. -/
  | swrite (f : FmtM)
  /-- SCFG (R237): Checks, translates and latches a stream range and reports a status; the stream opens at commit. -/
  | scfg (f : FmtM)
  /-- SCLOSE (R241): Flushes and closes a stream at commit. -/
  | sclose (f : FmtM)
  /-- LDFWD (R243): Checks a forwarded load whose request issues at commit and whose reply goes to a mailbox or port stream. -/
  | ldfwd (f : FmtM)
  /-- PREF (R244): Brings a line into L1 or L2, never faulting. -/
  | pref (f : FmtM)
  /-- FENCE (R245): Places an acquire, release or full fence in LSID order. -/
  | fence (f : FmtM)
  /-- CWB (R246): Writes back owned lines of a range at commit to SCOPE's point. -/
  | cwb (f : FmtM)
  /-- CINV (R246): Writes back and invalidates lines of a range at commit. -/
  | cinv (f : FmtM)
  /-- ACOPY (R247): Checks a copy descriptor and reserves engine resources; the copy issues at commit. -/
  | acopy (f : FmtM)
  /-- ACOPY2 (R247): Checks and reserves a two-dimensional copy issued at commit. -/
  | acopy2 (f : FmtM)
  /-- ASHADOW (R255): Checks and allocates shadow frames for a buffer, opening the shadow at commit. -/
  | ashadow (f : FmtM)
  /-- APUB_PUBLISH (R256): Publishes a shadow at commit, swapping the buffer's mapping. -/
  | apubPublish (f : FmtM)
  /-- APUB_DISCARD (R256): Frees a shadow's frames and closes its handle at commit. -/
  | apubDiscard (f : FmtM)
  /-- APROBE (R254): Reads an entry of the copy-tag table. -/
  | aprobe (f : FmtM)
  /-- AGATHER (R247): Checks and reserves a row-gather copy issued at commit. -/
  | agather (f : FmtM)
  /-- AMO_ADD (R257): Atomically adds to an integer element. -/
  | amoAdd (f : FmtA)
  /-- AMO_FADD (R257): Atomically adds to a floating element with round to nearest. -/
  | amoFadd (f : FmtA)
  /-- AMO_MIN (R257): Atomically keeps the smaller integer. -/
  | amoMin (f : FmtA)
  /-- AMO_MAX (R257): Atomically keeps the larger integer. -/
  | amoMax (f : FmtA)
  /-- AMO_AND (R257): Atomically ANDs into an element. -/
  | amoAnd (f : FmtA)
  /-- AMO_OR (R257): Atomically ORs into an element. -/
  | amoOr (f : FmtA)
  /-- AMO_XOR (R257): Atomically XORs into an element. -/
  | amoXor (f : FmtA)
  /-- AMO_SWAP (R257): Atomically replaces an element. -/
  | amoSwap (f : FmtA)
  /-- AMO_CAS (R257): Atomically replaces an element if it equals c. -/
  | amoCas (f : FmtA)
  /-- AMO_INC (R257): Atomically increments with wrap at b. -/
  | amoInc (f : FmtA)
  /-- AMO_DEC (R257): Atomically decrements with wrap to b. -/
  | amoDec (f : FmtA)
  /-- MCFG (R206): Configures a tile's shape, CF and width, or drops it. -/
  | mcfg (f : FmtN)
  /-- MZERO (R207): Zeroes a tile and sets it live. -/
  | mzero (f : FmtN)
  /-- MMA (R208): Accumulates A and B panels into a tile over K-steps. -/
  | mma (f : FmtN)
  /-- MLD (R211): Fills a tile from global memory. -/
  | mld (f : FmtN)
  /-- MST (R211): Stores a tile to global memory at commit, optionally releasing it. -/
  | mst (f : FmtN)
  /-- MCTR (R212): Sets a counter unit's KTRIP and ROWTRIP and clears COUNT. -/
  | mctr (f : FmtN)
  /-- MBOUND (R213): Binds an operand value to KTRIP or ROWTRIP of a counter unit. -/
  | mbound (f : FmtN)
  /-- WBLOAD (R214): Copies records from global memory into the weight buffer with format tags. -/
  | wbload (f : FmtN)
  /-- MPUTA (R210): Delivers one K-step of A to the matching store. -/
  | mputa (f : FmtN)
  /-- MPUTB (R210): Delivers one K-step of B to the matching store. -/
  | mputb (f : FmtN)
  /-- MRED (R216): Reduces tile rows into a 16-lane token. -/
  | mred (f : FmtN)
  /-- MROW (R215): Reads 16 cells of a tile row into a token. -/
  | mrow (f : FmtN)
  /-- QPUSH (R358): Reserves data-queue space and writes the entry at commit. -/
  | qpush (f : FmtQ)
  /-- QPOP (R359): Reserves the oldest available data-queue entry and removes it at commit. -/
  | qpop (f : FmtQ)
  /-- QPEEK (R359): Reads an available data-queue entry without reserving it. -/
  | qpeek (f : FmtQ)
  /-- QINFO (R360): Reads one item of a queue live. -/
  | qinfo (f : FmtQ)
  /-- MBSEND (R361): Reserves a mailbox entry and delivers the message at commit. -/
  | mbsend (f : FmtQ)
  /-- MBRECV (R362): Reserves the oldest message of the highest masked priority and removes it at commit. -/
  | mbrecv (f : FmtQ)
  /-- MCPUT (R363): Reserves the ring's tail slot and writes it to members at commit. -/
  | mcput (f : FmtQ)
  /-- MCTAKE (R364): Takes the member's oldest ring slot and clears its bit at commit. -/
  | mctake (f : FmtQ)
  /-- LAUNCH (R339): Checks a launch record and reserves a queue entry; the record is written at commit. -/
  | launch (f : FmtQ)
  /-- KINFO (R342): Reads one item of a kernel. -/
  | kinfo (f : FmtQ)
  /-- SPAWN (R388): Reserves a deque entry; at commit increments the frame's child count and pushes the continuation. -/
  | spawn (f : FmtQ)
  /-- SYNC_WAIT (R389): Waits until a frame's child count is zero. -/
  | syncWait (f : FmtQ)
  /-- SYNC_NEXT (R390): Pops or steals the next task and decrements the frame count at commit. -/
  | syncNext (f : FmtQ)
  /-- EVWAIT (R391): Waits for a named event latch, clearing it when satisfied. -/
  | evwait (f : FmtQ)
  /-- EVSIG (R392): Checks an event number and sets the latch at commit. -/
  | evsig (f : FmtQ)
  /-- GINFO (R393): Reads one item of the thread's group. -/
  | ginfo (f : FmtQ)
  /-- BINIT_ALLOC (R402): Reserves a barrier number and allocates it at commit. -/
  | binitAlloc (f : FmtQ)
  /-- BINIT_FREE (R402): Checks a barrier handle and frees the barrier at commit. -/
  | binitFree (f : FmtQ)
  /-- ARRIVE (R403): Reserves an arrival in the current phase, counted at commit as a release. -/
  | arrive (f : FmtQ)
  /-- ARRIVE_DROP (R403): Reserves an arrival that also lowers EXPECTED from the next phase. -/
  | arriveDrop (f : FmtQ)
  /-- BWAIT (R404): Waits until a barrier phase is reached, as an acquire. -/
  | bwait (f : FmtQ)
  /-- FORK (R448): Checks and reserves a child revision, datum reserve and queue entry; forks at commit. -/
  | fork (f : FmtQ)
  /-- JOIN (R449): Waits for a child revision to be idle, reserves it and starts its merge at commit. -/
  | join (f : FmtQ)
  /-- RREGION_DECL (R450): Checks a region descriptor and declares the region at commit. -/
  | rregionDecl (f : FmtQ)
  /-- RREGION_DROP (R450): Drops a declared region at commit. -/
  | rregionDrop (f : FmtQ)
  /-- RINFO (R451): Reads one item of a revision or region. -/
  | rinfo (f : FmtQ)
  /-- TRVOPEN (R464): Checks a set descriptor, reserves a set number and locks the record area; the set opens at commit. -/
  | trvopen (f : FmtQ)
  /-- TRVPUT (R465): Reserves a slot; at commit the record is written and routed. -/
  | trvput (f : FmtQ)
  /-- TRVTAKE (R466): Reserves the oldest record of a stage queue as an acquire. -/
  | trvtake (f : FmtQ)
  /-- TRVDONE_PASS (R467): Gives a pass verdict for a taken record, routing or completing it at commit. -/
  | trvdonePass (f : FmtQ)
  /-- TRVDONE_DROP (R467): Gives a drop verdict at a FILTER stage, or TRAVERSE_CONFIG elsewhere. -/
  | trvdoneDrop (f : FmtQ)
  /-- TRVCLOSE_DRAIN (R468): Sends a traverse set to DRAINING at commit. -/
  | trvcloseDrain (f : FmtQ)
  /-- TRVCLOSE_ABORT (R459): Discards queued records and sends the set to DRAINING at commit. -/
  | trvcloseAbort (f : FmtQ)
  /-- TRVSTAT (R469): Reads one item of a traverse set live. -/
  | trvstat (f : FmtQ)
  /-- CTXQ (R312): Reads one item of the thread's context. -/
  | ctxq (f : FmtQ)
  /-- FREC (R313): Reads the eight words of a live fault record. -/
  | frec (f : FmtQ)
  /-- FRESUME_RESUME (R314): Reserves a fault record and resumes its thread at commit. -/
  | fresumeResume (f : FmtQ)
  /-- FRESUME_REDIRECT (R314): Reserves a fault record and redirects its thread to a block at commit. -/
  | fresumeRedirect (f : FmtQ)
  /-- FRESUME_END (R314): Reserves a fault record and ends its thread at commit. -/
  | fresumeEnd (f : FmtQ)
  /-- PGQ (R430): Reads the leaf that translates an address. -/
  | pgq (f : FmtQ)
  /-- PGADVISE_WILLNEED (R431): Raises advice-only page requests for absent pages of a range at commit. -/
  | pgadviseWillneed (f : FmtQ)
  /-- PGADVISE_TRANSLATE (R431): Fills translation caches for present pages of a range at commit. -/
  | pgadviseTranslate (f : FmtQ)
  /-- PGADVISE_EVICTBEHIND (R431): Sets EB on every leaf of a range at commit. -/
  | pgadviseEvictbehind (f : FmtQ)
  /-- PGADVISE_KEEP (R431): Clears EB on every leaf of a range at commit. -/
  | pgadviseKeep (f : FmtQ)
  /-- ACOLL (R487): Checks a collective descriptor and reserves an engine entry; issues at commit. -/
  | acoll (f : FmtQ)
  /-- LNKQ (R488): Reads one item of link or domain state. -/
  | lnkq (f : FmtQ)
  /-- STATION (R506): Reserves the context's next station, taken at commit. -/
  | station (f : FmtQ)
  /-- DMARK (R507): Writes a dmark trace record at commit when enabled. -/
  | dmark (f : FmtQ)
  /-- PROBE (R508): Reads one debug item of the thread. -/
  | probe (f : FmtQ)
  /-- CREATE (R288): Creates a context from FREE with a new generation and configuration. -/
  | create (c : CmdRec)
  /-- CONFIGURE (R288): Replaces an OPEN or SAVED context's configuration. -/
  | configure (c : CmdRec)
  /-- BIND (R369): Writes a bind record into the plat and binds the context's parcel. -/
  | bind (c : CmdRec)
  /-- RUN (R288): Enables dispatch for a BOUND context. -/
  | run (c : CmdRec)
  /-- UNBIND (R288): Clears a BOUND context's bind record. -/
  | unbind (c : CmdRec)
  /-- PREEMPT (R293): Starts source gating to save a running or frozen context. -/
  | preempt (c : CmdRec)
  /-- RESTORE (R300): Checks a save image and restores the context to BOUND or FROZEN. -/
  | restore (c : CmdRec)
  /-- FREEZE (R288): Gang-stops a running context into FROZEN. -/
  | freeze (c : CmdRec)
  /-- RESUME (R288): Applies an action to a live fault record of a frozen context, resuming it when the last is freed. -/
  | resume (c : CmdRec)
  /-- DUMP (R309): Requests a dump of a frozen context. -/
  | dump (c : CmdRec)
  /-- KILL (R311): Sends the context to KILLED and starts teardown. -/
  | kill (c : CmdRec)
  /-- DANSWER (R380): Answers a dispatch placement request with a placement list. -/
  | danswer (c : CmdRec)
  /-- LOAD (R323): Takes a kernel slot and begins loading and verifying a code object. -/
  | load (c : CmdRec)
  /-- UNLOAD (R325): Unloads a kernel or marks it DRAINING. -/
  | unload (c : CmdRec)
  /-- QCREATE (R347): Allocates a queue number in UNBOUND from a descriptor. -/
  | qcreate (c : CmdRec)
  /-- QOPEN (R347): Opens a queue, locking entry pages or reserving ring slots. -/
  | qopen (c : CmdRec)
  /-- QDRAIN (R347): Moves an OPEN queue to DRAINING. -/
  | qdrain (c : CmdRec)
  /-- QCLOSE (R347): Closes a queue, discarding remaining entries. -/
  | qclose (c : CmdRec)
  /-- QDESTROY (R347): Destroys a queue, unlocking pages and freeing its number. -/
  | qdestroy (c : CmdRec)
  /-- QQUERY (R346): Returns a queue's head and tail. -/
  | qquery (c : CmdRec)
  /-- BALLOC (R400): Allocates a barrier from a configuration word. -/
  | balloc (c : CmdRec)
  /-- BFREE (R400): Frees a barrier. -/
  | bfree (c : CmdRec)
  /-- BQUERY (R400): Returns a barrier's phase, arrivals and expected count. -/
  | bquery (c : CmdRec)
  /-- PUNMAP (R426): Unmaps a page, completing once no cache holds it. -/
  | punmap (c : CmdRec)
  /-- PMIGRATE (R425): Migrates a page to a new frame. -/
  | pmigrate (c : CmdRec)
  /-- PEVICT (R426): Evicts a page to its backing address. -/
  | pevict (c : CmdRec)
  /-- PSPLIT (R428): Splits a large leaf into small leaves. -/
  | psplit (c : CmdRec)
  /-- PPIN (R419): Sets PIN on a page, locking it. -/
  | ppin (c : CmdRec)
  /-- PUNPIN (R419): Clears PIN on a page. -/
  | punpin (c : CmdRec)
  /-- PDOMAIN (R414): Changes a region's PDID and clears stale PLB entries. -/
  | pdomain (c : CmdRec)
  /-- RSYNC (R414): Clears a context's PLB entries after a rights-table change. -/
  | rsync (c : CmdRec)
  /-- PANSWER (R420): Answers a page request with success or failure. -/
  | panswer (c : CmdRec)
  /-- PSTOCK (R419): Adds a list of frames to the package frame pool. -/
  | pstock (c : CmdRec)
  /-- MANSWER (R446): Writes the host's results for a reporting region and continues the merge. -/
  | manswer (c : CmdRec)
  /-- GRESUME (R489): Lifts single-grid stops or a frozen context's gang stop and ends BREAKPOINT records. -/
  | gresume (c : CmdRec)
  /-- LOGCFG (R494): Configures and locks the undo log. -/
  | logcfg (c : CmdRec)
  /-- LOGTRIM (R498): Frees undo-log windows older than a station. -/
  | logtrim (c : CmdRec)
  /-- REVERSE_TO_STATION (R501): Undoes log entries back to a station marker, or refuses with NO_WINDOW or MONUMENT. -/
  | reverseToStation (c : CmdRec)
  /-- REVERSE_BLOCK (R502): Undoes one thread's last committed instance, or refuses. -/
  | reverseBlock (c : CmdRec)
  /-- TRCFG (R491): Configures the trace buffer and its enables. -/
  | trcfg (c : CmdRec)
  /-- RECORD (R503): Sets the record, replay or live mode and the recording buffer. -/
  | record (c : CmdRec)
  /-- DBGMATCH (R492): Sets one of the four debug comparators. -/
  | dbgmatch (c : CmdRec)
  /-- CUTREAD (R493): Writes the cut records of a gang stop to a destination. -/
  | cutread (c : CmdRec)
  /-- FETCH_OPPORTUNITY (R41): The block controller begins a fetch for the ready slot chosen by age and starvation. -/
  | fetchOpportunity
  /-- FETCH_COMPLETE (R27): The header and every chunk of an instance are present and the instance enters PLACING, or CODE_ECC or CODE_INTEGRITY is made pending. -/
  | fetchComplete
  /-- FILL_DELIVERY (R328): A placement-cache fill reads, places once and multicasts a block to every joined grid. -/
  | fillDelivery
  /-- CODE_PAGE_VERIFICATION (R332): The SHA-384 of a code page completes and is compared with its manifest digest, releasing or failing waiting fills. -/
  | codePageVerification
  /-- INSTANCE_PLACE (R109): Placement checks run and, with a free plane, the instance enters FIRING with read-entry values injected. -/
  | instancePlace
  /-- TOKEN_DELIVERY (R91): A token reaches an operand or write entry of an instance. -/
  | tokenDelivery
  /-- BLOCK_COMMIT (R28): A complete, quiescent, oldest instance performs its register writes, stores, flags and log entries as one step. -/
  | blockCommit
  /-- EXIT_MISPREDICT (R31): A resolved exit that differs from the prediction flushes younger instances and restarts fetch. -/
  | exitMispredict
  /-- PREDICTOR_ENTRY_CLEAR (R34): A dependence predictor entry clears after 2^20 commits without a violation. -/
  | predictorEntryClear
  /-- WATCHDOG_EXPIRY (R29): An instance's watchdog reaches wdog and BLOCK_INCOMPLETE becomes pending. -/
  | watchdogExpiry
  /-- SLOT_WAIT_ENTRY (R37): A bounded wait of the oldest instance unsatisfied for 1,024 cycles puts the slot in WAIT. -/
  | slotWaitEntry
  /-- SLOT_RETENTION (R37): A slot held 16,384 cycles in WAIT or PAGE puts its banks into retention. -/
  | slotRetention
  /-- WAIT_LIMIT_EXPIRY (R356): A bounded wait's limit expires, giving status 1 or the timeout fault. -/
  | waitLimitExpiry
  /-- OVERFLOW_REINJECT (R47): Overflowed tokens are reinjected in tag order as operand slots free. -/
  | overflowReinject
  /-- THERMAL_THRESHOLD (R51): A grid's temperature passes its threshold and slot disabling begins. -/
  | thermalThreshold
  /-- THERMAL_SLOT_DISABLE (R51): Every 10 µs the hot grid disables its highest-numbered occupied slot. -/
  | thermalSlotDisable
  /-- THERMAL_SLOT_ENABLE (R51): Every 10 µs a slot is enabled again once the grid is 5 °C below threshold. -/
  | thermalSlotEnable
  /-- DISPLACED_MOVE (R51): A thread in DISPLACED is moved when a qualifying set frees. -/
  | displacedMove
  /-- THERMAL_RANKING_REFRESH (R376): The field controller refreshes the thermal ranking table every 100 µs. -/
  | thermalRankingRefresh
  /-- STEAL (R386): A thief's steal request is served at a victim deque in arrival order. -/
  | steal
  /-- MATRIX_STEP_START (R198): A matrix step whose resource conditions hold is checked, locks its pages and starts on the array. -/
  | matrixStepStart
  /-- MATRIX_STEP_FINISH (R203): A matrix step finishes, sends its completion token, and raises DATA_ECC if data was bad. -/
  | matrixStepFinish
  /-- WBLOAD_STEP_START (R200): A wbload step starts once its instance is oldest and otherwise complete. -/
  | wbloadStepStart
  /-- PAIR_MULTIPLY_PHASE (R210): A matched mputa and mputb pair forms its exact K-step sums in a matching-store entry. -/
  | pairMultiplyPhase
  /-- PAIR_ACCUMULATE_PHASE (R210): A pair's held sums are added into the tile in tag order. -/
  | pairAccumulatePhase
  /-- ATOMIC_EARLY_PERFORM (R258): A value-returning or acquire atomic is performed once its instance is oldest and its conditions hold. -/
  | atomicEarlyPerform
  /-- RELEASE_PERFORM (R268): After prior writes reach the scope's point, the release write is performed beyond GRID scope. -/
  | releasePerform
  /-- SCRATCHPAD_STORE_ARRIVAL (R280): A scratchpad store sent to another core grid is performed and acknowledged on arrival. -/
  | scratchpadStoreArrival
  /-- STREAM_HANDOVER (R238): A hand-over token returns after the old write stream flushes and closes, letting the new stream open. -/
  | streamHandover
  /-- LDFWD_REPLY_DELIVERY (R243): A forwarded-load reply reaches its mailbox or port stream, or is discarded. -/
  | ldfwdReplyDelivery
  /-- MAILBOX_DELIVERY (R352): A waiting engine or ldfwd delivery takes a freed mailbox entry. -/
  | mailboxDelivery
  /-- COPY_COMPLETION (R250): A copy engine copy retires, clears its scoreboard range and sends its completion with a status. -/
  | copyCompletion
  /-- SHADOW_PUBLICATION (R256): After earlier copies retire, publication stalls, invalidates, swaps the mapping and lifts the stall. -/
  | shadowPublication
  /-- COLLECTIVE_COMPLETION (R486): A collective finishes across members and its completion is delivered as a DOMAIN release. -/
  | collectiveCompletion
  /-- DISPATCH_REMOVE (R371): The dispatcher removes and validates a launch record, forming a GATED or QUEUED group. -/
  | dispatchRemove
  /-- GROUP_LEVEL_RISE (R375): A QUEUED group's level rises by one per 2^16 cycles of waiting. -/
  | groupLevelRise
  /-- GROUP_DISPATCH (R376): A chosen group is placed, its resources reserved and its threads started. -/
  | groupDispatch
  /-- GROUP_RETIRE (R383): A DRAINING group retires once its requests, releases and completions are done, completing its record. -/
  | groupRetire
  /-- BARRIER_ENGINE_ARRIVAL (R399): An engine completion of KIND 0x3 counts an arrival, waits for a full phase, or is dropped if stale. -/
  | barrierEngineArrival
  /-- GATING_WINDOW_END (R293): After 4,096 cycles of source gating, uncommitted instances are flushed except those of R294. -/
  | gatingWindowEnd
  /-- QUIESCENCE_SWEEP (R295): A sweep reads every in-flight count and reports quiescence after two consecutive zero sweeps. -/
  | quiescenceSweep
  /-- SAVE_IMAGE_WRITTEN (R297): The save image is written and the context enters SAVED, or FAULTED if the write fails. -/
  | saveImageWritten
  /-- DUMP_START (R309): The dump engine becomes idle and starts dumping the next queued context. -/
  | dumpStart
  /-- DUMP_COMPLETE (R309): A dump finishes or ends with DUMP_INCOMPLETE and the context returns to FROZEN. -/
  | dumpComplete
  /-- TEARDOWN_COMPLETE (R311): KILL teardown completes and the context enters FREE. -/
  | teardownComplete
  /-- LOAD_CHECKS_COMPLETE (R325): A LOADING kernel's header, manifest and signature checks finish, making it RESIDENT or UNLOADED. -/
  | loadChecksComplete
  /-- HOST_APPEND (R349): A host 64-byte write to the append aperture is appended at a queue tail or dropped. -/
  | hostAppend
  /-- QUEUE_STORAGE_ECC (R347): An uncorrectable error in queue entry memory or slot storage sends the queue to FAULTED. -/
  | queueStorageEcc
  /-- STAGE_LAUNCH_APPEND (R457): The router appends a stage's launch template when launch-queue room allows, or withdraws it. -/
  | stageLaunchAppend
  /-- MERGE_COMPLETE (R443): A join's merge finishes and the revision enters JOINED, returning frames and reserve. -/
  | mergeComplete
  /-- RID_FREE (R442): A JOINED revision's lines are written back and invalidated and its RID and RNUM are freed. -/
  | ridFree
  /-- DRAIN_TOKEN_EMERGE (R422): An address generator finishes its in-flight reads and flushes for a page, suspends its latch and passes the drain token. -/
  | drainTokenEmerge
  /-- MIGRATION_COMPLETE (R425): A page migration's copy and drains finish and the new frame is installed with re-latch tokens. -/
  | migrationComplete
  /-- EVICTION_COMPLETE (R426): An unmap or eviction finishes and the leaf becomes ABSENT. -/
  | evictionComplete
  /-- SPLIT_COMPLETE (R428): A split's drains finish and the small leaves become PRESENT or LOCKED. -/
  | splitComplete
  /-- STATION_MARKER (R497): After pre-station writes are performed, a marker enters every log segment and commits resume. -/
  | stationMarker
  /-- LOG_DRAIN (R498): The drain engine copies an old window to the drain target and frees its chunks. -/
  | logDrain
  /-- TIME_PACKET (R491): Every 4,096 cycles a grid writes a time packet while tracing is enabled. -/
  | timePacket
  /-- LIFETIME_RECORD_WRITE (R505): Lifetime counters are written to non-volatile storage every 60 minutes. -/
  | lifetimeRecordWrite
  /-- FLIT_RECEIVE (R477): A Wolux flit arrives and is accepted in order or refused for replay. -/
  | flitReceive
  /-- PORT_TRAINING_DONE (R478): Lane training ends and the port becomes UP, DEGRADED or FAILED. -/
  | portTrainingDone
  /-- LANE_ERROR_DEGRADE (R478): A lane error rate above threshold narrows an UP port to DEGRADED. -/
  | laneErrorDegrade
  /-- PORT_ENABLE (R478): The host enables a Wolux port, which starts training. -/
  | portEnable
  /-- PORT_DISABLE (R478): The host disables a port and its outstanding requests are rerouted or fail. -/
  | portDisable
  /-- ISOLATE (R480): The host isolates a port, which carries only PTP and management flits. -/
  | isolate
  /-- RELEASE (R478): The host releases an isolated port back to training. -/
  | release
  /-- LINK_TIMEOUT (R479): A remote request or acknowledgement unanswered after LNK_TMO ends with LINK_LOST or status 4. -/
  | linkTimeout
  /-- PTP_SYNC (R484): A timestamped PTP message adjusts the nanosecond counter by slewing. -/
  | ptpSync
  /-- CXL_SNOOP (R475): A host snoop is answered by reverse translation, writing back and invalidating a held line. -/
  | cxlSnoop
  /-- HOST_CXL_MEM_WRITE (R476): A host CXL.mem write to local HBM is performed at the home slice, or dropped for protected pages. -/
  | hostCxlMemWrite
  /-- HOST_CXL_MEM_READ (R278): A host CXL.mem read of device memory is served at the local home slice. -/
  | hostCxlMemRead
  /-- BACK_INVALIDATE_COMPLETE (R476): A back-invalidate snoop completes and the device performs its waiting write. -/
  | backInvalidateComplete
  /-- IMEAS_SAMPLE (R514): Every 1 µs the field current is sampled, applying dispatch hold, throttling or regulator trip. -/
  | imeasSample
  /-- VOLTAGE_DROOP (R515): A voltage droop makes a field's PLL relock, taking its bridges to 6 cycles. -/
  | voltageDroop
  /-- PLL_LOCK (R515): A field's PLL locks and its bridges return to 3-cycle mesochronous crossing. -/
  | pllLock
  /-- THERMAL_TRIP (R518): Junction temperature reaching 115 °C powers every island down. -/
  | thermalTrip
  /-- POWER_ON (R516): Power-on starts bring-up at step 1. -/
  | powerOn
  /-- BRINGUP_STEP_COMPLETE (R516): A bring-up step sets its status bit and the next step starts. -/
  | bringupStepComplete
  /-- BRINGUP_TIMEOUT (R516): A bring-up step times out, ending fatally or proceeding as its row gives. -/
  | bringupTimeout
  /-- POWER_DOWN (R516): An orderly power-down runs bring-up in reverse with fields powered off F7 to F0. -/
  | powerDown
  /-- GET_VERSION (R520): SPDM GET_VERSION request is answered. -/
  | getVersion
  /-- GET_CAPABILITIES (R520): SPDM GET_CAPABILITIES request is answered. -/
  | getCapabilities
  /-- NEGOTIATE_ALGORITHMS (R520): SPDM NEGOTIATE_ALGORITHMS request is answered with P-384 and SHA-384. -/
  | negotiateAlgorithms
  /-- GET_DIGESTS (R520): SPDM GET_DIGESTS request is answered. -/
  | getDigests
  /-- GET_CERTIFICATE (R520): SPDM GET_CERTIFICATE request is answered. -/
  | getCertificate
  /-- CHALLENGE (R520): SPDM CHALLENGE request is signed with the device identity key. -/
  | challenge
  /-- GET_MEASUREMENTS (R520): SPDM GET_MEASUREMENTS returns the five measurements. -/
  | getMeasurements
  /-- SPDM_UNSUPPORTED_REQUEST (R520): Any other SPDM request receives an unsupported-request error. -/
  | spdmUnsupportedRequest
  /-- ISL_ILIM_WRITE (R513): A write to ISL_ILIM clamps LIMIT to 100 to 1,200 A, effective at the next sample. -/
  | islIlimWrite
  /-- ISL_IMEAS_READ (R513): A read of ISL_IMEAS returns PEAK and clears it. -/
  | islImeasRead
  /-- REQ_HEAD_WRITE (R291): A write to REQ_HEAD frees request-queue space so held requests are raised. -/
  | reqHeadWrite
  /-- MGMT_REGISTER_WRITE (R521): A write to another management register stores, clamps or ignores the value. -/
  | mgmtRegisterWrite
  /-- PARTIAL_APERTURE_WRITE (R285): A partial or misaligned host write to the command aperture is dropped without effect. -/
  | partialApertureWrite
  /-- ENGINE_PAGE_WAIT (R250): A running copy engine reaches an absent page, raises or joins a page request, and waits for the page service. -/
  | enginePageWait
deriving DecidableEq, Repr

end Sys2Proof
end

