-- ==== Sys2Proof/Decode.lean ====
section
/-!
DEFINITION. The decoder and the encoder: instruction words of 64 bits (04 R92-R107) and command records of 64 bytes
(10 R285). Decoding keeps every field of the word; which field values are permitted is `Instr.wf` (WellFormed.lean).
Events have no encoding.
-/

namespace Sys2Proof

/-- Why a word or a record is no instruction. -/
inductive DecErr where
  /-- A word that is zero in all 64 bits (04 R92): an empty slot, no instruction. -/
  | emptySlot
  /-- OP 0x00 in a non-empty word, or OP 0xFF (04 R109 check 8, R111). -/
  | illegalOpcode
  /-- A reserved opcode, a dot of the map (04 R109 check 9). -/
  | reservedOpcode
  /-- A SUB or KIND that the opcode does not define (04 R109 check 12). -/
  | undefinedAction
  /-- A command code that no table of commands lists (10 R284). -/
  | unknownCommand
deriving DecidableEq, Repr

/-- What a decoder answers. -/
inductive Decoded where
  | ok (i : Instr)
  | err (e : DecErr)
deriving DecidableEq, Repr

/-- Bits [63:56] of an instruction word (04 R92). -/
def opOf (w : Word) : BitVec 8 := w.extractLsb' 56 8

/-- The fields of a word of format G (04 R93). -/
def unpackG (w : Word) : FmtG :=
  { stg := w.extractLsb' 53 3, pr := w.extractLsb' 51 2, ty := w.extractLsb' 47 4, fzi := w.extractLsb' 46 1, fzo := w.extractLsb' 45 1, rm := w.extractLsb' 43 2, t0 := w.extractLsb' 31 12, t1 := w.extractLsb' 19 12, x := w.extractLsb' 0 19 }

/-- The fields of a word of format I (04 R94). -/
def unpackI (w : Word) : FmtI :=
  { stg := w.extractLsb' 53 3, pr := w.extractLsb' 51 2, ty := w.extractLsb' 47 4, t0 := w.extractLsb' 35 12, imm := w.extractLsb' 0 35 }

/-- The fields of a word of format M (04 R95). -/
def unpackM (w : Word) : FmtM :=
  { stg := w.extractLsb' 53 3, pr := w.extractLsb' 51 2, ty := w.extractLsb' 47 4, lsid := w.extractLsb' 42 5, scope := w.extractLsb' 39 3, t0 := w.extractLsb' 27 12, offs := w.extractLsb' 0 27 }

/-- The fields of a word of format A (04 R96). -/
def unpackA (w : Word) : FmtA :=
  { stg := w.extractLsb' 53 3, pr := w.extractLsb' 51 2, ty := w.extractLsb' 47 4, lsid := w.extractLsb' 42 5, scope := w.extractLsb' 39 3, ord := w.extractLsb' 37 2, t0 := w.extractLsb' 25 12, offs := w.extractLsb' 0 25 }

/-- The fields of a word of format X (04 R97). -/
def unpackX (w : Word) : FmtX :=
  { stg := w.extractLsb' 53 3, pr := w.extractLsb' 51 2, exit := w.extractLsb' 48 3, xk := w.extractLsb' 46 2, t0 := w.extractLsb' 34 12, offs := w.extractLsb' 0 34 }

/-- The fields of a word of format N (04 R98). -/
def unpackN (w : Word) : FmtN :=
  { stg := w.extractLsb' 53 3, pr := w.extractLsb' 51 2, af := w.extractLsb' 47 4, bf := w.extractLsb' 43 4, cf := w.extractLsb' 41 2, tile := w.extractLsb' 40 1, ksteps := w.extractLsb' 34 6, sparse := w.extractLsb' 32 2, t0 := w.extractLsb' 20 12, x := w.extractLsb' 0 20 }

/-- The fields of a word of format Q (04 R99). -/
def unpackQ (w : Word) : FmtQ :=
  { stg := w.extractLsb' 53 3, pr := w.extractLsb' 51 2, sub := w.extractLsb' 47 4, limit := w.extractLsb' 35 12, t0 := w.extractLsb' 23 12, t1 := w.extractLsb' 11 12, imm := w.extractLsb' 0 11 }

/-- The fields of a word of format P (04 R100). -/
def unpackP (w : Word) : FmtP :=
  { stg := w.extractLsb' 53 3, pr := w.extractLsb' 51 2, fmt := w.extractLsb' 47 4, scale := w.extractLsb' 39 8, t0 := w.extractLsb' 27 12, rest := w.extractLsb' 0 27 }

/-- The word of format G with an opcode and fields (04 R93). -/
def packG (op : BitVec 8) (f : FmtG) : Word :=
  op ++ f.stg ++ f.pr ++ f.ty ++ f.fzi ++ f.fzo ++ f.rm ++ f.t0 ++ f.t1 ++ f.x

/-- The word of format I with an opcode and fields (04 R94). -/
def packI (op : BitVec 8) (f : FmtI) : Word :=
  op ++ f.stg ++ f.pr ++ f.ty ++ f.t0 ++ f.imm

/-- The word of format M with an opcode and fields (04 R95). -/
def packM (op : BitVec 8) (f : FmtM) : Word :=
  op ++ f.stg ++ f.pr ++ f.ty ++ f.lsid ++ f.scope ++ f.t0 ++ f.offs

/-- The word of format A with an opcode and fields (04 R96). -/
def packA (op : BitVec 8) (f : FmtA) : Word :=
  op ++ f.stg ++ f.pr ++ f.ty ++ f.lsid ++ f.scope ++ f.ord ++ f.t0 ++ f.offs

/-- The word of format X with an opcode and fields (04 R97). -/
def packX (op : BitVec 8) (f : FmtX) : Word :=
  op ++ f.stg ++ f.pr ++ f.exit ++ f.xk ++ f.t0 ++ f.offs

/-- The word of format N with an opcode and fields (04 R98). -/
def packN (op : BitVec 8) (f : FmtN) : Word :=
  op ++ f.stg ++ f.pr ++ f.af ++ f.bf ++ f.cf ++ f.tile ++ f.ksteps ++ f.sparse ++ f.t0 ++ f.x

/-- The word of format Q with an opcode and fields (04 R99). -/
def packQ (op : BitVec 8) (f : FmtQ) : Word :=
  op ++ f.stg ++ f.pr ++ f.sub ++ f.limit ++ f.t0 ++ f.t1 ++ f.imm

/-- The word of format P with an opcode and fields (04 R100). -/
def packP (op : BitVec 8) (f : FmtP) : Word :=
  op ++ f.stg ++ f.pr ++ f.fmt ++ f.scale ++ f.t0 ++ f.rest

/-- Decode an instruction word by the opcode map (04 R106-R107). -/
def decodeWord (w : Word) : Decoded :=
  if w = 0#64 then .err .emptySlot
  else
    match (opOf w).toNat with
    | 0x00 => .err .illegalOpcode
    | 0xFF => .err .illegalOpcode
    | 0x01 => .ok (.add (unpackG w))
    | 0x02 => .ok (.sub (unpackG w))
    | 0x03 => .ok (.mul (unpackG w))
    | 0x04 => .ok (.mulh (unpackG w))
    | 0x05 => .ok (.mad (unpackG w))
    | 0x06 => .ok (.div (unpackG w))
    | 0x07 => .ok (.rem (unpackG w))
    | 0x08 => .ok (.min (unpackG w))
    | 0x09 => .ok (.max (unpackG w))
    | 0x0A => .ok (.abs (unpackG w))
    | 0x0B => .ok (.neg (unpackG w))
    | 0x0C => .ok (.and (unpackG w))
    | 0x0D => .ok (.or (unpackG w))
    | 0x0E => .ok (.xor (unpackG w))
    | 0x0F => .ok (.andn (unpackG w))
    | 0x10 => .ok (.not (unpackG w))
    | 0x11 => .ok (.shl (unpackG w))
    | 0x12 => .ok (.shr (unpackG w))
    | 0x13 => .ok (.sar (unpackG w))
    | 0x14 => .ok (.rotl (unpackG w))
    | 0x15 => .ok (.clz (unpackG w))
    | 0x16 => .ok (.popc (unpackG w))
    | 0x17 => .ok (.brev (unpackG w))
    | 0x18 => .ok (.bfx (unpackG w))
    | 0x19 => .ok (.bfi (unpackG w))
    | 0x1A => .ok (.adds (unpackG w))
    | 0x1B => .ok (.subs (unpackG w))
    | 0x1C => .ok (.addc (unpackG w))
    | 0x1D => .ok (.lea (unpackG w))
    | 0x1E => .ok (.sad (unpackG w))
    | 0x1F => .ok (.avg (unpackG w))
    | 0x20 => .ok (.cmp (unpackG w))
    | 0x21 => .ok (.fcmp (unpackG w))
    | 0x22 => .ok (.sel (unpackG w))
    | 0x23 => .ok (.mov (unpackG w))
    | 0x24 => .ok (.movi (unpackI w))
    | 0x25 => .ok (.movhi (unpackI w))
    | 0x26 => .ok (.null (unpackG w))
    | 0x27 => .ok (.pand (unpackG w))
    | 0x28 => .ok (.por (unpackG w))
    | 0x29 => .ok (.pnot (unpackG w))
    | 0x2A => .ok (.tagrd (unpackG w))
    | 0x2B => .ok (.lane (unpackG w))
    | 0x2C => .ok (.bcast (unpackG w))
    | 0x2D => .ok (.extl (unpackG w))
    | 0x2E => .ok (.insl (unpackG w))
    | 0x2F => .ok (.getsr (unpackG w))
    | 0x30 => .ok (.br (unpackX w))
    | 0x31 => .ok (.brind (unpackX w))
    | 0x32 => .ok (.call (unpackX w))
    | 0x33 => .ok (.calli (unpackX w))
    | 0x34 => .ok (.ret (unpackX w))
    | 0x35 => .ok (.loop (unpackX w))
    | 0x36 => .ok (.halt (unpackX w))
    | 0x37 => .ok (.yield (unpackX w))
    | 0x38 => .ok (.compose (unpackQ w))
    | 0x39 => .ok (.trap (unpackX w))
    | 0x3A => .ok (.sys (unpackX w))
    | 0x3B => .ok (.setsr (unpackG w))
    | 0x3C => .ok (.hint (unpackX w))
    | 0x3D => .ok (.brkp (unpackX w))
    | 0x40 => .ok (.fadd (unpackG w))
    | 0x41 => .ok (.fsub (unpackG w))
    | 0x42 => .ok (.fmul (unpackG w))
    | 0x43 => .ok (.fma (unpackG w))
    | 0x44 => .ok (.fms (unpackG w))
    | 0x45 => .ok (.fnma (unpackG w))
    | 0x46 => .ok (.fmin (unpackG w))
    | 0x47 => .ok (.fmax (unpackG w))
    | 0x48 => .ok (.fabs (unpackG w))
    | 0x49 => .ok (.fneg (unpackG w))
    | 0x4A => .ok (.fdiv (unpackG w))
    | 0x4B => .ok (.fsqrt (unpackG w))
    | 0x4C => .ok (.frcp (unpackG w))
    | 0x4D => .ok (.frsqrt (unpackG w))
    | 0x4E => .ok (.fexp2 (unpackG w))
    | 0x4F => .ok (.flog2 (unpackG w))
    | 0x50 => .ok (.ftanh (unpackG w))
    | 0x51 => .ok (.fsig (unpackG w))
    | 0x52 => .ok (.fround (unpackG w))
    | 0x53 => .ok (.fclass (unpackG w))
    | 0x54 => .ok (.fscale (unpackG w))
    | 0x55 => .ok (.fdot2 (unpackG w))
    | 0x56 => .ok (.fdot4 (unpackG w))
    | 0x57 => .ok (.fclamp (unpackG w))
    | 0x58 => .ok (.fcopysign (unpackG w))
    | 0x60 => .ok (.cvt (unpackG w))
    | 0x61 => .ok (.cvti (unpackG w))
    | 0x62 => .ok (.cvtf (unpackG w))
    | 0x63 => .ok (.fmt (unpackP w))
    | 0x64 => .ok (.pack (unpackG w))
    | 0x65 => .ok (.unpack (unpackG w))
    | 0x66 => .ok (.fmaxexp (unpackG w))
    | 0x70 => .ok (.perm (unpackG w))
    | 0x71 => .ok (.shfl (unpackG w))
    | 0x72 => .ok (.red (unpackG w))
    | 0x73 => .ok (.scan (unpackG w))
    | 0x74 => .ok (.cmpr (unpackG w))
    | 0x75 => .ok (.expd (unpackG w))
    | 0x76 => .ok (.vote (unpackG w))
    | 0x77 => .ok (.zip (unpackG w))
    | 0x78 => .ok (.unzip (unpackG w))
    | 0x80 => .ok (.ld (unpackM w))
    | 0x81 => .ok (.lda (unpackM w))
    | 0x82 => .ok (.st (unpackM w))
    | 0x83 => .ok (.stl (unpackM w))
    | 0x84 => .ok (.ldg (unpackM w))
    | 0x85 => .ok (.stg (unpackM w))
    | 0x86 => .ok (.ldsp (unpackM w))
    | 0x87 => .ok (.stsp (unpackM w))
    | 0x88 => .ok (.sread (unpackM w))
    | 0x89 => .ok (.swrite (unpackM w))
    | 0x8A => .ok (.scfg (unpackM w))
    | 0x8B => .ok (.sclose (unpackM w))
    | 0x8C => .ok (.ldfwd (unpackM w))
    | 0x8D => .ok (.pref (unpackM w))
    | 0x8E => .ok (.fence (unpackM w))
    | 0x8F => .ok (.cwb (unpackM w))
    | 0x90 => .ok (.cinv (unpackM w))
    | 0x91 => .ok (.acopy (unpackM w))
    | 0x92 => .ok (.acopy2 (unpackM w))
    | 0x93 => .ok (.ashadow (unpackM w))
    | 0x94 => match (unpackM w).ty.toNat with
      | 0 => .ok (.apubPublish (unpackM w))
      | 1 => .ok (.apubDiscard (unpackM w))
      | _ => .err .undefinedAction
    | 0x95 => .ok (.aprobe (unpackM w))
    | 0x96 => .ok (.agather (unpackM w))
    | 0xA0 => .ok (.amoAdd (unpackA w))
    | 0xA1 => .ok (.amoFadd (unpackA w))
    | 0xA2 => .ok (.amoMin (unpackA w))
    | 0xA3 => .ok (.amoMax (unpackA w))
    | 0xA4 => .ok (.amoAnd (unpackA w))
    | 0xA5 => .ok (.amoOr (unpackA w))
    | 0xA6 => .ok (.amoXor (unpackA w))
    | 0xA7 => .ok (.amoSwap (unpackA w))
    | 0xA8 => .ok (.amoCas (unpackA w))
    | 0xA9 => .ok (.amoInc (unpackA w))
    | 0xAA => .ok (.amoDec (unpackA w))
    | 0xB0 => .ok (.mcfg (unpackN w))
    | 0xB1 => .ok (.mzero (unpackN w))
    | 0xB2 => .ok (.mma (unpackN w))
    | 0xB3 => .ok (.mld (unpackN w))
    | 0xB4 => .ok (.mst (unpackN w))
    | 0xB5 => .ok (.mctr (unpackN w))
    | 0xB6 => .ok (.mbound (unpackN w))
    | 0xB7 => .ok (.wbload (unpackN w))
    | 0xB8 => .ok (.mputa (unpackN w))
    | 0xB9 => .ok (.mputb (unpackN w))
    | 0xBA => .ok (.mred (unpackN w))
    | 0xBB => .ok (.mrow (unpackN w))
    | 0xC0 => .ok (.qpush (unpackQ w))
    | 0xC1 => .ok (.qpop (unpackQ w))
    | 0xC2 => .ok (.qpeek (unpackQ w))
    | 0xC3 => .ok (.qinfo (unpackQ w))
    | 0xC4 => .ok (.mbsend (unpackQ w))
    | 0xC5 => .ok (.mbrecv (unpackQ w))
    | 0xC6 => .ok (.mcput (unpackQ w))
    | 0xC7 => .ok (.mctake (unpackQ w))
    | 0xC8 => .ok (.launch (unpackQ w))
    | 0xC9 => .ok (.kinfo (unpackQ w))
    | 0xD0 => .ok (.spawn (unpackQ w))
    | 0xD1 => match (unpackQ w).sub.toNat with
      | 0 => .ok (.syncWait (unpackQ w))
      | 1 => .ok (.syncNext (unpackQ w))
      | _ => .err .undefinedAction
    | 0xD2 => .ok (.evwait (unpackQ w))
    | 0xD3 => .ok (.evsig (unpackQ w))
    | 0xD4 => .ok (.ginfo (unpackQ w))
    | 0xD5 => match (unpackQ w).sub.toNat with
      | 0 => .ok (.binitAlloc (unpackQ w))
      | 2 => .ok (.binitFree (unpackQ w))
      | _ => .err .undefinedAction
    | 0xD6 => match (unpackQ w).sub.toNat with
      | 0 => .ok (.arrive (unpackQ w))
      | 1 => .ok (.arriveDrop (unpackQ w))
      | _ => .err .undefinedAction
    | 0xD7 => .ok (.bwait (unpackQ w))
    | 0xE0 => .ok (.fork (unpackQ w))
    | 0xE1 => .ok (.join (unpackQ w))
    | 0xE2 => match (unpackQ w).sub.toNat with
      | 0 => .ok (.rregionDecl (unpackQ w))
      | 1 => .ok (.rregionDrop (unpackQ w))
      | _ => .err .undefinedAction
    | 0xE3 => .ok (.rinfo (unpackQ w))
    | 0xE4 => .ok (.trvopen (unpackQ w))
    | 0xE5 => .ok (.trvput (unpackQ w))
    | 0xE6 => .ok (.trvtake (unpackQ w))
    | 0xE7 => match (unpackQ w).sub.toNat with
      | 0 => .ok (.trvdonePass (unpackQ w))
      | 1 => .ok (.trvdoneDrop (unpackQ w))
      | _ => .err .undefinedAction
    | 0xE8 => match (unpackQ w).sub.toNat with
      | 0 => .ok (.trvcloseDrain (unpackQ w))
      | 1 => .ok (.trvcloseAbort (unpackQ w))
      | _ => .err .undefinedAction
    | 0xE9 => .ok (.trvstat (unpackQ w))
    | 0xF0 => .ok (.ctxq (unpackQ w))
    | 0xF1 => .ok (.frec (unpackQ w))
    | 0xF2 => match (unpackQ w).sub.toNat with
      | 0 => .ok (.fresumeResume (unpackQ w))
      | 1 => .ok (.fresumeRedirect (unpackQ w))
      | 2 => .ok (.fresumeEnd (unpackQ w))
      | _ => .err .undefinedAction
    | 0xF3 => .ok (.pgq (unpackQ w))
    | 0xF4 => match (unpackQ w).sub.toNat with
      | 0 => .ok (.pgadviseWillneed (unpackQ w))
      | 1 => .ok (.pgadviseTranslate (unpackQ w))
      | 2 => .ok (.pgadviseEvictbehind (unpackQ w))
      | 3 => .ok (.pgadviseKeep (unpackQ w))
      | _ => .err .undefinedAction
    | 0xF5 => .ok (.acoll (unpackQ w))
    | 0xF6 => .ok (.lnkq (unpackQ w))
    | 0xF7 => .ok (.station (unpackQ w))
    | 0xF8 => .ok (.dmark (unpackQ w))
    | 0xF9 => .ok (.probe (unpackQ w))
    | _ => .err .reservedOpcode

/-- One n64 lane of a 64-byte record. -/
def lane64 (v : BitVec 512) (k : Nat) : Word := v.extractLsb' (64 * k) 64

/-- The fields of a command record besides its code (10 R285). -/
def unpackCmd (r : BitVec 512) : CmdRec :=
  { ctx := r.extractLsb' 8 12, gen := r.extractLsb' 32 32, compl := lane64 r 1, a2 := lane64 r 2, a3 := lane64 r 3,
    a4 := lane64 r 4, a5 := lane64 r 5, a6 := lane64 r 6, a7 := lane64 r 7 }

/-- The command record of a code (10 R285). -/
def packCmd (code : BitVec 8) (c : CmdRec) : BitVec 512 :=
  c.a7 ++ c.a6 ++ c.a5 ++ c.a4 ++ c.a3 ++ c.a2 ++ c.compl ++ c.gen ++ (0#12) ++ c.ctx ++ code

/-- Decode a command record by its code (10 R284, 11 R322, 12 R346, 14 R400, 15 R419, 16 R446, 19 R489). -/
def decodeRecord (r : BitVec 512) : Decoded :=
  match (r.extractLsb' 0 8).toNat with
  | 0x01 => .ok (.create (unpackCmd r))
  | 0x02 => .ok (.configure (unpackCmd r))
  | 0x03 => .ok (.bind (unpackCmd r))
  | 0x04 => .ok (.run (unpackCmd r))
  | 0x05 => .ok (.unbind (unpackCmd r))
  | 0x06 => .ok (.preempt (unpackCmd r))
  | 0x07 => .ok (.restore (unpackCmd r))
  | 0x08 => .ok (.freeze (unpackCmd r))
  | 0x09 => .ok (.resume (unpackCmd r))
  | 0x0A => .ok (.dump (unpackCmd r))
  | 0x0B => .ok (.kill (unpackCmd r))
  | 0x0C => .ok (.danswer (unpackCmd r))
  | 0x10 => .ok (.load (unpackCmd r))
  | 0x11 => .ok (.unload (unpackCmd r))
  | 0x20 => .ok (.qcreate (unpackCmd r))
  | 0x21 => .ok (.qopen (unpackCmd r))
  | 0x22 => .ok (.qdrain (unpackCmd r))
  | 0x23 => .ok (.qclose (unpackCmd r))
  | 0x24 => .ok (.qdestroy (unpackCmd r))
  | 0x25 => .ok (.qquery (unpackCmd r))
  | 0x30 => .ok (.balloc (unpackCmd r))
  | 0x31 => .ok (.bfree (unpackCmd r))
  | 0x32 => .ok (.bquery (unpackCmd r))
  | 0x40 => .ok (.punmap (unpackCmd r))
  | 0x41 => .ok (.pmigrate (unpackCmd r))
  | 0x42 => .ok (.pevict (unpackCmd r))
  | 0x43 => .ok (.psplit (unpackCmd r))
  | 0x44 => .ok (.ppin (unpackCmd r))
  | 0x45 => .ok (.punpin (unpackCmd r))
  | 0x46 => .ok (.pdomain (unpackCmd r))
  | 0x47 => .ok (.rsync (unpackCmd r))
  | 0x48 => .ok (.panswer (unpackCmd r))
  | 0x49 => .ok (.pstock (unpackCmd r))
  | 0x50 => .ok (.manswer (unpackCmd r))
  | 0x60 => .ok (.gresume (unpackCmd r))
  | 0x61 => .ok (.logcfg (unpackCmd r))
  | 0x62 => .ok (.logtrim (unpackCmd r))
  | 0x63 => .ok (.reverseToStation (unpackCmd r))
  | 0x64 => .ok (.reverseBlock (unpackCmd r))
  | 0x65 => .ok (.trcfg (unpackCmd r))
  | 0x66 => .ok (.record (unpackCmd r))
  | 0x67 => .ok (.dbgmatch (unpackCmd r))
  | 0x68 => .ok (.cutread (unpackCmd r))
  | _ => .err .unknownCommand

/-- The lanes of a record. -/
def lanesOf (r : BitVec 512) : List Word := [lane64 r 0, lane64 r 1, lane64 r 2, lane64 r 3, lane64 r 4, lane64 r 5, lane64 r 6, lane64 r 7]

/-- The record of eight lanes, lane 0 lowest. -/
def recordOf (a b c d e f g h : Word) : BitVec 512 := h ++ g ++ f ++ e ++ d ++ c ++ b ++ a

/-- The words of an instruction, lowest address first: one word for an instruction of the set, eight lanes for a command,
none for an event. -/
def encode (i : Instr) : List Word :=
  match i with
  | .add f => [packG 0x01#8 f]
  | .sub f => [packG 0x02#8 f]
  | .mul f => [packG 0x03#8 f]
  | .mulh f => [packG 0x04#8 f]
  | .mad f => [packG 0x05#8 f]
  | .div f => [packG 0x06#8 f]
  | .rem f => [packG 0x07#8 f]
  | .min f => [packG 0x08#8 f]
  | .max f => [packG 0x09#8 f]
  | .abs f => [packG 0x0A#8 f]
  | .neg f => [packG 0x0B#8 f]
  | .and f => [packG 0x0C#8 f]
  | .or f => [packG 0x0D#8 f]
  | .xor f => [packG 0x0E#8 f]
  | .andn f => [packG 0x0F#8 f]
  | .not f => [packG 0x10#8 f]
  | .shl f => [packG 0x11#8 f]
  | .shr f => [packG 0x12#8 f]
  | .sar f => [packG 0x13#8 f]
  | .rotl f => [packG 0x14#8 f]
  | .clz f => [packG 0x15#8 f]
  | .popc f => [packG 0x16#8 f]
  | .brev f => [packG 0x17#8 f]
  | .bfx f => [packG 0x18#8 f]
  | .bfi f => [packG 0x19#8 f]
  | .adds f => [packG 0x1A#8 f]
  | .subs f => [packG 0x1B#8 f]
  | .addc f => [packG 0x1C#8 f]
  | .lea f => [packG 0x1D#8 f]
  | .sad f => [packG 0x1E#8 f]
  | .avg f => [packG 0x1F#8 f]
  | .cmp f => [packG 0x20#8 f]
  | .fcmp f => [packG 0x21#8 f]
  | .sel f => [packG 0x22#8 f]
  | .mov f => [packG 0x23#8 f]
  | .movi f => [packI 0x24#8 f]
  | .movhi f => [packI 0x25#8 f]
  | .null f => [packG 0x26#8 f]
  | .pand f => [packG 0x27#8 f]
  | .por f => [packG 0x28#8 f]
  | .pnot f => [packG 0x29#8 f]
  | .tagrd f => [packG 0x2A#8 f]
  | .lane f => [packG 0x2B#8 f]
  | .bcast f => [packG 0x2C#8 f]
  | .extl f => [packG 0x2D#8 f]
  | .insl f => [packG 0x2E#8 f]
  | .getsr f => [packG 0x2F#8 f]
  | .br f => [packX 0x30#8 f]
  | .brind f => [packX 0x31#8 f]
  | .call f => [packX 0x32#8 f]
  | .calli f => [packX 0x33#8 f]
  | .ret f => [packX 0x34#8 f]
  | .loop f => [packX 0x35#8 f]
  | .halt f => [packX 0x36#8 f]
  | .yield f => [packX 0x37#8 f]
  | .compose f => [packQ 0x38#8 f]
  | .trap f => [packX 0x39#8 f]
  | .sys f => [packX 0x3A#8 f]
  | .setsr f => [packG 0x3B#8 f]
  | .hint f => [packX 0x3C#8 f]
  | .brkp f => [packX 0x3D#8 f]
  | .fadd f => [packG 0x40#8 f]
  | .fsub f => [packG 0x41#8 f]
  | .fmul f => [packG 0x42#8 f]
  | .fma f => [packG 0x43#8 f]
  | .fms f => [packG 0x44#8 f]
  | .fnma f => [packG 0x45#8 f]
  | .fmin f => [packG 0x46#8 f]
  | .fmax f => [packG 0x47#8 f]
  | .fabs f => [packG 0x48#8 f]
  | .fneg f => [packG 0x49#8 f]
  | .fdiv f => [packG 0x4A#8 f]
  | .fsqrt f => [packG 0x4B#8 f]
  | .frcp f => [packG 0x4C#8 f]
  | .frsqrt f => [packG 0x4D#8 f]
  | .fexp2 f => [packG 0x4E#8 f]
  | .flog2 f => [packG 0x4F#8 f]
  | .ftanh f => [packG 0x50#8 f]
  | .fsig f => [packG 0x51#8 f]
  | .fround f => [packG 0x52#8 f]
  | .fclass f => [packG 0x53#8 f]
  | .fscale f => [packG 0x54#8 f]
  | .fdot2 f => [packG 0x55#8 f]
  | .fdot4 f => [packG 0x56#8 f]
  | .fclamp f => [packG 0x57#8 f]
  | .fcopysign f => [packG 0x58#8 f]
  | .cvt f => [packG 0x60#8 f]
  | .cvti f => [packG 0x61#8 f]
  | .cvtf f => [packG 0x62#8 f]
  | .fmt f => [packP 0x63#8 f]
  | .pack f => [packG 0x64#8 f]
  | .unpack f => [packG 0x65#8 f]
  | .fmaxexp f => [packG 0x66#8 f]
  | .perm f => [packG 0x70#8 f]
  | .shfl f => [packG 0x71#8 f]
  | .red f => [packG 0x72#8 f]
  | .scan f => [packG 0x73#8 f]
  | .cmpr f => [packG 0x74#8 f]
  | .expd f => [packG 0x75#8 f]
  | .vote f => [packG 0x76#8 f]
  | .zip f => [packG 0x77#8 f]
  | .unzip f => [packG 0x78#8 f]
  | .ld f => [packM 0x80#8 f]
  | .lda f => [packM 0x81#8 f]
  | .st f => [packM 0x82#8 f]
  | .stl f => [packM 0x83#8 f]
  | .ldg f => [packM 0x84#8 f]
  | .stg f => [packM 0x85#8 f]
  | .ldsp f => [packM 0x86#8 f]
  | .stsp f => [packM 0x87#8 f]
  | .sread f => [packM 0x88#8 f]
  | .swrite f => [packM 0x89#8 f]
  | .scfg f => [packM 0x8A#8 f]
  | .sclose f => [packM 0x8B#8 f]
  | .ldfwd f => [packM 0x8C#8 f]
  | .pref f => [packM 0x8D#8 f]
  | .fence f => [packM 0x8E#8 f]
  | .cwb f => [packM 0x8F#8 f]
  | .cinv f => [packM 0x90#8 f]
  | .acopy f => [packM 0x91#8 f]
  | .acopy2 f => [packM 0x92#8 f]
  | .ashadow f => [packM 0x93#8 f]
  | .apubPublish f => [packM 0x94#8 f]
  | .apubDiscard f => [packM 0x94#8 f]
  | .aprobe f => [packM 0x95#8 f]
  | .agather f => [packM 0x96#8 f]
  | .amoAdd f => [packA 0xA0#8 f]
  | .amoFadd f => [packA 0xA1#8 f]
  | .amoMin f => [packA 0xA2#8 f]
  | .amoMax f => [packA 0xA3#8 f]
  | .amoAnd f => [packA 0xA4#8 f]
  | .amoOr f => [packA 0xA5#8 f]
  | .amoXor f => [packA 0xA6#8 f]
  | .amoSwap f => [packA 0xA7#8 f]
  | .amoCas f => [packA 0xA8#8 f]
  | .amoInc f => [packA 0xA9#8 f]
  | .amoDec f => [packA 0xAA#8 f]
  | .mcfg f => [packN 0xB0#8 f]
  | .mzero f => [packN 0xB1#8 f]
  | .mma f => [packN 0xB2#8 f]
  | .mld f => [packN 0xB3#8 f]
  | .mst f => [packN 0xB4#8 f]
  | .mctr f => [packN 0xB5#8 f]
  | .mbound f => [packN 0xB6#8 f]
  | .wbload f => [packN 0xB7#8 f]
  | .mputa f => [packN 0xB8#8 f]
  | .mputb f => [packN 0xB9#8 f]
  | .mred f => [packN 0xBA#8 f]
  | .mrow f => [packN 0xBB#8 f]
  | .qpush f => [packQ 0xC0#8 f]
  | .qpop f => [packQ 0xC1#8 f]
  | .qpeek f => [packQ 0xC2#8 f]
  | .qinfo f => [packQ 0xC3#8 f]
  | .mbsend f => [packQ 0xC4#8 f]
  | .mbrecv f => [packQ 0xC5#8 f]
  | .mcput f => [packQ 0xC6#8 f]
  | .mctake f => [packQ 0xC7#8 f]
  | .launch f => [packQ 0xC8#8 f]
  | .kinfo f => [packQ 0xC9#8 f]
  | .spawn f => [packQ 0xD0#8 f]
  | .syncWait f => [packQ 0xD1#8 f]
  | .syncNext f => [packQ 0xD1#8 f]
  | .evwait f => [packQ 0xD2#8 f]
  | .evsig f => [packQ 0xD3#8 f]
  | .ginfo f => [packQ 0xD4#8 f]
  | .binitAlloc f => [packQ 0xD5#8 f]
  | .binitFree f => [packQ 0xD5#8 f]
  | .arrive f => [packQ 0xD6#8 f]
  | .arriveDrop f => [packQ 0xD6#8 f]
  | .bwait f => [packQ 0xD7#8 f]
  | .fork f => [packQ 0xE0#8 f]
  | .join f => [packQ 0xE1#8 f]
  | .rregionDecl f => [packQ 0xE2#8 f]
  | .rregionDrop f => [packQ 0xE2#8 f]
  | .rinfo f => [packQ 0xE3#8 f]
  | .trvopen f => [packQ 0xE4#8 f]
  | .trvput f => [packQ 0xE5#8 f]
  | .trvtake f => [packQ 0xE6#8 f]
  | .trvdonePass f => [packQ 0xE7#8 f]
  | .trvdoneDrop f => [packQ 0xE7#8 f]
  | .trvcloseDrain f => [packQ 0xE8#8 f]
  | .trvcloseAbort f => [packQ 0xE8#8 f]
  | .trvstat f => [packQ 0xE9#8 f]
  | .ctxq f => [packQ 0xF0#8 f]
  | .frec f => [packQ 0xF1#8 f]
  | .fresumeResume f => [packQ 0xF2#8 f]
  | .fresumeRedirect f => [packQ 0xF2#8 f]
  | .fresumeEnd f => [packQ 0xF2#8 f]
  | .pgq f => [packQ 0xF3#8 f]
  | .pgadviseWillneed f => [packQ 0xF4#8 f]
  | .pgadviseTranslate f => [packQ 0xF4#8 f]
  | .pgadviseEvictbehind f => [packQ 0xF4#8 f]
  | .pgadviseKeep f => [packQ 0xF4#8 f]
  | .acoll f => [packQ 0xF5#8 f]
  | .lnkq f => [packQ 0xF6#8 f]
  | .station f => [packQ 0xF7#8 f]
  | .dmark f => [packQ 0xF8#8 f]
  | .probe f => [packQ 0xF9#8 f]
  | .create c => lanesOf (packCmd 0x01#8 c)
  | .configure c => lanesOf (packCmd 0x02#8 c)
  | .bind c => lanesOf (packCmd 0x03#8 c)
  | .run c => lanesOf (packCmd 0x04#8 c)
  | .unbind c => lanesOf (packCmd 0x05#8 c)
  | .preempt c => lanesOf (packCmd 0x06#8 c)
  | .restore c => lanesOf (packCmd 0x07#8 c)
  | .freeze c => lanesOf (packCmd 0x08#8 c)
  | .resume c => lanesOf (packCmd 0x09#8 c)
  | .dump c => lanesOf (packCmd 0x0A#8 c)
  | .kill c => lanesOf (packCmd 0x0B#8 c)
  | .danswer c => lanesOf (packCmd 0x0C#8 c)
  | .load c => lanesOf (packCmd 0x10#8 c)
  | .unload c => lanesOf (packCmd 0x11#8 c)
  | .qcreate c => lanesOf (packCmd 0x20#8 c)
  | .qopen c => lanesOf (packCmd 0x21#8 c)
  | .qdrain c => lanesOf (packCmd 0x22#8 c)
  | .qclose c => lanesOf (packCmd 0x23#8 c)
  | .qdestroy c => lanesOf (packCmd 0x24#8 c)
  | .qquery c => lanesOf (packCmd 0x25#8 c)
  | .balloc c => lanesOf (packCmd 0x30#8 c)
  | .bfree c => lanesOf (packCmd 0x31#8 c)
  | .bquery c => lanesOf (packCmd 0x32#8 c)
  | .punmap c => lanesOf (packCmd 0x40#8 c)
  | .pmigrate c => lanesOf (packCmd 0x41#8 c)
  | .pevict c => lanesOf (packCmd 0x42#8 c)
  | .psplit c => lanesOf (packCmd 0x43#8 c)
  | .ppin c => lanesOf (packCmd 0x44#8 c)
  | .punpin c => lanesOf (packCmd 0x45#8 c)
  | .pdomain c => lanesOf (packCmd 0x46#8 c)
  | .rsync c => lanesOf (packCmd 0x47#8 c)
  | .panswer c => lanesOf (packCmd 0x48#8 c)
  | .pstock c => lanesOf (packCmd 0x49#8 c)
  | .manswer c => lanesOf (packCmd 0x50#8 c)
  | .gresume c => lanesOf (packCmd 0x60#8 c)
  | .logcfg c => lanesOf (packCmd 0x61#8 c)
  | .logtrim c => lanesOf (packCmd 0x62#8 c)
  | .reverseToStation c => lanesOf (packCmd 0x63#8 c)
  | .reverseBlock c => lanesOf (packCmd 0x64#8 c)
  | .trcfg c => lanesOf (packCmd 0x65#8 c)
  | .record c => lanesOf (packCmd 0x66#8 c)
  | .dbgmatch c => lanesOf (packCmd 0x67#8 c)
  | .cutread c => lanesOf (packCmd 0x68#8 c)
  | .fetchOpportunity => []
  | .fetchComplete => []
  | .fillDelivery => []
  | .codePageVerification => []
  | .instancePlace => []
  | .tokenDelivery => []
  | .blockCommit => []
  | .exitMispredict => []
  | .predictorEntryClear => []
  | .watchdogExpiry => []
  | .slotWaitEntry => []
  | .slotRetention => []
  | .waitLimitExpiry => []
  | .overflowReinject => []
  | .thermalThreshold => []
  | .thermalSlotDisable => []
  | .thermalSlotEnable => []
  | .displacedMove => []
  | .thermalRankingRefresh => []
  | .steal => []
  | .matrixStepStart => []
  | .matrixStepFinish => []
  | .wbloadStepStart => []
  | .pairMultiplyPhase => []
  | .pairAccumulatePhase => []
  | .atomicEarlyPerform => []
  | .releasePerform => []
  | .scratchpadStoreArrival => []
  | .streamHandover => []
  | .ldfwdReplyDelivery => []
  | .mailboxDelivery => []
  | .copyCompletion => []
  | .shadowPublication => []
  | .collectiveCompletion => []
  | .dispatchRemove => []
  | .groupLevelRise => []
  | .groupDispatch => []
  | .groupRetire => []
  | .barrierEngineArrival => []
  | .gatingWindowEnd => []
  | .quiescenceSweep => []
  | .saveImageWritten => []
  | .dumpStart => []
  | .dumpComplete => []
  | .teardownComplete => []
  | .loadChecksComplete => []
  | .hostAppend => []
  | .queueStorageEcc => []
  | .stageLaunchAppend => []
  | .mergeComplete => []
  | .ridFree => []
  | .drainTokenEmerge => []
  | .migrationComplete => []
  | .evictionComplete => []
  | .splitComplete => []
  | .stationMarker => []
  | .logDrain => []
  | .timePacket => []
  | .lifetimeRecordWrite => []
  | .flitReceive => []
  | .portTrainingDone => []
  | .laneErrorDegrade => []
  | .portEnable => []
  | .portDisable => []
  | .isolate => []
  | .release => []
  | .linkTimeout => []
  | .ptpSync => []
  | .cxlSnoop => []
  | .hostCxlMemWrite => []
  | .hostCxlMemRead => []
  | .backInvalidateComplete => []
  | .imeasSample => []
  | .voltageDroop => []
  | .pllLock => []
  | .thermalTrip => []
  | .powerOn => []
  | .bringupStepComplete => []
  | .bringupTimeout => []
  | .powerDown => []
  | .getVersion => []
  | .getCapabilities => []
  | .negotiateAlgorithms => []
  | .getDigests => []
  | .getCertificate => []
  | .challenge => []
  | .getMeasurements => []
  | .spdmUnsupportedRequest => []
  | .islIlimWrite => []
  | .islImeasRead => []
  | .reqHeadWrite => []
  | .mgmtRegisterWrite => []
  | .partialApertureWrite => []
  | .enginePageWait => []

/-- Decode the words of an instruction: one word, or the eight lanes of a command record. -/
def decode (ws : List Word) : Decoded :=
  match ws with
  | [w] => decodeWord w
  | [a, b, c, d, e, f, g, h] => decodeRecord (recordOf a b c d e f g h)
  | _ => .err .emptySlot

/-- The instruction of a decoder's answer. -/
def Decoded.toOption (d : Decoded) : Option Instr :=
  match d with
  | .ok i => some i
  | .err _ => none

/-- What the decoder reads from an instruction whose bits are `w`, numbered as the opcode table numbers them. An
instruction of the set has 64 bits; a row that the table gives more bits is a command record of 512. Words of 64 bits are
little-endian (00 R6), so bit n of the table is bit n of the word. -/
def decodeTableWord (nbits w : Nat) : Option Instr :=
  if nbits ≤ 64 then (decodeWord (BitVec.ofNat 64 w)).toOption
  else if nbits ≤ 512 then (decodeRecord (BitVec.ofNat 512 w)).toOption
  else none

/-- The opcode of an instruction of the set; 0 for commands and events. -/
def opcodeOf (i : Instr) : Nat :=
  match encode i with
  | [w] => (opOf w).toNat
  | _ => 0

/-- An instruction word from its eight bytes, the byte at the lowest address first (00 R6). -/
def wordOfBytes (bs : List Byte) : Word :=
  bs.foldr (fun b acc => (acc <<< 8) ||| b.setWidth 64) 0#64

/-- Decode the eight bytes at the head of a list: the instruction and the bytes after it. -/
def decodeBytes (bs : List Byte) : Decoded × List Byte :=
  match bs with
  | a :: b :: c :: d :: e :: f :: g :: h :: rest => (decodeWord (wordOfBytes [a, b, c, d, e, f, g, h]), rest)
  | _ => (.err .emptySlot, [])

end Sys2Proof
end

