-- ==== Sys2Proof/Machine/Fields.lean ====
section
/-!
DEFINITION. What the fields of an instruction mean before it runs: element types (04 R101), permitted field values
(04 R109 check 12), operands (check 17), targets, profiles (R108), stages (R104), memory classes (08 R227).
One definition each, a line for each instruction of the set, read off the encoding tables of its chapter.
-/

namespace Sys2Proof.Machine

/-- Bits [hi:lo] of a field, as a number. -/
def bits {n : Nat} (x : BitVec n) (hi lo : Nat) : Nat := (x.toNat / 2 ^ lo) % 2 ^ (hi + 1 - lo)

/-- Bits [hi:lo] of a field, read as a signed number. -/
def sbits {n : Nat} (x : BitVec n) (hi lo : Nat) : Int :=
  let v := bits x hi lo
  if v ≥ 2 ^ (hi - lo) then (v : Int) - 2 ^ (hi + 1 - lo) else v

/-- Width in bits of an element type; `pr` has none (04 R101). -/
def tyBits (ty : BitVec 4) : Nat :=
  match ty.toNat with
  | 0 => 8 | 1 => 8 | 2 => 16 | 3 => 16 | 4 => 32 | 5 => 32 | 6 => 64 | 7 => 64
  | 8 => 16 | 9 => 16 | 10 => 32 | 11 => 64 | 12 => 8 | 13 => 8 | 14 => 8 | _ => 1

/-- Lanes of a token of an element type (03 R54, 04 R101). -/
def laneCount (ty : BitVec 4) : Nat := 512 / tyBits ty

/-- i8 to n64. -/
def intTy (ty : BitVec 4) : Bool := decide (ty.toNat ≤ 7)
/-- Signed integer types. -/
def signedTy (ty : BitVec 4) : Bool := decide (ty.toNat ≤ 7) && ty.toNat % 2 == 0
/-- f16, b16, f32, f64, sd8. -/
def floatTy (ty : BitVec 4) : Bool := decide (8 ≤ ty.toNat) && decide (ty.toNat ≤ 12)
/-- f16, b16, f32, f64. -/
def ieeeTy (ty : BitVec 4) : Bool := decide (8 ≤ ty.toNat) && decide (ty.toNat ≤ 11)
/-- f16, b16, f32. -/
def transTy (ty : BitVec 4) : Bool := decide (8 ≤ ty.toNat) && decide (ty.toNat ≤ 10)
/-- Codes 0x0 to 0xC. -/
def laneTy (ty : BitVec 4) : Bool := decide (ty.toNat ≤ 12)
/-- Codes 0x8 to 0xE. -/
def anyFloat (ty : BitVec 4) : Bool := decide (8 ≤ ty.toNat) && decide (ty.toNat ≤ 14)
/-- 32- and 64-bit elements of gathers and scatters (08 R234). -/
def gatherTy (ty : BitVec 4) : Bool := [4, 5, 6, 7, 10, 11].contains ty.toNat
/-- SCOPE 1 to 4 (04 R95). -/
def scope14 (s : BitVec 3) : Bool := decide (1 ≤ s.toNat) && decide (s.toNat ≤ 4)

/-- FZI, FZO and RM zero (05 R119). -/
def noRound (f : FmtG) : Bool := f.fzi == 0#1 && f.fzo == 0#1 && f.rm == 0#2
/-- IMMB (05 R121). -/
def immB (f : FmtG) : Bool := f.x.getLsbD 18
/-- Operands when `b` may be an immediate. -/
def withB (f : FmtG) (l : List Nat) : List Nat := if immB f then l else l ++ [1]
/-- Operands when `c` may be an immediate. -/
def withC (f : FmtG) (l : List Nat) : List Nat := if immB f then l else l ++ [2]
/-- A binary integer operation with an optional immediate (05 R121). -/
def intImm (f : FmtG) : Bool := intTy f.ty && noRound f && bits f.x 17 16 == 0 && (immB f || bits f.x 15 0 == 0)
/-- An integer operation that uses no bit of X. -/
def intPlain (f : FmtG) : Bool := intTy f.ty && noRound f && f.x == 0#19
/-- A shift or rotation (05 R121, R124). -/
def shiftOk (f : FmtG) : Bool :=
  intTy f.ty && noRound f && bits f.x 17 7 == 0 &&
    (if immB f then decide (bits f.x 6 0 < tyBits f.ty) else bits f.x 6 0 == 0)
/-- `bfx` and `bfi`: LEN 1 to n, POS 0 to n − 1, POS + LEN ≤ n (05 R121). -/
def bitField (f : FmtG) : Bool :=
  intTy f.ty && noRound f && bits f.x 18 14 == 0 && decide (1 ≤ bits f.x 13 7) &&
    decide (bits f.x 6 0 < tyBits f.ty) && decide (bits f.x 6 0 + bits f.x 13 7 ≤ tyBits f.ty)
/-- Lane moves with an immediate index (05 R121, R138). -/
def laneIndex (f : FmtG) : Bool :=
  laneTy f.ty && noRound f && bits f.x 17 6 == 0 &&
    (if immB f then decide (bits f.x 5 0 < laneCount f.ty) else bits f.x 5 0 == 0)
/-- `movi` (05 R134). -/
def moviOk (f : FmtI) : Bool :=
  match f.ty.toNat with
  | 8 => bits f.imm 34 16 == 0 | 9 => bits f.imm 34 16 == 0
  | 10 => bits f.imm 34 32 == 0 | 11 => bits f.imm 34 32 == 0
  | 12 => bits f.imm 34 8 == 0 | 13 => false | 14 => false | _ => true
/-- `movhi` (05 R135). -/
def movhiOk (f : FmtI) : Bool :=
  match f.ty.toNat with
  | 6 => bits f.imm 34 32 == 0 | 7 => bits f.imm 34 32 == 0 | 11 => bits f.imm 34 32 == 0
  | 15 => bits f.imm 34 29 == 0 | _ => false
/-- DT of a conversion: X[3:0]. -/
def dtOf (f : FmtG) : BitVec 4 := f.x.extractLsb' 0 4
/-- PART is below the number of parts (06 R173). -/
def partOk (f : FmtG) : Bool :=
  let ls := laneCount f.ty
  let ld := laneCount (dtOf f)
  decide (bits f.x 6 4 < Nat.max (ls / ld) (ld / ls))
/-- `cvt` (06 R158, R173). -/
def cvtOk (f : FmtG) : Bool :=
  decide (f.ty.toNat ≤ 14) && decide ((dtOf f).toNat ≤ 14) && bits f.x 18 7 == 0 && partOk f &&
    (anyFloat f.ty || f.fzi == 0#1) && (anyFloat (dtOf f) || f.fzo == 0#1)
/-- `cvti` (06 R158, R174). -/
def cvtiOk (f : FmtG) : Bool := floatTy f.ty && intTy (dtOf f) && bits f.x 18 15 == 0 && partOk f && f.fzo == 0#1
/-- `cvtf` (06 R158, R174). -/
def cvtfOk (f : FmtG) : Bool := intTy f.ty && floatTy (dtOf f) && bits f.x 18 15 == 0 && partOk f && f.fzi == 0#1
/-- `pack` (06 R176). -/
def packOk (f : FmtG) : Bool :=
  bits f.x 18 5 == 0 && (anyFloat f.ty || f.fzi == 0#1) && (anyFloat (dtOf f) || f.fzo == 0#1) &&
    match f.ty.toNat with
    | 2 => (dtOf f).toNat ≤ 1 | 3 => (dtOf f).toNat ≤ 1
    | 4 => (dtOf f).toNat == 2 || (dtOf f).toNat == 3 | 5 => (dtOf f).toNat == 2 || (dtOf f).toNat == 3
    | 6 => (dtOf f).toNat == 4 || (dtOf f).toNat == 5 | 7 => (dtOf f).toNat == 4 || (dtOf f).toNat == 5
    | 8 => (dtOf f).toNat == 12 | 9 => (dtOf f).toNat == 12
    | 10 => (dtOf f).toNat == 8 || (dtOf f).toNat == 9
    | 11 => (dtOf f).toNat == 10 | _ => false
/-- `unpack` (06 R177). -/
def unpackOk (f : FmtG) : Bool :=
  bits f.x 18 6 == 0 && f.fzo == 0#1 && f.rm == 0#2 && (anyFloat f.ty || f.fzi == 0#1) &&
    match f.ty.toNat with
    | 8 => (dtOf f).toNat == 10 | 9 => (dtOf f).toNat == 10 | 10 => (dtOf f).toNat == 11
    | 12 => (dtOf f).toNat == 8 || (dtOf f).toNat == 9
    | t => decide (t ≤ 5) && (dtOf f).toNat == t + 2
/-- `red` and `scan` (06 R179, R182). -/
def redOk (f : FmtG) : Bool :=
  decide (f.ty.toNat ≤ 11) && bits f.x 18 9 == 0 && decide (2 ^ bits f.x 8 5 ≤ laneCount f.ty) &&
    (if intTy f.ty then noRound f && decide (bits f.x 3 0 ≤ 5) else decide (bits f.x 3 0 ≤ 2))
/-- Element types of the matrix array (07 R196). -/
def elemTy (t : BitVec 4) : Bool := [0, 1, 8, 9, 12].contains t.toNat
/-- An element type with the cell type it accumulates into (07 R196). -/
def elemCf (t : BitVec 4) (cf : BitVec 2) : Bool :=
  elemTy t && (if decide (t.toNat ≤ 1) then cf == 1#2 else cf == 0#2)
/-- The rows of 07 R196. -/
def typeCombo (af bf : BitVec 4) (cf : BitVec 2) : Bool :=
  elemCf af cf && elemCf bf cf && (decide (af.toNat ≤ 1) || af == bf)

/-- Check 12 for the fields of one word: nonzero reserved fields and values not permitted (04 R109; 05 R119-R154, 06 R158-R187,
07 R204, 08 R233-R257, and the field tables of the object chapters). -/
def fieldsOk (i : Instr) : Bool :=
  match i with
  | .add f => intImm f
  | .sub f => intImm f
  | .mul f => intImm f
  | .mulh f => intImm f
  | .mad f => intPlain f
  | .div f => intImm f
  | .rem f => intImm f
  | .min f => intImm f
  | .max f => intImm f
  | .abs f => intPlain f
  | .neg f => intPlain f
  | .and f => intImm f
  | .or f => intImm f
  | .xor f => intImm f
  | .andn f => intImm f
  | .not f => intPlain f
  | .shl f => shiftOk f
  | .shr f => shiftOk f
  | .sar f => shiftOk f
  | .rotl f => shiftOk f
  | .clz f => intPlain f
  | .popc f => intPlain f
  | .brev f => intPlain f
  | .bfx f => bitField f
  | .bfi f => bitField f
  | .adds f => intImm f
  | .subs f => intImm f
  | .addc f => intImm f
  | .lea f => (f.ty == 6#4 || f.ty == 7#4) && noRound f && bits f.x 18 3 == 0
  | .sad f => intPlain f
  | .avg f => intImm f
  | .cmp f => intTy f.ty && noRound f && decide (bits f.x 3 0 ≤ 5) && (immB f || bits f.x 17 4 == 0)
  | .fcmp f => floatTy f.ty && f.fzo == 0#1 && f.rm == 0#2 && bits f.x 18 4 == 0 && decide (bits f.x 3 0 ≤ 7)
  | .sel f => laneTy f.ty && noRound f && f.x == 0#19
  | .mov f => f.ty == 0#4 && noRound f && f.x == 0#19
  | .movi f => moviOk f
  | .movhi f => movhiOk f
  | .null f => f.ty == 0#4 && noRound f && f.x == 0#19
  | .pand f => laneTy f.ty && noRound f && f.x == 0#19
  | .por f => laneTy f.ty && noRound f && f.x == 0#19
  | .pnot f => laneTy f.ty && noRound f && f.x == 0#19
  | .tagrd f => (f.ty == 5#4 || f.ty == 7#4) && noRound f && bits f.x 18 4 == 0 && (bits f.x 3 3 == 0 || bits f.x 2 0 == 0)
  | .lane f => intTy f.ty && noRound f && bits f.x 18 16 == 0
  | .bcast f => laneIndex f
  | .extl f => laneIndex f
  | .insl f => laneIndex f
  | .getsr f => f.ty == 7#4 && noRound f && bits f.x 18 8 == 0 && decide (bits f.x 7 0 ≤ 0x0D)
  | .br f => f.xk == 0#2 && f.t0 == 0#12
  | .brind f => f.xk == 1#2 && f.t0 == 0#12 && f.offs == 0#34
  | .call f => f.xk == 2#2
  | .calli f => f.xk == 2#2 && f.offs == 0#34
  | .ret f => f.xk == 3#2 && f.t0 == 0#12 && f.offs == 0#34
  | .loop f => f.xk == 0#2 && f.t0 == 0#12 && f.offs == 0#34
  | .halt f => f.xk == 0#2 && f.t0 == 0#12 && f.offs == 0#34
  | .yield f => f.xk == 0#2 && f.t0 == 0#12
  | .compose f => f.sub == 0#4 && bits f.imm 10 3 == 0 && decide (bits f.imm 2 0 ≤ 4)
  | .trap f => f.xk == 0#2 && f.t0 == 0#12
  | .sys f => f.xk == 0#2 && f.t0 == 0#12
  | .setsr f => f.ty == 7#4 && noRound f && bits f.x 18 8 == 0 && [0x08, 0x0B, 0x0C, 0x0D].contains (bits f.x 7 0) && f.t0 == 0#12 && f.t1 == 0#12
  | .hint f => f.xk == 0#2 && f.exit == 0#3 && f.t0 == 0#12
  | .brkp f => f.xk == 0#2 && f.exit == 0#3 && f.t0 == 0#12 && bits f.offs 33 16 == 0
  | .fadd f => floatTy f.ty && f.x == 0#19
  | .fsub f => floatTy f.ty && f.x == 0#19
  | .fmul f => floatTy f.ty && f.x == 0#19
  | .fma f => floatTy f.ty && f.x == 0#19
  | .fms f => floatTy f.ty && f.x == 0#19
  | .fnma f => floatTy f.ty && f.x == 0#19
  | .fmin f => floatTy f.ty && f.rm == 0#2 && f.x == 0#19
  | .fmax f => floatTy f.ty && f.rm == 0#2 && f.x == 0#19
  | .fabs f => floatTy f.ty && f.rm == 0#2 && f.x == 0#19
  | .fneg f => floatTy f.ty && f.rm == 0#2 && f.x == 0#19
  | .fdiv f => ieeeTy f.ty && f.x == 0#19
  | .fsqrt f => ieeeTy f.ty && f.x == 0#19
  | .frcp f => transTy f.ty && f.x == 0#19
  | .frsqrt f => transTy f.ty && f.x == 0#19
  | .fexp2 f => transTy f.ty && f.x == 0#19
  | .flog2 f => transTy f.ty && f.x == 0#19
  | .ftanh f => transTy f.ty && f.x == 0#19
  | .fsig f => transTy f.ty && f.x == 0#19
  | .fround f => ieeeTy f.ty && f.fzo == 0#1 && bits f.x 18 1 == 0
  | .fclass f => floatTy f.ty && noRound f && bits f.x 18 10 == 0
  | .fscale f => ieeeTy f.ty && bits f.x 17 16 == 0 && (immB f || bits f.x 15 0 == 0)
  | .fdot2 f => (f.ty == 8#4 || f.ty == 9#4) && f.x == 0#19
  | .fdot4 f => f.ty == 12#4 && f.x == 0#19
  | .fclamp f => floatTy f.ty && f.rm == 0#2 && f.x == 0#19
  | .fcopysign f => floatTy f.ty && f.rm == 0#2 && f.x == 0#19
  | .cvt f => cvtOk f
  | .cvti f => cvtiOk f
  | .cvtf f => cvtfOk f
  | .fmt f => f.pr == 0#2 && decide (8 ≤ f.fmt.toNat) && decide (f.fmt.toNat ≤ 14) && f.rest == 0#27
  | .pack f => packOk f
  | .unpack f => unpackOk f
  | .fmaxexp f => floatTy f.ty && f.fzo == 0#1 && f.rm == 0#2 && f.x == 0#19
  | .perm f => laneTy f.ty && noRound f && bits f.x 18 1 == 0
  | .shfl f => laneTy f.ty && noRound f && bits f.x 18 10 == 0 && decide (bits f.x 9 4 < laneCount f.ty) && decide (bits f.x 3 0 ≤ 3)
  | .red f => redOk f
  | .scan f => redOk f
  | .cmpr f => laneTy f.ty && noRound f && f.x == 0#19
  | .expd f => laneTy f.ty && noRound f && f.x == 0#19
  | .vote f => laneTy f.ty && noRound f && bits f.x 18 2 == 0 && (bits f.x 1 0 != 3 || intTy f.ty)
  | .zip f => laneTy f.ty && noRound f && bits f.x 18 1 == 0
  | .unzip f => laneTy f.ty && noRound f && bits f.x 18 1 == 0
  | .ld f => laneTy f.ty && f.scope == 0#3
  | .lda f => laneTy f.ty && scope14 f.scope
  | .st f => laneTy f.ty && f.scope == 0#3 && f.t0 == 0#12
  | .stl f => laneTy f.ty && scope14 f.scope && f.t0 == 0#12
  | .ldg f => gatherTy f.ty && f.scope == 0#3
  | .stg f => gatherTy f.ty && f.scope == 0#3 && f.t0 == 0#12
  | .ldsp f => laneTy f.ty && f.scope == 0#3
  | .stsp f => laneTy f.ty && f.scope == 0#3 && f.t0 == 0#12
  | .sread f => laneTy f.ty && f.scope == 0#3 && bits f.offs 26 5 == 0
  | .swrite f => laneTy f.ty && f.scope == 0#3 && bits f.offs 26 5 == 0 && f.t0 == 0#12
  | .scfg f => laneTy f.ty && f.scope == 0#3 && bits f.offs 26 8 == 0 && bits f.offs 7 6 != 3 && !(bits f.offs 7 6 == 2 && bits f.offs 5 5 == 1)
  | .sclose f => f.ty == 0#4 && f.scope == 0#3 && bits f.offs 26 5 == 0 && f.t0 == 0#12
  | .ldfwd f => f.ty == 0#4 && f.scope == 0#3 && f.t0 == 0#12
  | .pref f => decide (f.ty.toNat ≤ 1) && f.lsid == 0#5 && f.scope == 0#3 && f.t0 == 0#12
  | .fence f => decide (1 ≤ f.ty.toNat) && decide (f.ty.toNat ≤ 3) && scope14 f.scope && f.offs == 0#27 && f.t0 == 0#12
  | .cwb f => f.ty == 0#4 && scope14 f.scope && f.t0 == 0#12
  | .cinv f => f.ty == 0#4 && scope14 f.scope && f.t0 == 0#12
  | .acopy f => f.ty == 0#4 && scope14 f.scope && f.offs == 0#27 && f.t0 == 0#12
  | .acopy2 f => f.ty == 0#4 && scope14 f.scope && f.offs == 0#27 && f.t0 == 0#12
  | .ashadow f => f.ty == 0#4 && f.scope == 0#3 && f.offs == 0#27
  | .apubPublish f => f.ty == 0#4 && (f.scope == 2#3 || f.scope == 3#3) && f.offs == 0#27 && f.t0 == 0#12
  | .apubDiscard f => f.ty == 1#4 && f.scope == 0#3 && f.offs == 0#27 && f.t0 == 0#12
  | .aprobe f => f.ty == 0#4 && f.scope == 0#3 && f.offs == 0#27
  | .agather f => f.ty == 0#4 && scope14 f.scope && f.offs == 0#27 && f.t0 == 0#12
  | .amoAdd f => [4, 5, 6, 7].contains f.ty.toNat && decide (f.scope.toNat ≤ 4)
  | .amoFadd f => [10, 11].contains f.ty.toNat && decide (f.scope.toNat ≤ 4)
  | .amoMin f => [4, 5, 6, 7].contains f.ty.toNat && decide (f.scope.toNat ≤ 4)
  | .amoMax f => [4, 5, 6, 7].contains f.ty.toNat && decide (f.scope.toNat ≤ 4)
  | .amoAnd f => [4, 5, 6, 7].contains f.ty.toNat && decide (f.scope.toNat ≤ 4)
  | .amoOr f => [4, 5, 6, 7].contains f.ty.toNat && decide (f.scope.toNat ≤ 4)
  | .amoXor f => [4, 5, 6, 7].contains f.ty.toNat && decide (f.scope.toNat ≤ 4)
  | .amoSwap f => [4, 5, 6, 7, 10, 11].contains f.ty.toNat && decide (f.scope.toNat ≤ 4)
  | .amoCas f => [4, 5, 6, 7].contains f.ty.toNat && decide (f.scope.toNat ≤ 4)
  | .amoInc f => [5, 7].contains f.ty.toNat && decide (f.scope.toNat ≤ 4)
  | .amoDec f => [5, 7].contains f.ty.toNat && decide (f.scope.toNat ≤ 4)
  | .mcfg f => f.af == 0#4 && f.bf == 0#4 && f.ksteps == 0#6 && f.sparse == 0#2 && decide (f.cf.toNat ≤ 1) && f.t0 == 0#12 && bits f.x 19 18 != 3 && bits f.x 17 16 != 3 && bits f.x 15 1 == 0
  | .mzero f => f.af == 0#4 && f.bf == 0#4 && f.ksteps == 0#6 && f.sparse == 0#2 && f.cf == 0#2 && f.t0 == 0#12 && f.x == 0#20
  | .mma f => typeCombo f.af f.bf f.cf && decide (f.sparse.toNat ≤ 2) && bits f.x 3 0 == 0 && (f.ksteps == 0#6 || bits f.x 6 4 == 0)
  | .mld f => f.af == 0#4 && f.bf == 0#4 && f.ksteps == 0#6 && f.sparse == 0#2 && f.cf == 0#2 && bits f.x 19 16 == 0
  | .mst f => f.af == 0#4 && f.bf == 0#4 && f.ksteps == 0#6 && f.sparse == 0#2 && f.cf == 0#2 && bits f.x 19 17 == 0
  | .mctr f => f.af == 0#4 && f.bf == 0#4 && f.ksteps == 0#6 && f.sparse == 0#2 && f.cf == 0#2 && f.tile == 0#1 && f.t0 == 0#12 && bits f.x 9 0 != 0 && decide (bits f.x 16 10 ≤ 63)
  | .mbound f => f.af == 0#4 && f.bf == 0#4 && f.ksteps == 0#6 && f.sparse == 0#2 && f.cf == 0#2 && f.tile == 0#1 && f.t0 == 0#12 && bits f.x 15 0 == 0
  | .wbload f => f.af == 0#4 && elemTy f.bf && f.cf == 0#2 && f.tile == 0#1 && f.ksteps == 0#6 && decide (f.sparse.toNat ≤ 2) && bits f.x 19 8 == 0
  | .mputa f => f.bf == 0#4 && elemCf f.af f.cf && f.ksteps == 1#6 && f.sparse == 0#2 && f.t0 == 0#12 && bits f.x 19 8 == 0 && bits f.x 6 0 == 0
  | .mputb f => f.af == 0#4 && elemCf f.bf f.cf && f.ksteps == 1#6 && decide (f.sparse.toNat ≤ 2) && f.x == 0#20
  | .mred f => f.af == 0#4 && f.bf == 0#4 && f.ksteps == 0#6 && f.sparse == 0#2 && f.cf == 0#2 && bits f.x 11 2 == 0 && bits f.x 1 0 != 3
  | .mrow f => f.af == 0#4 && f.bf == 0#4 && f.ksteps == 0#6 && f.sparse == 0#2 && f.cf == 0#2 && bits f.x 6 1 == 0 && (bits f.x 0 0 == 0 || bits f.x 19 7 == 0)
  | .qpush f => f.sub == 0#4 && decide (f.imm.toNat ≤ 1)
  | .qpop f => f.sub == 0#4 && decide (f.imm.toNat ≤ 1)
  | .qpeek f => f.sub == 0#4 && decide (f.imm.toNat ≤ 1)
  | .qinfo f => decide (f.sub.toNat ≤ 7) && f.limit == 0#12 && f.imm == 0#11
  | .mbsend f => f.sub == 0#4 && decide (f.imm.toNat ≤ 1)
  | .mbrecv f => f.sub == 0#4 && bits f.imm 10 5 == 0 && bits f.imm 4 1 != 0
  | .mcput f => f.sub == 0#4 && decide (f.imm.toNat ≤ 1)
  | .mctake f => f.sub == 0#4 && decide (f.imm.toNat ≤ 1)
  | .launch f => f.sub == 0#4 && f.imm == 0#11
  | .kinfo f => decide (f.sub.toNat ≤ 7) && f.limit == 0#12 && f.imm == 0#11
  | .spawn f => f.sub == 0#4 && f.limit == 0#12 && f.imm == 0#11
  | .syncWait f => f.sub == 0#4 && decide (f.imm.toNat ≤ 1)
  | .syncNext f => f.sub == 1#4 && decide (f.imm.toNat ≤ 1)
  | .evwait f => f.sub == 0#4 && bits f.imm 10 6 == 0 && (bits f.imm 5 5 == 0 || bits f.imm 4 1 == 0)
  | .evsig f => f.sub == 0#4 && f.limit == 0#12 && f.imm == 0#11
  | .ginfo f => decide (f.sub.toNat ≤ 7) && f.limit == 0#12 && f.imm == 0#11
  | .binitAlloc f => f.sub == 0#4 && f.limit == 0#12 && f.imm == 0#11
  | .binitFree f => f.sub == 2#4 && f.limit == 0#12 && f.imm == 0#11
  | .arrive f => f.sub == 0#4 && decide (f.imm.toNat ≤ 1)
  | .arriveDrop f => f.sub == 1#4 && decide (f.imm.toNat ≤ 1)
  | .bwait f => f.sub == 0#4 && decide (f.imm.toNat ≤ 1)
  | .fork f => f.sub == 0#4 && f.imm == 0#11
  | .join f => f.sub == 0#4 && f.imm == 0#11
  | .rregionDecl f => f.sub == 0#4 && f.limit == 0#12 && f.imm == 0#11
  | .rregionDrop f => f.sub == 1#4 && f.limit == 0#12 && f.imm == 0#11
  | .rinfo f => decide (f.sub.toNat ≤ 5) && f.limit == 0#12 && f.imm == 0#11
  | .trvopen f => f.sub == 0#4 && f.limit == 0#12 && f.imm == 0#11
  | .trvput f => f.sub == 0#4 && decide (f.imm.toNat ≤ 1)
  | .trvtake f => f.sub == 0#4 && bits f.imm 10 4 == 0
  | .trvdonePass f => f.sub == 0#4 && f.limit == 0#12 && f.imm == 0#11
  | .trvdoneDrop f => f.sub == 1#4 && f.limit == 0#12 && f.imm == 0#11
  | .trvcloseDrain f => f.sub == 0#4 && f.limit == 0#12 && f.imm == 0#11
  | .trvcloseAbort f => f.sub == 1#4 && f.limit == 0#12 && f.imm == 0#11
  | .trvstat f => decide (f.sub.toNat ≤ 5) && f.limit == 0#12 && bits f.imm 10 3 == 0
  | .ctxq f => decide (f.sub.toNat ≤ 7) && f.limit == 0#12 && f.imm == 0#11
  | .frec f => f.sub == 0#4 && f.limit == 0#12 && f.imm == 0#11
  | .fresumeResume f => f.sub == 0#4 && f.limit == 0#12 && f.imm == 0#11
  | .fresumeRedirect f => f.sub == 1#4 && f.limit == 0#12 && f.imm == 0#11
  | .fresumeEnd f => f.sub == 2#4 && f.limit == 0#12 && f.imm == 0#11
  | .pgq f => f.sub == 0#4 && f.limit == 0#12 && f.imm == 0#11
  | .pgadviseWillneed f => f.sub == 0#4 && f.limit == 0#12 && f.imm == 0#11
  | .pgadviseTranslate f => f.sub == 1#4 && f.limit == 0#12 && f.imm == 0#11
  | .pgadviseEvictbehind f => f.sub == 2#4 && f.limit == 0#12 && f.imm == 0#11
  | .pgadviseKeep f => f.sub == 3#4 && f.limit == 0#12 && f.imm == 0#11
  | .acoll f => decide (f.sub.toNat ≤ 3) && bits f.imm 10 4 == 0 && bits f.imm 1 0 != 3 && (f.sub.toNat < 2 || bits f.imm 1 0 == 0)
  | .lnkq f => decide (f.sub.toNat ≤ 5) && f.limit == 0#12 && f.imm == 0#11
  | .station f => f.sub == 0#4 && f.limit == 0#12 && f.imm == 0#11
  | .dmark f => f.sub == 0#4 && f.limit == 0#12 && f.t0 == 0#12 && f.t1 == 0#12
  | .probe f => decide (f.sub.toNat ≤ 5) && f.limit == 0#12 && f.imm == 0#11
  | .create _ => true
  | .configure _ => true
  | .bind _ => true
  | .run _ => true
  | .unbind _ => true
  | .preempt _ => true
  | .restore _ => true
  | .freeze _ => true
  | .resume _ => true
  | .dump _ => true
  | .kill _ => true
  | .danswer _ => true
  | .load _ => true
  | .unload _ => true
  | .qcreate _ => true
  | .qopen _ => true
  | .qdrain _ => true
  | .qclose _ => true
  | .qdestroy _ => true
  | .qquery _ => true
  | .balloc _ => true
  | .bfree _ => true
  | .bquery _ => true
  | .punmap _ => true
  | .pmigrate _ => true
  | .pevict _ => true
  | .psplit _ => true
  | .ppin _ => true
  | .punpin _ => true
  | .pdomain _ => true
  | .rsync _ => true
  | .panswer _ => true
  | .pstock _ => true
  | .manswer _ => true
  | .gresume _ => true
  | .logcfg _ => true
  | .logtrim _ => true
  | .reverseToStation _ => true
  | .reverseBlock _ => true
  | .trcfg _ => true
  | .record _ => true
  | .dbgmatch _ => true
  | .cutread _ => true
  | .fetchOpportunity => true
  | .fetchComplete => true
  | .fillDelivery => true
  | .codePageVerification => true
  | .instancePlace => true
  | .tokenDelivery => true
  | .blockCommit => true
  | .exitMispredict => true
  | .predictorEntryClear => true
  | .watchdogExpiry => true
  | .slotWaitEntry => true
  | .slotRetention => true
  | .waitLimitExpiry => true
  | .overflowReinject => true
  | .thermalThreshold => true
  | .thermalSlotDisable => true
  | .thermalSlotEnable => true
  | .displacedMove => true
  | .thermalRankingRefresh => true
  | .steal => true
  | .matrixStepStart => true
  | .matrixStepFinish => true
  | .wbloadStepStart => true
  | .pairMultiplyPhase => true
  | .pairAccumulatePhase => true
  | .atomicEarlyPerform => true
  | .releasePerform => true
  | .scratchpadStoreArrival => true
  | .streamHandover => true
  | .ldfwdReplyDelivery => true
  | .mailboxDelivery => true
  | .copyCompletion => true
  | .shadowPublication => true
  | .collectiveCompletion => true
  | .dispatchRemove => true
  | .groupLevelRise => true
  | .groupDispatch => true
  | .groupRetire => true
  | .barrierEngineArrival => true
  | .gatingWindowEnd => true
  | .quiescenceSweep => true
  | .saveImageWritten => true
  | .dumpStart => true
  | .dumpComplete => true
  | .teardownComplete => true
  | .loadChecksComplete => true
  | .hostAppend => true
  | .queueStorageEcc => true
  | .stageLaunchAppend => true
  | .mergeComplete => true
  | .ridFree => true
  | .drainTokenEmerge => true
  | .migrationComplete => true
  | .evictionComplete => true
  | .splitComplete => true
  | .stationMarker => true
  | .logDrain => true
  | .timePacket => true
  | .lifetimeRecordWrite => true
  | .flitReceive => true
  | .portTrainingDone => true
  | .laneErrorDegrade => true
  | .portEnable => true
  | .portDisable => true
  | .isolate => true
  | .release => true
  | .linkTimeout => true
  | .ptpSync => true
  | .cxlSnoop => true
  | .hostCxlMemWrite => true
  | .hostCxlMemRead => true
  | .backInvalidateComplete => true
  | .imeasSample => true
  | .voltageDroop => true
  | .pllLock => true
  | .thermalTrip => true
  | .powerOn => true
  | .bringupStepComplete => true
  | .bringupTimeout => true
  | .powerDown => true
  | .getVersion => true
  | .getCapabilities => true
  | .negotiateAlgorithms => true
  | .getDigests => true
  | .getCertificate => true
  | .challenge => true
  | .getMeasurements => true
  | .spdmUnsupportedRequest => true
  | .islIlimWrite => true
  | .islImeasRead => true
  | .reqHeadWrite => true
  | .mgmtRegisterWrite => true
  | .partialApertureWrite => true
  | .enginePageWait => true

/-- Operands an instruction requires: 0 a, 1 b, 2 c, 4 f (04 R89); `p` is required exactly when PR is not 00. -/
def required (i : Instr) : List Nat :=
  match i with
  | .add f => withB f [0]
  | .sub f => withB f [0]
  | .mul f => withB f [0]
  | .mulh f => withB f [0]
  | .mad _ => [0, 1, 2]
  | .div f => withB f [0]
  | .rem f => withB f [0]
  | .min f => withB f [0]
  | .max f => withB f [0]
  | .abs _ => [0]
  | .neg _ => [0]
  | .and f => withB f [0]
  | .or f => withB f [0]
  | .xor f => withB f [0]
  | .andn f => withB f [0]
  | .not _ => [0]
  | .shl f => withB f [0]
  | .shr f => withB f [0]
  | .sar f => withB f [0]
  | .rotl f => withB f [0]
  | .clz _ => [0]
  | .popc _ => [0]
  | .brev _ => [0]
  | .bfx _ => [0]
  | .bfi _ => [0, 1]
  | .adds f => withB f [0]
  | .subs f => withB f [0]
  | .addc f => withB f [0]
  | .lea _ => [0, 1]
  | .sad _ => [0, 1]
  | .avg f => withB f [0]
  | .cmp f => withB f [0]
  | .fcmp _ => [0, 1]
  | .sel _ => [0, 1, 2]
  | .mov _ => [0]
  | .movi _ => []
  | .movhi _ => [0]
  | .null _ => []
  | .pand _ => [0, 1]
  | .por _ => [0, 1]
  | .pnot _ => [0]
  | .tagrd _ => []
  | .lane _ => []
  | .bcast f => withB f [0]
  | .extl f => withB f [0]
  | .insl f => withC f [0, 1]
  | .getsr _ => []
  | .br _ => []
  | .brind _ => [0]
  | .call _ => []
  | .calli _ => [0]
  | .ret _ => [0]
  | .loop _ => []
  | .halt _ => []
  | .yield _ => []
  | .compose _ => []
  | .trap _ => []
  | .sys _ => []
  | .setsr _ => [0]
  | .hint _ => []
  | .brkp _ => []
  | .fadd _ => [0, 1]
  | .fsub _ => [0, 1]
  | .fmul _ => [0, 1]
  | .fma _ => [0, 1, 2]
  | .fms _ => [0, 1, 2]
  | .fnma _ => [0, 1, 2]
  | .fmin _ => [0, 1]
  | .fmax _ => [0, 1]
  | .fabs _ => [0]
  | .fneg _ => [0]
  | .fdiv _ => [0, 1]
  | .fsqrt _ => [0]
  | .frcp _ => [0]
  | .frsqrt _ => [0]
  | .fexp2 _ => [0]
  | .flog2 _ => [0]
  | .ftanh _ => [0]
  | .fsig _ => [0]
  | .fround _ => [0]
  | .fclass _ => [0]
  | .fscale f => withB f [0]
  | .fdot2 _ => [0, 1]
  | .fdot4 _ => [0, 1]
  | .fclamp _ => [0, 1, 2]
  | .fcopysign _ => [0, 1]
  | .cvt _ => [0]
  | .cvti _ => [0]
  | .cvtf _ => [0]
  | .fmt _ => []
  | .pack _ => [0, 1]
  | .unpack _ => [0]
  | .fmaxexp _ => [0]
  | .perm f => (if bits f.x 0 0 = 1 then [0, 1, 2] else [0, 1])
  | .shfl _ => [0]
  | .red _ => [0]
  | .scan _ => [0]
  | .cmpr _ => [0, 1]
  | .expd _ => [0, 1]
  | .vote _ => [0]
  | .zip _ => [0, 1]
  | .unzip _ => [0, 1]
  | .ld _ => [0]
  | .lda _ => [0]
  | .st _ => [0, 1]
  | .stl _ => [0, 1]
  | .ldg _ => [0, 1]
  | .stg _ => [0, 1, 2]
  | .ldsp _ => [0]
  | .stsp _ => [0, 1]
  | .sread _ => []
  | .swrite _ => [0]
  | .scfg _ => [0]
  | .sclose _ => []
  | .ldfwd _ => [0, 1]
  | .pref _ => [0]
  | .fence _ => []
  | .cwb _ => [0, 1]
  | .cinv _ => [0, 1]
  | .acopy _ => [0]
  | .acopy2 _ => [0]
  | .ashadow _ => [0]
  | .apubPublish _ => [0]
  | .apubDiscard _ => [0]
  | .aprobe _ => [0]
  | .agather _ => [0]
  | .amoAdd _ => [0, 1]
  | .amoFadd _ => [0, 1]
  | .amoMin _ => [0, 1]
  | .amoMax _ => [0, 1]
  | .amoAnd _ => [0, 1]
  | .amoOr _ => [0, 1]
  | .amoXor _ => [0, 1]
  | .amoSwap _ => [0, 1]
  | .amoCas _ => [0, 1, 2]
  | .amoInc _ => [0, 1]
  | .amoDec _ => [0, 1]
  | .mcfg _ => []
  | .mzero _ => []
  | .mma _ => [0, 1]
  | .mld _ => [0]
  | .mst _ => [0]
  | .mctr _ => []
  | .mbound _ => [0]
  | .wbload _ => [0, 1]
  | .mputa _ => [0]
  | .mputb _ => [0]
  | .mred _ => []
  | .mrow f => (if bits f.x 0 0 = 1 then [0] else [])
  | .qpush _ => [0, 1]
  | .qpop _ => [0]
  | .qpeek _ => [0]
  | .qinfo _ => [0]
  | .mbsend _ => [0, 1]
  | .mbrecv _ => []
  | .mcput _ => [0, 1]
  | .mctake _ => [0]
  | .launch _ => [0, 1]
  | .kinfo _ => []
  | .spawn _ => [0, 1]
  | .syncWait _ => [0]
  | .syncNext _ => [0]
  | .evwait f => (if bits f.imm 5 5 = 1 then [0] else [])
  | .evsig _ => [0]
  | .ginfo _ => []
  | .binitAlloc _ => [0]
  | .binitFree _ => [0]
  | .arrive _ => [0]
  | .arriveDrop _ => [0]
  | .bwait _ => [0, 1]
  | .fork _ => [0, 1]
  | .join _ => [0]
  | .rregionDecl _ => [0]
  | .rregionDrop _ => [0]
  | .rinfo f => (if f.sub.toNat = 1 ∨ f.sub.toNat = 2 then [] else [0])
  | .trvopen _ => [0]
  | .trvput _ => [0, 1]
  | .trvtake _ => [0]
  | .trvdonePass _ => [0]
  | .trvdoneDrop _ => [0]
  | .trvcloseDrain _ => [0]
  | .trvcloseAbort _ => [0]
  | .trvstat _ => [0]
  | .ctxq _ => []
  | .frec _ => [0]
  | .fresumeResume _ => [0]
  | .fresumeRedirect _ => [0, 1]
  | .fresumeEnd _ => [0]
  | .pgq _ => [0]
  | .pgadviseWillneed _ => [0, 1]
  | .pgadviseTranslate _ => [0, 1]
  | .pgadviseEvictbehind _ => [0, 1]
  | .pgadviseKeep _ => [0, 1]
  | .acoll _ => [0]
  | .lnkq f => (if f.sub.toNat = 2 ∨ f.sub.toNat = 5 then [] else [0])
  | .station _ => [0]
  | .dmark _ => [0]
  | .probe _ => []
  | .create _ => []
  | .configure _ => []
  | .bind _ => []
  | .run _ => []
  | .unbind _ => []
  | .preempt _ => []
  | .restore _ => []
  | .freeze _ => []
  | .resume _ => []
  | .dump _ => []
  | .kill _ => []
  | .danswer _ => []
  | .load _ => []
  | .unload _ => []
  | .qcreate _ => []
  | .qopen _ => []
  | .qdrain _ => []
  | .qclose _ => []
  | .qdestroy _ => []
  | .qquery _ => []
  | .balloc _ => []
  | .bfree _ => []
  | .bquery _ => []
  | .punmap _ => []
  | .pmigrate _ => []
  | .pevict _ => []
  | .psplit _ => []
  | .ppin _ => []
  | .punpin _ => []
  | .pdomain _ => []
  | .rsync _ => []
  | .panswer _ => []
  | .pstock _ => []
  | .manswer _ => []
  | .gresume _ => []
  | .logcfg _ => []
  | .logtrim _ => []
  | .reverseToStation _ => []
  | .reverseBlock _ => []
  | .trcfg _ => []
  | .record _ => []
  | .dbgmatch _ => []
  | .cutread _ => []
  | .fetchOpportunity => []
  | .fetchComplete => []
  | .fillDelivery => []
  | .codePageVerification => []
  | .instancePlace => []
  | .tokenDelivery => []
  | .blockCommit => []
  | .exitMispredict => []
  | .predictorEntryClear => []
  | .watchdogExpiry => []
  | .slotWaitEntry => []
  | .slotRetention => []
  | .waitLimitExpiry => []
  | .overflowReinject => []
  | .thermalThreshold => []
  | .thermalSlotDisable => []
  | .thermalSlotEnable => []
  | .displacedMove => []
  | .thermalRankingRefresh => []
  | .steal => []
  | .matrixStepStart => []
  | .matrixStepFinish => []
  | .wbloadStepStart => []
  | .pairMultiplyPhase => []
  | .pairAccumulatePhase => []
  | .atomicEarlyPerform => []
  | .releasePerform => []
  | .scratchpadStoreArrival => []
  | .streamHandover => []
  | .ldfwdReplyDelivery => []
  | .mailboxDelivery => []
  | .copyCompletion => []
  | .shadowPublication => []
  | .collectiveCompletion => []
  | .dispatchRemove => []
  | .groupLevelRise => []
  | .groupDispatch => []
  | .groupRetire => []
  | .barrierEngineArrival => []
  | .gatingWindowEnd => []
  | .quiescenceSweep => []
  | .saveImageWritten => []
  | .dumpStart => []
  | .dumpComplete => []
  | .teardownComplete => []
  | .loadChecksComplete => []
  | .hostAppend => []
  | .queueStorageEcc => []
  | .stageLaunchAppend => []
  | .mergeComplete => []
  | .ridFree => []
  | .drainTokenEmerge => []
  | .migrationComplete => []
  | .evictionComplete => []
  | .splitComplete => []
  | .stationMarker => []
  | .logDrain => []
  | .timePacket => []
  | .lifetimeRecordWrite => []
  | .flitReceive => []
  | .portTrainingDone => []
  | .laneErrorDegrade => []
  | .portEnable => []
  | .portDisable => []
  | .isolate => []
  | .release => []
  | .linkTimeout => []
  | .ptpSync => []
  | .cxlSnoop => []
  | .hostCxlMemWrite => []
  | .hostCxlMemRead => []
  | .backInvalidateComplete => []
  | .imeasSample => []
  | .voltageDroop => []
  | .pllLock => []
  | .thermalTrip => []
  | .powerOn => []
  | .bringupStepComplete => []
  | .bringupTimeout => []
  | .powerDown => []
  | .getVersion => []
  | .getCapabilities => []
  | .negotiateAlgorithms => []
  | .getDigests => []
  | .getCertificate => []
  | .challenge => []
  | .getMeasurements => []
  | .spdmUnsupportedRequest => []
  | .islIlimWrite => []
  | .islImeasRead => []
  | .reqHeadWrite => []
  | .mgmtRegisterWrite => []
  | .partialApertureWrite => []
  | .enginePageWait => []

/-- Operands an instruction may have besides the required ones. -/
def optional (i : Instr) : List Nat :=
  match i with
  | .add _ => []
  | .sub _ => []
  | .mul _ => []
  | .mulh _ => []
  | .mad _ => []
  | .div _ => []
  | .rem _ => []
  | .min _ => []
  | .max _ => []
  | .abs _ => []
  | .neg _ => []
  | .and _ => []
  | .or _ => []
  | .xor _ => []
  | .andn _ => []
  | .not _ => []
  | .shl _ => []
  | .shr _ => []
  | .sar _ => []
  | .rotl _ => []
  | .clz _ => []
  | .popc _ => []
  | .brev _ => []
  | .bfx _ => []
  | .bfi _ => []
  | .adds _ => []
  | .subs _ => []
  | .addc _ => [2]
  | .lea _ => []
  | .sad _ => [2]
  | .avg _ => []
  | .cmp _ => []
  | .fcmp _ => []
  | .sel _ => []
  | .mov _ => []
  | .movi _ => []
  | .movhi _ => []
  | .null _ => [0]
  | .pand _ => []
  | .por _ => []
  | .pnot _ => []
  | .tagrd _ => []
  | .lane _ => []
  | .bcast _ => []
  | .extl _ => []
  | .insl _ => []
  | .getsr _ => []
  | .br _ => []
  | .brind _ => []
  | .call _ => []
  | .calli _ => []
  | .ret _ => []
  | .loop _ => []
  | .halt _ => []
  | .yield _ => []
  | .compose _ => []
  | .trap _ => [0]
  | .sys _ => [0]
  | .setsr _ => []
  | .hint _ => []
  | .brkp _ => []
  | .fadd _ => [4]
  | .fsub _ => [4]
  | .fmul _ => [4]
  | .fma _ => [4]
  | .fms _ => [4]
  | .fnma _ => [4]
  | .fmin _ => []
  | .fmax _ => []
  | .fabs _ => []
  | .fneg _ => []
  | .fdiv _ => []
  | .fsqrt _ => []
  | .frcp _ => []
  | .frsqrt _ => []
  | .fexp2 _ => []
  | .flog2 _ => []
  | .ftanh _ => []
  | .fsig _ => []
  | .fround _ => []
  | .fclass _ => []
  | .fscale _ => []
  | .fdot2 _ => [2, 4]
  | .fdot4 _ => [2, 4]
  | .fclamp _ => []
  | .fcopysign _ => []
  | .cvt _ => [4]
  | .cvti _ => [4]
  | .cvtf _ => []
  | .fmt _ => []
  | .pack _ => []
  | .unpack _ => []
  | .fmaxexp _ => []
  | .perm _ => []
  | .shfl _ => []
  | .red _ => []
  | .scan _ => []
  | .cmpr _ => []
  | .expd _ => [2]
  | .vote _ => []
  | .zip _ => []
  | .unzip _ => []
  | .ld _ => []
  | .lda _ => []
  | .st _ => [2]
  | .stl _ => [2]
  | .ldg _ => []
  | .stg _ => []
  | .ldsp _ => []
  | .stsp _ => [2]
  | .sread _ => []
  | .swrite _ => []
  | .scfg _ => []
  | .sclose _ => []
  | .ldfwd _ => []
  | .pref _ => []
  | .fence _ => []
  | .cwb _ => []
  | .cinv _ => []
  | .acopy _ => []
  | .acopy2 _ => []
  | .ashadow _ => []
  | .apubPublish _ => []
  | .apubDiscard _ => []
  | .aprobe _ => []
  | .agather _ => []
  | .amoAdd _ => []
  | .amoFadd _ => []
  | .amoMin _ => []
  | .amoMax _ => []
  | .amoAnd _ => []
  | .amoOr _ => []
  | .amoXor _ => []
  | .amoSwap _ => []
  | .amoCas _ => []
  | .amoInc _ => []
  | .amoDec _ => []
  | .mcfg _ => []
  | .mzero _ => []
  | .mma _ => []
  | .mld _ => []
  | .mst _ => []
  | .mctr _ => []
  | .mbound _ => []
  | .wbload _ => []
  | .mputa _ => []
  | .mputb _ => []
  | .mred _ => []
  | .mrow _ => []
  | .qpush _ => []
  | .qpop _ => []
  | .qpeek _ => []
  | .qinfo _ => []
  | .mbsend _ => []
  | .mbrecv _ => []
  | .mcput _ => [2]
  | .mctake _ => []
  | .launch _ => []
  | .kinfo _ => [0]
  | .spawn _ => [2]
  | .syncWait _ => []
  | .syncNext _ => []
  | .evwait _ => []
  | .evsig _ => []
  | .ginfo _ => []
  | .binitAlloc _ => []
  | .binitFree _ => []
  | .arrive _ => []
  | .arriveDrop _ => []
  | .bwait _ => []
  | .fork _ => []
  | .join _ => []
  | .rregionDecl _ => []
  | .rregionDrop _ => []
  | .rinfo _ => []
  | .trvopen _ => []
  | .trvput _ => [2]
  | .trvtake _ => []
  | .trvdonePass _ => []
  | .trvdoneDrop _ => []
  | .trvcloseDrain _ => []
  | .trvcloseAbort _ => []
  | .trvstat _ => []
  | .ctxq _ => []
  | .frec _ => []
  | .fresumeResume _ => []
  | .fresumeRedirect _ => []
  | .fresumeEnd _ => []
  | .pgq _ => []
  | .pgadviseWillneed _ => []
  | .pgadviseTranslate _ => []
  | .pgadviseEvictbehind _ => []
  | .pgadviseKeep _ => []
  | .acoll _ => []
  | .lnkq _ => []
  | .station _ => []
  | .dmark _ => []
  | .probe _ => []
  | .create _ => []
  | .configure _ => []
  | .bind _ => []
  | .run _ => []
  | .unbind _ => []
  | .preempt _ => []
  | .restore _ => []
  | .freeze _ => []
  | .resume _ => []
  | .dump _ => []
  | .kill _ => []
  | .danswer _ => []
  | .load _ => []
  | .unload _ => []
  | .qcreate _ => []
  | .qopen _ => []
  | .qdrain _ => []
  | .qclose _ => []
  | .qdestroy _ => []
  | .qquery _ => []
  | .balloc _ => []
  | .bfree _ => []
  | .bquery _ => []
  | .punmap _ => []
  | .pmigrate _ => []
  | .pevict _ => []
  | .psplit _ => []
  | .ppin _ => []
  | .punpin _ => []
  | .pdomain _ => []
  | .rsync _ => []
  | .panswer _ => []
  | .pstock _ => []
  | .manswer _ => []
  | .gresume _ => []
  | .logcfg _ => []
  | .logtrim _ => []
  | .reverseToStation _ => []
  | .reverseBlock _ => []
  | .trcfg _ => []
  | .record _ => []
  | .dbgmatch _ => []
  | .cutread _ => []
  | .fetchOpportunity => []
  | .fetchComplete => []
  | .fillDelivery => []
  | .codePageVerification => []
  | .instancePlace => []
  | .tokenDelivery => []
  | .blockCommit => []
  | .exitMispredict => []
  | .predictorEntryClear => []
  | .watchdogExpiry => []
  | .slotWaitEntry => []
  | .slotRetention => []
  | .waitLimitExpiry => []
  | .overflowReinject => []
  | .thermalThreshold => []
  | .thermalSlotDisable => []
  | .thermalSlotEnable => []
  | .displacedMove => []
  | .thermalRankingRefresh => []
  | .steal => []
  | .matrixStepStart => []
  | .matrixStepFinish => []
  | .wbloadStepStart => []
  | .pairMultiplyPhase => []
  | .pairAccumulatePhase => []
  | .atomicEarlyPerform => []
  | .releasePerform => []
  | .scratchpadStoreArrival => []
  | .streamHandover => []
  | .ldfwdReplyDelivery => []
  | .mailboxDelivery => []
  | .copyCompletion => []
  | .shadowPublication => []
  | .collectiveCompletion => []
  | .dispatchRemove => []
  | .groupLevelRise => []
  | .groupDispatch => []
  | .groupRetire => []
  | .barrierEngineArrival => []
  | .gatingWindowEnd => []
  | .quiescenceSweep => []
  | .saveImageWritten => []
  | .dumpStart => []
  | .dumpComplete => []
  | .teardownComplete => []
  | .loadChecksComplete => []
  | .hostAppend => []
  | .queueStorageEcc => []
  | .stageLaunchAppend => []
  | .mergeComplete => []
  | .ridFree => []
  | .drainTokenEmerge => []
  | .migrationComplete => []
  | .evictionComplete => []
  | .splitComplete => []
  | .stationMarker => []
  | .logDrain => []
  | .timePacket => []
  | .lifetimeRecordWrite => []
  | .flitReceive => []
  | .portTrainingDone => []
  | .laneErrorDegrade => []
  | .portEnable => []
  | .portDisable => []
  | .isolate => []
  | .release => []
  | .linkTimeout => []
  | .ptpSync => []
  | .cxlSnoop => []
  | .hostCxlMemWrite => []
  | .hostCxlMemRead => []
  | .backInvalidateComplete => []
  | .imeasSample => []
  | .voltageDroop => []
  | .pllLock => []
  | .thermalTrip => []
  | .powerOn => []
  | .bringupStepComplete => []
  | .bringupTimeout => []
  | .powerDown => []
  | .getVersion => []
  | .getCapabilities => []
  | .negotiateAlgorithms => []
  | .getDigests => []
  | .getCertificate => []
  | .challenge => []
  | .getMeasurements => []
  | .spdmUnsupportedRequest => []
  | .islIlimWrite => []
  | .islImeasRead => []
  | .reqHeadWrite => []
  | .mgmtRegisterWrite => []
  | .partialApertureWrite => []
  | .enginePageWait => []

/-- STG (04 R92); 0 for commands and events. -/
def stgOf (i : Instr) : BitVec 3 :=
  match i with
  | .add f => f.stg
  | .sub f => f.stg
  | .mul f => f.stg
  | .mulh f => f.stg
  | .mad f => f.stg
  | .div f => f.stg
  | .rem f => f.stg
  | .min f => f.stg
  | .max f => f.stg
  | .abs f => f.stg
  | .neg f => f.stg
  | .and f => f.stg
  | .or f => f.stg
  | .xor f => f.stg
  | .andn f => f.stg
  | .not f => f.stg
  | .shl f => f.stg
  | .shr f => f.stg
  | .sar f => f.stg
  | .rotl f => f.stg
  | .clz f => f.stg
  | .popc f => f.stg
  | .brev f => f.stg
  | .bfx f => f.stg
  | .bfi f => f.stg
  | .adds f => f.stg
  | .subs f => f.stg
  | .addc f => f.stg
  | .lea f => f.stg
  | .sad f => f.stg
  | .avg f => f.stg
  | .cmp f => f.stg
  | .fcmp f => f.stg
  | .sel f => f.stg
  | .mov f => f.stg
  | .movi f => f.stg
  | .movhi f => f.stg
  | .null f => f.stg
  | .pand f => f.stg
  | .por f => f.stg
  | .pnot f => f.stg
  | .tagrd f => f.stg
  | .lane f => f.stg
  | .bcast f => f.stg
  | .extl f => f.stg
  | .insl f => f.stg
  | .getsr f => f.stg
  | .br f => f.stg
  | .brind f => f.stg
  | .call f => f.stg
  | .calli f => f.stg
  | .ret f => f.stg
  | .loop f => f.stg
  | .halt f => f.stg
  | .yield f => f.stg
  | .compose f => f.stg
  | .trap f => f.stg
  | .sys f => f.stg
  | .setsr f => f.stg
  | .hint f => f.stg
  | .brkp f => f.stg
  | .fadd f => f.stg
  | .fsub f => f.stg
  | .fmul f => f.stg
  | .fma f => f.stg
  | .fms f => f.stg
  | .fnma f => f.stg
  | .fmin f => f.stg
  | .fmax f => f.stg
  | .fabs f => f.stg
  | .fneg f => f.stg
  | .fdiv f => f.stg
  | .fsqrt f => f.stg
  | .frcp f => f.stg
  | .frsqrt f => f.stg
  | .fexp2 f => f.stg
  | .flog2 f => f.stg
  | .ftanh f => f.stg
  | .fsig f => f.stg
  | .fround f => f.stg
  | .fclass f => f.stg
  | .fscale f => f.stg
  | .fdot2 f => f.stg
  | .fdot4 f => f.stg
  | .fclamp f => f.stg
  | .fcopysign f => f.stg
  | .cvt f => f.stg
  | .cvti f => f.stg
  | .cvtf f => f.stg
  | .fmt f => f.stg
  | .pack f => f.stg
  | .unpack f => f.stg
  | .fmaxexp f => f.stg
  | .perm f => f.stg
  | .shfl f => f.stg
  | .red f => f.stg
  | .scan f => f.stg
  | .cmpr f => f.stg
  | .expd f => f.stg
  | .vote f => f.stg
  | .zip f => f.stg
  | .unzip f => f.stg
  | .ld f => f.stg
  | .lda f => f.stg
  | .st f => f.stg
  | .stl f => f.stg
  | .ldg f => f.stg
  | .stg f => f.stg
  | .ldsp f => f.stg
  | .stsp f => f.stg
  | .sread f => f.stg
  | .swrite f => f.stg
  | .scfg f => f.stg
  | .sclose f => f.stg
  | .ldfwd f => f.stg
  | .pref f => f.stg
  | .fence f => f.stg
  | .cwb f => f.stg
  | .cinv f => f.stg
  | .acopy f => f.stg
  | .acopy2 f => f.stg
  | .ashadow f => f.stg
  | .apubPublish f => f.stg
  | .apubDiscard f => f.stg
  | .aprobe f => f.stg
  | .agather f => f.stg
  | .amoAdd f => f.stg
  | .amoFadd f => f.stg
  | .amoMin f => f.stg
  | .amoMax f => f.stg
  | .amoAnd f => f.stg
  | .amoOr f => f.stg
  | .amoXor f => f.stg
  | .amoSwap f => f.stg
  | .amoCas f => f.stg
  | .amoInc f => f.stg
  | .amoDec f => f.stg
  | .mcfg f => f.stg
  | .mzero f => f.stg
  | .mma f => f.stg
  | .mld f => f.stg
  | .mst f => f.stg
  | .mctr f => f.stg
  | .mbound f => f.stg
  | .wbload f => f.stg
  | .mputa f => f.stg
  | .mputb f => f.stg
  | .mred f => f.stg
  | .mrow f => f.stg
  | .qpush f => f.stg
  | .qpop f => f.stg
  | .qpeek f => f.stg
  | .qinfo f => f.stg
  | .mbsend f => f.stg
  | .mbrecv f => f.stg
  | .mcput f => f.stg
  | .mctake f => f.stg
  | .launch f => f.stg
  | .kinfo f => f.stg
  | .spawn f => f.stg
  | .syncWait f => f.stg
  | .syncNext f => f.stg
  | .evwait f => f.stg
  | .evsig f => f.stg
  | .ginfo f => f.stg
  | .binitAlloc f => f.stg
  | .binitFree f => f.stg
  | .arrive f => f.stg
  | .arriveDrop f => f.stg
  | .bwait f => f.stg
  | .fork f => f.stg
  | .join f => f.stg
  | .rregionDecl f => f.stg
  | .rregionDrop f => f.stg
  | .rinfo f => f.stg
  | .trvopen f => f.stg
  | .trvput f => f.stg
  | .trvtake f => f.stg
  | .trvdonePass f => f.stg
  | .trvdoneDrop f => f.stg
  | .trvcloseDrain f => f.stg
  | .trvcloseAbort f => f.stg
  | .trvstat f => f.stg
  | .ctxq f => f.stg
  | .frec f => f.stg
  | .fresumeResume f => f.stg
  | .fresumeRedirect f => f.stg
  | .fresumeEnd f => f.stg
  | .pgq f => f.stg
  | .pgadviseWillneed f => f.stg
  | .pgadviseTranslate f => f.stg
  | .pgadviseEvictbehind f => f.stg
  | .pgadviseKeep f => f.stg
  | .acoll f => f.stg
  | .lnkq f => f.stg
  | .station f => f.stg
  | .dmark f => f.stg
  | .probe f => f.stg
  | .create _ => 0#3
  | .configure _ => 0#3
  | .bind _ => 0#3
  | .run _ => 0#3
  | .unbind _ => 0#3
  | .preempt _ => 0#3
  | .restore _ => 0#3
  | .freeze _ => 0#3
  | .resume _ => 0#3
  | .dump _ => 0#3
  | .kill _ => 0#3
  | .danswer _ => 0#3
  | .load _ => 0#3
  | .unload _ => 0#3
  | .qcreate _ => 0#3
  | .qopen _ => 0#3
  | .qdrain _ => 0#3
  | .qclose _ => 0#3
  | .qdestroy _ => 0#3
  | .qquery _ => 0#3
  | .balloc _ => 0#3
  | .bfree _ => 0#3
  | .bquery _ => 0#3
  | .punmap _ => 0#3
  | .pmigrate _ => 0#3
  | .pevict _ => 0#3
  | .psplit _ => 0#3
  | .ppin _ => 0#3
  | .punpin _ => 0#3
  | .pdomain _ => 0#3
  | .rsync _ => 0#3
  | .panswer _ => 0#3
  | .pstock _ => 0#3
  | .manswer _ => 0#3
  | .gresume _ => 0#3
  | .logcfg _ => 0#3
  | .logtrim _ => 0#3
  | .reverseToStation _ => 0#3
  | .reverseBlock _ => 0#3
  | .trcfg _ => 0#3
  | .record _ => 0#3
  | .dbgmatch _ => 0#3
  | .cutread _ => 0#3
  | .fetchOpportunity => 0#3
  | .fetchComplete => 0#3
  | .fillDelivery => 0#3
  | .codePageVerification => 0#3
  | .instancePlace => 0#3
  | .tokenDelivery => 0#3
  | .blockCommit => 0#3
  | .exitMispredict => 0#3
  | .predictorEntryClear => 0#3
  | .watchdogExpiry => 0#3
  | .slotWaitEntry => 0#3
  | .slotRetention => 0#3
  | .waitLimitExpiry => 0#3
  | .overflowReinject => 0#3
  | .thermalThreshold => 0#3
  | .thermalSlotDisable => 0#3
  | .thermalSlotEnable => 0#3
  | .displacedMove => 0#3
  | .thermalRankingRefresh => 0#3
  | .steal => 0#3
  | .matrixStepStart => 0#3
  | .matrixStepFinish => 0#3
  | .wbloadStepStart => 0#3
  | .pairMultiplyPhase => 0#3
  | .pairAccumulatePhase => 0#3
  | .atomicEarlyPerform => 0#3
  | .releasePerform => 0#3
  | .scratchpadStoreArrival => 0#3
  | .streamHandover => 0#3
  | .ldfwdReplyDelivery => 0#3
  | .mailboxDelivery => 0#3
  | .copyCompletion => 0#3
  | .shadowPublication => 0#3
  | .collectiveCompletion => 0#3
  | .dispatchRemove => 0#3
  | .groupLevelRise => 0#3
  | .groupDispatch => 0#3
  | .groupRetire => 0#3
  | .barrierEngineArrival => 0#3
  | .gatingWindowEnd => 0#3
  | .quiescenceSweep => 0#3
  | .saveImageWritten => 0#3
  | .dumpStart => 0#3
  | .dumpComplete => 0#3
  | .teardownComplete => 0#3
  | .loadChecksComplete => 0#3
  | .hostAppend => 0#3
  | .queueStorageEcc => 0#3
  | .stageLaunchAppend => 0#3
  | .mergeComplete => 0#3
  | .ridFree => 0#3
  | .drainTokenEmerge => 0#3
  | .migrationComplete => 0#3
  | .evictionComplete => 0#3
  | .splitComplete => 0#3
  | .stationMarker => 0#3
  | .logDrain => 0#3
  | .timePacket => 0#3
  | .lifetimeRecordWrite => 0#3
  | .flitReceive => 0#3
  | .portTrainingDone => 0#3
  | .laneErrorDegrade => 0#3
  | .portEnable => 0#3
  | .portDisable => 0#3
  | .isolate => 0#3
  | .release => 0#3
  | .linkTimeout => 0#3
  | .ptpSync => 0#3
  | .cxlSnoop => 0#3
  | .hostCxlMemWrite => 0#3
  | .hostCxlMemRead => 0#3
  | .backInvalidateComplete => 0#3
  | .imeasSample => 0#3
  | .voltageDroop => 0#3
  | .pllLock => 0#3
  | .thermalTrip => 0#3
  | .powerOn => 0#3
  | .bringupStepComplete => 0#3
  | .bringupTimeout => 0#3
  | .powerDown => 0#3
  | .getVersion => 0#3
  | .getCapabilities => 0#3
  | .negotiateAlgorithms => 0#3
  | .getDigests => 0#3
  | .getCertificate => 0#3
  | .challenge => 0#3
  | .getMeasurements => 0#3
  | .spdmUnsupportedRequest => 0#3
  | .islIlimWrite => 0#3
  | .islImeasRead => 0#3
  | .reqHeadWrite => 0#3
  | .mgmtRegisterWrite => 0#3
  | .partialApertureWrite => 0#3
  | .enginePageWait => 0#3

/-- PR (04 R92). -/
def prOf (i : Instr) : BitVec 2 :=
  match i with
  | .add f => f.pr
  | .sub f => f.pr
  | .mul f => f.pr
  | .mulh f => f.pr
  | .mad f => f.pr
  | .div f => f.pr
  | .rem f => f.pr
  | .min f => f.pr
  | .max f => f.pr
  | .abs f => f.pr
  | .neg f => f.pr
  | .and f => f.pr
  | .or f => f.pr
  | .xor f => f.pr
  | .andn f => f.pr
  | .not f => f.pr
  | .shl f => f.pr
  | .shr f => f.pr
  | .sar f => f.pr
  | .rotl f => f.pr
  | .clz f => f.pr
  | .popc f => f.pr
  | .brev f => f.pr
  | .bfx f => f.pr
  | .bfi f => f.pr
  | .adds f => f.pr
  | .subs f => f.pr
  | .addc f => f.pr
  | .lea f => f.pr
  | .sad f => f.pr
  | .avg f => f.pr
  | .cmp f => f.pr
  | .fcmp f => f.pr
  | .sel f => f.pr
  | .mov f => f.pr
  | .movi f => f.pr
  | .movhi f => f.pr
  | .null f => f.pr
  | .pand f => f.pr
  | .por f => f.pr
  | .pnot f => f.pr
  | .tagrd f => f.pr
  | .lane f => f.pr
  | .bcast f => f.pr
  | .extl f => f.pr
  | .insl f => f.pr
  | .getsr f => f.pr
  | .br f => f.pr
  | .brind f => f.pr
  | .call f => f.pr
  | .calli f => f.pr
  | .ret f => f.pr
  | .loop f => f.pr
  | .halt f => f.pr
  | .yield f => f.pr
  | .compose f => f.pr
  | .trap f => f.pr
  | .sys f => f.pr
  | .setsr f => f.pr
  | .hint f => f.pr
  | .brkp f => f.pr
  | .fadd f => f.pr
  | .fsub f => f.pr
  | .fmul f => f.pr
  | .fma f => f.pr
  | .fms f => f.pr
  | .fnma f => f.pr
  | .fmin f => f.pr
  | .fmax f => f.pr
  | .fabs f => f.pr
  | .fneg f => f.pr
  | .fdiv f => f.pr
  | .fsqrt f => f.pr
  | .frcp f => f.pr
  | .frsqrt f => f.pr
  | .fexp2 f => f.pr
  | .flog2 f => f.pr
  | .ftanh f => f.pr
  | .fsig f => f.pr
  | .fround f => f.pr
  | .fclass f => f.pr
  | .fscale f => f.pr
  | .fdot2 f => f.pr
  | .fdot4 f => f.pr
  | .fclamp f => f.pr
  | .fcopysign f => f.pr
  | .cvt f => f.pr
  | .cvti f => f.pr
  | .cvtf f => f.pr
  | .fmt f => f.pr
  | .pack f => f.pr
  | .unpack f => f.pr
  | .fmaxexp f => f.pr
  | .perm f => f.pr
  | .shfl f => f.pr
  | .red f => f.pr
  | .scan f => f.pr
  | .cmpr f => f.pr
  | .expd f => f.pr
  | .vote f => f.pr
  | .zip f => f.pr
  | .unzip f => f.pr
  | .ld f => f.pr
  | .lda f => f.pr
  | .st f => f.pr
  | .stl f => f.pr
  | .ldg f => f.pr
  | .stg f => f.pr
  | .ldsp f => f.pr
  | .stsp f => f.pr
  | .sread f => f.pr
  | .swrite f => f.pr
  | .scfg f => f.pr
  | .sclose f => f.pr
  | .ldfwd f => f.pr
  | .pref f => f.pr
  | .fence f => f.pr
  | .cwb f => f.pr
  | .cinv f => f.pr
  | .acopy f => f.pr
  | .acopy2 f => f.pr
  | .ashadow f => f.pr
  | .apubPublish f => f.pr
  | .apubDiscard f => f.pr
  | .aprobe f => f.pr
  | .agather f => f.pr
  | .amoAdd f => f.pr
  | .amoFadd f => f.pr
  | .amoMin f => f.pr
  | .amoMax f => f.pr
  | .amoAnd f => f.pr
  | .amoOr f => f.pr
  | .amoXor f => f.pr
  | .amoSwap f => f.pr
  | .amoCas f => f.pr
  | .amoInc f => f.pr
  | .amoDec f => f.pr
  | .mcfg f => f.pr
  | .mzero f => f.pr
  | .mma f => f.pr
  | .mld f => f.pr
  | .mst f => f.pr
  | .mctr f => f.pr
  | .mbound f => f.pr
  | .wbload f => f.pr
  | .mputa f => f.pr
  | .mputb f => f.pr
  | .mred f => f.pr
  | .mrow f => f.pr
  | .qpush f => f.pr
  | .qpop f => f.pr
  | .qpeek f => f.pr
  | .qinfo f => f.pr
  | .mbsend f => f.pr
  | .mbrecv f => f.pr
  | .mcput f => f.pr
  | .mctake f => f.pr
  | .launch f => f.pr
  | .kinfo f => f.pr
  | .spawn f => f.pr
  | .syncWait f => f.pr
  | .syncNext f => f.pr
  | .evwait f => f.pr
  | .evsig f => f.pr
  | .ginfo f => f.pr
  | .binitAlloc f => f.pr
  | .binitFree f => f.pr
  | .arrive f => f.pr
  | .arriveDrop f => f.pr
  | .bwait f => f.pr
  | .fork f => f.pr
  | .join f => f.pr
  | .rregionDecl f => f.pr
  | .rregionDrop f => f.pr
  | .rinfo f => f.pr
  | .trvopen f => f.pr
  | .trvput f => f.pr
  | .trvtake f => f.pr
  | .trvdonePass f => f.pr
  | .trvdoneDrop f => f.pr
  | .trvcloseDrain f => f.pr
  | .trvcloseAbort f => f.pr
  | .trvstat f => f.pr
  | .ctxq f => f.pr
  | .frec f => f.pr
  | .fresumeResume f => f.pr
  | .fresumeRedirect f => f.pr
  | .fresumeEnd f => f.pr
  | .pgq f => f.pr
  | .pgadviseWillneed f => f.pr
  | .pgadviseTranslate f => f.pr
  | .pgadviseEvictbehind f => f.pr
  | .pgadviseKeep f => f.pr
  | .acoll f => f.pr
  | .lnkq f => f.pr
  | .station f => f.pr
  | .dmark f => f.pr
  | .probe f => f.pr
  | .create _ => 0#2
  | .configure _ => 0#2
  | .bind _ => 0#2
  | .run _ => 0#2
  | .unbind _ => 0#2
  | .preempt _ => 0#2
  | .restore _ => 0#2
  | .freeze _ => 0#2
  | .resume _ => 0#2
  | .dump _ => 0#2
  | .kill _ => 0#2
  | .danswer _ => 0#2
  | .load _ => 0#2
  | .unload _ => 0#2
  | .qcreate _ => 0#2
  | .qopen _ => 0#2
  | .qdrain _ => 0#2
  | .qclose _ => 0#2
  | .qdestroy _ => 0#2
  | .qquery _ => 0#2
  | .balloc _ => 0#2
  | .bfree _ => 0#2
  | .bquery _ => 0#2
  | .punmap _ => 0#2
  | .pmigrate _ => 0#2
  | .pevict _ => 0#2
  | .psplit _ => 0#2
  | .ppin _ => 0#2
  | .punpin _ => 0#2
  | .pdomain _ => 0#2
  | .rsync _ => 0#2
  | .panswer _ => 0#2
  | .pstock _ => 0#2
  | .manswer _ => 0#2
  | .gresume _ => 0#2
  | .logcfg _ => 0#2
  | .logtrim _ => 0#2
  | .reverseToStation _ => 0#2
  | .reverseBlock _ => 0#2
  | .trcfg _ => 0#2
  | .record _ => 0#2
  | .dbgmatch _ => 0#2
  | .cutread _ => 0#2
  | .fetchOpportunity => 0#2
  | .fetchComplete => 0#2
  | .fillDelivery => 0#2
  | .codePageVerification => 0#2
  | .instancePlace => 0#2
  | .tokenDelivery => 0#2
  | .blockCommit => 0#2
  | .exitMispredict => 0#2
  | .predictorEntryClear => 0#2
  | .watchdogExpiry => 0#2
  | .slotWaitEntry => 0#2
  | .slotRetention => 0#2
  | .waitLimitExpiry => 0#2
  | .overflowReinject => 0#2
  | .thermalThreshold => 0#2
  | .thermalSlotDisable => 0#2
  | .thermalSlotEnable => 0#2
  | .displacedMove => 0#2
  | .thermalRankingRefresh => 0#2
  | .steal => 0#2
  | .matrixStepStart => 0#2
  | .matrixStepFinish => 0#2
  | .wbloadStepStart => 0#2
  | .pairMultiplyPhase => 0#2
  | .pairAccumulatePhase => 0#2
  | .atomicEarlyPerform => 0#2
  | .releasePerform => 0#2
  | .scratchpadStoreArrival => 0#2
  | .streamHandover => 0#2
  | .ldfwdReplyDelivery => 0#2
  | .mailboxDelivery => 0#2
  | .copyCompletion => 0#2
  | .shadowPublication => 0#2
  | .collectiveCompletion => 0#2
  | .dispatchRemove => 0#2
  | .groupLevelRise => 0#2
  | .groupDispatch => 0#2
  | .groupRetire => 0#2
  | .barrierEngineArrival => 0#2
  | .gatingWindowEnd => 0#2
  | .quiescenceSweep => 0#2
  | .saveImageWritten => 0#2
  | .dumpStart => 0#2
  | .dumpComplete => 0#2
  | .teardownComplete => 0#2
  | .loadChecksComplete => 0#2
  | .hostAppend => 0#2
  | .queueStorageEcc => 0#2
  | .stageLaunchAppend => 0#2
  | .mergeComplete => 0#2
  | .ridFree => 0#2
  | .drainTokenEmerge => 0#2
  | .migrationComplete => 0#2
  | .evictionComplete => 0#2
  | .splitComplete => 0#2
  | .stationMarker => 0#2
  | .logDrain => 0#2
  | .timePacket => 0#2
  | .lifetimeRecordWrite => 0#2
  | .flitReceive => 0#2
  | .portTrainingDone => 0#2
  | .laneErrorDegrade => 0#2
  | .portEnable => 0#2
  | .portDisable => 0#2
  | .isolate => 0#2
  | .release => 0#2
  | .linkTimeout => 0#2
  | .ptpSync => 0#2
  | .cxlSnoop => 0#2
  | .hostCxlMemWrite => 0#2
  | .hostCxlMemRead => 0#2
  | .backInvalidateComplete => 0#2
  | .imeasSample => 0#2
  | .voltageDroop => 0#2
  | .pllLock => 0#2
  | .thermalTrip => 0#2
  | .powerOn => 0#2
  | .bringupStepComplete => 0#2
  | .bringupTimeout => 0#2
  | .powerDown => 0#2
  | .getVersion => 0#2
  | .getCapabilities => 0#2
  | .negotiateAlgorithms => 0#2
  | .getDigests => 0#2
  | .getCertificate => 0#2
  | .challenge => 0#2
  | .getMeasurements => 0#2
  | .spdmUnsupportedRequest => 0#2
  | .islIlimWrite => 0#2
  | .islImeasRead => 0#2
  | .reqHeadWrite => 0#2
  | .mgmtRegisterWrite => 0#2
  | .partialApertureWrite => 0#2
  | .enginePageWait => 0#2

/-- The targets of an instruction, T0 first; `mma` has EOR as its second (04 R93-R100, 07 R204). -/
def targets (i : Instr) : List Target :=
  match i with
  | .add f => [f.t0, f.t1]
  | .sub f => [f.t0, f.t1]
  | .mul f => [f.t0, f.t1]
  | .mulh f => [f.t0, f.t1]
  | .mad f => [f.t0, f.t1]
  | .div f => [f.t0, f.t1]
  | .rem f => [f.t0, f.t1]
  | .min f => [f.t0, f.t1]
  | .max f => [f.t0, f.t1]
  | .abs f => [f.t0, f.t1]
  | .neg f => [f.t0, f.t1]
  | .and f => [f.t0, f.t1]
  | .or f => [f.t0, f.t1]
  | .xor f => [f.t0, f.t1]
  | .andn f => [f.t0, f.t1]
  | .not f => [f.t0, f.t1]
  | .shl f => [f.t0, f.t1]
  | .shr f => [f.t0, f.t1]
  | .sar f => [f.t0, f.t1]
  | .rotl f => [f.t0, f.t1]
  | .clz f => [f.t0, f.t1]
  | .popc f => [f.t0, f.t1]
  | .brev f => [f.t0, f.t1]
  | .bfx f => [f.t0, f.t1]
  | .bfi f => [f.t0, f.t1]
  | .adds f => [f.t0, f.t1]
  | .subs f => [f.t0, f.t1]
  | .addc f => [f.t0, f.t1]
  | .lea f => [f.t0, f.t1]
  | .sad f => [f.t0, f.t1]
  | .avg f => [f.t0, f.t1]
  | .cmp f => [f.t0, f.t1]
  | .fcmp f => [f.t0, f.t1]
  | .sel f => [f.t0, f.t1]
  | .mov f => [f.t0, f.t1]
  | .movi f => [f.t0]
  | .movhi f => [f.t0]
  | .null f => [f.t0, f.t1]
  | .pand f => [f.t0, f.t1]
  | .por f => [f.t0, f.t1]
  | .pnot f => [f.t0, f.t1]
  | .tagrd f => [f.t0, f.t1]
  | .lane f => [f.t0, f.t1]
  | .bcast f => [f.t0, f.t1]
  | .extl f => [f.t0, f.t1]
  | .insl f => [f.t0, f.t1]
  | .getsr f => [f.t0, f.t1]
  | .br f => [f.t0]
  | .brind f => [f.t0]
  | .call f => [f.t0]
  | .calli f => [f.t0]
  | .ret f => [f.t0]
  | .loop f => [f.t0]
  | .halt f => [f.t0]
  | .yield f => [f.t0]
  | .compose f => [f.t0, f.t1]
  | .trap f => [f.t0]
  | .sys f => [f.t0]
  | .setsr f => [f.t0, f.t1]
  | .hint f => [f.t0]
  | .brkp f => [f.t0]
  | .fadd f => [f.t0, f.t1]
  | .fsub f => [f.t0, f.t1]
  | .fmul f => [f.t0, f.t1]
  | .fma f => [f.t0, f.t1]
  | .fms f => [f.t0, f.t1]
  | .fnma f => [f.t0, f.t1]
  | .fmin f => [f.t0, f.t1]
  | .fmax f => [f.t0, f.t1]
  | .fabs f => [f.t0, f.t1]
  | .fneg f => [f.t0, f.t1]
  | .fdiv f => [f.t0, f.t1]
  | .fsqrt f => [f.t0, f.t1]
  | .frcp f => [f.t0, f.t1]
  | .frsqrt f => [f.t0, f.t1]
  | .fexp2 f => [f.t0, f.t1]
  | .flog2 f => [f.t0, f.t1]
  | .ftanh f => [f.t0, f.t1]
  | .fsig f => [f.t0, f.t1]
  | .fround f => [f.t0, f.t1]
  | .fclass f => [f.t0, f.t1]
  | .fscale f => [f.t0, f.t1]
  | .fdot2 f => [f.t0, f.t1]
  | .fdot4 f => [f.t0, f.t1]
  | .fclamp f => [f.t0, f.t1]
  | .fcopysign f => [f.t0, f.t1]
  | .cvt f => [f.t0, f.t1]
  | .cvti f => [f.t0, f.t1]
  | .cvtf f => [f.t0, f.t1]
  | .fmt f => [f.t0]
  | .pack f => [f.t0, f.t1]
  | .unpack f => [f.t0, f.t1]
  | .fmaxexp f => [f.t0, f.t1]
  | .perm f => [f.t0, f.t1]
  | .shfl f => [f.t0, f.t1]
  | .red f => [f.t0, f.t1]
  | .scan f => [f.t0, f.t1]
  | .cmpr f => [f.t0, f.t1]
  | .expd f => [f.t0, f.t1]
  | .vote f => [f.t0, f.t1]
  | .zip f => [f.t0, f.t1]
  | .unzip f => [f.t0, f.t1]
  | .ld f => [f.t0]
  | .lda f => [f.t0]
  | .st f => [f.t0]
  | .stl f => [f.t0]
  | .ldg f => [f.t0]
  | .stg f => [f.t0]
  | .ldsp f => [f.t0]
  | .stsp f => [f.t0]
  | .sread f => [f.t0]
  | .swrite f => [f.t0]
  | .scfg f => [f.t0]
  | .sclose f => [f.t0]
  | .ldfwd f => [f.t0]
  | .pref f => [f.t0]
  | .fence f => [f.t0]
  | .cwb f => [f.t0]
  | .cinv f => [f.t0]
  | .acopy f => [f.t0]
  | .acopy2 f => [f.t0]
  | .ashadow f => [f.t0]
  | .apubPublish f => [f.t0]
  | .apubDiscard f => [f.t0]
  | .aprobe f => [f.t0]
  | .agather f => [f.t0]
  | .amoAdd f => [f.t0]
  | .amoFadd f => [f.t0]
  | .amoMin f => [f.t0]
  | .amoMax f => [f.t0]
  | .amoAnd f => [f.t0]
  | .amoOr f => [f.t0]
  | .amoXor f => [f.t0]
  | .amoSwap f => [f.t0]
  | .amoCas f => [f.t0]
  | .amoInc f => [f.t0]
  | .amoDec f => [f.t0]
  | .mcfg f => [f.t0]
  | .mzero f => [f.t0]
  | .mma f => [f.t0, f.x.extractLsb' 8 12]
  | .mld f => [f.t0]
  | .mst f => [f.t0]
  | .mctr f => [f.t0]
  | .mbound f => [f.t0]
  | .wbload f => [f.t0]
  | .mputa f => [f.t0]
  | .mputb f => [f.t0]
  | .mred f => [f.t0]
  | .mrow f => [f.t0]
  | .qpush f => [f.t0, f.t1]
  | .qpop f => [f.t0, f.t1]
  | .qpeek f => [f.t0, f.t1]
  | .qinfo f => [f.t0, f.t1]
  | .mbsend f => [f.t0, f.t1]
  | .mbrecv f => [f.t0, f.t1]
  | .mcput f => [f.t0, f.t1]
  | .mctake f => [f.t0, f.t1]
  | .launch f => [f.t0, f.t1]
  | .kinfo f => [f.t0, f.t1]
  | .spawn f => [f.t0, f.t1]
  | .syncWait f => [f.t0, f.t1]
  | .syncNext f => [f.t0, f.t1]
  | .evwait f => [f.t0, f.t1]
  | .evsig f => [f.t0, f.t1]
  | .ginfo f => [f.t0, f.t1]
  | .binitAlloc f => [f.t0, f.t1]
  | .binitFree f => [f.t0, f.t1]
  | .arrive f => [f.t0, f.t1]
  | .arriveDrop f => [f.t0, f.t1]
  | .bwait f => [f.t0, f.t1]
  | .fork f => [f.t0, f.t1]
  | .join f => [f.t0, f.t1]
  | .rregionDecl f => [f.t0, f.t1]
  | .rregionDrop f => [f.t0, f.t1]
  | .rinfo f => [f.t0, f.t1]
  | .trvopen f => [f.t0, f.t1]
  | .trvput f => [f.t0, f.t1]
  | .trvtake f => [f.t0, f.t1]
  | .trvdonePass f => [f.t0, f.t1]
  | .trvdoneDrop f => [f.t0, f.t1]
  | .trvcloseDrain f => [f.t0, f.t1]
  | .trvcloseAbort f => [f.t0, f.t1]
  | .trvstat f => [f.t0, f.t1]
  | .ctxq f => [f.t0, f.t1]
  | .frec f => [f.t0, f.t1]
  | .fresumeResume f => [f.t0, f.t1]
  | .fresumeRedirect f => [f.t0, f.t1]
  | .fresumeEnd f => [f.t0, f.t1]
  | .pgq f => [f.t0, f.t1]
  | .pgadviseWillneed f => [f.t0, f.t1]
  | .pgadviseTranslate f => [f.t0, f.t1]
  | .pgadviseEvictbehind f => [f.t0, f.t1]
  | .pgadviseKeep f => [f.t0, f.t1]
  | .acoll f => [f.t0, f.t1]
  | .lnkq f => [f.t0, f.t1]
  | .station f => [f.t0, f.t1]
  | .dmark f => [f.t0, f.t1]
  | .probe f => [f.t0, f.t1]
  | .create _ => []
  | .configure _ => []
  | .bind _ => []
  | .run _ => []
  | .unbind _ => []
  | .preempt _ => []
  | .restore _ => []
  | .freeze _ => []
  | .resume _ => []
  | .dump _ => []
  | .kill _ => []
  | .danswer _ => []
  | .load _ => []
  | .unload _ => []
  | .qcreate _ => []
  | .qopen _ => []
  | .qdrain _ => []
  | .qclose _ => []
  | .qdestroy _ => []
  | .qquery _ => []
  | .balloc _ => []
  | .bfree _ => []
  | .bquery _ => []
  | .punmap _ => []
  | .pmigrate _ => []
  | .pevict _ => []
  | .psplit _ => []
  | .ppin _ => []
  | .punpin _ => []
  | .pdomain _ => []
  | .rsync _ => []
  | .panswer _ => []
  | .pstock _ => []
  | .manswer _ => []
  | .gresume _ => []
  | .logcfg _ => []
  | .logtrim _ => []
  | .reverseToStation _ => []
  | .reverseBlock _ => []
  | .trcfg _ => []
  | .record _ => []
  | .dbgmatch _ => []
  | .cutread _ => []
  | .fetchOpportunity => []
  | .fetchComplete => []
  | .fillDelivery => []
  | .codePageVerification => []
  | .instancePlace => []
  | .tokenDelivery => []
  | .blockCommit => []
  | .exitMispredict => []
  | .predictorEntryClear => []
  | .watchdogExpiry => []
  | .slotWaitEntry => []
  | .slotRetention => []
  | .waitLimitExpiry => []
  | .overflowReinject => []
  | .thermalThreshold => []
  | .thermalSlotDisable => []
  | .thermalSlotEnable => []
  | .displacedMove => []
  | .thermalRankingRefresh => []
  | .steal => []
  | .matrixStepStart => []
  | .matrixStepFinish => []
  | .wbloadStepStart => []
  | .pairMultiplyPhase => []
  | .pairAccumulatePhase => []
  | .atomicEarlyPerform => []
  | .releasePerform => []
  | .scratchpadStoreArrival => []
  | .streamHandover => []
  | .ldfwdReplyDelivery => []
  | .mailboxDelivery => []
  | .copyCompletion => []
  | .shadowPublication => []
  | .collectiveCompletion => []
  | .dispatchRemove => []
  | .groupLevelRise => []
  | .groupDispatch => []
  | .groupRetire => []
  | .barrierEngineArrival => []
  | .gatingWindowEnd => []
  | .quiescenceSweep => []
  | .saveImageWritten => []
  | .dumpStart => []
  | .dumpComplete => []
  | .teardownComplete => []
  | .loadChecksComplete => []
  | .hostAppend => []
  | .queueStorageEcc => []
  | .stageLaunchAppend => []
  | .mergeComplete => []
  | .ridFree => []
  | .drainTokenEmerge => []
  | .migrationComplete => []
  | .evictionComplete => []
  | .splitComplete => []
  | .stationMarker => []
  | .logDrain => []
  | .timePacket => []
  | .lifetimeRecordWrite => []
  | .flitReceive => []
  | .portTrainingDone => []
  | .laneErrorDegrade => []
  | .portEnable => []
  | .portDisable => []
  | .isolate => []
  | .release => []
  | .linkTimeout => []
  | .ptpSync => []
  | .cxlSnoop => []
  | .hostCxlMemWrite => []
  | .hostCxlMemRead => []
  | .backInvalidateComplete => []
  | .imeasSample => []
  | .voltageDroop => []
  | .pllLock => []
  | .thermalTrip => []
  | .powerOn => []
  | .bringupStepComplete => []
  | .bringupTimeout => []
  | .powerDown => []
  | .getVersion => []
  | .getCapabilities => []
  | .negotiateAlgorithms => []
  | .getDigests => []
  | .getCertificate => []
  | .challenge => []
  | .getMeasurements => []
  | .spdmUnsupportedRequest => []
  | .islIlimWrite => []
  | .islImeasRead => []
  | .reqHeadWrite => []
  | .mgmtRegisterWrite => []
  | .partialApertureWrite => []
  | .enginePageWait => []

/-- The LSID field of a memory instruction (04 R95, R96). -/
def lsidOf (i : Instr) : Option Nat :=
  match i with
  | .ld f => some f.lsid.toNat
  | .lda f => some f.lsid.toNat
  | .st f => some f.lsid.toNat
  | .stl f => some f.lsid.toNat
  | .ldg f => some f.lsid.toNat
  | .stg f => some f.lsid.toNat
  | .ldsp f => some f.lsid.toNat
  | .stsp f => some f.lsid.toNat
  | .sread f => some f.lsid.toNat
  | .swrite f => some f.lsid.toNat
  | .scfg f => some f.lsid.toNat
  | .sclose f => some f.lsid.toNat
  | .ldfwd f => some f.lsid.toNat
  | .pref f => some f.lsid.toNat
  | .fence f => some f.lsid.toNat
  | .cwb f => some f.lsid.toNat
  | .cinv f => some f.lsid.toNat
  | .acopy f => some f.lsid.toNat
  | .acopy2 f => some f.lsid.toNat
  | .ashadow f => some f.lsid.toNat
  | .apubPublish f => some f.lsid.toNat
  | .apubDiscard f => some f.lsid.toNat
  | .aprobe f => some f.lsid.toNat
  | .agather f => some f.lsid.toNat
  | .amoAdd f => some f.lsid.toNat
  | .amoFadd f => some f.lsid.toNat
  | .amoMin f => some f.lsid.toNat
  | .amoMax f => some f.lsid.toNat
  | .amoAnd f => some f.lsid.toNat
  | .amoOr f => some f.lsid.toNat
  | .amoXor f => some f.lsid.toNat
  | .amoSwap f => some f.lsid.toNat
  | .amoCas f => some f.lsid.toNat
  | .amoInc f => some f.lsid.toNat
  | .amoDec f => some f.lsid.toNat
  | _ => none

/-- Classes of memory instructions (08 R227). -/
inductive MemClass where
  | load | store | unordered | none
deriving DecidableEq, Repr

/-- The class of an instruction (08 R227). -/
def memClass (i : Instr) : MemClass :=
  match i with
  | .ld _ => .load
  | .lda _ => .load
  | .ldg _ => .load
  | .ldsp _ => .load
  | .sread _ => .load
  | .aprobe _ => .load
  | .fence f => if f.ty = 1#4 then .load else .store
  | .pref _ => .unordered
  | .st _ => .store
  | .stl _ => .store
  | .stg _ => .store
  | .stsp _ => .store
  | .swrite _ => .store
  | .scfg _ => .store
  | .sclose _ => .store
  | .ldfwd _ => .store
  | .cwb _ => .store
  | .cinv _ => .store
  | .acopy _ => .store
  | .acopy2 _ => .store
  | .agather _ => .store
  | .ashadow _ => .store
  | .apubPublish _ => .store
  | .apubDiscard _ => .store
  | .amoAdd _ => .store
  | .amoFadd _ => .store
  | .amoMin _ => .store
  | .amoMax _ => .store
  | .amoAnd _ => .store
  | .amoOr _ => .store
  | .amoXor _ => .store
  | .amoSwap _ => .store
  | .amoCas _ => .store
  | .amoInc _ => .store
  | .amoDec _ => .store
  | _ => .none

/-- The opcode of an instruction (04 R107); 0 for commands and events. -/
def opcode (i : Instr) : Nat :=
  match i with
  | .add _ => 0x01
  | .sub _ => 0x02
  | .mul _ => 0x03
  | .mulh _ => 0x04
  | .mad _ => 0x05
  | .div _ => 0x06
  | .rem _ => 0x07
  | .min _ => 0x08
  | .max _ => 0x09
  | .abs _ => 0x0A
  | .neg _ => 0x0B
  | .and _ => 0x0C
  | .or _ => 0x0D
  | .xor _ => 0x0E
  | .andn _ => 0x0F
  | .not _ => 0x10
  | .shl _ => 0x11
  | .shr _ => 0x12
  | .sar _ => 0x13
  | .rotl _ => 0x14
  | .clz _ => 0x15
  | .popc _ => 0x16
  | .brev _ => 0x17
  | .bfx _ => 0x18
  | .bfi _ => 0x19
  | .adds _ => 0x1A
  | .subs _ => 0x1B
  | .addc _ => 0x1C
  | .lea _ => 0x1D
  | .sad _ => 0x1E
  | .avg _ => 0x1F
  | .cmp _ => 0x20
  | .fcmp _ => 0x21
  | .sel _ => 0x22
  | .mov _ => 0x23
  | .movi _ => 0x24
  | .movhi _ => 0x25
  | .null _ => 0x26
  | .pand _ => 0x27
  | .por _ => 0x28
  | .pnot _ => 0x29
  | .tagrd _ => 0x2A
  | .lane _ => 0x2B
  | .bcast _ => 0x2C
  | .extl _ => 0x2D
  | .insl _ => 0x2E
  | .getsr _ => 0x2F
  | .br _ => 0x30
  | .brind _ => 0x31
  | .call _ => 0x32
  | .calli _ => 0x33
  | .ret _ => 0x34
  | .loop _ => 0x35
  | .halt _ => 0x36
  | .yield _ => 0x37
  | .compose _ => 0x38
  | .trap _ => 0x39
  | .sys _ => 0x3A
  | .setsr _ => 0x3B
  | .hint _ => 0x3C
  | .brkp _ => 0x3D
  | .fadd _ => 0x40
  | .fsub _ => 0x41
  | .fmul _ => 0x42
  | .fma _ => 0x43
  | .fms _ => 0x44
  | .fnma _ => 0x45
  | .fmin _ => 0x46
  | .fmax _ => 0x47
  | .fabs _ => 0x48
  | .fneg _ => 0x49
  | .fdiv _ => 0x4A
  | .fsqrt _ => 0x4B
  | .frcp _ => 0x4C
  | .frsqrt _ => 0x4D
  | .fexp2 _ => 0x4E
  | .flog2 _ => 0x4F
  | .ftanh _ => 0x50
  | .fsig _ => 0x51
  | .fround _ => 0x52
  | .fclass _ => 0x53
  | .fscale _ => 0x54
  | .fdot2 _ => 0x55
  | .fdot4 _ => 0x56
  | .fclamp _ => 0x57
  | .fcopysign _ => 0x58
  | .cvt _ => 0x60
  | .cvti _ => 0x61
  | .cvtf _ => 0x62
  | .fmt _ => 0x63
  | .pack _ => 0x64
  | .unpack _ => 0x65
  | .fmaxexp _ => 0x66
  | .perm _ => 0x70
  | .shfl _ => 0x71
  | .red _ => 0x72
  | .scan _ => 0x73
  | .cmpr _ => 0x74
  | .expd _ => 0x75
  | .vote _ => 0x76
  | .zip _ => 0x77
  | .unzip _ => 0x78
  | .ld _ => 0x80
  | .lda _ => 0x81
  | .st _ => 0x82
  | .stl _ => 0x83
  | .ldg _ => 0x84
  | .stg _ => 0x85
  | .ldsp _ => 0x86
  | .stsp _ => 0x87
  | .sread _ => 0x88
  | .swrite _ => 0x89
  | .scfg _ => 0x8A
  | .sclose _ => 0x8B
  | .ldfwd _ => 0x8C
  | .pref _ => 0x8D
  | .fence _ => 0x8E
  | .cwb _ => 0x8F
  | .cinv _ => 0x90
  | .acopy _ => 0x91
  | .acopy2 _ => 0x92
  | .ashadow _ => 0x93
  | .apubPublish _ => 0x94
  | .apubDiscard _ => 0x94
  | .aprobe _ => 0x95
  | .agather _ => 0x96
  | .amoAdd _ => 0xA0
  | .amoFadd _ => 0xA1
  | .amoMin _ => 0xA2
  | .amoMax _ => 0xA3
  | .amoAnd _ => 0xA4
  | .amoOr _ => 0xA5
  | .amoXor _ => 0xA6
  | .amoSwap _ => 0xA7
  | .amoCas _ => 0xA8
  | .amoInc _ => 0xA9
  | .amoDec _ => 0xAA
  | .mcfg _ => 0xB0
  | .mzero _ => 0xB1
  | .mma _ => 0xB2
  | .mld _ => 0xB3
  | .mst _ => 0xB4
  | .mctr _ => 0xB5
  | .mbound _ => 0xB6
  | .wbload _ => 0xB7
  | .mputa _ => 0xB8
  | .mputb _ => 0xB9
  | .mred _ => 0xBA
  | .mrow _ => 0xBB
  | .qpush _ => 0xC0
  | .qpop _ => 0xC1
  | .qpeek _ => 0xC2
  | .qinfo _ => 0xC3
  | .mbsend _ => 0xC4
  | .mbrecv _ => 0xC5
  | .mcput _ => 0xC6
  | .mctake _ => 0xC7
  | .launch _ => 0xC8
  | .kinfo _ => 0xC9
  | .spawn _ => 0xD0
  | .syncWait _ => 0xD1
  | .syncNext _ => 0xD1
  | .evwait _ => 0xD2
  | .evsig _ => 0xD3
  | .ginfo _ => 0xD4
  | .binitAlloc _ => 0xD5
  | .binitFree _ => 0xD5
  | .arrive _ => 0xD6
  | .arriveDrop _ => 0xD6
  | .bwait _ => 0xD7
  | .fork _ => 0xE0
  | .join _ => 0xE1
  | .rregionDecl _ => 0xE2
  | .rregionDrop _ => 0xE2
  | .rinfo _ => 0xE3
  | .trvopen _ => 0xE4
  | .trvput _ => 0xE5
  | .trvtake _ => 0xE6
  | .trvdonePass _ => 0xE7
  | .trvdoneDrop _ => 0xE7
  | .trvcloseDrain _ => 0xE8
  | .trvcloseAbort _ => 0xE8
  | .trvstat _ => 0xE9
  | .ctxq _ => 0xF0
  | .frec _ => 0xF1
  | .fresumeResume _ => 0xF2
  | .fresumeRedirect _ => 0xF2
  | .fresumeEnd _ => 0xF2
  | .pgq _ => 0xF3
  | .pgadviseWillneed _ => 0xF4
  | .pgadviseTranslate _ => 0xF4
  | .pgadviseEvictbehind _ => 0xF4
  | .pgadviseKeep _ => 0xF4
  | .acoll _ => 0xF5
  | .lnkq _ => 0xF6
  | .station _ => 0xF7
  | .dmark _ => 0xF8
  | .probe _ => 0xF9
  | .create _ => 0
  | .configure _ => 0
  | .bind _ => 0
  | .run _ => 0
  | .unbind _ => 0
  | .preempt _ => 0
  | .restore _ => 0
  | .freeze _ => 0
  | .resume _ => 0
  | .dump _ => 0
  | .kill _ => 0
  | .danswer _ => 0
  | .load _ => 0
  | .unload _ => 0
  | .qcreate _ => 0
  | .qopen _ => 0
  | .qdrain _ => 0
  | .qclose _ => 0
  | .qdestroy _ => 0
  | .qquery _ => 0
  | .balloc _ => 0
  | .bfree _ => 0
  | .bquery _ => 0
  | .punmap _ => 0
  | .pmigrate _ => 0
  | .pevict _ => 0
  | .psplit _ => 0
  | .ppin _ => 0
  | .punpin _ => 0
  | .pdomain _ => 0
  | .rsync _ => 0
  | .panswer _ => 0
  | .pstock _ => 0
  | .manswer _ => 0
  | .gresume _ => 0
  | .logcfg _ => 0
  | .logtrim _ => 0
  | .reverseToStation _ => 0
  | .reverseBlock _ => 0
  | .trcfg _ => 0
  | .record _ => 0
  | .dbgmatch _ => 0
  | .cutread _ => 0
  | .fetchOpportunity => 0
  | .fetchComplete => 0
  | .fillDelivery => 0
  | .codePageVerification => 0
  | .instancePlace => 0
  | .tokenDelivery => 0
  | .blockCommit => 0
  | .exitMispredict => 0
  | .predictorEntryClear => 0
  | .watchdogExpiry => 0
  | .slotWaitEntry => 0
  | .slotRetention => 0
  | .waitLimitExpiry => 0
  | .overflowReinject => 0
  | .thermalThreshold => 0
  | .thermalSlotDisable => 0
  | .thermalSlotEnable => 0
  | .displacedMove => 0
  | .thermalRankingRefresh => 0
  | .steal => 0
  | .matrixStepStart => 0
  | .matrixStepFinish => 0
  | .wbloadStepStart => 0
  | .pairMultiplyPhase => 0
  | .pairAccumulatePhase => 0
  | .atomicEarlyPerform => 0
  | .releasePerform => 0
  | .scratchpadStoreArrival => 0
  | .streamHandover => 0
  | .ldfwdReplyDelivery => 0
  | .mailboxDelivery => 0
  | .copyCompletion => 0
  | .shadowPublication => 0
  | .collectiveCompletion => 0
  | .dispatchRemove => 0
  | .groupLevelRise => 0
  | .groupDispatch => 0
  | .groupRetire => 0
  | .barrierEngineArrival => 0
  | .gatingWindowEnd => 0
  | .quiescenceSweep => 0
  | .saveImageWritten => 0
  | .dumpStart => 0
  | .dumpComplete => 0
  | .teardownComplete => 0
  | .loadChecksComplete => 0
  | .hostAppend => 0
  | .queueStorageEcc => 0
  | .stageLaunchAppend => 0
  | .mergeComplete => 0
  | .ridFree => 0
  | .drainTokenEmerge => 0
  | .migrationComplete => 0
  | .evictionComplete => 0
  | .splitComplete => 0
  | .stationMarker => 0
  | .logDrain => 0
  | .timePacket => 0
  | .lifetimeRecordWrite => 0
  | .flitReceive => 0
  | .portTrainingDone => 0
  | .laneErrorDegrade => 0
  | .portEnable => 0
  | .portDisable => 0
  | .isolate => 0
  | .release => 0
  | .linkTimeout => 0
  | .ptpSync => 0
  | .cxlSnoop => 0
  | .hostCxlMemWrite => 0
  | .hostCxlMemRead => 0
  | .backInvalidateComplete => 0
  | .imeasSample => 0
  | .voltageDroop => 0
  | .pllLock => 0
  | .thermalTrip => 0
  | .powerOn => 0
  | .bringupStepComplete => 0
  | .bringupTimeout => 0
  | .powerDown => 0
  | .getVersion => 0
  | .getCapabilities => 0
  | .negotiateAlgorithms => 0
  | .getDigests => 0
  | .getCertificate => 0
  | .challenge => 0
  | .getMeasurements => 0
  | .spdmUnsupportedRequest => 0
  | .islIlimWrite => 0
  | .islImeasRead => 0
  | .reqHeadWrite => 0
  | .mgmtRegisterWrite => 0
  | .partialApertureWrite => 0
  | .enginePageWait => 0

/-- An instruction that R97 marks as an exit. -/
def isExit (i : Instr) : Bool :=
  let o := opcode i
  (decide (0x30 ≤ o) && decide (o ≤ 0x37)) || o == 0x39 || o == 0x3A

/-- EXIT of a format X word (04 R97). -/
def exitField (i : Instr) : Option Nat :=
  match i with
  | .br f => some f.exit.toNat
  | .brind f => some f.exit.toNat
  | .call f => some f.exit.toNat
  | .calli f => some f.exit.toNat
  | .ret f => some f.exit.toNat
  | .loop f => some f.exit.toNat
  | .halt f => some f.exit.toNat
  | .yield f => some f.exit.toNat
  | .trap f => some f.exit.toNat
  | .sys f => some f.exit.toNat
  | .hint f => some f.exit.toNat
  | .brkp f => some f.exit.toNat
  | _ => none

/-- The type fields of an instruction, for the profiles f64.1 and sd8.1 (04 R108). -/
def typeFields (i : Instr) : List (BitVec 4) :=
  match i with
  | .add f => [f.ty]
  | .sub f => [f.ty]
  | .mul f => [f.ty]
  | .mulh f => [f.ty]
  | .mad f => [f.ty]
  | .div f => [f.ty]
  | .rem f => [f.ty]
  | .min f => [f.ty]
  | .max f => [f.ty]
  | .abs f => [f.ty]
  | .neg f => [f.ty]
  | .and f => [f.ty]
  | .or f => [f.ty]
  | .xor f => [f.ty]
  | .andn f => [f.ty]
  | .not f => [f.ty]
  | .shl f => [f.ty]
  | .shr f => [f.ty]
  | .sar f => [f.ty]
  | .rotl f => [f.ty]
  | .clz f => [f.ty]
  | .popc f => [f.ty]
  | .brev f => [f.ty]
  | .bfx f => [f.ty]
  | .bfi f => [f.ty]
  | .adds f => [f.ty]
  | .subs f => [f.ty]
  | .addc f => [f.ty]
  | .lea f => [f.ty]
  | .sad f => [f.ty]
  | .avg f => [f.ty]
  | .cmp f => [f.ty]
  | .fcmp f => [f.ty]
  | .sel f => [f.ty]
  | .mov _ => []
  | .movi f => [f.ty]
  | .movhi f => [f.ty]
  | .null _ => []
  | .pand f => [f.ty]
  | .por f => [f.ty]
  | .pnot f => [f.ty]
  | .tagrd f => [f.ty]
  | .lane f => [f.ty]
  | .bcast f => [f.ty]
  | .extl f => [f.ty]
  | .insl f => [f.ty]
  | .getsr f => [f.ty]
  | .br _ => []
  | .brind _ => []
  | .call _ => []
  | .calli _ => []
  | .ret _ => []
  | .loop _ => []
  | .halt _ => []
  | .yield _ => []
  | .compose _ => []
  | .trap _ => []
  | .sys _ => []
  | .setsr f => [f.ty]
  | .hint _ => []
  | .brkp _ => []
  | .fadd f => [f.ty]
  | .fsub f => [f.ty]
  | .fmul f => [f.ty]
  | .fma f => [f.ty]
  | .fms f => [f.ty]
  | .fnma f => [f.ty]
  | .fmin f => [f.ty]
  | .fmax f => [f.ty]
  | .fabs f => [f.ty]
  | .fneg f => [f.ty]
  | .fdiv f => [f.ty]
  | .fsqrt f => [f.ty]
  | .frcp f => [f.ty]
  | .frsqrt f => [f.ty]
  | .fexp2 f => [f.ty]
  | .flog2 f => [f.ty]
  | .ftanh f => [f.ty]
  | .fsig f => [f.ty]
  | .fround f => [f.ty]
  | .fclass f => [f.ty]
  | .fscale f => [f.ty]
  | .fdot2 f => [f.ty]
  | .fdot4 f => [f.ty]
  | .fclamp f => [f.ty]
  | .fcopysign f => [f.ty]
  | .cvt f => [f.ty, dtOf f]
  | .cvti f => [f.ty, dtOf f]
  | .cvtf f => [f.ty, dtOf f]
  | .fmt f => [f.fmt]
  | .pack f => [f.ty, dtOf f]
  | .unpack f => [f.ty, dtOf f]
  | .fmaxexp f => [f.ty]
  | .perm f => [f.ty]
  | .shfl f => [f.ty]
  | .red f => [f.ty]
  | .scan f => [f.ty]
  | .cmpr f => [f.ty]
  | .expd f => [f.ty]
  | .vote f => [f.ty]
  | .zip f => [f.ty]
  | .unzip f => [f.ty]
  | .ld f => [f.ty]
  | .lda f => [f.ty]
  | .st f => [f.ty]
  | .stl f => [f.ty]
  | .ldg f => [f.ty]
  | .stg f => [f.ty]
  | .ldsp f => [f.ty]
  | .stsp f => [f.ty]
  | .sread f => [f.ty]
  | .swrite f => [f.ty]
  | .scfg f => [f.ty]
  | .sclose _ => []
  | .ldfwd _ => []
  | .pref _ => []
  | .fence _ => []
  | .cwb _ => []
  | .cinv _ => []
  | .acopy _ => []
  | .acopy2 _ => []
  | .ashadow _ => []
  | .apubPublish _ => []
  | .apubDiscard _ => []
  | .aprobe _ => []
  | .agather _ => []
  | .amoAdd f => [f.ty]
  | .amoFadd f => [f.ty]
  | .amoMin f => [f.ty]
  | .amoMax f => [f.ty]
  | .amoAnd f => [f.ty]
  | .amoOr f => [f.ty]
  | .amoXor f => [f.ty]
  | .amoSwap f => [f.ty]
  | .amoCas f => [f.ty]
  | .amoInc f => [f.ty]
  | .amoDec f => [f.ty]
  | .mcfg f => [f.af, f.bf]
  | .mzero f => [f.af, f.bf]
  | .mma f => [f.af, f.bf]
  | .mld f => [f.af, f.bf]
  | .mst f => [f.af, f.bf]
  | .mctr f => [f.af, f.bf]
  | .mbound f => [f.af, f.bf]
  | .wbload f => [f.af, f.bf]
  | .mputa f => [f.af, f.bf]
  | .mputb f => [f.af, f.bf]
  | .mred f => [f.af, f.bf]
  | .mrow f => [f.af, f.bf]
  | .qpush _ => []
  | .qpop _ => []
  | .qpeek _ => []
  | .qinfo _ => []
  | .mbsend _ => []
  | .mbrecv _ => []
  | .mcput _ => []
  | .mctake _ => []
  | .launch _ => []
  | .kinfo _ => []
  | .spawn _ => []
  | .syncWait _ => []
  | .syncNext _ => []
  | .evwait _ => []
  | .evsig _ => []
  | .ginfo _ => []
  | .binitAlloc _ => []
  | .binitFree _ => []
  | .arrive _ => []
  | .arriveDrop _ => []
  | .bwait _ => []
  | .fork _ => []
  | .join _ => []
  | .rregionDecl _ => []
  | .rregionDrop _ => []
  | .rinfo _ => []
  | .trvopen _ => []
  | .trvput _ => []
  | .trvtake _ => []
  | .trvdonePass _ => []
  | .trvdoneDrop _ => []
  | .trvcloseDrain _ => []
  | .trvcloseAbort _ => []
  | .trvstat _ => []
  | .ctxq _ => []
  | .frec _ => []
  | .fresumeResume _ => []
  | .fresumeRedirect _ => []
  | .fresumeEnd _ => []
  | .pgq _ => []
  | .pgadviseWillneed _ => []
  | .pgadviseTranslate _ => []
  | .pgadviseEvictbehind _ => []
  | .pgadviseKeep _ => []
  | .acoll _ => []
  | .lnkq _ => []
  | .station _ => []
  | .dmark _ => []
  | .probe _ => []
  | .create _ => []
  | .configure _ => []
  | .bind _ => []
  | .run _ => []
  | .unbind _ => []
  | .preempt _ => []
  | .restore _ => []
  | .freeze _ => []
  | .resume _ => []
  | .dump _ => []
  | .kill _ => []
  | .danswer _ => []
  | .load _ => []
  | .unload _ => []
  | .qcreate _ => []
  | .qopen _ => []
  | .qdrain _ => []
  | .qclose _ => []
  | .qdestroy _ => []
  | .qquery _ => []
  | .balloc _ => []
  | .bfree _ => []
  | .bquery _ => []
  | .punmap _ => []
  | .pmigrate _ => []
  | .pevict _ => []
  | .psplit _ => []
  | .ppin _ => []
  | .punpin _ => []
  | .pdomain _ => []
  | .rsync _ => []
  | .panswer _ => []
  | .pstock _ => []
  | .manswer _ => []
  | .gresume _ => []
  | .logcfg _ => []
  | .logtrim _ => []
  | .reverseToStation _ => []
  | .reverseBlock _ => []
  | .trcfg _ => []
  | .record _ => []
  | .dbgmatch _ => []
  | .cutread _ => []
  | .fetchOpportunity => []
  | .fetchComplete => []
  | .fillDelivery => []
  | .codePageVerification => []
  | .instancePlace => []
  | .tokenDelivery => []
  | .blockCommit => []
  | .exitMispredict => []
  | .predictorEntryClear => []
  | .watchdogExpiry => []
  | .slotWaitEntry => []
  | .slotRetention => []
  | .waitLimitExpiry => []
  | .overflowReinject => []
  | .thermalThreshold => []
  | .thermalSlotDisable => []
  | .thermalSlotEnable => []
  | .displacedMove => []
  | .thermalRankingRefresh => []
  | .steal => []
  | .matrixStepStart => []
  | .matrixStepFinish => []
  | .wbloadStepStart => []
  | .pairMultiplyPhase => []
  | .pairAccumulatePhase => []
  | .atomicEarlyPerform => []
  | .releasePerform => []
  | .scratchpadStoreArrival => []
  | .streamHandover => []
  | .ldfwdReplyDelivery => []
  | .mailboxDelivery => []
  | .copyCompletion => []
  | .shadowPublication => []
  | .collectiveCompletion => []
  | .dispatchRemove => []
  | .groupLevelRise => []
  | .groupDispatch => []
  | .groupRetire => []
  | .barrierEngineArrival => []
  | .gatingWindowEnd => []
  | .quiescenceSweep => []
  | .saveImageWritten => []
  | .dumpStart => []
  | .dumpComplete => []
  | .teardownComplete => []
  | .loadChecksComplete => []
  | .hostAppend => []
  | .queueStorageEcc => []
  | .stageLaunchAppend => []
  | .mergeComplete => []
  | .ridFree => []
  | .drainTokenEmerge => []
  | .migrationComplete => []
  | .evictionComplete => []
  | .splitComplete => []
  | .stationMarker => []
  | .logDrain => []
  | .timePacket => []
  | .lifetimeRecordWrite => []
  | .flitReceive => []
  | .portTrainingDone => []
  | .laneErrorDegrade => []
  | .portEnable => []
  | .portDisable => []
  | .isolate => []
  | .release => []
  | .linkTimeout => []
  | .ptpSync => []
  | .cxlSnoop => []
  | .hostCxlMemWrite => []
  | .hostCxlMemRead => []
  | .backInvalidateComplete => []
  | .imeasSample => []
  | .voltageDroop => []
  | .pllLock => []
  | .thermalTrip => []
  | .powerOn => []
  | .bringupStepComplete => []
  | .bringupTimeout => []
  | .powerDown => []
  | .getVersion => []
  | .getCapabilities => []
  | .negotiateAlgorithms => []
  | .getDigests => []
  | .getCertificate => []
  | .challenge => []
  | .getMeasurements => []
  | .spdmUnsupportedRequest => []
  | .islIlimWrite => []
  | .islImeasRead => []
  | .reqHeadWrite => []
  | .mgmtRegisterWrite => []
  | .partialApertureWrite => []
  | .enginePageWait => []

/-- The PROFILE bits an instruction requires (04 R108). -/
def profileOf (i : Instr) : BitVec 16 :=
  let o := opcode i
  let tys := typeFields i
  let base : BitVec 16 := 1#16
  let f64 := if tys.contains 11#4 then 2#16 else 0#16
  let mx := if 0xB0 ≤ o ∧ o ≤ 0xBB then 4#16 else 0#16
  let sd8 := if tys.any (fun t => decide (12 ≤ t.toNat) && decide (t.toNat ≤ 14)) then 8#16 else 0#16
  let rev := if 0xE0 ≤ o ∧ o ≤ 0xE3 then 16#16 else 0#16
  let trv := if 0xE4 ≤ o ∧ o ≤ 0xE9 then 32#16 else 0#16
  let stn := if o = 0xF7 then 64#16 else 0#16
  base ||| f64 ||| mx ||| sd8 ||| rev ||| trv ||| stn

/-- The stage classes (04 R104). -/
def stageOk (i : Instr) : Bool :=
  let o := opcode i
  let s := (stgOf i).toNat
  if (0x80 ≤ o ∧ o ≤ 0x96) ∨ (0xA0 ≤ o ∧ o ≤ 0xAA) then s == 0 || s == 3
  else if (0x4A ≤ o ∧ o ≤ 0x51) ∨ (0x60 ≤ o ∧ o ≤ 0x66) then s == 4
  else if (0x70 ≤ o ∧ o ≤ 0x78) ∨ (isExit i || o == 0x3C || o == 0x3D) then s == 5
  else decide (s ≤ 5)

/-- The form of a target by itself (04 R89): kind 00 entirely zero, an operand 0 to 4, a write entry 0 to 23. -/
def targetForm (t : Target) : Bool :=
  match (t.extractLsb' 10 2).toNat with
  | 0 => t == 0#12
  | 2 => bits t 9 5 == 0 && decide (bits t 4 0 < 24)
  | _ => decide (bits t 2 0 ≤ 4)

/-- A target names operand `f`. -/
def namesF (t : Target) : Bool := (bits t 11 10 == 1 || bits t 11 10 == 3) && bits t 2 0 == 4

/-- Targets of an instruction by themselves (04 R89, R100, 05 R146): only T0 of `fmt` names `f`, and it names nothing else;
DESIGN CHOICE: a T0 of kind 11 of `call` and `calli`, for which 05 R146 names no check, is check 13 too (log 79). -/
def targetsOk (i : Instr) : Bool :=
  match i with
  | .fmt f => bits f.t0 11 10 == 1 && bits f.t0 2 0 == 4
  | .call f => targetForm f.t0 && !namesF f.t0 && bits f.t0 11 10 != 3
  | .calli f => targetForm f.t0 && !namesF f.t0 && bits f.t0 11 10 != 3
  | i => (targets i).all (fun t => targetForm t && !namesF t)

end Sys2Proof.Machine
end

