-- ==== Sys2Proof/Config.lean ====
section
/-!
DEFINITION. What an implementation fixes, and the free values: constants without a body, so that no proof can see one.
The figures are those of the Buryth K8 (01 R9-R20, 02 R23, 10 R281, 12 R343, 15 R419, 18 R482).
-/

namespace Sys2Proof.Config

/-- Grids of the package (01 R9). -/
def grids : Nat := 448
/-- Grids of a field (01 R9). -/
def gridsPerField : Nat := 56
/-- Fields (01 R11). -/
def fields : Nat := 8
/-- Wolux ports (01 R11). -/
def ports : Nat := 48
/-- Contexts (10 R281). -/
def contexts : Nat := 4096
/-- Configuration planes of a grid (02 R23). -/
def planes : Nat := 8
/-- Thread slots of a grid (01 R9). -/
def slots : Nat := 8
/-- Register banks of a grid (01 R12). -/
def banks : Nat := 16
/-- Stepping identifier of B0 (00 R5). -/
def stepping : Nat := 0x0B0
/-- PROFILE bits the K8 implements (04 R108). -/
def profiles : BitVec 16 := 0x007F#16
/-- Feature bits the K8 implements (10 R299). -/
def features : Nat := 0x3F
/-- PLB entries of a grid (08 R225). -/
def plbEntries : Nat := 64
/-- Dependence predictor entries of a grid (02 R34). -/
def predEntries : Nat := 1024
/-- Indirect target table entries of a grid (05 R147). -/
def indirectEntries : Nat := 512
/-- Load-store queue: loads and stores in flight of a grid (08 R232). -/
def lsqEntries : Nat := 64
/-- Copy request entries and scoreboard ranges of a grid (08 R250). -/
def copyEntries : Nat := 16
/-- Fill table entries of a field (11 R328). -/
def fillEntries : Nat := 32
/-- Bytes of a placement cache (01 R12). -/
def placementBytes : Nat := 65536
/-- Outstanding page requests of the package (15 R418). -/
def pageRequests : Nat := 4096
/-- Frames the pool holds at most (15 R419). -/
def poolFrames : Nat := 1048576
/-- Frames an open stream latches at most (08 R237). -/
def streamPages : Nat := 1024
/-- Translation cache entries: an HBM controller, a Wolux port, a CXL port (08 R226). -/
def tcHbm : Nat := 8192
def tcWolux : Nat := 2048
def tcCxl : Nat := 4096
/-- Sets and ways of an L2 slice of 4 MiB in lines of 256 bytes (08 R219). -/
def l2Sets : Nat := 1024
def l2Ways : Nat := 16
/-- HBM of the package (01 R13): 16 stacks of 48 GiB. Frame addresses are wider (15 R410). -/
def hbmBytes : Nat := 768 * 2 ^ 30
/-- Stitch bridges: the fields that each joins (01 R11). -/
def bridges : List (Nat × Nat) := [(0, 1), (1, 2), (2, 3), (4, 5), (5, 6), (6, 7), (0, 4), (1, 5), (2, 6), (3, 7)]
/-- Entries of a reverse-translation filter (18 R475). -/
def filterEntries : Nat := 1048576
/-- Flits of a replay buffer (18 R477). -/
def replayFlits : Nat := 256
/-- Package RIDs besides 0 (16 R435). -/
def rids : Nat := 4095
/-- Revisions of a context besides the root (16 R435). -/
def revisions : Nat := 1023
/-- Entries of the collective engine (18 R485). -/
def collEntries : Nat := 16
/-- Address generators of the package (15 R422). -/
def generators : Nat := 3584
/-- Contexts waiting in the dump engine's queue (10 R308). -/
def dumpQueue : Nat := 8

/-- FREE VALUE: what the next open choice of the hardware is (log 6), applied to the counter of `Dev`. -/
opaque freeNat : Nat → Nat
/-- FREE VALUE: bits whose value the spec leaves open (log 6). -/
opaque freeWord : Nat → BitVec 64
/-- FREE VALUE: a byte of a record whose content the spec does not lay out (log 6). -/
opaque freeByte : Nat → BitVec 8
/-- FREE VALUE: the CRC-64 of a flit, whose polynomial the spec does not give (18 R477, log 33). -/
opaque flitCrc : BitVec 960 → BitVec 64
/-- FREE VALUE: the PDID that another package's tables hold for a region (log 13). -/
opaque remotePdid : Nat → Nat

end Sys2Proof.Config
end

