-- ==== Sys2Proof/Machine/State.lean ====
section
/-!
DEFINITION. The state of the Buryth K8: everything the specification gives the machine, as plain data.
Tables list only what differs from the default record of their reader; `State.reset` lists nothing.
Bits the manual treats as words (tokens, records, handles) are bit vectors; counts, numbers and addresses are naturals.
-/

namespace Sys2Proof.Machine

/-- Why the machine stops. An architectural fault of the spec is no stop: it is a fault record (10 R302). -/
inductive Fault where
  /-- Raised by `step` when the word of an instruction slot that it is told to fire decodes to no instruction. Safe: the
  placement checks 8, 9 and 12 (04 R109) let no such word reach a plane. -/
  | undecodable
deriving DecidableEq, Repr

/-- What the model refuses to give a meaning. -/
inductive Refusal where
  /-- Raised by an arm of `exec` that has no meaning yet. Safe: nothing can be proved of a run through it. -/
  | notModelled (mnemonic : String)
deriving DecidableEq, Repr

/-! ### Tokens, causes, pending faults -/

/-- A token: a value, a null (04 R91), or the format-and-scale token of `fmt` (03 R67). -/
inductive Tok where
  | val (v : Vec)
  | null
  | fmt (code : BitVec 4) (scale : BitVec 8)
deriving DecidableEq, Repr

/-- Fault causes (10 R303). -/
inductive Cause where
  | blockMalformed | exitConflict | blockIncomplete | codeEcc | codeIntegrity | profileMissing | registerRange
  | pageAbsent | protection | alignment | pageUnresolved | dataEcc | linkLost
  | queueTimeout | mailboxTimeout | ringTimeout | barrierTimeout | eventTimeout | syncTimeout
  | tileLive | matrixShape | weightFormat | swTrap | sysCall | undoLogFull | replayDiverged | breakpoint
  | traverseConfig
deriving DecidableEq, Repr

/-- A fault held in an instance until it is oldest (02 R27), with what its record will hold (10 R302, R306). -/
structure Pend where
  cause : Cause
  loc : BitVec 8 := 0#8
  check : BitVec 5 := 0#5
  w2 : Word := 0#64
  w3 : Word := 0#64
  w4 : Word := 0#64
deriving DecidableEq, Repr

/-! ### Blocks -/

/-- A block as it stands in memory (04 R80): header words, entries, and the words of its chunks. -/
structure Block where
  hdw0 : Word
  hdw1 : Word
  reads : List (BitVec 32)
  writes : List (BitVec 16)
  exits : List (BitVec 32)
  w240 : Word
  w248 : Word
  words : List Word
  /-- Body chunks of the block as it stands in memory, which fix its fall-through address (05 R146, 04 R112). -/
  memChunks : Nat
deriving DecidableEq, Repr

/-! ### Traverse sets (17) -/

/-- States of a traverse set (17 R459). -/
inductive TState where
  | free | opened | running | draining | closed
deriving DecidableEq, Repr

/-- A stage (17 R454, R456, R462); one without a template launches nothing. -/
structure Stage where
  kind : Nat
  template : Option Vec
  queue : Word
  pass16 : Nat := 32768
  passes : Nat := 0
  verdicts : Nat := 0
  /-- Slots queued here, oldest first; those that uncommitted `trvtake` instructions have reserved stay until the commit. -/
  fifo : List Nat := []
  /-- Taken and not done. -/
  taken : List Nat := []
  /-- Launches to append (17 R457). -/
  launches : List Nat := []
deriving DecidableEq, Repr

/-- A record in a slot, as its router knows it (17 R455). -/
structure TRec where
  seq : Nat
  len : Nat
  done : Nat
  drop : Bool
deriving DecidableEq, Repr

/-- A traverse set. -/
structure TSet where
  st : TState := .free
  tgen : Nat := 0
  base : Nat := 0
  nslots : Nat := 0
  nwin : Nat := 8
  lfsr : BitVec 32 := 1#32
  stages : List Stage := []
  /-- Records by slot. -/
  slots : Tbl TRec := []
  seqNext : Nat := 0
  verdicts : Nat := 0
  done : Nat := 0
  dropped : Nat := 0
  home : Nat := 0
  /-- Group of the thread that opened it: the issuer of the launches that the router appends (log 32). -/
  gid : Nat := 0
  /-- Leaves of its record area that it holds LOCKED (17 R464). -/
  locks : List Nat := []
  aborted : Bool := false
deriving DecidableEq, Repr

/-! ### Effects an instance performs at its commit -/

/-- Atomic operations (08 R257). -/
inductive AmoOp where
  | add | fadd | min | max | and | or | xor | swap | cas | inc | dec
deriving DecidableEq, Repr

/-- Where a completion token goes (08 R249). -/
structure Compl where
  kind : BitVec 4 := 0#4
  tgt : BitVec 12 := 0#12
  grid : Nat := 0
  arg : BitVec 32 := 0#32
  tag : Word := 0#64
deriving DecidableEq, Repr

/-- Memory spaces of a stream or a copy (08 R236, R248). -/
inductive Space where
  | global | scratch | port | shadow
deriving DecidableEq, Repr

/-- Copy engine requests: straight, two-dimensional, row gather (08 R247), and the collective of 18 R485. -/
inductive CopyKind where
  | straight | rows | gather
deriving DecidableEq, Repr

/-- A copy descriptor read and checked (08 R247-R249). -/
structure CopyDesc where
  kind : CopyKind
  dst : Nat
  src : Nat
  rowLen : Nat
  rows : Nat
  dpitch : Nat
  spitch : Nat
  list : Nat
  sspace : Space
  dspace : Space
  shadow : Nat
  tagen : Bool
  ctag : Nat
  compl : Compl
  scope : Nat
  /-- The first scratchpad key past the window that a row gather reads (08 R250). -/
  slim : Nat := 0
deriving DecidableEq, Repr

/-- The configuration of a stream (08 R236). -/
structure StreamCfg where
  ty : BitVec 4
  write : Bool
  space : Space
  base : Nat
  count0 : Nat
  count1 : Nat
  count2 : Nat
  stride0 : Int
  stride1 : Int
  stride2 : Int
deriving DecidableEq, Repr

/-- One effect that an instruction of an instance performs at the commit (02 R28, R30). -/
inductive Eff where
  /-- Bytes of a global store, lowest address first (08 R233-R234); a release at a scope for `stl` (0: none). -/
  | store (bytes : List Host.Cell) (relScope : Nat)
  /-- Bytes of a scratchpad store on a grid (08 R233, R280). -/
  | spStore (grid : Nat) (bytes : List Host.Cell)
  /-- An atomic performed at commit (08 R258). -/
  | amo (op : AmoOp) (ty : BitVec 4) (scope : Nat) (ord : BitVec 2) (addr : Nat) (b : Word) (c : Word)
  /-- An atomic that was performed early; its commit part is its release, if any, and its flags (08 R258). -/
  | amoDone (scope : Nat) (ord : BitVec 2)
  | scfg (stream : Nat) (cfg : StreamCfg) (frames : List (Nat × Nat))
  | sread (stream : Nat) (n : Nat)
  | swrite (stream : Nat) (ty : BitVec 4) (v : Vec)
  | sclose (stream : Nat)
  | ldfwd (addr : Nat) (dest : Word)
  | fence (kind : BitVec 4) (scope : Nat)
  | cwb (scope : Nat) (base : Nat) (len : Nat)
  | cinv (scope : Nat) (base : Nat) (len : Nat)
  | copy (d : CopyDesc)
  | ashadow (handle : Nat) (base : Nat) (len : Nat) (frames : List Nat)
  | apubPublish (handle : Nat) (scope : Nat)
  | apubDiscard (handle : Nat)
  | setsr (num : Nat) (v : Word)
  | compose (first : Nat) (width : Nat) (slots : List (Nat × Nat))
  | launch (q : Nat) (rcd : Vec)
  | qpush (q : Nat) (v : Vec)
  | qpop (q : Nat) (idx : Nat)
  | mbsend (thread : Nat) (prio : Nat) (v : Vec)
  | mbrecv (prio : Nat) (seq : Nat)
  | mcput (q : Nat) (mask : Nat) (v : Vec)
  | mctake (q : Nat) (slot : Nat) (member : Nat)
  | spawn (cont : Word) (frame : Nat) (tag : Word)
  | syncNext (frame : Nat) (entry : Option (Nat × Nat))
  | evsig (thread : Nat) (latch : Nat)
  | evwait (cleared : BitVec 16)
  | binitAlloc (num : Nat) (cfg : Word)
  | binitFree (num : Nat) (bgen : Nat)
  | arrive (num : Nat) (bgen : Nat) (drop : Bool)
  | fork (rnum : Nat) (rid : Nat) (drnum : Nat) (drid : Nat) (frames : List Nat) (q : Nat) (rcd : Vec)
  | join (rnum : Nat)
  | regionDecl (num : Nat) (desc : Vec)
  | regionDrop (num : Nat)
  | trvopen (num : Nat) (set : TSet)
  | trvput (num : Nat) (tgen : Nat) (slot : Nat) (v : Vec) (rest : Nat) (len : Nat)
  | trvtake (num : Nat) (tgen : Nat) (stage : Nat) (slot : Nat)
  | trvdone (num : Nat) (tgen : Nat) (slot : Nat) (seq : Nat) (stage : Nat) (drop : Bool)
  | trvclose (num : Nat) (tgen : Nat) (abort : Bool)
  | fresume (entry : Nat) (action : Nat) (target : Nat)
  | pgadvise (sub : Nat) (base : Nat) (len : Nat)
  | acoll (desc : Vec) (members : BitVec 256) (kind : Nat) (rop : Nat) (typ : Nat)
  | station (n : Nat)
  | dmark (mark : Nat) (v : Word)
  | brkp (num : Nat)
  | hint (addr : Nat)
  | trap (sys : Bool) (arg : Word)
  | yield
  | event (kind : Nat) (source : Word) (value : Vec)   -- a replay event to be recorded (19 R503)
deriving DecidableEq, Repr

/-- A load, a store or a null seen by the load-store queue of an instance (02 R33-R34). -/
structure Access where
  lsid : Nat
  idx : Nat
  /-- Byte addresses with the values read or to be stored; empty for a null. -/
  bytes : List Host.Cell
  isStore : Bool
  /-- Read or written in the scratchpad of a grid in place of global memory. -/
  scratch : Option Nat
deriving DecidableEq, Repr

/-- Which exit of an instance fired, and where it leads (05 R145-R146). -/
structure ExitFired where
  num : Nat
  opcode : Nat
  target : Option Nat
deriving DecidableEq, Repr

/-! ### Matrix state (07 R188-R217) -/

/-- The content of a tile register (07 R189-R191). `cells` is the logical tile, row after row; no row listed: all zero. -/
structure Tile where
  m : Nat := 48
  n : Nat := 96
  i32 : Bool := false
  width : Nat := 1
  live : Bool := false
  cells : List (BitVec 32) := []
deriving DecidableEq, Repr

/-- A counter unit (07 R197). -/
structure Counter where
  ktrip : Nat := 1
  rowtrip : Nat := 1
  count : Nat := 0
deriving DecidableEq, Repr

/-- The tag of a weight-buffer unit (07 R195): EMPTY, or element width and SPARSE. -/
inductive WTag where
  | empty
  | full (width : Nat) (sparse : Nat)
deriving DecidableEq, Repr

/-- The phase of a matrix step of an instance (07 R198-R203, R210). -/
inductive StepSt where
  | waiting | started | multiplied | done
deriving DecidableEq, Repr

/-- The exact sum of a K-step for one cell (07 R210, 03 R73): a case that gives NaN with NV, an infinity, or z · 2^e. -/
inductive MSum where
  | bad
  | inf (s : Bool)
  | exact (z : Int) (e : Int)
deriving DecidableEq, Repr

/-- A matrix step of an instance: the fired instruction with its operands, and how far it has come (07 R198). -/
structure MStep where
  idx : Nat
  a : Word
  b : Word
  st : StepSt := .waiting
  /-- Addresses of leaves it holds locked (07 R202). -/
  locks : List Nat := []
  /-- The held sums of a pair's multiply phase, a cell each (07 R210). -/
  sums : List MSum := []
  /-- Tokens it sends when it finishes. -/
  toks : List (BitVec 12 × Tok) := []
  /-- DATA_ECC or WEIGHT_FORMAT that becomes pending when the step finishes (07 R203, R214). -/
  late : Option Pend := none
  /-- Bytes an `mst` writes at the commit (07 R199). -/
  out : List Host.Cell := []
  /-- The counter unit as the step leaves it (07 R197). -/
  ctr : Option (Nat × Counter) := none
  /-- Weight-buffer units, by grid, that a flush leaves EMPTY (07 R200). -/
  units : List (Nat × Nat) := []
  /-- Cycle at which it became eligible (07 R198). -/
  elig : Option Nat := none
deriving DecidableEq, Repr

/-! ### Block instances (02 R25-R32) -/

/-- States of a block instance (02 R27). COMMITTING and COMMITTED are one step, which removes the instance. -/
inductive IState where
  | fetching | placing | firing | complete | flushed
deriving DecidableEq, Repr

/-- A resident loop that a thread is in (02 R46-R48). -/
structure LoopSt where
  blk : Nat
  grid : Nat
  placement : Nat
  fieldNo : Nat
  maxInst : Nat
  iter : Nat
deriving DecidableEq, Repr

/-- An instance of a block in flight. -/
structure Inst where
  thr : Nat
  grid : Nat
  st : IState
  /-- Sequence number in the thread (02 R24). -/
  seq : Nat
  blk : Nat
  code : Option Block := none
  /-- The plane it holds (02 R23). -/
  plane : Option Nat := none
  resident : Bool := false
  /-- Its placement: instances of one resident placement share this number. -/
  placement : Nat := 0
  tag : Word := 0#64
  /-- Iterations since the loop was entered (04 R90, log 10), and the value of the iterating field (02 R48). -/
  iter : Nat := 0
  rot : Nat := 0
  /-- Operands that have arrived: instruction index, operand, token (04 R91). -/
  operands : List (Nat × Nat × Tok) := []
  /-- Read entries whose register value is not injected yet (02 R35). -/
  pendReads : List Nat := []
  fired : List Nat := []
  /-- Tokens of the write entries (02 R25). -/
  wr : Tbl Tok := []
  accs : List Access := []
  /-- LSIDs of the store class that are filled, by a store or a null (02 R25). -/
  lsids : List Nat := []
  /-- LSIDs of fences and acquires that have not been performed: loads of higher LSID wait (09 R269). -/
  acquires : List Nat := []
  exit : Option ExitFired := none
  /-- Cycle at which it fired (19 R490). -/
  exitAt : Nat := 0
  /-- The exit and the successor that fetch followed (02 R31). -/
  predicted : Option (Nat × Nat) := none
  flags : BitVec 6 := 0#6
  pend : Option Pend := none
  /-- A page fault of this instance: the request it waits on (02 R32). -/
  page : Option Nat := none
  /-- What fetch knew before it: tag, depth and loops, taken again when it is flushed (02 R46). -/
  preTag : Word := 0#64
  preDepth : Nat := 0
  preLoops : List LoopSt := []
  effs : List (Nat × Nat × Eff) := []
  prngNew : Option Word := none
  brkp : Option Nat := none
  msteps : List MStep := []
  /-- Start copies of the tiles it wrote (07 R201). -/
  starts : Tbl Tile := []
  /-- Atomics performed (08 R258). -/
  atomics : Nat := 0
  /-- Cycle at which its FETCHING began, then since when the watchdog counts; and its limit in cycles (02 R29). -/
  since : Nat := 0
  wdog : Nat := 1048576
  /-- Flushed, waiting for matrix steps to finish (02 R30). -/
  dying : Bool := false
deriving DecidableEq, Repr

/-- A token sent and not yet delivered (04 R91): to an operand or a write entry of an instance. -/
structure Flight where
  iid : Nat
  /-- The producing instruction's index, or none for a read entry or an engine. -/
  src : Option Nat
  tgt : BitVec 12
  tok : Tok
deriving DecidableEq, Repr

/-- A token addressed to an instance by its placement and tag: kind 11, or a completion of KIND 0x1 (02 R47, 08 R249). -/
structure FarTok where
  grid : Nat
  ctx : Nat
  /-- The placement a kind-11 token stays in; none for a completion. -/
  placement : Option Nat
  /-- The placement of the instance that has received a completion (02 R47). -/
  bound : Option Nat := none
  tag : Word
  tgt : BitVec 12
  tok : Tok
  /-- The instance that produced it, if it is uncommitted. -/
  producer : Option Nat
  /-- The copy's destination range and scope, for the acquire of 09 R276. -/
  acq : Option (Nat × Nat × Nat)
deriving DecidableEq, Repr

/-- A waiting instruction (12 R356): when it fired, and its limit in cycles (none: unbounded, 04 R99). -/
structure Wait where
  iid : Nat
  idx : Nat
  since : Nat
  limit : Option Nat
  expired : Bool
  /-- The object it waits on, so that waiting instructions are served in order (12 R357). -/
  key : Nat × Word
deriving DecidableEq, Repr

/-! ### Threads (02 R35-R52) -/

/-- States of a thread slot (02 R37). -/
inductive SlotSt where
  | idle | fetch | run | wait | page | retention | stopped | displaced
deriving DecidableEq, Repr

/-- A message of a mailbox with its origin word (12 R352). -/
structure Msg where
  data : Vec
  origin : Word
  seq : Nat
deriving DecidableEq, Repr

/-- One priority of a mailbox (12 R352): messages, counts, reservations of space and of messages, waiting deliveries. -/
structure Mbox where
  msgs : List Msg := []
  arrived : Nat := 0
  received : Nat := 0
  /-- Engine and `ldfwd` deliveries that wait for an entry, oldest first, with their time of arrival. -/
  waiting : List (Nat × Msg) := []
deriving DecidableEq, Repr

/-- A deque entry (13 R384), with a number of the model's own by which reservations name it. -/
structure DqEnt where
  cont : Word
  frame : Word
  tag : Word
  id : Nat
deriving DecidableEq, Repr

/-- A stream of a thread (08 R235-R242), listed under 32·k + s: stream s of the address generators of core grid k. -/
structure Stream where
  isOpen : Bool := false
  cfg : StreamCfg
  /-- Elements consumed or written by committed instructions. -/
  pos : Nat := 0
  /-- Latched frame bases: page address, frame, suspended (08 R237, 15 R422). -/
  latches : List (Nat × Nat × Bool) := []
  /-- Bytes of a write stream in the coalescing buffer (08 R240). -/
  buffer : List Host.Cell := []
  /-- Elements that have arrived at a port stream, in arrival order, with the error mark (08 R236, R243). -/
  arrivals : List (BitVec 64 × Bool) := []
  /-- A hand-over or a commit of its `scfg` is awaited (08 R237-R238). -/
  configuring : Option Nat := none
  /-- A burst met a failure answer: PAGE_UNRESOLVED at the next `swrite` or `sclose` (15 R423). -/
  unresolved : Bool := false
deriving DecidableEq, Repr

/-- A thread of a dispatched group. A register that is not listed holds zero (13 R381). -/
structure Thread where
  ctx : Nat
  gid : Nat
  tnum : Nat
  st : SlotSt
  prior : SlotSt := .run
  /-- RETENTION was entered from WAIT (02 R38). -/
  fromWait : Bool := false
  /-- Time at which it entered its state (02 R37). -/
  stSince : Nat := 0
  first : Nat
  width : Nat
  slots : List (Nat × Nat)
  regCnt : Nat
  regs : Tbl Vec := []
  /-- The next block to fetch; none when the thread waits for its successor. -/
  next : Option Nat
  /-- The predicted path is being followed: youngest sequence number used. -/
  seq : Nat := 0
  commitSeq : Nat := 0
  /-- Tag, nesting depth and loop as the next fetch takes them, ahead of the commits (02 R46). -/
  fTag : Word := 0#64
  fDepth : Nat := 0
  loops : List LoopSt := []
  flags : Word := 0#64
  prng : Word := 1#64
  latches : BitVec 16 := 0#16
  mboxes : Tbl Mbox := []
  deque : List DqEnt := []
  /-- Its oldest entries, which stand in the deque spill area of its pool unit, and the place of the first of them (13 R384). -/
  spilled : Nat := 0
  dqBase : Nat := 0
  tiles : Tbl Tile := []
  /-- By tile, the first grid of the core at which it took its layout: where its shares are (02 R44, 07 R190). -/
  tileFirst : Tbl Nat := []
  ctrs : Tbl Counter := []
  streams : Tbl Stream := []
  retPred : List Nat := []
  /-- Thread pool unit (13 R370) and private pool entry (11 R331). -/
  unit : Nat := 0
  poolEntry : Option Nat := none
  /-- The live fault record that stopped it (10 R302). -/
  rcd : Option Nat := none
  /-- Where a resume fetches (02 R37, 05 R151). -/
  resumeAt : Option Nat := none
  /-- The remaining limit of a wait that a save image has kept: block, instruction index, cycles (10 R301). -/
  waitLeft : Option (Nat × Nat × Nat) := none
  /-- The page request it waits on, and the block to fetch again (02 R32). -/
  pageReq : Option Nat := none
  ended : Bool := false
  /-- Ended by `fresume.end` or containment (13 R373). -/
  failed : Bool := false
  /-- Its initial registers are still to be loaded from the argument area (13 R382). -/
  argLoad : Bool := false
  /-- It ends when its oldest instance, which holds a performed atomic, has committed (11 R335). -/
  endAfter : Bool := false
  /-- Loads of younger instances wait for a join's merge (16 R449). -/
  joinWait : Option Nat := none
  /-- Replay: ordinal of the next event (19 R503). -/
  ordinal : Nat := 0
deriving DecidableEq, Repr

/-! ### Grids -/

/-- A line of an L1: 32 bytes by virtual address and RID, with byte masks (08 R219, R222). -/
structure L1Line where
  line : Nat
  rid : Nat
  valid : BitVec 32
  owned : BitVec 32
  data : BitVec 256
deriving DecidableEq, Repr

/-- A PLB entry: a 2 MiB region with its PDID and rights (08 R225). -/
structure PlbEnt where
  region : Nat
  pdid : Nat
  rights : BitVec 3
deriving DecidableEq, Repr

/-- A dependence predictor entry (02 R34): block, LSID, and the commits of the grid when it was set. -/
structure PredEnt where
  blk : Nat
  lsid : Nat
  at_ : Nat
deriving DecidableEq, Repr

/-- A configuration plane (02 R23): what holds it, and its phase counts (19 R490). -/
structure Plane where
  placement : Nat
  blk : Nat
  resident : Bool
  thr : Nat
  fetchAt : Nat
  firingAt : Option Nat
  commitAt : Option Nat
  leaveAt : Option Nat
deriving DecidableEq, Repr

/-- A placement-cache entry (11 R328): kernel handle, block address, register count, the placed block. -/
structure CacheEnt where
  kernel : Word
  blk : Nat
  regCnt : Nat
  code : Block
  used : Nat
deriving DecidableEq, Repr

/-- A slot of a grid: the thread that holds it, fairness and heat (02 R37, R41, R51). -/
structure Slot where
  thr : Option Nat := none
  passed : Nat := 0
  waitSince : Nat := 0
  disabled : Bool := false
deriving DecidableEq, Repr

/-- A grid (01 R12). -/
structure Grid where
  slots : Tbl Slot := []
  /-- Banks held: number of the thread and how many (02 R36). They are in retention while the thread is (R39). -/
  banks : Tbl Nat := []
  planes : Tbl Plane := []
  l1 : List L1Line := []
  plb : List PlbEnt := []
  pred : List PredEnt := []
  commits : Nat := 0
  cache : List CacheEnt := []
  overflow : List FarTok := []
  indirect : List (Nat × Nat × Nat) := []
  owner : Option Nat := none
  wtags : Tbl WTag := []
  /-- Matching-store entries in use: instance and tile (07 R210). -/
  matching : List (Nat × Nat) := []
  temp : Nat := 25
  hot : Bool := false
  /-- Single-grid stop or gang stop, with the time it began (19 R492-R493). -/
  stopAt : Option Nat := none
  stopCycle : Nat := 0
  gang : Bool := false
  blockCommits : Nat := 0
  sent : Nat := 0
  received : Nat := 0
  lastTime : Nat := 0
  /-- Phase records of released planes that are still to be traced (19 R490): plane, slot, block, the four counts. -/
  phases : List (List Nat) := []
deriving DecidableEq, Repr

/-! ### Fields -/

/-- A fill of the fill table (11 R328): key, joined instances, the page verification it waits for. -/
structure Fill where
  ctx : Nat
  kernel : Word
  blk : Nat
  regCnt : Nat
  joined : List Nat
  hints : List Nat
  waitPage : Option Nat
deriving DecidableEq, Repr

/-- A field (01 R9, 13 R375-R378, 23 R513-R515). -/
structure Field where
  fills : Tbl Fill := []
  /-- Thermal ranking: the field's grids from the coolest on (13 R376). -/
  ranking : List Nat := []
  /-- The blocked group of a context and what is held for it, a grid and its banks a slot (13 R377). -/
  blocked : Tbl (Nat × List (Nat × Nat)) := []
  powered : Bool := false
  pllLocked : Bool := false
  lockAt : Nat := 0
  overCount : Nat := 0
  throttled : Bool := false
  /-- Its HBM PHY island has power (01 R20). -/
  phy : Bool := false
  /-- It was powered down after its stitch bridges were released: they hold their traffic (23 R515). -/
  cut : Bool := false
  /-- Its controller has a dispatch policy loaded and answers placement requests itself (10 R291, log 76). -/
  policy : Bool := false
deriving DecidableEq, Repr

/-! ### Kernels (11 R316-R337) -/

/-- States of a kernel (11 R325). -/
inductive KState where
  | loading | resident | active | tainted | unloaded
deriving DecidableEq, Repr

/-- A kernel slot. -/
structure Kernel where
  st : KState := .unloaded
  lgen : Nat := 0
  draining : Bool := false
  base : Nat := 0
  req : BitVec 16 := 0#16
  expand : BitVec 16 := 0#16
  expandable : BitVec 16 := 0#16
  codeLen : Nat := 0
  entry : Nat := 0
  regs : Nat := 16
  nv : Nat := 0
  form : Nat := 1
  tagWidths : List Nat := []
  scratch : Nat := 0
  manifest : Nat := 0
  geometry : Nat := 0
  signer : BitVec 384 := 0#384
  poolBase : Nat := 0
  poolSize : Nat := 0
  verified : List Nat := []
  failed : List Nat := []
  /-- Pages whose verification is in progress (11 R332). -/
  verifying : List Nat := []
  /-- A CODE_INTEGRITY of it has been contained (11 R335). -/
  contained : Bool := false
  /-- The commands whose completion LOAD or UNLOAD owes. -/
  owes : List CmdRec := []
deriving DecidableEq, Repr

/-! ### Queues (12) -/

/-- States of a queue (12 R347). -/
inductive QState where
  | none | unbound | opened | draining | closed | faulted
deriving DecidableEq, Repr

/-- A queue with a handle (12 R343-R349, R353). -/
structure Queue where
  st : QState := .none
  kind : Nat := 0
  qgen : Nat := 0
  size : Nat := 0
  base : Nat := 0
  first : Nat := 0
  width : Nat := 0
  head : Nat := 0
  tail : Nat := 0
  /-- Indices between head and tail that have been removed (12 R348). -/
  removed : List Nat := []
  drops : Nat := 0
  /-- Revision (RNUM) of each launch record that is not the root's: index and RNUM (16 R436). -/
  revs : Tbl Nat := []
  /-- Group that issued a launch record, for a mailbox completion (12 R350). -/
  issuers : Tbl Nat := []
  /-- Ring: masks of the slots by slot number, cursors of the members, scratchpad base (12 R353). -/
  masks : Tbl Nat := []
  cursors : Tbl Nat := []
  scratch : Nat := 0
  /-- Leaves of its entry pages that it holds LOCKED (12 R347). -/
  locks : List Nat := []
deriving DecidableEq, Repr

/-! ### Barriers (14 R395) -/

/-- A barrier; IDLE when `armed` is false. -/
structure Barrier where
  armed : Bool := false
  phase : Nat := 0
  expected : Nat := 1
  arrivals : Nat := 0
  drops : Nat := 0
  scope : Nat := 1
  bgen : Nat := 0
deriving DecidableEq, Repr

/-! ### Revisions (16) -/

/-- States of a revision (16 R435). -/
inductive RState where
  | free | active | joining | joined | retained
deriving DecidableEq, Repr

/-- A revision number of a context. -/
structure Revision where
  st : RState := .free
  rgen : Nat := 0
  parent : Nat := 0
  depth : Nat := 0
  rid : Nat := 0
  /-- BASE: the datum it falls back on (16 R438); 0 for none. -/
  base : Nat := 0
  /-- The datum it was forked against. -/
  datum : Nat := 0
  /-- Frames reserved and not used, frames owned: page and frame (16 R440-R441). -/
  reserve : List Nat := []
  owned : List (Nat × Nat) := []
  /-- A write of the revision reached its PACKAGE point since its newest datum was taken (16 R437). -/
  wrote : Bool := false
  /-- The newest datum taken of this revision (16 R437). -/
  lastDatum : Nat := 0
  conflicts : Nat := 0
  overflow : Nat := 0
  /-- Order of its fork among the children of its parent (16 R445). -/
  order : Nat := 0
deriving DecidableEq, Repr

/-- A declared region (16 R432). -/
structure Region where
  declared : Bool := false
  desc : Vec := 0#512
deriving DecidableEq, Repr

/-- A join in progress (16 R443-R446): child, next region, the conflicts reported and not answered, the commit it logs as. -/
structure Merge where
  child : Nat
  regionNo : Nat
  awaiting : Bool
  reported : List Nat
  commitSeq : Nat
  thr : Nat
deriving DecidableEq, Repr

/-! ### Undo log, trace, recorder (19) -/

/-- Entries of the undo log (19 R495). `who` holds the group identifier in [31:0] and the thread in [37:32]. -/
inductive LogEnt where
  | line (rid : Nat) (mask : BitVec 32) (addr : Nat) (seq : Nat) (who : Nat) (old : BitVec 256)
  | scratch (mask : BitVec 32) (addr : Nat) (seq : Nat) (who : Nat) (old : BitVec 256)
  | reg (num : Nat) (seq : Nat) (who : Nat) (old : Vec)
  | object (kind : Nat) (seq : Nat) (who : Nat) (ident : Word) (old : List Word)
  /-- With the tag, depth and loops that fetch had before the block, which the bytes in memory do not show (log 38). -/
  | commit (blk : Nat) (seq : Nat) (time : Nat) (flags : Word) (prng : Word) (who : Nat) (regs : Nat) (lines : Nat)
      (tag : Word) (depth : Nat) (loops : List LoopSt)
  | marker (station : Nat) (time : Nat)
  | monument (kind : Nat) (station : Nat) (addr : Nat) (seq : Nat) (time : Nat)
deriving DecidableEq, Repr

/-- The segment of an L2 slice (0 to 127) or of a grid (128 + n): its entries oldest first, each with the chunk it stands in;
units of 64 bytes used in its newest chunk; a pending marker. -/
structure Segment where
  ents : List (Nat × LogEnt) := []
  off : Nat := 1024
  marker : Option Nat := none
deriving DecidableEq, Repr

/-- The undo log of a context (19 R494-R498). -/
structure Log where
  configured : Bool := false
  base : Nat := 0
  len : Nat := 0
  mode : Nat := 0
  drain : Nat := 0
  segs : Tbl Segment := []
  station : Nat := 0
  oldest : Nat := 0
  /-- Stations taken, newest first. -/
  taken : List Nat := []
  /-- A station committed whose markers are awaited (19 R497). -/
  marking : Option Nat := none
  /-- Logging has begun: station 0 was taken (19 R497). -/
  begun : Bool := false
  asked75 : Bool := false
  /-- Leaves of the log that it holds LOCKED (19 R494). -/
  locks : List Nat := []
  drainPos : Nat := 0
deriving DecidableEq, Repr

/-- The trace of a context (19 R491). -/
structure Trace where
  base : Nat := 0
  len : Nat := 0
  enables : BitVec 5 := 0#5
  off : Nat := 0
  lost : Nat := 0
  lossDue : Nat := 0
deriving DecidableEq, Repr

/-- The recorder of a context (19 R503). -/
structure Recorder where
  mode : Nat := 0
  base : Nat := 0
  len : Nat := 0
  pos : Nat := 0
  armed : Bool := false
  truncated : Bool := false
deriving DecidableEq, Repr

/-- A comparator (19 R492): kind with its gang bit, address, mask. -/
structure Comparator where
  kind : Nat := 0
  gang : Bool := false
  addr : Nat := 0
  mask : Nat := 0
deriving DecidableEq, Repr

/-! ### Contexts (10) -/

/-- States of a context (10 R287). -/
inductive CState where
  | free | opened | bound | running | gating | quiescent | saved | frozen | dumping | faulted | killed
deriving DecidableEq, Repr

/-- A fault record of the fault queue (10 R302). -/
structure FRec where
  lanes : Vec
  thr : Nat
  routed : Bool
  /-- What a resume fetches, as the host's RESUME asks it (10 R288). -/
  cause : Cause
deriving DecidableEq, Repr

/-- A bind record in the plat (13 R367-R368). -/
structure Plat where
  parcel : BitVec 448
  bctl : Word
  budgets : List Nat
  poolBase : Nat
  poolUnits : Nat
  /-- Leaves of its thread pool that it holds LOCKED (15 R424). -/
  locks : List Nat
deriving DecidableEq, Repr

/-- An open or allocated shadow (08 R255, 15 R429). -/
structure Shadow where
  base : Nat
  len : Nat
  frames : List Nat
  isOpen : Bool
  publishing : Option Nat
deriving DecidableEq, Repr

/-- A context. -/
structure Ctx where
  st : CState := .free
  gen : BitVec 32 := 0#32
  /-- The configuration record: CFLAGS with WDOG 20 at reset (10 R283). -/
  cfg : List Word := [0xA0#64, 0#64, 0#64, 0#64, 0#64, 0#64, 0#64, 0#64]
  wdog : Nat := 1048576
  undoEn : Bool := false
  stale : Nat := 0
  fwderr : Nat := 0
  restores : Nat := 0
  plat : Option Plat := none
  home : Nat := 0
  /-- The fault queue: live records by entry (10 R302). -/
  frecs : Tbl FRec := []
  rseq : Nat := 0
  /-- Faults since the context was frozen, and the handles of the first four records (10 R309). -/
  secondary : Nat := 0
  secRecs : List Word := []
  handlerQ : List (Word × Nat) := []
  kernels : Tbl Kernel := []
  queues : Tbl Queue := []
  bars : Tbl Barrier := []
  regions : Tbl Region := []
  revs : Tbl Revision := []
  merges : List Merge := []
  forkCount : Nat := 0
  /-- Frames that hold revision-map records, and the records of each page in order, by address (16 R439, R441). -/
  mapFrames : List Nat := []
  mapRecs : Tbl (List Nat) := []
  sets : Tbl TSet := []
  shadows : Tbl Shadow := []
  copyTags : Tbl Word := []
  tagLast : Tbl Nat := []
  vcount : Tbl Nat := []
  log : Log := {}
  trace : Trace := {}
  recd : Recorder := {}
  comps : Tbl Comparator := []
  cuts : List (Nat × List Nat) := []
  /-- Gating: 0 none, 1 the 4,096-cycle window, 2 sweeping; its time, and how many sweeps read zero in a row (10 R293-R295). -/
  gatePhase : Nat := 0
  gateAt : Nat := 0
  zeroSweeps : Nat := 0
  fromFrozen : Bool := false
  saveAddr : Nat := 0
  saveLen : Nat := 0
  /-- A FREEZE or PREEMPT held while DUMPING (10 R289). -/
  heldCmds : List (BitVec 8 × CmdRec) := []
  /-- The command in progress that owes a completion. -/
  owes : Option CmdRec := none
  frozenCause : BitVec 8 := 0#8
  /-- The handle of the record of the fault that froze it; none for a freeze by FREEZE, or where no entry was free (10 R522). -/
  frozenRec : Option Word := none
  /-- The image written when the context was last saved. -/
  lastImage : Option Nat := none
  /-- By grid: blocks committed, messages sent and received since CREATE, for grids that are not bound to it now (19 R493). -/
  counts : Tbl (Nat × Nat × Nat) := []
  /-- Records posted and not performed (10 R284-R285). -/
  posted : List (BitVec 512) := []
deriving DecidableEq, Repr

/-! ### Groups (13) -/

/-- States of a group (13 R373). -/
inductive GState where
  | gated | queued | dispatched | running | draining
deriving DecidableEq, Repr

/-- A formed group. -/
structure Group where
  ctx : Nat
  gid : Nat
  st : GState
  rcd : Vec
  /-- Queue number; none for a handler launch (10 R305). -/
  queue : Option Nat
  qhandle : Word
  /-- Index of its record in the launch queue (19 R503). -/
  qindex : Nat := 0
  order : Nat
  rev : Nat
  since : Nat
  level : Nat
  threads : List Nat := []
  live : Nat := 0
  failed : Bool := false
  scratch : Nat := 0
  /-- The kernel handle and its header as the group runs it. -/
  answered : Option (List Nat) := none
  asked : Bool := false
  issuer : Option Nat := none
  handle : Word := 0#64
  units : List Nat := []
deriving DecidableEq, Repr

/-! ### Engines and requests of the package -/

/-- A copy in progress (08 R250-R253). -/
structure Copy where
  ctx : Nat
  gid : Nat
  thr : Nat
  grid : Nat
  rnum : Nat
  d : CopyDesc
  /-- Bytes moved of the whole copy. -/
  cursor : Nat
  status : Option Nat
  waitPage : Option Nat
  key : Nat
  /-- Commit number of the instance that issued it (08 R252). -/
  seq : Nat
  /-- Core of its thread at the issue, whose access grids are its GRID points (09 R262, R275). -/
  first : Nat
  width : Nat
  /-- The release that it waits for before it reads its source (09 R275). -/
  after : Option Nat := none
deriving DecidableEq, Repr

/-- A forwarded load issued (08 R243). -/
structure Fwd where
  ctx : Nat
  gid : Nat
  thr : Nat
  tnum : Nat
  grid : Nat
  addr : Nat
  dest : Word
  rnum : Nat
  since : Nat
  seq : Nat
deriving DecidableEq, Repr

/-- A release part committed and not performed (09 R268). -/
structure Rel where
  ctx : Nat
  thr : Nat
  scope : Nat
  grids : List Nat
  order : Nat
deriving DecidableEq, Repr

/-- A scratchpad store sent to another core grid (09 R280). -/
structure SpStore where
  ctx : Nat
  thr : Nat
  grid : Nat
  bytes : List Host.Cell
  seq : Nat
deriving DecidableEq, Repr

/-- A stream hand-over token (08 R238): the old stream and the new one. -/
structure Handover where
  oldThr : Nat
  oldStream : Nat
  newThr : Nat
  newStream : Nat
deriving DecidableEq, Repr

/-- An engine arrival that waits for a full barrier phase (14 R399). -/
structure ArrWait where
  ctx : Nat
  handle : BitVec 32
  scope : Nat
deriving DecidableEq, Repr

/-- Who waits for a page (15 R418). -/
inductive Requester where
  /-- With the address of the access and word A of its fault record (10 R306), for PAGE_UNRESOLVED. -/
  | thread (t : Nat) (blk : Nat) (addr : Nat) (how : Nat)
  | copy (k : Nat)
  | coll (k : Nat)
  | burst (t : Nat) (stream : Nat)
  | advice
deriving DecidableEq, Repr

/-- An outstanding page request (15 R418). -/
structure PageReq where
  num : Nat
  ctx : Nat
  page : Nat
  word2 : BitVec 5
  who : List Requester
  /-- In the host request queue, or to be served by the device. -/
  host : Bool
deriving DecidableEq, Repr

/-- Kinds of translation change in progress (15 R421-R428). -/
inductive PcKind where
  | unmap | migrate | evict | split | domain | rsync | behind
deriving DecidableEq, Repr

/-- A page command accepted (15 R419-R428), with what it waits for: hardware locks, generators that the drain token has still
to leave (R422), instances with accesses checked before (R414). -/
structure PageCmd where
  kind : PcKind
  page : Nat
  arg : Nat
  size : Nat
  old : Nat
  waitLocks : Bool
  gens : List Nat
  insts : List Nat
  owes : Option CmdRec
deriving DecidableEq, Repr

/-- A publication in progress (08 R256): context, handle, scope, the copies it waits for. -/
structure Publication where
  ctx : Nat
  handle : Nat
  scope : Nat
  copies : List Nat
  thr : Nat
deriving DecidableEq, Repr

/-- A translation-cache entry (08 R226, 15 R415): owner unit, virtual page, size in bytes, frame, entry bits. -/
structure TcEnt where
  unit : Nat
  page : Nat
  size : Nat
  frame : Nat
  word0 : Word
  word1 : Word
deriving DecidableEq, Repr

/-- A 32-byte sector that the L2 holds, by virtual address and RID, with the context that allocated its 256-byte line (08 R219,
R222). The bytes of a sector of local HBM stand at its frame (log 8): its data here is not read. -/
structure L2Line where
  line : Nat
  rid : Nat
  ctx : Nat
  valid : BitVec 32
  dirty : BitVec 32
  data : BitVec 256
deriving DecidableEq, Repr

/-- A page verification in progress (11 R332). -/
structure Verif where
  ctx : Nat
  kslot : Nat
  page : Nat
deriving DecidableEq, Repr

/-! ### Links (18) -/

/-- States of a Wolux port (18 R478). -/
inductive PState where
  | down | training | up | degraded | isolated | failed
deriving DecidableEq, Repr

/-- A Wolux port. -/
structure Port where
  st : PState := .down
  lanes : Nat := 0
  peer : Nat := 0
  sendSeq : Nat := 0
  recvSeq : Nat := 0
  acked : Nat := 0
  replay : List (BitVec 1024) := []
  refusals : Nat := 0
  attempts : Nat := 0
  replays : Nat := 0
  retrains : Nat := 0
  late : Nat := 0
deriving DecidableEq, Repr

/-- A CXL port. Its reverse-translation filter (18 R475) has an entry for each 256-byte line of which the L2 holds a part. -/
structure Cxl where
  up : Bool := false
deriving DecidableEq, Repr

/-- A remote request, an acknowledgement or a snoop outstanding (18 R479, R476). -/
inductive RKind where
  | access (iid : Nat) (idx : Nat)
  | copy (k : Nat)
  | ack (ctx : Nat)
  | snoop (line : Nat) (cells : List Host.Cell)
deriving DecidableEq, Repr

/-- A remote request. -/
structure Remote where
  kind : RKind
  /-- The context for which it was sent (10 R295). -/
  ctx : Nat
  member : Nat
  port : Nat
  tag : Nat
  since : Nat
deriving DecidableEq, Repr

/-- A snoop of the host, in place of a request to another package (18 R476). -/
def Remote.isSnoop (r : Remote) : Bool := match r.kind with | .snoop _ _ => true | _ => false

/-- A collective issued (18 R485-R487), with the thread's identity for the undo log and the commit that issued it. -/
structure Coll where
  ctx : Nat
  gid : Nat
  who : Nat
  grid : Nat
  desc : Vec
  members : BitVec 256
  kind : Nat
  rop : Nat
  typ : Nat
  since : Nat
  rnum : Nat
  seq : Nat
  key : Nat
  status : Option Nat
  waitPage : Option Nat
deriving DecidableEq, Repr

/-- Counters of the lifetime record (19 R505). -/
structure Life where
  ecc : Tbl (Nat × Nat) := []
  hours : Tbl Nat := []
  droops : Tbl Nat := []
  retrains : Tbl Nat := []
  watchdog : Nat := 0
  codeEcc : Nat := 0
  repair : Tbl (Nat × Nat) := []
  trips : Nat := 0
  ignored : Nat := 0
deriving DecidableEq, Repr

/-- A weight buffer in an image: thread, place in its core, tags, bytes by offset (07 R189). -/
structure SavedWeights where
  thr : Nat
  place : Nat
  tags : Tbl WTag
  bytes : List Host.Cell
deriving DecidableEq, Repr

/-- The slots of a ring on a member in an image: queue number, member, bytes by offset (12 R365). -/
structure SavedRing where
  queue : Nat
  member : Nat
  bytes : List Host.Cell
deriving DecidableEq, Repr

/-- A save image the device wrote (10 R297): its committed state, kept beside the bytes in memory, which hold its number
(log 9). -/
structure Image where
  ctx : Ctx
  threads : List (Nat × Thread)
  groups : List Group
  copies : List Copy
  colls : List Coll
  arrWaits : List ArrWait
  preqs : List PageReq
  weights : List SavedWeights
  rings : List SavedRing
deriving DecidableEq, Repr

/-- A request record held because the host request queue is full (10 R291). -/
structure HeldReq where
  rkind : Nat
  origin : Nat
  lanes : List Word
deriving DecidableEq, Repr

/-- What the device answered on its management message channel (23 R520). -/
structure Spdm where
  code : Nat
  words : List Nat
deriving DecidableEq, Repr

/-- What another member of a domain brings to a collective (18 R485-R487): its domain number, whether it answered, the key,
the kind, operation, type and count it issued, and its source elements. -/
structure PeerColl where
  dom : Nat
  answered : Bool
  key : BitVec 32
  kind : Nat
  rop : Nat
  typ : Nat
  count : Nat
  elems : List Word
deriving DecidableEq, Repr

/-- What an event is about, and what the outside world says with it. Which fields an event reads, its meaning says. -/
structure EvArg where
  a : Nat := 0
  b : Nat := 0
  c : Nat := 0
  z : Int := 0
  v : BitVec 1024 := 0#1024
  bytes : List Byte := []
  ns : List Nat := []
  peers : List PeerColl := []
deriving DecidableEq, Repr

/-- The device: everything but memory, the management registers and the agenda. -/
structure Dev where
  /-- The nanosecond counter, and the cycles the model lets pass (log 7). -/
  now : Nat
  cycle : Nat
  freeCtr : Nat
  nextId : Nat
  /-- The instruction that the step is firing: instance and index (log 5). -/
  focus : Option (Nat × Nat)
  /-- What the event that the step performs is about (log 5). -/
  arg : EvArg
  grids : Tbl Grid
  fields : Tbl Field
  ctxs : Tbl Ctx
  threads : Tbl Thread
  groups : List Group
  insts : Tbl Inst
  flight : List Flight
  retained : List FarTok
  waits : List Wait
  copies : List Copy
  fwds : List Fwd
  rels : List Rel
  spStores : List SpStore
  handovers : List Handover
  arrWaits : List ArrWait
  pool : List Nat
  preqs : List PageReq
  preqNext : Nat
  pcmds : List PageCmd
  pubs : List Publication
  tcaches : List TcEnt
  l2 : List L2Line
  poison : List Nat
  verifs : List Verif
  wprot : List (Nat × Nat × Nat × Nat)
  gidNext : Nat
  ports : Tbl Port
  routes : Tbl (List Nat)
  cxl : Tbl Cxl
  remotes : List Remote
  colls : List Coll
  ptpOff : Int
  slew : Int
  dumpQ : List Nat
  dumping : Option Nat
  reqTail : Nat
  heldReqs : List HeldReq
  notifyIdx : Nat
  images : List Image
  life : Life
  lifeStored : Life
  spdm : List Spdm
  /-- Request tags performed here, by source package: a duplicate is discarded (18 R482). -/
  seenTags : List (Nat × Nat)
  /-- CXL.mem accesses that came before the L2 was initialised (23 R517), and what the host read last. -/
  earlyCxl : Nat
  cxlReads : List (BitVec 8)
  /-- Lines of local memory that the host may hold (18 R476). -/
  hostHeld : List Nat
  /-- Leaves whose hardware lock a flushed or retired holder has let go, to be lowered in the tables (15 R424). -/
  unlocks : List Nat
  /-- The I/O island has power (01 R20). -/
  io : Bool
deriving DecidableEq, Repr

/-- The management registers and the power state behind them (23 R513-R521). -/
structure Mgmt where
  stat : BitVec 10
  failStep : Nat
  fatal : Bool
  /-- The bring-up step in progress; 0 before power-on, 11 when the plat is open. -/
  bstep : Nat
  thermThr : Nat
  lnkTmo : Nat
  domId : Nat
  domMembers : Nat
  ptpGm : Word
  ptRoot : Word
  ptHroot : Word
  appendBase : Word
  notifyBase : Word
  notifyLen : Nat
  ksignSel : Word
  reqBase : Word
  reqLen : Nat
  reqHead : Nat
  cmdBase : Word
  ilim : Tbl Nat
  ilimNext : Tbl Nat
  imeas : Tbl Nat
  peak : Tbl Nat
  fwVersion : Tbl Nat
  fwMin : Tbl Nat
  ideKeys : Nat
deriving DecidableEq, Repr

/-- The memory of the machine and of what it can reach: cells in canonical form, strictly rising addresses, no zero byte
listed (log 2). The key spaces are those of `Machine/Mem.lean`. -/
abbrev Memory := List Host.Cell

/-- What the outside of the model lets happen next (log 3). -/
inductive Act where
  /-- An instruction of an instance fires. -/
  | fire (iid : Nat) (idx : Nat)
  /-- A row of the opcode table happens, about something. -/
  | ev (i : Instr) (arg : EvArg)
deriving DecidableEq, Repr

/-- An entry of the agenda: how many cycles pass before it, and what happens. -/
structure Sched where
  dt : Nat
  act : Act
deriving DecidableEq, Repr

/-- The state of the machine. -/
structure State where
  dev : Dev
  mgmt : Mgmt
  mem : Memory
  agenda : List Sched
deriving DecidableEq, Repr

/-- The device after reset: nothing is bound, placed, mapped or in flight (log 1). -/
def Dev.reset : Dev :=
  { now := 0, cycle := 0, freeCtr := 0, nextId := 1, focus := none, arg := {}, grids := [], fields := [], ctxs := [],
    threads := [], groups := [], insts := [], flight := [], retained := [], waits := [], copies := [], fwds := [],
    rels := [], spStores := [], handovers := [], arrWaits := [], pool := [], preqs := [], preqNext := 0, pcmds := [],
    pubs := [], tcaches := [], l2 := [], poison := [], verifs := [], wprot := [], gidNext := 1, ports := [],
    routes := [], cxl := [], remotes := [], colls := [], ptpOff := 0, slew := 0, dumpQ := [], dumping := none,
    reqTail := 0, heldReqs := [], notifyIdx := 0, images := [], life := {}, lifeStored := {}, spdm := [], seenTags := [],
    earlyCxl := 0, cxlReads := [], hostHeld := [], unlocks := [], io := false }

/-- The management registers after reset (23 R513, R518, 18 R479; the others: log 1). -/
def Mgmt.reset : Mgmt :=
  { stat := 0#10, failStep := 0, fatal := false, bstep := 0, thermThr := 95, lnkTmo := 200, domId := 0, domMembers := 1,
    ptpGm := 0#64, ptRoot := 0#64, ptHroot := 0#64, appendBase := 0#64, notifyBase := 0#64, notifyLen := 128,
    ksignSel := 0#64, reqBase := 0#64, reqLen := 128, reqHead := 0, cmdBase := 0#64, ilim := [], ilimNext := [],
    imeas := [], peak := [], fwVersion := [], fwMin := [], ideKeys := 0 }

/-- The machine right after reset: before power-on, with nothing in memory. -/
def State.reset : State := { dev := Dev.reset, mgmt := Mgmt.reset, mem := [], agenda := [] }

end Sys2Proof.Machine
end

