-- ==== Sys2Proof/Machine/Mem.lean ====
section
/-!
DEFINITION. Memory as one list of cells in canonical form, its key spaces, and the work area `W` in which a meaning runs: the
device, the management registers for reading, memory as it was, and the bytes written so far.
What an unlisted address reads as is `unlisted` (log 2).
-/

namespace Sys2Proof.Machine

/-- What a byte of memory that nothing has written reads as (log 2). -/
def unlisted : Byte := 0#8

/-- The byte at a key. -/
def Memory.read (m : Memory) (k : Nat) : Byte :=
  match m with
  | [] => unlisted
  | (a, b) :: r => if a = k then b else Memory.read r k

/-- The memory with one byte written, in canonical form: addresses strictly rising, no unlisted value listed. -/
def Memory.write (m : Memory) (k : Nat) (v : Byte) : Memory :=
  match m with
  | [] => if v = unlisted then [] else [(k, v)]
  | (a, b) :: r =>
    if k < a then (if v = unlisted then (a, b) :: r else (k, v) :: (a, b) :: r)
    else if k = a then (if v = unlisted then r else (k, v) :: r)
    else (a, b) :: Memory.write r k v

/-- Bytes written one after the other. -/
def Memory.writeAll (m : Memory) (cs : List Host.Cell) : Memory :=
  cs.foldl (fun acc c => acc.write c.1 c.2) m

/-- The canonical form. -/
def Memory.wf (m : Memory) : Bool :=
  match m with
  | [] => true
  | [(_, b)] => b != unlisted
  | (a, b) :: (a', b') :: r => b != unlisted && decide (a < a') && Memory.wf ((a', b') :: r)

/-! ### Key spaces: device frames lowest, then host memory, the scratchpads, the weight buffers, other packages. -/

/-- Key of a byte of a device frame (15 R410: 52-bit frame addresses). DESIGN CHOICE: a frame at or above the 768 GiB of HBM
(01 R13, `Config.hbmBytes`) keeps a byte too (log 94). -/
def frameKey (p : Nat) : Nat := p % 2 ^ 52
/-- Key of a byte of host physical memory (15 R409). -/
def hostKey (h : Nat) : Nat := 2 ^ 52 + h % 2 ^ 52
/-- Key of a byte of the scratchpad of a grid (08 R219-R220). -/
def spKey (g o : Nat) : Nat := 2 ^ 54 + g * 2 ^ 21 + o % 2 ^ 21
/-- Key of a byte of the weight buffer of a grid (07 R189). -/
def wbKey (g o : Nat) : Nat := 2 ^ 55 + g * 2 ^ 19 + o % 2 ^ 19
/-- Key of a byte of another package of the domain (08 R224), by its own address. -/
def remoteKey (a : Nat) : Nat := 2 ^ 60 + a % 2 ^ 57

/-- The work area of a meaning. -/
structure W where
  d : Dev
  g : Mgmt
  base : Memory
  /-- Bytes written, newest first. -/
  ov : List Host.Cell

/-- A byte as the meaning sees it: the newest written one, else the one before. -/
def ovRead (ov : List Host.Cell) (base : Memory) (k : Nat) : Byte :=
  match ov with
  | [] => base.read k
  | (a, b) :: r => if a = k then b else ovRead r base k

/-- The byte at a key of the work area. -/
def W.rd (w : W) (k : Nat) : Byte := ovRead w.ov w.base k

/-- Write a byte. -/
def W.wr (w : W) (k : Nat) (v : Byte) : W := { w with ov := (k, v) :: w.ov }

/-- Write bytes. -/
def W.wrs (w : W) (cs : List Host.Cell) : W := cs.foldl (fun acc c => acc.wr c.1 c.2) w

/-- The work area at the start of a step's meaning. -/
def State.toW (s : State) : W := { d := s.dev, g := s.mgmt, base := s.mem, ov := [] }

/-- Run a meaning that may read and write everything but the management registers. -/
def run (f : W → W) (s : State) : Host.Outcome State Fault Refusal :=
  let w := f s.toW
  .next { s with dev := w.d, mem := s.mem.writeAll w.ov.reverse }

/-- Run a meaning that changes the device alone. -/
def runD (f : Dev → Dev) (s : State) : Host.Outcome State Fault Refusal :=
  .next { s with dev := f s.dev }

/-- Run a meaning that reads memory and the management registers and changes the device alone. -/
def runR (f : W → Dev) (s : State) : Host.Outcome State Fault Refusal :=
  .next { s with dev := f s.toW }

/-- Run a meaning that changes the management registers and the device. -/
def runM (f : W → Mgmt × W) (s : State) : Host.Outcome State Fault Refusal :=
  let p := f s.toW
  .next { s with mgmt := p.1, dev := p.2.d, mem := s.mem.writeAll p.2.ov.reverse }

end Sys2Proof.Machine
end

