-- ==== Sys2Proof/Machine/Num.lean ====
section
/-!
DEFINITION. Number formats: exact values, decoding, and the one rounding of each format (03 R55-R66).
A finite nonzero value is a sign, a quotient of naturals and a power of two, so that every rule rounds once, exactly.
-/

namespace Sys2Proof.Machine

/-- An exact value: NaN with its class, infinity, zero with its sign, or (−1)^s · n / d · 2^e with n, d > 0. -/
inductive FVal where
  | nan (signalling : Bool)
  | inf (s : Bool)
  | zero (s : Bool)
  | num (s : Bool) (n : Nat) (d : Nat) (e : Int)
deriving DecidableEq, Repr

/-- Flags by bit number of the `flags` register (03 R60). -/
def fNV : BitVec 6 := 1#6
def fDZ : BitVec 6 := 2#6
def fOF : BitVec 6 := 4#6
def fUF : BitVec 6 := 8#6
def fNX : BitVec 6 := 16#6
def fSAT : BitVec 6 := 32#6

/-- Rounding modes (03 R58). -/
inductive Rm where
  | near | zero | up | down
deriving DecidableEq, Repr

/-- The mode of an RM field (03 R58). -/
def rmOf (r : BitVec 2) : Rm :=
  match r.toNat with
  | 0 => .near | 1 => .zero | 2 => .up | _ => .down

/-- Layout of a binary format: exponent bits, fraction bits (03 R55); the bias is 2^(exponent bits − 1) − 1. -/
structure Fmt2 where
  eb : Nat
  fb : Nat

/-- The layout of a float type code (03 R55). -/
def layout (ty : BitVec 4) : Fmt2 :=
  match ty.toNat with
  | 8 => ⟨5, 10⟩ | 9 => ⟨8, 7⟩ | 10 => ⟨8, 23⟩ | 11 => ⟨11, 52⟩ | 13 => ⟨4, 3⟩ | 14 => ⟨5, 2⟩ | _ => ⟨8, 23⟩

/-- Bias of a layout. -/
def Fmt2.bias (l : Fmt2) : Nat := 2 ^ (l.eb - 1) - 1
/-- Exponent of the smallest normal. -/
def Fmt2.emin (l : Fmt2) : Int := 1 - (l.bias : Int)
/-- Exponent of the largest finite value of an IEEE layout. -/
def Fmt2.emax (l : Fmt2) : Int := (l.bias : Int)
/-- Exponent of the lowest fraction bit of a subnormal. -/
def Fmt2.qmin (l : Fmt2) : Int := l.emin - (l.fb : Int)

/-- Length of the run of equal bits from bit 6 down of a 7-bit magnitude (03 R62). -/
def sd8Run (mag : Nat) (b : Bool) (fuel k : Nat) : Nat :=
  match fuel with
  | 0 => k
  | n + 1 => if k < 7 && Nat.testBit mag (6 - k) == b then sd8Run mag b n (k + 1) else k

/-- The magnitude of a code 1 to 127: m and e with value m · 2^e (03 R62). -/
def sd8Mag (mag : Nat) : Nat × Int :=
  let b := Nat.testBit mag 6
  let k := sd8Run mag b 6 1
  let regime : Int := if b then (k : Int) - 1 else -(k : Int)
  let nrem := 6 - k
  let x : Int := if 1 ≤ nrem && Nat.testBit mag (5 - k) then 1 else 0
  let nf := nrem - 1
  let f := mag % 2 ^ nf
  (2 ^ nf + f, 2 * regime + x - (nf : Int))

/-- DecodeSd8 (03 R62). -/
def decodeSd8 (c : Nat) : FVal :=
  if c = 0 then .zero false
  else if c = 0x80 then .nan false
  else
    let p := sd8Mag (c % 128)
    .num (decide (128 ≤ c)) p.1 1 p.2

/-- Decode an IEEE layout (03 R55-R56). -/
def decodeIeee (l : Fmt2) (c : Nat) : FVal :=
  let f := c % 2 ^ l.fb
  let e := c / 2 ^ l.fb % 2 ^ l.eb
  let s := c / 2 ^ (l.fb + l.eb) % 2 == 1
  if e = 2 ^ l.eb - 1 then (if f = 0 then .inf s else .nan (f / 2 ^ (l.fb - 1) == 0))
  else if e = 0 then (if f = 0 then .zero s else .num s f 1 l.qmin)
  else .num s (2 ^ l.fb + f) 1 (l.qmin + ((e : Int) - 1))

/-- Decode e4m3: no infinities, NaN only at 0x7F and 0xFF (03 R55). -/
def decodeE4m3 (c : Nat) : FVal :=
  if c % 128 = 127 then .nan false
  else
    let l : Fmt2 := ⟨4, 3⟩
    let f := c % 8
    let e := c / 8 % 16
    let s := c / 128 % 2 == 1
    if e = 0 then (if f = 0 then .zero s else .num s f 1 l.qmin)
    else .num s (8 + f) 1 (l.qmin + ((e : Int) - 1))

/-- The exact value of the bits of a lane of a float type (06 R157 Decode). -/
def decodeF (ty : BitVec 4) (c : Nat) : FVal :=
  match ty.toNat with
  | 12 => decodeSd8 c
  | 13 => decodeE4m3 c
  | _ => decodeIeee (layout ty) c

/-- A subnormal of the type: below its smallest normal; never in sd8 (03 R59, R64). -/
def isSubnormal (ty : BitVec 4) (c : Nat) : Bool :=
  if ty = 12#4 then false
  else
    let l := layout ty
    c / 2 ^ l.fb % 2 ^ l.eb == 0 && c % 2 ^ l.fb != 0

/-- A value with its sign cleared, set or taken. -/
def FVal.setSign (v : FVal) (s : Bool) : FVal :=
  match v with
  | .nan q => .nan q
  | .inf _ => .inf s
  | .zero _ => .zero s
  | .num _ n d e => .num s n d e

/-- The sign of a value; a NaN has none. -/
def FVal.sign (v : FVal) : Bool :=
  match v with
  | .nan _ => false
  | .inf s => s
  | .zero s => s
  | .num s _ _ _ => s

/-- Negation. -/
def FVal.neg (v : FVal) : FVal := v.setSign (!v.sign)
/-- A NaN. -/
def FVal.isNan (v : FVal) : Bool := match v with | .nan _ => true | _ => false
/-- A signalling NaN (03 R56). -/
def FVal.isSnan (v : FVal) : Bool := match v with | .nan q => q | _ => false
/-- A zero. -/
def FVal.isZero (v : FVal) : Bool := match v with | .zero _ => true | _ => false
/-- An infinity. -/
def FVal.isInf (v : FVal) : Bool := match v with | .inf _ => true | _ => false

/-- Times a power of two, exactly (03 R67): zeros, infinities and NaNs unchanged. -/
def FVal.scale (v : FVal) (k : Int) : FVal :=
  match v with
  | .num s n d e => .num s n d (e + k)
  | v => v

/-- Two to an integer, as a quotient. -/
def pow2 (k : Int) : Nat × Nat :=
  match k with
  | .ofNat n => (2 ^ n, 1)
  | .negSucc n => (1, 2 ^ (n + 1))

/-- Floor of log2 of n / d, for n, d > 0. -/
def log2Quot (n d : Nat) : Int :=
  let l : Int := (Nat.log2 n : Int) - (Nat.log2 d : Int)
  let p := pow2 l
  if n * p.2 < d * p.1 then l - 1 else l

/-- The exponent of a magnitude: floor of log2 of n / d · 2^e. -/
def magExp (n d : Nat) (e : Int) : Int := log2Quot n d + e

/-- A magnitude as a multiple of 2^q: quotient, remainder, divisor. -/
def quantise (n d : Nat) (e q : Int) : Nat × Nat × Nat :=
  let p := pow2 (e - q)
  let num := n * p.1
  let den := d * p.2
  (num / den, num % den, den)

/-- Round a quotient with remainder r of D in a mode, for a value of sign s (03 R58): "even" is a lowest bit 0. -/
def roundUnits (rm : Rm) (s : Bool) (m r den : Nat) : Nat :=
  let up : Bool :=
    match rm with
    | .near => decide (den < 2 * r) || (2 * r == den && m % 2 == 1)
    | .zero => false
    | .up => !s && r != 0
    | .down => s && r != 0
  if up then m + 1 else m

/-- A rounded lane: the code of the destination type, the overflow bit, the flags. -/
structure Rounded where
  code : Nat
  ov : Bool
  flags : BitVec 6
deriving DecidableEq, Repr

/-- Infinity or the largest finite value, as the mode decides on overflow (03 R65). -/
def overflowCode (l : Fmt2) (rm : Rm) (s : Bool) : Nat :=
  let inf := (2 ^ l.eb - 1) * 2 ^ l.fb
  let toInf : Bool :=
    match rm with
    | .near => true
    | .zero => false
    | .up => !s
    | .down => s
  (if s then 2 ^ (l.eb + l.fb) else 0) + (if toInf then inf else inf - 1)

/-- The sign bit of a layout. -/
def signCode (l : Fmt2) (s : Bool) : Nat := if s then 2 ^ (l.eb + l.fb) else 0

/-- Whether a magnitude, rounded to the precision with unbounded exponents, is below the smallest normal (03 R59). -/
def tinyAfter (l : Fmt2) (rm : Rm) (s : Bool) (n d : Nat) (e : Int) : Bool :=
  let ex := magExp n d e
  if ex < l.emin - 1 then true
  else if l.emin ≤ ex then false
  else
    let q := ex - (l.fb : Int)
    let t := quantise n d e q
    let m := roundUnits rm s t.1 t.2.1 t.2.2
    -- here ex = emin − 1: it is tiny unless the rounding carries to the next power of two
    decide (m < 2 ^ (l.fb + 1))

/-- RoundIeee of a finite nonzero magnitude (03 R58, R59, R65). -/
def roundNum (l : Fmt2) (rm : Rm) (fzo : Bool) (s : Bool) (n d : Nat) (e : Int) : Rounded :=
  let ex := magExp n d e
  if l.emax + 1 < ex then ⟨overflowCode l rm s, true, fOF ||| fNX⟩
  else
    let q := if ex < l.emin then l.qmin else ex - (l.fb : Int)
    let t : Nat × Nat × Nat := if ex < l.qmin - 2 then (0, 1, 4) else quantise n d e q
    let m := roundUnits rm s t.1 t.2.1 t.2.2
    let nx := t.2.1 != 0
    let tiny := tinyAfter l rm s n d e
    if tiny && fzo then ⟨signCode l s, false, fUF ||| fNX⟩
    else
      let code := (q - l.qmin).toNat * 2 ^ l.fb + m
      if (2 ^ l.eb - 1) * 2 ^ l.fb ≤ code then ⟨overflowCode l rm s, true, fOF ||| fNX⟩
      else ⟨signCode l s + code, false, (if nx then fNX else 0#6) ||| (if tiny && nx then fUF else 0#6)⟩

/-- The canonical NaN of a type (03 R55, R56). -/
def canonicalNan (ty : BitVec 4) : Nat :=
  match ty.toNat with
  | 8 => 0x7E00 | 9 => 0x7FC0 | 10 => 0x7FC00000 | 11 => 0x7FF8000000000000 | 12 => 0x80 | 13 => 0x7F | 14 => 0x7E
  | _ => 0x7FC00000

/-- RoundIeee (06 R157). -/
def roundIeee (ty : BitVec 4) (v : FVal) (rm : Rm) (fzo : Bool) : Rounded :=
  let l := layout ty
  match v with
  | .nan _ => ⟨canonicalNan ty, false, 0#6⟩
  | .inf s => ⟨signCode l s + (2 ^ l.eb - 1) * 2 ^ l.fb, false, 0#6⟩
  | .zero s => ⟨signCode l s, false, 0#6⟩
  | .num s n d e => roundNum l rm fzo s n d e

/-- A magnitude m · 2^k is at most n / d · 2^e. -/
def magLe (m : Nat) (k : Int) (n d : Nat) (e : Int) : Bool :=
  let p := pow2 (e - k)
  decide (m * d * p.2 ≤ n * p.1)

/-- The largest magnitude code at most a magnitude, found bit by bit: codes rise strictly in value (03 R62). -/
def sd8Floor (n d : Nat) (e : Int) (fuel acc : Nat) : Nat :=
  match fuel with
  | 0 => acc
  | k + 1 =>
    let c := acc + 2 ^ k
    let p := sd8Mag c
    sd8Floor n d e k (if magLe p.1 p.2 n d e then c else acc)

/-- RoundSd8 of a finite nonzero magnitude (03 R64). -/
def roundSd8Num (rm : Rm) (fzo : Bool) (s : Bool) (n d : Nat) (e : Int) : Rounded :=
  let sb := if s then 0x80 else 0
  let ex := magExp n d e
  if 12 < ex || (ex == 12 && !(quantise n d e 12).2.1 == 0) then
    ⟨sb + 0x7F, true, fOF ||| fNX ||| fSAT⟩
  else
    let tiny := decide (ex < -12)
    if tiny && fzo then ⟨0, false, fUF ||| fNX⟩
    else
      let lo := if ex < -20 then 0 else sd8Floor n d e 7 0
      let lom := if lo = 0 then (0, 0) else sd8Mag lo
      let exact := lo != 0 && (let p := pow2 (e - lom.2); lom.1 * d * p.2 == n * p.1)
      if exact then ⟨sb + lo, false, 0#6⟩
      else
        let hi := lo + 1
        let him := sd8Mag hi
        -- twice the value against the sum of the two neighbours, over the power 2^-24
        let a2 := if ex < -20 then (0, 1, 4) else quantise n d (e + 1) (-24)
        let lov := if lo = 0 then 0 else lom.1 * (pow2 (lom.2 + 24)).1
        let hiv := him.1 * (pow2 (him.2 + 24)).1
        let mid := lov + hiv
        let m : Nat :=
          match rm with
          | .near =>
            if mid < a2.1 || (mid == a2.1 && a2.2.1 != 0) then hi
            else if mid == a2.1 then (if hi % 2 = 0 then hi else lo)
            else lo
          | .zero => lo
          | .up => if s then lo else hi
          | .down => if s then hi else lo
        let fl := fNX ||| (if tiny then fUF else 0#6)
        if m = 0 then ⟨0, false, fl⟩ else ⟨sb + m, false, fl⟩

/-- RoundSd8 (03 R64, 06 R162): infinities saturate, no negative zero. -/
def roundSd8 (v : FVal) (rm : Rm) (fzo : Bool) : Rounded :=
  match v with
  | .nan _ => ⟨0x80, false, 0#6⟩
  | .inf s => ⟨(if s then 0x80 else 0) + 0x7F, true, fOF ||| fNX ||| fSAT⟩
  | .zero _ => ⟨0, false, 0#6⟩
  | .num s n d e => roundSd8Num rm fzo s n d e

/-- RoundE4m3 (03 R66): 448 is the largest value; overflow is tested on the value rounded with unbounded exponents. -/
def roundE4m3 (v : FVal) (rm : Rm) (fzo : Bool) : Rounded :=
  let l : Fmt2 := ⟨4, 3⟩
  match v with
  | .nan _ => ⟨0x7F, false, 0#6⟩
  | .inf s => ⟨signCode l s + 0x7E, true, fOF ||| fNX ||| fSAT⟩
  | .zero s => ⟨signCode l s, false, 0#6⟩
  | .num s n d e =>
    let ex := magExp n d e
    if 9 < ex then ⟨signCode l s + 0x7E, true, fOF ||| fNX ||| fSAT⟩
    else
      let q := if ex < l.emin then l.qmin else ex - (l.fb : Int)
      let t : Nat × Nat × Nat := if ex < l.qmin - 2 then (0, 1, 4) else quantise n d e q
      let m := roundUnits rm s t.1 t.2.1 t.2.2
      let nx := t.2.1 != 0
      let tiny := tinyAfter l rm s n d e
      if tiny && fzo then ⟨signCode l s, false, fUF ||| fNX⟩
      else
        let code := (q - l.qmin).toNat * 8 + m
        -- 448 has the code 0x7E
        if 0x7E < code then ⟨signCode l s + 0x7E, true, fOF ||| fNX ||| fSAT⟩
        else ⟨signCode l s + code, false, (if nx then fNX else 0#6) ||| (if tiny && nx then fUF else 0#6)⟩

/-- RoundTo (06 R157). -/
def roundTo (ty : BitVec 4) (v : FVal) (rm : Rm) (fzo : Bool) : Rounded :=
  match ty.toNat with
  | 12 => roundSd8 v rm fzo
  | 13 => roundE4m3 v rm fzo
  | _ => roundIeee ty v rm fzo

/-! ### Exact arithmetic -/

/-- A value with the flags its computation raises before rounding. -/
structure FRes where
  v : FVal
  fl : BitVec 6 := 0#6
deriving DecidableEq, Repr

/-- NV for a signalling NaN among the operands (03 R56). -/
def snanFlag (vs : List FVal) : BitVec 6 := if vs.any FVal.isSnan then fNV else 0#6

/-- Signed numerator of a value over a common power of two. -/
def signedInt (s : Bool) (n : Nat) : Int := if s then -(n : Int) else n

/-- Exact sum of two finite nonzero values; zero is reported as none. -/
def addNum (s1 : Bool) (n1 d1 : Nat) (e1 : Int) (s2 : Bool) (n2 d2 : Nat) (e2 : Int) : Option (Bool × Nat × Nat × Int) :=
  let e := if e1 ≤ e2 then e1 else e2
  let a := signedInt s1 (n1 * d2 * (pow2 (e1 - e)).1)
  let b := signedInt s2 (n2 * d1 * (pow2 (e2 - e)).1)
  let c := a + b
  if c = 0 then none else some (decide (c < 0), c.natAbs, d1 * d2, e)

/-- Exact addition with the IEEE rules for infinities and zeros (06 R161): an exact zero sum of unlike signs is +0 except
toward −∞. NaN operands give NaN; NV for ∞ − ∞ and for a signalling NaN. -/
def fAdd (rm : Rm) (x y : FVal) : FRes :=
  match x, y with
  | .nan _, _ => ⟨.nan false, snanFlag [x, y]⟩
  | _, .nan _ => ⟨.nan false, snanFlag [x, y]⟩
  | .inf s, .inf t => if s = t then ⟨.inf s, 0#6⟩ else ⟨.nan false, fNV⟩
  | .inf s, _ => ⟨.inf s, 0#6⟩
  | _, .inf t => ⟨.inf t, 0#6⟩
  | .zero s, .zero t => if s = t then ⟨.zero s, 0#6⟩ else ⟨.zero (rm == .down), 0#6⟩
  | .zero _, y => ⟨y, 0#6⟩
  | x, .zero _ => ⟨x, 0#6⟩
  | .num s1 n1 d1 e1, .num s2 n2 d2 e2 =>
    match addNum s1 n1 d1 e1 s2 n2 d2 e2 with
    | none => ⟨.zero (rm == .down), 0#6⟩
    | some (s, n, d, e) => ⟨.num s n d e, 0#6⟩

/-- Exact multiplication (03 R57): NV for ∞ × 0 and for a signalling NaN. -/
def fMul (x y : FVal) : FRes :=
  match x, y with
  | .nan _, _ => ⟨.nan false, snanFlag [x, y]⟩
  | _, .nan _ => ⟨.nan false, snanFlag [x, y]⟩
  | .inf _, .zero _ => ⟨.nan false, fNV⟩
  | .zero _, .inf _ => ⟨.nan false, fNV⟩
  | .inf s, y => ⟨.inf (s != y.sign), 0#6⟩
  | x, .inf t => ⟨.inf (x.sign != t), 0#6⟩
  | .zero s, y => ⟨.zero (s != y.sign), 0#6⟩
  | x, .zero t => ⟨.zero (x.sign != t), 0#6⟩
  | .num s1 n1 d1 e1, .num s2 n2 d2 e2 => ⟨.num (s1 != s2) (n1 * n2) (d1 * d2) (e1 + e2), 0#6⟩

/-- a × b + c, formed exactly (03 R57, 06 R163): ∞ × 0 is NaN with NV whatever c is. -/
def fFma (rm : Rm) (x y z : FVal) : FRes :=
  let p := fMul x y
  let s := fAdd rm p.v z
  ⟨s.v, p.fl ||| s.fl ||| snanFlag [z]⟩

/-- Division (06 R161): DZ for a finite nonzero value by zero, NV for 0/0 and ∞/∞. -/
def fDiv (x y : FVal) : FRes :=
  match x, y with
  | .nan _, _ => ⟨.nan false, snanFlag [x, y]⟩
  | _, .nan _ => ⟨.nan false, snanFlag [x, y]⟩
  | .inf _, .inf _ => ⟨.nan false, fNV⟩
  | .zero _, .zero _ => ⟨.nan false, fNV⟩
  | .inf s, y => ⟨.inf (s != y.sign), 0#6⟩
  | x, .inf t => ⟨.zero (x.sign != t), 0#6⟩
  | .zero s, y => ⟨.zero (s != y.sign), 0#6⟩
  | .num s _ _ _, .zero t => ⟨.inf (s != t), fDZ⟩
  | .num s1 n1 d1 e1, .num s2 n2 d2 e2 => ⟨.num (s1 != s2) (n1 * d2) (d1 * n2) (e1 - e2), 0#6⟩

/-- Integer square root, bit by bit from 2^k down. -/
def isqrtAux (x : Nat) (fuel acc : Nat) : Nat :=
  match fuel with
  | 0 => acc
  | k + 1 =>
    let c := acc + 2 ^ k
    isqrtAux x k (if c * c ≤ x then c else acc)

/-- The largest natural whose square is at most x. -/
def isqrt (x : Nat) : Nat := isqrtAux x (Nat.log2 x / 2 + 1) 0

/-- The square root (03 R57, 06 R161) as a value that every mode rounds as the exact root: 160 bits of it, and a lowest bit
set when it is inexact. NV below zero; −0 gives −0. -/
def fSqrt (x : FVal) : FRes :=
  match x with
  | .nan q => ⟨.nan false, if q then fNV else 0#6⟩
  | .inf s => if s then ⟨.nan false, fNV⟩ else ⟨.inf false, 0#6⟩
  | .zero s => ⟨.zero s, 0#6⟩
  | .num true _ _ _ => ⟨.nan false, fNV⟩
  | .num false n d e =>
    -- operands are dyadic: d is 1
    let odd := e % 2 ≠ 0
    let n' := if odd then 2 * n else n
    let e' := if odd then e - 1 else e
    let big := n' * 2 ^ 320 / d
    let r := isqrt big
    let sticky := if r * r = big then 0 else 1
    ⟨.num false (2 * r + sticky) 1 (e' / 2 - 161), 0#6⟩

/-- Comparison of two values that are no NaN: −1, 0 or 1; −0 equals +0. -/
def fCmp (x y : FVal) : Int :=
  match x, y with
  | .inf s, .inf t => if s = t then 0 else if s then -1 else 1
  | .inf s, _ => if s then -1 else 1
  | _, .inf t => if t then 1 else -1
  | .zero _, .zero _ => 0
  | .zero _, y => if y.sign then 1 else -1
  | x, .zero _ => if x.sign then -1 else 1
  | .num s1 n1 d1 e1, .num s2 n2 d2 e2 =>
    match addNum s1 n1 d1 e1 (!s2) n2 d2 e2 with
    | none => 0
    | some (s, _, _, _) => if s then -1 else 1
  | _, _ => 0

/-- IEEE minimum (03 R57): a NaN in either operand gives NaN, and −0 is below +0. -/
def fMin (x y : FVal) : FRes :=
  if x.isNan || y.isNan then ⟨.nan false, snanFlag [x, y]⟩
  else if x.isZero && y.isZero then ⟨.zero (x.sign || y.sign), 0#6⟩
  else if fCmp x y ≤ 0 then ⟨x, 0#6⟩ else ⟨y, 0#6⟩

/-- IEEE maximum (03 R57). -/
def fMax (x y : FVal) : FRes :=
  if x.isNan || y.isNan then ⟨.nan false, snanFlag [x, y]⟩
  else if x.isZero && y.isZero then ⟨.zero (x.sign && y.sign), 0#6⟩
  else if fCmp x y < 0 then ⟨y, 0#6⟩ else ⟨x, 0#6⟩

/-- Round a value to an integer in a mode: the integer, and whether it was inexact. -/
def roundInt (rm : Rm) (s : Bool) (n d : Nat) (e : Int) : Int × Bool :=
  let t : Nat × Nat × Nat := if magExp n d e < -3 then (0, 1, 4) else quantise n d e 0
  let m := roundUnits rm s t.1 t.2.1 t.2.2
  (signedInt s m, t.2.1 != 0)

end Sys2Proof.Machine
end

