-- ==== Sys2Proof/Machine/Ops.lean ====
section
/-!
DEFINITION. The operations every meaning is built on: access to the tables of the device, the fields of a block, what a block
expects, and the firing protocol of 04 R91 (operands, predicate, null tokens, tokens sent).
-/

namespace Sys2Proof.Machine

/-! ### Tables of the device -/

/-- A context; the default record is FREE (10 R287). -/
def Dev.ctx (d : Dev) (c : Nat) : Ctx := d.ctxs.get c {}
/-- A context replaced. -/
def Dev.setCtx (d : Dev) (c : Nat) (x : Ctx) : Dev := { d with ctxs := d.ctxs.set c x }
/-- A context changed. -/
def Dev.modCtx (d : Dev) (c : Nat) (f : Ctx → Ctx) : Dev := d.setCtx c (f (d.ctx c))
/-- A grid. -/
def Dev.grid (d : Dev) (g : Nat) : Grid := d.grids.get g {}
/-- A grid changed. -/
def Dev.modGrid (d : Dev) (g : Nat) (f : Grid → Grid) : Dev := { d with grids := d.grids.set g (f (d.grid g)) }
/-- A field. -/
def Dev.field (d : Dev) (k : Nat) : Field := d.fields.get k {}
/-- A field changed. -/
def Dev.modField (d : Dev) (k : Nat) (f : Field → Field) : Dev := { d with fields := d.fields.set k (f (d.field k)) }
/-- A thread. -/
def Dev.thr (d : Dev) (t : Nat) : Option Thread := d.threads.look t
/-- A thread replaced. -/
def Dev.setThr (d : Dev) (t : Nat) (x : Thread) : Dev := { d with threads := d.threads.set t x }
/-- A thread changed, if it exists. -/
def Dev.modThr (d : Dev) (t : Nat) (f : Thread → Thread) : Dev :=
  match d.thr t with
  | some x => d.setThr t (f x)
  | none => d
/-- An instance. -/
def Dev.inst (d : Dev) (iid : Nat) : Option Inst := d.insts.look iid
/-- An instance replaced. -/
def Dev.setInst (d : Dev) (iid : Nat) (x : Inst) : Dev := { d with insts := d.insts.set iid x }
/-- An instance changed, if it exists. -/
def Dev.modInst (d : Dev) (iid : Nat) (f : Inst → Inst) : Dev :=
  match d.inst iid with
  | some x => d.setInst iid (f x)
  | none => d
/-- The group of an identifier in a context. -/
def Dev.group (d : Dev) (c gid : Nat) : Option Group := d.groups.find? (fun g => g.ctx == c && g.gid == gid)
/-- A group changed. -/
def Dev.modGroup (d : Dev) (c gid : Nat) (f : Group → Group) : Dev :=
  { d with groups := d.groups.map (fun g => if g.ctx == c && g.gid == gid then f g else g) }
/-- The next free value (log 6), and the device that has used it. -/
def Dev.fresh (d : Dev) : Nat × Dev := (Config.freeNat d.freeCtr, { d with freeCtr := d.freeCtr + 1 })
/-- A number that no instance, thread or placement has had. -/
def Dev.newId (d : Dev) : Nat × Dev := (d.nextId, { d with nextId := d.nextId + 1 })

/-- The field a grid lies in (01 R9). -/
def fieldOf (g : Nat) : Nat := g / Config.gridsPerField
/-- Cycles since the PLL of a field locked (05 R140 `cycle`). -/
def Dev.cycles (d : Dev) (f : Nat) : Nat := d.cycle - (d.field f).lockAt
/-- The thread of an instance. -/
def Dev.thrOf (d : Dev) (x : Inst) : Option Thread := d.thr x.thr
/-- The context number of an instance's thread. -/
def Dev.ctxOf (d : Dev) (x : Inst) : Nat := match d.thr x.thr with | some t => t.ctx | none => 0
/-- The grids of a thread's logical core: consecutive from the first (02 R42). -/
def Thread.grids (t : Thread) : List Nat := (List.range t.width).map (fun k => t.first + k)
/-- Instances of a thread, oldest first. -/
def Dev.instsOf (d : Dev) (t : Nat) : List (Nat × Inst) :=
  (d.insts.filter (fun p => p.2.thr == t && !p.2.dying)).isort (fun a b => decide (a.2.seq ≤ b.2.seq))
/-- Uncommitted instances of its thread that are older than an instance. -/
def Dev.olderOf (d : Dev) (x : Inst) : List (Nat × Inst) :=
  d.insts.filter (fun p => p.2.thr == x.thr && !p.2.dying && decide (p.2.seq < x.seq))
/-- The oldest uncommitted instance of its thread (02 R27). -/
def Dev.isOldest (d : Dev) (x : Inst) : Bool := (d.olderOf x).isEmpty
/-- A grid under a single-grid or gang stop (19 R492-R493). -/
def Dev.stopped (d : Dev) (g : Nat) : Bool := (d.grid g).stopAt.isSome

/-! ### Words and records -/

/-- A token with one n64 value in every lane. -/
def splat64 (w : Word) : Vec := w ++ w ++ w ++ w ++ w ++ w ++ w ++ w
/-- Lane k of n64 lanes. -/
def vlane (v : Vec) (k : Nat) : Word := v.extractLsb' (64 * k) 64
/-- A vector from eight n64 lanes, lane 0 first; missing lanes are zero. -/
def vecOf (l : List Word) : Vec := l.foldr (fun w acc => (acc <<< 64) ||| w.setWidth 512) 0#512
/-- A predicate token with bits 0 to n − 1 as a number gives them. -/
def prTok (n m : Nat) : Vec := BitVec.ofNat 512 (m % 2 ^ n)
/-- Bit k of a number, as 0 or 1. -/
def bitNat (x k : Nat) : Nat := x / 2 ^ k % 2
/-- A number whose bits are given, bit 0 first. -/
def ofBits (l : List Bool) : Nat := l.foldr (fun b acc => (if b then 1 else 0) + 2 * acc) 0
/-- Bytes of a number, the lowest first. -/
def leBytes (n v : Nat) : List Byte := (List.range n).map (fun k => BitVec.ofNat 8 (v / 2 ^ (8 * k)))
/-- The number of bytes in little-endian order (00 R6). -/
def ofBytes (bs : List Byte) : Nat := bs.foldr (fun b acc => b.toNat + 256 * acc) 0

/-! ### Fields of a block (04 R80-R87) -/

/-- KIND of hdw0. -/
def Block.kind (b : Block) : Nat := bits b.hdw0 7 0
/-- A resident block (04 R82). -/
def Block.isResident (b : Block) : Bool := b.kind == 2
/-- CHUNKS + 1. -/
def Block.chunks (b : Block) : Nat := bits b.hdw0 10 8 + 1
/-- EXITS: the highest exit number. -/
def Block.exitMax (b : Block) : Nat := bits b.hdw0 13 11
/-- PLACED. -/
def Block.placed (b : Block) : Bool := bits b.hdw0 14 14 == 1
/-- NREAD. -/
def Block.nread (b : Block) : Nat := bits b.hdw0 23 16
/-- NWRITE. -/
def Block.nwrite (b : Block) : Nat := bits b.hdw0 31 24
/-- STORE_MASK. -/
def Block.storeMask (b : Block) : Nat := bits b.hdw0 63 32
/-- MAX_INSTANCES. -/
def Block.maxInst (b : Block) : Nat := bits b.hdw1 47 44
/-- TAG_FIELD. -/
def Block.tagField (b : Block) : Nat := bits b.hdw1 43 40
/-- RENAME_STRIDE. -/
def Block.renStride (b : Block) : Nat := bits b.hdw1 39 32
/-- RENAME_COUNT. -/
def Block.renCount (b : Block) : Nat := bits b.hdw1 31 24
/-- RENAME_BASE. -/
def Block.renBase (b : Block) : Nat := bits b.hdw1 23 16
/-- Register of a read entry (04 R85). -/
def readReg (e : BitVec 32) : Nat := bits e 30 24
/-- Targets of a read entry. -/
def readTgts (e : BitVec 32) : List Target := [e.extractLsb' 12 12, e.extractLsb' 0 12]
/-- Register of a write entry (04 R86). -/
def writeReg (e : BitVec 16) : Nat := bits e 6 0
/-- The instruction word of an index; an index beyond the body is an empty slot. -/
def Block.word (b : Block) (idx : Nat) : Word := b.words.getD idx 0#64
/-- The instruction of a slot; none for an empty slot. -/
def Block.instr (b : Block) (idx : Nat) : Option Instr := (decodeWord (b.word idx)).toOption
/-- The non-empty slots with their instructions, in index order. -/
def Block.slots (b : Block) : List (Nat × Instr) :=
  b.words.zipIdx.filterMap (fun p => if p.1 = 0#64 then none else (decodeWord p.1).toOption.map (fun i => (p.2, i)))
/-- Targets that the read entries name. -/
def Block.readTargets (b : Block) : List Target := (b.reads.take b.nread).flatMap readTgts
/-- Targets that the instructions name. -/
def Block.instrTargets (b : Block) : List Target := b.slots.flatMap (fun p => targets p.2)
/-- Instruction index of a target of kind 01 or 11. -/
def tgtIdx (t : Target) : Nat := bits t 9 3
/-- Operand of a target of kind 01 or 11. -/
def tgtOp (t : Target) : Nat := bits t 2 0
/-- Kind of a target (04 R89). -/
def tgtKind (t : Target) : Nat := bits t 11 10
/-- A target names an operand of an instruction. -/
def names (idx op : Nat) (t : Target) : Bool := (tgtKind t == 1 || tgtKind t == 3) && tgtIdx t == idx && tgtOp t == op
/-- An operand is expected when a target of the block names it (04 R91). -/
def Block.expects (b : Block) (idx op : Nat) : Bool :=
  b.readTargets.any (names idx op) || b.instrTargets.any (names idx op)
/-- A carried operand: the destination of a target of kind 11 (04 R90). -/
def Block.carried (b : Block) (idx op : Nat) : Bool :=
  b.instrTargets.any (fun t => tgtKind t == 3 && tgtIdx t == idx && tgtOp t == op)
/-- The register an entry of an instance names, after renaming by its iterating field's value (02 R48). -/
def Inst.renamed (x : Inst) (v : Nat) : Nat :=
  match x.code with
  | none => v
  | some b =>
    let n := b.renCount
    let lo := b.renBase
    if b.isResident && n != 0 && decide (lo ≤ v) && decide (v < lo + n) then lo + (v - lo + x.rot * b.renStride) % n else v

/-! ### Firing (04 R91) -/

/-- The tokens at the operands of a slot; none where an operand is not expected. -/
structure Opnds where
  a : Option Tok := none
  b : Option Tok := none
  c : Option Tok := none
  p : Option Tok := none
  f : Option Tok := none
deriving DecidableEq, Repr

/-- The value at an operand that was found to hold one. -/
def tokVal (t : Option Tok) : Vec := match t with | some (.val v) => v | _ => 0#512
def Opnds.va (o : Opnds) : Vec := tokVal o.a
def Opnds.vb (o : Opnds) : Vec := tokVal o.b
def Opnds.vc (o : Opnds) : Vec := tokVal o.c
/-- Lane 0 of `a` and of `b` as n64. -/
def Opnds.a0 (o : Opnds) : Word := vlane o.va 0
def Opnds.b0 (o : Opnds) : Word := vlane o.vb 0
def Opnds.c0 (o : Opnds) : Word := vlane o.vc 0
/-- A null stands at `a`, `b` or `c`. -/
def Opnds.anyNull (o : Opnds) : Bool := o.a == some .null || o.b == some .null || o.c == some .null
/-- Whether the predicate lets the instruction fire as an operation. -/
def Opnds.holds (o : Opnds) (pr : BitVec 2) : Bool :=
  if pr = 1#2 then (match o.p with | some (.val v) => v.getLsbD 0 | _ => false)
  else if pr = 2#2 then (match o.p with | some (.val v) => !v.getLsbD 0 | _ => false)
  else true

/-- The token that has arrived at an operand. -/
def Inst.operand (x : Inst) (idx op : Nat) : Option Tok :=
  (x.operands.find? (fun e => e.1 == idx && e.2.1 == op)).map (fun e => e.2.2)
/-- The token at an operand of a slot that holds every expected operand. -/
def Inst.opnds (x : Inst) (idx : Nat) : Opnds :=
  { a := x.operand idx 0, b := x.operand idx 1, c := x.operand idx 2, p := x.operand idx 3, f := x.operand idx 4 }
/-- Every expected operand of a slot holds a token. -/
def Inst.full (x : Inst) (b : Block) (idx : Nat) : Bool :=
  [0, 1, 2, 3, 4].all (fun op => !b.expects idx op || (x.operand idx op).isSome)

/-- An instruction that can fire now: its instance and index, and the tokens at its operands. -/
structure Firing where
  iid : Nat
  idx : Nat
  x : Inst
  code : Block
  ops : Opnds
deriving DecidableEq, Repr

/-- Loads in flight on a grid: those whose answer is still to come. Stores in flight: those of uncommitted instances (08 R232,
log 86). -/
def Dev.loadsOn (d : Dev) (g : Nat) : Nat :=
  (d.remotes.filter (fun r => match r.kind with
    | .access i _ => (match d.inst i with | some x => x.grid == g | none => false)
    | _ => false)).length
def Dev.storesOn (d : Dev) (g : Nat) : Nat :=
  ((d.insts.filter (fun p => p.2.grid == g)).map (fun p => (p.2.accs.filter (fun a => a.isStore)).length)).sum
/-- The load-store queue of a grid has a place for an instruction (08 R232); a load that waits for its answer keeps its own. -/
def Dev.queueRoom (d : Dev) (iid idx g : Nat) (i : Instr) : Bool :=
  match memClass i with
  | .load => decide (d.loadsOn g < Config.lsqEntries) || d.remotes.any (fun r => r.kind == .access iid idx)
  | .store => decide (d.storesOn g < Config.lsqEntries)
  | _ => true

/-- A slot of an instance that can fire: the instance is in FIRING or COMPLETE, the slot has not fired, its expected operands hold
tokens, and its grid is not stopped. -/
def Dev.awaits (d : Dev) (iid idx : Nat) : Option Firing :=
  match d.inst iid with
  | none => none
  | some x =>
    match x.code with
    | none => none
    | some b =>
      if (x.st == .firing || x.st == .complete) && !x.dying && !x.fired.contains idx && b.word idx != 0#64 && x.full b idx &&
          !d.stopped x.grid then
        some ⟨iid, idx, x, b, x.opnds idx⟩
      else none

/-- A slot that is ready to fire: it can, and a memory instruction finds a place in the load-store queue of its grid. -/
def Dev.ready (d : Dev) (iid idx : Nat) : Option Firing :=
  (d.awaits iid idx).filter (fun c => match c.code.instr idx with
    | some i => d.queueRoom iid idx c.x.grid i
    | none => true)

/-- The slot that the step fires, if it is ready (log 5). -/
def Dev.firing (d : Dev) : Option Firing :=
  match d.focus with
  | none => none
  | some (iid, idx) => d.ready iid idx

/-- Tokens sent: targets other than kind 00 (04 R89). -/
def sends (iid idx : Nat) (ts : List (Target × Tok)) : List Flight :=
  (ts.filter (fun p => tgtKind p.1 != 0)).map (fun p => { iid := iid, src := some idx, tgt := p.1, tok := p.2 })

/-- What a firing gives: tokens for its targets and flags. -/
structure Out where
  toks : List (Target × Tok) := []
  flags : BitVec 6 := 0#6
deriving DecidableEq, Repr

/-- One value to both targets. -/
def both (t0 t1 : Target) (v : Vec) (fl : BitVec 6 := 0#6) : Out := { toks := [(t0, .val v), (t1, .val v)], flags := fl }
/-- Null tokens to the targets of an instruction. -/
def nullsTo (i : Instr) : List (Target × Tok) := (targets i).map (fun t => (t, .null))

/-- A firing recorded: the slot has fired, its tokens are sent and its flags are raised in the instance. -/
def Dev.emit (d : Dev) (c : Firing) (o : Out) : Dev :=
  { d.setInst c.iid { c.x with fired := c.idx :: c.x.fired, flags := c.x.flags ||| o.flags } with
    flight := d.flight ++ sends c.iid c.idx o.toks }

/-- What the predicate and the null tokens leave of an operation (04 R91). -/
def outcome (i : Instr) (o : Opnds) (g : Opnds → Out) : Out :=
  if !o.holds (prOf i) then {}
  else if o.anyNull then { toks := nullsTo i }
  else g o

/-- An instruction that only computes: it fires, and sends what `g` gives. -/
def fire (i : Instr) (g : Opnds → Out) (d : Dev) : Dev :=
  match d.firing with
  | none => d
  | some c => d.emit c (outcome i c.ops g)

end Sys2Proof.Machine
end

