-- ==== Sys2Proof/Machine/Operands.lean ====
section
/-!
DEFINITION. Operand forms: lanes of a token (03 R54), immediates and lane indices (05 R121), float operands with the format
prefix (03 R67, 06 R157, R172).
-/

namespace Sys2Proof.Machine

/-- Lane k of width w, unsigned. -/
def lane (w : Nat) (v : Vec) (k : Nat) : Nat := v.toNat / 2 ^ (w * k) % 2 ^ w
/-- All lanes of width w. -/
def lanes (w : Nat) (v : Vec) : List Nat := (List.range (512 / w)).map (lane w v)
/-- A token from lanes of width w, lane 0 first; missing lanes are zero. -/
def ofLanes (w : Nat) (l : List Nat) : Vec := BitVec.ofNat 512 (l.foldr (fun x acc => x % 2 ^ w + 2 ^ w * acc) 0)
/-- A lane read as two's complement. -/
def sgn (w x : Nat) : Int := if 2 ^ (w - 1) ≤ x then (x : Int) - 2 ^ w else x
/-- A lane as a number of its type. -/
def num (ty : BitVec 4) (x : Nat) : Int := if signedTy ty then sgn (tyBits ty) x else x
/-- An integer modulo 2^w. -/
def wrap (w : Nat) (z : Int) : Nat := (z % (2 ^ w : Nat)).toNat
/-- Smallest and largest value of an integer type. -/
def tyMin (ty : BitVec 4) : Int := if signedTy ty then -(2 ^ (tyBits ty - 1) : Nat) else 0
def tyMax (ty : BitVec 4) : Int := if signedTy ty then (2 ^ (tyBits ty - 1) : Nat) - 1 else (2 ^ tyBits ty : Nat) - 1
/-- A value clamped to the range of a type. -/
def clamp (ty : BitVec 4) (z : Int) : Int := if z < tyMin ty then tyMin ty else if tyMax ty < z then tyMax ty else z

/-- Lane k of operand `b`, or the sign-extended immediate X[hi:lo] modulo 2^n (05 R121). -/
def bLane (f : FmtG) (hi lo : Nat) (b : Vec) (k : Nat) : Nat :=
  if immB f then wrap (tyBits f.ty) (sbits f.x hi lo) else lane (tyBits f.ty) b k
/-- A lane index: the immediate X[5:0], or lane 0 of an operand modulo the lane count (05 R138). -/
def laneIdx (f : FmtG) (v : Vec) : Nat :=
  if immB f then bits f.x 5 0 else lane (tyBits f.ty) v 0 % laneCount f.ty

/-! ### Float operands (06 R157) -/

/-- The format-and-scale token at `f`. -/
def Opnds.pre (o : Opnds) : Option (BitVec 4 × Int) :=
  match o.f with
  | some (.fmt t s) => some (t, s.toInt)
  | _ => none

/-- ReadF on the bits of an element. -/
def readBits (t : BitVec 4) (fzi : Bool) (scale : Int) (x : Nat) : FVal :=
  let v := decodeF t x
  let v := if fzi && isSubnormal t x then .zero v.sign else v
  if scale = 0 then v else v.scale scale

/-- ReadF (06 R157): element k, decoded in its own format, flushed by FZI, then scaled by the prefix. -/
def readF (ty : BitVec 4) (fzi : Bool) (pre : Option (BitVec 4 × Int)) (v : Vec) (k : Nat) : FVal :=
  match pre with
  | none => readBits ty fzi 0 (lane (tyBits ty) v k)
  | some (t, s) => readBits t fzi s (lane (tyBits t) v k)

end Sys2Proof.Machine
end

