-- ==== Sys2Proof/Machine/Flags.lean ====
section
/-!
DEFINITION. Flags: what a result lane raises (03 R56-R66), how lanes join (R61), and what a commit leaves in `flags`
(02 R28, 05 R144).
-/

namespace Sys2Proof.Machine

/-- The flags of all lanes, joined (03 R61). -/
def joinFlags (l : List (BitVec 6)) : BitVec 6 := l.foldl (· ||| ·) 0#6

/-- A lane computed exactly, then rounded once to its type: its flags are those of the computation and of the rounding. -/
def rounded (ty : BitVec 4) (rm : Rm) (fzo : Bool) (r : FRes) : Rounded :=
  let q := roundTo ty r.v rm fzo
  { q with flags := r.fl ||| q.flags }

/-- `flags` after a commit: `setsr flags` replaces bits 5 to 0, then the flags the instance raised are ORed in. -/
def commitFlags (old : Word) (written : Option Word) (raised : BitVec 6) : Word :=
  let base := match written with
    | some w => w &&& 0x3F#64
    | none => old
  base ||| raised.setWidth 64

end Sys2Proof.Machine
end

