-- ==== Sys2Proof/Machine/Page.lean ====
section
/-!
DEFINITION. Translation and rights: page-table walks (15 R409-R411), translation caches (08 R226, 15 R415), the PLB and the
rights table (08 R225, 15 R413), and the views of revisions (16 R438).
-/

namespace Sys2Proof.Machine

/-- Package number of a global address (08 R224). -/
def pkgOf (x : Nat) : Nat := x / 2 ^ 49 % 256
/-- An address of the local package. -/
def W.isLocal (w : W) (x : Nat) : Bool := pkgOf x == w.g.domId
/-- An address of the host window; the member numbered 0xFF has none (18 R481). -/
def W.isHost (w : W) (x : Nat) : Bool := pkgOf x == 0xFF && !w.isLocal x
/-- An address of another package. -/
def W.isRemote (w : W) (x : Nat) : Bool := !w.isLocal x && !w.isHost x
/-- A number that a member of the domain holds, or the host window (08 R224, 18 R481). -/
def W.inDomain (w : W) (x : Nat) : Bool := w.isHost x || w.isLocal x || decide (pkgOf x < w.g.domMembers)

/-- Bytes at consecutive keys. -/
def W.rds (w : W) (k n : Nat) : List Byte := (List.range n).map (fun i => w.rd (k + i))
/-- An n64 word at a key. -/
def W.rd64 (w : W) (k : Nat) : Nat := ofBytes (w.rds k 8)
/-- Cells of bytes at consecutive keys. -/
def cellsAt (k : Nat) (bs : List Byte) : List Host.Cell := bs.zipIdx.map (fun p => (k + p.2, p.1))
/-- Write an n64 word at a key. -/
def W.wr64 (w : W) (k v : Nat) : W := w.wrs (cellsAt k (leBytes 8 v))

/-! ### The tables (15 R409-R411) -/

/-- States of a page (15 R416) as STATE codes. -/
def stAbsent : Nat := 0
def stPresent : Nat := 1
def stLocked : Nat := 2
def stMigrating : Nat := 3
def stEvicting : Nat := 4
def stSplitting : Nat := 5
def stShadow : Nat := 6
def stRevised : Nat := 7

/-- A leaf that a walk reached: its level (1: 1 GiB, 2: 2 MiB, 3: 16 KiB), the key of its entry, its words and its region's
PDID. -/
structure Leaf where
  level : Nat
  key : Nat
  w0 : Nat
  w1 : Nat
  pdid : Nat
deriving DecidableEq, Repr

/-- STATE of an entry. -/
def entState (w0 : Nat) : Nat := w0 / 2 ^ 59 % 8
/-- A bit of an entry. -/
def entBit (w0 k : Nat) : Bool := w0 / 2 ^ k % 2 == 1
/-- ADDR of an entry: the frame or next table address, bits [51:11]. -/
def entAddr (w0 : Nat) : Nat := w0 / 2 ^ 11 % 2 ^ 41 * 2 ^ 11
/-- LOCKS of a leaf. -/
def entLocks (w0 : Nat) : Nat := w0 % 2 ^ 11
/-- BV and BACK of word 1 (15 R410). -/
def entBack (w1 : Nat) : Option Nat := if entBit w1 47 then some (w1 % 2 ^ 38 * 2 ^ 14) else none
/-- Size in bytes of a leaf of a level. -/
def levelSize (l : Nat) : Nat := if l = 1 then 2 ^ 30 else if l = 2 then 2 ^ 21 else 2 ^ 14
/-- Size of a leaf. -/
def Leaf.size (l : Leaf) : Nat := levelSize l.level
def Leaf.state (l : Leaf) : Nat := entState l.w0
/-- Frame address of the first byte of the page. -/
def Leaf.frame (l : Leaf) : Nat := entAddr l.w0
/-- PIN, or a hardware lock (15 R416). -/
def Leaf.locked (l : Leaf) : Bool := entBit l.w0 55 || entLocks l.w0 != 0

/-- What a walk finds (15 R411): a region without rights, an absent page of a region, or a leaf that is not ABSENT. An absent
page comes with the leaf entry, where there is one. -/
inductive Walk where
  | noRegion
  | absent (pdid : Nat) (leaf : Option Leaf)
  | leaf (l : Leaf)
deriving DecidableEq, Repr

/-- An entry that counts as V = 1 (15 R410, 16 R439): V set, reserved bits zero. The bits that the field maps call zero without
calling them reserved (PDID of an entry that holds none, ADDR below the page size) are not tested: DEDUCED (log 96). -/
def entValid (w0 w1 : Nat) : Bool :=
  entBit w0 63 && w0 / 2 ^ 52 % 8 == 0 &&
    (if entBit w0 62 && entState w0 == stRevised then w1 / 2 ^ 46 % 4 == 0 else w1 / 2 ^ 38 % 2 ^ 9 == 0)

/-- Index of a level: bits [48:39], [38:30], [29:21], [20:14]. -/
def levelIndex (x l : Nat) : Nat :=
  match l with
  | 0 => x / 2 ^ 39 % 1024
  | 1 => x / 2 ^ 30 % 512
  | 2 => x / 2 ^ 21 % 512
  | _ => x / 2 ^ 14 % 128

/-- The walk from a level on, with the PDID met so far. -/
def walkFrom (w : W) (x : Nat) (fuel l table : Nat) (pdid : Option Nat) : Walk :=
  match fuel with
  | 0 => .noRegion
  | n + 1 =>
    let key := frameKey (table + 16 * levelIndex x l)
    let w0 := w.rd64 key
    let w1 := w.rd64 (key + 8)
    let isLeaf := entBit w0 62
    let none' : Walk := match pdid with
      | some p => .absent p none
      | none => .noRegion
    if !entValid w0 w1 then none'
    else if isLeaf then
      if l = 0 then none'
      else
        let p := match pdid with
          | some p => p
          | none => w1 / 2 ^ 48 % 2 ^ 16
        let lf : Leaf := ⟨l, key, w0, w1, p⟩
        if entState w0 = stAbsent then .absent p (some lf) else .leaf lf
    else if l = 3 then none'
    else walkFrom w x n (l + 1) (entAddr w0) (if l = 2 then some (w1 / 2 ^ 48 % 2 ^ 16) else pdid)

/-- The walk of an address through the root that translates it (15 R409). -/
def W.walk (w : W) (x : Nat) : Walk :=
  walkFrom w x 4 0 (if w.isHost x then w.g.ptHroot.toNat else w.g.ptRoot.toNat) none

/-- The first byte of the page of a leaf. -/
def Leaf.base (l : Leaf) (x : Nat) : Nat := x / l.size * l.size

/-! ### Translation caches (08 R226, 15 R415) -/

/-- Home slice (08 R221). -/
def homeSlice (x : Nat) : Nat :=
  (x / 2 ^ 8 % 128) ^^^ (x / 2 ^ 15 % 128) ^^^ (x / 2 ^ 22 % 128) ^^^ (x / 2 ^ 29 % 128) ^^^ (x / 2 ^ 36 % 128) ^^^
    (x / 2 ^ 43 % 64)

/-- The unit whose cache translates an address: HBM controllers 0 to 15, the CXL ports 16 and 17 (log 12). Wolux port p is unit
18 + p: it serves the misses of other packages that arrive on it. -/
def tcUnit (x : Nat) : Nat := if pkgOf x == 0xFF then 16 + x / 2 ^ 8 % 2 else homeSlice x / 8
/-- Entries of a unit's cache. -/
def tcSize (u : Nat) : Nat := if u < 16 then Config.tcHbm else if u < 18 then Config.tcCxl else Config.tcWolux

/-- The entry of a unit's cache for an address: of two sizes the smaller. -/
def Dev.tcFindIn (d : Dev) (u x : Nat) : Option TcEnt :=
  (d.tcaches.filter (fun e => e.unit == u && decide (e.page ≤ x) && decide (x < e.page + e.size))).foldl
    (fun acc e => match acc with
      | none => some e
      | some b => if e.size < b.size then some e else some b) none
/-- The cached entry for an address in the cache of its own unit. -/
def Dev.tcFind (d : Dev) (x : Nat) : Option TcEnt := d.tcFindIn (tcUnit x) x

/-- A leaf entered in a unit's cache; the oldest entry goes when it is full. -/
def Dev.tcFillIn (d : Dev) (u x : Nat) (l : Leaf) : Dev :=
  let e : TcEnt := ⟨u, l.base x, l.size, l.frame, BitVec.ofNat 64 l.w0, BitVec.ofNat 64 l.w1⟩
  let mine := d.tcaches.filter (fun e => e.unit == u)
  let rest := if tcSize u ≤ mine.length then d.tcaches.erase (mine.headD e) else d.tcaches
  { d with tcaches := rest ++ [e] }

/-- What a translation gives: the key of a byte, an absent page, a page whose misses wait, or no rights. -/
inductive Tr where
  | ok (key : Nat) (w0 : Nat)
  | absent
  | waits
  | noRegion
deriving DecidableEq, Repr

/-! ### Views (16 R438) -/

/-- The frame that a revision sees for a page: of the first revision of its chain that owns one. -/
def viewFrame (revs : Tbl Revision) (fuel rnum page : Nat) : Option Nat :=
  match fuel with
  | 0 => none
  | n + 1 =>
    let r := revs.get rnum {}
    match r.owned.find? (fun p => p.1 == page) with
    | some p => some p.2
    | none => if r.base = 0 then none else viewFrame revs n r.base page

/-- A 16 KiB page of an address. -/
def pageOf (x : Nat) : Nat := x / 2 ^ 14 * 2 ^ 14

/-- Base and size of a region descriptor (16 R432). -/
def regionBase (v : Vec) : Nat := (vlane v 0).toNat
def regionSize (v : Vec) : Nat := (vlane v 1).toNat
/-- The declared region that holds an address. -/
def Ctx.regionOf (c : Ctx) (x : Nat) : Option (Nat × Region) :=
  c.regions.find? (fun p => p.2.declared && decide (regionBase p.2.desc ≤ x) &&
    decide (x < regionBase p.2.desc + regionSize p.2.desc))
/-- The RID that tags a line of an address for a revision (16 R440). -/
def Ctx.ridOf (c : Ctx) (rnum x : Nat) : Nat :=
  match c.regionOf x with
  | some _ => (c.revs.get rnum {}).rid
  | none => 0

/-- The key of a byte of the address space as a revision of a context sees it, by the tables and their caches. Another package
translates its own addresses (15 R409); they are always present here (log 13). -/
def W.mapped (w : W) (c rnum x : Nat) : Tr :=
  let off := fun (size : Nat) => x % size
  let keyOf := fun (frame size w0 : Nat) =>
    if w.isHost x then hostKey (frame + off size)
    else if entState w0 = stRevised then
      match viewFrame (w.d.ctx c).revs 1024 rnum (pageOf x) with
      | some f => frameKey (f + x % 2 ^ 14)
      | none => frameKey (frame + off size)
    else frameKey (frame + off size)
  if w.isRemote x then .ok (remoteKey x) 0
  else match w.d.tcFind x with
  | some e => .ok (keyOf e.frame e.size e.word0.toNat) e.word0.toNat
  | none =>
    match w.walk x with
    | .noRegion => .noRegion
    | .absent _ _ => .absent
    | .leaf l =>
      if l.state = stMigrating ∨ l.state = stEvicting then .waits else .ok (keyOf l.frame l.size l.w0) l.w0

/-- The fields that a stack, a Wolux port and a CXL port attach to (01 R11). -/
def stackField (h : Nat) : Nat := h / 2
def portField (p : Nat) : Nat := p / 6
def cxlField (p : Nat) : Nat := if p = 0 then 0 else 3
/-- A stitch bridge holds its traffic: a field that it joins was powered down after bring-up had released it (23 R515). Nothing is sent
before that release (log 93). -/
def Dev.bridgeHolds (d : Dev) (b : Nat × Nat) : Bool := (d.field b.1).cut || (d.field b.2).cut
/-- What is sent to a line's home waits: every bridge to its field holds (23 R515). -/
def W.cutOff (w : W) (x : Nat) : Bool :=
  let f := stackField (homeSlice x / 8)
  w.isLocal x && (w.d.field f).cut

/-- The translation of an access that is sent to its home: while the bridges to it hold their traffic it waits. -/
def W.translate (w : W) (c rnum x : Nat) : Tr := if w.cutOff x then .waits else w.mapped c rnum x

/-- The cache of a unit after it translated an address. -/
def W.touchIn (w : W) (u x : Nat) : W :=
  if w.isRemote x then w
  else match w.d.tcFindIn u x with
  | some _ => w
  | none =>
    match w.walk x with
    | .leaf l => if l.state = stMigrating ∨ l.state = stEvicting then w else { w with d := w.d.tcFillIn u x l }
    | _ => w
/-- The translation cache after an address was translated. -/
def W.touch (w : W) (x : Nat) : W := w.touchIn (tcUnit x) x

/-! ### Rights (08 R225, 15 R413) -/

/-- Rights as bits: R 1, W 2, X 4. -/
def rR : BitVec 3 := 1#3
def rW : BitVec 3 := 2#3
def rX : BitVec 3 := 4#3

/-- A 2 MiB region of an address. -/
def regionNo (x : Nat) : Nat := x / 2 ^ 21

/-- The PDID of the region of an address, if a walk reaches one; that of another package is read from its tables (18 R483,
log 13). -/
def W.pdid (w : W) (x : Nat) : Option Nat :=
  if w.isRemote x then some (Config.remotePdid (regionNo x) % 2 ^ 16)
  else match w.walk x with
  | .noRegion => none
  | .absent p _ => some p
  | .leaf l => some l.pdid

/-- The key of a byte of the rights table of a context, whose pages carry PIN (15 R413). -/
def W.rightsKey (w : W) (c pd : Nat) : Option Nat :=
  match w.mapped c 0 (((w.d.ctx c).cfg.getD 6 0#64).toNat + pd) with
  | .ok k _ => some k
  | _ => none

/-- The rights of a context on a PDID (15 R413). -/
def W.rightsOn (w : W) (c pd : Nat) : BitVec 3 :=
  match w.rightsKey c pd with
  | some k => (w.rd k).setWidth 3
  | none => 0#3

/-- The rights a grid's PLB gives on an address, filled on a miss (08 R225). A region without a PDID has none. -/
def W.rights (w : W) (g c x : Nat) : BitVec 3 × W :=
  match (w.d.grid g).plb.find? (fun e => e.region == regionNo x) with
  | some e => (e.rights, w)
  | none =>
    match w.pdid x with
    | none => (0#3, w)
    | some pd =>
      let r := w.rightsOn c pd
      let e : PlbEnt := ⟨regionNo x, pd, r⟩
      (r, { w with d := w.d.modGrid g (fun gr => { gr with plb := (gr.plb ++ [e]).drop (gr.plb.length + 1 - Config.plbEntries) }) })

/-- A code object that a kernel write-protects lies in a range (11 R324). -/
def Dev.wprotected (d : Dev) (a n : Nat) : Bool :=
  d.wprot.any (fun r => decide (a < r.2.2.1 + r.2.2.2) && decide (r.2.2.1 < a + n))

/-- A set of rights holds those required. -/
def hasRights (r need : BitVec 3) : Bool := r &&& need == need

/-- Rights on every page of a range (08 R237, R255, 15 R431), region by region. -/
def W.rightsAll (w : W) (g c need base len : Nat) : Bool × W :=
  let n := if len = 0 then 0 else (base + len - 1) / 2 ^ 21 - base / 2 ^ 21 + 1
  (List.range n).foldl (fun acc k =>
    let r := acc.2.rights g c ((base / 2 ^ 21 + k) * 2 ^ 21)
    (acc.1 && hasRights r.1 (BitVec.ofNat 3 need), r.2)) (true, w)

end Sys2Proof.Machine
end

