-- ==== Sys2Proof/Machine/RevMap.lean ====
section
/-!
DEFINITION. Leaves of the page tables read and written, the free frames of the pool, and the revision map of a page in memory
(16 R439-R441): records of seven entries, chained, in frames that the forks of a context have reserved. The records follow the
frames that the revisions own (log 31).
-/

namespace Sys2Proof.Machine

/-! ### Leaves (15 R410) -/

/-- The leaf that a walk of an address reaches, ABSENT ones included. -/
def W.leafAt (w : W) (x : Nat) : Option Leaf :=
  match w.walk x with
  | .leaf l => some l
  | .absent _ l => l
  | .noRegion => none

/-- A leaf's words written to its table; cached copies of the entry take the new words. -/
def W.setLeaf (w : W) (x : Nat) (l : Leaf) (w0 w1 : Nat) : W :=
  let w := (w.wr64 l.key w0).wr64 (l.key + 8) w1
  let hit := fun (e : TcEnt) => e.page == l.base x && e.size == l.size
  { w with d := { w.d with tcaches := w.d.tcaches.map (fun e =>
      if hit e then { e with frame := entAddr w0, word0 := BitVec.ofNat 64 w0, word1 := BitVec.ofNat 64 w1 } else e) } }

/-! ### The frame pool (15 R419) -/

/-- Frames that an uncommitted instruction has taken (R255, 16 R441). -/
def effFrames (e : Eff) : List Nat :=
  match e with
  | .ashadow _ _ _ fs => fs
  | .fork _ _ _ _ fs _ _ => fs
  | _ => []
/-- The effects of every uncommitted instance, with the number of the instance. -/
def Dev.allEffs (d : Dev) : List (Nat × Eff) := d.insts.flatMap (fun p => p.2.effs.map (fun e => (p.1, e.2.2)))
/-- Frames of the pool that nothing has reserved. -/
def Dev.poolFree (d : Dev) : List Nat :=
  let taken := d.allEffs.flatMap (fun e => effFrames e.2)
  d.pool.filter (fun f => !taken.contains f)

/-! ### Revision-map records (16 R439) -/

/-- Entries of a page: each revision that owns a frame for it, and the frame. -/
def Ctx.mapEntries (k : Ctx) (page : Nat) : List (Nat × Nat) :=
  k.revs.filterMap (fun p => (p.2.owned.find? (fun q => q.1 == page)).map (fun q => (p.1, q.2)))
/-- An entry as a word: V, RNUM, frame address bits [51:14]. -/
def mapEntry (e : Nat × Nat) : Nat := 2 ^ 63 + e.1 % 2 ^ 10 * 2 ^ 48 + e.2 / 2 ^ 14 % 2 ^ 38
/-- The words of a chain of records: seven entries each, then the address of the next record. -/
def mapWords : List Nat → List (Nat × Nat) → List (Nat × Nat)
  | [], _ => []
  | a :: r, es =>
    (List.range 7).map (fun j => (a + 8 * j, match es[j]? with | some e => mapEntry e | none => 0)) ++
      (a + 56, r.headD 0) :: mapWords r (es.drop 7)
/-- A record of the map frames that no page uses. -/
def Ctx.freeRecord (k : Ctx) : Option Nat :=
  let used := k.mapRecs.flatMap Prod.snd
  (k.mapFrames.flatMap (fun f => (List.range 256).map (fun i => f + 64 * i))).find? (fun a => !used.contains a)
/-- Records added to the chain of a page, as many as are free. -/
def Ctx.growMap (k : Ctx) (page : Nat) : Nat → Ctx
  | 0 => k
  | n + 1 =>
    match k.freeRecord with
    | some a => Ctx.growMap { k with mapRecs := k.mapRecs.set page (k.mapRecs.get page [] ++ [a]) } page n
    | none => k
/-- The map of a page written, and MAP of its leaf, which is zero while no revision owns a frame for it. With `more`, a frame of the
pool is taken when the frames reserved hold no free record (log 31). -/
def W.writeMap (w : W) (c page : Nat) (more : Bool) : W :=
  let k := w.d.ctx c
  let es := k.mapEntries page
  let need := (es.length + 6) / 7
  let kept := (k.mapRecs.get page []).take need
  let k := { k with mapRecs := if kept.isEmpty then k.mapRecs.erase page else k.mapRecs.set page kept }
  let short := more && decide (kept.length < need) && k.freeRecord.isNone
  let r := match (if short = true then w.d.poolFree.head? else none) with
    | some f => ({ k with mapFrames := k.mapFrames ++ [f] }, { w.d with pool := w.d.pool.erase f })
    | none => (k, w.d)
  let k := r.1.growMap page (need - kept.length)
  let chain := k.mapRecs.get page []
  let w := (mapWords chain es).foldl (fun (w : W) p => w.wr64 (frameKey p.1) p.2) { w with d := r.2.setCtx c k }
  match w.leafAt page with
  | some l => if l.state = stRevised then w.setLeaf page l l.w0 (l.w1 / 2 ^ 48 * 2 ^ 48 + chain.headD 0 / 64 % 2 ^ 46) else w
  | none => w
/-- The maps of pages written again. -/
def W.writeMaps (w : W) (c : Nat) (pages : List Nat) : W := pages.foldl (fun (w : W) p => w.writeMap c p false) w

end Sys2Proof.Machine
end

