-- ==== Sys2Proof/Machine/Cache.lean ====
section
/-!
DEFINITION. The levels of storage: the home points with the lines the L2 holds of other packages and of the host (08 R219,
09 R261-R263), the L1 of a grid with byte masks (08 R219), copy-on-write (16 R440), write-back, and releases and acquires
(09 R268-R269). Lines of local HBM are kept at their frames (log 8).
-/

namespace Sys2Proof.Machine

/-! ### Lines -/

/-- The 32-byte line of an address. -/
def lineOf (x : Nat) : Nat := x / 32
/-- Byte i of a line's data. -/
def lineByte (v : BitVec 256) (i : Nat) : Byte := v.extractLsb' (8 * i) 8
/-- The data of a line. -/
def packLine (bs : List Byte) : BitVec 256 := BitVec.ofNat 256 (ofBytes bs)
/-- Data with the bytes of a mask taken from other bytes. -/
def mergeLine (mask : BitVec 32) (new old : List Byte) : List Byte :=
  (List.range 32).map (fun i => if mask.getLsbD i then new.getD i 0#8 else old.getD i 0#8)
/-- The bytes of a line's data. -/
def lineBytes (v : BitVec 256) : List Byte := (List.range 32).map (lineByte v)
/-- All bytes of a line. -/
def allMask : BitVec 32 := 0xFFFFFFFF#32
/-- The cells of the bytes of a mask, by address. -/
def maskCells (line : Nat) (mask : BitVec 32) (v : BitVec 256) : List Host.Cell :=
  ((List.range 32).filter (fun i => mask.getLsbD i)).map (fun i => (32 * line + i, lineByte v i))
/-- The cells of a list that lie in a line. -/
def cellsIn (line : Nat) (cs : List Host.Cell) : List Host.Cell := cs.filter (fun c => lineOf c.1 == line)
/-- The lines that cells touch, each once, in order. -/
def linesOf (cs : List Host.Cell) : List Nat := (cs.map (fun c => lineOf c.1)).eraseDups
/-- The mask of cells of one line. -/
def cellMask (cs : List Host.Cell) : BitVec 32 := cs.foldl (fun m c => m ||| (1#32 <<< (c.1 % 32))) 0#32
/-- The value that cells give a byte, the last one winning. -/
def cellAt (cs : List Host.Cell) (x : Nat) : Option Byte := (cs.reverse.find? (fun c => c.1 == x)).map (fun c => c.2)

/-! ### Reachability (18 R474, R480, R482) -/

/-- Ports of the route entry toward a package. -/
def Dev.routeTo (d : Dev) (pkg : Nat) : List Nat := d.routes.get pkg []
/-- A port in a state. -/
def Dev.portIn (d : Dev) (ss : List PState) (p : Nat) : Bool := ss.contains (d.ports.get p {}).st
/-- How a request to an address fares: it is served, ends at once with LINK_LOST, or stays unanswered. -/
inductive Reach where
  | served | lost | unanswered
deriving DecidableEq, Repr
/-- Reachability of the home of an address. -/
def W.reach (w : W) (x : Nat) : Reach :=
  if w.isLocal x then .served
  else if w.isHost x then (if (w.d.cxl.get (x / 2 ^ 8 % 2) {}).up then .served else .lost)
  else
    let r := w.d.routeTo (pkgOf x)
    if r.any (w.d.portIn [.up, .degraded]) then .served
    else if !r.isEmpty && r.all (w.d.portIn [.isolated]) then .lost
    else .unanswered

/-! ### Home points -/

/-- What a read at a point of coherence gives. -/
inductive Rd (α : Type) where
  | ok (v : α)
  | absent
  | waits
  | ecc
  | lost
  | noRegion
deriving Repr

/-- Keys that may hold a byte other than the unlisted one, in a range. -/
def W.listed (w : W) (k n : Nat) : List Nat :=
  let inR := fun (c : Host.Cell) => decide (k ≤ c.1) && decide (c.1 < k + n)
  ((w.base.filter inR).map Prod.fst ++ (w.ov.filter inR).map Prod.fst).eraseDups

/-- n bytes copied from one key to another, as they stood before. -/
def W.copyKeys (w : W) (src dst n : Nat) : W :=
  let z := (w.listed dst n).map (fun k => ((k, unlisted) : Host.Cell))
  let v := (w.listed src n).map (fun k => ((k - src + dst, w.rd k) : Host.Cell))
  w.wrs (z ++ v)

/-- A frame zeroed. -/
def W.zeroKeys (w : W) (k n : Nat) : W := w.wrs ((w.listed k n).map (fun a => (a, unlisted)))

/-- The frame a write of a revision takes for its copy: from its newest datum's reserve for a parent, else from its own
(16 R441). -/
def takeReserve (revs : Tbl Revision) (rnum : Nat) : Option (Nat × Tbl Revision) :=
  let r := revs.get rnum {}
  let b := revs.get r.base {}
  match (if r.base != 0 && b.parent == rnum then b.reserve else []) with
  | f :: rest => some (f, revs.set r.base { b with reserve := rest })
  | [] =>
    match r.reserve with
    | f :: rest => some (f, revs.set rnum { r with reserve := rest })
    | [] => none

/-- Copy-on-write (16 R440): before a write of a revision reaches the frame of a REVISED page it does not own, the page is
copied into a reserved frame that it owns from then on, and an entry is added to the page's map. -/
def W.cow (w : W) (c rnum x : Nat) : W :=
  if w.isLocal x then
    match w.translate c rnum x with
    | .ok key w0 =>
      if entState w0 = stRevised then
        let revs := (w.d.ctx c).revs
        let page := pageOf x
        if ((revs.get rnum {}).owned.find? (fun p => p.1 == page)).isSome then w
        else
          match takeReserve revs rnum with
          | none => w
          | some (f, revs) =>
            let r := revs.get rnum {}
            let w := w.copyKeys (key - x % 2 ^ 14) (frameKey f) (2 ^ 14)
            W.writeMap { w with d := w.d.modCtx c (fun k => { k with revs := revs.set rnum { r with owned := (page, f) :: r.owned } }) } c page true
      else w
    | _ => w
  else w

/-- The L2 sector of a line and RID; those of another package or of the host have RID 0, as regions are local (16 R432). -/
def Dev.l2Find (d : Dev) (line : Nat) (rid : Nat := 0) : Option L2Line := d.l2.find? (fun l => l.line == line && l.rid == rid)
/-- An L2 sector replaced. -/
def Dev.l2Set (d : Dev) (l : L2Line) : Dev :=
  { d with l2 := l :: d.l2.filter (fun m => !(m.line == l.line && m.rid == l.rid)) }

/-- A back-invalidate snoop is outstanding on a line, so that the home serves no access to it (18 R476). -/
def Dev.snooping (d : Dev) (line : Nat) : Bool :=
  d.remotes.any (fun r => match r.kind with | .snoop l _ => l == line | _ => false)

/-- The key that a write-back of a byte reaches. While its page migrates or is evicted the write-back waits at translation
(15 R425), and a bridge may hold it (23 R515); the frame is copied, and a read is served, only at the end of that wait, so that
the byte may as well be written before it. -/
def W.writeKey (w : W) (c rnum x : Nat) : Option Nat :=
  match w.mapped c rnum x with
  | .ok key _ => some key
  | .waits =>
    match w.walk x with
    | .leaf l => some (if w.isHost x then hostKey (l.frame + x % l.size) else frameKey (l.frame + x % l.size))
    | _ => none
  | _ => none

/-- Bytes performed at the home of a local line, or of another package or the host: the last point of coherence. -/
def W.homeWrite (w : W) (c rnum : Nat) (cs : List Host.Cell) : W :=
  match cs with
  | [] => w
  | (x, b) :: r =>
    let w := w.cow c rnum x
    let w := match w.writeKey c rnum x with
      | some key => w.wr key b
      | none => w
    W.homeWrite w c rnum r

/-- The reverse-translation filter of a CXL port: the 256-byte lines of the host window that the L2 holds (18 R475). -/
def W.filterLines (w : W) (port : Nat) : List Nat :=
  ((w.d.l2.map (fun l => l.line / 8)).filter (fun q => w.isHost (256 * q) && q % 2 == port)).eraseDups
/-! ### The sets of the L2 (08 R219, R222) -/

/-- Slice and set of a 256-byte line. DESIGN CHOICE: the bits above the 128 slices number the 1,024 sets (log 82). -/
def l2Place (q : Nat) : Nat × Nat := (homeSlice (256 * q), q / 128 % Config.l2Sets)
/-- The ways in use of a set: 256-byte line, RID, and the context that allocated it. -/
def Dev.l2Held (d : Dev) (p : Nat × Nat) : List (Nat × Nat × Nat) :=
  ((d.l2.filter (fun l => l2Place (l.line / 8) == p)).map (fun l => (l.line / 8, l.rid, l.ctx))).eraseDups
/-- Ways of a set that contexts may use: one is log staging while any context of the package logs (19 R496). -/
def Dev.l2Open (d : Dev) : Nat := if d.ctxs.any (fun c => c.2.undoEn && c.2.log.configured) then Config.l2Ways - 1 else Config.l2Ways
/-- Way quota of a context's bind record (13 R368), less the way of the log staging; without a record it may use every way. A quota
is never below one way (log 82). -/
def Dev.l2Quota (d : Dev) (c : Nat) : Nat :=
  match (d.ctx c).plat with
  | some p => max 1 (bits p.bctl 20 16 - (Config.l2Ways - d.l2Open))
  | none => d.l2Open
/-- The sectors of a 256-byte line. -/
def Dev.l2Sectors (d : Dev) (q rid : Nat) : List L2Line := d.l2.filter (fun l => l.line / 8 == q && l.rid == rid)
/-- The ways of which one has to go before a context allocates a line: its own once it holds its quota in the set, any when
the set is full; none while there is room, or while the line is there. -/
def Dev.l2Crowd (d : Dev) (c q rid : Nat) : List (Nat × Nat × Nat) :=
  if !(d.l2Sectors q rid).isEmpty then []
  else
    let held := d.l2Held (l2Place q)
    let mine := held.filter (fun y => y.2.2 == c)
    if d.l2Quota c ≤ mine.length then mine else if d.l2Open ≤ held.length then held else []
/-- A line dropped. -/
def Dev.l2Drop (d : Dev) (q rid : Nat) : Dev := { d with l2 := d.l2.filter (fun l => !(l.line / 8 == q && l.rid == rid)) }
/-- The context that a sector of a line is allocated to: the one that allocated the line. -/
def Dev.l2Owner (d : Dev) (c q rid : Nat) : Nat := match d.l2Sectors q rid with | l :: _ => l.ctx | [] => c
/-- A sector that a read brings in. Room is made by a clean line, chosen freely; where every line that may go is dirty the sector
is not kept (log 82). -/
def Dev.l2Fill (d : Dev) (c : Nat) (l : L2Line) : Dev :=
  let q := l.line / 8
  let l := { l with ctx := d.l2Owner c q l.rid }
  match d.l2Crowd c q l.rid with
  | [] => d.l2Set l
  | crowd =>
    match crowd.filter (fun y => (d.l2Sectors y.1 y.2.1).all (fun m => m.dirty == 0#32)) with
    | [] => d
    | v :: vs =>
      let f := d.fresh
      let y := (v :: vs).getD (f.1 % (vs.length + 1)) v
      (f.2.l2Drop y.1 y.2.1).l2Set l

/-- A 256-byte line of the host window written back, L1 bytes after those of the L2, and invalidated everywhere (R475). -/
def W.dropHost (w : W) (line : Nat) : W :=
  let at2 := w.d.l2.filter (fun l => l.line / 8 == line)
  let w := at2.foldl (fun w l => w.homeWrite 0 0 (maskCells l.line l.dirty l.data)) w
  let at1 := w.d.grids.flatMap (fun g => g.2.l1.filter (fun l => l.line / 8 == line))
  let w := at1.foldl (fun w l => w.homeWrite 0 0 (maskCells l.line l.owned l.data)) w
  { w with d := { w.d with
      l2 := w.d.l2.filter (fun l => l.line / 8 != line),
      grids := w.d.grids.map (fun g => (g.1, { g.2 with l1 := g.2.l1.filter (fun l => l.line / 8 != line) })) } }
/-- Room in the filter for a line that the L2 is about to take: a full filter gives up an entry chosen freely (R475). -/
def W.filterRoom (w : W) (line : Nat) : W :=
  if !w.isHost (32 * line) || w.reach (32 * line) != .served then w
  else
    let held := w.filterLines (line / 8 % 2)
    if held.contains (line / 8) || decide (held.length < Config.filterEntries) then w
    else
      let owned := fun (q : Nat) => w.d.grids.any (fun g => g.2.l1.any (fun l => l.line / 8 == q && l.owned != 0#32))
      let free := held.filter (fun q => !owned q)
      let from_ := if free.isEmpty then held else free
      let f := w.d.fresh
      match from_[f.1 % from_.length]? with
      | some v => W.dropHost { w with d := f.2 } v
      | none => w

/-- A local line that an access finds or allocates in the L2 (08 R226): translation happens on a miss only. -/
def W.l2Use (w : W) (c rid line : Nat) : W :=
  match w.d.l2Find line rid with
  | some _ => w
  | none =>
    let w := w.touch (32 * line)
    { w with d := w.d.l2Fill c ⟨line, rid, c, allMask, 0#32, 0#256⟩ }

/-- Room for a line of another package or of the host that a write allocates (08 R222): a line chosen freely leaves, its dirty
bytes written to their home; one whose home is not reachable stays (log 82). -/
def W.l2Room (w : W) (c line : Nat) : W :=
  let q := line / 8
  let free := fun (y : Nat × Nat × Nat) => (w.d.l2Sectors y.1 y.2.1).all (fun m =>
    m.dirty == 0#32 || (w.reach (32 * m.line) == .served && !w.d.snooping m.line))
  match (w.d.l2Crowd c q 0).filter free with
  | [] => w
  | v :: vs =>
    let f := w.d.fresh
    let y := (v :: vs).getD (f.1 % (vs.length + 1)) v
    let w := (f.2.l2Sectors y.1 y.2.1).foldl (fun (w : W) m => w.homeWrite m.ctx 0 (maskCells m.line m.dirty m.data)) { w with d := f.2 }
    { w with d := w.d.l2Drop y.1 y.2.1 }

/-- A line of a page that migrates or is evicted: what the L2 holds of it is served without a translation (15 R415); a miss waits. -/
def W.heldLine (w : W) (c rnum line : Nat) : Rd (List Byte) :=
  let x := 32 * line
  if w.cutOff x then .waits
  else
    match w.d.l2Find line ((w.d.ctx c).ridOf rnum x) with
    | none => .waits
    | some l =>
      if w.isLocal x then
        (match w.writeKey c rnum x with
          | some key => if w.d.poison.any (fun k => decide (key ≤ k) && decide (k < key + 32)) then .ecc else .ok (w.rds key 32)
          | none => .waits)
      else if l.valid = allMask then .ok (lineBytes l.data) else .waits

/-- The 32 bytes of a line at its PACKAGE point, as a revision of a context sees them; an L2 line of another package or of
the host is filled (09 R263). -/
def W.home (w : W) (c rnum line : Nat) : Rd (List Byte) × W :=
  let x := 32 * line
  if w.d.snooping line then (.waits, w)
  else
    match w.translate c rnum x with
    | .absent => (.absent, w)
    | .waits => (w.heldLine c rnum line, w)
    | .noRegion => (.noRegion, w)
    | .ok key _ =>
      let ecc := w.d.poison.any (fun k => decide (key ≤ k) && decide (k < key + 32))
      if w.isLocal x then (if ecc then .ecc else .ok (w.rds key 32), w.l2Use c ((w.d.ctx c).ridOf rnum x) line)
      else
        match w.d.l2Find line with
        | some l =>
          if l.valid = allMask then (.ok (lineBytes l.data), w)
          else if w.reach x != .served then (if w.reach x == .lost then .lost else .waits, w)
          else if ecc then (.ecc, w)
          else
            let bs := mergeLine l.valid (lineBytes l.data) (w.rds key 32)
            let w := w.touch x
            (.ok bs, { w with d := w.d.l2Set { l with valid := allMask, data := packLine bs } })
        | none =>
          if w.reach x != .served then (if w.reach x == .lost then .lost else .waits, w)
          else if ecc then (.ecc, w)
          else
            let w := (w.touch x).filterRoom line
            let bs := w.rds key 32
            (.ok bs, { w with d := w.d.l2Fill c ⟨line, 0, c, allMask, 0#32, packLine bs⟩ })

/-- A line the host may hold (18 R476): the device asks for it back before it writes it. -/
def Dev.hostMay (d : Dev) (line : Nat) : Bool := d.hostHeld.contains line

/-- Bytes of one line performed at its PACKAGE point: the frame of a local line, the L2 line of another package or the host
(09 R263). A write to a local line that the host may hold waits for a back-invalidate snoop (18 R476). -/
def W.pkgWriteLine (w : W) (c rnum line : Nat) (cs : List Host.Cell) : W :=
  match cs with
  | [] => w
  | (x, _) :: _ =>
    if w.isLocal x then
      match w.d.hostMay line with
      | true =>
        let w := w.cow c rnum x
        match w.writeKey c rnum x with
        | some key =>
          let r : Remote := ⟨.snoop line (cs.map (fun p => (key + p.1 - x, p.2))), c, w.g.domId, 0, line, w.d.cycle⟩
          { w with d := { w.d with remotes := w.d.remotes ++ [r] } }
        | none => w
      | false => W.homeWrite (w.l2Use c ((w.d.ctx c).ridOf rnum x) line) c rnum cs
    else
      let w := (w.filterRoom line).l2Room c line
      let l := (w.d.l2Find line).getD ⟨line, 0, w.d.l2Owner c (line / 8) 0, 0#32, 0#32, 0#256⟩
      let m := cellMask cs
      let new := (List.range 32).map (fun i => (cellAt cs (32 * line + i)).getD 0#8)
      { w with d := w.d.l2Set { l with valid := l.valid ||| m, dirty := l.dirty ||| m,
                                       data := packLine (mergeLine m new (lineBytes l.data)) } }

/-- Whether a write of a revision to a declared region was performed (16 R437). -/
def Dev.noteWrite (d : Dev) (c rnum x : Nat) : Dev :=
  match (d.ctx c).regionOf x with
  | some _ => d.modCtx c (fun k => { k with revs := k.revs.set rnum { k.revs.get rnum {} with wrote := true } })
  | none => d

/-- Bytes performed at their PACKAGE points. -/
def W.pkgWrite (w : W) (c rnum : Nat) (cs : List Host.Cell) : W :=
  (linesOf cs).foldl (fun w l =>
    let w := w.pkgWriteLine c rnum l (cellsIn l cs)
    { w with d := w.d.noteWrite c rnum (32 * l) }) w

/-- L2 lines written on to their homes: those of other packages, and with `host` those of the host window too (09 R268).
A line whose home is not reachable stays dirty. -/
def W.l2Flush (w : W) (c : Nat) (host : Bool) (only : Nat → Bool) : W :=
  w.d.l2.foldl (fun w l =>
    let x := 32 * l.line
    if l.dirty != 0#32 && only l.line && (host || w.isRemote x) && w.reach x == .served then
      let w := w.homeWrite c 0 (maskCells l.line l.dirty l.data)
      { w with d := w.d.l2Set { l with dirty := 0#32 } }
    else w) w

/-! ### L1 (08 R219) -/

/-- The context that a grid is bound to. -/
def Dev.ownerOf (d : Dev) (g : Nat) : Option Nat :=
  (d.ctxs.find? (fun p => match p.2.plat with | some q => q.parcel.getLsbD g | none => false)).map Prod.fst
/-- The revision of a context that a RID tags. -/
def Ctx.rnumOf (c : Ctx) (rid : Nat) : Nat :=
  if rid = 0 then 0 else ((c.revs.find? (fun p => p.2.rid == rid && p.2.st != .free)).map Prod.fst).getD 0
/-- The access grid of an address for a thread (09 R262). -/
def Thread.accessGrid (t : Thread) (x : Nat) : Nat := t.first + x / 256 % t.width
/-- SPP of a context (10 R283). -/
def Ctx.spp (c : Ctx) : Nat := (c.cfg.headD 0#64).toNat % 8
/-- Sets of an M-node's L1 part (08 R218-R219): 256 − 32·SPP KiB of 32-byte lines, 8 ways. -/
def Ctx.l1Sets (c : Ctx) : Nat := (256 - 32 * c.spp) * 4
/-- M-node and set of a line (log 14). -/
def setOf (sets line : Nat) : Nat × Nat := (line % 8, line / 8 % sets)
/-- The L1 line of an address and RID. -/
def Grid.l1Find (g : Grid) (line rid : Nat) : Option L1Line := g.l1.find? (fun l => l.line == line && l.rid == rid)
/-- A line replaced or added. -/
def Grid.l1Set (g : Grid) (l : L1Line) : Grid :=
  { g with l1 := l :: g.l1.filter (fun m => !(m.line == l.line && m.rid == l.rid)) }
/-- A line dropped. -/
def Grid.l1Drop (g : Grid) (line rid : Nat) : Grid :=
  { g with l1 := g.l1.filter (fun m => !(m.line == line && m.rid == rid)) }

/-- Owned bytes of a line written back to the PACKAGE point; the line stays, unowned. -/
def W.writeBack (w : W) (g : Nat) (l : L1Line) : W :=
  if l.owned = 0#32 then w
  else
    let c := (w.d.ownerOf g).getD 0
    let w := w.pkgWrite c ((w.d.ctx c).rnumOf l.rid) (maskCells l.line l.owned l.data)
    { w with d := w.d.modGrid g (fun gr => gr.l1Set { l with owned := 0#32 }) }

/-- Every owned line of grids that a test picks, written back. -/
def W.writeBackAll (w : W) (gs : List Nat) (pick : L1Line → Bool) : W :=
  gs.foldl (fun w g => ((w.d.grid g).l1.filter pick).foldl (fun w l => w.writeBack g l) w) w

/-- Unowned lines of grids dropped; an owned line keeps its owned bytes only (09 R269). -/
def Dev.dropUnowned (d : Dev) (gs : List Nat) (pick : L1Line → Bool) : Dev :=
  gs.foldl (fun d g => d.modGrid g (fun gr => { gr with l1 := gr.l1.filterMap (fun l =>
    if !pick l then some l
    else if l.owned = 0#32 then none
    else some { l with valid := l.owned }) })) d

/-! ### Releases and acquires (09 R268-R269) -/

/-- Scratchpad stores of a thread that are on their way, performed (09 R280). -/
def W.landSp (w : W) (t : Nat) : W :=
  let mine := w.d.spStores.filter (fun s => s.thr == t)
  let w := mine.foldl (fun w s => w.wrs s.bytes) w
  { w with d := { w.d with spStores := w.d.spStores.filter (fun s => s.thr != t) } }

/-- Step 1 of R268: the writes of a thread ordered before a release are performed at the scope's points. -/
def W.releaseStep (w : W) (t c scope : Nat) (gs : List Nat) : W :=
  let w := if 1 ≤ scope then w.landSp t else w
  let w := if 2 ≤ scope then w.writeBackAll gs (fun _ => true) else w
  if 3 ≤ scope then w.l2Flush c (decide (4 ≤ scope)) (fun _ => true) else w

/-- A release beyond PACKAGE scope waits for the acknowledgements of homes that are not reachable (09 R268, 10 R295). -/
def W.relBlocked (w : W) (scope : Nat) : Bool :=
  decide (3 ≤ scope) && w.d.l2.any (fun l =>
    l.dirty != 0#32 && (decide (4 ≤ scope) || w.isRemote (32 * l.line)) && w.reach (32 * l.line) != .served)
/-- A release waits, before it writes anything back: for a home that is not reachable, of a line that the L2 holds dirty or an
L1 of its grids owns. Writes younger than it then stay in the L1s. -/
def W.relWaits (w : W) (scope : Nat) (gs : List Nat) : Bool :=
  w.relBlocked scope || (decide (3 ≤ scope) && gs.any (fun g => (w.d.grid g).l1.any (fun l =>
    l.owned != 0#32 && (if decide (4 ≤ scope) then !w.isLocal (32 * l.line) else w.isRemote (32 * l.line)) &&
      w.reach (32 * l.line) != .served)))
/-- A write of step 1 waits for the host to give back its line (18 R476). -/
def Dev.snoops (d : Dev) : Bool := d.remotes.any (fun r => match r.kind with | .snoop _ _ => true | _ => false)
/-- A committed release performed (09 R268): step 1, then its own write beyond GRID scope. It stays pending while a home is not
reachable, or while the host has still to give back a line that step 1 writes. -/
def W.performRel (w : W) (r : Rel) : W :=
  if w.relWaits r.scope r.grids then w
  else
    let w := w.releaseStep r.thr r.ctx r.scope r.grids
    if decide (2 ≤ r.scope) && w.d.snoops then w
    else { w with d := { w.d with rels := w.d.rels.filter (fun q => q.order != r.order) } }

/-- All pending releases of threads whose writes pass through a grid, in order of commit. -/
def W.performRels (w : W) (g : Nat) : W :=
  (w.d.rels.filter (fun r => r.grids.contains g)).foldl (fun w r => w.performRel r) w

/-- All pending releases of a thread. -/
def W.performRelsOf (w : W) (t : Nat) : W :=
  (w.d.rels.filter (fun r => r.thr == t)).foldl (fun w r => w.performRel r) w

/-- The self-invalidation of an acquire (09 R269): nothing below PACKAGE scope. -/
def Dev.acquire (d : Dev) (scope : Nat) (gs : List Nat) (remote : Nat → Bool) : Dev :=
  let d := if 2 ≤ scope then d.dropUnowned gs (fun _ => true) else d
  if 3 ≤ scope then { d with l2 := d.l2.filter (fun l => !(remote l.line && l.dirty == 0#32)) } else d

/-- An acquire by a thread. -/
def W.acquireBy (w : W) (scope : Nat) (gs : List Nat) : W :=
  { w with d := w.d.acquire scope gs (fun l => w.isRemote (32 * l)) }

/-! ### Access through an L1 -/

/-- The grid of a stream of a thread by its number in the thread (08 R235). -/
def Thread.streamAt (t : Thread) (s : Nat) : Nat := t.first + s / 32
/-- Bytes of write streams that stand in the coalescing buffers of a grid (08 R240). -/
def Dev.coalesced (d : Dev) (g : Nat) : List Host.Cell :=
  d.threads.flatMap (fun p => p.2.streams.flatMap (fun s => if p.2.streamAt s.1 == g && s.2.cfg.space == .global then s.2.buffer else []))
/-- Bytes in the coalescing buffers of a thread's own streams, which its own reads see on every grid of its core (09 R266). -/
def Thread.coalesced (t : Thread) : List Host.Cell := t.streams.flatMap (fun s => if s.2.cfg.space == .global then s.2.buffer else [])
/-- Bytes that a committed store of a thread writes replace those that stand in a coalescing buffer of their grid or of the
thread (09 R266). -/
def Dev.patchBuffers (d : Dev) (t : Thread) (cs : List Host.Cell) : Dev :=
  let newer := fun (u : Thread) (s : Nat) (b : Host.Cell) =>
    match cellAt cs b.1 with
    | some v => if (u.ctx == t.ctx && u.gid == t.gid && u.tnum == t.tnum) || u.streamAt s == t.accessGrid b.1 then (b.1, v) else b
    | none => b
  { d with threads := d.threads.map (fun p => (p.1, { p.2 with
      streams := p.2.streams.map (fun s => (s.1, { s.2 with buffer := s.2.buffer.map (newer p.2 s.1) })) })) }
/-- Bytes written to their homes as a burst replace those that the L1s of some grids hold, which own them no longer (08 R240). -/
def Dev.patchLines (d : Dev) (gs : List Nat) (cs : List Host.Cell) : Dev :=
  gs.foldl (fun (d : Dev) g => d.modGrid g (fun gr => { gr with l1 := gr.l1.map (fun l =>
    let here := cellsIn l.line cs
    if here.isEmpty then l
    else
      let m := cellMask here
      let new := (List.range 32).map (fun i => (cellAt here (32 * l.line + i)).getD 0#8)
      { l with owned := l.owned &&& ~~~m, data := packLine (mergeLine (m &&& l.valid) new (lineBytes l.data)) }) })) d

/-- A line entered in an L1 by a read: an unowned line of a full set makes room, chosen freely; where every way is owned
the line is not kept (log 14). -/
def Dev.l1Fill (d : Dev) (g sets : Nat) (l : L1Line) : Dev :=
  let gr := d.grid g
  if (gr.l1Find l.line l.rid).isSome then d.modGrid g (fun gr => gr.l1Set l)
  else
    let same := gr.l1.filter (fun m => setOf sets m.line == setOf sets l.line)
    if same.length < 8 then d.modGrid g (fun gr => gr.l1Set l)
    else
      match same.filter (fun m => m.owned == 0#32) with
      | [] => d
      | m :: ms =>
        let f := d.fresh
        let v := (m :: ms).getD (f.1 % (ms.length + 1)) m
        f.2.modGrid g (fun gr => (gr.l1Drop v.line v.rid).l1Set l)

/-- A line as an L1 gives it: its valid bytes, the others filled from the PACKAGE point. -/
def W.l1Read (w : W) (c rnum g line : Nat) : Rd (List Byte) × W :=
  let k := w.d.ctx c
  let rid := k.ridOf rnum (32 * line)
  let cb := w.d.coalesced g
  let seen := fun (bs : List Byte) => (List.range 32).map (fun i => (cellAt cb (32 * line + i)).getD (bs.getD i 0#8))
  match (w.d.grid g).l1Find line rid with
  | some l =>
    if l.valid = allMask then (.ok (seen (lineBytes l.data)), w)
    else
      match w.home c rnum line with
      | (.ok bs, w) =>
        let bs := mergeLine l.valid (lineBytes l.data) bs
        (.ok (seen bs), { w with d := w.d.l1Fill g k.l1Sets { l with valid := allMask, data := packLine bs } })
      | r => r
  | none =>
    match w.home c rnum line with
    | (.ok bs, w) => (.ok (seen bs), { w with d := w.d.l1Fill g k.l1Sets ⟨line, rid, allMask, 0#32, packLine bs⟩ })
    | r => r

/-- Room for a line that a store allocates: a way of its set chosen freely is evicted; the releases committed before go
first (09 R265, R268). -/
def W.l1Room (w : W) (c g line rid : Nat) : W :=
  let sets := (w.d.ctx c).l1Sets
  let gr := w.d.grid g
  if (gr.l1Find line rid).isSome then w
  else
    let same := gr.l1.filter (fun m => setOf sets m.line == setOf sets line)
    if same.length < 8 then w
    else
      let w := w.performRels g
      -- while a release of the grid waits for a home, its younger writes do not leave (09 R268)
      let waits := w.d.rels.any (fun r => r.grids.contains g && decide (2 ≤ r.scope))
      let ways := if waits && same.any (fun m => m.owned == 0#32) then same.filter (fun m => m.owned == 0#32) else same
      let f := w.d.fresh
      match ways[f.1 % ways.length]? with
      | none => w
      | some v =>
        let w := { w with d := f.2 }
        let now := ((w.d.grid g).l1Find v.line v.rid).getD v
        let w := w.writeBack g now
        { w with d := w.d.modGrid g (fun gr => gr.l1Drop v.line v.rid) }

/-- Bytes stored in the L1 of a grid, which owns them from then on (08 R219). -/
def W.l1Write (w : W) (c rnum g : Nat) (cs : List Host.Cell) : W :=
  (linesOf cs).foldl (fun w line =>
    let here := cellsIn line cs
    let rid := (w.d.ctx c).ridOf rnum (32 * line)
    let w := w.l1Room c g line rid
    let l := ((w.d.grid g).l1Find line rid).getD ⟨line, rid, 0#32, 0#32, 0#256⟩
    let m := cellMask here
    let new := (List.range 32).map (fun i => (cellAt here (32 * line + i)).getD 0#8)
    { w with d := w.d.modGrid g (fun gr => gr.l1Set { l with
        valid := l.valid ||| m, owned := l.owned ||| m, data := packLine (mergeLine m new (lineBytes l.data)) }) }) w

/-- Bytes of a committed store of a thread, each through its access grid (09 R262, R265). -/
def W.storeCells (w : W) (t : Thread) (rnum : Nat) (cs : List Host.Cell) : W :=
  let w := { w with d := w.d.patchBuffers t cs }
  t.grids.foldl (fun w g => w.l1Write t.ctx rnum g (cs.filter (fun c => t.accessGrid c.1 == g))) w

end Sys2Proof.Machine
end

