-- ==== Sys2Proof/Machine/Flush.lean ====
section
/-!
DEFINITION. Flushing instances, holding a fault pending (02 R27), and raising page requests (02 R32, 15 R418).
What an uncommitted instruction has reserved is what stands in its instance's effects, so a flush releases it by dropping them.
-/

namespace Sys2Proof.Machine

/-- A matrix step that has started runs to its end (07 R203). -/
def Inst.running (x : Inst) : Bool := x.msteps.any (fun m => m.st == .started)

/-- Tokens, waits and retained tokens of an instance discarded (02 R27, R47). -/
def Dev.dropTokens (d : Dev) (iid : Nat) : Dev :=
  { d with flight := d.flight.filter (fun f => f.iid != iid),
           waits := d.waits.filter (fun q => q.iid != iid),
           retained := d.retained.filter (fun f => f.producer != some iid),
           grids := d.grids.map (fun g => (g.1, { g.2 with overflow := g.2.overflow.filter (fun f => f.producer != some iid) })) }

/-- The four phase counts of a plane released at a time (19 R490), saturating. -/
def Plane.phases (p : Plane) (now : Nat) : List Nat :=
  let sat := fun (n : Nat) => min n (2 ^ 32 - 1)
  let fir := p.firingAt.getD now
  let com := p.commitAt.getD now
  let lea := p.leaveAt.getD now
  [sat (fir - p.fetchAt), sat (com - fir), if p.resident then sat (lea - com) else 0, if p.resident then sat (now - lea) else 0]

/-- Planes kept: those of a placement with an instance in flight, or of a resident loop not left whose thread is in FETCH or RUN
(02 R23, R38). A plane that is released leaves a phase record where its context traces them (19 R490). -/
def Dev.gcPlanes (d : Dev) (g : Nat) : Dev :=
  let held := fun (p : Plane) =>
    d.insts.any (fun q => q.2.grid == g && q.2.placement == p.placement && q.2.plane.isSome) ||
      d.threads.any (fun t => (t.2.st == .fetch || t.2.st == .run) && t.2.loops.any (fun l => l.placement == p.placement))
  let traced := fun (p : Plane) =>
    match d.thr p.thr with
    | some t => (d.ctx t.ctx).trace.enables.getLsbD 3
    | none => false
  let slot := fun (p : Plane) => match d.thr p.thr with
    | some t => (match t.slots with | (_, k) :: _ => k | [] => 0)
    | none => 0
  let now := if d.stopped g then (d.grid g).stopCycle else d.cycle
  d.modGrid g (fun gr => { gr with
    planes := gr.planes.filter (fun p => held p.2),
    phases := gr.phases ++ (gr.planes.filter (fun p => !held p.2 && traced p.2)).map (fun p => p.1 :: slot p.2 :: p.2.blk :: p.2.phases now),
    matching := gr.matching.filter (fun m => (d.inst m.1).isSome) })

/-- Planes of the grids of a thread's core that nothing keeps any more are released. -/
def Dev.gcThread (d : Dev) (tid : Nat) : Dev :=
  match d.thr tid with
  | some t => t.grids.foldl (fun (d : Dev) g => d.gcPlanes g) d
  | none => d

/-- The tiles of a thread restored from an instance's start copies (07 R201). -/
def Dev.restoreTiles (d : Dev) (x : Inst) : Dev :=
  x.starts.foldl (fun d p => d.modThr x.thr (fun t => { t with tiles := t.tiles.set p.1 p.2 })) d

/-- What matrix steps of a discarded instance leave: tiles restored from the start copies (R201), units of a `wbload` that had
begun EMPTY (R200), locks let go (R202). -/
def Dev.undoMatrix (d : Dev) (x : Inst) : Dev :=
  let d := d.restoreTiles x
  let d := x.msteps.foldl (fun d m => m.units.foldl (fun d u =>
    d.modGrid u.1 (fun g => { g with wtags := g.wtags.set u.2 .empty })) d) d
  { d with unlocks := d.unlocks ++ x.msteps.flatMap (fun m => m.locks) }

/-- What instructions of a discarded instance have done when they fired is undone: latches that an `evwait` has cleared are set
again (13 R391), and pages that a `trvopen` has locked are let go (17 R464). -/
def Dev.setAgain (d : Dev) (x : Inst) : Dev :=
  x.effs.foldl (fun d e => match e.2.2 with
    | .evwait m => d.modThr x.thr (fun t => { t with latches := t.latches ||| m })
    | .trvopen _ s => { d with unlocks := d.unlocks ++ s.locks }
    | _ => d) d

/-- The first instance of a resident placement is flushed: completions that it has received wait in the overflow queue again, for
the instance of their tag in the placement that takes its place (02 R47). -/
def Dev.unbind (d : Dev) (x : Inst) : Dev :=
  if x.resident && x.preLoops.isEmpty then
    let mine := fun (f : FarTok) => f.bound == some x.placement
    let free := fun (f : FarTok) => ({ f with bound := none } : FarTok)
    let again := (d.retained.filter mine).map free
    { d with retained := d.retained.map (fun f => if mine f then free f else f) }.modGrid x.grid (fun g =>
      { g with overflow := g.overflow ++ again })
  else d

/-- An instance removed; one with a matrix step in progress waits for it first (02 R30). -/
def Dev.dropInst (d : Dev) (iid : Nat) : Dev :=
  match d.inst iid with
  | none => d
  | some x =>
    let d := ((d.dropTokens iid).setAgain x).unbind x
    if x.running then d.setInst iid { x with st := .flushed, dying := true, pend := none, effs := [], operands := [], wr := [] }
    else
      let d := d.undoMatrix x
      { d with insts := d.insts.erase iid }.gcPlanes x.grid

/-- An instance dropped that stands for a thread from a sequence number on. -/
def Dev.dropFrom (d : Dev) (t seq iid : Nat) : Dev :=
  match d.inst iid with
  | some x => if x.thr = t ∧ seq ≤ x.seq then d.dropInst iid else d
  | none => d
/-- Instances of a thread from a sequence number on flushed, the youngest first; what fetch knew before them is taken again. -/
def Dev.flushFrom (d : Dev) (t seq : Nat) : Dev :=
  let l := (d.instsOf t).filter (fun p => decide (seq ≤ p.2.seq))
  match l with
  | [] => d
  | (_, x) :: _ =>
    let d := l.reverse.foldl (fun d p => d.dropFrom t seq p.1) d
    (d.modThr t (fun th => { th with seq := x.seq - 1, fTag := x.preTag, fDepth := x.preDepth, loops := x.preLoops,
                                     next := some x.blk })).gcThread t

/-! ### Tags and resident loops (02 R46-R48) -/

/-- A field of a tag by the kernel's widths, field 0 lowest (02 R46). -/
def tagField (widths : List Nat) (tag : Nat) (k : Nat) : Nat :=
  match widths, k with
  | [], _ => 0
  | w :: _, 0 => tag % 2 ^ w
  | w :: ws, k + 1 => tagField ws (tag / 2 ^ w) k

/-- Tag field widths of the kernel a thread runs (02 R46, 11 R317). -/
def Dev.tagWidths (d : Dev) (t : Thread) : List Nat :=
  match d.group t.ctx t.gid with
  | some g => (((d.ctx t.ctx).kernels.get (bits g.handle 7 0) {}).tagWidths)
  | none => List.replicate 8 8

/-- A tag with one field replaced. -/
def tagSet (widths : List Nat) (tag k v : Nat) : Nat :=
  let at_ := (widths.take k).sum
  let w := widths.getD k 0
  tag % 2 ^ at_ + v % 2 ^ w * 2 ^ at_ + tag / 2 ^ (at_ + w) * 2 ^ (at_ + w)

/-- What fetch knows of loops: tag, nesting depth, the loops the thread is in. -/
structure Nest where
  tag : Nat
  depth : Nat
  loops : List LoopSt
deriving DecidableEq, Repr

/-- Fetch state before an instance. -/
def Inst.pre (x : Inst) : Nest := ⟨x.preTag.toNat, x.preDepth, x.preLoops⟩
/-- Fetch state after an instance has been placed: entering a resident block opens a loop (R46). -/
def Inst.post (x : Inst) (widths : List Nat) : Nest :=
  if x.resident && x.preLoops.isEmpty then
    ⟨tagSet widths x.preTag.toNat x.preDepth 0, x.preDepth + 1,
      [{ blk := x.blk, grid := x.grid, placement := x.placement, fieldNo := x.preDepth,
         maxInst := (match x.code with | some b => b.maxInst | none => 1), iter := 0 }]⟩
  else x.pre
/-- Fetch state down an exit: `loop` advances the iterating field; any other exit leaves the loop (R46). -/
def Nest.follow (n : Nest) (widths : List Nat) (op : Nat) : Nest :=
  match n.loops with
  | [] => n
  | l :: ls =>
    if op = 0x35 then
      ⟨tagSet widths n.tag l.fieldNo (tagField widths n.tag l.fieldNo + 1), n.depth, { l with iter := l.iter + 1 } :: ls⟩
    else ⟨tagSet widths n.tag l.fieldNo 0, n.depth - 1, ls⟩
/-- The fetch state of a thread. -/
def Thread.nest (t : Thread) : Nest := ⟨t.fTag.toNat, t.fDepth, t.loops⟩
def Thread.setNest (t : Thread) (n : Nest) : Thread := { t with fTag := BitVec.ofNat 64 n.tag, fDepth := n.depth, loops := n.loops }

/-- Two tags that differ in one field at most. -/
def tagAgree (widths : List Nat) (k a b : Nat) : Bool := tagSet widths a k 0 == tagSet widths b k 0
/-- A resident placement of a thread has been left (02 R47): its retained and overflowed tokens are discarded, and completions
that no instance has received whose tags differ from the loop's in the iterating field alone, unless another thread of the
context is in a resident loop on the grid (log 81). -/
def Dev.dropPlacement (d : Dev) (tid g placement fieldNo tag : Nat) : Dev :=
  match d.thr tid with
  | none => d
  | some t =>
    let ws := d.tagWidths t
    let others := d.threads.any (fun p => p.1 != tid && p.2.ctx == t.ctx && p.2.loops.any (fun l => l.grid == g))
    let gone := fun (f : FarTok) => f.placement == some placement || f.bound == some placement ||
      (f.grid == g && f.ctx == t.ctx && f.placement.isNone && f.bound.isNone && !others && tagAgree ws fieldNo f.tag.toNat tag)
    { d with retained := d.retained.filter (fun f => !gone f) }.modGrid g (fun gr => { gr with overflow := gr.overflow.filter (fun f => !gone f) })
/-- The resident loops that a thread is in, left: grid, placement, iterating field and tag of each. -/
def Dev.dropLoops (d : Dev) (tid : Nat) : Dev :=
  match d.thr tid with
  | none => d
  | some t =>
    let fetched := t.loops.map (fun l => (l.grid, l.placement, l.fieldNo, t.fTag.toNat))
    let standing := (d.insts.filter (fun p => p.2.thr == tid && p.2.resident)).map (fun p =>
      (p.2.grid, p.2.placement, (match p.2.code with | some b => b.tagField | none => 0), p.2.tag.toNat))
    (fetched ++ standing).foldl (fun (d : Dev) l => d.dropPlacement tid l.1 l.2.1 l.2.2.1 l.2.2.2) d

/-- Fetch of a thread goes on at a block, or waits. -/
def Dev.redirect (d : Dev) (t : Nat) (blk : Option Nat) : Dev := d.modThr t (fun th => { th with next := blk })

/-- A fault held pending: the instance and every younger one are flushed, and its thread fetches nothing until the fault is
raised or vanishes (02 R27). -/
def Dev.hold (d : Dev) (iid : Nat) (p : Pend) (page : Option Nat := none) : Dev :=
  match d.inst iid with
  | none => d
  | some x =>
    if x.pend.isSome then d
    else
      let d := (((d.flushFrom x.thr (x.seq + 1)).dropTokens iid).setAgain x).unbind x
      let d := if x.running then d else d.undoMatrix x
      let d := d.setInst iid { x with st := .flushed, pend := some p, page := page, effs := [], operands := [], wr := [],
                                      plane := none, starts := if x.running then x.starts else [],
                                      msteps := if x.running then x.msteps else [] }
      (d.redirect x.thr none).gcPlanes x.grid

/-- A fault of the instruction that fires, with its index as the location (02 R27). -/
def Dev.holdAt (d : Dev) (c : Firing) (cause : Cause) (w2 w3 w4 : Nat) : Dev :=
  d.hold c.iid { cause := cause, loc := BitVec.ofNat 8 c.idx, w2 := BitVec.ofNat 64 w2, w3 := BitVec.ofNat 64 w3,
                 w4 := BitVec.ofNat 64 w4 }

/-! ### Requests to the host (10 R291, R522) -/

/-- A request record held until the host request queue has space (10 R291). -/
def Dev.request (d : Dev) (rkind origin : Nat) (lanes : List Word) : Dev :=
  { d with heldReqs := d.heldReqs ++ [⟨rkind, origin, lanes⟩] }

/-- The context number and generation in the layout of `ctx` (05 R140). -/
def Dev.ident (d : Dev) (c : Nat) : Word := BitVec.ofNat 64 (c % 4096 + (d.ctx c).gen.toNat * 2 ^ 16)

/-- BCTL of a context's bind record (13 R368). -/
def Dev.bctl (d : Dev) (c : Nat) : Word := match (d.ctx c).plat with | some p => p.bctl | none => 0#64

/-- The field of the unit that finds a page absent: of the HBM controller, or of the CXL port (CX0 in F0, CX1 in F3). -/
def originOf (x : Nat) : Nat := if pkgOf x == 0xFF then cxlField (x / 2 ^ 8 % 2) else stackField (homeSlice x / 8)

/-- The device can serve a page itself: a 16 KiB leaf of the local package with DZ and a frame in the pool, PAGE_HA clear
(15 R417-R418). -/
def W.selfServed (w : W) (c page : Nat) : Bool :=
  !(w.d.bctl c).getLsbD 25 && !w.d.pool.isEmpty && w.isLocal page &&
    (match w.walk page with
      | .absent _ (some l) => l.level == 3 && entBit l.w0 57
      | _ => false)

/-- DZ set on an absent page (15 R418 lane 2 bit 4). -/
def W.absentDz (w : W) (page : Nat) : Bool :=
  match w.walk page with
  | .absent _ (some l) => entBit l.w0 57
  | _ => false

/-- A request number that no outstanding request has, from one on (15 R418). -/
def Dev.requestNum (d : Dev) (fuel n : Nat) : Nat :=
  match fuel with
  | 0 => n
  | k + 1 => if d.preqs.any (fun r => r.num == n) then Dev.requestNum d k ((n + 1) % 2 ^ 16) else n
/-- A page request raised or joined (15 R418): its number, or none while 4,096 are outstanding. `how` holds lane 2 bits
[3:0]. -/
def W.raisePage (w : W) (c x how origin : Nat) (who : Option Requester) : Option Nat × Dev :=
  let d := w.d
  let page := pageOf x
  match d.preqs.find? (fun r => r.ctx == c && r.page == page) with
  | some r =>
    (some r.num, { d with preqs := d.preqs.map (fun q => if q.num == r.num then { q with who := q.who ++ who.toList } else q) })
  | none =>
    if Config.pageRequests ≤ d.preqs.length then (none, d)
    else
      let num := d.requestNum Config.pageRequests d.preqNext
      let served := w.selfServed c page
      let w2 := how + (if w.absentDz page then 16 else 0)
      let d := { d with preqs := d.preqs ++ [⟨num, c, page, BitVec.ofNat 5 w2, who.toList, !served⟩],
                        preqNext := (num + 1) % 2 ^ 16 }
      (some num, if served then d
        else d.request 1 origin [d.ident c, BitVec.ofNat 64 page, BitVec.ofNat 64 w2, BitVec.ofNat 64 num,
          BitVec.ofNat 64 d.now])

/-- A page fault of an access of an instance (02 R32): the request issues, the instance and every younger one are flushed.
While no request is free the access waits. -/
def W.pageFault (w : W) (iid : Nat) (x how : Nat) : Dev :=
  match w.d.inst iid with
  | none => w.d
  | some i =>
    let r := w.raisePage (w.d.ctxOf i) x how (originOf x) (some (.thread i.thr i.blk x (how % 4)))
    match r.1 with
    | none => w.d
    | some n => r.2.hold iid { cause := .pageAbsent, w2 := BitVec.ofNat 64 x, w3 := BitVec.ofNat 64 (how % 4) } (some n)

end Sys2Proof.Machine
end

