-- ==== Sys2Proof/Machine/UndoLog.lean ====
section
/-!
DEFINITION. The undo log (19 R494-R499): entries, segments and chunks, the full modes, and what a performed write logs.
-/

namespace Sys2Proof.Machine

/-- Units of 64 bytes of an entry (R495). -/
def LogEnt.units (e : LogEnt) : Nat := match e with | .reg _ _ _ _ => 2 | _ => 1

/-- n64 words of an entry in memory. -/
def LogEnt.words (e : LogEnt) : List Nat :=
  let line := fun (v : BitVec 256) => (List.range 4).map (fun k => (v.extractLsb' (64 * k) 64).toNat)
  match e with
  | .line rid mask addr seq who old => [1 + rid % 2 ^ 12 * 2 ^ 4 + mask.toNat * 2 ^ 32, addr, seq % 2 ^ 48, who] ++ line old
  | .scratch mask addr seq who old => [2 + mask.toNat * 2 ^ 32, addr, seq % 2 ^ 48, who] ++ line old
  | .reg num seq who old => [3 + num * 2 ^ 4, seq, who, 0] ++ (List.range 8).map (fun k => (vlane old k).toNat) ++ [0, 0, 0, 0]
  | .object kind seq who ident old =>
    [4 + kind * 2 ^ 4, seq, who, ident.toNat] ++ (List.range 4).map (fun k => (old.getD k 0#64).toNat)
  | .commit blk seq time flags prng who regs lines _ _ _ =>
    [5, blk, seq, time, flags.toNat, prng.toNat, who, regs % 2 ^ 16 + lines % 2 ^ 32 * 2 ^ 16]
  | .marker n time => [6 + n * 2 ^ 32, time, 0, 0, 0, 0, 0, 0]
  | .monument kind n addr seq time => [7 + kind * 2 ^ 4 + n * 2 ^ 32, addr, seq, time, 0, 0, 0, 0]

/-- Chunks that segments hold. -/
def Log.chunks (l : Log) : List Nat := (l.segs.flatMap (fun s => s.2.ents.map Prod.fst)).eraseDups
/-- A free chunk. -/
def Log.freeChunk (l : Log) : Option Nat :=
  let used := l.chunks
  (List.range (l.len / 65536)).find? (fun k => !used.contains k)

/-- An entry placed in a segment: the log with it, its chunk and the unit it starts at. -/
def Log.put (l : Log) (seg : Nat) (e : LogEnt) : Option (Log × Nat × Nat) :=
  let s := l.segs.get seg {}
  let here := fun (chunk off : Nat) =>
    ({ l with segs := l.segs.set seg { s with ents := s.ents ++ [(chunk, e)], off := off + e.units } }, chunk, off)
  match s.ents.getLast? with
  | some (k, _) => if s.off + e.units ≤ 1024 then some (here k s.off) else l.freeChunk.map (fun k => here k 0)
  | none => l.freeChunk.map (fun k => here k 0)

/-- An entry other than a marker, with the pending marker before it (R494): what is written where. -/
def Log.place (l : Log) (seg : Nat) (e : LogEnt) (now : Nat) : Option (Log × List (Nat × Nat × LogEnt)) :=
  -- a segment that holds no chunk keeps the number of the current station as its marker
  let fresh : Segment := { marker := if l.begun then some l.station else none }
  let s := l.segs.get seg fresh
  match s.marker with
  | none => (l.put seg e).map (fun r => (r.1, [(r.2.1, r.2.2, e)]))
  | some n =>
    let m := LogEnt.marker n now
    match l.put seg m with
    | none => none
    | some (l1, k1, o1) =>
      let l1 := { l1 with segs := l1.segs.set seg { l1.segs.get seg fresh with marker := none } }
      (l1.put seg e).map (fun r => (r.1, [(k1, o1, m), (r.2.1, r.2.2, e)]))

/-- Entries placed one after the other. -/
def Log.placeAll (l : Log) (es : List (Nat × LogEnt)) (now : Nat) : Option (Log × List (Nat × Nat × LogEnt)) :=
  es.foldl (fun acc e => acc.bind (fun q => (q.1.place e.1 e.2 now).map (fun r => (r.1, q.2 ++ r.2)))) (some (l, []))

/-- Windows older than a station freed (R498). -/
def Log.trim (l : Log) (n : Nat) : Log :=
  let after := fun (s : Segment) =>
    let rest := s.ents.dropWhile (fun e => match e.2 with | .marker k _ => decide (k < n) | _ => true)
    if rest.isEmpty then (match s.marker with | some k => if n ≤ k then { s with ents := [] } else s | none => s)
    else { s with ents := rest }
  { l with segs := l.segs.map (fun s => (s.1, after s.2)), oldest := max l.oldest n }

/-- Bytes in use. -/
def Log.inUse (l : Log) : Nat := 65536 * l.chunks.length

/-- Logging is on for a context. -/
def Ctx.logging (c : Ctx) : Bool := c.undoEn && c.log.configured

/-- Whether entries have room (R498): the log to write them to, a wait, or UNDO_LOG_FULL. -/
inductive Gate where
  | ok (l : Log)
  | wait
  | trap
deriving DecidableEq, Repr

/-- Room in WRAP mode: the oldest windows dropped until the entries fit. -/
def Log.wrapFor (l : Log) (es : List (Nat × LogEnt)) (fuel : Nat) : Gate :=
  match fuel with
  | 0 => .wait
  | n + 1 =>
    match l.taken.reverse.find? (fun k => decide (l.oldest < k)) with
    | none => .wait
    | some k =>
      let l := l.trim k
      if (l.placeAll es 0).isSome then .ok l else Log.wrapFor l es n

/-- The gate of entries of a context. -/
def Ctx.logGate (c : Ctx) (es : List (Nat × LogEnt)) : Gate :=
  if !c.logging then .ok c.log
  else if (c.log.placeAll es 0).isSome then .ok c.log
  else if c.log.mode = 1 then c.log.wrapFor es (c.log.taken.length + 1)
  else if c.log.mode = 2 then .trap
  else .wait

/-- Entries written to the log of a context; those that find no room are lost (only an entry that no gate asked about). At
75 % a request is raised under DRAIN_HA (R498, 10 R522). -/
def W.logWrite (w : W) (c : Nat) (es : List (Nat × LogEnt)) : W :=
  let k := w.d.ctx c
  if !k.logging then w
  else
    match k.log.placeAll es w.d.now with
    | none => w
    | some (l, at_) =>
      let w := at_.foldl (fun w p =>
        w.pkgWrite c 0 (cellsAt (k.log.base + 65536 * p.1 + 64 * p.2.1) (p.2.2.words.flatMap (leBytes 8)))) w
      let full := decide (3 * l.len ≤ 4 * l.inUse)
      let ask := full && !l.asked75 && (w.d.bctl c).getLsbD 30
      let d := w.d.modCtx c (fun q => { q with log := { l with asked75 := full && (l.asked75 || ask) } })
      { w with d := if ask then d.request 7 8 [d.ident c, BitVec.ofNat 64 l.base, BitVec.ofNat 64 l.inUse,
          BitVec.ofNat 64 (l.oldest % 2 ^ 32 + l.station * 2 ^ 32), BitVec.ofNat 64 d.now] else d }

/-- Who a thread is, in entries. -/
def Thread.who (t : Thread) : Nat := t.gid % 2 ^ 32 + t.tnum * 2 ^ 32
/-- The segment of the grid a thread's objects log in: core grid 0. -/
def Thread.seg (t : Thread) : Nat := 128 + t.first

/-- Line entries of a write of local lines: the old bytes as the home holds them (R495). -/
def W.lineEnts (w : W) (c rnum seq who : Nat) (cs : List Host.Cell) : List (Nat × LogEnt) :=
  (linesOf (cs.filter (fun p => w.isLocal p.1))).map (fun l =>
    let x := 32 * l
    let old := match w.writeKey c rnum x with | some key => w.rds key 32 | none => []
    (homeSlice x, .line ((w.d.ctx c).ridOf rnum x) (cellMask (cellsIn l cs)) x seq who (packLine old)))

/-- The kind of monument that a write to an address leaves: 1 another package, 2 the host window (R499). -/
def W.monumentOf (w : W) (x : Nat) : Option Nat := if w.isLocal x then none else if w.isHost x then some 2 else some 1

/-- Monuments of a write, in the segment of core grid 0 of its thread. -/
def W.monuments (w : W) (c : Nat) (t : Thread) (seq : Nat) (cs : List Host.Cell) : List (Nat × LogEnt) :=
  (linesOf cs).filterMap (fun l => (w.monumentOf (32 * l)).map (fun k =>
    (t.seg, .monument k (w.d.ctx c).log.station (32 * l) seq w.d.now)))

/-- Bytes written at their homes as logged stores (R495, R252, R453): each line's old bytes go to the log first. -/
def W.loggedWrite (w : W) (c rnum seq who : Nat) (cs : List Host.Cell) : W :=
  let w := if (w.d.ctx c).logging then w.logWrite c (w.lineEnts c rnum seq who cs) else w
  w.pkgWrite c rnum cs

end Sys2Proof.Machine
end

