-- ==== Sys2Proof/Machine/Buffers.lean ====
section
/-!
DEFINITION. Coalescing buffers of write streams (08 R240): how their bytes reach the home slices, and releases that include them
(09 R268).
-/

namespace Sys2Proof.Machine

/-- The revision of a thread: that of its group (16 R436). -/
def Dev.rnumOf (d : Dev) (t : Thread) : Nat := match d.group t.ctx t.gid with | some g => g.rev | none => 0

/-- A stream that has never been configured. -/
def closedStream : Stream :=
  { cfg := { ty := 0#4, write := false, space := .global, base := 0, count0 := 0, count1 := 0, count2 := 0, stride0 := 0,
             stride1 := 0, stride2 := 0 } }
/-- A stream of a thread. -/
def Thread.stream (t : Thread) (s : Nat) : Stream := t.streams.get s closedStream
/-- A stream changed. -/
def Dev.modStream (d : Dev) (tid s : Nat) (f : Stream → Stream) : Dev :=
  d.modThr tid (fun t => { t with streams := t.streams.set s (f (t.stream s)) })

/-- Bytes of a coalescing buffer written to their home slices, and in the L1s of the thread's grids; the releases of the thread go
before them, and they stay while one waits (09 R268). Those of a page that is absent stay too, and the page is asked for
(15 R423). -/
def W.flushBytes (w : W) (tid s : Nat) (pick : Host.Cell → Bool) : W :=
  match w.d.thr tid with
  | none => w
  | some t =>
    let w := w.performRelsOf tid
    if w.d.rels.any (fun r => r.thr == tid && w.relWaits r.scope r.grids) then w
    else
      let rnum := w.d.rnumOf t
      let st := t.stream s
      let there := fun (x : Nat) => match w.translate t.ctx rnum x with | .absent => false | .noRegion => false | _ => true
      let out := st.buffer.filter (fun b => pick b && there b.1)
      let stuck := (st.buffer.filter (fun b => pick b && !there b.1)).head?
      let w := w.loggedWrite t.ctx rnum t.commitSeq t.who out
      let w := { w with d := (w.d.patchLines (t.streamAt s :: t.grids) out).modStream tid s
                          (fun q => { q with buffer := q.buffer.filter (fun b => !out.contains b) }) }
      match stuck with
      | none => w
      | some b =>
        if w.d.preqs.any (fun r => r.ctx == t.ctx && r.page == pageOf b.1 && r.who.contains (.burst tid s)) then w
        else { w with d := (w.raisePage t.ctx b.1 1 (originOf b.1) (some (.burst tid s))).2 }
/-- The whole buffer of a stream. -/
def W.flushStream (w : W) (tid s : Nat) : W := w.flushBytes tid s (fun _ => true)
/-- Bytes that a test picks, in the buffers of a thread. -/
def W.flushPicked (w : W) (tid : Nat) (pick : Host.Cell → Bool) : W :=
  match w.d.thr tid with
  | none => w
  | some t => t.streams.foldl (fun w p => if p.2.buffer.any pick then w.flushBytes tid p.1 pick else w) w
/-- The buffers of a thread, at a release of PACKAGE scope or wider (R240). -/
def W.flushStreams (w : W) (tid : Nat) : W := w.flushPicked tid (fun _ => true)
/-- Every buffer of every thread, where a test picks bytes. -/
def W.flushEvery (w : W) (pick : Host.Cell → Bool) : W :=
  w.d.threads.foldl (fun (w : W) t => w.flushPicked t.1 pick) w

/-- A write of a thread beyond GRID scope has to wait (09 R268): a release of the thread that has committed waits for a home, or its
own release at a scope would. -/
def W.relPending (w : W) (tid scope : Nat) (gs : List Nat) : Bool :=
  w.relWaits scope gs || w.d.rels.any (fun r => r.thr == tid && w.relWaits r.scope r.grids)

/-- What a release of a thread does before its own write: its buffers, the releases committed before it, then step 1 of 09 R268. -/
def W.releaseNow (w : W) (tid c scope : Nat) (gs : List Nat) : W :=
  let w := if 2 ≤ scope then w.flushStreams tid else w
  (gs.foldl (fun w g => w.performRels g) (w.performRelsOf tid)).releaseStep tid c scope gs

end Sys2Proof.Machine
end

