-- ==== Sys2Proof/Machine/Fault.lean ====
section
/-!
DEFINITION. Taking an exception (02 R27, R37, 10 R302-R307): the fault record, its routing to the handler kernel, the freeze
of the context, stops of grids (19 R492-R493); and the return from one (10 R314). One operation each.
-/

namespace Sys2Proof.Machine

/-- FCAUSE of a cause (10 R303). -/
def fcause (c : Cause) : Nat :=
  match c with
  | .blockMalformed => 0x01 | .exitConflict => 0x02 | .blockIncomplete => 0x03 | .codeEcc => 0x04 | .codeIntegrity => 0x05
  | .profileMissing => 0x06 | .registerRange => 0x07 | .pageAbsent => 0x10 | .protection => 0x11 | .alignment => 0x12
  | .pageUnresolved => 0x13 | .dataEcc => 0x14 | .linkLost => 0x15 | .queueTimeout => 0x20 | .mailboxTimeout => 0x21
  | .ringTimeout => 0x22 | .barrierTimeout => 0x23 | .eventTimeout => 0x24 | .syncTimeout => 0x25 | .tileLive => 0x30
  | .matrixShape => 0x31 | .weightFormat => 0x32 | .swTrap => 0x40 | .sysCall => 0x41 | .undoLogFull => 0x50
  | .replayDiverged => 0x51 | .breakpoint => 0x52 | .traverseConfig => 0x62

/-- State codes of a context (10 R287). -/
def stateCode (s : CState) : Nat :=
  match s with
  | .free => 0 | .opened => 1 | .bound => 2 | .running => 3 | .gating => 4 | .quiescent => 5 | .saved => 6 | .frozen => 7
  | .dumping => 8 | .faulted => 9 | .killed => 10

/-! ### Notifications and trace records -/

/-- A host notification (10 R290), in the ring at NOTIFY_BASE. -/
def W.notify (w : W) (c state cause : Nat) : W :=
  let k := hostKey (w.g.notifyBase.toNat + 32 * (w.d.notifyIdx % w.g.notifyLen))
  let w := w.wrs (cellsAt k (leBytes 8 (w.d.ident c).toNat ++ leBytes 8 (state + 256 * cause) ++ leBytes 8 w.d.now ++ leBytes 8 0))
  { w with d := { w.d with notifyIdx := w.d.notifyIdx + 1 } }

/-- Bytes of one trace record in the trace buffer (19 R491): it wraps with WRAPT, else a record that finds it full is lost and
counted; each half written raises a request under DRAIN_HA. -/
def W.traceBytes (w : W) (c : Nat) (bs : List Byte) : W :=
  let t := (w.d.ctx c).trace
  let full := decide (t.len < t.off + bs.length)
  if full && !t.enables.getLsbD 4 then
    { w with d := w.d.modCtx c (fun k => { k with trace := { t with lost := t.lost + 1, lossDue := t.lossDue + 1 } }) }
  else
    let off := if full then 0 else t.off
    let w := w.pkgWrite c 0 (cellsAt (t.base + off) bs)
    let now := off + bs.length
    let half := if t.len = 0 then false else now * 2 / t.len != off * 2 / t.len
    let w := { w with d := w.d.modCtx c (fun k => { k with trace := { t with off := now } }) }
    if half && (w.d.bctl c).getLsbD 30 then
      { w with d := w.d.request 6 8 [w.d.ident c, BitVec.ofNat 64 t.base, BitVec.ofNat 64 now, BitVec.ofNat 64 (t.lost % 2 ^ 32),
          BitVec.ofNat 64 w.d.now] }
    else w

/-- Word 0 of a trace record of a grid (19 R491). -/
def traceWord (d : Dev) (kind g slot exit hi : Nat) : Nat :=
  kind + g * 2 ^ 4 + slot * 2 ^ 13 + exit * 2 ^ 16 + min (d.cycle - (d.grid g).lastTime) 4095 * 2 ^ 19 + hi % 2 ^ 33 * 2 ^ 31

/-- A trace record, if its enable bit is set. -/
def W.trace (w : W) (c enable kind g slot exit hi w1 : Nat) : W :=
  if (w.d.ctx c).trace.enables.getLsbD enable then
    w.traceBytes c (leBytes 8 (traceWord w.d kind g slot exit hi) ++ leBytes 8 w1)
  else w

/-! ### Stops (19 R492-R493, 02 R37) -/

/-- A thread put in STOPPED; its prior state is remembered. -/
def Thread.stop (t : Thread) : Thread := if t.st = .stopped then t else { t with st := .stopped, prior := t.st }

/-- Threads that hold a slot of a grid. -/
def Dev.threadsOn (d : Dev) (g : Nat) : List Nat := (d.threads.filter (fun p => !p.2.ended && p.2.grids.contains g)).map Prod.fst

/-- A grid stopped; its slots go to STOPPED. -/
def Dev.stopGrid (d : Dev) (g : Nat) (gang : Bool) : Dev :=
  if d.stopped g then d.modGrid g (fun gr => { gr with gang := gr.gang || gang })
  else
    let d := d.modGrid g (fun gr => { gr with stopAt := some d.now, stopCycle := d.cycle, gang := gang })
    (d.threadsOn g).foldl (fun d t => (d.modThr t Thread.stop).gcThread t) d

/-- The grids of a context's parcel. -/
def Ctx.parcel (c : Ctx) : List Nat :=
  match c.plat with
  | some p => (List.range Config.grids).filter (fun g => p.parcel.getLsbD g)
  | none => []

/-- The gang stop of a context (19 R493): every grid of the parcel stops and records its cut record. -/
def Dev.gangStop (d : Dev) (c : Nat) : Dev :=
  let gs := (d.ctx c).parcel
  let d := gs.foldl (fun d g => d.stopGrid g true) d
  let cut := gs.map (fun g =>
    let gr := d.grid g
    let waiting := (d.flight.filter (fun f => match d.inst f.iid with | some x => x.grid == g | none => false)).length +
      gr.overflow.length
    (g, [d.now, gr.blockCommits, gr.sent, gr.received, waiting]))
  d.modCtx c (fun k => { k with cuts := cut })

/-- A grid's stop lifted: a thread with no stopped grid left and no live record leaves STOPPED (19 R489). Stopped cycles count
for no watchdog, no bounded wait and no phase (19 R490). -/
def Dev.liftGrid (d : Dev) (g : Nat) : Dev :=
  match (d.grid g).stopAt with
  | none => d
  | some _ =>
    let stood := d.cycle - (d.grid g).stopCycle
    let here := fun (iid : Nat) => match d.inst iid with | some x => x.grid == g | none => false
    let later := fun (p : Plane) => { p with
      fetchAt := p.fetchAt + stood, firingAt := p.firingAt.map (· + stood), commitAt := p.commitAt.map (· + stood),
      leaveAt := p.leaveAt.map (· + stood) }
    let d := d.modGrid g (fun gr => { gr with
      stopAt := none, gang := false, planes := gr.planes.map (fun p => (p.1, later p.2)) })
    let later := fun (x : Inst) => if x.grid = g then { x with since := x.since + stood, exitAt := x.exitAt + stood } else x
    let laterW := fun (q : Wait) => if here q.iid then { q with since := q.since + stood } else q
    let d : Dev := { d with insts := d.insts.map (fun p => (p.1, later p.2)), waits := d.waits.map laterW }
    (d.threadsOn g).foldl (fun d t => d.modThr t (fun th =>
      if th.rcd.isNone && th.grids.all (fun q => !d.stopped q) && th.st == .stopped then { th with st := th.prior } else th)) d

/-! ### Fault records -/

/-- A record handle (10 R307). -/
def recHandle (entry rseq : Nat) : Word := BitVec.ofNat 64 (entry % 64 + rseq % 2 ^ 16 * 2 ^ 16)

/-- The lowest free entry of the fault queue (10 R302, log 15). -/
def Ctx.freeRec (c : Ctx) : Option Nat := (List.range 64).find? (fun e => (c.frecs.look e).isNone)

/-- The kernel that a handle names, if it is not stale (11 R316). -/
def Ctx.kernelOf (k : Ctx) (h : Word) : Option (Nat × Kernel) :=
  let n := bits h 7 0
  let x := k.kernels.get n {}
  if h ≠ 0#64 ∧ bits h 63 40 = 0 ∧ x.st ≠ .unloaded ∧ x.lgen = bits h 39 8 then some (n, x) else none
/-- A kernel that may get a new group (11 R339 status 3). -/
def Kernel.usable (x : Kernel) : Bool := (x.st == .resident || x.st == .active) && !x.draining
/-- A handler kernel is installed (R304): the configuration names one that is no stale handle (11 R316). DESIGN CHOICE: one that can
get no group (11 R326) counts as none (log 90). -/
def Ctx.handlerOn (k : Ctx) : Bool := match k.kernelOf (k.cfg.getD 1 0#64) with | some (_, x) => x.usable | none => false

/-- A thread of a handler kernel: a group launched from the handler queue (10 R305). -/
def Dev.isHandler (d : Dev) (t : Thread) : Bool :=
  match d.group t.ctx t.gid with
  | some g => g.handle == (d.ctx t.ctx).cfg.getD 1 0#64 && g.handle != 0#64
  | none => false

/-- The 64 bytes of a fault record (10 R302). -/
def recLanes (d : Dev) (t : Thread) (p : Pend) (blk rseq atomics : Nat) : List Word :=
  let slot := match t.slots with | (_, k) :: _ => k | [] => 0
  [BitVec.ofNat 64 (fcause p.cause + p.loc.toNat * 2 ^ 8 + p.check.toNat * 2 ^ 16 + t.tnum * 2 ^ 24 + t.first * 2 ^ 32 +
      slot * 2 ^ 41 + rseq % 2 ^ 16 * 2 ^ 48),
   BitVec.ofNat 64 blk, p.w2, p.w3, p.w4, BitVec.ofNat 64 d.now, BitVec.ofNat 64 t.commitSeq,
   BitVec.ofNat 64 (t.gid % 2 ^ 32 + min atomics 255 * 2 ^ 32)]

/-- A dump of a FROZEN context asked for (10 R309, R522): under CONTAIN_HA the host is asked to collect it; else the engine
starts it, or queues it behind at most 7 others. Whether the engine takes it. -/
def W.askDump (w : W) (c : Nat) : Bool × W :=
  let k := w.d.ctx c
  if (w.d.bctl c).getLsbD 29 then
    (true, { w with d := w.d.request 5 8 [w.d.ident c, BitVec.ofNat 64 (k.frozenCause.toNat + min k.secondary 255 * 2 ^ 8),
      k.frozenRec.getD 0#64, k.cfg.getD 3 0#64, BitVec.ofNat 64 w.d.now] })
  else if w.d.dumping.isNone then
    let d := w.d.modCtx c (fun k => { k with st := .dumping })
    (true, { w with d := { d with dumping := some c } })
  else if w.d.dumpQ.contains c then (true, w)
  else if w.d.dumpQ.length < Config.dumpQueue then (true, { w with d := { w.d with dumpQ := w.d.dumpQ ++ [c] } })
  else (false, w)

/-- The context goes to FROZEN (10 R288): gang stop, host notified, a dump asked for under DUMPEN. A fault of a context that is
frozen or dumped is a secondary one (R309). -/
def W.freeze (w : W) (c cause : Nat) (handle : Option Word) : W :=
  let k := w.d.ctx c
  if k.st = .running then
    let d := w.d.modCtx c (fun k => { k with st := .frozen, frozenCause := BitVec.ofNat 8 cause, frozenRec := handle,
                                             secondary := 0, secRecs := [] })
    let w := W.notify { w with d := d.gangStop c } c (stateCode .frozen) cause
    if (k.cfg.headD 0#64).getLsbD 10 && cause != 0 then (w.askDump c).2 else w
  else if k.st = .frozen ∨ k.st = .dumping then
    { w with d := w.d.modCtx c (fun k => { k with secondary := k.secondary + 1,
                                                  secRecs := (k.secRecs ++ handle.toList).take 4 }) }
  else w

/-- An uncorrected error counted for the L2 slice of its address (19 R505). -/
def Dev.countEcc (d : Dev) (cause : Cause) (addr : Nat) : Dev :=
  if cause = .dataEcc then
    let e := d.life.ecc.get (homeSlice addr) (0, 0)
    { d with life := { d.life with ecc := d.life.ecc.set (homeSlice addr) (e.1, e.2 + 1) } }
  else d

/-- A fault raised against a thread (10 R302-R304): the slot goes to STOPPED, the record is written, and the fault is routed
to the handler kernel or freezes the context. A BREAKPOINT does neither; nor does a contained CODE_INTEGRITY. -/
def W.threadFault (w : W) (tid : Nat) (p : Pend) (blk atomics : Nat) (contained : Bool := false) : W :=
  match w.d.thr tid with
  | none => w
  | some t =>
    let c := t.ctx
    let k := w.d.ctx c
    let slot := match t.slots with | (_, s) :: _ => s | [] => 0
    let w := { w with d := w.d.countEcc p.cause p.w2.toNat }
    let w := w.trace c 2 4 t.first slot 0 (fcause p.cause) blk
    let entry := k.freeRec
    let rseq := k.rseq
    let lanes := recLanes w.d t p blk rseq atomics
    let w := match entry with
      | none => { w with d := (w.d.modThr tid Thread.stop).gcThread tid }
      | some e =>
        let w := w.pkgWrite c 0 (cellsAt ((k.cfg.getD 2 0#64).toNat + 64 * e) (lanes.flatMap (fun l => leBytes 8 l.toNat)))
        let d := w.d.modCtx c (fun k => { k with
          frecs := k.frecs.set e ⟨vecOf lanes, tid, false, p.cause⟩, rseq := (rseq + 1) % 2 ^ 16 })
        { w with d := (d.modThr tid (fun th => { th.stop with rcd := some e })).gcThread tid }
    let handle := recHandle (entry.getD 0) rseq
    if p.cause = .breakpoint ∨ contained then w
    else if k.handlerOn && !w.d.isHandler t && entry.isSome then
      { w with d := w.d.modCtx c (fun k => { k with
          handlerQ := k.handlerQ ++ [(handle, w.d.cycle)],
          frecs := k.frecs.map (fun f => if f.1 == entry.getD 64 then (f.1, { f.2 with routed := true }) else f) }) }
    else w.freeze c (fcause p.cause) (entry.map (fun _ => handle))

/-! ### Ending threads -/

/-- A thread's slots and banks released (02 R37). -/
def Dev.releaseSlots (d : Dev) (tid : Nat) : Dev :=
  match d.thr tid with
  | none => d
  | some t => t.slots.foldl (fun d s => d.modGrid s.1 (fun gr =>
      { gr with slots := gr.slots.set s.2 { gr.slots.get s.2 {} with thr := none, passed := 0 },
                banks := gr.banks.erase tid,
                owner := if gr.owner == some tid then none else gr.owner })) d

/-- A thread ends (05 R149, 10 R314, 11 R335): its instances and placements are flushed (02 R49), its slots go to IDLE, and its
group counts it. -/
def Dev.endThread (d : Dev) (tid : Nat) (failed : Bool) : Dev :=
  match d.thr tid with
  | none => d
  | some t =>
    if t.ended then d
    else
      let d := (((d.dropLoops tid).flushFrom tid 0).dropLoops tid).releaseSlots tid
      let d := (d.modThr tid (fun th => { th with
        ended := true, failed := failed, st := .idle, next := none, loops := [], slots := [], rcd := none, pageReq := none })).gcThread tid
      d.modGroup t.ctx t.gid (fun g => { g with live := g.live - 1, failed := g.failed || failed,
                                                st := if g.live ≤ 1 then .draining else g.st })

/-- A fault record freed (10 R307). -/
def Dev.freeRec (d : Dev) (c e : Nat) : Dev := d.modCtx c (fun k => { k with frecs := k.frecs.erase e })

/-- The return from an exception (10 R314): the record is freed and its thread fetches the faulted block again (for
SW_TRAP, SYS_CALL and BREAKPOINT the resume address or successor; for a fault of its start, 13 R382, the entry block), or the
block it is redirected to, or ends. A thread on a
stopped grid leaves STOPPED when the stop lifts. -/
def Dev.resume (d : Dev) (c e : Nat) (action target : Nat) : Dev :=
  match (d.ctx c).frecs.look e with
  | none => d
  | some r =>
    let d := d.freeRec c e
    if action = 2 then d.endThread r.thr true
    else
      let loading := match d.thr r.thr with | some t => t.argLoad | none => false
      let entry := match d.thr r.thr with
        | some t => (match d.group t.ctx t.gid with | some g => ((d.ctx c).kernels.get (bits g.handle 7 0) {}).entry | none => 0)
        | none => 0
      let reversed := match d.thr r.thr with | some t => t.resumeAt | none => none
      let at_ := if action = 1 then target
        else if reversed.isSome then reversed.getD 0
        else if loading then entry
        else if r.cause = .swTrap ∨ r.cause = .sysCall ∨ r.cause = .breakpoint then (vlane r.lanes 2).toNat
        else (vlane r.lanes 1).toNat
      let stopped := match d.thr r.thr with | some t => t.grids.any d.stopped | none => false
      let d := if action = 1 then d.dropLoops r.thr else d
      Dev.gcThread (d.modThr r.thr (fun th =>
        let th := if action = 1 then th.setNest (th.nest.follow (d.tagWidths th) 0x30) else th
        { th with rcd := none, argLoad := false, next := some at_, resumeAt := none, st := if stopped then .stopped else .run, prior := .run })) r.thr

/-! ### Pending faults (02 R27, R32, 11 R335) -/

/-- Containment of a kernel (11 R335): the threads of its groups end and the groups are marked FAILED; a thread whose instance
holds a performed atomic ends when that instance has committed. -/
def Dev.contain (d : Dev) (c kslot : Nat) : Dev :=
  let d := d.modCtx c (fun k => { k with kernels := k.kernels.set kslot { k.kernels.get kslot {} with contained := true } })
  let gs := (d.groups.filter (fun g => g.ctx == c && bits g.handle 7 0 == kslot)).map (fun g => g.gid)
  let ts := d.threads.filter (fun p => p.2.ctx == c && gs.contains p.2.gid && !p.2.ended)
  let d := { d with groups := d.groups.map (fun g => if g.ctx == c && gs.contains g.gid then { g with failed := true } else g) }
  ts.foldl (fun d p =>
    match (d.instsOf p.1).find? (fun q => 0 < q.2.atomics) with
    | some q => (d.flushFrom p.1 (q.2.seq + 1)).modThr p.1 (fun th => { th with endAfter := true, next := none })
    | none => d.endThread p.1 true) d

/-- The fault an oldest instance holds is raised: a page fault takes its slot to PAGE, and any other fault stops the thread
(02 R27, R32). -/
def W.raise (w : W) (iid : Nat) : W :=
  match w.d.inst iid with
  | none => w
  | some x =>
    match x.pend, w.d.thr x.thr with
    | some p, some t =>
      if !w.d.isOldest x || x.running then w
      else
        let d := w.d.flushFrom x.thr (x.seq + 1)
        let d := d.undoMatrix x
        let d := { d with insts := d.insts.erase iid }
        let d := d.modThr x.thr (fun th => { th with
          seq := x.seq - 1, fTag := x.preTag, fDepth := x.preDepth, loops := x.preLoops, next := none })
        let d := d.gcPlanes x.grid
        let w := { w with d := d }
        match p.cause, x.page with
        | .pageAbsent, some n =>
          let open_ := d.preqs.any (fun r => r.num == n)
          { w with d := (d.modThr x.thr (fun th =>
              if open_ then { th with st := .page, stSince := d.cycle, pageReq := some n, resumeAt := some x.blk }
              else { th with next := some x.blk })).gcThread x.thr }
        | .codeIntegrity, _ =>
          let kslot := match d.group t.ctx t.gid with | some g => bits g.handle 7 0 | none => 0
          if ((d.ctx t.ctx).cfg.headD 0#64).getLsbD 9 then
            if ((d.ctx t.ctx).kernels.get kslot {}).contained then { w with d := d.endThread x.thr true }
            else
              let w := w.threadFault x.thr p x.blk x.atomics true
              { w with d := (w.d.contain t.ctx kslot) }
          else w.threadFault x.thr p x.blk x.atomics
        | _, _ => w.threadFault x.thr p x.blk x.atomics
    | _, _ => w

end Sys2Proof.Machine
end

