-- ==== Sys2Proof/Machine/Lsq.lean ====
section
/-!
DEFINITION. The load-store queue (02 R33-R34, 08 R227-R232, 09 R266, R269): filling LSIDs, what a load waits for, where its
bytes come from, the checks of an access, and violations.
-/

namespace Sys2Proof.Machine

/-- EXIT_CONFLICT held against an instance (02 R26, 10 R306): output kind 0 write entry, 1 LSID, 2 exit, 3 operand. -/
def Dev.conflict (d : Dev) (iid kind entry operand : Nat) : Dev :=
  d.hold iid { cause := .exitConflict, w3 := BitVec.ofNat 64 (kind + entry * 2 ^ 8 + operand * 2 ^ 16) }

/-- A store-class instruction done with its firing: its LSID is filled (once: a second fill is EXIT_CONFLICT), and its effect,
if any, stands until the commit (08 R227-R228). -/
def Dev.fillStore (d : Dev) (c : Firing) (l : Nat) (eff : Option Eff) (acc : Option Access) (o : Out) : Dev :=
  if c.x.lsids.contains l then d.conflict c.iid 1 l 0
  else
    d.emit { c with x := { c.x with
      lsids := l :: c.x.lsids,
      effs := c.x.effs ++ (eff.map (fun e => (l, c.idx, e))).toList,
      accs := c.x.accs ++ acc.toList } } o

/-- A memory instruction of the store class: what the predicate and the nulls leave of it nullifies its LSID (04 R91,
08 R228). -/
def fireStore (i : Instr) (l : Nat) (g : W → Firing → Thread → W) (w : W) : W :=
  match w.d.firing with
  | none => w
  | some c =>
    match w.d.thr c.x.thr with
    | none => w
    | some t =>
      if !c.ops.holds (prOf i) then { w with d := w.d.fillStore c l none none {} }
      else if c.ops.anyNull then { w with d := w.d.fillStore c l none none { toks := nullsTo i } }
      else g w c t

/-- A memory instruction of the load class or unordered, or any instruction that reads more than its operands. -/
def fireLoad (i : Instr) (g : W → Firing → Thread → Dev) (w : W) : Dev :=
  match w.d.firing with
  | none => w.d
  | some c =>
    match w.d.thr c.x.thr with
    | none => w.d
    | some t =>
      if !c.ops.holds (prOf i) then w.d.emit c {}
      else if c.ops.anyNull then w.d.emit c { toks := nullsTo i }
      else g w c t

/-- The same for an instruction that reads lines at their points: a fill may write a line of the host window back (18 R475). -/
def fireFill (i : Instr) (g : W → Firing → Thread → W) (w : W) : W :=
  match w.d.firing with
  | none => w
  | some c =>
    match w.d.thr c.x.thr with
    | none => w
    | some t =>
      if !c.ops.holds (prOf i) then { w with d := w.d.emit c {} }
      else if c.ops.anyNull then { w with d := w.d.emit c { toks := nullsTo i } }
      else g w c t

/-! ### What a load waits for -/

/-- The ORD of an atomic. -/
def ordOf (i : Instr) : Option (BitVec 2) :=
  match i with
  | .amoAdd f => some f.ord | .amoFadd f => some f.ord | .amoMin f => some f.ord | .amoMax f => some f.ord
  | .amoAnd f => some f.ord | .amoOr f => some f.ord | .amoXor f => some f.ord | .amoSwap f => some f.ord
  | .amoCas f => some f.ord | .amoInc f => some f.ord | .amoDec f => some f.ord
  | _ => none

/-- An acquire (09 R269): `lda`, a fence of KIND 1 or 3, an atomic with ORD 01 or 11. -/
def isAcquire (i : Instr) : Bool :=
  match i with
  | .lda _ => true
  | .fence f => f.ty == 1#4 || f.ty == 3#4
  | i => match ordOf i with | some o => o.getLsbD 0 | none => false

/-- Every LSID of the store class below one is filled (02 R33). -/
def Inst.storesBelow (x : Inst) (b : Block) (l : Nat) : Bool :=
  (List.range l).all (fun k => !b.storeMask.testBit k || x.lsids.contains k)
/-- Every store of an instance is resolved: its LSIDs of the store class are filled, and the steps of its `mst` have started
(02 R34, 07 R199). -/
def Inst.storesDone (x : Inst) : Bool :=
  match x.code with
  | some b => x.storesBelow b 32 && b.slots.all (fun s => match s.2 with
    | .mst _ => x.fired.contains s.1 && x.msteps.all (fun m => m.idx != s.1 || m.st != .waiting)
    | _ => true)
  | none => false
/-- Every acquire of lower LSID of the instance has been performed (09 R269). -/
def Inst.acquiresBelow (x : Inst) (b : Block) (l : Nat) : Bool :=
  b.slots.all (fun s => match lsidOf s.2 with
    | some k => !(isAcquire s.2 && decide (k < l)) || (x.fired.contains s.1 && !x.acquires.contains k)
    | none => true)
/-- Every load of lower LSID of the instance has fired. -/
def Inst.loadsBelow (x : Inst) (b : Block) (l : Nat) : Bool :=
  b.slots.all (fun s => match lsidOf s.2 with
    | some k => !(memClass s.2 == .load && decide (k < l)) || x.fired.contains s.1
    | none => true)

/-- The highest LSID below one whose store gives a byte. -/
def Inst.source (x : Inst) (below a : Nat) : Option Nat :=
  ((x.accs.filter (fun s => s.isStore && s.scratch.isNone && decide (s.lsid < below) && (cellAt s.bytes a).isSome)).map
    (fun s => s.lsid)).max?
/-- An effect that is an atomic to be performed before the commit (08 R258): it acquires, or sends its old value. -/
def Block.amoPending (b : Block) (e : Nat × Nat × Eff) : Bool :=
  match e.2.2 with
  | .amo _ _ _ ord _ _ _ => ord.getLsbD 0 || (match b.instr e.2.1 with | some i => (targets i).any (fun t => tgtKind t != 0) | none => false)
  | _ => false
/-- A load of an instance takes a byte from an atomic of its own instance that is still to be performed: it waits for it. -/
def Inst.owed (x : Inst) (b : Block) (l : Nat) (as : List Nat) : Bool :=
  as.any (fun a => match x.source l a with
    | some k => x.effs.any (fun e => e.1 == k && b.amoPending e)
    | none => false)

/-- A predictor entry makes a load wait for every older store (02 R34). -/
def Dev.predicted (d : Dev) (x : Inst) (l : Nat) : Bool :=
  (d.grid x.grid).pred.any (fun e => e.blk == x.blk && e.lsid == l)

/-- A load of an LSID may be performed: R33, R34, R269, R449 (a merge awaited by the thread's younger instances). -/
def Dev.mayLoad (d : Dev) (c : Firing) (t : Thread) (l : Nat) : Bool :=
  c.x.storesBelow c.code l && c.x.acquiresBelow c.code l &&
    (!d.predicted c.x l || (d.olderOf c.x).all (fun p => p.2.storesDone)) &&
    (match t.joinWait with | some s => decide (c.x.seq ≤ s) | none => true)

/-! ### Where bytes come from (02 R33) -/

/-- The byte a store of one instance gives, of LSIDs below one: the highest such LSID. -/
def storeByte (x : Inst) (below : Nat) (scr : Option Nat) (a : Nat) : Option Byte :=
  (x.accs.foldl (fun (acc : Option (Nat × Byte)) s =>
    if s.isStore && s.scratch == scr && decide (s.lsid < below) then
      match cellAt s.bytes a with
      | some b => (match acc with | some (l, _) => if l < s.lsid then some (s.lsid, b) else acc | none => some (s.lsid, b))
      | none => acc
    else acc) none).map Prod.snd

/-- The byte forwarded to a load: from its own instance's lower LSIDs, else from the youngest older instance that stores it. -/
def Dev.fwdByte (d : Dev) (x : Inst) (l : Nat) (scr : Option Nat) (a : Nat) : Option Byte :=
  match storeByte x l scr a with
  | some b => some b
  | none =>
    ((d.instsOf x.thr).filter (fun p => decide (p.2.seq < x.seq))).foldl
      (fun acc p => match storeByte p.2 256 scr a with | some b => some b | none => acc) none

/-- Bytes of global addresses as a thread's load reads them, each line through its access grid (09 R262), with what stands in the
buffers of its own streams (09 R266). -/
def W.readLines (w : W) (t : Thread) (rnum : Nat) (ls : List Nat) : Rd (List (Nat × List Byte)) × W :=
  match ls with
  | [] => (.ok [], w)
  | l :: r =>
    match w.l1Read t.ctx rnum (t.accessGrid (32 * l)) l with
    | (.ok bs, w) =>
      let own := cellsIn l t.coalesced
      let bs := if own.isEmpty then bs else (List.range 32).map (fun i => (cellAt own (32 * l + i)).getD (bs.getD i 0#8))
      (match W.readLines w t rnum r with
        | (.ok q, w) => (.ok ((l, bs) :: q), w)
        | e => e)
    | (.absent, w) => (.absent, w)
    | (.waits, w) => (.waits, w)
    | (.ecc, w) => (.ecc, w)
    | (.lost, w) => (.lost, w)
    | (.noRegion, w) => (.noRegion, w)

/-- The cells of global addresses as a load of an instance sees them. -/
def W.loadCells (w : W) (x : Inst) (t : Thread) (l : Nat) (as : List Nat) : Rd (List Host.Cell) × W :=
  match w.readLines t (w.d.rnumOf t) ((as.map lineOf).eraseDups) with
  | (.ok lines, w) =>
    (.ok (as.map (fun a =>
      let m := ((lines.find? (fun q => q.1 == lineOf a)).map (fun q => q.2.getD (a % 32) 0#8)).getD 0#8
      (a, (w.d.fwdByte x l none a).getD m))), w)
  | (.absent, w) => (.absent, w)
  | (.waits, w) => (.waits, w)
  | (.ecc, w) => (.ecc, w)
  | (.lost, w) => (.lost, w)
  | (.noRegion, w) => (.noRegion, w)

/-- The cells of scratchpad keys as a load of an instance sees them: its thread's stores on their way come first. -/
def W.loadSp (w : W) (x : Inst) (g l : Nat) (ks : List Nat) : List Host.Cell :=
  let way := (w.d.spStores.filter (fun s => s.thr == x.thr)).flatMap (fun s => s.bytes)
  ks.map (fun k => (k, (w.d.fwdByte x l (some g) k).getD ((cellAt way k).getD (w.rd k))))

/-! ### Checks of an access (08 R224, R225, R229, R230) -/

/-- What a check finds. -/
inductive Chk where
  | ok
  | fault (c : Cause)
deriving DecidableEq, Repr

/-- Address bits, alignment, domain and rights of an access of n bytes, in this order. -/
def W.check (w : W) (t : Thread) (need : BitVec 3) (a n align : Nat) : Chk × W :=
  if 2 ^ 57 ≤ a ∨ a % align ≠ 0 then (.fault .alignment, w)
  else if !w.inDomain a || (need &&& rW != 0#3 && w.d.wprotected a n) then (.fault .protection, w)
  else
    let r := w.rights (t.accessGrid a) t.ctx a
    if !hasRights r.1 need then (.fault .protection, r.2)
    else if regionNo a = regionNo (a + n - 1) then (.ok, r.2)
    else
      let q := r.2.rights (t.accessGrid (a + n - 1)) t.ctx (a + n - 1)
      (if hasRights q.1 need then .ok else .fault .protection, q.2)

/-- A page marked device-ordered (08 R231). -/
def W.deviceOrdered (w : W) (t : Thread) (a : Nat) : Bool :=
  match w.translate t.ctx (w.d.rnumOf t) a with
  | .ok _ w0 => entBit w0 58
  | _ => false

/-- Presence of the page of an access that no L1 line holds (08 R229): the answer of the translation, which fills its cache where
the L2 does not hold the line either (08 R226). -/
def W.probe (w : W) (t : Thread) (a : Nat) : Tr × W :=
  let rid := (w.d.ctx t.ctx).ridOf (w.d.rnumOf t) a
  match (w.d.grid (t.accessGrid a)).l1Find (lineOf a) rid with
  | some _ => (.ok 0 0, w)
  | none => (w.translate t.ctx (w.d.rnumOf t) a, if (w.d.l2Find (lineOf a) rid).isSome then w else w.touch a)

/-- The byte that the failure of a read is about: the first whose page is not there or whose home is not reached, else the
first of all (02 R32, 10 R306). -/
def W.failAt (w : W) (t : Thread) (as : List Nat) : Nat :=
  (as.find? (fun x => w.reach x != .served || (match w.translate t.ctx (w.d.rnumOf t) x with
    | .ok _ _ => false
    | _ => true))).getD (as.headD 0)

/-- What a read that is not answered leads to: a page fault, a wait, DATA_ECC or LINK_LOST (08 R259). -/
def Rd.fail {α : Type} (r : Rd α) (w : W) (c : Firing) (a write : Nat) : Dev :=
  match r with
  | .ok _ => w.d
  | .absent => w.pageFault c.iid a write
  | .waits =>
    if w.reach a == .unanswered && !w.d.remotes.any (fun q => q.kind == .access c.iid c.idx) then
      { w.d with remotes := w.d.remotes ++ [(⟨.access c.iid c.idx, w.d.ctxOf c.x, pkgOf a, 0, a, w.d.now⟩ : Remote)] }
    else w.d
  | .ecc => w.d.holdAt c .dataEcc a write 0
  | .lost => w.d.holdAt c .linkLost a write 0
  | .noRegion => w.d.holdAt c .protection a write 0

/-! ### Scratchpad addresses (08 R220) -/

/-- `.scratch` bytes of the kernel of a thread's group. -/
def Dev.scratchSize (d : Dev) (t : Thread) : Nat :=
  match d.group t.ctx t.gid with
  | some g => ((d.ctx t.ctx).kernels.get (bits g.handle 7 0) {}).scratch
  | none => 0
/-- The window base of a thread's group. -/
def Dev.window (d : Dev) (t : Thread) : Nat := match d.group t.ctx t.gid with | some g => g.scratch | none => 0

/-- Grid and key of n bytes at a scratchpad address, if it lies in the window: reserved bits zero, CG below w. -/
def Dev.spAddr (d : Dev) (t : Thread) (a n : Nat) : Option (Nat × Nat) :=
  let offs := a % 2 ^ 21
  let cg := a / 2 ^ 24 % 16
  if 2 ^ 28 ≤ a ∨ a / 2 ^ 21 % 8 ≠ 0 ∨ t.width ≤ cg ∨ d.scratchSize t < offs + n then none
  else some (t.first + cg, spKey (t.first + cg) (d.window t + offs))

/-- An uncorrectable error stands in n bytes at a scratchpad key (08 R259). -/
def W.spPoison (w : W) (k n : Nat) : Bool := w.d.poison.any (fun p => decide (k ≤ p) && decide (p < k + n))

/-- The destination bytes of a scratchpad copy overlap n bytes at a key (08 R251). -/
def CopyDesc.covers (c : CopyDesc) (key n : Nat) : Bool :=
  let i := if key < c.dst + c.rowLen then 0 else (key - c.dst - c.rowLen) / c.dpitch + 1
  c.dspace == .scratch && decide (i < c.rows) && decide (key < c.dst + i * c.dpitch + c.rowLen) &&
    decide (c.dst + i * c.dpitch < key + n)

/-- The copy that an effect issues. -/
def effCopy (e : Eff) : Option CopyDesc :=
  match e with
  | .copy c => some c
  | _ => none

/-- A range of the scoreboard stalls an access (08 R251): of an older uncommitted instance of its thread, or of a copy that
has been issued and has not retired. -/
def Dev.stalled (d : Dev) (x : Inst) (key n : Nat) : Bool :=
  d.copies.any (fun c => c.d.covers key n) ||
    (d.olderOf x).any (fun p => p.2.effs.any (fun e => match effCopy e.2.2 with | some c => c.covers key n | none => false))

/-! ### Violations -/

/-- Loads of instances younger than a sequence number that read a byte of some addresses: instance and LSID, oldest first. -/
def Dev.youngLoads (d : Dev) (t seq : Nat) (scr : Option Nat) (as : List Nat) : List (Inst × Nat) :=
  ((d.instsOf t).filter (fun p => decide (seq < p.2.seq))).flatMap (fun p =>
    (p.2.accs.filter (fun a => !a.isStore && a.scratch == scr && a.bytes.any (fun b => as.contains b.1))).map
      (fun a => (p.2, a.lsid)))

/-- A predictor entry set (02 R34). DESIGN CHOICE: of 1,024 entries the one set longest ago gives way (log 80). -/
def Grid.predict (g : Grid) (blk l : Nat) : Grid :=
  let rest := g.pred.filter (fun e => !(e.blk == blk && e.lsid == l))
  { g with pred := (rest ++ [(⟨blk, l, g.commits⟩ : PredEnt)]).drop (rest.length + 1 - Config.predEntries) }

/-- A store resolves its bytes: a younger load that has read one of them is flushed with everything after it, and waits when
it runs again (02 R34). -/
def Dev.violate (d : Dev) (x : Inst) (scr : Option Nat) (as : List Nat) : Dev :=
  match d.youngLoads x.thr x.seq scr as with
  | [] => d
  | (y, l) :: _ => ((d.flushFrom x.thr y.seq).modGrid y.grid (fun g => g.predict y.blk l))

/-- Bytes that a load has read although a program-order-later load of the thread read another value before (09 R266): the
oldest instance to be flushed; `own` says it is the reader itself. -/
def Dev.incoherent (d : Dev) (x : Inst) (l : Nat) (scr : Option Nat) (cs : List Host.Cell) : Option Nat :=
  let bad := fun (y : Inst) (a : Access) =>
    !a.isStore && a.scratch == scr && a.bytes.any (fun b =>
      match cellAt cs b.1 with
      | some v => v != b.2 && (d.fwdByte y a.lsid scr b.1).isNone
      | none => false)
  if x.accs.any (fun a => decide (l < a.lsid) && bad x a) then some x.seq
  else ((((d.instsOf x.thr).filter (fun p => decide (x.seq < p.2.seq))).find? (fun p => p.2.accs.any (bad p.2))).map
    (fun p => p.2.seq))

/-- A load performed: its access is recorded and its token sent; younger instances that read older values are fetched
again. -/
def Dev.loadDone (d : Dev) (c : Firing) (l : Nat) (scr : Option Nat) (cs : List Host.Cell) (o : Out) : Dev :=
  match d.incoherent c.x l scr cs with
  | some s =>
    if s = c.x.seq then d.flushFrom c.x.thr s
    else (d.flushFrom c.x.thr s).emit { c with x := { c.x with accs := c.x.accs ++ [⟨l, c.idx, cs, false, scr⟩] } } o
  | none => d.emit { c with x := { c.x with accs := c.x.accs ++ [⟨l, c.idx, cs, false, scr⟩] } } o

/-- Instances younger than an acquire that have performed a load are fetched again (09 R269). -/
def Dev.acquireFlush (d : Dev) (x : Inst) : Dev :=
  match ((d.instsOf x.thr).filter (fun p => decide (x.seq < p.2.seq))).find? (fun p => p.2.accs.any (fun a => !a.isStore)) with
  | some p => d.flushFrom x.thr p.2.seq
  | none => d

end Sys2Proof.Machine
end

