-- ==== Sys2Proof/Machine/LoadStore.lean ====
section
/-!
DEFINITION. Loads, stores, gathers, scratchpad accesses, prefetch, fences and cache control (08 R233-R234, R244-R246,
09 R268-R270).
-/

namespace Sys2Proof.Machine

/-- The address of a memory instruction: lane 0 of `a` plus the signed OFFS, modulo 2^64 (08 R224). -/
def memAddr (a : Word) (offs : Int) : Nat := (((a.toNat : Int) + offs) % (2 ^ 64 : Nat)).toNat
/-- OFFS of a format M word. -/
def mOff (f : FmtM) : Int := f.offs.toInt
/-- Bytes of an element of a type. -/
def elBytes (ty : BitVec 4) : Nat := tyBits ty / 8
/-- Consecutive addresses. -/
def span (a n : Nat) : List Nat := (List.range n).map (fun i => a + i)
/-- The token of 64 bytes in address order. -/
def vecOfBytes (bs : List Byte) : Vec := BitVec.ofNat 512 (ofBytes bs)
/-- The bytes of a token. -/
def bytesOfVec (v : Vec) : List Byte := (List.range 64).map (fun i => v.extractLsb' (8 * i) 8)

/-- An instance has to be the oldest for a device-ordered page (08 R231). -/
def W.mayDevice (w : W) (c : Firing) (t : Thread) (a : Nat) : Bool := !w.deviceOrdered t a || w.d.isOldest c.x

/-- The lines of an acquire made ready (09 R269): at PACKAGE scope or wider its grids drop their unowned copies, and at DOMAIN
scope or wider the L2 gives those of another package to their home, so that the read is served there (09 R263). -/
def W.acquireLines (w : W) (t : Thread) (scope a n : Nat) : W :=
  let hit := fun (line : Nat) => decide (lineOf a ≤ line) && decide (line ≤ lineOf (a + n - 1))
  let w := if 2 ≤ scope then { w with d := w.d.dropUnowned t.grids (fun q => hit q.line) } else w
  if 3 ≤ scope then
    let far := fun (line : Nat) => hit line && w.isRemote (32 * line)
    let w := w.l2Flush t.ctx false far
    { w with d := { w.d with l2 := w.d.l2.filter (fun q => !(far q.line && q.dirty == 0#32)) } }
  else w

/-- A load of 64 bytes (08 R233): `acq` is the scope of an acquire. -/
def loadVec (f : FmtM) (acq : Option Nat) (w : W) (c : Firing) (t : Thread) : W :=
  let l := f.lsid.toNat
  let a := memAddr c.ops.a0 (mOff f)
  if !w.d.mayLoad c t l then w
  else
    match w.check t rR a 64 (elBytes f.ty) with
    | (.fault q, w) => { w with d := w.d.holdAt c q a 0 0 }
    | (.ok, w) =>
      if !w.mayDevice c t a || !w.mayDevice c t (a + 63) || c.x.owed c.code l (span a 64) then w
      else
        let w := match acq with
          | some s => w.acquireLines t s a 64
          | none => w
        match w.loadCells c.x t l (span a 64) with
        | (.ok cs, w) =>
          let d := w.d.loadDone c l none cs { toks := [(f.t0, .val (vecOfBytes (cs.map Prod.snd)))] }
          (match acq with
            | some s =>
              let w := { w with d := d }.acquireBy s t.grids
              { w with d := w.d.acquireFlush c.x }
            | none => { w with d := d })
        | (r, w) => { w with d := r.fail w c (w.failAt t (span a 64)) 0 }

/-- LD (R233). -/
def execLd (f : FmtM) (s : State) : Host.Outcome State Fault Refusal :=
  run (fireFill (.ld f) (loadVec f none)) s
/-- LDA (R233, R269): an acquire at SCOPE. -/
def execLda (f : FmtM) (s : State) : Host.Outcome State Fault Refusal :=
  run (fireFill (.lda f) (loadVec f (some f.scope.toNat))) s

/-- The cells a store of a token writes: the lanes that `c` chooses (08 R233). -/
def storeCells (ty : BitVec 4) (o : Opnds) (a : Nat) : List Host.Cell :=
  let n := elBytes ty
  let bs := bytesOfVec o.vb
  ((List.range 64).filter (fun i => o.c.isNone || o.vc.getLsbD (i / n))).map (fun i => (a + i, bs.getD i 0#8))

/-- The pages of n bytes probed (08 R229): the work area to go on with, or the device where the access ends. -/
def W.presence (w : W) (c : Firing) (t : Thread) (a n write : Nat) : Except Dev W :=
  match w.probe t a with
  | (.ok _ _, w) =>
    (match w.probe t (a + n - 1) with
      | (.ok _ _, w) => .ok w
      | (.absent, w) => .error (w.pageFault c.iid (a + n - 1) write)
      | (.waits, w) => .error w.d
      | (.noRegion, w) => .error (w.d.holdAt c .protection (a + n - 1) write 0))
  | (.absent, w) => .error (w.pageFault c.iid a write)
  | (.waits, w) => .error w.d
  | (.noRegion, w) => .error (w.d.holdAt c .protection a write 0)

/-- A store's check and page probe (08 R229): the work area to go on with, or the device where it ends. -/
def W.storeCheck (w : W) (c : Firing) (t : Thread) (a n align : Nat) (need : BitVec 3 := rW) : Except Dev W :=
  match w.check t need a n align with
  | (.fault q, w) => .error (w.d.holdAt c q a 1 0)
  | (.ok, w) => w.presence c t a n 1

/-- A store of a token (08 R233); it is performed at the commit. `rel` is the scope of a release. -/
def storeVec (f : FmtM) (rel : Nat) (w : W) (c : Firing) (t : Thread) : W :=
  let l := f.lsid.toNat
  let a := memAddr c.ops.a0 (mOff f)
  match w.storeCheck c t a 64 (elBytes f.ty) with
  | .error d => { w with d := d }
  | .ok w =>
    let cs := storeCells f.ty c.ops a
    let d := w.d.violate c.x none (cs.map Prod.fst)
    { w with d := d.fillStore c l (some (.store cs rel)) (some ⟨l, c.idx, cs, true, none⟩) {} }

/-- ST (R233). -/
def execSt (f : FmtM) (s : State) : Host.Outcome State Fault Refusal :=
  runR (fun w => (fireStore (.st f) f.lsid.toNat (storeVec f 0) w).d) s
/-- STL (R233, R268): a release at SCOPE. -/
def execStl (f : FmtM) (s : State) : Host.Outcome State Fault Refusal :=
  runR (fun w => (fireStore (.stl f) f.lsid.toNat (storeVec f f.scope.toNat) w).d) s

/-! ### Gather and scatter (08 R234) -/

/-- The address of each active lane; none for a lane whose index is the least of its type. -/
def gatherAddrs (f : FmtM) (a0 : Word) (b : Vec) : List (Option Nat) :=
  let n := tyBits f.ty
  (lanes n b).map (fun i =>
    if i = 2 ^ (n - 1) then none
    else some (((((a0.toNat : Int) + (mOff f) + sgn n i * (n / 8 : Nat)) % (2 ^ 64 : Nat))).toNat))

/-- LDG (R234): each active lane is an access of its own; the lowest faulting lane is recorded. -/
def execLdg (f : FmtM) (s : State) : Host.Outcome State Fault Refusal :=
  run (fireFill (.ldg f) fun w c t =>
    let l := f.lsid.toNat
    let n := elBytes f.ty
    let as := gatherAddrs f c.ops.a0 c.ops.vb
    if !w.d.mayLoad c t l then w
    else
      -- lane by lane: the cells read so far, or the work area where the instruction ends
      let r := as.foldl (fun (acc : Except W (List (List Host.Cell) × W)) a =>
        match acc, a with
        | .error w, _ => .error w
        | .ok (q, w), none => .ok (q ++ [[]], w)
        | .ok (q, w), some a =>
          match w.check t rR a n n with
          | (.fault e, w) => .error { w with d := w.d.holdAt c e a 0 0 }
          | (.ok, w) =>
            if !w.mayDevice c t a || c.x.owed c.code l (span a n) then .error w
            else
              match w.loadCells c.x t l (span a n) with
              | (.ok cs, w) => .ok (q ++ [cs], w)
              | (e, w) => .error { w with d := e.fail w c a 0 }) (.ok ([], w))
      match r with
      | .error w => w
      | .ok (q, w) =>
        let out : Out := { toks := [(f.t0, .val (ofLanes (8 * n) (q.map (fun cs => ofBytes (cs.map Prod.snd)))))] }
        { w with d := w.d.loadDone c l none q.flatten out }) s

/-- STG (R234): lanes are written in increasing order at the commit. -/
def execStg (f : FmtM) (s : State) : Host.Outcome State Fault Refusal :=
  runR (fun w => (fireStore (.stg f) f.lsid.toNat (fun w c t =>
    let l := f.lsid.toNat
    let n := elBytes f.ty
    let vs := lanes (8 * n) c.ops.vc
    let r := (gatherAddrs f c.ops.a0 c.ops.vb).zipIdx.foldl (fun (acc : Except Dev (List Host.Cell × W)) p =>
      match acc, p.1 with
      | .error d, _ => .error d
      | .ok q, none => .ok q
      | .ok (q, w), some a =>
        match w.storeCheck c t a n n with
        | .error d => .error d
        | .ok w => .ok (q ++ cellsAt a (leBytes n (vs.getD p.2 0)), w)) (.ok ([], w))
    match r with
    | .error d => { w with d := d }
    | .ok (cs, w) =>
      let d := w.d.violate c.x none (cs.map Prod.fst)
      { w with d := d.fillStore c l (some (.store cs 0)) (some ⟨l, c.idx, cs, true, none⟩) {} }) w).d) s

/-! ### Scratchpad (08 R220, R233, R251) -/

/-- LDSP (R233). -/
def execLdsp (f : FmtM) (s : State) : Host.Outcome State Fault Refusal :=
  runR (fireLoad (.ldsp f) fun w c t =>
    let l := f.lsid.toNat
    let a := memAddr c.ops.a0 (mOff f)
    if !w.d.mayLoad c t l then w.d
    else if a % elBytes f.ty ≠ 0 then w.d.holdAt c .alignment a 0 0
    else
      match w.d.spAddr t a 64 with
      | none => w.d.holdAt c .protection a 0 0
      | some (g, k) =>
        if w.d.stalled c.x k 64 then w.d
        else if w.spPoison k 64 then w.d.holdAt c .dataEcc a 0 0
        else
          let cs := w.loadSp c.x g l (span k 64)
          w.d.loadDone c l (some g) cs { toks := [(f.t0, .val (vecOfBytes (cs.map Prod.snd)))] }) s

/-- STSP (R233). -/
def execStsp (f : FmtM) (s : State) : Host.Outcome State Fault Refusal :=
  runR (fun w => (fireStore (.stsp f) f.lsid.toNat (fun w c t =>
    let l := f.lsid.toNat
    let a := memAddr c.ops.a0 (mOff f)
    if a % elBytes f.ty ≠ 0 then { w with d := w.d.holdAt c .alignment a 1 0 }
    else
      match w.d.spAddr t a 64 with
      | none => { w with d := w.d.holdAt c .protection a 1 0 }
      | some (g, k) =>
        if w.d.stalled c.x k 64 then w
        else
          let cs := storeCells f.ty c.ops k
          let d := w.d.violate c.x (some g) (cs.map Prod.fst)
          { w with d := d.fillStore c l (some (.spStore g cs)) (some ⟨l, c.idx, cs, true, some g⟩) {} }) w).d) s

/-! ### Prefetch, fences, cache control -/

/-- PREF (R244): the line into L1 (TY 0) or L2 (TY 1); dropped on a missing right, an absent or device-ordered page, or
another package. -/
def execPref (f : FmtM) (s : State) : Host.Outcome State Fault Refusal :=
  run (fireFill (.pref f) fun w c t =>
    let a := memAddr c.ops.a0 (mOff f)
    let done := fun (w : W) => { w with d := w.d.emit c {} }
    if 2 ^ 57 ≤ a ∨ w.isRemote a then done w
    else
      match w.check t rR a 1 1 with
      | (.fault _, w) => done w
      | (.ok, w) =>
        if w.deviceOrdered t a then done w
        else if f.ty = 0#4 then done (w.l1Read t.ctx (w.d.rnumOf t) (t.accessGrid a) (lineOf a)).2
        else done (w.home t.ctx (w.d.rnumOf t) (lineOf a)).2) s

/-- FENCE (R245, R268-R270). KIND 1 acquires when it fires, after the loads before it; KIND 2 releases at the commit; KIND 3
does both, and fires only when every write of every older instance can be, and then has been, performed at the scope's points. -/
def execFence (f : FmtM) (s : State) : Host.Outcome State Fault Refusal :=
  run (fun w =>
    let l := f.lsid.toNat
    let sc := f.scope.toNat
    let loadsDone := fun (d : Dev) (c : Firing) =>
      c.x.loadsBelow c.code l && (d.olderOf c.x).all (fun p => match p.2.code with
        | some b => p.2.loadsBelow b 32
        | none => false)
    if f.ty = 1#4 then
      { w with d := fireLoad (.fence f) (fun w c t =>
        if !loadsDone w.d c then w.d
        else ((w.acquireBy sc t.grids).d.acquireFlush c.x).emit c {}) w }
    else
      fireStore (.fence f) l (fun w c t =>
        if f.ty = 2#4 then { w with d := w.d.fillStore c l (some (.fence f.ty sc)) none {} }
        else if !w.d.isOldest c.x || !loadsDone w.d c || w.relWaits sc t.grids then w
        else
          let w := w.releaseNow c.x.thr t.ctx sc t.grids
          let w := w.acquireBy sc t.grids
          { w with d := (w.d.acquireFlush c.x).fillStore c l (some (.fence f.ty sc)) none {} }) w) s

/-- The checks of `cwb` and `cinv` (R246): the length, then the W right on the range. -/
def cacheRange (f : FmtM) (eff : Nat → Nat → Eff) (w : W) (c : Firing) (t : Thread) : W :=
  let a := memAddr c.ops.a0 (mOff f)
  let n := c.ops.b0.toNat
  if n = 0 ∨ 2 ^ 32 < n then { w with d := w.d.holdAt c .protection a 1 0 }
  else if 2 ^ 57 ≤ a then { w with d := w.d.holdAt c .alignment a 1 0 }
  else if !w.inDomain a then { w with d := w.d.holdAt c .protection a 1 0 }
  else
    let r := w.rightsAll t.first t.ctx 2 a n
    if !r.1 then { w with d := r.2.d.holdAt c .protection a 1 0 }
    else { w with d := r.2.d.fillStore c f.lsid.toNat (some (eff a n)) none {} }

/-- CWB (R246). -/
def execCwb (f : FmtM) (s : State) : Host.Outcome State Fault Refusal :=
  runR (fun w => (fireStore (.cwb f) f.lsid.toNat (cacheRange f (.cwb f.scope.toNat)) w).d) s
/-- CINV (R246). -/
def execCinv (f : FmtM) (s : State) : Host.Outcome State Fault Refusal :=
  runR (fun w => (fireStore (.cinv f) f.lsid.toNat (cacheRange f (.cinv f.scope.toNat)) w).d) s

end Sys2Proof.Machine
end

