-- ==== Sys2Proof/Machine/Replay.lean ====
section
/-!
DEFINITION. Recording and replay (19 R503-R504): the events an instance records at its commit, and what a replay prescribes.
-/

namespace Sys2Proof.Machine

/-- Fold of a value (R503). -/
def foldVec (v : Vec) : Word := (List.range 8).foldl (fun h k => h.rotateLeft 7 ^^^ vlane v k) 0#64

/-- The recorder of a context is writing events (mode 1) or comparing them (mode 2). -/
def Dev.recording (d : Dev) (c : Nat) : Bool :=
  (d.ctx c).recd.armed && ((d.ctx c).recd.mode == 1 || (d.ctx c).recd.mode == 2)

/-- The event of a firing, among the effects of its instance (R503). -/
def Dev.event (d : Dev) (c : Nat) (key idx kind : Nat) (source : Word) (value : Vec) : List (Nat × Nat × Eff) :=
  if d.recording c then [(key, idx, .event kind source value)] else []

/-- The thread's launch: queue number and index (R503), as words 0 of its events have them in [55:14]. -/
def Dev.launchKey (d : Dev) (t : Thread) : Nat :=
  match d.group t.ctx t.gid with
  | some g => g.queue.getD 0 % 2 ^ 10 + g.qindex % 2 ^ 32 * 2 ^ 10
  | none => 0

/-- Word 0 of an event. -/
def Dev.eventHead (d : Dev) (t : Thread) (kind : Nat) : Nat := kind + t.tnum * 2 ^ 8 + d.launchKey t * 2 ^ 14

/-- An n64 word of global memory at its home, as the root revision sees it; zero where it cannot be read. -/
def W.g64 (w : W) (c x : Nat) : Nat :=
  match w.translate c 0 x with
  | .ok k _ => w.rd64 k
  | _ => 0

/-- The events of the recording from an ordinal of a thread on: ordinal, kind, source and fold. -/
def W.recorded (w : W) (t : Thread) : List (Nat × Nat × Word × Word) :=
  let r := (w.d.ctx t.ctx).recd
  let l := (List.range (r.len / 32)).filterMap (fun k =>
    let x := r.base + 32 * k
    let h := w.g64 t.ctx x
    if h / 2 ^ 8 % 2 ^ 48 = w.d.eventHead t 0 / 2 ^ 8 % 2 ^ 48 ∧ h % 256 ≠ 0 then
      some (w.g64 t.ctx (x + 8) % 2 ^ 40, h % 256, BitVec.ofNat 64 (w.g64 t.ctx (x + 16)), BitVec.ofNat 64 (w.g64 t.ctx (x + 24)))
    else none)
  l.filter (fun e => decide (t.ordinal ≤ e.1))

/-- Events of a kind and source that instances of a thread have fired and not committed. -/
def Dev.pendingEvents (d : Dev) (tid : Nat) (kind : Nat) (source : Word) : Nat :=
  ((d.instsOf tid).map (fun p => (p.2.effs.filter (fun e => match e.2.2 with
    | .event k s _ => k == kind && s == source
    | _ => false)).length)).sum

/-- Under replay, the fold of the next event of a kind and source of a thread; none while it runs live (R504). -/
def W.prescribed (w : W) (tid : Nat) (t : Thread) (kind : Nat) (source : Word) : Option Word :=
  if (w.d.ctx t.ctx).recd.armed && (w.d.ctx t.ctx).recd.mode == 2 then
    (((w.recorded t).filter (fun e => e.2.1 == kind && e.2.2.1 == source)).drop (w.d.pendingEvents tid kind source)).head?.map
      (fun e => e.2.2.2)
  else none

/-- Source and fold of the events of a kind that instances of a thread have fired and not committed. -/
def Dev.firedEvents (d : Dev) (tid : Nat) (kind : Nat) : List (Word × Word) :=
  (d.instsOf tid).flatMap (fun p => p.2.effs.filterMap (fun e => match e.2.2 with
    | .event k s v => if k = kind then some (s, foldVec v) else none
    | _ => none))
/-- Under replay, source and fold of the next event of a kind of a thread whose source a test accepts; none while it runs live. -/
def W.nextEvent (w : W) (tid : Nat) (t : Thread) (kind : Nat) (ok : Word → Bool) : Option (Word × Word) :=
  if (w.d.ctx t.ctx).recd.armed && (w.d.ctx t.ctx).recd.mode == 2 then
    ((((w.recorded t).filter (fun e => e.2.1 == kind)).map (fun e => e.2.2)).diff (w.d.firedEvents tid kind)).find? (fun e => ok e.1)
  else none

/-- The first candidate that a replay prescribes, or the first one when it prescribes none. -/
def W.pick (w : W) (tid : Nat) (t : Thread) (kind : Nat) (source : Word) (value : Nat → Vec) (l : List Nat) : Option Nat :=
  match w.prescribed tid t kind source with
  | some f => l.find? (fun k => foldVec (value k) == f)
  | none => l.head?

end Sys2Proof.Machine
end

