-- ==== Sys2Proof/Machine/Streams.lean ====
section
/-!
DEFINITION. Streams and forwarded loads as they fire (08 R235-R243): what a stream holds, which elements an access takes, and
the checks of `scfg` and `ldfwd`. Their effects at the commit are those of `Machine/Commit.lean`.
-/

namespace Sys2Proof.Machine

/-- Elements of a stream in all. -/
def StreamCfg.total (c : StreamCfg) : Nat := c.count0 * c.count1 * c.count2
/-- Address of element n: i0 varies fastest (08 R236). -/
def StreamCfg.addr (c : StreamCfg) (n : Nat) : Nat :=
  let i0 := n % c.count0
  let i1 := n / c.count0 % c.count1
  let i2 := n / (c.count0 * c.count1)
  (((c.base : Int) + i0 * c.stride0 + i1 * c.stride1 + i2 * c.stride2) % (2 ^ 64 : Nat)).toNat
/-- The number in its thread of stream s of an instance (08 R235): streams 0 to 31 are those of core grid 0, and 32·k + s those
of core grid k, on which a resident instance finds them. DESIGN CHOICE: a stream that another thread of the grid has OPEN is
CLOSED for this one, and its `scfg` sends status 2 (log 83). -/
def streamKey (x : Inst) (t : Thread) (s : Nat) : Nat := if x.resident then 32 * (x.grid - t.first) + s else s
/-- Lanes that a position leaves: at most L, and what remains. -/
def StreamCfg.take (c : StreamCfg) (pos l : Nat) : Nat := min l (c.total - pos)

/-- The stream a stream instruction names by its OFFS, if it is one. -/
def streamOf (i : Instr) : Option Nat :=
  match i with
  | .sread f => some (bits f.offs 4 0)
  | .swrite f => some (bits f.offs 4 0)
  | .scfg f => some (bits f.offs 4 0)
  | .sclose f => some (bits f.offs 4 0)
  | _ => none
/-- `scfg` and `sclose`. -/
def opensCloses (i : Instr) : Bool :=
  match i with
  | .scfg _ => true
  | .sclose _ => true
  | _ => false
/-- An effect opens or closes a stream. -/
def effOpens (s : Nat) (e : Eff) : Bool :=
  match e with
  | .scfg n _ _ => n == s
  | .sclose n => n == s
  | _ => false

/-- A stream's state as a younger instance will find it is not known yet: an older instance is not read, has an instruction
on the stream that has not fired, or opens or closes it at its commit; or a hand-over of the stream is awaited (R238). -/
def Dev.streamBusy (d : Dev) (x : Inst) (s : Nat) : Bool :=
  match d.thr x.thr with
  | none => false
  | some t => (t.stream s).configuring.isSome ||
    (d.olderOf x).any (fun p => match p.2.code with
      | none => p.2.pend.isNone
      | some b => b.slots.any (fun q => (match streamOf q.2 with | some n => streamKey p.2 t n == s | none => false) && !p.2.fired.contains q.1) ||
          p.2.effs.any (fun e => effOpens s e.2.2))
/-- A stream instruction of lower LSID of the instance on the stream that OFFS names has not fired. -/
def Inst.streamBelow (x : Inst) (b : Block) (s l : Nat) : Bool :=
  b.slots.any (fun q => streamOf q.2 == some s && !x.fired.contains q.1 &&
    (match lsidOf q.2 with | some k => decide (k < l) | none => false))

/-- Elements that effects not committed take from a stream, or write to it. -/
def effTaken (s : Nat) (e : Eff) : Nat :=
  match e with
  | .sread n k => if n = s then k else 0
  | .swrite n ty _ => if n = s then laneCount ty else 0
  | _ => 0
/-- The position an access of an instance starts at: the committed one, and what older instances and lower LSIDs take. -/
def Dev.streamPos (d : Dev) (x : Inst) (st : Stream) (s l : Nat) : Nat :=
  st.pos + ((d.olderOf x).flatMap (fun p => p.2.effs.map (fun e => effTaken s e.2.2))).sum +
    ((x.effs.filter (fun e => decide (e.1 < l))).map (fun e => effTaken s e.2.2)).sum

/-- The key of an element of a scratchpad stream. -/
def Dev.spKeyAt (d : Dev) (t : Thread) (a n : Nat) : Option Nat := (d.spAddr t a n).map Prod.snd
/-- The keys of k elements of a scratchpad stream from a position on. -/
def Dev.spKeys (d : Dev) (t : Thread) (cfg : StreamCfg) (pos k n : Nat) : List Nat :=
  (List.range k).map (fun i => (d.spKeyAt t (cfg.addr (pos + i)) n).getD (spKey t.first 0))

/-- SREAD (R239): the next L elements; missing lanes are zero; a null past the end or on a CLOSED stream. Elements are read
when `sread` fires (log 16). -/
def execSread (f : FmtM) (s : State) : Host.Outcome State Fault Refusal :=
  run (fireFill (.sread f) fun w c t =>
    let at_ := fun (w : W) (d : Dev) => { w with d := d }
    let sn := streamKey c.x t (bits f.offs 4 0)
    let l := f.lsid.toNat
    let st := t.stream sn
    if !w.d.mayLoad c t l || w.d.streamBusy c.x sn || c.x.streamBelow c.code (bits f.offs 4 0) l then w
    else if !st.isOpen then at_ w (w.d.emit c { toks := [(f.t0, .null)] })
    else if st.cfg.ty ≠ f.ty ∨ st.cfg.write = true then at_ w (w.d.holdAt c .alignment 0 0 0)
    else
      let n := elBytes f.ty
      let pos := w.d.streamPos c.x st sn l
      let k := st.cfg.take pos (laneCount f.ty)
      let c' := { c with x := { c.x with effs := c.x.effs ++ [(l, c.idx, .sread sn k)] } }
      let out := fun (vs : List Nat) => (⟨[(f.t0, .val (ofLanes (8 * n) vs))], 0#6⟩ : Out)
      if k = 0 then at_ w (w.d.emit c { toks := [(f.t0, .null)] })
      else
        match st.cfg.space with
        | .port =>
          let es := (st.arrivals.drop pos).take k
          if es.length < k then w
          else if es.any Prod.snd then at_ w (w.d.holdAt c .dataEcc 0 0 0)
          else at_ w (w.d.emit c' (out (es.map (fun e => e.1.toNat))))
        | .scratch =>
          let ks := w.d.spKeys t st.cfg pos k n
          if ks.any (fun q => w.d.stalled c.x q n) then w
          else if ks.any (fun q => w.spPoison q n) then at_ w (w.d.holdAt c .dataEcc 0 0 0)
          else at_ w (w.d.emit c' (out (ks.map (fun q => ofBytes (w.rds q n)))))
        | _ =>
          let as := (List.range k).map (fun i => st.cfg.addr (pos + i))
          if as.any (fun a => st.latches.any (fun q => q.1 == pageOf a && q.2.2)) then w
          else
            match w.readLines t (w.d.rnumOf t) ((as.map lineOf).eraseDups) with
            | (.ok lines, w) =>
              let byte := fun (a : Nat) => ((lines.find? (fun q => q.1 == lineOf a)).map (fun q => q.2.getD (a % 32) 0#8)).getD 0#8
              at_ w (w.d.emit c' (out (as.map (fun a => ofBytes ((span a n).map byte)))))
            | (r, w) => at_ w (r.fail w c (w.failAt t as) 0)) s

/-- SWRITE (R240): written at the commit; on a CLOSED stream it performs nothing. -/
def execSwrite (f : FmtM) (s : State) : Host.Outcome State Fault Refusal :=
  runR (fun w => (fireStore (.swrite f) f.lsid.toNat (fun w c t =>
    let sn := streamKey c.x t (bits f.offs 4 0)
    let l := f.lsid.toNat
    let st := t.stream sn
    let n := elBytes f.ty
    let pos := w.d.streamPos c.x st sn l
    if w.d.streamBusy c.x sn || c.x.streamBelow c.code (bits f.offs 4 0) l then w
    else if st.isOpen && (st.cfg.ty != f.ty || !st.cfg.write) then { w with d := w.d.holdAt c .alignment 0 1 0 }
    else if st.isOpen && st.unresolved then { w with d := w.d.holdAt c .pageUnresolved 0 1 0 }
    else if st.isOpen && st.cfg.space == .scratch &&
        (w.d.spKeys t st.cfg pos (st.cfg.take pos (laneCount f.ty)) n).any (fun q => w.d.stalled c.x q n) then w
    else
      let eff := if st.isOpen then some (Eff.swrite sn f.ty c.ops.va) else none
      { w with d := w.d.fillStore c l eff none {} }) w).d) s

/-- SCLOSE (R241). A failed burst of the stream is reported here (15 R423). -/
def execSclose (f : FmtM) (s : State) : Host.Outcome State Fault Refusal :=
  runR (fun w => (fireStore (.sclose f) f.lsid.toNat (fun w c t =>
    let sn := streamKey c.x t (bits f.offs 4 0)
    let l := f.lsid.toNat
    if w.d.streamBusy c.x sn || c.x.streamBelow c.code (bits f.offs 4 0) l then w
    else if (t.stream sn).isOpen && (t.stream sn).unresolved then { w with d := w.d.holdAt c .pageUnresolved 0 1 0 }
    else { w with d := w.d.fillStore c l (some (.sclose sn)) none {} }) w).d) s

/-! ### `scfg` (08 R236-R237) -/

/-- A byte range of addresses, lowest and highest. -/
abbrev Span := Int × Int
/-- Spans repeated n times at a stride: one wider span each while the stride is at most a page, so that no page between is
missed, else n copies; none when that is more than 1,024 pages for sure. -/
def spreadSpans (l : List Span) (n : Nat) (stride : Int) : Option (List Span) :=
  let ext := ((n : Int) - 1) * stride
  if stride.natAbs ≤ 2 ^ 14 then some (l.map (fun p => if ext < 0 then (p.1 + ext, p.2) else (p.1, p.2 + ext)))
  else if 1025 < n then none
  else some (l.flatMap (fun p => (List.range n).map (fun (i : Nat) => (p.1 + i * stride, p.2 + i * stride))))
/-- The spans a stream touches (08 R237). -/
def StreamCfg.spans (c : StreamCfg) : Option (List Span) :=
  (spreadSpans [((c.base : Int), (c.base : Int) + (elBytes c.ty : Nat) - 1)] c.count0 c.stride0).bind (fun l =>
    (spreadSpans l c.count1 c.stride1).bind (fun l => spreadSpans l c.count2 c.stride2))
/-- The pages of spans, each once; none when one span alone is more than 1,024 pages. -/
def pagesOf (l : List Span) : Option (List Nat) :=
  l.foldl (fun acc p =>
    match acc with
    | none => none
    | some q =>
      let lo := p.1.toNat / 2 ^ 14
      let n := p.2.toNat / 2 ^ 14 + 1 - lo
      if 1025 < n then none else some (q ++ (List.range n).map (fun i => (lo + i) * 2 ^ 14))) (some []) |>.map List.eraseDups

/-- The configuration a descriptor gives (08 R236). -/
def streamCfg (f : FmtM) (v : Vec) : StreamCfg :=
  { ty := f.ty, write := bits f.offs 5 5 == 1,
    space := if bits f.offs 7 6 = 0 then .global else if bits f.offs 7 6 = 1 then .scratch else .port,
    base := (vlane v 0).toNat, count0 := bits (vlane v 1) 31 0, count1 := bits (vlane v 1) 63 32,
    count2 := bits (vlane v 2) 31 0, stride0 := (vlane v 3).toInt, stride1 := (vlane v 4).toInt, stride2 := (vlane v 5).toInt }

/-- Status 3 of R237: a descriptor that is not valid by itself. -/
def StreamCfg.invalid (c : StreamCfg) (v : Vec) : Bool :=
  let n : Int := (elBytes c.ty : Nat)
  c.count0 == 0 || c.count1 == 0 || c.count2 == 0 || bits (vlane v 2) 63 32 != 0 || vlane v 6 != 0#64 || vlane v 7 != 0#64 ||
    (if c.space = .port then vlane v 0 != 0#64 || vlane v 3 != 0#64 || vlane v 4 != 0#64 || vlane v 5 != 0#64
     else (c.base : Int) % n != 0 || c.stride0 % n != 0 || c.stride1 % n != 0 || c.stride2 % n != 0)

/-- Lowest and highest byte of the spans. -/
def spanEnds (l : List Span) : Int × Int :=
  l.foldl (fun acc p => (if p.1 < acc.1 then p.1 else acc.1, if acc.2 < p.2 then p.2 else acc.2)) (l.headD (0, 0))

/-- Stream s mod 32 of a grid is OPEN for a thread, or waits for the tokens of its hand-over (08 R235, R237). -/
def Dev.streamTaken (d : Dev) (g s : Nat) : Bool :=
  d.threads.any (fun p => p.2.streams.any (fun q =>
    q.1 % 32 == s % 32 && p.2.streamAt q.1 == g && (q.2.isOpen || q.2.configuring.isSome)))
/-- It is configured by an instance that has not committed. -/
def Dev.scfgPending (d : Dev) (g s : Nat) : Bool :=
  d.insts.any (fun p => p.2.effs.any (fun e => match e.2.2, d.thr p.2.thr with
    | .scfg n _ _, some t => n % 32 == s % 32 && t.streamAt n == g
    | _, _ => false))

/-- Latch the pages of a stream: rights, then the frame of each (08 R237); else the device where the instruction ends. -/
def W.latch (w : W) (c : Firing) (t : Thread) (need : BitVec 3) (wr : Nat) : List Nat → List (Nat × Nat) → Except Dev (List (Nat × Nat) × W)
  | [], acc => .ok (acc.reverse, w)
  | p :: r, acc =>
    if 2 ^ 57 ≤ p then .error (w.d.holdAt c .alignment p wr 0)
    else if !w.inDomain p then .error (w.d.holdAt c .protection p wr 0)
    else
      let q := w.rights t.first t.ctx p
      if !hasRights q.1 need then .error (q.2.d.holdAt c .protection p wr 0)
      else
        match q.2.translate t.ctx (w.d.rnumOf t) p with
        | .ok k _ => W.latch (q.2.touch p) c t need wr r ((p, k) :: acc)
        | .absent => .error (q.2.pageFault c.iid p wr)
        | .waits => .error q.2.d
        | .noRegion => .error (q.2.d.holdAt c .protection p wr 0)

/-- SCFG (R236-R237): status to T0; the stream opens at the commit of a firing with status 0. DESIGN CHOICE: where several
statuses apply the order is 3, 2, 1, and rights and page faults come after them, page by page (log 83). -/
def execScfg (f : FmtM) (s : State) : Host.Outcome State Fault Refusal :=
  runR (fun w => (fireStore (.scfg f) f.lsid.toNat (fun w c t =>
    let sn := streamKey c.x t (bits f.offs 4 0)
    let l := f.lsid.toNat
    let cfg := streamCfg f c.ops.va
    let status := fun (w : W) (n : Nat) (eff : Option Eff) =>
      { w with d := w.d.fillStore c l eff none { toks := [(f.t0, .val (splat64 (BitVec.ofNat 64 n)))] } }
    let taken := w.d.streamTaken (t.streamAt sn) sn || w.d.scfgPending (t.streamAt sn) sn
    if cfg.invalid c.ops.va then status w 3 none
    else
      match cfg.space, cfg.spans with
      | .port, _ => if taken then status w 2 none else status w 0 (some (.scfg sn cfg []))
      | .scratch, some sp =>
        let e := spanEnds sp
        if e.1 < 0 ∨ (w.d.spAddr t e.1.toNat (e.2 - e.1 + 1).toNat).isNone then status w 3 none
        else if taken then status w 2 none
        else status w 0 (some (.scfg sn cfg []))
      | .scratch, none => status w 3 none
      | _, none => if taken then status w 2 none else status w 1 none
      | _, some sp =>
        if taken then status w 2 none
        else if (spanEnds sp).1 < 0 then { w with d := w.d.holdAt c .alignment cfg.base 0 0 }
        else
          match pagesOf sp with
          | none => status w 1 none
          | some ps =>
            if Config.streamPages < ps.length then status w 1 none
            else if cfg.write && sp.any (fun p => w.d.wprotected p.1.toNat (p.2 - p.1 + 1).toNat) then
              { w with d := w.d.holdAt c .protection cfg.base 1 0 }
            else
              match w.latch c t (if cfg.write then rW else rR) (if cfg.write then 1 else 0) ps [] with
              | .error d => { w with d := d }
              | .ok (fr, w) => status w 0 (some (.scfg sn cfg fr))) w).d) s

/-- THREADS of a group's launch record (12 R350). -/
def Group.nthreads (g : Group) : Nat := bits (vlane g.rcd 1) 6 0

/-- The destination of `ldfwd` is not valid (08 R243). -/
def Dev.badDest (d : Dev) (t : Thread) (w : Word) : Bool :=
  let k := bits w 63 60
  let resv := bits w 59 41 != 0 || bits w 31 8 != 0
  if k = 1 then resv ||
      (match d.group t.ctx t.gid with | some g => decide (g.nthreads ≤ bits w 5 0) | none => true)
  else if k = 2 then resv || !((d.ctx t.ctx).parcel.contains (bits w 40 32))
  else true

/-- LDFWD (R243): the checks when it fires; the request issues at the commit. -/
def execLdfwd (f : FmtM) (s : State) : Host.Outcome State Fault Refusal :=
  runR (fun w => (fireStore (.ldfwd f) f.lsid.toNat (fun w c t =>
    let a := memAddr c.ops.a0 (mOff f)
    match w.check t rR a 64 1 with
    | (.fault q, w) => { w with d := w.d.holdAt c q a 0 0 }
    | (.ok, w) =>
      if w.d.badDest t c.ops.b0 then { w with d := w.d.holdAt c .protection a 0 0 }
      else
        match w.presence c t a 64 0 with
        | .error d => { w with d := d }
        | .ok w => { w with d := w.d.fillStore c f.lsid.toNat (some (.ldfwd a c.ops.b0)) none {} }) w).d) s

end Sys2Proof.Machine
end

