-- ==== Sys2Proof/Machine/Atomics.lean ====
section
/-!
DEFINITION. Atomics (08 R257-R258, 09 R274): the new value, the firing, the performance at the point of coherence of their
scope, and the early performance of R258.
-/

namespace Sys2Proof.Machine

/-- The new value of an atomic and its flags (R257). -/
def amoNew (op : AmoOp) (ty : BitVec 4) (old b c : Nat) : Nat × BitVec 6 :=
  let n := tyBits ty
  let m := 2 ^ n
  match op with
  | .add => ((old + b) % m, 0#6)
  | .fadd =>
    let r := rounded ty .near false (fAdd .near (decodeF ty old) (decodeF ty b))
    (r.code, r.flags)
  | .min => (if num ty old ≤ num ty b then old else b, 0#6)
  | .max => (if num ty b ≤ num ty old then old else b, 0#6)
  | .and => (old &&& b, 0#6)
  | .or => (old ||| b, 0#6)
  | .xor => (old ^^^ b, 0#6)
  | .swap => (b, 0#6)
  | .cas => (if old = c then b else old, 0#6)
  | .inc => (if b ≤ old then 0 else old + 1, 0#6)
  | .dec => (if old = 0 ∨ b < old then b else old - 1, 0#6)

/-- Scope, order and predicted value of an atomic: what it does when it fires. It is performed early when it sends its old
value or acquires (R258); its bytes are seen by younger loads as predicted, and checked when it is performed. -/
def amoFire (op : AmoOp) (f : FmtA) (w : W) (c : Firing) (t : Thread) : W :=
  let l := f.lsid.toNat
  let n := elBytes f.ty
  let a := memAddr c.ops.a0 f.offs.toInt
  match w.storeCheck c t a n n (rR ||| rW) with
  | .error d => { w with d := d }
  | .ok w =>
    if !c.x.storesBelow c.code l || !w.mayDevice c t a || c.x.owed c.code l (span a n) then w
    else
      match w.loadCells c.x t l (span a n) with
      | (.ok cs, w) =>
        let b := lane (8 * n) c.ops.vb 0
        let k := lane (8 * n) c.ops.vc 0
        let new := (amoNew op f.ty (ofBytes (cs.map Prod.snd)) b k).1
        let d := w.d.violate c.x none (span a n)
        let x := if f.ord.getLsbD 0 then { c.x with acquires := l :: c.x.acquires } else c.x
        let eff := Eff.amo op f.ty f.scope.toNat f.ord a (BitVec.ofNat 64 b) (BitVec.ofNat 64 k)
        { w with d := d.fillStore { c with x := x } l (some eff) (some ⟨l, c.idx, cellsAt a (leBytes n new), true, none⟩) {} }
      | (r, w) => { w with d := r.fail w c a 1 }

/-- AMO_ADD (R257). -/
def execAmoAdd (f : FmtA) (s : State) : Host.Outcome State Fault Refusal :=
  run (fireStore (.amoAdd f) f.lsid.toNat (amoFire .add f)) s
/-- AMO_FADD (R257). -/
def execAmoFadd (f : FmtA) (s : State) : Host.Outcome State Fault Refusal :=
  run (fireStore (.amoFadd f) f.lsid.toNat (amoFire .fadd f)) s
/-- AMO_MIN (R257). -/
def execAmoMin (f : FmtA) (s : State) : Host.Outcome State Fault Refusal :=
  run (fireStore (.amoMin f) f.lsid.toNat (amoFire .min f)) s
/-- AMO_MAX (R257). -/
def execAmoMax (f : FmtA) (s : State) : Host.Outcome State Fault Refusal :=
  run (fireStore (.amoMax f) f.lsid.toNat (amoFire .max f)) s
/-- AMO_AND (R257). -/
def execAmoAnd (f : FmtA) (s : State) : Host.Outcome State Fault Refusal :=
  run (fireStore (.amoAnd f) f.lsid.toNat (amoFire .and f)) s
/-- AMO_OR (R257). -/
def execAmoOr (f : FmtA) (s : State) : Host.Outcome State Fault Refusal :=
  run (fireStore (.amoOr f) f.lsid.toNat (amoFire .or f)) s
/-- AMO_XOR (R257). -/
def execAmoXor (f : FmtA) (s : State) : Host.Outcome State Fault Refusal :=
  run (fireStore (.amoXor f) f.lsid.toNat (amoFire .xor f)) s
/-- AMO_SWAP (R257). -/
def execAmoSwap (f : FmtA) (s : State) : Host.Outcome State Fault Refusal :=
  run (fireStore (.amoSwap f) f.lsid.toNat (amoFire .swap f)) s
/-- AMO_CAS (R257). -/
def execAmoCas (f : FmtA) (s : State) : Host.Outcome State Fault Refusal :=
  run (fireStore (.amoCas f) f.lsid.toNat (amoFire .cas f)) s
/-- AMO_INC (R257). -/
def execAmoInc (f : FmtA) (s : State) : Host.Outcome State Fault Refusal :=
  run (fireStore (.amoInc f) f.lsid.toNat (amoFire .inc f)) s
/-- AMO_DEC (R257). -/
def execAmoDec (f : FmtA) (s : State) : Host.Outcome State Fault Refusal :=
  run (fireStore (.amoDec f) f.lsid.toNat (amoFire .dec f)) s

/-! ### Performance (09 R274) -/

/-- An atomic of an instance to be performed. -/
structure AmoReq where
  op : AmoOp
  ty : BitVec 4
  scope : Nat
  ord : BitVec 2
  addr : Nat
  b : Nat
  c : Nat
deriving DecidableEq, Repr

/-- The atomic of an effect. -/
def amoOf (e : Eff) : Option AmoReq :=
  match e with
  | .amo op ty scope ord addr b c => some ⟨op, ty, scope, ord, addr, b.toNat, c.toNat⟩
  | _ => none
/-- An atomic that is performed early (R258): its token has a target, or it acquires. -/
def AmoReq.early (q : AmoReq) (f : Instr) : Bool := q.ord.getLsbD 0 || (targets f).any (fun t => tgtKind t != 0)

/-- The access grid made ready for an atomic (R274): at PACKAGE scope or wider the releases of the thread go first (09 R268), then
what its buffers hold of the line; the grid writes back its owned bytes of the line and drops its copy; where the point lies at
another package's home or in host memory, the local L2 line goes there too. -/
def W.amoReady (w : W) (tid : Nat) (t : Thread) (rnum : Nat) (q : AmoReq) : W :=
  if q.scope < 2 then w
  else
    let w := (w.performRelsOf tid).flushPicked tid (fun b => lineOf b.1 == lineOf q.addr)
    let g := t.accessGrid q.addr
    let line := lineOf q.addr
    let rid := (w.d.ctx t.ctx).ridOf rnum q.addr
    let w := match (w.d.grid g).l1Find line rid with
      | some l => w.writeBack g l
      | none => w
    let w := { w with d := w.d.modGrid g (fun gr => gr.l1Drop line rid) }
    let far := (w.isRemote q.addr && decide (3 ≤ q.scope)) || (w.isHost q.addr && q.scope == 4)
    if far then
      let w := w.l2Flush t.ctx true (fun l => l == line)
      { w with d := { w.d with l2 := w.d.l2.filter (fun l => !(l.line == line && l.dirty == 0#32)) } }
    else w

/-- The line of an atomic as its point of coherence holds it. -/
def W.amoLine (w : W) (t : Thread) (rnum : Nat) (q : AmoReq) : Rd (List Byte) × W :=
  if q.scope < 2 then w.l1Read t.ctx rnum (t.accessGrid q.addr) (lineOf q.addr) else w.home t.ctx rnum (lineOf q.addr)

/-- Bytes put at the point of coherence of a scope. -/
def W.amoPut (w : W) (t : Thread) (rnum : Nat) (q : AmoReq) (seq : Nat) (cs : List Host.Cell) : W :=
  if q.scope < 2 then W.l1Write { w with d := w.d.patchBuffers t cs } t.ctx rnum (t.accessGrid q.addr) cs
  else
    let w := w.loggedWrite t.ctx rnum seq t.who cs
    if (w.isRemote q.addr && decide (3 ≤ q.scope)) || (w.isHost q.addr && q.scope == 4) then
      w.l2Flush t.ctx true (fun l => l == lineOf q.addr)
    else w

/-- An atomic about to be performed: old element, new element, flags; `fwd` gives bytes of stores of lower LSID that have not
been performed. -/
def W.amoPeek (w : W) (tid : Nat) (t : Thread) (rnum : Nat) (q : AmoReq) (fwd : Nat → Option Byte) : Rd (Nat × Nat × BitVec 6) × W :=
  let w := w.amoReady tid t rnum q
  match w.amoLine t rnum q with
  | (.ok bs, w) =>
    let old := ofBytes ((span q.addr (elBytes q.ty)).map (fun a => (fwd a).getD (bs.getD (a % 32) 0#8)))
    let r := amoNew q.op q.ty old q.b q.c
    (.ok (old, r.1, r.2), w)
  | (.absent, w) => (.absent, w)
  | (.waits, w) => (.waits, w)
  | (.ecc, w) => (.ecc, w)
  | (.lost, w) => (.lost, w)
  | (.noRegion, w) => (.noRegion, w)

/-- A load of the instance itself took a byte from an atomic, with another value than it leaves. -/
def Inst.misread (x : Inst) (l : Nat) (cs : List Host.Cell) : Bool :=
  x.accs.any (fun a => !a.isStore && a.scratch.isNone && decide (l < a.lsid) &&
    a.bytes.any (fun b => match cellAt cs b.1 with | some v => v != b.2 && x.source a.lsid b.1 == some l | none => false))

/-- Instances younger than one that read a byte of an atomic with another value than it leaves: the oldest is flushed, with
everything after it (02 R34). -/
def Dev.misreadYoung (d : Dev) (x : Inst) (cs : List Host.Cell) : Dev :=
  let bad := fun (a : Access) => !a.isStore && a.scratch.isNone && a.bytes.any (fun b =>
    match cellAt cs b.1 with | some v => v != b.2 | none => false)
  match ((d.instsOf x.thr).filter (fun p => decide (x.seq < p.2.seq))).find? (fun p => p.2.accs.any bad) with
  | some p => d.flushFrom x.thr p.2.seq
  | none => d

/-- Every memory instruction of an instance has resolved its address (R258): it has fired, or it is a load whose operands
have all arrived. Loads of lower LSID have been performed. -/
def Inst.resolved (x : Inst) (b : Block) (l : Nat) : Bool :=
  b.slots.all (fun s => match lsidOf s.2 with
    | none => true
    | some k => x.fired.contains s.1 || (memClass s.2 == .unordered) ||
        (memClass s.2 == .load && decide (l < k) && x.full b s.1))

/-- The entry of an atomic that waits to be performed early. -/
def Inst.amoAt (x : Inst) (idx : Nat) : Option (Nat × AmoReq) :=
  (x.effs.find? (fun e => e.2.1 == idx && (amoOf e.2.2).isSome)).bind (fun e => (amoOf e.2.2).map (fun q => (e.1, q)))

/-- The undo-log entries of an atomic (19 R495, R499). -/
def W.amoEnts (w : W) (t : Thread) (rnum : Nat) (q : AmoReq) : List (Nat × LogEnt) :=
  let cs := cellsAt q.addr (List.replicate (elBytes q.ty) 0#8)
  if (w.d.ctx t.ctx).logging then
    w.lineEnts t.ctx rnum (t.commitSeq + 1) t.who cs ++ w.monuments t.ctx t (t.commitSeq + 1) cs
  else []

/-- What the checks of R229 find for a load of an instance whose operands have arrived and that has not fired: the fault it
raises, with its address. -/
def W.accessFault (w : W) (x : Inst) (b : Block) (t : Thread) (idx : Nat) (i : Instr) : Option (Cause × Nat) :=
  let o := x.opnds idx
  let at_ := fun (f : FmtM) => memAddr o.a0 (mOff f)
  let one := fun (a n align : Nat) => match (w.check t rR a n align).1 with | .fault c => some (c, a) | .ok => none
  if !o.holds (prOf i) || o.anyNull || !x.full b idx then none
  else
    match i with
    | .ld f => one (at_ f) 64 (elBytes f.ty)
    | .lda f => one (at_ f) 64 (elBytes f.ty)
    | .ldg f => (gatherAddrs f o.a0 o.vb).findSome? (fun a => a.bind (fun a => one a (elBytes f.ty) (elBytes f.ty)))
    | .ldsp f =>
      if at_ f % elBytes f.ty ≠ 0 then some (.alignment, at_ f)
      else if (w.d.spAddr t (at_ f) 64).isNone then some (.protection, at_ f) else none
    | .sread f =>
      let st := t.stream (streamKey x t (bits f.offs 4 0))
      if st.isOpen && (st.cfg.ty != f.ty || st.cfg.write) then some (.alignment, 0) else none
    | _ => none
/-- The first load of an instance that its checks stop, beside those that have fired (R258). -/
def W.loadFault (w : W) (x : Inst) (b : Block) (t : Thread) : Option (Nat × Cause × Nat) :=
  b.slots.findSome? (fun s => if x.fired.contains s.1 then none else (w.accessFault x b t s.1 s.2).map (fun r => (s.1, r)))
/-- The atomic that is performed when an atomic of an instance is about to be: one of lower LSID that a commit would perform and
that writes bytes of its element goes before it (02 R33). -/
def Inst.amoTurn (x : Inst) (idx l : Nat) (q : AmoReq) : Nat × Nat × AmoReq :=
  let meets := fun (r : AmoReq) => decide (r.addr < q.addr + elBytes q.ty) && decide (q.addr < r.addr + elBytes r.ty)
  ((x.effs.filterMap (fun e => match amoOf e.2.2 with
    | some r => if e.1 < l ∧ meets r = true then some (e.2.1, e.1, r) else none
    | none => none)).isort (fun a b => decide (a.2.1 ≤ b.2.1))).headD (idx, l, q)
/-- The stores of an instance below an LSID, which a release performed early orders before it (09 R268): their cells in global
memory and in scratchpads (log 85). -/
def Inst.storesUnder (x : Inst) (l : Nat) : List Host.Cell × List Host.Cell :=
  let es := (x.effs.filter (fun e => decide (e.1 < l))).isort (fun a b => decide (a.1 ≤ b.1))
  (es.flatMap (fun e => match e.2.2 with | .store bs _ => bs | _ => []), es.flatMap (fun e => match e.2.2 with | .spStore _ bs => bs | _ => []))
/-- An instance without them. -/
def Inst.dropUnder (x : Inst) (l : Nat) : Inst :=
  let plain := fun (e : Nat × Nat × Eff) => match e.2.2 with | .store _ _ => true | .spStore _ _ => true | _ => false
  { x with effs := x.effs.filter (fun e => !(decide (e.1 < l) && plain e)),
           accs := x.accs.filter (fun a => !(a.isStore && decide (a.lsid < l) &&
             x.effs.any (fun e => e.1 == a.lsid && e.2.1 == a.idx && plain e))) }
/-- Those stores performed, logged as the commit would log them, and the release of the thread up to an atomic (09 R268). -/
def W.releaseUnder (w : W) (iid : Nat) (x : Inst) (t : Thread) (rnum l scope : Nat) : W :=
  let cs := x.storesUnder l
  let ents := w.lineEnts t.ctx rnum (t.commitSeq + 1) t.who cs.1 ++ w.monuments t.ctx t (t.commitSeq + 1) cs.1
  let w := if (w.d.ctx t.ctx).logging then w.logWrite t.ctx ents else w
  let w := (w.wrs cs.2).storeCells t rnum cs.1
  W.releaseNow { w with d := w.d.setInst iid (x.dropUnder l) } x.thr t.ctx scope t.grids

/-- An early atomic performed (R258): its release part, the element, its token, and its acquire part. -/
def W.amoEarly (w : W) (iid idx : Nat) : W :=
  match w.d.inst iid with
  | none => w
  | some x =>
    match x.code, w.d.thr x.thr, x.amoAt idx with
    | some b, some t, some (l, q) =>
      let i := (b.instr idx).getD (.amoAdd ⟨0#3, 0#2, 0#4, 0#5, 0#3, 0#2, 0#12, 0#25⟩)
      let scope := if q.ord.getLsbD 1 then q.scope else if 2 ≤ q.scope then 2 else 0
      if !q.early i || !w.d.isOldest x || !x.resolved b l || !x.storesBelow b l || x.pend.isSome || w.d.stopped x.grid then w
      else if decide (2 ≤ q.scope) && w.relPending x.thr scope t.grids then w
      else match w.loadFault x b t with
      | some (k, c, a) =>
        { w with d := w.d.hold iid { cause := c, loc := BitVec.ofNat 8 k, w2 := BitVec.ofNat 64 a } }
      | none =>
        let (idx, l, q) := x.amoTurn idx l q
        let i := (b.instr idx).getD i
        let rnum := w.d.rnumOf t
        let under := if q.ord.getLsbD 1 then (x.storesUnder l).1 else []
        match (w.d.ctx t.ctx).logGate (w.lineEnts t.ctx rnum (t.commitSeq + 1) t.who under ++
          w.monuments t.ctx t (t.commitSeq + 1) under ++ w.amoEnts t rnum q) with
        | .wait => w
        | .trap =>
          let lg := (w.d.ctx t.ctx).log
          let p : Pend :=
            { cause := .undoLogFull, loc := BitVec.ofNat 8 idx, w2 := BitVec.ofNat 64 lg.base,
              w3 := BitVec.ofNat 64 lg.inUse, w4 := BitVec.ofNat 64 (lg.oldest % 2 ^ 32 + lg.station * 2 ^ 32) }
          { w with d := w.d.hold iid p }
        | .ok lg =>
          let w := { w with d := w.d.modCtx t.ctx (fun k => { k with log := lg }) }
          let w := if q.ord.getLsbD 1 then w.releaseUnder iid x t rnum l q.scope else w
          let x := if q.ord.getLsbD 1 then x.dropUnder l else x
          let n := elBytes q.ty
          let fails := fun (c : Cause) =>
            { w with d := w.d.hold iid { cause := c, loc := BitVec.ofNat 8 idx, w2 := BitVec.ofNat 64 q.addr, w3 := 1#64 } }
          let w := if (w.d.ctx t.ctx).logging then w.logWrite t.ctx (w.monuments t.ctx t (t.commitSeq + 1) (cellsAt q.addr [0#8])) else w
          match w.amoPeek x.thr t rnum q (storeByte x l none) with
          | (.ok (old, new, fl), w) =>
            if x.atomics = 0 && x.misread l (cellsAt q.addr (leBytes n new)) then { w with d := w.d.flushFrom x.thr x.seq }
            else
            let w := w.amoPut t rnum q (t.commitSeq + 1) (cellsAt q.addr (leBytes n new))
            let w := if q.scope < 2 && (w.d.ctx t.ctx).logging then
                let g := t.accessGrid q.addr
                let w := w.logWrite t.ctx (w.lineEnts t.ctx rnum (t.commitSeq + 1) t.who (cellsAt q.addr (leBytes n new)))
                w.writeBackAll [g] (fun m => m.line == lineOf q.addr)
              else w
            let cs := cellsAt q.addr (leBytes n new)
            let val := ofLanes (8 * n) (List.replicate (512 / (8 * n)) old)
            let sent := (targets i).any (fun t => tgtKind t != 0)
            let ev := if sent then w.d.event t.ctx l idx 6 (BitVec.ofNat 64 q.addr) val else []
            let cut := fun (a : Access) =>
              if a.isStore && a.scratch.isNone && a.lsid < l then { a with bytes := a.bytes.filter (fun c => (cellAt cs c.1).isNone) }
              else if a.idx == idx then { a with bytes := cs } else a
            let eff := fun (e : Nat × Nat × Eff) =>
              match e.2.2 with
              | .store bs r => if e.1 < l then (e.1, e.2.1, Eff.store (bs.filter (fun c => (cellAt cs c.1).isNone)) r) else e
              | .amo _ _ sc od _ _ _ => if e.2.1 == idx then (e.1, e.2.1, Eff.amoDone sc od) else e
              | _ => e
            let x := { x with accs := x.accs.map cut, effs := x.effs.map eff ++ ev, flags := x.flags ||| fl,
                              atomics := x.atomics + 1, acquires := x.acquires.filter (fun k => k != l) }
            let d := w.d.misreadYoung x cs
            let d := { d.setInst iid x with
              flight := d.flight ++ sends iid idx ((targets i).map (fun t => (t, .val val))) }
            let w := { w with d := d }
            if q.ord.getLsbD 0 then
              let w := w.acquireBy q.scope t.grids
              { w with d := w.d.acquireFlush x }
            else w
          | (.absent, w) => { w with d := w.pageFault iid q.addr 1 }
          | (.waits, w) =>
            if w.reach q.addr == .unanswered && !w.d.remotes.any (fun r => r.kind == .access iid idx) then
              { w with d := { w.d with remotes := w.d.remotes ++ [(⟨.access iid idx, t.ctx, pkgOf q.addr, 0, q.addr, w.d.now⟩ : Remote)] } }
            else w
          | (.ecc, _) => fails .dataEcc
          | (.lost, _) => fails .linkLost
          | (.noRegion, _) => fails .protection
    | _, _, _ => w

/-- ATOMIC_EARLY_PERFORM (R258): the atomic of instance `a`, index `b`, or one that has its turn before it. -/
def execAtomicEarlyPerform (s : State) : Host.Outcome State Fault Refusal :=
  run (fun w => w.amoEarly w.d.arg.a w.d.arg.b) s

end Sys2Proof.Machine
end

