-- ==== Sys2Proof/Machine/Engines.lean ====
section
/-!
DEFINITION. Engine instructions as they fire (08 R247-R256): the copy descriptor and its checks, shadows, the copy-tag table.
-/

namespace Sys2Proof.Machine

/-- The completion a descriptor names (R249): lane 5, and lane 7 for the tag. -/
def complOf (v : Vec) : Compl :=
  { kind := (vlane v 5).extractLsb' 60 4, tgt := (vlane v 5).extractLsb' 48 12, grid := bits (vlane v 5) 40 32,
    arg := (vlane v 5).extractLsb' 0 32, tag := vlane v 7 }

/-- An invalid completion descriptor (R249). -/
def Dev.badCompl (d : Dev) (c : Nat) (v : Vec) : Bool :=
  let w := vlane v 5
  let k := bits w 63 60
  decide (4 < k) || bits w 47 41 != 0 ||
    (k == 1 && (bits w 59 58 != 1 || decide (4 < bits w 50 48) || bits w 31 0 != 0 ||
      !(d.ctx c).parcel.contains (bits w 40 32)))

/-- The descriptor of a copy as its lanes give it (R247-R248), before scratchpad addresses are resolved. -/
def copyDescOf (kind : CopyKind) (scope : Nat) (v : Vec) : CopyDesc :=
  let f := vlane v 6
  { kind := kind, dst := (vlane v 0).toNat, src := (vlane v 1).toNat, rowLen := (vlane v 2).toNat,
    rows := if kind = .straight then 1 else (vlane v 3).toNat,
    dpitch := if kind = .rows then bits (vlane v 4) 31 0 else (vlane v 2).toNat,
    spitch := if kind = .rows then bits (vlane v 4) 63 32 else (vlane v 2).toNat,
    list := if kind = .gather then (vlane v 4).toNat else 0,
    sspace := if bits f 3 2 = 0 then .global else .scratch,
    dspace := if bits f 1 0 = 0 then .global else if bits f 1 0 = 1 then .scratch else .shadow,
    shadow := bits f 21 16, tagen := bits f 8 8 == 1, ctag := bits f 31 24, compl := complOf v, scope := scope }

/-- A field value that is not valid, or a length out of range (R247-R250). -/
def Dev.badCopy (d : Dev) (c : Nat) (q : CopyDesc) (v : Vec) : Bool :=
  let f := vlane v 6
  bits f 63 32 != 0 || bits f 23 22 != 0 || bits f 15 9 != 0 || bits f 7 4 != 0 || decide (1 < bits f 3 2) || bits f 1 0 == 3 ||
    (q.kind == .straight && (vlane v 3 != 0#64 || vlane v 4 != 0#64)) ||
    q.rows == 0 || decide (2 ^ 20 < q.rows) || decide (q.rowLen < 32) || decide (2 ^ 32 - 32 < q.rowLen) || d.badCompl c v

/-- A misaligned value (R247, R224). -/
def badCopyAlign (q : CopyDesc) : Bool :=
  q.dst % 32 != 0 || q.src % 32 != 0 || q.rowLen % 32 != 0 || q.dpitch % 32 != 0 || q.spitch % 32 != 0 || q.list % 4 != 0 ||
    (q.dspace != .scratch && decide (2 ^ 57 ≤ q.dst)) || (q.sspace == .global && decide (2 ^ 57 ≤ q.src)) ||
    decide (2 ^ 57 ≤ q.list)

/-- Bytes from the first destination byte to the last. -/
def CopyDesc.extent (c : CopyDesc) : Nat := (c.rows - 1) * c.dpitch + c.rowLen
/-- Bytes from the first source byte to the last of a copy whose rows stand at a pitch. -/
def CopyDesc.sextent (c : CopyDesc) : Nat := (c.rows - 1) * c.spitch + c.rowLen

/-- Copies that instances have reserved and not issued, with the grid of their instruction. -/
def Dev.copyResv (d : Dev) : List (Nat × CopyDesc) :=
  d.insts.flatMap (fun p => p.2.effs.filterMap (fun e => (effCopy e.2.2).map (fun c => (p.2.grid, c))))
/-- A request entry of a grid is free (R250). -/
def Dev.copyFree (d : Dev) (g : Nat) : Bool :=
  decide ((d.copies.filter (fun c => c.grid == g)).length + (d.copyResv.filter (fun c => c.1 == g)).length < Config.copyEntries)
/-- The grid of a scratchpad key. -/
def spGrid (k : Nat) : Nat := (k - 2 ^ 54) / 2 ^ 21
/-- A range of the scoreboard of a grid is free (R250). -/
def Dev.rangeFree (d : Dev) (g : Nat) : Bool :=
  let on := fun (c : CopyDesc) => c.dspace == .scratch && spGrid c.dst == g
  decide ((d.copies.filter (fun c => on c.d)).length + (d.copyResv.filter (fun c => on c.2)).length < Config.copyEntries)

/-- An engine instruction fires (R250): checks of the descriptor, then the entries it reserves; it waits while none is free. -/
def engineFire (kind : CopyKind) (f : FmtM) (w : W) (c : Firing) (t : Thread) : W :=
  let v := c.ops.va
  let q := copyDescOf kind f.scope.toNat v
  let fault := fun (k : Cause) => { w with d := w.d.holdAt c k q.dst 1 0 }
  if w.d.badCopy t.ctx q v then fault .protection
  else if badCopyAlign q then fault .alignment
  else
    let ds := if q.dspace = .scratch then (w.d.spAddr t q.dst q.extent).map Prod.snd else some q.dst
    let ss := if q.sspace = .scratch ∧ kind ≠ .gather then (w.d.spAddr t q.src q.sextent).map Prod.snd
      else if q.sspace = .scratch then (w.d.spAddr t q.src q.rowLen).map Prod.snd else some q.src
    match ds, ss with
    | some dk, some sk =>
      let q := { q with dst := dk, src := sk, slim := if q.sspace = .scratch then spKey (spGrid sk) (w.d.window t) + w.d.scratchSize t else 0 }
      if !w.d.copyFree c.x.grid || (q.dspace == .scratch && !w.d.rangeFree (spGrid q.dst)) then w
      else { w with d := w.d.fillStore c f.lsid.toNat (some (.copy q)) none {} }
    | _, _ => fault .protection

/-- ACOPY (R247). -/
def execAcopy (f : FmtM) (s : State) : Host.Outcome State Fault Refusal :=
  runR (fun w => (fireStore (.acopy f) f.lsid.toNat (engineFire .straight f) w).d) s
/-- ACOPY2 (R247). -/
def execAcopy2 (f : FmtM) (s : State) : Host.Outcome State Fault Refusal :=
  runR (fun w => (fireStore (.acopy2 f) f.lsid.toNat (engineFire .rows f) w).d) s
/-- AGATHER (R247). -/
def execAgather (f : FmtM) (s : State) : Host.Outcome State Fault Refusal :=
  runR (fun w => (fireStore (.agather f) f.lsid.toNat (engineFire .gather f) w).d) s

/-! ### Shadows -/

/-- The context of an instance by number. -/
def Dev.ctxOfIid (d : Dev) (iid : Nat) : Nat := match d.inst iid with | some x => d.ctxOf x | none => 0
/-- Shadows that `ashadow` instructions of a context have reserved: handle, base, length. -/
def Dev.shadowResv (d : Dev) (c : Nat) : List (Nat × Nat × Nat) :=
  d.allEffs.filterMap (fun e => match e.2 with
    | .ashadow h b l _ => if d.ctxOfIid e.1 = c then some (h, b, l) else none
    | _ => none)

/-- ASHADOW (R255): a misaligned base or length is ALIGNMENT; a length or handle out of range, or a buffer that is not
local, is PROTECTION (log 17), and so is one that overlaps a declared region (16 R432). Statuses are tested in the order 2, 3, 1. -/
def execAshadow (f : FmtM) (s : State) : Host.Outcome State Fault Refusal :=
  runR (fun w => (fireStore (.ashadow f) f.lsid.toNat (fun w c t =>
    let base := c.ops.a0.toNat
    let len := (vlane c.ops.va 1).toNat
    let h := (vlane c.ops.va 2).toNat
    let status := fun (w : W) (n : Nat) (eff : Option Eff) =>
      { w with d := w.d.fillStore c f.lsid.toNat eff none { toks := [(f.t0, .val (splat64 (BitVec.ofNat 64 n)))] } }
    if base % 2 ^ 14 ≠ 0 ∨ len % 2 ^ 14 ≠ 0 ∨ 2 ^ 57 ≤ base then { w with d := w.d.holdAt c .alignment base 1 0 }
    else if len = 0 ∨ 2 ^ 30 < len ∨ 63 < h ∨ !w.isLocal base ∨ !w.isLocal (base + len - 1) then
      { w with d := w.d.holdAt c .protection base 1 0 }
    else
      let r := w.rightsAll t.first t.ctx 2 base len
      let w := r.2
      let inRegion := (w.d.ctx t.ctx).regions.any (fun p =>
        p.2.declared && decide (regionBase p.2.desc < base + len) && decide (base < regionBase p.2.desc + regionSize p.2.desc))
      if !r.1 || inRegion then { w with d := w.d.holdAt c .protection base 1 0 }
      else
        let open_ := ((w.d.ctx t.ctx).shadows.filter (fun p => p.2.isOpen)).map (fun p => (p.1, p.2.base, p.2.len)) ++
          w.d.shadowResv t.ctx
        let n := len / 2 ^ 14
        if open_.any (fun p => p.1 == h) then status w 2 none
        else if open_.any (fun p => decide (p.2.1 < base + len) && decide (base < p.2.1 + p.2.2)) then status w 3 none
        else if w.d.poolFree.length < n then status w 1 none
        else status w 0 (some (.ashadow h base len (w.d.poolFree.take n)))) w).d) s

/-- The buffer of a shadow of a context by its handle, open or reserved. -/
def Dev.shadowBuffer (d : Dev) (c h : Nat) : Option (Nat × Nat) :=
  match (d.ctx c).shadows.look h with
  | some s => some (s.base, s.len)
  | none => ((d.shadowResv c).find? (fun p => p.1 == h)).map Prod.snd
/-- APUB with KIND 0 (R256): it needs the W right on the buffer (R225). -/
def execApubPublish (f : FmtM) (s : State) : Host.Outcome State Fault Refusal :=
  runR (fun w => (fireStore (.apubPublish f) f.lsid.toNat (fun w c t =>
    let h := c.ops.a0.toNat
    let go := fun (w : W) => { w with d := w.d.fillStore c f.lsid.toNat (some (.apubPublish h f.scope.toNat)) none {} }
    match w.d.shadowBuffer t.ctx h with
    | none => go w
    | some (base, len) =>
      let r := w.rightsAll t.first t.ctx 2 base len
      if r.1 then go r.2 else { w with d := r.2.d.holdAt c .protection base 1 0 }) w).d) s
/-- APUB with KIND 1 (R256). -/
def execApubDiscard (f : FmtM) (s : State) : Host.Outcome State Fault Refusal :=
  runR (fun w => (fireStore (.apubDiscard f) f.lsid.toNat (fun w c _ =>
    { w with d := w.d.fillStore c f.lsid.toNat (some (.apubDiscard c.ops.a0.toNat)) none {} }) w).d) s

/-- APROBE (R254): an entry of the copy-tag table, read when it fires. -/
def execAprobe (f : FmtM) (s : State) : Host.Outcome State Fault Refusal :=
  runR (fireLoad (.aprobe f) fun w c t =>
    let l := f.lsid.toNat
    if !w.d.mayLoad c t l then w.d
    else
      let v := splat64 ((w.d.ctx t.ctx).copyTags.get (c.ops.a0.toNat % 256) 0#64)
      let ev := w.d.event t.ctx l c.idx 6 (BitVec.ofNat 64 (c.ops.a0.toNat % 256)) v
      w.d.emit { c with x := { c.x with effs := c.x.effs ++ ev } } { toks := [(f.t0, .val v)] }) s

end Sys2Proof.Machine
end

