-- ==== Sys2Proof/Machine/Waits.lean ====
section
/-!
DEFINITION. Waiting instructions (12 R356-R357, 04 R99): one protocol for every instruction with a LIMIT.
-/

namespace Sys2Proof.Machine

/-- The wait limit of a LIMIT field in cycles (04 R99); none for the unbounded 0xFFF. -/
def limitOf (l : BitVec 12) : Option Nat := if l = 0xFFF#12 then none else some (bits l 7 0 * 4 ^ bits l 11 8)

/-- What the test of a waiting instruction finds: it may not fire yet; it waits; it is satisfied, with what it leaves; or an access
that it makes stops it, by a fault or because the home does not answer. -/
inductive Test where
  | notYet
  | wait
  | sat (w : W)
  | stop (w : W)

/-- The wait of a slot. -/
def Dev.waitAt (d : Dev) (iid idx : Nat) : Option Wait := d.waits.find? (fun q => q.iid == iid && q.idx == idx)
/-- A slot that leaves WAIT, or RETENTION entered from it, for RUN (02 R37). -/
def Thread.awake (t : Thread) (now : Nat) : Thread :=
  if t.st = .wait ∨ (t.st = .retention ∧ t.fromWait = true) then
    { t with st := .run, fromWait := false, stSince := now, waitLeft := none }
  else t
/-- The remaining limit that a save image has kept for a wait (10 R301). -/
def Thread.leftFor (t : Thread) (blk idx : Nat) : Option Nat :=
  match t.waitLeft with
  | some (b, i, n) => if b = blk ∧ i = idx then some n else none
  | none => none
/-- The wait of a slot ended; its thread's slot leaves WAIT (02 R37). -/
def Dev.waitDone (d : Dev) (iid idx : Nat) : Dev :=
  let d := { d with waits := d.waits.filter (fun q => !(q.iid == iid && q.idx == idx)) }
  match d.inst iid with
  | none => d
  | some x => d.modThr x.thr (fun t => t.awake d.cycle)

/-- Grid and slot number of a thread's core grid 0. -/
def Thread.place (t : Thread) : Nat × Nat := match t.slots with | p :: _ => p | [] => (t.first, 0)

/-- Whether another waiting instruction on the same object is served before one (R357): the one that fired earliest, ties to
the lower grid and then to the lower slot. Keys name objects within a context, but for the collective engine of the package
(18 R485). -/
def Dev.waitBefore (d : Dev) (c : Firing) (t : Thread) (key : Nat × Word) : Bool :=
  let mine : Nat × Nat × Nat := (match d.waitAt c.iid c.idx with | some q => q.since | none => d.cycle, t.place)
  d.waits.any (fun q => q.key == key && !(q.iid == c.iid && q.idx == c.idx) &&
    (match d.inst q.iid with
      | none => false
      | some x =>
        match d.thr x.thr with
        | none => false
        | some u =>
          let its : Nat × Nat × Nat := (q.since, u.place)
          (key.1 == 0xF5 || u.ctx == t.ctx) && !d.stopped x.grid && (decide (its.1 < mine.1) || (its.1 == mine.1 &&
            (decide (its.2.1 < mine.2.1) || (its.2.1 == mine.2.1 && decide (its.2.2 < mine.2.2)))))))

/-- The key of the effects of an instruction that is not of the memory class: after every LSID, by index. -/
def effKey (c : Firing) : Nat := 32 + c.idx

/-- Effects added to an instance, if it still stands. -/
def Dev.addEffs (d : Dev) (iid : Nat) (es : List (Nat × Nat × Eff)) : Dev :=
  d.modInst iid (fun x => { x with effs := x.effs ++ es })

/-- A waiting instruction (R356): predicate and nulls, then the test; a test that fails starts the wait, and a limit of zero
or one that has expired ends it through `expire`. The outcome is a replay event (19 R503-R504). -/
def waitFire (i : Instr) (limit : BitVec 12) (key : Firing → Thread → Nat × Word) (test : W → Firing → Thread → Test)
    (expire : W → Firing → Thread → W) (w : W) : W :=
  match w.d.firing with
  | none => w
  | some c =>
    match w.d.thr c.x.thr with
    | none => w
    | some t =>
      if !c.ops.holds (prOf i) then { w with d := w.d.emit c {} }
      else if c.ops.anyNull then { w with d := w.d.emit c { toks := nullsTo i } }
      else
        let k := key c t
        let told := w.prescribed c.x.thr t 7 k.2
        let ended := fun (w : W) (v : Word) =>
          { w with d := (w.d.waitDone c.iid c.idx).addEffs c.iid (w.d.event t.ctx (effKey c) c.idx 7 k.2 (splat64 v)) }
        let expiry := fun (w : W) => ended (expire w c t) 1#64
        match test w c t with
        | .notYet => w
        | .stop w' =>
          if told == some (foldVec (splat64 1#64)) then expiry w
          else if (match w'.d.inst c.iid with | some x => x.pend.isSome | none => false) then { w' with d := w'.d.waitDone c.iid c.idx }
          else w'
        | .sat w' => if told == some (foldVec (splat64 1#64)) then expiry w else ended w' 0#64
        | .wait =>
          if told == some (foldVec (splat64 1#64)) then expiry w
          else
            match w.d.waitAt c.iid c.idx with
            | some q => if q.expired && told.isNone then expiry w else w
            | none =>
              let left := t.leftFor c.x.blk c.idx
              let lim := if left.isSome then left else limitOf limit
              if lim == some 0 && told.isNone then expiry w
              else
                let d : Dev := { w.d with waits := w.d.waits ++ [⟨c.iid, c.idx, w.d.cycle, lim, false, k⟩] }
                { w with d := if left.isSome then d.modThr c.x.thr (fun t => { t with waitLeft := none }) else d }

/-- A timeout fault of a waiting instruction (R356): lane 3 the object's identity, lane 4 as its chapter gives. -/
def W.timeout (w : W) (c : Firing) (cause : Cause) (ident : Word) (w4 : Nat) : W :=
  { w with d := w.d.holdAt c cause 0 ident.toNat w4 }

/-- A status in every n64 lane to both targets. -/
def statusTo (f : FmtQ) (n : Nat) : Out := both f.t0 f.t1 (splat64 (BitVec.ofNat 64 n))
/-- A slot fired with effects and a status. -/
def Dev.answer (d : Dev) (c : Firing) (es : List Eff) (o : Out) : Dev :=
  d.emit { c with x := { c.x with effs := c.x.effs ++ es.map (fun e => (effKey c, c.idx, e)) } } o
/-- An instruction of format Q that does not wait: predicate and nulls, then its meaning. -/
def fireQ (i : Instr) (g : W → Firing → Thread → Dev) (w : W) : Dev := fireLoad i g w

end Sys2Proof.Machine
end

