-- ==== Sys2Proof/Machine/Control.lean ====
section
/-!
DEFINITION. Exits, `compose`, `setsr`, `hint` and `brkp` as they fire (05 R139-R155, 02 R31, R42-R48). What they leave for the
commit is performed by `Machine/Commit.lean`.
-/

namespace Sys2Proof.Machine

/-! ### Following an exit -/

/-- The youngest instance of a thread. -/
def Dev.youngest (d : Dev) (t : Nat) : Option (Nat × Inst) := (d.instsOf t).getLast?

/-- Fetch follows an exit of an instance: the next block, what fetch knows of loops, and the return predictor (R147). -/
def Dev.followExit (d : Dev) (iid : Nat) (e : ExitFired) : Dev :=
  match d.inst iid with
  | none => d
  | some x =>
    let ft := match x.code with | some b => x.blk + 256 * (2 + (b.memChunks - 1) / 2) | none => x.blk
    let d := d.setInst iid { x with predicted := e.target.map (fun a => (e.num, a)) }
    d.modThr x.thr (fun t =>
      let ws := d.tagWidths t
      let t := t.setNest ((x.post ws).follow ws e.opcode)
      let rp := if e.opcode = 0x32 ∨ e.opcode = 0x33 then (ft :: t.retPred).take 16
        else if e.opcode = 0x34 then t.retPred.drop 1 else t.retPred
      { t with next := if e.opcode = 0x39 ∨ e.opcode = 0x3A then none else e.target, retPred := rp })

/-- An exit fired: the successor is fixed; where fetch has predicted none, it follows the exit (R145, 02 R31). -/
def Dev.exitFired (d : Dev) (c : Firing) (e : ExitFired) (effs : List Eff) (o : Out) : Dev :=
  if c.x.exit.isSome then d.conflict c.iid 2 c.idx 0
  else
    let d := d.answer { c with x := { c.x with exit := some e, exitAt := d.cycle } } effs o
    match d.youngest c.x.thr with
    | some (y, _) => if y = c.iid ∧ c.x.predicted.isNone then d.followExit c.iid e else d
    | none => d

/-- The direct target of an exit (R145): own address + 256 × OFFS modulo 2^57. -/
def directTarget (blk : Nat) (offs : BitVec 34) : Nat := (((blk : Int) + 256 * offs.toInt) % (2 ^ 57 : Nat)).toNat
/-- An indirect target that raises ALIGNMENT (R145). -/
def badTarget (a : Word) : Bool := bits a 63 57 != 0 || bits a 7 0 != 0

/-- An exit fires (R145, R91): `target` gives the successor, `effs` and `toks` the rest. A null keeps it from firing. -/
def fireExit (i : Instr) (num : Nat) (indirect : Bool) (target : Firing → Option Nat) (effs : Firing → List Eff)
    (toks : Firing → List (Target × Tok)) (d : Dev) : Dev :=
  match d.firing with
  | none => d
  | some c =>
    if !c.ops.holds (prOf i) then d.emit c {}
    else if c.ops.anyNull then d.emit c { toks := nullsTo i }
    else if indirect && badTarget c.ops.a0 then d.holdAt c .alignment c.ops.a0.toNat 0 0
    else d.exitFired c ⟨num, opcode i, target c⟩ (effs c) { toks := toks c }

/-- The fall-through address (R146). -/
def fallThrough (c : Firing) : Nat := c.x.blk + 256 * (2 + (c.code.memChunks - 1) / 2)

/-- BR (R146). -/
def execBr (f : FmtX) (s : State) : Host.Outcome State Fault Refusal :=
  runD (fireExit (.br f) f.exit.toNat false (fun c => some (directTarget c.x.blk f.offs)) (fun _ => []) (fun _ => [])) s
/-- BRIND (R146). -/
def execBrind (f : FmtX) (s : State) : Host.Outcome State Fault Refusal :=
  runD (fireExit (.brind f) f.exit.toNat true (fun c => some c.ops.a0.toNat) (fun _ => []) (fun _ => [])) s
/-- CALL (R146): T0 receives the fall-through address. -/
def execCall (f : FmtX) (s : State) : Host.Outcome State Fault Refusal :=
  runD (fireExit (.call f) f.exit.toNat false (fun c => some (directTarget c.x.blk f.offs)) (fun _ => [])
    (fun c => [(f.t0, .val (splat64 (BitVec.ofNat 64 (fallThrough c))))])) s
/-- CALLI (R146). -/
def execCalli (f : FmtX) (s : State) : Host.Outcome State Fault Refusal :=
  runD (fireExit (.calli f) f.exit.toNat true (fun c => some c.ops.a0.toNat) (fun _ => [])
    (fun c => [(f.t0, .val (splat64 (BitVec.ofNat 64 (fallThrough c))))])) s
/-- RET (R146). -/
def execRet (f : FmtX) (s : State) : Host.Outcome State Fault Refusal :=
  runD (fireExit (.ret f) f.exit.toNat true (fun c => some c.ops.a0.toNat) (fun _ => []) (fun _ => [])) s
/-- LOOP (R148): the successor is the next instance of the block. -/
def execLoop (f : FmtX) (s : State) : Host.Outcome State Fault Refusal :=
  runD (fireExit (.loop f) f.exit.toNat false (fun c => some c.x.blk) (fun _ => []) (fun _ => [])) s
/-- HALT (R149): no successor; the thread ends at the commit. -/
def execHalt (f : FmtX) (s : State) : Host.Outcome State Fault Refusal :=
  runD (fireExit (.halt f) f.exit.toNat false (fun _ => none) (fun _ => []) (fun _ => [])) s
/-- YIELD (R150). -/
def execYield (f : FmtX) (s : State) : Host.Outcome State Fault Refusal :=
  runD (fireExit (.yield f) f.exit.toNat false (fun c => some (directTarget c.x.blk f.offs)) (fun _ => [.yield])
    (fun _ => [])) s
/-- Resume address and argument of `trap` and `sys` (R151): the resume block stands in the exit's target. -/
def trapEff (sys : Bool) (c : Firing) : List Eff := [.trap sys (if c.ops.a.isSome then c.ops.a0 else 0#64)]
/-- TRAP (R151): SW_TRAP after the commit. -/
def execTrap (f : FmtX) (s : State) : Host.Outcome State Fault Refusal :=
  runD (fireExit (.trap f) f.exit.toNat false (fun c => some (directTarget c.x.blk f.offs)) (trapEff false) (fun _ => [])) s
/-- SYS (R151): SYS_CALL after the commit. -/
def execSys (f : FmtX) (s : State) : Host.Outcome State Fault Refusal :=
  runD (fireExit (.sys f) f.exit.toNat false (fun c => some (directTarget c.x.blk f.offs)) (trapEff true) (fun _ => [])) s

/-! ### `compose` (R154-R155, 02 R42-R45) -/

/-- Banks a thread of c registers holds on each grid of a core of width w (02 R36). -/
def banksPer (c w : Nat) : Nat := Nat.max 1 ((c + 16 * w - 1) / (16 * w))
/-- First grids of the aligned sets of a width in a field (02 R42). -/
def alignedSets (field w : Nat) : List Nat :=
  ((if w = 16 then (List.range 6).map (fun k => 8 * k) else (List.range (56 / w)).map (fun k => w * k))).map
    (fun o => field * Config.gridsPerField + o)
/-- The grids of a set. -/
def setGrids (first w : Nat) : List Nat := (List.range w).map (fun k => first + k)
/-- Cores that `compose` instructions have reserved: thread, its registers, first grid, width, slots. -/
def Dev.composeResv (d : Dev) : List (Nat × Nat × Nat × List (Nat × Nat)) :=
  d.insts.flatMap (fun p => p.2.effs.filterMap (fun e => match e.2.2 with
    | .compose first w slots => some (p.2.thr, first, w, slots)
    | _ => none))
/-- What blocked groups hold of a grid, the banks of each slot (13 R377). -/
def Dev.heldFor (d : Dev) (g : Nat) (except : Option Nat) : List Nat :=
  (d.fields.flatMap (fun f => (f.2.blocked.filter (fun b => some b.2.1 != except)).flatMap (fun b => b.2.2))).filterMap
    (fun p => if p.1 = g then some p.2 else none)
/-- Slots of a grid held by no thread, reserved by nothing, not disabled. -/
def Dev.openSlots (d : Dev) (g : Nat) : List Nat :=
  (List.range Config.slots).filter (fun k =>
    let s := (d.grid g).slots.get k {}
    s.thr.isNone && !s.disabled && !d.composeResv.any (fun r => r.2.2.2.contains (g, k)))
/-- Free slots of a grid, in order, but for those held for blocked groups. -/
def Dev.freeSlots (d : Dev) (g : Nat) (except : Option Nat := none) : List Nat :=
  let l := d.openSlots g
  l.take (l.length - (d.heldFor g except).length)
/-- A free slot of a grid. -/
def Dev.freeSlot (d : Dev) (g : Nat) : Option Nat := (d.freeSlots g).head?
/-- Banks a thread holds on a grid. -/
def Dev.heldBanks (d : Dev) (g t : Nat) : Nat := (d.grid g).banks.get t 0
/-- Free banks of a grid: of 16, less those threads hold, those that `compose` instructions have reserved, and those held for
blocked groups. -/
def Dev.freeBanks (d : Dev) (g : Nat) (except : Option Nat := none) : Nat :=
  let held := ((d.grid g).banks.map Prod.snd).sum
  let resv := (d.composeResv.map (fun r =>
    if (setGrids r.2.1 r.2.2.1).contains g then
      banksPer (match d.thr r.1 with | some t => t.regCnt | none => 16) r.2.2.1 - d.heldBanks g r.1
    else 0)).sum
  Config.banks - held - resv - (d.heldFor g except).sum

/-- The kernel of a thread's group. -/
def Dev.kernelRec (d : Dev) (t : Thread) : Kernel :=
  match d.group t.ctx t.gid with
  | some g => (d.ctx t.ctx).kernels.get (bits g.handle 7 0) {}
  | none => {}
/-- A kernel that requires `mx.1` (04 R108). -/
def Kernel.mx (k : Kernel) : Bool := k.req.getLsbD 2

/-- The slots a thread takes on a set, if it qualifies (02 R43): its own where it stays, a free one elsewhere;
a grid with another matrix owner does not take a thread of an `mx.1` kernel (07 R188). -/
def Dev.qualify (d : Dev) (tid : Nat) (t : Thread) (first w : Nat) : Option (List (Nat × Nat)) :=
  let need := banksPer t.regCnt w
  (setGrids first w).foldr (fun g acc =>
    acc.bind (fun l =>
      let owned := match (d.grid g).owner with | some o => o != tid | none => false
      if !(d.ctx t.ctx).parcel.contains g || d.freeBanks g + d.heldBanks g tid < need || (owned && (d.kernelRec t).mx) then none
      else
        match t.slots.find? (fun s => s.1 == g) with
        | some s => some (s :: l)
        | none => (d.freeSlot g).map (fun k => (g, k) :: l))) (some [])

/-- A tile of a thread; before it is configured it is as 07 R192 sets it. -/
def Thread.tile (t : Thread) (k : Nat) : Tile := t.tiles.get k {}
/-- The grids that hold the shares of a tile (07 R190). -/
def Thread.shareGrids (t : Thread) (k : Nat) : List Nat :=
  (List.range (t.tile k).width).map (fun j => t.tileFirst.get k t.first + j)
/-- The tile whose shares a new core would not hold all of (02 R44). -/
def Thread.tileLost (t : Thread) (gs : List Nat) : Option Nat :=
  [0, 1].find? (fun k => (t.tile k).live && !(t.shareGrids k).all (fun g => gs.contains g))
/-- A tile register of a thread is live (07 R189). -/
def Thread.tileLive (t : Thread) : Bool := t.tiles.any (fun p => p.2.live)

/-- The new core that `compose` reserves, in the order of 02 R43: first grid and slots. -/
def Dev.newCore (d : Dev) (tid : Nat) (t : Thread) (w : Nat) : Option (Nat × List (Nat × Nat)) :=
  let field := fieldOf t.first
  let near :=
    if w < t.width then [t.first]
    else (alignedSets field w).filter (fun f => t.grids.all (fun g => (setGrids f w).contains g))
  let try_ := fun (l : List Nat) => l.findSome? (fun f => (d.qualify tid t f w).map (fun s => (f, s)))
  match try_ near with
  | some r => some r
  | none => if t.tileLive then none else try_ (alignedSets field w)

/-- COMPOSE at its firing (R155): T0 the status, T1 eight predicate bits. -/
def execCompose (f : FmtQ) (s : State) : Host.Outcome State Fault Refusal :=
  runR (fun w => (waitFire (.compose f) f.limit (fun c _ => (0x38, BitVec.ofNat 64 c.x.thr))
    (fun w c t =>
      let n := 2 ^ bits f.imm 2 0
      let st := fun (v : Nat) (p : Nat) => (⟨[(f.t0, .val (splat64 (BitVec.ofNat 64 v))), (f.t1, .val (prTok 8 p))], 0#6⟩ : Out)
      let ev := (w.d.event t.ctx (effKey c) c.idx 8 0x38#64 (splat64 0#64)).map (fun e => e.2.2)
      if n = t.width then .sat { w with d := w.d.answer c ev (st 0 255) }
      else
        match w.d.newCore c.x.thr t n with
        | some (first, slots) => .sat { w with d := w.d.answer c (.compose first n slots :: ev) (st 0 255) }
        | none => .wait)
    (fun w c t =>
      let ev := (w.d.event t.ctx (effKey c) c.idx 8 0x38#64 (splat64 1#64)).map (fun e => e.2.2)
      { w with d := w.d.answer c ev ⟨[(f.t0, .val (splat64 1#64)), (f.t1, .val (prTok 8 0))], 0#6⟩ }) w).d) s

/-! ### `setsr`, `hint`, `brkp` -/

/-- SETSR (R139, R143): the write takes effect at the commit; EN without UNDOP in the bind record, or without a configured
log, is PROTECTION (19 R494). -/
def execSetsr (f : FmtG) (s : State) : Host.Outcome State Fault Refusal :=
  runR (fireLoad (.setsr f) fun w c t =>
    let n := bits f.x 7 0
    let k := w.d.ctx t.ctx
    if n = 0x0D ∧ c.ops.a0.getLsbD 0 = true ∧ ((w.d.bctl t.ctx).getLsbD 31 = false ∨ k.log.configured = false) then
      w.d.holdAt c .protection 0 (0x0D * 2 ^ 8) 0
    else w.d.answer c [.setsr n c.ops.a0] {}) s

/-- A fill of a field's fill table started or joined (11 R328); none is started while 32 are held. -/
def Dev.joinFill (d : Dev) (field c : Nat) (kernel : Word) (blk regCnt : Nat) (joined hints : List Nat) : Option Dev :=
  let same := fun (f : Fill) => f.ctx == c && f.kernel == kernel && f.blk == blk && f.regCnt == regCnt
  let fs := (d.field field).fills
  match fs.find? (fun p => same p.2) with
  | some (k, f) => some (d.modField field (fun q => { q with
      fills := q.fills.set k { f with joined := f.joined ++ joined, hints := f.hints ++ hints } }))
  | none =>
    if Config.fillEntries ≤ fs.length then none
    else
      let n := d.newId
      some (n.2.modField field (fun q => { q with
        fills := q.fills ++ [(n.1, { ctx := c, kernel := kernel, blk := blk, regCnt := regCnt, joined := joined, hints := hints,
                                     waitPage := none })] }))

/-- The kernel handle a thread's group runs. -/
def Dev.kernelOf (d : Dev) (t : Thread) : Word := match d.group t.ctx t.gid with | some g => g.handle | none => 0#64

/-- HINT (R152): a fetch into the placement cache; dropped on an absent page or without X. -/
def execHint (f : FmtX) (s : State) : Host.Outcome State Fault Refusal :=
  runR (fireLoad (.hint f) fun w c t =>
    let a := directTarget c.x.blk f.offs
    let d := w.d.emit c {}
    let r := w.rights t.first t.ctx a
    if !w.isLocal a || !hasRights r.1 rX then d
    else
      match w.translate t.ctx 0 a with
      | .ok _ _ => (d.joinFill (fieldOf c.x.grid) t.ctx (d.kernelOf t) a t.regCnt [] [c.x.grid]).getD d
      | _ => d) s

/-- BRKP (R153): noted in the instance; its commit stops the grid where debug stops are enabled. -/
def execBrkp (f : FmtX) (s : State) : Host.Outcome State Fault Refusal :=
  runD (fun d =>
    match d.firing with
    | none => d
    | some c =>
      if !c.ops.holds f.pr then d.emit c {}
      else d.emit { c with x := { c.x with brkp := some (bits f.offs 15 0) } } {}) s

end Sys2Proof.Machine
end

