-- ==== Sys2Proof/Machine/Deliver.lean ====
section
/-!
DEFINITION. What the device itself sends: writes at SYSTEM scope, completion words of host commands (10 R281, R285-R286),
engine completions to operands, event latches, barriers and mailboxes (08 R249, 12 R352, 13 R387, 14 R399), and the
completion of launch records (12 R351).
-/

namespace Sys2Proof.Machine

/-! ### Reads and writes of the device -/

/-- Bytes written by the device as a release at SYSTEM scope (09 R268): they, and every line of another package or of the host that
the L2 holds modified, go on to their homes. -/
def W.sysWrite (w : W) (c : Nat) (cs : List Host.Cell) : W := (w.pkgWrite c 0 cs).l2Flush c true (fun _ => true)

/-- Lines at their PACKAGE points. -/
def W.homeLines (w : W) (c rnum : Nat) (ls : List Nat) : Rd (List (Nat × List Byte)) × W :=
  ls.foldl (fun acc l =>
    match acc with
    | (.ok q, w) =>
      (match w.home c rnum l with
        | (.ok bs, w) => (.ok (q ++ [(l, bs)]), w)
        | (.absent, w) => (.absent, w)
        | (.waits, w) => (.waits, w)
        | (.ecc, w) => (.ecc, w)
        | (.lost, w) => (.lost, w)
        | (.noRegion, w) => (.noRegion, w))
    | r => r) (.ok [], w)

/-- Bytes of global memory at their PACKAGE points. -/
def W.readHome (w : W) (c rnum x n : Nat) : Rd (List Byte) × W :=
  match w.homeLines c rnum (((span x n).map lineOf).eraseDups) with
  | (.ok ls, w) =>
    (.ok ((span x n).map (fun a => ((ls.find? (fun q => q.1 == lineOf a)).map (fun q => q.2.getD (a % 32) 0#8)).getD 0#8)), w)
  | (.absent, w) => (.absent, w)
  | (.waits, w) => (.waits, w)
  | (.ecc, w) => (.ecc, w)
  | (.lost, w) => (.lost, w)
  | (.noRegion, w) => (.noRegion, w)

/-- A record of 64 bytes at an address below 2^57, if it can be read. -/
def W.readRec (w : W) (c x : Nat) : Option Vec × W :=
  if 2 ^ 57 ≤ x then (none, w)
  else match w.readHome c 0 x 64 with
    | (.ok bs, w) => (some (vecOfBytes bs), w)
    | (_, w) => (none, w)

/-! ### Host commands -/

/-- Command statuses (10 R286). -/
def sDone : Nat := 0
def sBadState : Nat := 1
def sBadArgument : Nat := 2
def sNoResource : Nat := 3
def sStale : Nat := 4

/-- The completion of a command (10 R285): status, state code after the command, completion word. An address that is not
16-byte aligned or not a global one receives nothing (log 19). -/
def W.finish (w : W) (c : Nat) (cmd : CmdRec) (status word : Nat) : W :=
  let a := cmd.compl.toNat
  if a = 0 ∨ a % 16 ≠ 0 ∨ 2 ^ 57 ≤ a then w
  else w.sysWrite c (cellsAt a (leBytes 8 (status + stateCode (w.d.ctx c).st * 2 ^ 8) ++ leBytes 8 word))

/-- The stale-answer count of a context raised (10 R281). -/
def Dev.countStale (d : Dev) (c : Nat) : Dev := d.modCtx c (fun k => { k with stale := (k.stale + 1) % 2 ^ 32 })
/-- The forwarding-error count of a context raised (08 R243). -/
def Dev.fwdError (d : Dev) (c : Nat) : Dev := d.modCtx c (fun k => { k with fwderr := (k.fwderr + 1) % 2 ^ 32 })

/-- A host command: a generation that differs, or a context that is FREE or KILLED, is counted and answered STALE (R281,
R286); a state that does not accept it is BAD_STATE (R288). -/
def command (states : List CState) (f : W → Nat → CmdRec → W) (cmd : CmdRec) (w : W) : W :=
  let c := cmd.ctx.toNat
  let k := w.d.ctx c
  if k.st = .free ∨ k.st = .killed ∨ k.gen ≠ cmd.gen then W.finish { w with d := w.d.countStale c } c cmd sStale 0
  else if !states.contains k.st then w.finish c cmd sBadState 0
  else f w c cmd

/-- The states that accept queue, kernel and barrier commands (11 R322, 12 R346, 14 R400). -/
def objectStates : List CState := [.opened, .bound, .running, .frozen, .saved]

/-! ### Threads of a group -/

/-- A thread of a group by number. -/
def Dev.memberOf (d : Dev) (c gid tnum : Nat) : Option (Nat × Thread) :=
  d.threads.find? (fun p => p.2.ctx == c && p.2.gid == gid && p.2.tnum == tnum)
/-- Effects of the uncommitted instances of a context. -/
def Dev.ctxEffs (d : Dev) (c : Nat) : List Eff :=
  d.insts.flatMap (fun p => if d.ctxOf p.2 = c then p.2.effs.map (fun e => e.2.2) else [])

/-! ### Mailboxes (12 R352) -/

/-- Messages a priority holds. -/
def mboxSize : Nat := 64
/-- The name of a mailbox priority in fault records and wait keys (12 R356). -/
def mailIdent (gid tnum prio : Nat) : Nat := gid % 2 ^ 32 + tnum % 64 * 2 ^ 32 + prio % 4 * 2 ^ 38
/-- A priority of a thread's mailbox. -/
def Thread.mbox (t : Thread) (p : Nat) : Mbox := t.mboxes.get p {}
/-- Entries of a priority that uncommitted `mbsend` instructions have reserved. -/
def Dev.mboxResv (d : Dev) (tid p : Nat) : Nat :=
  (d.allEffs.filter (fun e => match e.2 with | .mbsend t q _ => t == tid && q == p | _ => false)).length
/-- An entry of a priority is free; in the window of source gating insertions are stopped (10 R293), and deliveries that wait are
taken up in the sweeps that follow it (log 37). -/
def Dev.mboxSpace (d : Dev) (tid p : Nat) : Bool :=
  match d.thr tid with
  | some t => decide ((t.mbox p).msgs.length + d.mboxResv tid p < mboxSize) && !((d.ctx t.ctx).st == .gating && (d.ctx t.ctx).gatePhase ≤ 1)
  | none => false
/-- Messages of a priority that stand on chip; later ones stand in the message spill area of the thread's unit (13 R370). -/
def mboxChip : Nat := 16
/-- Cells by offset in a unit that the device writes at the unit of a thread (13 R370). -/
def W.toUnit (w : W) (t : Thread) (cs : List Host.Cell) : W :=
  match (w.d.ctx t.ctx).plat with
  | none => w
  | some p => w.pkgWrite t.ctx 0 (cs.map (fun q => (p.poolBase + 65536 * t.unit + q.1, q.2)))
/-- A message and its origin word in the spill area of a priority. DESIGN CHOICE: its place is its number among the arrivals,
modulo 48 (log 26). -/
def spillMail (p : Nat) (m : Msg) : List Host.Cell :=
  cellsAt (0xC00 * p + 64 * (m.seq % 48)) (bytesOfVec m.data) ++ cellsAt (0x3000 + 0x180 * p + 8 * (m.seq % 48)) (leBytes 8 m.origin.toNat)
/-- A message arrives. -/
def W.putMail (w : W) (tid p : Nat) (data : Vec) (origin : Nat) : W :=
  match w.d.thr tid with
  | none => w
  | some t =>
    let m := t.mbox p
    let msg : Msg := ⟨data, BitVec.ofNat 64 origin, m.arrived⟩
    let w := if mboxChip ≤ m.msgs.length then w.toUnit t (spillMail p msg) else w
    { w with d := w.d.modThr tid (fun t => { t with mboxes := t.mboxes.set p { m with
        msgs := m.msgs ++ [msg], arrived := (m.arrived + 1) % 2 ^ 32 } }) }
/-- The `mbsend` instructions that wait for an entry of a priority. -/
def Dev.mailClaims (d : Dev) (c gid tnum p : Nat) : List Wait :=
  d.waits.filter (fun q => q.key == (1, BitVec.ofNat 64 (mailIdent gid tnum p)) &&
    (match d.inst q.iid with | some x => d.ctxOf x == c | none => false))
/-- An engine or `ldfwd` delivery (R352): it arrives, or waits at the ring stop while its priority is full or an earlier
claim waits. One to a thread that its group does not have is dropped (log 20). -/
def W.deliverMail (w : W) (c gid tnum p : Nat) (data : Vec) (origin : Nat) : W :=
  match w.d.memberOf c gid tnum with
  | none => w
  | some (tid, t) =>
    let o := origin + p * 2 ^ 6
    if w.d.mboxSpace tid p && (t.mbox p).waiting.isEmpty && (w.d.mailClaims c gid tnum p).isEmpty then w.putMail tid p data o
    else { w with d := w.d.modThr tid (fun t => { t with mboxes := t.mboxes.set p { t.mbox p with
      waiting := (t.mbox p).waiting ++ [(w.d.cycle, ⟨data, BitVec.ofNat 64 o, 0⟩)] } }) }
/-- The oldest waiting delivery of a priority may take an entry: one is free, and no `mbsend` began waiting before it. -/
def Dev.mailDue (d : Dev) (tid p : Nat) : Option Msg :=
  match d.thr tid with
  | none => none
  | some t =>
    match (t.mbox p).waiting with
    | [] => none
    | (at_, m) :: _ =>
      if d.mboxSpace tid p && (d.mailClaims t.ctx t.gid t.tnum p).all (fun q => decide (at_ ≤ q.since)) then some m else none
/-- A waiting delivery takes a free entry. -/
def W.mailArrives (w : W) (tid p : Nat) : W :=
  match w.d.mailDue tid p with
  | none => w
  | some m =>
    let d := w.d.modThr tid (fun t => { t with mboxes := t.mboxes.set p { t.mbox p with waiting := (t.mbox p).waiting.drop 1 } })
    W.putMail { w with d := d } tid p m.data m.origin.toNat

/-- MAILBOX_DELIVERY (R352): thread `a`, priority `b`. -/
def execMailboxDelivery (s : State) : Host.Outcome State Fault Refusal :=
  run (fun w => w.mailArrives w.d.arg.a w.d.arg.b) s

/-! ### Event latches (13 R387) -/

/-- An event number that names no latch of a group. -/
def Dev.badEvent (d : Dev) (c gid num : Nat) : Bool :=
  decide (2 ^ 10 ≤ num) || (match d.group c gid with | some g => decide (g.nthreads ≤ num / 16) | none => true)
/-- A latch of a group set; a signal to a thread that has ended is dropped. -/
def Dev.setLatch (d : Dev) (c gid num : Nat) : Dev :=
  match d.memberOf c gid (num / 16) with
  | none => d
  | some (tid, t) => if t.ended then d else d.modThr tid (fun t => { t with latches := t.latches ||| (1#16 <<< (num % 16)) })

/-! ### Barriers and gates (14 R395-R399, 13 R374-R375, R380) -/

/-- A barrier of a context. -/
def Ctx.bar (k : Ctx) (n : Nat) : Barrier := k.bars.get n {}
/-- The number that a handle names, if it is not stale (R396). -/
def Ctx.barOf (k : Ctx) (h : Nat) : Option Nat :=
  let b := k.bar (h % 1024)
  if h < 2 ^ 32 ∧ b.armed = true ∧ b.bgen = h / 1024 then some (h % 1024) else none
/-- A phase is reached (R397). -/
def reached (phase t : Nat) : Bool := decide ((phase + 2 ^ 30 - t % 2 ^ 30) % 2 ^ 30 < 2 ^ 29)
/-- A gate is open (13 R374): kind 00, or a live barrier whose phase is reached. -/
def Ctx.gateOpen (k : Ctx) (w : Word) : Bool :=
  if bits w 63 62 = 0 then true
  else match k.barOf (bits w 31 0) with
    | some n => reached (k.bar n).phase (bits w 61 32)
    | none => false
/-- Both gates of a record are open. -/
def Ctx.gatesOpen (k : Ctx) (rcd : Vec) : Bool := k.gateOpen (vlane rcd 3) && k.gateOpen (vlane rcd 4)
/-- V of a context in a field (13 R375). -/
def Ctx.v (k : Ctx) (f : Nat) : Nat := k.vcount.get f 0
/-- Contexts with QUEUED groups in a field. -/
def Dev.queuedCtxs (d : Dev) (f : Nat) : List Nat :=
  ((d.groups.filter (fun g => g.st == .queued && (d.ctx g.ctx).home == f)).map (fun g => g.ctx)).eraseDups
/-- The V of a context that gets a QUEUED group in a field and had none: at least the smallest of the field's other contexts with
QUEUED groups (13 R375). -/
def Dev.raiseV (d : Dev) (c f : Nat) : Dev :=
  let others := (d.queuedCtxs f).filter (fun o => o != c)
  match others.foldl (fun (m : Option Nat) o => some (match m with | some v => min v ((d.ctx o).v f) | none => (d.ctx o).v f)) none with
  | some v => d.modCtx c (fun k => { k with vcount := k.vcount.set f (max (k.v f) v) })
  | none => d
/-- The grids of a field from the coolest on (13 R376). -/
def Field.order (f : Field) : List Nat := if f.ranking.isEmpty then List.range Config.gridsPerField else f.ranking
/-- The thermal ranking table of a field in 6 bits a place, 63 where a grid is not ranked (13 R376, R380, log 50). -/
def Dev.rankBits (d : Dev) (f : Nat) : Nat :=
  ((List.range Config.gridsPerField).map (fun k => (d.field f).order.getD k 63 % 64 * 2 ^ (6 * k))).sum
/-- The placement request of a group (13 R380, log 50): context, group identifier, lane 1 of its launch record, ranking table. -/
def Dev.placeLanes (d : Dev) (f : Nat) (g : Group) : List Word :=
  let r := d.rankBits f
  [d.ident g.ctx, BitVec.ofNat 64 (g.gid % 2 ^ 32 + r / 2 ^ 320 % 2 ^ 32 * 2 ^ 32), vlane g.rcd 1] ++
    (List.range 5).map (fun k => BitVec.ofNat 64 (r / 2 ^ (64 * k)))
/-- The placement of a group is asked of its field controller, which asks the host unless it has a policy loaded (13 R380, 10
R291). -/
def Dev.askPlace (d : Dev) (c gid : Nat) : Dev :=
  let f := (d.ctx c).home
  match d.group c gid with
  | some g => if (d.field f).policy then d else d.request 2 f (d.placeLanes f g)
  | none => d
/-- A group enters QUEUED (13 R373): its wait clock starts; a context that had no QUEUED group in the field raises its V (R375);
under DISP_HA its placement is asked for (R380). -/
def Dev.enqueue (d : Dev) (c gid : Nat) : Dev :=
  let f := (d.ctx c).home
  let d := if (d.queuedCtxs f).contains c then d else d.raiseV c f
  let ha := (d.bctl c).getLsbD 24
  let d := d.modGroup c gid (fun g => { g with st := .queued, since := d.cycle, asked := ha, answered := none })
  if ha then d.askPlace c gid else d
/-- Gates of a context that have opened (13 R374). -/
def Dev.openGates (d : Dev) (c : Nat) : Dev :=
  d.groups.foldl (fun d g => if g.ctx = c ∧ g.st = .gated ∧ (d.ctx c).gatesOpen g.rcd = true then d.enqueue c g.gid else d) d
/-- Arrivals reserved in a barrier; with `drop`, those of `arrive.drop` alone. -/
def Dev.barResv (d : Dev) (c n bgen : Nat) (drop : Bool) : Nat :=
  ((d.ctxEffs c).filter (fun e => match e with | .arrive m g q => m == n && g == bgen && (q || !drop) | _ => false)).length
/-- The phase of a barrier takes no further arrival (R399). -/
def Dev.barFull (d : Dev) (c n : Nat) : Bool :=
  let b := (d.ctx c).bar n
  decide (b.expected ≤ b.arrivals + d.barResv c n b.bgen false)
/-- An arrival counted, and the phase advanced when it is the last (R398). -/
def Barrier.arrive (b : Barrier) (drop : Bool) : Barrier :=
  let drops := b.drops + (if drop then 1 else 0)
  if b.arrivals + 1 = b.expected then
    { b with phase := (b.phase + 1) % 2 ^ 30, arrivals := 0, expected := b.expected - drops, drops := 0 }
  else { b with arrivals := b.arrivals + 1, drops := drops }
/-- An arrival at a barrier; the gates are tested in the cycle in which the phase changes (13 R374). -/
def Dev.barArrive (d : Dev) (c n : Nat) (drop : Bool) : Dev :=
  let b := (d.ctx c).bar n
  let d := d.modCtx c (fun k => { k with bars := k.bars.set n (b.arrive drop) })
  if (b.arrive drop).phase = b.phase then d else d.openGates c
/-- An engine completion of KIND 0x3 (R399). -/
def Dev.barEngine (d : Dev) (c : Nat) (handle : BitVec 32) (scope : Nat) : Dev :=
  match (d.ctx c).barOf handle.toNat with
  | none => d.fwdError c
  | some n => if d.barFull c n then { d with arrWaits := d.arrWaits ++ [⟨c, handle, scope⟩] } else d.barArrive c n false

/-- An engine arrival that waits can be taken up: its barrier is stale, or its phase has room. -/
def Dev.arrDue (d : Dev) (a : ArrWait) : Bool :=
  match (d.ctx a.ctx).barOf a.handle.toNat with
  | none => true
  | some n => !d.barFull a.ctx n

/-- BARRIER_ENGINE_ARRIVAL (R399): the oldest arrival that waited for a full phase and finds room counts; one whose barrier
has been freed is dropped and counted. -/
def execBarrierEngineArrival (s : State) : Host.Outcome State Fault Refusal :=
  runD (fun d =>
    match d.arrWaits.find? d.arrDue with
    | none => d
    | some a => ({ d with arrWaits := d.arrWaits.erase a } : Dev).barEngine a.ctx a.handle a.scope) s

/-! ### Completions (08 R249) -/

/-- The engine's release at its scope (R249): writes beyond PACKAGE scope go on to their homes. -/
def W.engineRelease (w : W) (c scope : Nat) : W :=
  if 3 ≤ scope then w.l2Flush c (decide (4 ≤ scope)) (fun _ => true) else w

/-- A completion performed: `gid` is the group whose threads KIND 0x2 and 0x4 name, `acq` the copy's destination for the
acquire of 09 R276. -/
def W.action (w : W) (c gid : Nat) (k : Compl) (scope status tag : Nat) (acq : Option (Nat × Nat × Nat)) : W :=
  let w := w.engineRelease c scope
  let d := w.d
  let v := BitVec.ofNat 64 status
  match k.kind.toNat with
  | 1 =>
    let t : FarTok := { grid := k.grid, ctx := c, placement := none, tag := k.tag, tgt := k.tgt, tok := .val (splat64 v),
                        producer := none, acq := acq }
    { w with d := { d with retained := d.retained ++ [t] }.modGrid k.grid (fun g => { g with overflow := g.overflow ++ [t] }) }
  | 2 =>
    let num := bits k.arg 15 0
    { w with d := if d.badEvent c gid num then d.fwdError c else d.setLatch c gid num }
  | 3 => { w with d := d.barEngine c k.arg scope }
  | 4 => w.deliverMail c gid (bits k.arg 5 0) (bits k.arg 7 6) (vecOf [v, BitVec.ofNat 64 tag]) (2 ^ 10)
  | _ => w

/-! ### Launch records (12 R350-R351) -/

/-- Statuses of launch records (R351). -/
def lDone : Nat := 0
def lKernel : Nat := 1
def lFailed : Nat := 2
def lInvalid : Nat := 3
def lDiscarded : Nat := 4

/-- A launch record completes (R351): the status word at its status address, then its completion action, whose mailbox and
event threads are those of the group that issued it (log 21). -/
def W.completeRecord (w : W) (c : Nat) (issuer : Option Nat) (rcd : Vec) (status gid : Nat) : W :=
  let a := (vlane rcd 6).toNat
  let w := if a = 0 ∨ 2 ^ 57 ≤ a then w else w.sysWrite c (cellsAt a (leBytes 8 (status + gid % 2 ^ 32 * 2 ^ 32)))
  w.action c (issuer.getD 0) (complOf rcd) 2 status (bits (vlane rcd 7) 31 0) none

/-- An address of a launch record that is misaligned, or none of the address space. -/
def badAddr (a : Word) (n : Nat) : Bool := a.toNat % n != 0 || bits a 63 57 != 0
/-- A gate of a reserved kind (R350). -/
def badGate (w : Word) : Bool := decide (2 ≤ bits w 63 62)
/-- An invalid launch record (R350); `regs` is the REGS of its kernel's header, `host` says that it is a host append. -/
def badLaunch (rcd : Vec) (regs : Nat) (host : Bool) : Bool :=
  let l1 := vlane rcd 1
  let l5 := vlane rcd 5
  let kind := bits l5 63 60
  bits l1 63 19 != 0 || bits l1 15 14 != 0 || bits l1 11 11 != 0 || bits l1 7 7 != 0 || bits (vlane rcd 7) 63 32 != 0 ||
    bits l5 47 41 != 0 || bits l1 6 0 == 0 || decide (64 < bits l1 6 0) || decide (4 < bits l1 10 8) || bits l1 13 12 == 3 ||
    decide (16 * 2 ^ bits l1 13 12 < regs) || badAddr (vlane rcd 2) 64 || badAddr (vlane rcd 6) 8 ||
    badGate (vlane rcd 3) || badGate (vlane rcd 4) || kind == 1 || decide (4 < kind) || (host && kind == 4)

end Sys2Proof.Machine
end

