-- ==== Sys2Proof/Machine/Locks.lean ====
section
/-!
DEFINITION. Changing the leaves of the page tables: state, hardware locks, frames (15 R410, R416-R417, R424).
-/

namespace Sys2Proof.Machine

/-- Word 0 of an entry with another state. -/
def withState (w0 s : Nat) : Nat := w0 % 2 ^ 59 + s % 8 * 2 ^ 59 + w0 / 2 ^ 62 * 2 ^ 62
/-- Word 0 with another lock count. -/
def withLocks (w0 n : Nat) : Nat := w0 / 2 ^ 11 * 2 ^ 11 + n % 2 ^ 11
/-- Word 0 with bit k set or cleared. -/
def withBit (w0 k : Nat) (b : Bool) : Nat := w0 % 2 ^ k + (if b then 2 ^ k else 0) + w0 / 2 ^ (k + 1) * 2 ^ (k + 1)
/-- Word 0 with another frame address. -/
def withAddr (w0 a : Nat) : Nat := w0 % 2 ^ 11 + a / 2 ^ 11 % 2 ^ 41 * 2 ^ 11 + w0 / 2 ^ 52 * 2 ^ 52
/-- PRESENT or LOCKED, as PIN and LOCKS say (R416). -/
def settled (w0 : Nat) : Nat := withState w0 (if entBit w0 55 || entLocks w0 != 0 then stLocked else stPresent)

/-- A page command waits for the locks of a leaf, so that later lock requests wait behind it (R419). -/
def Dev.lockQueued (d : Dev) (page : Nat) : Bool := d.pcmds.any (fun c => c.waitLocks && c.page == page)

/-- A hardware lock taken on the leaf of an address. -/
def W.lock (w : W) (x : Nat) : W :=
  match w.leafAt x with
  | none => w
  | some l => w.setLeaf x l (settled (withLocks l.w0 (entLocks l.w0 + 1))) l.w1
/-- A hardware lock let go. -/
def W.unlock (w : W) (x : Nat) : W :=
  match w.leafAt x with
  | none => w
  | some l =>
    let w0 := withLocks l.w0 (entLocks l.w0 - 1)
    w.setLeaf x l (if l.state = stLocked then settled w0 else w0) l.w1

/-- The locks that flushed and retired holders have let go, lowered in the tables. -/
def W.settleLocks (w : W) : W :=
  let l := w.d.unlocks
  l.foldl (fun w x => w.unlock x) { w with d := { w.d with unlocks := [] } }

/-- What checking the pages of ranges finds. -/
inductive Pages where
  | ok (leaves : List Nat)
  | fault (c : Cause) (x : Nat)
  | absent (x : Nat)
  | waits
deriving DecidableEq, Repr

/-- The 16 KiB pages of ranges, each once. -/
def rangePages (l : List (Nat × Nat)) : List Nat :=
  (l.flatMap (fun r => if r.2 = 0 then [] else (List.range ((r.1 + r.2 - 1) / 2 ^ 14 + 1 - r.1 / 2 ^ 14)).map (fun i => (r.1 / 2 ^ 14 + i) * 2 ^ 14))).eraseDups

/-- Rights and presence of every page of some ranges of the local package (07 R202, 17 R464): the leaves to lock. -/
def W.checkPages (w : W) (g c rnum : Nat) (need : BitVec 3) (l : List (Nat × Nat)) : Pages × W :=
  (rangePages l).foldl (fun acc p =>
    match acc.1 with
    | .ok ls =>
      let r := acc.2.rights g c p
      if !hasRights r.1 need || !r.2.isLocal p || (need &&& rW != 0#3 && r.2.d.wprotected p 1) then (.fault .protection p, r.2)
      else
        match r.2.translate c rnum p with
        | .ok _ _ =>
          (match r.2.leafAt p with
            | some lf => if r.2.d.lockQueued (lf.base p) then (.waits, r.2) else (.ok (if ls.contains (lf.base p) then ls else ls ++ [lf.base p]), r.2)
            | none => (.absent p, r.2))
        | .absent => (.absent p, r.2)
        | .waits => (.waits, r.2)
        | .noRegion => (.fault .protection p, r.2)
    | _ => acc) (.ok [], w)

/-- Locks taken on leaves. -/
def W.lockAll (w : W) (l : List Nat) : W := l.foldl (fun w x => w.lock x) w

end Sys2Proof.Machine
end

