-- ==== Sys2Proof/Machine/Queue.lean ====
section
/-!
DEFINITION. Queues with handles, mailboxes and multicast rings (12 R343-R365), and `launch` (11 R338-R340): host commands,
instructions as they fire, and the insertions and removals that their commits perform. What uncommitted instructions have
reserved is read off their effects.
-/

namespace Sys2Proof.Machine

/-! ### Handles, indices and space (R344, R348) -/

/-- The handle of a queue by its number. -/
def Queue.handle (q : Queue) (n : Nat) : Nat := n % 2 ^ 10 + q.qgen % 2 ^ 32 * 2 ^ 10 + q.kind % 16 * 2 ^ 60
/-- A queue of a context by number. -/
def Ctx.queue (k : Ctx) (n : Nat) : Queue := k.queues.get n {}
/-- The queue that a handle names, if it is not stale; a handle with a reserved bit set is stale (log 22). -/
def Ctx.queueOf (k : Ctx) (h : Nat) : Option (Nat × Queue) :=
  let n := h % 2 ^ 10
  let q := k.queue n
  if q.st ≠ .none ∧ h = q.handle n then some (n, q) else none
/-- A queue changed. -/
def Dev.modQueue (d : Dev) (c n : Nat) (f : Queue → Queue) : Dev :=
  d.modCtx c (fun k => { k with queues := k.queues.set n (f (k.queue n)) })

/-- Entries between head and tail. -/
def Queue.count (q : Queue) : Nat := (q.tail + 2 ^ 32 - q.head) % 2 ^ 32
/-- Their indices, oldest first. -/
def Queue.indices (q : Queue) : List Nat := (List.range q.count).map (fun k => (q.head + k) % 2 ^ 32)
/-- The indices not removed. -/
def Queue.live (q : Queue) : List Nat := q.indices.filter (fun i => !q.removed.contains i)
/-- Address of the entry of an index. -/
def Queue.entry (q : Queue) (i : Nat) : Nat := q.base + 64 * (i % q.size)
/-- Slot number of an index of a ring. -/
def Queue.slot (q : Queue) (i : Nat) : Nat := i % q.size
/-- The member mask of a ring. -/
def Queue.members (q : Queue) : Nat := 2 ^ q.width - 1
/-- The head moved past what has been removed, and in a ring past free slots. -/
def Queue.advance (q : Queue) (fuel : Nat) : Queue :=
  match fuel with
  | 0 => q
  | n + 1 =>
    let gone := if q.kind = 3 then q.masks.get (q.slot q.head) 0 == 0 else q.removed.contains q.head
    if q.head ≠ q.tail ∧ gone = true then
      Queue.advance { q with head := (q.head + 1) % 2 ^ 32, removed := q.removed.erase q.head } n
    else q

/-- Space that uncommitted instructions have reserved in a queue. -/
def Dev.pushResv (d : Dev) (c h : Nat) : Nat :=
  ((d.ctxEffs c).filter (fun e => match e with
    | .qpush q _ => q == h
    | .launch q _ => q == h
    | .fork _ _ _ _ _ q _ => q == h
    | .mcput q _ _ => q == h
    | _ => false)).length
/-- Indices that uncommitted removals have reserved; a ring's by member. -/
def Dev.popResv (d : Dev) (c h : Nat) : List Nat :=
  (d.ctxEffs c).filterMap (fun e => match e with | .qpop q i => if q = h then some i else none | _ => none)
def Dev.takeResv (d : Dev) (c h member : Nat) : List Nat :=
  (d.ctxEffs c).filterMap (fun e => match e with
    | .mctake q i m => if q = h ∧ m = member then some i else none
    | _ => none)
/-- Free space (R348). -/
def Dev.queueFree (d : Dev) (c n : Nat) : Nat :=
  let q := (d.ctx c).queue n
  q.size - q.count - d.pushResv c (q.handle n)
/-- DRAINING ends when the queue is empty and no push is reserved (R347). -/
def Dev.settleQueue (d : Dev) (c n : Nat) : Dev :=
  let q := (d.ctx c).queue n
  if q.st = .draining ∧ q.head = q.tail ∧ d.pushResv c (q.handle n) = 0 then d.modQueue c n (fun q => { q with st := .closed })
  else d
/-- Every queue of every context. -/
def Dev.settleQueues (d : Dev) : Dev :=
  d.ctxs.foldl (fun d k => k.2.queues.foldl (fun d q => d.settleQueue k.1 q.1) d) d

/-! ### Insertions and removals as commits perform them -/

/-- An entry written at the tail (R348-R349): its index. -/
def W.qAppend (w : W) (c n : Nat) (v : Vec) : Nat × W :=
  let q := (w.d.ctx c).queue n
  let w := w.pkgWrite c 0 (cellsAt (q.entry q.tail) (bytesOfVec v))
  (q.tail, { w with d := w.d.modQueue c n (fun q => { q with tail := (q.tail + 1) % 2 ^ 32 }) })
/-- A queue that still takes the insertion reserved in it. -/
def Ctx.insertable (k : Ctx) (h kind : Nat) : Option Nat :=
  match k.queueOf h with
  | some (n, q) => if q.kind = kind ∧ (q.st = .opened ∨ q.st = .draining) then some n else none
  | none => none
/-- The commit of `qpush`. -/
def W.qpushCommit (w : W) (c h : Nat) (v : Vec) : W :=
  match (w.d.ctx c).insertable h 2 with
  | some n => (w.qAppend c n v).2
  | none => w
/-- The commit of `launch` or of the launch of a `fork`: the record's revision and its issuer are kept beside it. -/
def W.launchCommit (w : W) (c h : Nat) (rcd : Vec) (rev gid : Nat) : W :=
  match (w.d.ctx c).insertable h 1 with
  | some n =>
    let r := w.qAppend c n rcd
    let kept := fun (q : Queue) => { q with
      revs := if rev = 0 then q.revs else q.revs.set r.1 rev, issuers := q.issuers.set r.1 gid }
    { r.2 with d := r.2.d.modQueue c n kept }
  | none => w
/-- An index removed. -/
def Dev.qRemove (d : Dev) (c n i : Nat) : Dev :=
  (d.modQueue c n (fun q => Queue.advance { q with removed := i :: q.removed, revs := q.revs.erase i,
                                                   issuers := q.issuers.erase i } (q.count + 1))).settleQueue c n
/-- The commit of `qpop`. -/
def Dev.qpopCommit (d : Dev) (c h i : Nat) : Dev :=
  match (d.ctx c).queueOf h with
  | some (n, q) => if q.live.contains i then d.qRemove c n i else d
  | none => d
/-- Key of a slot of a ring on a member grid. -/
def Queue.slotKey (q : Queue) (member i : Nat) : Nat := spKey (q.first + member) (q.scratch + 64 * q.slot i)
/-- Members of a mask. -/
def maskBits (m : Nat) : List Nat := (List.range 16).filter (fun k => m.testBit k)
/-- The commit of `mcput` (R353, R363): the token in the slot at the tail of every member of the mask. -/
def W.mcputCommit (w : W) (c h mask : Nat) (v : Vec) : W :=
  match (w.d.ctx c).insertable h 3 with
  | none => w
  | some n =>
    let q := (w.d.ctx c).queue n
    let w := (maskBits mask).foldl (fun w m => w.wrs (cellsAt (q.slotKey m q.tail) (bytesOfVec v))) w
    { w with d := (w.d.modQueue c n (fun q => Queue.advance { q with
        masks := q.masks.set (q.slot q.tail) mask, tail := (q.tail + 1) % 2 ^ 32 } (q.count + 1))) }
/-- The commit of `mctake`: the member's bit cleared, its cursor past the slot; a cursor never moves back (R353). -/
def Dev.mctakeCommit (d : Dev) (c h i member : Nat) : Dev :=
  match (d.ctx c).queueOf h with
  | none => d
  | some (n, q) =>
    if q.indices.contains i then
      (d.modQueue c n (fun q =>
        let m := q.masks.get (q.slot i) 0
        let at_ := q.cursors.get member 0
        let next := (i + 1) % 2 ^ 32
        Queue.advance { q with masks := q.masks.set (q.slot i) (if m.testBit member then m - 2 ^ member else m),
                               cursors := q.cursors.set member (if (next + 2 ^ 32 - at_) % 2 ^ 32 < 2 ^ 31 then next else at_) } (q.count + 1))).settleQueue c n
    else d

/-- The storage of a queue has an uncorrectable error (R347): FAULTED, and the host is notified. -/
def W.queueFault (w : W) (c n : Nat) : W :=
  let q := (w.d.ctx c).queue n
  if q.st = .opened ∨ q.st = .draining then
    W.notify { w with d := w.d.modQueue c n (fun q => { q with st := .faulted }) } c (stateCode (w.d.ctx c).st) (fcause .dataEcc)
  else w

/-! ### Statuses (R355) -/

/-- The status that an insertion ends with at once, if any. -/
def Ctx.insertStatus (k : Ctx) (h kind : Nat) : Option Nat :=
  match k.queueOf h with
  | none => some 2
  | some (_, q) => if q.st = .faulted then some 5 else if q.kind ≠ kind then some 3 else if q.st = .opened then none else some 2
/-- The status that a removal ends with at once, if any. -/
def Ctx.removeStatus (k : Ctx) (h kind : Nat) : Option Nat :=
  match k.queueOf h with
  | none => some 2
  | some (_, q) =>
    if q.st = .faulted then some 5
    else if q.kind ≠ kind then some 3
    else
      match q.st with
      | .opened => none
      | .faulted => some 5
      | .draining => if q.head = q.tail then some 6 else none
      | .closed => some 6
      | _ => some 2
/-- A ring whose cluster does not lie in the parcel of its context (R347). -/
def Ctx.ringOutside (k : Ctx) (q : Queue) : Bool := !(List.range q.width).all (fun i => k.parcel.contains (q.first + i))
/-- The member that a thread's core grid 0 is. -/
def Queue.memberOf (q : Queue) (t : Thread) : Option Nat :=
  if q.first ≤ t.first ∧ t.first < q.first + q.width then some (t.first - q.first) else none

/-- The info token (R359). -/
def infoTok (status i x : Nat) : Tok := .val (vecOf [BitVec.ofNat 64 status, BitVec.ofNat 64 i, BitVec.ofNat 64 x])
/-- What a removal that gives no entry sends: a null and the info token. -/
def noEntry (f : FmtQ) (status : Nat) : Out := { toks := [(f.t0, .null), (f.t1, infoTok status 0 0)] }
/-- TRAP of a waiting instruction. -/
def trapBit (f : FmtQ) : Bool := f.imm.getLsbD 0
/-- Head and tail for lane 4 of a timeout record (R356). -/
def headTail (h t : Nat) : Nat := h % 2 ^ 32 + t % 2 ^ 32 * 2 ^ 32
/-- Head and tail of the queue that a handle names. -/
def Ctx.ends (k : Ctx) (h : Nat) : Nat := match k.queueOf h with | some (_, q) => headTail q.head q.tail | none => 0

/-- An acquire at PACKAGE scope by a firing removal: younger instances that have loaded are fetched again (R357, 09 R269). -/
def W.acquireFire (w : W) (c : Firing) (t : Thread) (scope : Nat) : W :=
  { w with d := (w.acquireBy scope t.grids).d.acquireFlush c.x }

/-- What a removal records (19 R503): the index in lane 0, the fold of the entry in lane 1 (log 23). -/
def removalValue (i : Nat) (v : Vec) : Vec := vecOf [BitVec.ofNat 64 i, foldVec v]
/-- Effects of an event, without their keys. -/
def Dev.eventEffs (d : Dev) (t : Thread) (c : Firing) (kind : Nat) (source : Word) (value : Vec) : List Eff :=
  (d.event t.ctx (effKey c) c.idx kind source value).map (fun e => e.2.2)

/-! ### Data queues (R358-R360) -/

/-- QPUSH (R358). -/
def execQpush (f : FmtQ) (s : State) : Host.Outcome State Fault Refusal :=
  runR (fun w => (waitFire (.qpush f) f.limit (fun c _ => (0xC0, c.ops.b0))
    (fun w c t =>
      let h := c.ops.b0.toNat
      match (w.d.ctx t.ctx).insertStatus h 2 with
      | some n => .sat { w with d := w.d.answer c [] (statusTo f n) }
      | none =>
        if w.d.queueFree t.ctx (h % 2 ^ 10) = 0 then .wait
        else .sat { w with d := w.d.answer c [.qpush h c.ops.va] (statusTo f 0) })
    (fun w c t =>
      if trapBit f then w.timeout c .queueTimeout c.ops.b0 ((w.d.ctx t.ctx).ends c.ops.b0.toNat)
      else { w with d := w.d.answer c [] (statusTo f 1) }) w).d) s

/-- The entry of an index as its queue's home gives it; an uncorrectable error puts the queue in FAULTED. -/
def W.qRead (w : W) (c n i : Nat) : Option Vec × W :=
  let q := (w.d.ctx c).queue n
  match w.readHome c 0 (q.entry i) 64 with
  | (.ok bs, w) => (some (vecOfBytes bs), w)
  | (.ecc, w) => (none, w.queueFault c n)
  | (_, w) => (none, w)

/-- `qpop` and `qpeek` of an entry (R359): `pop` reserves it and acquires. -/
def queueTake (f : FmtQ) (pop : Bool) (w : W) (c : Firing) (t : Thread) : Test :=
  let h := c.ops.a0.toNat
  if pop && !w.d.isOldest c.x then .notYet
  else
    match (w.d.ctx t.ctx).removeStatus h 2 with
    | some n => .sat { w with d := w.d.answer c [] (noEntry f n) }
    | none =>
      let n := h % 2 ^ 10
      let q := (w.d.ctx t.ctx).queue n
      let taken := w.d.popResv t.ctx h
      let avail := q.live.filter (fun i => !taken.contains i)
      let value := fun (i : Nat) => removalValue i (((w.readRec t.ctx (q.entry i)).1).getD 0#512)
      let choice := if pop then w.pick c.x.thr t 1 c.ops.a0 value avail else avail.head?
      match choice with
      | none => .wait
      | some i =>
        if pop && (w.prescribed c.x.thr t 1 c.ops.a0).isNone && w.d.waitBefore c t (0xC1, c.ops.a0) then .wait
        else
          match w.qRead t.ctx n i with
          | (some v, w) =>
            let out : Out := { toks := [(f.t0, .val v), (f.t1, infoTok 0 i 0)] }
            if pop then
              let w := w.acquireFire c t 2
              .sat { w with d := w.d.answer c (.qpop h i :: w.d.eventEffs t c 1 c.ops.a0 (removalValue i v)) out }
            else .sat { w with d := w.d.answer c [] out }
          | (none, w) =>
            if ((w.d.ctx t.ctx).queue n).st = .faulted then .sat { w with d := w.d.answer c [] (noEntry f 5) } else .wait

/-- What a removal does when its limit expires. -/
def takeExpire (f : FmtQ) (cause : Cause) (ident : Word) (w4 : Nat) (w : W) (c : Firing) : W :=
  if trapBit f then w.timeout c cause ident w4 else { w with d := w.d.answer c [] (noEntry f 1) }

/-- QPOP (R359). -/
def execQpop (f : FmtQ) (s : State) : Host.Outcome State Fault Refusal :=
  run (waitFire (.qpop f) f.limit (fun c _ => (0xC1, c.ops.a0)) (queueTake f true)
    (fun w c t => takeExpire f .queueTimeout c.ops.a0 ((w.d.ctx t.ctx).ends c.ops.a0.toNat) w c)) s
/-- QPEEK (R359). -/
def execQpeek (f : FmtQ) (s : State) : Host.Outcome State Fault Refusal :=
  run (waitFire (.qpeek f) f.limit (fun c _ => (0xC2, c.ops.a0)) (queueTake f false)
    (fun w c t => takeExpire f .queueTimeout c.ops.a0 ((w.d.ctx t.ctx).ends c.ops.a0.toNat) w c)) s

/-- STATE of a queue (R360). -/
def qstateCode (s : QState) : Nat :=
  match s with
  | .none => 0 | .unbound => 1 | .opened => 2 | .draining => 3 | .closed => 4 | .faulted => 5
/-- An item of `qinfo` (R360). -/
def Dev.qinfoItem (d : Dev) (c : Nat) (h item : Nat) : Nat :=
  match (d.ctx c).queueOf h with
  | none => 0
  | some (n, q) =>
    match item with
    | 0 => qstateCode q.st
    | 1 => q.head
    | 2 => q.tail
    | 3 => q.size
    | 4 => d.queueFree c n
    | 5 => q.drops % 2 ^ 32
    | 6 =>
      let taken := if q.kind = 3 then ((List.range 16).map (fun m => (d.takeResv c h m).length)).sum else (d.popResv c h).length
      d.pushResv c h % 2 ^ 16 + taken % 2 ^ 16 * 2 ^ 16
    | _ => if q.kind = 3 then q.members else 0
/-- QINFO (R360). -/
def execQinfo (f : FmtQ) (s : State) : Host.Outcome State Fault Refusal :=
  runR (fireQ (.qinfo f) fun w c t =>
    w.d.answer c [] (both f.t0 f.t1 (splat64 (BitVec.ofNat 64 (w.d.qinfoItem t.ctx c.ops.a0.toNat f.sub.toNat))))) s

/-! ### Mailboxes (R361-R362) -/

/-- Received and arrived counts of a priority, for lane 4 of a timeout record. -/
def Dev.mailEnds (d : Dev) (c gid tnum p : Nat) : Nat :=
  match d.memberOf c gid tnum with
  | some (_, t) => headTail (t.mbox p).received (t.mbox p).arrived
  | none => 0
/-- MBSEND (R361, R352). -/
def execMbsend (f : FmtQ) (s : State) : Host.Outcome State Fault Refusal :=
  runR (fun w => (waitFire (.mbsend f) f.limit
    (fun c t => (1, BitVec.ofNat 64 (mailIdent t.gid (bits c.ops.b0 5 0) (bits c.ops.b0 7 6))))
    (fun w c t =>
      let dst := bits c.ops.b0 5 0
      let p := bits c.ops.b0 7 6
      match (if bits c.ops.b0 63 8 = 0 then w.d.memberOf t.ctx t.gid dst else none) with
      | none => .sat { w with d := w.d.answer c [] (statusTo f 4) }
      | some (tid, u) =>
        let since := match w.d.waitAt c.iid c.idx with | some q => q.since | none => w.d.cycle
        let earlier := match (u.mbox p).waiting with | (at_, _) :: _ => decide (at_ ≤ since) | [] => false
        if !w.d.mboxSpace tid p || earlier || w.d.waitBefore c t (1, BitVec.ofNat 64 (mailIdent t.gid dst p)) then .wait
        else .sat { w with d := w.d.answer c [.mbsend tid p c.ops.va] (statusTo f 0) })
    (fun w c t =>
      let dst := bits c.ops.b0 5 0
      let p := bits c.ops.b0 7 6
      if trapBit f then
        w.timeout c .mailboxTimeout (BitVec.ofNat 64 (mailIdent t.gid dst p)) (w.d.mailEnds t.ctx t.gid dst p)
      else { w with d := w.d.answer c [] (statusTo f 1) }) w).d) s
/-- The commit of `mbsend`. -/
def W.mbsendCommit (w : W) (tid p : Nat) (v : Vec) (sender : Nat) : W := w.putMail tid p v (p * 2 ^ 6 + sender)
/-- The commit of `mbrecv`. -/
def Dev.mbrecvCommit (d : Dev) (tid p seq : Nat) : Dev :=
  d.modThr tid (fun t => { t with mboxes := t.mboxes.set p { t.mbox p with
    msgs := (t.mbox p).msgs.filter (fun m => m.seq != seq), received := ((t.mbox p).received + 1) % 2 ^ 32 } })

/-- The lowest-numbered priority of a mask (R362). -/
def maskPrio (m : Nat) : Nat := ((List.range 4).find? (fun p => m.testBit p)).getD 0
/-- A `mbrecv` of the same instance that fired earlier waits for a message of a priority (R357). -/
def Dev.recvBefore (d : Dev) (c : Firing) (p : Nat) : Bool :=
  let mine := match d.waitAt c.iid c.idx with | some q => q.since | none => d.cycle
  d.waits.any (fun q => q.iid == c.iid && q.idx != c.idx && decide (q.since < mine) &&
    (match c.code.instr q.idx with | some (.mbrecv g) => (bits g.imm 4 1).testBit p | _ => false))
/-- MBRECV (R362): lane 1 of the info token is the message's index among the arrivals of its priority (log 24). Under replay
it takes messages in the recorded order of arrival, whatever their origin (R357, 19 R504). -/
def execMbrecv (f : FmtQ) (s : State) : Host.Outcome State Fault Refusal :=
  runR (fun w => (waitFire (.mbrecv f) f.limit
    (fun _ t => (2, BitVec.ofNat 64 (mailIdent t.gid t.tnum (maskPrio (bits f.imm 4 1)))))
    (fun w c t =>
      if !w.d.isOldest c.x then .notYet
      else
        let mine := c.x.effs.filterMap (fun e => match e.2.2 with | .mbrecv p s => some (p, s) | _ => none)
        let avail := ((List.range 4).filter (fun p => (bits f.imm 4 1).testBit p)).flatMap (fun p =>
          ((t.mbox p).msgs.filter (fun m => !mine.contains (p, m.seq))).map (fun m => (p, m)))
        let event := w.nextEvent c.x.thr t 2 (fun o => (bits f.imm 4 1).testBit (bits o 7 6))
        let told := fun (m : Msg) =>
          match event with
          | some e => e == (m.origin, foldVec m.data)
          | none => true
        match avail.find? (fun q => told q.2) with
        | none => .wait
        | some (p, m) =>
          if event.isNone && w.d.recvBefore c p then .wait
          else
          let w := w.acquireFire c t 2
          let out : Out := { toks := [(f.t0, .val m.data), (f.t1, infoTok 0 m.seq m.origin.toNat)] }
          .sat { w with d := w.d.answer c (.mbrecv p m.seq :: w.d.eventEffs t c 2 m.origin m.data) out })
    (fun w c t =>
      let p := maskPrio (bits f.imm 4 1)
      takeExpire f .mailboxTimeout (BitVec.ofNat 64 (mailIdent t.gid t.tnum p)) (w.d.mailEnds t.ctx t.gid t.tnum p) w c) w).d) s

/-! ### Rings (R353, R363-R364) -/

/-- The status of a ring instruction that ends at once: the rules of R355, the cluster (R347), a thread that is on no member grid
(R353). -/
def Ctx.ringStatus (k : Ctx) (h : Nat) (t : Thread) (base : Option Nat) : Option Nat :=
  match base, k.queueOf h with
  | some n, _ => some n
  | none, some (_, q) => if k.ringOutside q then some 2 else if (q.memberOf t).isNone then some 4 else none
  | none, none => some 2
/-- The cursor for lane 4 of a timeout record (R356): it starts at 0, as the counters do. -/
def Ctx.ringEnds (k : Ctx) (h : Nat) (t : Thread) : Nat :=
  match k.queueOf h with
  | none => 0
  | some (_, q) => headTail (match q.memberOf t with | some m => q.cursors.get m 0 | none => q.head) q.tail

/-- MCPUT (R363). -/
def execMcput (f : FmtQ) (s : State) : Host.Outcome State Fault Refusal :=
  runR (fun w => (waitFire (.mcput f) f.limit (fun c _ => (0xC6, c.ops.b0))
    (fun w c t =>
      let h := c.ops.b0.toNat
      let k := w.d.ctx t.ctx
      match k.ringStatus h t (k.insertStatus h 3) with
      | some n => .sat { w with d := w.d.answer c [] (statusTo f n) }
      | none =>
        let q := k.queue (h % 2 ^ 10)
        let r := w.d.pushResv t.ctx h
        let mask := if c.ops.c.isSome then q.members &&& (c.ops.vc.toNat % 2 ^ 16) else q.members
        if q.size ≤ q.count + r ∨ q.masks.get (q.slot (q.tail + r)) 0 ≠ 0 ∨ k.st = .gating then .wait
        else .sat { w with d := w.d.answer c [.mcput h mask c.ops.va] (statusTo f 0) })
    (fun w c t =>
      if trapBit f then w.timeout c .ringTimeout c.ops.b0 ((w.d.ctx t.ctx).ringEnds c.ops.b0.toNat t)
      else { w with d := w.d.answer c [] (statusTo f 1) }) w).d) s

/-- The key that threads of one ring member wait on. -/
def ringKey (k : Ctx) (h : Word) (t : Thread) : Nat × Word :=
  (0x100 + (match k.queueOf h.toNat with | some (_, q) => (q.memberOf t).getD 16 | none => 16), h)
/-- MCTAKE (R364): the oldest slot whose bit the member has not cleared or reserved. Such a slot lies at or after the member's
cursor, unless a flush has released it: it is then available again at its own index (R353, R357). -/
def execMctake (f : FmtQ) (s : State) : Host.Outcome State Fault Refusal :=
  run (fun w => waitFire (.mctake f) f.limit (fun c t => ringKey (w.d.ctx t.ctx) c.ops.a0 t)
    (fun w c t =>
      let h := c.ops.a0.toNat
      let k := w.d.ctx t.ctx
      let q := k.queue (h % 2 ^ 10)
      if !w.d.isOldest c.x then .notYet
      else
        match k.ringStatus h t (k.removeStatus h 3), q.memberOf t with
        | some n, _ => .sat { w with d := w.d.answer c [] (noEntry f n) }
        | none, none => .sat { w with d := w.d.answer c [] (noEntry f 4) }
        | none, some m =>
          let taken := w.d.takeResv t.ctx h m
          let avail := q.indices.filter (fun i => (q.masks.get (q.slot i) 0).testBit m && !taken.contains i)
          let entry := fun (i : Nat) => vecOfBytes (w.rds (q.slotKey m i) 64)
          match w.pick c.x.thr t 1 c.ops.a0 (fun i => removalValue i (entry i)) avail with
          | none => .wait
          | some i =>
            if (w.prescribed c.x.thr t 1 c.ops.a0).isNone && w.d.waitBefore c t (ringKey k c.ops.a0 t) then .wait
            else if w.d.poison.any (fun a => decide (q.slotKey m i ≤ a) && decide (a < q.slotKey m i + 64)) then
              let w := w.queueFault t.ctx (h % 2 ^ 10)
              .sat { w with d := w.d.answer c [] (noEntry f 5) }
            else
              let w := w.acquireFire c t 2
              let out : Out := { toks := [(f.t0, .val (entry i)), (f.t1, infoTok 0 i ((q.masks.get (q.slot i) 0) - 2 ^ m))] }
              .sat { w with d := w.d.answer c (.mctake h i m :: w.d.eventEffs t c 1 c.ops.a0 (removalValue i (entry i))) out })
    (fun w c t => takeExpire f .ringTimeout c.ops.a0 ((w.d.ctx t.ctx).ringEnds c.ops.a0.toNat t) w c) w) s

/-! ### Launch (11 R338-R340) -/


/-- LAUNCH (R339): its checks in the order 2, 3, 4, then the space. -/
def execLaunch (f : FmtQ) (s : State) : Host.Outcome State Fault Refusal :=
  runR (fun w => (waitFire (.launch f) f.limit (fun c _ => (0xC8, c.ops.b0))
    (fun w c t =>
      let h := c.ops.b0.toNat
      let k := w.d.ctx t.ctx
      let st := fun (n : Nat) (es : List Eff) =>
        Test.sat { w with d := w.d.answer c (es ++ w.d.eventEffs t c 8 0xC8#64 (splat64 (BitVec.ofNat 64 n))) (statusTo f n) }
      if k.insertStatus h 1 ≠ none then st 2 []
      else
        match k.kernelOf (vlane c.ops.va 0) with
        | none => st 3 []
        | some (_, x) =>
          if !x.usable then st 3 []
          else if badLaunch c.ops.va x.regs false then st 4 []
          else if w.d.queueFree t.ctx (h % 2 ^ 10) = 0 then .wait
          else st 0 [.launch h c.ops.va])
    (fun w c t =>
      { w with d := w.d.answer c (w.d.eventEffs t c 8 0xC8#64 (splat64 1#64)) (statusTo f 1) }) w).d) s

/-! ### Host commands and life cycle (R345-R347) -/

/-- A queue descriptor out of range (R345). -/
def badQueueDesc (v : Vec) : Bool :=
  let kind := bits (vlane v 0) 3 0
  let n := (vlane v 1).toNat
  let base := (vlane v 2).toNat
  let l3 := vlane v 3
  bits (vlane v 0) 63 4 != 0 || vlane v 4 != 0#64 || vlane v 5 != 0#64 || vlane v 6 != 0#64 || vlane v 7 != 0#64 ||
    (if kind = 3 then
      decide (n < 2) || decide (32 < n) || base != 0 || bits l3 15 9 != 0 || bits l3 63 21 != 0 ||
        !([1, 2, 4, 8, 16].contains (bits l3 20 16)) || decide (Config.grids ≤ bits l3 8 0) ||
        !(alignedSets (fieldOf (bits l3 8 0)) (bits l3 20 16)).contains (bits l3 8 0)
    else
      (kind != 1 && kind != 2) || !((List.range 17).any (fun k => n == 2 ^ (k + 4))) || base % 4096 != 0 ||
        decide (2 ^ 57 < base + 64 * n) || l3 != 0#64)

/-- QCREATE (R346): a descriptor that cannot be read is BAD_ARGUMENT. -/
def execQcreate (cmd : CmdRec) (s : State) : Host.Outcome State Fault Refusal :=
  run (command objectStates (fun w c cmd =>
    match w.readRec c cmd.a2.toNat with
    | (none, w) => w.finish c cmd sBadArgument 0
    | (some v, w) =>
      if badQueueDesc v then w.finish c cmd sBadArgument 0
      else
        match (List.range 1024).find? (fun n => ((w.d.ctx c).queue n).st == .none) with
        | none => w.finish c cmd sNoResource 0
        | some n =>
          let l3 := vlane v 3
          let q : Queue := { st := .unbound, kind := bits (vlane v 0) 3 0, qgen := (((w.d.ctx c).queue n).qgen + 1) % 2 ^ 32,
                             size := (vlane v 1).toNat, base := (vlane v 2).toNat, first := bits l3 8 0, width := bits l3 20 16 }
          W.finish { w with d := w.d.modQueue c n (fun _ => q) } c cmd sDone (q.handle n)) cmd) s

/-- A command on the queue that its argument names: stale handles, and states that do not accept it (R346). -/
def queueCommand (states : List QState) (f : W → Nat → CmdRec → Nat → Queue → W) (cmd : CmdRec) (w : W) : W :=
  command objectStates (fun w c cmd =>
    match (w.d.ctx c).queueOf cmd.a2.toNat with
    | none => w.finish c cmd sStale 0
    | some (n, q) => if states.contains q.st then f w c cmd n q else w.finish c cmd sBadState 0) cmd w

/-- A command that has to wait goes back to the head of its context's posted records. -/
def Dev.holdCmd (d : Dev) (c : Nat) (code : BitVec 8) (cmd : CmdRec) : Dev :=
  d.modCtx c (fun k => { k with posted := packCmd code cmd :: k.posted })

/-- What locking the pages of a range finds. -/
inductive LockPlan where
  | locks (leaves : List Nat)
  | absent
  | waits
deriving DecidableEq, Repr
/-- The leaves under a range, if all are present (R346). Pages of another package cannot be locked here (log 25). -/
def W.lockPlan (w : W) (base len : Nat) : LockPlan :=
  (rangePages [(base, len)]).foldl (fun acc p =>
    match acc with
    | .locks ls =>
      if w.isRemote p then .absent
      else
        match w.leafAt p with
        | none => .absent
        | some l =>
          if l.state = stAbsent then .absent
          else if l.state = stMigrating ∨ l.state = stEvicting ∨ l.state = stSplitting ∨ w.d.lockQueued (l.base p) = true then .waits
          else .locks (if ls.contains (l.base p) then ls else ls ++ [l.base p])
    | .waits => if (match w.leafAt p with | some l => l.state == stAbsent | none => true) then .absent else .waits
    | .absent => .absent) (.locks [])

/-- Scratchpad ranges in use on a grid by a context: group windows and rings. -/
def Dev.scratchUsed (d : Dev) (c g : Nat) : List (Nat × Nat) :=
  (d.groups.filterMap (fun gr =>
    if gr.ctx = c ∧ (d.threads.any (fun t => t.2.ctx == c && t.2.gid == gr.gid && t.2.grids.contains g)) = true then
      some (gr.scratch, ((d.ctx c).kernels.get (bits gr.handle 7 0) {}).scratch)
    else none)) ++
  ((d.ctx c).queues.filterMap (fun q =>
    if q.2.kind = 3 ∧ q.2.st ≠ .none ∧ q.2.st ≠ .unbound ∧ q.2.first ≤ g ∧ g < q.2.first + q.2.width then
      some (q.2.scratch, 64 * q.2.size)
    else none))
/-- The lowest base, 256-byte aligned, at which a length fits beside used ranges below a cap. -/
def firstFit (used : List (Nat × Nat)) (len cap : Nat) : Option Nat :=
  let starts := (0 :: used.map (fun u => (u.1 + u.2 + 255) / 256 * 256)).isort (fun a b => decide (a ≤ b))
  starts.find? (fun b => decide (b + len ≤ cap) && used.all (fun u => decide (b + len ≤ u.1) || decide (u.1 + u.2 ≤ b)))
/-- Bytes of a grid's scratchpad (08 R218). -/
def Ctx.scratchCap (k : Ctx) : Nat := 8 * 32768 * k.spp

/-- A queue opened (R347): its counters start at 0, and the generation moves on from CLOSED. -/
def Queue.opened (q : Queue) : Queue :=
  { q with st := .opened, qgen := if q.st = .closed then (q.qgen + 1) % 2 ^ 32 else q.qgen, head := 0, tail := 0, removed := [],
           masks := [], cursors := [], revs := [], issuers := [] }

/-- QOPEN (R346-R347). -/
def execQopen (cmd : CmdRec) (s : State) : Host.Outcome State Fault Refusal :=
  run (queueCommand [.unbound, .closed] (fun w c cmd n q =>
    let fin := fun (w : W) (q : Queue) =>
      W.finish { w with d := w.d.modQueue c n (fun _ => q.opened) } c cmd sDone (q.opened.handle n)
    if q.kind = 3 then
      if (w.d.ctx c).ringOutside q then w.finish c cmd sNoResource 0
      else if q.st = .closed then fin w q
      else
        match firstFit ((List.range q.width).flatMap (fun i => w.d.scratchUsed c (q.first + i))) (64 * q.size)
            (w.d.ctx c).scratchCap with
        | none => w.finish c cmd sNoResource 0
        | some b => fin w { q with scratch := b }
    else if q.st = .closed then fin w q
    else
      match w.lockPlan q.base (64 * q.size) with
      | .absent => w.finish c cmd sNoResource 0
      | .waits => { w with d := w.d.holdCmd c 0x21#8 cmd }
      | .locks ls => fin (w.lockAll ls) { q with locks := ls }) cmd) s

/-- QDRAIN (R347). -/
def execQdrain (cmd : CmdRec) (s : State) : Host.Outcome State Fault Refusal :=
  run (queueCommand [.opened] (fun w c cmd n q =>
    W.finish { w with d := (w.d.modQueue c n (fun q => { q with st := .draining })).settleQueue c n } c cmd sDone (q.handle n)) cmd) s

/-- A group that was formed and not dispatched is taken away; a target held for it is let go. -/
def Dev.eraseGroup (d : Dev) (c gid : Nat) : Dev :=
  { d with groups := d.groups.filter (fun g => !(g.ctx == c && g.gid == gid)),
           fields := d.fields.map (fun f => (f.1, { f.2 with blocked := f.2.blocked.filter (fun b => !(b.1 == c && b.2.1 == gid)) })) }
/-- Formed groups that a test picks complete with a status (13 R373). -/
def W.dropGroups (w : W) (c status : Nat) (p : Group → Bool) : W :=
  (w.d.groups.filter (fun g => g.ctx == c && (g.st == .gated || g.st == .queued) && p g)).foldl (fun w g =>
    W.completeRecord { w with d := w.d.eraseGroup c g.gid } c g.issuer g.rcd status g.gid) w

/-- The records of a launch queue discarded (R347): each completes with DISCARDED. -/
def W.discard (w : W) (c n : Nat) : W :=
  let q := (w.d.ctx c).queue n
  let w := if q.kind = 1 then w.dropGroups c lDiscarded (fun g => g.queue == some n) else w
  if q.kind = 1 then
    q.live.foldl (fun w i =>
      match w.readHome c 0 (q.entry i) 64 with
      | (.ok bs, w) => w.completeRecord c (q.issuers.look i) (vecOfBytes bs) lDiscarded 0
      | (_, w) => w) w
  else w
/-- A queue closed: its remaining entries are discarded. -/
def W.closeQueue (w : W) (c n : Nat) : W :=
  let w := w.discard c n
  { w with d := w.d.modQueue c n (fun q => { q with st := .closed, head := q.tail, removed := [], masks := [], revs := [],
                                                    issuers := [] }) }
/-- QCLOSE (R347). -/
def execQclose (cmd : CmdRec) (s : State) : Host.Outcome State Fault Refusal :=
  run (queueCommand [.opened, .draining, .faulted] (fun w c cmd n q =>
    (w.closeQueue c n).finish c cmd sDone (q.handle n)) cmd) s

/-- A queue destroyed: its pages are unlocked and its number is free; the number keeps its generation. -/
def W.destroyQueue (w : W) (c n : Nat) : W :=
  let q := (w.d.ctx c).queue n
  let w := q.locks.foldl (fun w x => w.unlock x) w
  { w with d := w.d.modQueue c n (fun q => { qgen := q.qgen }) }
/-- QDESTROY (R347). -/
def execQdestroy (cmd : CmdRec) (s : State) : Host.Outcome State Fault Refusal :=
  run (queueCommand [.unbound, .closed] (fun w c cmd n q => (w.destroyQueue c n).finish c cmd sDone (q.handle n)) cmd) s
/-- QQUERY (R346). -/
def execQquery (cmd : CmdRec) (s : State) : Host.Outcome State Fault Refusal :=
  run (queueCommand [.unbound, .opened, .draining, .closed, .faulted] (fun w c cmd _ q =>
    w.finish c cmd sDone (headTail q.head q.tail)) cmd) s

/-- The append address of a queue of a context (R349). -/
def Mgmt.appendAddr (g : Mgmt) (c n : Nat) : Nat := g.appendBase.toNat + (1024 * c + n) * 64
/-- HOST_APPEND (R349, 23 R517): a posted write at address `a` of the CXL memory space, of `c` bytes, with the record in `v`. The queue
is that whose 64 bytes of the aperture hold the address; a partial or misaligned write is dropped. -/
def execHostAppend (s : State) : Host.Outcome State Fault Refusal :=
  run (fun w =>
    let e := w.d.arg
    let base := w.g.appendBase.toNat
    let c := (e.a - base) / 65536
    let n := (e.a - base) / 64 % 1024
    let q := (w.d.ctx c).queue n
    if e.a < base ∨ base + 2 ^ 28 ≤ e.a then w
    else if e.a = w.g.appendAddr c n ∧ e.c = 64 ∧ q.st = .opened ∧ q.kind ≠ 3 ∧ 0 < w.d.queueFree c n then (w.qAppend c n (e.v.setWidth 512)).2
    else if q.st = .none ∧ w.g.bstep = 11 then w
    else { w with d := w.d.modQueue c n (fun q => { q with drops := (q.drops + 1) % 2 ^ 32 }) }) s

/-- QUEUE_STORAGE_ECC (R347): queue `b` of context `a`. -/
def execQueueStorageEcc (s : State) : Host.Outcome State Fault Refusal :=
  run (fun w => w.queueFault (w.d.arg.a % 4096) (w.d.arg.b % 1024)) s

end Sys2Proof.Machine
end

