-- ==== Sys2Proof/Machine/PageCommands.lean ====
section
/-!
DEFINITION. Page commands and page answers, translation changes with their drain and re-latch tokens, evict-behind, `pgq` and
`pgadvise` (15 R412-R431). A change in progress stands in `Dev.pcmds`; the events of this file end it.
-/

namespace Sys2Proof.Machine

/-- BUSY (R419). -/
def sBusy : Nat := 0x40
/-- The completion that a page command owes; its context fields are not read otherwise (R419, log 30). -/
def W.pageEnd (w : W) (o : Option CmdRec) (status word : Nat) : W :=
  match o with
  | some cmd => w.finish cmd.ctx.toNat cmd status word
  | none => w

/-- The leaf that a page address names: aligned to the size of its leaf, of the local package or the host window (log 30). -/
def W.namedLeaf (w : W) (x : Nat) : Option Leaf :=
  if x % 2 ^ 14 ≠ 0 ∨ 2 ^ 57 ≤ x ∨ w.isRemote x = true then none
  else (w.leafAt x).bind (fun l => if x % l.size = 0 then some l else none)
/-- A page whose translation a command finds in the hands of another (R419). -/
def Leaf.taken (l : Leaf) : Bool :=
  l.state == stRevised || l.state == stShadow || l.state == stMigrating || l.state == stEvicting
/-- A page whose frame no command changes (R419): taken, SPLITTING, or with PIN. -/
def Leaf.fixed (l : Leaf) : Bool := l.taken || l.state == stSplitting || entBit l.w0 55

/-! ### Latches (R422-R423) -/

/-- The address generator of a stream of a thread (08 R235): eight to a grid, one for each M-node. -/
def genOf (t : Thread) (s : Nat) : Nat := 8 * t.streamAt s + s % 32 / 4
/-- A latch on a page of a range. -/
def latchIn (lo n : Nat) (q : Nat × Nat × Bool) : Bool := decide (lo ≤ q.1) && decide (q.1 < lo + n)
/-- Generators with a latch on a range. -/
def Dev.latchGens (d : Dev) (lo n : Nat) : List Nat :=
  (d.threads.flatMap (fun (p : Nat × Thread) =>
    (p.2.streams.filter (fun s => s.2.isOpen && s.2.latches.any (latchIn lo n))).map (fun s => genOf p.2 s.1))).eraseDups
/-- Streams changed where a test picks their generator. -/
def Dev.mapStreams (d : Dev) (p : Thread → Nat → Stream → Bool) (f : Stream → Stream) : Dev :=
  { d with threads := d.threads.map (fun (q : Nat × Thread) =>
      (q.1, { q.2 with streams := q.2.streams.map (fun s => (s.1, if p q.2 s.1 s.2 then f s.2 else s.2)) })) }
/-- A re-latch token (R422): each latch on a range is taken up by `g`, or cleared. -/
def Dev.relatch (d : Dev) (lo n : Nat) (g : Nat → Nat → Option (Nat × Nat × Bool)) : Dev :=
  d.mapStreams (fun _ _ s => s.latches.any (latchIn lo n)) (fun s =>
    { s with latches := s.latches.filterMap (fun q => if latchIn lo n q then g q.1 q.2.1 else some q) })
/-- Suspended latches of a range go on as they were. -/
def Dev.relatchSame (d : Dev) (lo n : Nat) : Dev := d.relatch lo n (fun p k => some (p, k, false))
/-- Bytes of a range that stand in the coalescing buffers of a generator are flushed to their homes (R422). -/
def W.flushGen (w : W) (gen lo n : Nat) : W :=
  let here := fun (c : Host.Cell) => decide (lo ≤ c.1) && decide (c.1 < lo + n)
  w.d.threads.foldl (fun (w : W) p => p.2.streams.foldl (fun (w : W) s =>
    if genOf p.2 s.1 = gen ∧ s.2.cfg.space = .global then
      let out := s.2.buffer.filter here
      let w := w.loggedWrite p.2.ctx (w.d.rnumOf p.2) p.2.commitSeq p.2.who out
      { w with d := (w.d.patchLines (p.2.streamAt s.1 :: p.2.grids) out).modStream p.1 s.1 (fun q =>
          { q with buffer := q.buffer.filter (fun c => !here c) }) }
    else w) w) w
/-- Cached translations of a range gone (R421). -/
def Dev.tcDrop (d : Dev) (lo n : Nat) : Dev :=
  { d with tcaches := d.tcaches.filter (fun e => !(decide (e.page < lo + n) && decide (lo < e.page + e.size))) }

/-! ### Starting a change (R425-R428) -/

/-- A command put among those in progress. -/
def Dev.addCmd (d : Dev) (p : PageCmd) : Dev := { d with pcmds := d.pcmds ++ [p] }
/-- A command no longer in progress. -/
def Dev.endCmd (d : Dev) (p : PageCmd) : Dev := { d with pcmds := d.pcmds.erase p }
/-- BACK of word 1 as an address of the host window (R410). -/
def backAddr (w1 : Nat) : Option Nat := (entBack w1).map (fun b => 0xFF * 2 ^ 49 + b % 2 ^ 49)
/-- Word 1 with a backing address. -/
def withBack (w1 a : Nat) : Nat := w1 / 2 ^ 48 * 2 ^ 48 + 2 ^ 47 + a / 2 ^ 14 % 2 ^ 38
/-- Word 0 of a small leaf that a split makes (R428). -/
def splitWord0 (l : Leaf) (sub k : Nat) : Nat := withState (withAddr l.w0 (l.frame + k * sub)) stSplitting
/-- Word 1 of it: a leaf of level 2 holds the PDID; BACK goes on with the page (log 30). -/
def splitWord1 (l : Leaf) (sub k : Nat) : Nat :=
  let w1 := if l.level = 1 then l.pdid * 2 ^ 48 else 0
  match entBack l.w1 with
  | some b => withBack w1 (b + k * sub)
  | none => w1
/-- Bytes of a page of the level below. -/
def Leaf.subSize (l : Leaf) : Nat := if l.level = 1 then 2 ^ 21 else 2 ^ 14

/-- The table of small leaves that takes the place of a large one (R428): SPLITTING, or with `done` in its last state. The large
entry becomes a pointer, and keeps its PDID. -/
def W.splitTable (w : W) (l : Leaf) (f : Nat) (done : Bool) : W :=
  let w := (List.range (l.size / l.subSize)).foldl (fun (w : W) k =>
    let w0 := splitWord0 l l.subSize k
    (w.wr64 (frameKey (f + 16 * k)) (if done then settled w0 else w0)).wr64 (frameKey (f + 16 * k + 8)) (splitWord1 l l.subSize k)) w
  (w.wr64 l.key (withAddr (2 ^ 63) f)).wr64 (l.key + 8) (l.pdid * 2 ^ 48)

/-- A command meets its page (R419): a status, a wait for hardware locks, or the start of the change. -/
def W.begin_ (w : W) (p : PageCmd) : W :=
  match w.namedLeaf p.page with
  | none => w.pageEnd p.owes sBadArgument 0
  | some l =>
    let old := l.frame
    let gens := w.d.latchGens p.page l.size
    let go := fun (w : W) (arg : Nat) =>
      let q := { p with arg := arg, size := l.size, old := old, waitLocks := false, gens := gens }
      ({ w with d := w.d.addCmd q } : W)
    let badArg := match p.kind with
      | .migrate => decide (p.arg % l.size ≠ 0) || decide (2 ^ 52 ≤ p.arg)
      | .evict =>
        if p.arg = 0 then (backAddr l.w1).isNone else !(w.isHost p.arg && p.arg % 2 ^ 14 == 0 && decide (p.arg < 2 ^ 57))
      | .split => l.level == 3
      | _ => false
    if badArg then w.pageEnd p.owes sBadArgument 0
    else if l.state = stAbsent then (if p.kind = .unmap then w.pageEnd p.owes sDone 0 else w.pageEnd p.owes sBadArgument 0)
    else if l.fixed then w.pageEnd p.owes sBusy 0
    else if entLocks l.w0 ≠ 0 then { w with d := w.d.addCmd { p with size := l.size, old := old, waitLocks := true } }
    else
      match p.kind with
      | .migrate =>
        -- from now on every miss to the page waits, write-backs among them (R425)
        let w := w.setLeaf p.page l (withState l.w0 stMigrating) l.w1
        go { w with d := w.d.tcDrop p.page l.size } p.arg
      | .split =>
        (match w.d.poolFree with
          | [] => w.pageEnd p.owes sNoResource 0
          | f :: _ =>
            let w := { w with d := { w.d with pool := w.d.pool.erase f } }
            go (w.splitTable l f false) 0)
      | _ => go (w.setLeaf p.page l (withState l.w0 stEvicting) l.w1) (if p.arg = 0 then (backAddr l.w1).getD 0 else p.arg)

/-- A page command of a kind on the page of its first argument. -/
def pageChange (kind : PcKind) (cmd : CmdRec) (w : W) : W :=
  let arg := match kind with
    | .migrate => cmd.a3.toNat
    | .evict => cmd.a3.toNat
    | _ => 0
  w.begin_ { kind := kind, page := cmd.a2.toNat, arg := arg, size := 0, old := 0, waitLocks := false, gens := [], insts := [],
             owes := some cmd }

/-- PUNMAP (R426). -/
def execPunmap (cmd : CmdRec) (s : State) : Host.Outcome State Fault Refusal := run (pageChange .unmap cmd) s
/-- PMIGRATE (R425). -/
def execPmigrate (cmd : CmdRec) (s : State) : Host.Outcome State Fault Refusal := run (pageChange .migrate cmd) s
/-- PEVICT (R426). -/
def execPevict (cmd : CmdRec) (s : State) : Host.Outcome State Fault Refusal := run (pageChange .evict cmd) s
/-- PSPLIT (R428). -/
def execPsplit (cmd : CmdRec) (s : State) : Host.Outcome State Fault Refusal := run (pageChange .split cmd) s

/-- PPIN (R419): behind commands that wait for the page's locks. -/
def execPpin (cmd : CmdRec) (s : State) : Host.Outcome State Fault Refusal :=
  run (fun w =>
    let x := cmd.a2.toNat
    match w.namedLeaf x with
    | none => w.pageEnd (some cmd) sBadArgument 0
    | some l =>
      if l.state = stAbsent then w.pageEnd (some cmd) sBadArgument 0
      else if l.taken then w.pageEnd (some cmd) sBusy 0
      else if w.d.lockQueued x then { w with d := w.d.holdCmd cmd.ctx.toNat 0x44#8 cmd }
      else
        let w0 := withBit l.w0 55 true
        (w.setLeaf x l (if l.state = stSplitting then w0 else settled w0) l.w1).pageEnd (some cmd) sDone x) s

/-- PUNPIN (R419). -/
def execPunpin (cmd : CmdRec) (s : State) : Host.Outcome State Fault Refusal :=
  run (fun w =>
    let x := cmd.a2.toNat
    match w.namedLeaf x with
    | none => w.pageEnd (some cmd) sBadArgument 0
    | some l =>
      if l.taken then w.pageEnd (some cmd) sBusy 0
      else
        let w0 := withBit l.w0 55 false
        let keep := l.state == stSplitting || l.state == stAbsent
        (w.setLeaf x l (if keep then w0 else settled w0) l.w1).pageEnd (some cmd) sDone x) s

/-! ### Rights and protection domains (R414) -/

/-- The entry that holds the PDID of an address: a level-2 entry, or a level-1 leaf; with its words and the size it covers. -/
def regionEntryFrom (w : W) (x fuel l table : Nat) : Option (Nat × Nat × Nat × Nat) :=
  match fuel with
  | 0 => none
  | n + 1 =>
    let key := frameKey (table + 16 * levelIndex x l)
    let w0 := w.rd64 key
    let w1 := w.rd64 (key + 8)
    if !entValid w0 w1 then none
    else if l = 2 then some (key, w0, w1, 2 ^ 21)
    else if entBit w0 62 then (if l = 1 then some (key, w0, w1, 2 ^ 30) else none)
    else regionEntryFrom w x n (l + 1) (entAddr w0)
/-- That entry by the root that translates the address. -/
def W.regionEntry (w : W) (x : Nat) : Option (Nat × Nat × Nat × Nat) :=
  regionEntryFrom w x 3 0 (if w.isHost x then w.g.ptHroot.toNat else w.g.ptRoot.toNat)
/-- Instances of contexts that have checked an access and not performed it. -/
def Dev.accessing (d : Dev) (cs : List Nat) : List Nat :=
  (d.insts.filter (fun p => cs.contains (d.ctxOf p.2) && !(p.2.accs.isEmpty && p.2.effs.isEmpty))).map Prod.fst
/-- A command that waits for nothing more (R414): RSYNC and PDOMAIN complete. -/
def W.settleCmd (w : W) (p : PageCmd) : W :=
  if (p.kind = .rsync ∨ p.kind = .domain) ∧ p.gens = [] ∧ p.insts.all (fun i => (w.d.inst i).isNone) = true then
    let d := w.d.endCmd p
    let d := if p.kind = .domain then d.relatchSame p.page p.size else d
    W.pageEnd { w with d := d } p.owes sDone p.page
  else w

/-- PDOMAIN (R414, R419): BUSY for a region that is one leaf in the hands of another change; else it waits while a change of a page
stands in its region (log 30). -/
def execPdomain (cmd : CmdRec) (s : State) : Host.Outcome State Fault Refusal :=
  run (fun w =>
    let x := cmd.a2.toNat
    let bad := w.pageEnd (some cmd) sBadArgument 0
    if 2 ^ 57 ≤ x ∨ w.isRemote x = true ∨ 2 ^ 16 ≤ cmd.a3.toNat then bad
    else
      match w.regionEntry x with
      | none => bad
      | some (key, w0, w1, size) =>
        if x % size ≠ 0 then bad
        else if entBit w0 62 && ([stRevised, stShadow, stMigrating, stEvicting].contains (entState w0)) then
          w.pageEnd (some cmd) sBusy 0
        else if w.d.pcmds.any (fun p => p.kind != .rsync && decide (p.page < x + size) && decide (x < p.page + p.size)) then
          { w with d := w.d.holdCmd cmd.ctx.toNat 0x46#8 cmd }
        else
          let w := w.wr64 (key + 8) (w1 % 2 ^ 48 + cmd.a3.toNat * 2 ^ 48)
          let gone := fun (e : PlbEnt) => decide (x ≤ e.region * 2 ^ 21) && decide (e.region * 2 ^ 21 < x + size)
          let cs := (w.d.grids.filter (fun g => g.2.plb.any gone)).filterMap (fun g => w.d.ownerOf g.1)
          let p : PageCmd := { kind := .domain, page := x, arg := 0, size := size, old := 0, waitLocks := false,
                               gens := w.d.latchGens x size, insts := w.d.accessing cs, owes := some cmd }
          let d := w.d.tcDrop x size
          let d : Dev := { d with grids := d.grids.map (fun g => (g.1, { g.2 with plb := g.2.plb.filter (fun e => !gone e) })) }
          W.settleCmd { w with d := d.addCmd p } p) s

/-- RSYNC (R414): the context's PLB entries on every grid of its parcel are cleared; the command completes when every access
checked before has been performed or discarded. -/
def execRsync (cmd : CmdRec) (s : State) : Host.Outcome State Fault Refusal :=
  run (fun w =>
    let c := cmd.ctx.toNat
    let k := w.d.ctx c
    if k.st = .free ∨ k.st = .killed ∨ k.gen ≠ cmd.gen then W.finish { w with d := w.d.countStale c } c cmd sStale 0
    else
      let d := k.parcel.foldl (fun (d : Dev) g => d.modGrid g (fun gr => { gr with plb := [] })) w.d
      let p : PageCmd := { kind := .rsync, page := c, arg := 0, size := 0, old := 0, waitLocks := false, gens := [],
                           insts := d.accessing [c], owes := some cmd }
      W.settleCmd { w with d := d.addCmd p } p) s

/-- Commands that waited and wait no longer: for locks (R417, R419), or for accesses (R414). -/
def W.settlePages (w : W) : W :=
  w.d.pcmds.foldl (fun (w : W) p =>
    if p.waitLocks then
      (match w.leafAt p.page with
        | some l => if entLocks l.w0 = 0 then W.begin_ { w with d := w.d.endCmd p } { p with waitLocks := false } else w
        | none => W.begin_ { w with d := w.d.endCmd p } { p with waitLocks := false })
    else w.settleCmd p) w

/-! ### Drain tokens and the ends of changes (R421-R428) -/

/-- DRAIN_TOKEN_EMERGE (R422): of the change at page `a`, generator `b` flushes its bytes of the page, suspends its latches and
lets the token emerge. -/
def execDrainTokenEmerge (s : State) : Host.Outcome State Fault Refusal :=
  run (fun w =>
    match w.d.pcmds.find? (fun p => p.page == w.d.arg.a && !p.waitLocks && p.gens.contains w.d.arg.b) with
    | none => w
    | some p =>
      let gen := w.d.arg.b
      let w := w.flushGen gen p.page p.size
      let stop := fun (q : Nat × Nat × Bool) => if latchIn p.page p.size q then (q.1, q.2.1, true) else q
      let d := w.d.mapStreams (fun t s _ => genOf t s == gen) (fun s => { s with latches := s.latches.map stop })
      let q := { p with gens := p.gens.erase gen }
      W.settleCmd { w with d := (d.endCmd p).addCmd q } q) s

/-- The change of some kinds at a page whose drain tokens have all emerged. -/
def Dev.drained (d : Dev) (kinds : List PcKind) (page : Nat) : Option PageCmd :=
  d.pcmds.find? (fun p => p.page == page && !p.waitLocks && p.gens.isEmpty && kinds.contains p.kind)
/-- The key of a frame address for a page: host physical memory for the host window (R409). -/
def W.pageKey (w : W) (x frame : Nat) : Nat := if w.isHost x then hostKey frame else frameKey frame

/-- MIGRATION_COMPLETE (R425): the frame of page `a` is copied and the new one installed; the latches take it up. -/
def execMigrationComplete (s : State) : Host.Outcome State Fault Refusal :=
  run (fun w =>
    match w.d.drained [.migrate] w.d.arg.a with
    | none => w
    | some p =>
      match w.leafAt p.page with
      | none => w
      | some l =>
        let new := w.pageKey p.page p.arg
        let w := w.copyKeys (w.pageKey p.page p.old) new p.size
        let w := w.setLeaf p.page l (settled (withAddr l.w0 p.arg)) l.w1
        let d := ((w.d.endCmd p).tcDrop p.page p.size).relatch p.page p.size (fun x _ => some (x, new + (x - p.page), false))
        W.pageEnd { w with d := d } p.owes sDone p.old) s

/-- Every line of a range in every L1 and L2 is written back and invalidated (R421 step 4). -/
def W.dropRange (w : W) (lo n : Nat) : W :=
  let inR := fun (line : Nat) => decide (lo ≤ 32 * line) && decide (32 * line < lo + n)
  let w := w.writeBackAll (w.d.grids.map Prod.fst) (fun l => inR l.line)
  let w := w.l2Flush 0 true inR
  { w with d := { w.d with
      grids := w.d.grids.map (fun g => (g.1, { g.2 with l1 := g.2.l1.filter (fun l => !inR l.line) })),
      l2 := w.d.l2.filter (fun l => !inR l.line) } }

/-- EVICTION_COMPLETE (R426): page `a` is written back and invalidated everywhere; an eviction copies it to its backing
address, of the host window; the leaf is ABSENT. While an address of the host window that it needs cannot be reached or
translated, it waits. -/
def execEvictionComplete (s : State) : Host.Outcome State Fault Refusal :=
  run (fun w =>
    match w.d.drained [.unmap, .evict, .behind] w.d.arg.a with
    | none => w
    | some p =>
      match w.leafAt p.page with
      | none => w
      | some l =>
        let copies := p.kind != .unmap
        let parts := (List.range (p.size / 2 ^ 14)).map (fun k => 2 ^ 14 * k)
        let key := fun (w : W) (o : Nat) => match w.translate 0 0 (p.arg + o) with
          | .ok k _ => some k
          | _ => none
        let ready := (!w.isHost p.page || w.reach p.page == .served) &&
          (!copies || (w.reach p.arg == .served && w.reach (p.arg + 256) == .served && parts.all (fun o => (key w o).isSome)))
        if !ready then w
        else
          let w := w.setLeaf p.page l (settled l.w0) l.w1
          let w := w.dropRange p.page p.size
          let w := if copies then
              let w := parts.foldl (fun (w : W) o => w.copyKeys (w.pageKey p.page p.old + o) ((key w o).getD 0) (2 ^ 14)) w
              { w with d := { w.d with l2 := w.d.l2.filter (fun q => !(decide (p.arg ≤ 32 * q.line) && decide (32 * q.line < p.arg + p.size))) } }
            else w
          let w := w.setLeaf p.page l (withState l.w0 stAbsent) (if copies then withBack l.w1 p.arg else l.w1)
          let d := ((w.d.endCmd p).tcDrop p.page p.size).relatch p.page p.size (fun _ _ => none)
          let d : Dev := if p.kind = .behind ∧ w.isLocal p.page = true then { d with pool := d.pool ++ parts.map (fun o => p.old + o) } else d
          W.pageEnd { w with d := d } p.owes sDone p.old) s

/-- SPLIT_COMPLETE (R428): the large entry of page `a` is gone from every cache; its small leaves are PRESENT, or LOCKED. -/
def execSplitComplete (s : State) : Host.Outcome State Fault Refusal :=
  run (fun w =>
    match w.d.drained [.split] w.d.arg.a with
    | none => w
    | some p =>
      let d := w.d
      let d : Dev := { d with tcaches := d.tcaches.filter (fun e => !(e.page == p.page && e.size == p.size)) }
      let sub := if p.size = 2 ^ 30 then 2 ^ 21 else 2 ^ 14
      let w := (List.range (p.size / sub)).foldl (fun (w : W) k =>
        let x := p.page + k * sub
        match w.leafAt x with
        | some l => if l.state = stSplitting then w.setLeaf x l (settled l.w0) l.w1 else w
        | none => w) { w with d := d }
      W.pageEnd { w with d := (w.d.endCmd p).relatchSame p.page p.size } p.owes sDone p.page) s

/-! ### Page answers (R417, R418, R420) -/

/-- A requester goes on: its page is there. A thread fetches the faulted block again; one that was loading its initial
registers takes up the load (13 R382). -/
def W.goOn (w : W) (num : Nat) (q : Requester) : W :=
  { w with d :=
    match q with
    | .thread t _ _ _ => w.d.modThr t (fun th =>
        if th.pageReq = some num ∧ (th.st = .page ∨ th.st = .retention) then
          { th with st := if th.argLoad then .fetch else .run, stSince := w.d.cycle, pageReq := none, next := th.resumeAt, resumeAt := none }
        else if th.pageReq = some num ∧ th.st = .stopped then
          -- stopped in PAGE: it leaves the stop in RUN
          { th with prior := if th.argLoad then .fetch else .run, pageReq := none, next := th.resumeAt, resumeAt := none }
        else th)
    | .copy k => { w.d with copies := w.d.copies.map (fun c => if c.key = k then { c with waitPage := none } else c) }
    | .coll k => { w.d with colls := w.d.colls.map (fun c => if c.key = k then { c with waitPage := none } else c) }
    | .burst _ _ => w.d
    | .advice => w.d }
/-- A requester is refused its page (R420): PAGE_UNRESOLVED against a thread, status 2 for a copy, and the bytes of a burst are
discarded (R423). -/
def W.refuse (w : W) (num page : Nat) (q : Requester) : W :=
  match q with
  | .thread t blk addr how =>
    (match w.d.thr t with
      | none => w
      | some th =>
        if th.pageReq = some num then
          let w := { w with d := w.d.modThr t (fun th => { th with pageReq := none, resumeAt := none }) }
          w.threadFault t { cause := .pageUnresolved, w2 := BitVec.ofNat 64 addr, w3 := BitVec.ofNat 64 how } blk 0
        else
          -- the fault has not been raised yet: it becomes PAGE_UNRESOLVED
          let late := fun (x : Inst) => if x.thr = t ∧ x.page = some num then
              { x with page := none, pend := x.pend.map (fun p => { p with cause := .pageUnresolved }) } else x
          { w with d := { w.d with insts := w.d.insts.map (fun (p : Nat × Inst) => (p.1, late p.2)) } })
  | .copy k => { w with d := { w.d with copies := w.d.copies.map (fun c =>
      if c.key = k then { c with waitPage := none, status := some 2 } else c) } }
  | .coll k => { w with d := { w.d with colls := w.d.colls.map (fun c =>
      if c.key = k then { c with waitPage := none, status := some 2 } else c) } }
  | .burst t s => { w with d := w.d.modThr t (fun th => { th with streams := th.streams.map (fun p =>
      if p.1 = s then (p.1, { p.2 with unresolved := true, buffer := p.2.buffer.filter (fun c => pageOf c.1 != page) }) else p) }) }
  | .advice => w

/-- A page that is there for a requester of a context. -/
def W.pagePresent (w : W) (c page : Nat) : Bool := match w.translate c 0 page with | .ok _ _ => true | .waits => true | _ => false
/-- The requesters of a page that has come go on (R417); a burst writes its bytes (R423). -/
def W.answered (w : W) (r : PageReq) : W :=
  let w := { w with d := { w.d with preqs := w.d.preqs.erase r } }
  r.who.foldl (fun (w : W) q =>
    match q with
    | .burst t s => (match w.d.thr t with
        | some th => w.flushGen (genOf th s) r.page (2 ^ 14)
        | none => w)
    | _ => w.goOn r.num q) w
/-- A request raised again, with a new identifier (R417). -/
def W.raiseAgain (w : W) (r : PageReq) : W :=
  let n := w.d.requestNum Config.pageRequests w.d.preqNext
  let swap := fun (o : Option Nat) => if o = some r.num then some n else o
  let q := { r with num := n, host := true }
  let d := w.d
  let d : Dev := { d with
    preqs := d.preqs.map (fun p => if p == r then q else p), preqNext := (n + 1) % 2 ^ 16,
    threads := d.threads.map (fun (p : Nat × Thread) => (p.1, { p.2 with pageReq := swap p.2.pageReq })),
    insts := d.insts.map (fun (p : Nat × Inst) => (p.1, { p.2 with page := swap p.2.page })),
    copies := d.copies.map (fun c => { c with waitPage := swap c.waitPage }),
    colls := d.colls.map (fun c => { c with waitPage := swap c.waitPage }) }
  { w with d := d.request 1 (originOf r.page) [d.ident r.ctx, BitVec.ofNat 64 r.page, r.word2.setWidth 64, BitVec.ofNat 64 n,
      BitVec.ofNat 64 d.now] }

/-- PANSWER (R417, R419, R420). -/
def execPanswer (cmd : CmdRec) (s : State) : Host.Outcome State Fault Refusal :=
  run (fun w =>
    let c := cmd.ctx.toNat
    let k := w.d.ctx c
    let stale := W.finish { w with d := w.d.countStale c } c cmd sStale 0
    if k.st = .free ∨ k.st = .killed ∨ k.gen ≠ cmd.gen then stale
    else if 1 < cmd.a3.toNat then w.finish c cmd sBadArgument 0
    else
      match w.d.preqs.find? (fun r => r.ctx == c && r.num == cmd.a2.toNat) with
      | none => stale
      | some r =>
        let w := if cmd.a3 = 1#64 then
            let w := { w with d := { w.d with preqs := w.d.preqs.erase r } }
            r.who.foldl (fun (w : W) q => w.refuse r.num r.page q) w
          else if w.pagePresent c r.page then w.answered r
          else w.raiseAgain r
        w.finish c cmd sDone r.num) s

/-- The demand-zero service of the device (R417): a frame of the pool, zeroed, is installed for a request that it serves; a
request that it can no longer serve goes to the host. -/
def W.serve (w : W) (r : PageReq) : W :=
  if r.host then w
  else if w.pagePresent r.ctx r.page then w.answered r
  else
    match w.d.poolFree, w.leafAt r.page with
    | f :: _, some l =>
      if l.level = 3 ∧ l.state = stAbsent ∧ entBit l.w0 57 = true then
        let w := { w with d := { w.d with pool := w.d.pool.erase f } }
        let w := w.zeroKeys (frameKey f) (2 ^ 14)
        W.answered (w.setLeaf r.page l (settled (withAddr l.w0 f)) l.w1) r
      else w.raiseAgain r
    | _, _ => w.raiseAgain { r with word2 := r.word2 ||| 16#5 }

/-- PSTOCK (R419): frames of a list added to the pool. -/
def execPstock (cmd : CmdRec) (s : State) : Host.Outcome State Fault Refusal :=
  run (fun w =>
    let n := cmd.a3.toNat
    let a := cmd.a2.toNat
    if n = 0 ∨ 65536 < n ∨ a % 8 ≠ 0 ∨ 2 ^ 57 < a + 8 * n then w.pageEnd (some cmd) sBadArgument 0
    else
      match w.readHome Config.contexts 0 a (8 * n) with
      | (.ok bs, w) =>
        let fs := (List.range n).map (fun k => ofBytes ((bs.drop (8 * k)).take 8))
        if fs.any (fun f => f % 2 ^ 14 != 0 || decide (2 ^ 52 ≤ f)) then w.pageEnd (some cmd) sBadArgument 0
        else if Config.poolFrames < w.d.pool.length + n then w.pageEnd (some cmd) sNoResource 0
        else W.pageEnd { w with d := { w.d with pool := w.d.pool ++ fs } } (some cmd) sDone (w.d.pool.length + n)
      | (_, w) => w.pageEnd (some cmd) sBadArgument 0) s

/-! ### Evict-behind (R427, 08 R242) -/

/-- The lowest address of the elements of a box of indices. -/
def StreamCfg.lowIn (c : StreamCfg) (a0 b0 a1 b1 a2 b2 : Nat) : Int :=
  let low := fun (a b : Nat) (s : Int) => if s < 0 then (b : Int) * s else (a : Int) * s
  (c.base : Int) + low a0 b0 c.stride0 + low a1 b1 c.stride1 + low a2 b2 c.stride2
/-- The lowest address of an element from a position on; none past the end. -/
def StreamCfg.lowFrom (c : StreamCfg) (pos : Nat) : Option Int :=
  if c.total ≤ pos then none
  else
    let i0 := pos % c.count0
    let i1 := pos / c.count0 % c.count1
    let i2 := pos / (c.count0 * c.count1)
    let row := c.lowIn i0 (c.count0 - 1) i1 i1 i2 i2
    let rest1 := if i1 + 1 < c.count1 then [c.lowIn 0 (c.count0 - 1) (i1 + 1) (c.count1 - 1) i2 i2] else []
    let rest2 := if i2 + 1 < c.count2 then [c.lowIn 0 (c.count0 - 1) 0 (c.count1 - 1) (i2 + 1) (c.count2 - 1)] else []
    some ((rest1 ++ rest2).foldl min row)
/-- The tail of a stream (08 R242). -/
def Stream.tail (s : Stream) : Option Int :=
  let ahead := s.cfg.lowFrom s.pos
  match s.buffer.map (fun c => (c.1 : Int)) with
  | [] => ahead
  | a :: r => let b := r.foldl min a
              some (match ahead with | some z => min z b | none => b)
/-- A tail beyond an address. -/
def tailPast (t : Option Int) (e : Nat) : Bool := match t with | some z => decide ((e : Int) < z) | none => true
/-- The tail of a stream has moved: pages that it has left behind are evicted, or the host is asked under PAGE_HA. -/
def W.evictBehind (w : W) (c : Nat) (before after : Stream) : W :=
  let leaves := (after.latches.filterMap (fun q => (w.leafAt q.1).map (fun l => (l.base q.1, l)))).eraseDups
  leaves.foldl (fun (w : W) p =>
    let last := p.1 + p.2.size - 1
    let held := w.d.threads.any (fun t => t.2.streams.any (fun s =>
      s.2.isOpen && s.2.latches.any (latchIn p.1 p.2.size) && !tailPast s.2.tail last))
    let cand := entBit p.2.w0 56 && p.2.state == stPresent && (entBack p.2.w1).isSome && !entBit p.2.w0 55 && !w.isHost p.1
    if cand && !tailPast before.tail last && tailPast after.tail last && !held then
      if (w.d.bctl c).getLsbD 25 then { w with d := (w.raisePage c p.1 8 (originOf p.1) none).2 }
      else w.begin_ { kind := .behind, page := p.1, arg := 0, size := 0, old := 0, waitLocks := false, gens := [], insts := [], owes := none }
    else w) w

/-! ### `pgq` and `pgadvise` (R430-R431) -/

/-- SIZE of a leaf (R430). -/
def sizeCode (l : Leaf) : Nat := if l.level = 3 then 0 else if l.level = 2 then 1 else 2
/-- What `pgq` reads (R430). A leaf of another package is not in this package's memory: free values (log 13). -/
def W.pgq (w : W) (c x : Nat) : Vec × Dev :=
  let none' := (vecOf [BitVec.ofNat 64 (3 * 2 ^ 3)], w.d)
  if 2 ^ 57 ≤ x then none'
  else
    match w.pdid x with
    | none => none'
    | some pd =>
      let r := w.rightsOn c pd
      if r = 0#3 then none'
      else if w.isRemote x then
        (vecOf [Config.freeWord w.d.freeCtr, Config.freeWord (w.d.freeCtr + 1)], { w.d with freeCtr := w.d.freeCtr + 2 })
      else
        let hi := pd * 2 ^ 32 + r.toNat * 2 ^ 48
        match w.leafAt x with
        | none => (vecOf [BitVec.ofNat 64 (3 * 2 ^ 3 + hi), BitVec.ofNat 64 (pageOf x)], w.d)
        | some l =>
          let b := fun (k at_ : Nat) => bitNat l.w0 k * 2 ^ at_
          let w0 := l.state + sizeCode l * 2 ^ 3 + b 58 5 + b 55 6 + b 56 7 + bitNat l.w1 47 * 2 ^ 8 + entLocks l.w0 * 2 ^ 9 + hi
          (vecOf [BitVec.ofNat 64 w0, BitVec.ofNat 64 (l.base x)], w.d)
/-- PGQ (R430). -/
def execPgq (f : FmtQ) (s : State) : Host.Outcome State Fault Refusal :=
  runR (fireLoad (.pgq f) fun w c t =>
    let r := w.pgq t.ctx c.ops.a0.toNat
    r.2.answer c [] (both f.t0 f.t1 r.1)) s

/-- `pgadvise` as it fires (R431): the status; 0 alone acts at the commit. -/
def adviseFire (f : FmtQ) (sub : Nat) (w : W) (c : Firing) (t : Thread) : Dev :=
  let base := c.ops.a0.toNat
  let len := c.ops.b0.toNat
  if base % 2 ^ 14 ≠ 0 ∨ len % 2 ^ 14 ≠ 0 ∨ len = 0 ∨ 2 ^ 30 < len ∨ 2 ^ 57 < base + len ∨
      w.isLocal base = false ∨ w.isLocal (base + len - 1) = false then w.d.answer c [] (statusTo f 1)
  else
    let r := w.rightsAll t.first t.ctx (if sub < 2 then 1 else 2) base len
    if !r.1 then r.2.d.answer c [] (statusTo f 2) else r.2.d.answer c [.pgadvise sub base len] (statusTo f 0)
/-- PGADVISE_WILLNEED (R431). -/
def execPgadviseWillneed (f : FmtQ) (s : State) : Host.Outcome State Fault Refusal :=
  runR (fireQ (.pgadviseWillneed f) (adviseFire f 0)) s
/-- PGADVISE_TRANSLATE (R431). -/
def execPgadviseTranslate (f : FmtQ) (s : State) : Host.Outcome State Fault Refusal :=
  runR (fireQ (.pgadviseTranslate f) (adviseFire f 1)) s
/-- PGADVISE_EVICTBEHIND (R431). -/
def execPgadviseEvictbehind (f : FmtQ) (s : State) : Host.Outcome State Fault Refusal :=
  runR (fireQ (.pgadviseEvictbehind f) (adviseFire f 2)) s
/-- PGADVISE_KEEP (R431). -/
def execPgadviseKeep (f : FmtQ) (s : State) : Host.Outcome State Fault Refusal :=
  runR (fireQ (.pgadviseKeep f) (adviseFire f 3)) s
/-- What `pgadvise` does at its commit. -/
def W.adviseCommit (w : W) (c field sub base len : Nat) : W :=
  (rangePages [(base, len)]).foldl (fun (w : W) p =>
    match sub with
    | 0 =>
      (match w.translate c 0 p with
        | .absent => { w with d := (w.raisePage c p 8 field (some .advice)).2 }
        | _ => w)
    | 1 => (match w.translate c 0 p with | .ok _ _ => w.touch p | _ => w)
    | _ =>
      match w.leafAt p with
      | some l => w.setLeaf p l (withBit l.w0 56 (sub == 2)) l.w1
      | none => w) w

end Sys2Proof.Machine
end

