-- ==== Sys2Proof/Machine/EngineEvents.lean ====
section
/-!
DEFINITION. What runs on after a commit (08 R235-R256, R280, 09 R268): releases, scratchpad stores to other grids, write
streams, forwarded loads, copies, publications.
-/

namespace Sys2Proof.Machine

/-! ### Releases and scratchpad stores -/

/-- RELEASE_PERFORM (09 R268): the release that committed first of those that wait for no acknowledgement is performed; the
releases of a thread stay in order. -/
def execReleasePerform (s : State) : Host.Outcome State Fault Refusal :=
  run (fun w =>
    let first := fun (r : Rel) => (w.d.rels.find? (fun q => q.thr == r.thr)).any (fun q => q.order == r.order)
    match w.d.rels.find? (fun r => first r && !w.relBlocked r.scope) with
    | none => w
    | some r => w.performRel r) s

/-- Bytes written in the scratchpad of a grid, each 32-byte line logged first while the context logs (19 R495). -/
def W.scratchWrite (w : W) (c seq who grid : Nat) (cs : List Host.Cell) : W :=
  let ents := (linesOf cs).map (fun l =>
    (128 + grid, LogEnt.scratch (cellMask (cellsIn l cs)) (32 * l) seq who (packLine (w.rds (32 * l) 32))))
  (w.logWrite c ents).wrs cs
/-- Identity of a thread in log entries. -/
def Dev.whoOf (d : Dev) (tid : Nat) : Nat := match d.thr tid with | some t => t.who | none => 0
/-- SCRATCHPAD_STORE_ARRIVAL (08 R280): the oldest store that is on its way to a grid that is not stopped is performed. -/
def execScratchpadStoreArrival (s : State) : Host.Outcome State Fault Refusal :=
  run (fun w =>
    match w.d.spStores.find? (fun s => !w.d.stopped s.grid) with
    | none => w
    | some s =>
      let w := { w with d := { w.d with spStores := w.d.spStores.erase s } }
      w.scratchWrite s.ctx s.seq (w.d.whoOf s.thr) s.grid s.bytes) s

/-! ### Write streams (08 R238-R241, 15 R423) -/

/-- A stream made CLOSED: its latches and its bytes are gone. -/
def Dev.closeStream (d : Dev) (tid s : Nat) : Dev :=
  d.modStream tid s (fun q => { q with isOpen := false, latches := [], arrivals := [], configuring := none, unresolved := false })

/-- STREAM_HANDOVER (R238): the token of the oldest hand-over returns: the old stream has flushed its buffer and is CLOSED; the
new one opens when no other hand-over of it is awaited. While bytes of the old stream wait for a page, so does the token. -/
def execStreamHandover (s : State) : Host.Outcome State Fault Refusal :=
  run (fun w =>
    match w.d.handovers with
    | [] => w
    | h :: rest =>
      let w := w.flushStream h.oldThr h.oldStream
      let left := match w.d.thr h.oldThr with | some t => !(t.stream h.oldStream).buffer.isEmpty | none => false
      if left then w
      else
        let d := (w.d.closeStream h.oldThr h.oldStream)
        let d := { d with handovers := rest }
        let more := rest.any (fun q => q.newThr == h.newThr && q.newStream == h.newStream)
        { w with d := if more then d
            else d.modStream h.newThr h.newStream (fun q => { q with isOpen := q.configuring.isSome, configuring := none }) }) s

/-! ### Forwarded loads (08 R243) -/

/-- The thread whose OPEN port stream of a number is on a grid, and the stream's number in that thread. -/
def Dev.portStream (d : Dev) (c grid s : Nat) : Option (Nat × Nat) :=
  d.threads.findSome? (fun p =>
    if p.2.ctx == c && !p.2.ended then
      (p.2.streams.find? (fun q => q.1 % 32 == s && q.2.isOpen && p.2.streamAt q.1 == grid && q.2.cfg.space == .port)).map
        (fun q => (p.1, q.1))
    else none)
/-- The reply of a forwarded load at its destination; `err` marks an uncorrectable error. -/
def W.fwdArrives (w : W) (q : Fwd) (v : Vec) (err : Bool) : W :=
  let d := { w.d with fwds := w.d.fwds.erase q }
  let k := bits q.dest 63 60
  if k = 1 then
    W.deliverMail { w with d := d } q.ctx q.gid (bits q.dest 5 0) (bits q.dest 7 6) v (2 ^ 9 + if err then 2 ^ 8 else 0)
  else
    match d.portStream q.ctx (bits q.dest 40 32) (bits q.dest 4 0) with
    | none => { w with d := d.fwdError q.ctx }
    | some (tid, key) =>
      { w with d := (d.modStream tid key (fun s =>
          let es := (lanes (tyBits s.cfg.ty) v).map (fun x => (BitVec.ofNat 64 x, err))
          { s with arrivals := (s.arrivals ++ es).take s.cfg.total })).modGrid (bits q.dest 40 32) (fun g => { g with received := g.received + 1 }) }
/-- A forwarded load answered, as far as it can be; a home that cannot be reached within LNK_TMO, or whose address has no
rights, gives no reply, which is counted (log 36). -/
def W.fwdStep (w : W) (q : Fwd) : Option W :=
  let lost := some { w with d := ({ w.d with fwds := w.d.fwds.erase q } : Dev).fwdError q.ctx }
  if bits q.dest 63 60 = 2 ∧ w.d.stopped (bits q.dest 40 32) = true then none
  else
    match w.readHome q.ctx q.rnum q.addr 64 with
    | (.ok bs, w) => some (w.fwdArrives q (vecOfBytes bs) false)
    | (.ecc, w) => some (w.fwdArrives q 0#512 true)
    | (.lost, _) => lost
    | (.noRegion, _) => lost
    | (.waits, _) => if w.reach q.addr == .unanswered && decide (q.since + 1000 * w.g.lnkTmo ≤ w.d.now) then lost else none
    | (.absent, w) =>
      if w.d.preqs.any (fun r => r.ctx == q.ctx && r.page == pageOf q.addr) then none
      else some { w with d := (w.raisePage q.ctx q.addr 0 (originOf q.addr) none).2 }
/-- LDFWD_REPLY_DELIVERY (R243): the oldest forwarded load that can be answered is. -/
def execLdfwdReplyDelivery (s : State) : Host.Outcome State Fault Refusal :=
  run (fun w => (w.d.fwds.findSome? w.fwdStep).getD w) s
/-- The commit of `ldfwd`: a release of the issuer's writes to the 64 bytes (09 R277), then the request. -/
def W.ldfwdCommit (w : W) (tid : Nat) (t : Thread) (seq addr : Nat) (dest : Word) : W :=
  let w := w.flushPicked tid (fun b => decide (addr ≤ b.1) && decide (b.1 < addr + 64))
  let w := t.grids.foldl (fun w g => w.performRels g) w
  let w := w.writeBackAll t.grids (fun l => decide (lineOf addr ≤ l.line) && decide (l.line ≤ lineOf (addr + 63)))
  let q : Fwd := { ctx := t.ctx, gid := t.gid, thr := tid, tnum := t.tnum, grid := t.first, addr := addr, dest := dest,
                   rnum := w.d.rnumOf t, since := w.d.now, seq := seq }
  { w with d := { w.d with fwds := w.d.fwds ++ [q] } }

/-! ### Copies (08 R247-R253) -/

/-- Bytes of a copy in all. -/
def CopyDesc.bytes (d : CopyDesc) : Nat := d.rows * d.rowLen
/-- The destination of the byte at a cursor. -/
def CopyDesc.dstAt (d : CopyDesc) (cursor : Nat) : Nat := d.dst + cursor / d.rowLen * d.dpitch + cursor % d.rowLen
/-- What an engine finds for its next piece: a status to end with, a page to wait for, an address that is not answered or that
waits, or the piece: source, destination and length. -/
inductive CopyNext where
  | stop (status : Nat)
  | page (x : Nat) (wr : Bool)
  | remote (x : Nat)
  | waits
  | piece (src dst n : Nat)
deriving DecidableEq, Repr

/-- A global address as the engine meets it (R250): none when the access can be made. -/
def W.engineSees (w : W) (c : Copy) (x n : Nat) (wr : Bool) : Option CopyNext × W :=
  if 2 ^ 57 ≤ x + n - 1 || !w.inDomain x || (wr && w.d.wprotected x n) then (some (.stop 1), w)
  else
    let r := w.rights c.grid c.ctx x
    let w := r.2
    if !hasRights r.1 (if wr then rW else rR) then (some (.stop 1), w)
    else
      match w.translate c.ctx c.rnum x with
      | .absent => (some (.page x wr), w)
      | .noRegion => (some (.stop 1), w)
      | .waits => (some .waits, w)
      | .ok _ _ =>
        match w.reach x with
        | .lost => (some (.stop 4), w)
        | .unanswered => (some (.remote x), w)
        | .served => (none, w)

/-- The source address of a row of `agather`: its index is read at the PACKAGE point. -/
def W.gatherRow (w : W) (c : Copy) (row : Nat) : Except CopyNext Nat × W :=
  let at_ := c.d.list + 4 * row
  match w.engineSees c at_ 4 false with
  | (some e, w) => (.error e, w)
  | (none, w) =>
    match w.readHome c.ctx c.rnum at_ 4 with
    | (.ok bs, w) => (.ok (c.d.src + ofBytes bs * c.d.rowLen), w)
    | (.ecc, w) => (.error (.stop 3), w)
    | (.lost, w) => (.error (.stop 4), w)
    | (_, w) => (.error .waits, w)

/-- The shadow frame of a buffer address under an open handle (R255). -/
def Ctx.shadowKey (k : Ctx) (h x : Nat) : Option Nat :=
  match k.shadows.look h with
  | none => none
  | some s =>
    if s.isOpen ∧ s.base ≤ x ∧ x < s.base + s.len then
      (s.frames[(x - s.base) / 2 ^ 14]?).map (fun f => frameKey (f + (x - s.base) % 2 ^ 14))
    else none

/-- The next piece of a copy: up to the end of its row, a 4 KiB boundary of its destination and a page of its source. -/
def W.copyNext (w : W) (c : Copy) : CopyNext × W :=
  let d := c.d
  let row := c.cursor / d.rowLen
  let off := c.cursor % d.rowLen
  let base := if d.kind = .gather then w.gatherRow c row else (.ok (d.src + row * d.spitch), w)
  match base with
  | (.error e, w) => (e, w)
  | (.ok b, w) =>
    if decide (d.kind = .gather) && d.sspace == .scratch && decide (d.slim < b + d.rowLen) then (.stop 1, w)
    else
    let src := b + off
    let dst := d.dstAt c.cursor
    let n := min (d.rowLen - off) (min (4096 - dst % 4096) (2 ^ 14 - src % 2 ^ 14))
    let s := if d.sspace = .scratch then (none, w) else w.engineSees c src n false
    match s with
    | (some e, w) => (e, w)
    | (none, w) =>
      let t := if d.dspace = .scratch then (none, w)
        else if d.dspace = .shadow then
          (match (w.d.ctx c.ctx).shadowKey d.shadow dst with
            | some _ =>
              let r := w.rights c.grid c.ctx dst
              (if hasRights r.1 rW then none else some (CopyNext.stop 1), r.2)
            | none => (some (CopyNext.stop (match (w.d.ctx c.ctx).shadows.look d.shadow with
                | some s => if s.isOpen then 1 else 5
                | none => 5)), w))
        else w.engineSees c dst n true
      match t with
      | (some e, w) => (e, w)
      | (none, w) => (.piece src dst n, w)

/-- A copy replaced by its key. -/
def Dev.modCopy (d : Dev) (key : Nat) (f : Copy → Copy) : Dev :=
  { d with copies := d.copies.map (fun c => if c.key = key then f c else c) }
/-- The next byte of a copy lies past a 4 KiB boundary of the destination that its last byte did not reach. -/
def Copy.atBoundary (c : Copy) : Bool :=
  c.d.dstAt c.cursor % 4096 == 0 || (c.cursor != 0 && c.d.dstAt c.cursor / 4096 != c.d.dstAt (c.cursor - 1) / 4096)
/-- A context that is pre-empted pauses its copies at a 4 KiB boundary of the destination; one that is saved or ends does not
run them (R252). -/
def Dev.copyPaused (d : Dev) (c : Copy) : Bool :=
  match (d.ctx c.ctx).st with
  | .gating => c.atBoundary
  | .killed => c.atBoundary
  | .quiescent => true
  | .saved => true
  | .faulted => true
  | _ => false
/-- A copy that has moved all its bytes, or stops on a status. -/
def Copy.over (c : Copy) : Bool := c.status.isSome || decide (c.d.bytes ≤ c.cursor)

/-- Lines as an L1 gives them, each through the access grid of a core (09 R262). -/
def W.gridLines (w : W) (c : Copy) (ls : List Nat) : Rd (List (Nat × List Byte)) × W :=
  ls.foldl (fun acc l =>
    match acc with
    | (.ok q, w) =>
      (match w.l1Read c.ctx c.rnum (c.first + 32 * l / 256 % c.width) l with
        | (.ok bs, w) => (.ok (q ++ [(l, bs)]), w)
        | (.absent, w) => (.absent, w)
        | (.waits, w) => (.waits, w)
        | (.ecc, w) => (.ecc, w)
        | (.lost, w) => (.lost, w)
        | (.noRegion, w) => (.noRegion, w))
    | r => r) (.ok [], w)
/-- Bytes of global memory as an engine reads them at the point of its scope (09 R275): at GRID scope in the L1s of its thread's
access grids. -/
def W.engineRead (w : W) (c : Copy) (x n : Nat) : Rd (List Byte) × W :=
  if 2 ≤ c.d.scope then w.readHome c.ctx c.rnum x n
  else
    match w.gridLines c (((span x n).map lineOf).eraseDups) with
    | (.ok ls, w) =>
      (.ok ((span x n).map (fun a => ((ls.find? (fun q => q.1 == lineOf a)).map (fun q => q.2.getD (a % 32) 0#8)).getD 0#8)), w)
    | (.absent, w) => (.absent, w)
    | (.waits, w) => (.waits, w)
    | (.ecc, w) => (.ecc, w)
    | (.lost, w) => (.lost, w)
    | (.noRegion, w) => (.noRegion, w)
/-- Bytes that an engine writes at the point of its scope (09 R275); what a context logs goes to its home (log 40). -/
def W.engineWrite (w : W) (c : Copy) (cs : List Host.Cell) : W :=
  if 2 ≤ c.d.scope || (w.d.ctx c.ctx).logging then
    let w := w.loggedWrite c.ctx c.rnum c.seq (w.d.whoOf c.thr) cs
    if 2 ≤ c.d.scope then w else { w with d := w.d.patchLines ((List.range c.width).map (fun k => c.first + k)) cs }
  else
    (List.range c.width).foldl (fun (w : W) k =>
      w.l1Write c.ctx c.rnum (c.first + k) (cs.filter (fun b => b.1 / 256 % c.width == k))) w

/-- One piece of a copy moved. -/
def W.copyMove (w : W) (c : Copy) : W :=
  let waits := match c.after with | some n => w.d.rels.any (fun r => r.order == n) | none => false
  if c.over || c.waitPage.isSome || w.d.copyPaused c || waits then w
  else
    let stop := fun (w : W) (k : Nat) => ({ w with d := w.d.modCopy c.key (fun q => { q with status := some k }) } : W)
    match w.copyNext c with
    | (.stop k, w) => stop w k
    | (.page _ _, w) => w
    | (.waits, w) => w
    | (.remote x, w) =>
      if w.d.remotes.any (fun r => r.kind == .copy c.key) then w
      else
        let r : Remote := ⟨.copy c.key, c.ctx, pkgOf x, 0, x, w.d.now⟩
        { w with d := { w.d with remotes := w.d.remotes ++ [r] } }
    | (.piece src dst n, w) =>
      let r := if c.d.sspace = .scratch then
          (if w.d.poison.any (fun k => decide (src ≤ k) && decide (k < src + n)) then (Rd.ecc, w) else (.ok (w.rds src n), w))
        else w.engineRead c src n
      match r with
      | (.ecc, w) => stop w 3
      | (.lost, w) => stop w 4
      | (.ok bs, w) =>
        let who := w.d.whoOf c.thr
        let w := match c.d.dspace with
          | .scratch => w.scratchWrite c.ctx c.seq who (spGrid dst) (cellsAt dst bs)
          | .shadow => (match (w.d.ctx c.ctx).shadowKey c.d.shadow dst with
              | some k => w.wrs (cellsAt k bs)
              | none => w)
          | _ => w.engineWrite c (cellsAt dst bs)
        let d : Dev := { w.d with remotes := w.d.remotes.filter (fun r => r.kind != RKind.copy c.key) }
        { w with d := d.modCopy c.key (fun q => { q with cursor := q.cursor + n }) }
      | (_, w) => w

/-- ENGINE_PAGE_WAIT (R250): the first copy whose next access meets an absent page asks for it, or joins a request, and
waits. -/
def execEnginePageWait (s : State) : Host.Outcome State Fault Refusal :=
  run (fun w => (w.d.copies.findSome? (fun c =>
    if c.over || c.waitPage.isSome || w.d.copyPaused c then none
    else
      match w.copyNext c with
      | (.page x wr, w) =>
        let r := w.raisePage c.ctx x (if wr then 5 else 4) (originOf x) (some (.copy c.key))
        if r.1.isNone then none else some { w with d := r.2.modCopy c.key (fun q => { q with waitPage := r.1 }) }
      | _ => none)).getD w) s

/-- A copy retired (R249-R253): its range is cleared before its completion is sent. -/
def W.copyEnd (w : W) (c : Copy) : W :=
  let status := c.status.getD 0
  let w := { w with d := { w.d with copies := w.d.copies.filter (fun q => q.key != c.key) } }
  let k := w.d.ctx c.ctx
  let tagged := c.d.tagen && k.tagLast.get c.d.ctag 0 == c.key
  let w := if tagged then
      { w with d := w.d.modCtx c.ctx (fun k => { k with copyTags := k.copyTags.set c.d.ctag (BitVec.ofNat 64 status) }) }
    else w
  w.action c.ctx c.gid c.d.compl c.d.scope status c.d.ctag (some (c.d.dst, c.d.extent, c.d.scope))
/-- COPY_COMPLETION (R250): the first copy that is over retires; that of a killed context is dropped without a completion
(10 R311). -/
def execCopyCompletion (s : State) : Host.Outcome State Fault Refusal :=
  run (fun w =>
    match w.d.copies.find? (fun c => c.over && (w.d.ctx c.ctx).st != .saved) with
    | none => w
    | some c =>
      if (w.d.ctx c.ctx).st = .killed then { w with d := { w.d with copies := w.d.copies.filter (fun q => q.key != c.key) } }
      else w.copyEnd c) s
/-- The commit of an engine instruction (R250, R253, 09 R275): a release at its scope, then the issue. Where the release waits for
a home that is not reachable it stays pending, and the engine waits for it. -/
def W.copyCommit (w : W) (tid : Nat) (t : Thread) (grid seq : Nat) (q : CopyDesc) : W :=
  let blocked := w.relWaits q.scope t.grids
  let w := if blocked then w else w.releaseNow tid t.ctx q.scope t.grids
  let r := w.d.newId
  let n := r.2.newId
  let c : Copy := { ctx := t.ctx, gid := t.gid, thr := tid, grid := grid, rnum := w.d.rnumOf t, d := q, cursor := 0,
                    status := none, waitPage := none, key := r.1, seq := seq, first := t.first, width := t.width,
                    after := if blocked then some n.1 else none }
  let d : Dev := { r.2 with copies := r.2.copies ++ [c] }
  let d : Dev := if blocked then { d with nextId := n.2.nextId, rels := d.rels ++ [⟨t.ctx, tid, q.scope, t.grids, n.1⟩] } else d
  { w with d := if q.tagen then d.modCtx t.ctx (fun k => { k with
      copyTags := k.copyTags.set q.ctag (1#64 <<< 63), tagLast := k.tagLast.set q.ctag c.key }) else d }

/-! ### Publication (08 R256, 15 R429) -/

/-- The leaves over a buffer and whether each lets its frame be replaced: no lock, no PIN, no change in progress. -/
def W.bufferReady (w : W) (base n : Nat) : Bool :=
  (List.range n).all (fun k =>
    match w.leafAt (base + k * 2 ^ 14) with
    | some l => entLocks l.w0 == 0 && !entBit l.w0 55 && (l.state == stPresent || l.state == stAbsent || l.state == stLocked)
    | none => false)
/-- Large leaves over a page split, a frame of the pool a level. -/
def W.splitOver (w : W) (page fuel : Nat) : Option W :=
  match fuel with
  | 0 => some w
  | m + 1 =>
    match w.leafAt page with
    | none => none
    | some l =>
      if l.level = 3 then some w
      else
        match w.d.poolFree with
        | [] => none
        | f :: _ =>
          let w := { w with d := { w.d with pool := w.d.pool.erase f } }
          let w := w.splitTable l f true
          W.splitOver { w with d := w.d.tcDrop (l.base page) l.size } page m
/-- Every large leaf over a buffer split; none while the pool has too few frames. -/
def W.splitBuffer (w : W) (base n : Nat) : Option W :=
  (List.range n).foldl (fun acc k => acc.bind (fun w => W.splitOver w (base + k * 2 ^ 14) 3)) (some w)

/-- One page of the buffer takes its shadow frame; its old frame, if it has one, goes to the pool. -/
def W.swapFrame (w : W) (page frame : Nat) : W :=
  match w.leafAt page with
  | none => w
  | some l =>
    let old := if l.state = stAbsent then [] else [l.frame]
    let w := w.setLeaf page l (settled (withAddr l.w0 frame)) l.w1
    let d := (w.d.tcDrop page (2 ^ 14)).relatch page (2 ^ 14) (fun p _ => some (p, frameKey frame, false))
    { w with d := { d with pool := d.pool ++ old } }

/-- The publication of an open shadow: the streams on the buffer flush, its lines are invalidated, its leaves take the shadow
frames, and the handle closes. None while it has to wait. -/
def W.publish (w : W) (p : Publication) : Option W :=
  match (w.d.ctx p.ctx).shadows.look p.handle with
  | none => some { w with d := { w.d with pubs := w.d.pubs.erase p } }
  | some s =>
    let n := s.len / 2 ^ 14
    if w.d.copies.any (fun c => p.copies.contains c.key) || !w.bufferReady s.base n then none
    else
      match w.splitBuffer s.base n with
      | none => none
      | some w =>
        let w := w.flushEvery (fun b => decide (s.base ≤ b.1) && decide (b.1 < s.base + s.len))
        let w := w.dropRange s.base s.len
        let w := s.frames.zipIdx.foldl (fun (w : W) f => w.swapFrame (s.base + f.2 * 2 ^ 14) f.1) w
        let d := w.d.modCtx p.ctx (fun k => { k with shadows := k.shadows.erase p.handle })
        some { w with d := { d with pubs := d.pubs.erase p } }
/-- SHADOW_PUBLICATION (R256): the first publication that need not wait. -/
def execShadowPublication (s : State) : Host.Outcome State Fault Refusal :=
  run (fun w => (w.d.pubs.findSome? w.publish).getD w) s

/-- The commit of `ashadow`: the shadow opens; its frames leave the pool. -/
def Dev.ashadowCommit (d : Dev) (c h base len : Nat) (frames : List Nat) : Dev :=
  let d := d.modCtx c (fun k => { k with shadows := k.shadows.set h ⟨base, len, frames, true, none⟩ })
  { d with pool := d.pool.filter (fun f => !frames.contains f) }
/-- The commit of `apub` (R256): a release at SCOPE, then the publication begins. A handle that is not open: no effect. -/
def W.apubCommit (w : W) (tid : Nat) (t : Thread) (h scope : Nat) : W :=
  let w := w.releaseNow tid t.ctx scope t.grids
  match (w.d.ctx t.ctx).shadows.look h with
  | some s =>
    if s.publishing.isSome then w
    else
      let mine := (w.d.copies.filter (fun c => c.ctx == t.ctx && c.d.dspace == .shadow && c.d.shadow == h)).map (fun c => c.key)
      let d := w.d.modCtx t.ctx (fun k => { k with shadows := k.shadows.set h { s with publishing := some scope } })
      { w with d := { d with pubs := d.pubs ++ [⟨t.ctx, h, scope, mine, tid⟩] } }
  | none => w
/-- The commit of `apub.discard`: the frames go back to the pool and the handle closes. -/
def Dev.discardCommit (d : Dev) (c h : Nat) : Dev :=
  match (d.ctx c).shadows.look h with
  | some s =>
    if s.publishing.isSome then d
    else
      let d := d.modCtx c (fun k => { k with shadows := k.shadows.erase h })
      { d with pool := d.pool ++ s.frames }
  | none => d

end Sys2Proof.Machine
end

