-- ==== Sys2Proof/Machine/Transcend.lean ====
section
/-!
DEFINITION. The transcendental procedures of 03 R74-R79, in exact arithmetic on the exact input.
The tables are the constants that R76-R78 define by RoundHalfEven, worked out from those definitions.
-/

namespace Sys2Proof.Machine

/-- RoundHalfEven(2^(i/64) · 2^30) for i from 0 to 63 (03 R76). -/
def exp2TableLo : List Int :=
  [1073741824, 1085434106, 1097253708, 1109202018, 1121280436, 1133490379, 1145833280, 1158310587,
   1170923762, 1183674286, 1196563654, 1209593378, 1222764986, 1236080024, 1249540052, 1263146652,
   1276901417, 1290805962, 1304861917, 1319070932, 1333434672, 1347954824, 1362633090, 1377471191,
   1392470869, 1407633882, 1422962010, 1438457051, 1454120821, 1469955159, 1485961921, 1502142985]

/-- The same for i from 32 to 63. -/
def exp2TableHi : List Int :=
  [1518500250, 1535035634, 1551751076, 1568648537, 1585730000, 1602997467, 1620452965, 1638098541,
   1655936265, 1673968228, 1692196547, 1710623359, 1729250827, 1748081133, 1767116489, 1786359126,
   1805811301, 1825475297, 1845353420, 1865448001, 1885761398, 1906295993, 1927054196, 1948038440,
   1969251188, 1990694927, 2012372174, 2034285470, 2056437387, 2078830522, 2101467502, 2124350982]

/-- The table of R76. -/
def exp2Table : List Int := exp2TableLo ++ exp2TableHi

/-- RoundHalfEven(−Log2(C · 2^−32) · 2^40) for i from 0 to 47 (03 R77). -/
def log2TableA : List Int :=
  [-456338556328, -439900482087, -423631006480, -407526705932, -391584260538, -375800448903, -360172145392,
   -344696315577, -329370013101, -314190375992, -299154623974, -284260054711, -269504041461, -254884030385,
   -240397537199, -226042145411, -211815503370, -197715321703, -183739372520, -169885485542, -156151547338,
   -142535498165, -129035331717, -115649092154, -102374872761, -89210813912, -76155102790, -63205969984,
   -50361689279, -37620576829, -24980988273, -12441318420, 0, 12344497840, 24593670536, 36748978947,
   48811850393, 60783680668, 72665833194, 84459642175, 96166410930, 107787415018, 119323902045, 130777092382,
   142148180428, 153438334822, 164648699168, 175780393722]

/-- The same for i from 48 to 95. -/
def log2TableB : List Int :=
  [186834514751, 197812136466, 208714309749, 219542064734, 230296411009, 240978336613, 251588810962,
   262128783175, 272599183900, 283000925964, 293334903772, 303601994090, 313803058255, 323938939110,
   334010464690, 344018447534, 353963683544, 363846955499, 373669029739, 383430660288, 393132586554,
   402775533839, 412360215819, 421887331379, 431357568147, 440771601327, 450130094468, 459433698836,
   468683054260, 477878790061, 487021524018, 496111863862, 505150406813, 514137739638, 523074439254,
   531961072855, 540798198595, 549586364739, 558326111444, 567017968390, 575662458730, 584260094645,
   592811381898, 601316817544, 609776890835, 618192083083, 626562867536, 634889710370]

/-- The table of R77. -/
def log2Table : List Int := log2TableA ++ log2TableB

/-- c1, c2, c3 of R76 times 2^40. -/
def exp2C1 : Nat := 762123384786
def exp2C2 : Nat := 264131837702
def exp2C3 : Nat := 61027412866
/-- K of R77 and K2 of R78 times 2^40: RoundHalfEven(2^40 / Ln2) and RoundHalfEven(2^40 · Log2(e)) are one number. -/
def log2K : Int := 1586259972792

/-- A quotient of an integer by a positive natural. -/
structure Quot' where
  n : Int
  d : Nat
deriving DecidableEq, Repr

/-- The quotient n · 2^e / d of naturals with a sign. -/
def Quot'.of (s : Bool) (n d : Nat) (e : Int) : Quot' :=
  let p := pow2 e
  ⟨signedInt s (n * p.1), d * p.2⟩
def Quot'.add (a b : Quot') : Quot' := ⟨a.n * b.d + b.n * a.d, a.d * b.d⟩
def Quot'.sub (a b : Quot') : Quot' := ⟨a.n * b.d - b.n * a.d, a.d * b.d⟩
def Quot'.mul (a b : Quot') : Quot' := ⟨a.n * b.n, a.d * b.d⟩
def Quot'.int (k : Int) : Quot' := ⟨k, 1⟩
/-- Division by a quotient above zero. -/
def Quot'.div (a b : Quot') : Quot' := ⟨a.n * (b.d : Int), a.d * b.n.toNat⟩
/-- A quotient times a power of two, as an exact value; zero as +0. -/
def Quot'.toF (q : Quot') (e : Int) : FVal :=
  if q.n = 0 then .zero false else .num (decide (q.n < 0)) q.n.natAbs q.d e

/-- RoundHalfEven of a quotient of naturals (03 R75). -/
def roundHalfEven (n d : Nat) : Nat :=
  let q := n / d
  let r := n % d
  if d < 2 * r || (2 * r == d && q % 2 == 1) then q + 1 else q

/-- The mantissa of R75: |x| = m · 2^e with m in [1, 2), as m over a power of two. -/
def mantissa (n d : Nat) (e : Int) : Quot' × Int :=
  let ex := magExp n d e
  (Quot'.of false n d (e - ex), ex)

/-- Frcp (03 R75) of a finite nonzero value. -/
def frcpNum (s : Bool) (n d : Nat) (e : Int) : FVal :=
  let me := mantissa n d e
  let m := me.1
  if m.n = (m.d : Int) then .num s 1 1 (-me.2)
  else
    let i := ((m.n - m.d) * 128 / m.d).toNat
    let y0 : Quot' := ⟨roundHalfEven (512 * 256) (256 + 2 * i + 1), 512⟩
    let y1 := y0.mul ((Quot'.int 2).sub (m.mul y0))
    let y2 := y1.mul ((Quot'.int 2).sub (m.mul y1))
    (⟨if s then -y2.n else y2.n, y2.d⟩ : Quot').toF (-me.2)

/-- RoundHalfEven of the square root of a quotient. -/
def roundHalfEvenSqrt (n d : Nat) : Nat :=
  let r := isqrt (n / d)
  let four := 4 * n
  let mid := (2 * r + 1) * (2 * r + 1) * d
  if mid < four || (mid == four && r % 2 == 1) then r + 1 else r

/-- Frsqrt (03 R75) of a finite value above zero: x = q · 4^e with q in [1, 4). -/
def frsqrtNum (n d : Nat) (e : Int) : FVal :=
  let ex := magExp n d e
  let e4 := ex / 2
  let q := Quot'.of false n d (e - 2 * e4)
  if q.n = (q.d : Int) then .num false 1 1 (-e4)
  else
    let j := ((q.n - q.d) * 64 / q.d).toNat
    -- 512 / Sqrt(1 + (2j + 1) / 128) is the root of 512^2 · 128 / (129 + 2j)
    let y0 : Quot' := ⟨roundHalfEvenSqrt (512 * 512 * 128) (129 + 2 * j), 512⟩
    let half : Quot' := ⟨1, 2⟩
    let y1 := (y0.mul ((Quot'.int 3).sub (q.mul (y0.mul y0)))).mul half
    let y2 := (y1.mul ((Quot'.int 3).sub (q.mul (y1.mul y1)))).mul half
    y2.toF (-e4)

/-- Exp2Core (03 R76): its mantissa and the power of two nn. -/
def exp2Core (x : Quot') : Quot' × Int :=
  let nn := x.n / (x.d : Int)
  let g := x.sub (Quot'.int nn)
  let i := (g.n * 64 / (g.d : Int)).toNat
  let h := g.sub ⟨(i : Int), 64⟩
  let en : Quot' := ⟨exp2Table.getD i 0, 2 ^ 30⟩
  let c (k : Nat) : Quot' := ⟨(k : Int), 2 ^ 40⟩
  let p := (((Quot'.int 1).add (h.mul (c exp2C1))).add ((h.mul h).mul (c exp2C2))).add
    (((h.mul h).mul h).mul (c exp2C3))
  (en.mul p, nn)

/-- A finite value as a quotient. Inputs of R76 beyond 2^20 in magnitude are read as ±2^20: every type's result there is the
one of an overflow or of the smallest positive value, which the nearer exponent gives as well. -/
def quotClamped (s : Bool) (n d : Nat) (e : Int) : Quot' :=
  if 20 < magExp n d e then Quot'.int (if s then -1048576 else 1048576)
  else if magExp n d e < -4000 then Quot'.of s 1 1 (-4000)
  else Quot'.of s n d e

/-- Flog2 (03 R77) of a finite value above zero: x = m · 2^e with m in [0.75, 1.5). -/
def flog2Num (n d : Nat) (e : Int) : FVal :=
  let me := mantissa n d e
  let big := decide (3 * (me.1.d : Int) ≤ 2 * me.1.n)
  let m : Quot' := if big then ⟨me.1.n, 2 * me.1.d⟩ else me.1
  let ex := if big then me.2 + 1 else me.2
  let t0 := m.sub (Quot'.int 1)
  let near := decide (t0.n.natAbs * 64 < t0.d)
  let i := ((4 * m.n - 3 * m.d) * 32 / (m.d : Int)).toNat
  let cc : Quot' := ⟨(roundHalfEven (2 ^ 32 * 128) (96 + i) : Nat), 2 ^ 32⟩
  let t := if near then t0 else (m.mul cc).sub (Quot'.int 1)
  let l : Quot' := if near then Quot'.int 0 else ⟨log2Table.getD i 0, 2 ^ 40⟩
  let t2 := t.mul t
  let poly := ((t.sub (t2.mul ⟨1, 2⟩)).add ((t2.mul t).mul ⟨1, 3⟩)).sub ((t2.mul t2).mul ⟨1, 4⟩)
  (((Quot'.int ex).add l).add (Quot'.mul ⟨log2K, 2 ^ 40⟩ poly)).toF 0

/-- Ftanh (03 R78) of a finite nonzero value. -/
def ftanhNum (s : Bool) (n d : Nat) (e : Int) : FVal :=
  let ex := magExp n d e
  if 4 ≤ ex then .num s 1 1 0
  else
    -- below 2^-5 the series; its terms beyond the first only move the lowest bits, so the value stays exact
    let a := Quot'.of false n d e
    if decide (10 * (a.d : Int) ≤ a.n) then .num s 1 1 0
    else
      let sg : Int := if s then -1 else 1
      if decide (a.n * 32 < a.d) then
        let x3 := (a.mul a).mul a
        let p := (a.sub (x3.mul ⟨1, 3⟩)).add (((x3.mul a).mul a).mul ⟨2, 15⟩)
        (⟨sg * p.n, p.d⟩ : Quot').toF 0
      else
        let en := exp2Core ((Quot'.mul ⟨2, 1⟩ a).mul ⟨log2K, 2 ^ 40⟩)
        let ev := en.1.mul (Quot'.of false 1 1 en.2)
        let p := (Quot'.int 1).sub ((Quot'.int 2).div (ev.add (Quot'.int 1)))
        (⟨sg * p.n, p.d⟩ : Quot').toF 0

/-- Fsig (03 R78) of a finite nonzero value. An exponent nn beyond 400 is read as 400, below −400 as −400: the quotient then
rounds as the exact one in every type of R74. -/
def fsigNum (s : Bool) (n d : Nat) (e : Int) : FVal :=
  let x := quotClamped (!s) n d e
  let en := exp2Core (x.mul ⟨log2K, 2 ^ 40⟩)
  let nn : Int := if 400 < en.2 then 400 else if en.2 < -400 then -400 else en.2
  let ev := en.1.mul (Quot'.of false 1 1 nn)
  ((Quot'.int 1).div ((Quot'.int 1).add ev)).toF 0

/-- `frcp` (03 R75, R79). -/
def fRcp (x : FVal) : FRes :=
  match x with
  | .nan q => ⟨.nan false, if q then fNV else 0#6⟩
  | .inf s => ⟨.zero s, 0#6⟩
  | .zero s => ⟨.inf s, fDZ⟩
  | .num s n d e => ⟨frcpNum s n d e, 0#6⟩

/-- `frsqrt` (03 R75, R79). -/
def fRsqrt (x : FVal) : FRes :=
  match x with
  | .nan q => ⟨.nan false, if q then fNV else 0#6⟩
  | .inf s => if s then ⟨.nan false, fNV⟩ else ⟨.zero false, 0#6⟩
  | .zero s => ⟨.inf s, fDZ⟩
  | .num true _ _ _ => ⟨.nan false, fNV⟩
  | .num false n d e => ⟨frsqrtNum n d e, 0#6⟩

/-- `fexp2` (03 R76, R79). -/
def fExp2 (x : FVal) : FRes :=
  match x with
  | .nan q => ⟨.nan false, if q then fNV else 0#6⟩
  | .inf s => if s then ⟨.zero false, 0#6⟩ else ⟨.inf false, 0#6⟩
  | .zero _ => ⟨.num false 1 1 0, 0#6⟩
  | .num s n d e =>
    let p := exp2Core (quotClamped s n d e)
    ⟨p.1.toF p.2, 0#6⟩

/-- `flog2` (03 R77, R79). -/
def fLog2 (x : FVal) : FRes :=
  match x with
  | .nan q => ⟨.nan false, if q then fNV else 0#6⟩
  | .inf s => if s then ⟨.nan false, fNV⟩ else ⟨.inf false, 0#6⟩
  | .zero _ => ⟨.inf true, fDZ⟩
  | .num true _ _ _ => ⟨.nan false, fNV⟩
  | .num false n d e => ⟨flog2Num n d e, 0#6⟩

/-- `ftanh` (03 R78, R79). -/
def fTanh (x : FVal) : FRes :=
  match x with
  | .nan q => ⟨.nan false, if q then fNV else 0#6⟩
  | .inf s => ⟨.num s 1 1 0, 0#6⟩
  | .zero s => ⟨.zero s, 0#6⟩
  | .num s n d e => ⟨ftanhNum s n d e, 0#6⟩

/-- `fsig` (03 R78, R79). -/
def fSig (x : FVal) : FRes :=
  match x with
  | .nan q => ⟨.nan false, if q then fNV else 0#6⟩
  | .inf s => if s then ⟨.zero false, 0#6⟩ else ⟨.num false 1 1 0, 0#6⟩
  | .zero _ => ⟨.num false 1 1 (-1), 0#6⟩
  | .num s n d e => ⟨fsigNum s n d e, 0#6⟩

end Sys2Proof.Machine
end

