-- ==== Sys2Proof/Machine/FloatOps.lean ====
section
/-!
DEFINITION. Floating arithmetic, opcodes 0x40 to 0x58 (06 R157-R170, 03 R55-R79).
-/

namespace Sys2Proof.Machine

/-- Lanes computed exactly and rounded once, to both targets; their flags joined (R157, R159). `dt` is the result type. -/
def roundLanes (f : FmtG) (dt : BitVec 4) (l : List FRes) : Out :=
  let q := l.map (rounded dt (rmOf f.rm) (f.fzo == 1#1))
  both f.t0 f.t1 (ofLanes (tyBits dt) (q.map (·.code))) (joinFlags (q.map (·.flags)))

/-- Lane k of an operand that the prefix does not affect. -/
def plainF (f : FmtG) (v : Vec) (k : Nat) : FVal := readF f.ty (f.fzi == 1#1) none v k
/-- Lane k of an operand that the prefix affects (R172). -/
def scaledF (f : FmtG) (o : Opnds) (v : Vec) (k : Nat) : FVal := readF f.ty (f.fzi == 1#1) o.pre v k

/-- An operation of `a` and `b` under a prefix (R161, R172). -/
def float2 (f : FmtG) (g : Rm → FVal → FVal → FRes) (o : Opnds) : Out :=
  roundLanes f f.ty ((List.range (laneCount f.ty)).map (fun k => g (rmOf f.rm) (scaledF f o o.va k) (scaledF f o o.vb k)))
/-- An operation of `a`, `b` under a prefix and `c` read as TY, unscaled (R172). -/
def float3 (f : FmtG) (g : Rm → FVal → FVal → FVal → FRes) (o : Opnds) : Out :=
  roundLanes f f.ty ((List.range (laneCount f.ty)).map (fun k =>
    g (rmOf f.rm) (scaledF f o o.va k) (scaledF f o o.vb k) (plainF f o.vc k)))
/-- An operation of `a` alone. -/
def float1 (f : FmtG) (g : FVal → FRes) (o : Opnds) : Out :=
  roundLanes f f.ty ((List.range (laneCount f.ty)).map (fun k => g (plainF f o.va k)))

/-- FADD (R161). -/
def execFadd (f : FmtG) (s : State) : Host.Outcome State Fault Refusal :=
  runD (fire (.fadd f) (float2 f fAdd)) s
/-- FSUB (R161): the sum after negating `b`. -/
def execFsub (f : FmtG) (s : State) : Host.Outcome State Fault Refusal :=
  runD (fire (.fsub f) (float2 f fun rm a b => fAdd rm a b.neg)) s
/-- FMUL (R161). -/
def execFmul (f : FmtG) (s : State) : Host.Outcome State Fault Refusal :=
  runD (fire (.fmul f) (float2 f fun _ a b => fMul a b)) s
/-- FMA (R163): a × b + c. -/
def execFma (f : FmtG) (s : State) : Host.Outcome State Fault Refusal :=
  runD (fire (.fma f) (float3 f fFma)) s
/-- FMS (R163): a × b − c. -/
def execFms (f : FmtG) (s : State) : Host.Outcome State Fault Refusal :=
  runD (fire (.fms f) (float3 f fun rm a b c => fFma rm a b c.neg)) s
/-- FNMA (R163): −(a × b) + c. -/
def execFnma (f : FmtG) (s : State) : Host.Outcome State Fault Refusal :=
  runD (fire (.fnma f) (float3 f fun rm a b c => fFma rm a.neg b c)) s
/-- FMIN (R57). -/
def execFmin (f : FmtG) (s : State) : Host.Outcome State Fault Refusal :=
  runD (fire (.fmin f) (float2 f fun _ a b => fMin a b)) s
/-- FMAX (R57). -/
def execFmax (f : FmtG) (s : State) : Host.Outcome State Fault Refusal :=
  runD (fire (.fmax f) (float2 f fun _ a b => fMax a b)) s

/-- An operation on the sign alone (R164): a NaN in `a` gives the canonical NaN; NV for a signalling NaN operand. -/
def signOp (vs : List FVal) (a : FVal) (s : Bool) : FRes := ⟨if a.isNan then .nan false else a.setSign s, snanFlag vs⟩

/-- FABS (R164). -/
def execFabs (f : FmtG) (s : State) : Host.Outcome State Fault Refusal :=
  runD (fire (.fabs f) (float1 f fun a => signOp [a] a false)) s
/-- FNEG (R164). -/
def execFneg (f : FmtG) (s : State) : Host.Outcome State Fault Refusal :=
  runD (fire (.fneg f) (float1 f fun a => signOp [a] a (!a.sign))) s

/-- FDIV (R57, R161). -/
def execFdiv (f : FmtG) (s : State) : Host.Outcome State Fault Refusal :=
  runD (fire (.fdiv f) (float2 f fun _ a b => fDiv a b)) s
/-- FSQRT (R57, R161). -/
def execFsqrt (f : FmtG) (s : State) : Host.Outcome State Fault Refusal :=
  runD (fire (.fsqrt f) (float1 f fSqrt)) s
/-- FRCP (R75, R79). -/
def execFrcp (f : FmtG) (s : State) : Host.Outcome State Fault Refusal :=
  runD (fire (.frcp f) (float1 f fRcp)) s
/-- FRSQRT (R75, R79). -/
def execFrsqrt (f : FmtG) (s : State) : Host.Outcome State Fault Refusal :=
  runD (fire (.frsqrt f) (float1 f fRsqrt)) s
/-- FEXP2 (R76, R79). -/
def execFexp2 (f : FmtG) (s : State) : Host.Outcome State Fault Refusal :=
  runD (fire (.fexp2 f) (float1 f fExp2)) s
/-- FLOG2 (R77, R79). -/
def execFlog2 (f : FmtG) (s : State) : Host.Outcome State Fault Refusal :=
  runD (fire (.flog2 f) (float1 f fLog2)) s
/-- FTANH (R78, R79). -/
def execFtanh (f : FmtG) (s : State) : Host.Outcome State Fault Refusal :=
  runD (fire (.ftanh f) (float1 f fTanh)) s
/-- FSIG (R78, R79). -/
def execFsig (f : FmtG) (s : State) : Host.Outcome State Fault Refusal :=
  runD (fire (.fsig f) (float1 f fSig)) s

/-- A value rounded to an integral value of its type (R166): zero keeps the sign; NX only with EXACT. -/
def froundVal (rm : Rm) (exact : Bool) (a : FVal) : FRes :=
  match a with
  | .num s n d e =>
    let r := roundInt rm s n d e
    ⟨if r.1 = 0 then .zero s else .num s r.1.natAbs 1 0, if exact && r.2 then fNX else 0#6⟩
  | .nan q => ⟨.nan false, if q then fNV else 0#6⟩
  | a => ⟨a, 0#6⟩

/-- FROUND (R166). -/
def execFround (f : FmtG) (s : State) : Host.Outcome State Fault Refusal :=
  runD (fire (.fround f) (float1 f (froundVal (rmOf f.rm) (bits f.x 0 0 == 1)))) s

/-- The class number of the bits of a lane (R168), read without FZI. -/
def classOf (ty : BitVec 4) (x : Nat) : Nat :=
  match decodeF ty x with
  | .nan q => if q then 0 else 1
  | .inf s => if s then 2 else 9
  | .zero s => if s then 5 else 6
  | .num s _ _ _ => if isSubnormal ty x then (if s then 4 else 7) else (if s then 3 else 8)

/-- FCLASS (R168). -/
def execFclass (f : FmtG) (s : State) : Host.Outcome State Fault Refusal :=
  runD (fire (.fclass f) fun o =>
    both f.t0 f.t1 (prTok (laneCount f.ty) (ofBits ((List.range (laneCount f.ty)).map (fun k =>
      (bits f.x 9 0).testBit (classOf f.ty (lane (tyBits f.ty) o.va k))))))) s

/-- The exponent of `fscale` (R167): lane k of `b` signed, or X[15:0], clamped to ±2^20. -/
def fscaleN (f : FmtG) (b : Vec) (k : Nat) : Int :=
  let n := if immB f then sbits f.x 15 0 else sgn (tyBits f.ty) (lane (tyBits f.ty) b k)
  if n < -(2 ^ 20 : Int) then -(2 ^ 20 : Int) else if (2 ^ 20 : Int) < n then 2 ^ 20 else n

/-- FSCALE (R167). -/
def execFscale (f : FmtG) (s : State) : Host.Outcome State Fault Refusal :=
  runD (fire (.fscale f) fun o =>
    roundLanes f f.ty ((List.range (laneCount f.ty)).map (fun k =>
      let a := plainF f o.va k
      ⟨a.scale (fscaleN f o.vb k), snanFlag [a]⟩))) s

/-- An exact sum of terms (R70): infinities of unlike signs raise NV whatever else is summed; once NaN it stays NaN. An exact
zero sum is −0 when every term is −0, else as R161 gives it (log 11). -/
def sumExact (rm : Rm) (l : List FRes) : FRes :=
  match l with
  | [] => ⟨.zero false, 0#6⟩
  | x :: r =>
    let s := r.foldl (fun acc y => let s := fAdd rm acc.v y.v; ⟨s.v, acc.fl ||| y.fl ||| s.fl⟩) x
    let clash := l.any (fun t => t.v == .inf false) && l.any (fun t => t.v == .inf true)
    ⟨s.v, if clash then s.fl ||| fNV else s.fl⟩

/-- Fdot (R170): g products a lane, and the f32 addend where the instruction has one. -/
def fdot (f : FmtG) (g : Nat) (o : Opnds) : Out :=
  let rm := rmOf f.rm
  roundLanes f 10#4 ((List.range 16).map (fun k =>
    let prods := (List.range g).map (fun j => fMul (scaledF f o o.va (g * k + j)) (scaledF f o o.vb (g * k + j)))
    let add := readF 10#4 (f.fzi == 1#1) none o.vc k
    sumExact rm (if o.c.isSome then prods ++ [⟨add, snanFlag [add]⟩] else prods)))

/-- FDOT2 (R170). -/
def execFdot2 (f : FmtG) (s : State) : Host.Outcome State Fault Refusal :=
  runD (fire (.fdot2 f) (fdot f 2)) s
/-- FDOT4 (R170). -/
def execFdot4 (f : FmtG) (s : State) : Host.Outcome State Fault Refusal :=
  runD (fire (.fdot4 f) (fdot f 4)) s

/-- FCLAMP (R165): Minimum(Maximum(a, b), c). -/
def execFclamp (f : FmtG) (s : State) : Host.Outcome State Fault Refusal :=
  runD (fire (.fclamp f) (float3 f fun _ a b c =>
    let m := fMax a b
    let r := fMin m.v c
    ⟨r.v, m.fl ||| r.fl ||| snanFlag [c]⟩)) s

/-- The sign bit of lane k. -/
def laneSign (ty : BitVec 4) (v : Vec) (k : Nat) : Bool := (lane (tyBits ty) v k).testBit (tyBits ty - 1)

/-- FCOPYSIGN (R164): the magnitude of `a` with the sign bit of `b`. -/
def execFcopysign (f : FmtG) (s : State) : Host.Outcome State Fault Refusal :=
  runD (fire (.fcopysign f) fun o =>
    roundLanes f f.ty ((List.range (laneCount f.ty)).map (fun k =>
      let a := plainF f o.va k
      signOp [a, plainF f o.vb k] a (laneSign f.ty o.vb k)))) s

end Sys2Proof.Machine
end

