-- ==== Sys2Proof/Machine/CrossLane.lean ====
section
/-!
DEFINITION. Cross-lane instructions, opcodes 0x70 to 0x78 (06 R179-R186, 03 R71-R72).
-/

namespace Sys2Proof.Machine

/-- Lanes chosen by a function from the lane number to a lane value. -/
def laneMap (f : FmtG) (g : Nat → Nat) : Out :=
  both f.t0 f.t1 (ofLanes (tyBits f.ty) ((List.range (laneCount f.ty)).map g))

/-- PERM (R180): the index of lane k is byte k of `b`. -/
def execPerm (f : FmtG) (s : State) : Host.Outcome State Fault Refusal :=
  runD (fire (.perm f) fun o =>
    let n := tyBits f.ty
    let l := laneCount f.ty
    laneMap f (fun k =>
      let i := lane 8 o.vb k
      if bits f.x 0 0 = 0 then lane n o.va (i % l)
      else (let j := i % (2 * l); if j < l then lane n o.va j else lane n o.vc (j - l)))) s

/-- SHFL (R181). -/
def execShfl (f : FmtG) (s : State) : Host.Outcome State Fault Refusal :=
  runD (fire (.shfl f) fun o =>
    let n := tyBits f.ty
    let l := laneCount f.ty
    let sh := bits f.x 9 4
    laneMap f (fun k =>
      match bits f.x 3 0 with
      | 0 => lane n o.va ((k + sh) % l)
      | 1 => if k + sh < l then lane n o.va (k + sh) else 0
      | 2 => if sh ≤ k then lane n o.va (k - sh) else 0
      | _ => lane n o.va (k ^^^ sh))) s

/-! ### Reductions (03 R71-R72, 06 R182-R183) -/

/-- A combination: its code and the flags of its rounding. -/
abbrev Combine := Nat → Nat → Nat × BitVec 6

/-- Combine of an operation on codes of TY (R182): floats round at every node, and FZI acts on the input lanes only. -/
def combine (f : FmtG) (a b : Nat) : Nat × BitVec 6 :=
  let op := bits f.x 3 0
  if intTy f.ty then
    let n := tyBits f.ty
    (match op with
      | 0 => (a + b) % 2 ^ n
      | 1 => laneMin' a b
      | 2 => laneMax' a b
      | 3 => a &&& b
      | 4 => a ||| b
      | _ => a ^^^ b, 0#6)
  else
    let x := decodeF f.ty a
    let y := decodeF f.ty b
    let r := match op with
      | 0 => fAdd (rmOf f.rm) x y
      | 1 => fMin x y
      | _ => fMax x y
    let q := rounded f.ty (rmOf f.rm) (f.fzo == 1#1) r
    (q.code, q.flags)
where
  laneMin' (a b : Nat) : Nat := if num f.ty a ≤ num f.ty b then a else b
  laneMax' (a b : Nat) : Nat := if num f.ty a ≤ num f.ty b then b else a

/-- One level of the tree: neighbours combined (R71). -/
def treeLevel (g : Combine) : List Nat → List Nat × BitVec 6
  | a :: b :: r =>
    let c := g a b
    let q := treeLevel g r
    (c.1 :: q.1, c.2 ||| q.2)
  | l => (l, 0#6)

/-- The levels of the tree from level 0 up, `lv` of them above the leaves, and the flags of every node. -/
def tree (g : Combine) (lv : Nat) (l : List Nat) : List (List Nat) × BitVec 6 :=
  match lv with
  | 0 => ([l], 0#6)
  | n + 1 =>
    let q := treeLevel g l
    let r := tree g n q.1
    (l :: r.1, q.2 ||| r.2)

/-- ScanLane (R72): the nodes that cover lanes 0 to j, from the highest level down, combined from the left. -/
def scanLane (g : Combine) (nodes : List (List Nat)) (j lvl base : Nat) (acc : Option Nat) (fl : BitVec 6) : Nat × BitVec 6 :=
  let here := (j + 1) / 2 ^ lvl % 2 == 1
  let blk := (nodes.getD lvl []).getD (base / 2 ^ lvl) 0
  let st : Option Nat × BitVec 6 :=
    if here then (match acc with | none => (some blk, fl) | some a => (let c := g a blk; (some c.1, fl ||| c.2))) else (acc, fl)
  let base := if here then base + 2 ^ lvl else base
  match lvl with
  | 0 => (st.1.getD 0, st.2)
  | n + 1 => scanLane g nodes j n base st.1 st.2

/-- An input lane as the reductions take it: FZI reads a subnormal as zero of its sign, and a value is unchanged otherwise. -/
def redInput (f : FmtG) (v : Vec) (k : Nat) : Nat :=
  let x := lane (tyBits f.ty) v k
  if floatTy f.ty && f.fzi == 1#1 && isSubnormal f.ty x then x / 2 ^ (tyBits f.ty - 1) * 2 ^ (tyBits f.ty - 1) else x

/-- log2 of the group size: G, or log2 of the lane count for G = 0 (R182). -/
def groupLog (f : FmtG) : Nat :=
  let g := bits f.x 8 5
  if g = 0 then Nat.log2 (laneCount f.ty) else g

/-- The input lanes cut into groups of 2^G. -/
def redGroups (f : FmtG) (v : Vec) : List (List Nat) :=
  let n := 2 ^ groupLog f
  (List.range (laneCount f.ty / n)).map (fun q => (List.range n).map (fun j => redInput f v (q * n + j)))

/-- RED (R182). -/
def execRed (f : FmtG) (s : State) : Host.Outcome State Fault Refusal :=
  runD (fire (.red f) fun o =>
    let lg := groupLog f
    let r := (redGroups f o.va).map (fun l => tree (combine f) lg l)
    let val := fun (t : List (List Nat) × BitVec 6) => (t.1.getD lg []).getD 0 0
    let out := r.flatMap (fun t =>
      if bits f.x 4 4 = 1 then List.replicate (2 ^ lg) (val t) else val t :: List.replicate (2 ^ lg - 1) 0)
    both f.t0 f.t1 (ofLanes (tyBits f.ty) out) (joinFlags (r.map Prod.snd))) s

/-- The identity of an operation (R182). -/
def identityOf (f : FmtG) : Nat :=
  let n := tyBits f.ty
  let op := bits f.x 3 0
  if intTy f.ty then
    match op with
    | 0 => 0
    | 1 => wrap n (tyMax f.ty)
    | 2 => wrap n (tyMin f.ty)
    | 3 => 2 ^ n - 1
    | _ => 0
  else
    let l := layout f.ty
    let inf := (2 ^ l.eb - 1) * 2 ^ l.fb
    match op with
    | 0 => 2 ^ (n - 1)
    | 1 => inf
    | _ => 2 ^ (n - 1) + inf

/-- A lane that no combination reaches is the input lane; a NaN that it delivers is the canonical one (03 R56). DESIGN CHOICE: it
is not rounded, so that a subnormal value stays with FZO = 1 and raises nothing (log 87). -/
def scanOut (f : FmtG) (x : Nat) : Nat := if floatTy f.ty && (decodeF f.ty x).isNan then canonicalNan f.ty else x

/-- SCAN (R183): every node and every combination of every lane raises its flags. -/
def execScan (f : FmtG) (s : State) : Host.Outcome State Fault Refusal :=
  runD (fire (.scan f) fun o =>
    let lg := groupLog f
    let r := (redGroups f o.va).map (fun l =>
      let t := tree (combine f) lg l
      let sc := (List.range (2 ^ lg)).map (fun j => scanLane (combine f) t.1 j lg 0 none 0#6)
      (sc.map (fun r => scanOut f r.1), t.2 ||| joinFlags (sc.map Prod.snd)))
    let out := r.flatMap (fun t => if bits f.x 4 4 = 1 then identityOf f :: t.1.dropLast else t.1)
    both f.t0 f.t1 (ofLanes (tyBits f.ty) out) (joinFlags (r.map Prod.snd))) s

/-! ### Moves by mask -/

/-- Number of set bits below k. -/
def bitsBelow (v : Vec) (k : Nat) : Nat := ((List.range k).filter (fun j => v.getLsbD j)).length

/-- CMPR (R184): the chosen lanes to the front; T1 receives their number in 16 n32 lanes. -/
def execCmpr (f : FmtG) (s : State) : Host.Outcome State Fault Refusal :=
  runD (fire (.cmpr f) fun o =>
    let n := tyBits f.ty
    let ks := (List.range (laneCount f.ty)).filter (fun k => o.vb.getLsbD k)
    { toks := [(f.t0, .val (ofLanes n (ks.map (lane n o.va)))),
        (f.t1, .val (ofLanes 32 (List.replicate 16 ks.length)))] }) s

/-- EXPD (R184): lanes spread to the set mask bits; the others take `c`, or zero. -/
def execExpd (f : FmtG) (s : State) : Host.Outcome State Fault Refusal :=
  runD (fire (.expd f) fun o =>
    let n := tyBits f.ty
    laneMap f (fun k => if o.vb.getLsbD k then lane n o.va (bitsBelow o.vb k) else lane n o.vc k)) s

/-- VOTE (R185). -/
def execVote (f : FmtG) (s : State) : Host.Outcome State Fault Refusal :=
  runD (fire (.vote f) fun o =>
    let l := laneCount f.ty
    let cnt := bitsBelow o.va l
    let all := fun (c : Bool) => both f.t0 f.t1 (prTok l (if c then 2 ^ l - 1 else 0))
    match bits f.x 1 0 with
    | 0 => all (decide (0 < cnt))
    | 1 => all (cnt == l)
    | 2 => all (cnt == 0 || cnt == l)
    | _ => laneMap f (fun _ => cnt)) s

/-- ZIP (R186). -/
def execZip (f : FmtG) (s : State) : Host.Outcome State Fault Refusal :=
  runD (fire (.zip f) fun o =>
    let n := tyBits f.ty
    let h := laneCount f.ty / 2
    laneMap f (fun k =>
      let j := bits f.x 0 0 * h + k / 2
      if k % 2 = 0 then lane n o.va j else lane n o.vb j)) s

/-- UNZIP (R186). -/
def execUnzip (f : FmtG) (s : State) : Host.Outcome State Fault Refusal :=
  runD (fire (.unzip f) fun o =>
    let n := tyBits f.ty
    let h := laneCount f.ty / 2
    laneMap f (fun k =>
      if k < h then lane n o.va (2 * k + bits f.x 0 0) else lane n o.vb (2 * (k - h) + bits f.x 0 0))) s

end Sys2Proof.Machine
end

