-- ==== Sys2Proof/Machine/Link.lean ====
section
/-!
DEFINITION. Links (18 R473-R488): Wolux ports, the link query, time alignment, CXL snoops and host accesses, the collective
engine.
-/

namespace Sys2Proof.Machine

/-! ### Ports (R477-R480) -/

/-- A port. -/
def Dev.port (d : Dev) (p : Nat) : Port := d.ports.get p {}
/-- A port changed. -/
def Dev.modPort (d : Dev) (p : Nat) (f : Port → Port) : Dev := { d with ports := d.ports.set p (f (d.port p)) }
/-- A port that carries requests. -/
def Port.usable (p : Port) : Bool := p.st == .up || p.st == .degraded
/-- Usable ports of the route entry toward a package (R482). -/
def Dev.usablePorts (d : Dev) (pkg : Nat) : List Nat := (d.routeTo pkg).filter (d.portIn [.up, .degraded])
/-- Destination package, source package and request tag of a flit (R477). -/
def flitDst (v : BitVec 1024) : Nat := (v.extractLsb' 24 8).toNat
def flitSrc (v : BitVec 1024) : Nat := (v.extractLsb' 32 8).toNat
def flitTag (v : BitVec 1024) : Nat := (v.extractLsb' 40 24).toNat
/-- Sequence number and acknowledged sequence. -/
def flitSeq (v : BitVec 1024) : Nat := (v.extractLsb' 8 8).toNat
def flitAck (v : BitVec 1024) : Nat := (v.extractLsb' 16 8).toNat

/-- A flit sent on one of the usable ports of its destination, chosen freely: it takes the port's next sequence number and a
place in its replay buffer (R477, R482). None when no port can take it. -/
def Dev.forward (d : Dev) (v : BitVec 1024) : Option Dev :=
  let ps := (d.usablePorts (flitDst v)).filter (fun p => decide ((d.port p).replay.length < Config.replayFlits))
  let f := d.fresh
  match ps[f.1 % ps.length]? with
  | none => none
  | some p =>
    let n := (d.port p).sendSeq
    let v := v &&& ~~~(0xFF#1024 <<< 8) ||| (BitVec.ofNat 1024 n <<< 8)
    some (f.2.modPort p (fun q => { q with sendSeq := (n + 1) % 256, replay := q.replay ++ [v] }))
/-- The flits that a port keeps are sent again on other ports (R482); those without another port stay with it. -/
def Dev.reroute (d : Dev) (p : Nat) : Dev :=
  (d.port p).replay.foldl (fun (d : Dev) v =>
    match d.forward v with
    | some d => d.modPort p (fun q => { q with replay := q.replay.erase v })
    | none => d) d
/-- A port goes to training (R478); flits in its replay buffer are sent again afterwards. -/
def Dev.train (d : Dev) (p : Nat) : Dev := d.modPort p (fun q => { q with st := .training, attempts := 0, refusals := 0 })

/-- PORT_ENABLE (R478): the host enables port `a`. -/
def execPortEnable (s : State) : Host.Outcome State Fault Refusal :=
  runD (fun d => if d.arg.a < Config.ports ∧ (d.port d.arg.a).st = .down then d.train d.arg.a else d) s
/-- PORT_DISABLE (R478): the host disables port `a`; requests outstanding on it are sent on other ports, and the others are
gone. -/
def execPortDisable (s : State) : Host.Outcome State Fault Refusal :=
  runD (fun d =>
    let p := d.arg.a
    if p < Config.ports then
      ((d.modPort p (fun q => { q with st := .down, lanes := 0 })).reroute p).modPort p (fun q => { q with replay := [] })
    else d) s
/-- ISOLATE (R480): the host isolates port `a`. -/
def execIsolate (s : State) : Host.Outcome State Fault Refusal :=
  runD (fun d =>
    let p := d.arg.a
    if (d.port p).usable || (d.port p).st == .training then
      ((d.modPort p (fun q => { q with st := .isolated })).reroute p).modPort p (fun q => { q with replay := [] })
    else d) s
/-- RELEASE (R478): the host releases the isolated port `a`. -/
def execRelease (s : State) : Host.Outcome State Fault Refusal :=
  runD (fun d => if (d.port d.arg.a).st = .isolated then d.train d.arg.a else d) s
/-- PORT_TRAINING_DONE (R478): on port `a`, `b` lanes have trained; `c` is the peer's domain number. The third attempt
without a lane fails the port, and the host is notified (log 33). -/
def execPortTrainingDone (s : State) : Host.Outcome State Fault Refusal :=
  run (fun w =>
    let e := w.d.arg
    let q := w.d.port e.a
    if q.st ≠ .training then w
    else
      let up := fun (st : PState) (lanes : Nat) => { w with d := w.d.modPort e.a (fun q => { q with
        st := st, lanes := lanes, peer := e.c % 256, attempts := 0, replays := q.replays + q.replay.length }) }
      match e.b with
      | 0 =>
        let failed := decide (2 ≤ q.attempts)
        let w := { w with d := w.d.modPort e.a (fun q => { q with
          attempts := q.attempts + 1, st := if failed then .failed else .training, lanes := 0 }) }
        if failed then w.notify 0 (stateCode (w.d.ctx 0).st) (fcause .linkLost) else w
      | 1 => up .degraded 1
      | 2 => up .degraded 2
      | 3 => up .degraded 2
      | _ => up .up 4) s
/-- LANE_ERROR_DEGRADE (R478): port `a` narrows to 2 lanes, or to 1 if the pair has failed (`b` is 1). -/
def execLaneErrorDegrade (s : State) : Host.Outcome State Fault Refusal :=
  runD (fun d =>
    let e := d.arg
    if (d.port e.a).st = .up then d.modPort e.a (fun q => { q with st := .degraded, lanes := if e.b = 1 then 1 else 2 }) else d) s

/-- The context whose declared region holds an address; its root revision is what an outside access meets (16 R440). -/
def Dev.regionCtx (d : Dev) (x : Nat) : Nat :=
  ((d.ctxs.find? (fun p => (p.2.regionOf x).isSome)).map Prod.fst).getD 0

/-- A flit in order: its acknowledgement frees the replay buffer up to that number (R477). -/
def Port.acknowledge (q : Port) (n : Nat) : Port :=
  if q.replay.any (fun v => flitSeq v == n) then
    { q with acked := n, replay := (q.replay.dropWhile (fun v => flitSeq v != n)).drop 1 }
  else { q with acked := n }
/-- A retrain counted in the lifetime record (19 R505). -/
def Dev.lifeRetrain (d : Dev) (p : Nat) : Dev :=
  { d with life := { d.life with retrains := d.life.retrains.set p (d.life.retrains.get p 0 + 1) } }
/-- FLIT_RECEIVE (R477, R479, R482): flit `v` arrives on port `a`. It is refused with a bad CRC or out of sequence; eight
refusals of one flit make the port retrain. A flit for another package is forwarded. How a flit codes what it carries is not
stated: `b` says whether it answers a request (1), writes `bytes` at address `c` (2), or carries nothing of either (log 33). -/
def execFlitReceive (s : State) : Host.Outcome State Fault Refusal :=
  run (fun w =>
    let e := w.d.arg
    let q := w.d.port e.a
    let bad := Config.flitCrc (e.v.extractLsb' 0 960) != e.v.extractLsb' 960 64 || flitSeq e.v != q.recvSeq
    if !(q.usable || q.st == .isolated) then w
    else if bad then
      if q.refusals = 7 then
        let n := w.d.lifeRetrain e.a
        { w with d := (n.train e.a).modPort e.a (fun q => { q with replays := q.replays + 1, retrains := q.retrains + 1 }) }
      else { w with d := w.d.modPort e.a (fun q => { q with refusals := q.refusals + 1, replays := q.replays + 1 }) }
    else
      let took := fun (d : Dev) => d.modPort e.a (fun q =>
        { q.acknowledge (flitAck e.v) with recvSeq := (q.recvSeq + 1) % 256, refusals := 0 })
      if q.st = .isolated then (if e.b = 0 then { w with d := took w.d } else w)
      else if flitDst e.v ≠ w.g.domId then
        match w.d.forward e.v with
        | some d => { w with d := took d }
        | none => w
      else
        match e.b with
        | 1 =>
          let mine := fun (r : Remote) => r.tag % 2 ^ 24 == flitTag e.v && r.member == flitSrc e.v
          if w.d.remotes.any mine then { w with d := took { w.d with remotes := w.d.remotes.filter (fun r => !mine r) } }
          else { w with d := (took w.d).modPort e.a (fun q => { q with late := q.late + 1 }) }
        | 2 =>
          let key := (flitSrc e.v, flitTag e.v)
          if w.d.seenTags.contains key then { w with d := took w.d }
          else
            let w := { w with d := took { w.d with seenTags := key :: w.d.seenTags } }
            -- the port's own cache translates what arrives on it (08 R226, log 12)
            let cs := cellsAt e.c e.bytes
            let w := (linesOf cs).foldl (fun (w : W) l => if (w.d.l2Find l).isSome then w else w.touchIn (18 + e.a) (32 * l)) w
            w.pkgWrite (w.d.regionCtx e.c) 0 cs
        | _ => { w with d := took w.d }) s

/-! ### Timeouts (R479) -/

/-- A context that can be neither saved nor continued (10 R287-R288). -/
def W.ctxFaulted (w : W) (c : Nat) (cause : Cause) : W :=
  let d := w.d.modCtx c (fun k => { k with st := .faulted, frozenCause := BitVec.ofNat 8 (fcause cause), owes := none })
  W.notify { w with d := d.gangStop c } c (stateCode .faulted) (fcause cause)

/-- A remote request that has stood unanswered for LNK_TMO. -/
def W.overdue (w : W) (r : Remote) : Bool :=
  (match r.kind with | .snoop _ _ => false | _ => true) && decide (r.since + 1000 * w.g.lnkTmo ≤ w.d.now)
/-- LINK_TIMEOUT (R479): the oldest overdue request ends; one of a context in GATING makes it FAULTED (10 R288, R296). -/
def execLinkTimeout (s : State) : Host.Outcome State Fault Refusal :=
  run (fun w =>
    match w.d.remotes.find? w.overdue with
    | none => w
    | some r =>
      let w := { w with d := { w.d with remotes := w.d.remotes.erase r } }
      if (w.d.ctx r.ctx).st = .gating && !r.isSnoop then w.ctxFaulted r.ctx .linkLost
      else match r.kind with
      | .access iid idx =>
        let store : Bool := match w.d.inst iid with
          | some x => (match x.code.bind (fun b => b.instr idx) with | some i => memClass i != .load | none => false)
          | none => false
        { w with d := w.d.hold iid { cause := .linkLost, loc := BitVec.ofNat 8 idx, w2 := BitVec.ofNat 64 r.tag,
                                     w3 := if store = true then 1#64 else 0#64 } }
      | .copy k => { w with d := { w.d with copies := w.d.copies.map (fun c => if c.key = k then { c with status := some 4 } else c) } }
      | .ack _ => w
      | .snoop _ _ => w) s

/-! ### Link query (R488) and time alignment (R484) -/

/-- The grandmaster: the member named in PTP_GM, else the lowest domain number among this package and the peers of its UP
ports. -/
def W.grandmaster (w : W) : Nat :=
  if w.g.ptpGm.getLsbD 8 then bits w.g.ptpGm 7 0
  else (w.d.ports.filter (fun p => p.2.st == .up)).foldl (fun m p => min m p.2.peer) w.g.domId
/-- STATE of a port. -/
def pstateCode (s : PState) : Nat :=
  match s with | .down => 0 | .training => 1 | .up => 2 | .degraded => 3 | .isolated => 4 | .failed => 5
/-- An item of `lnkq`. -/
def W.linkItem (w : W) (sub a : Nat) : Word :=
  let q := w.d.port a
  let ofPort := fun (v : Nat) => if a < Config.ports then BitVec.ofNat 64 v else 0#64
  match sub with
  | 0 => ofPort (pstateCode q.st + q.lanes % 8 * 2 ^ 3 + q.peer % 256 * 2 ^ 8)
  | 1 => ofPort (q.replays % 2 ^ 32 + q.retrains % 2 ^ 32 * 2 ^ 32)
  | 2 => BitVec.ofNat 64 (w.g.domId % 256 + w.g.domMembers % 512 * 2 ^ 8 + w.grandmaster % 256 * 2 ^ 24)
  | 3 => BitVec.ofNat 64 (((w.d.usablePorts a).eraseDups.map (fun p => 2 ^ p)).sum)
  | 4 => ofPort q.late
  | _ => BitVec.ofInt 64 w.d.ptpOff
/-- LNKQ (R488). -/
def execLnkq (f : FmtQ) (s : State) : Host.Outcome State Fault Refusal :=
  runR (fireQ (.lnkq f) fun w c _ =>
    w.d.answer c [] (both f.t0 f.t1 (splat64 (w.linkItem f.sub.toNat c.ops.a0.toNat)))) s

/-- PTP_SYNC (R484): the measured offset to the grandmaster is `z` ns. Before bring-up step 8 is done the counter is set;
afterwards it is slewed against the offset, by a rate that is open up to 100 ppm. -/
def execPtpSync (s : State) : Host.Outcome State Fault Refusal :=
  runR (fun w =>
    let z := w.d.arg.z
    if w.grandmaster = w.g.domId then { w.d with ptpOff := 0, slew := 0 }
    else if w.g.stat.getLsbD 7 = false then { w.d with ptpOff := z, slew := 0, now := ((w.d.now : Int) - z).toNat }
    else
      let f := w.d.fresh
      let rate : Int := (f.1 % 101 : Nat)
      { f.2 with ptpOff := z, slew := if 0 < z then -rate else if z < 0 then rate else 0 }) s

/-! ### The host (R475-R476, R278) -/

/-- CXL_SNOOP (R475): a snoop of the 64-byte host line at host physical address `a`. A line of the window that the filter holds
under it is written back and invalidated. Releases that are not performed yet come before the owned bytes that they do not cover
(09 R268). -/
def execCxlSnoop (s : State) : Host.Outcome State Fault Refusal :=
  run (fun w =>
    let p := w.d.arg.a / 64
    let hit := fun (l : L2Line) =>
      w.isHost (32 * l.line) && (match w.writeKey 0 0 (32 * l.line) with | some k => k == hostKey (64 * p) || k == hostKey (64 * p + 32) | none => false)
    let qs := ((w.d.l2.filter hit).map (fun l => l.line / 8)).eraseDups
    let gs := (w.d.grids.filter (fun g => g.2.l1.any (fun l => qs.contains (l.line / 8) && l.owned != 0#32))).map Prod.fst
    let w := gs.foldl (fun (w : W) g => w.performRels g) w
    if w.d.rels.any (fun r => r.grids.any gs.contains) then w
    else qs.foldl (fun w q => w.dropHost q) w) s

/-- HOST_CXL_MEM_READ (R278, 23 R517): the host reads `b` bytes at address `a` of local HBM, as the root revision has them
(16 R440); it may hold those lines afterwards. Before the L2 is initialised the answer is all ones. A read waits while its home
serves no access to a line (18 R476, 15 R425). A byte that no page gives is open. -/
def execHostCxlMemRead (s : State) : Host.Outcome State Fault Refusal :=
  run (fun w =>
    let e := w.d.arg
    if w.g.stat.getLsbD 5 = false then
      { w with d := { w.d with earlyCxl := w.d.earlyCxl + 1, cxlReads := List.replicate e.b 0xFF#8 } }
    else
      match w.readHome (w.d.regionCtx e.a) 0 e.a e.b with
      | (.ok bs, w) =>
        { w with d := { w.d with cxlReads := bs, hostHeld := (w.d.hostHeld ++ (span e.a e.b).map lineOf).eraseDups } }
      | (.waits, w) => w
      | (_, w) =>
        let f := w.d.fresh
        { w with d := { f.2 with cxlReads := (List.range e.b).map (fun i => Config.freeByte (w.d.freeCtr + i)) } }) s

/-- A page in REVISED. -/
def W.revisedPage (w : W) (x : Nat) : Bool := match w.leafAt x with | some l => l.state == stRevised | none => false
/-- HOST_CXL_MEM_WRITE (R476): the host writes `bytes` at address `a` of local HBM. A write to a code page (11 R324) or a
REVISED page (16 R440) is dropped and counted; every logging context takes a monument of kind 4 (19 R499). -/
def execHostCxlMemWrite (s : State) : Host.Outcome State Fault Refusal :=
  run (fun w =>
    let e := w.d.arg
    let n := e.bytes.length
    if w.g.stat.getLsbD 5 = false then { w with d := { w.d with earlyCxl := w.d.earlyCxl + 1 } }
    else
      match w.d.wprot.find? (fun r => decide (e.a < r.2.2.1 + r.2.2.2) && decide (r.2.2.1 < e.a + n)) with
      | some r => { w with d := w.d.countStale r.1 }
      | none =>
        if w.revisedPage e.a then { w with d := w.d.countStale (w.d.regionCtx e.a) }
        else
          let cs := cellsAt e.a e.bytes
          let w := w.d.ctxs.foldl (fun (w : W) k =>
            if k.2.logging then w.logWrite k.1 ((linesOf cs).map (fun l =>
              (homeSlice (32 * l), .monument 4 k.2.log.station (32 * l) 0 w.d.now))) else w) w
          w.homeWrite 0 0 cs) s

/-- BACK_INVALIDATE_COMPLETE (R476): the oldest snoop completes; the writes that waited for its line are performed. -/
def execBackInvalidateComplete (s : State) : Host.Outcome State Fault Refusal :=
  run (fun w =>
    match w.d.remotes.findSome? (fun r => match r.kind with | .snoop l _ => some l | _ => none) with
    | none => w
    | some line =>
      let at_ := fun (r : Remote) => match r.kind with | .snoop l _ => l == line | _ => false
      let w := (w.d.remotes.filter at_).foldl (fun w r => match r.kind with | .snoop _ cs => w.wrs cs | _ => w) w
      { w with d := { w.d with remotes := w.d.remotes.filter (fun r => !at_ r), hostHeld := w.d.hostHeld.filter (fun l => l != line) } }) s

/-! ### Collectives (R485-R487) -/

/-- The element type of TYPE. -/
def collTy (typ : Nat) : BitVec 4 := match typ with | 0 => 10#4 | 1 => 9#4 | 2 => 4#4 | _ => 6#4
/-- Reduce of two elements (R486). -/
def collNode (typ rop : Nat) : Combine := fun a b =>
  let ty := collTy typ
  let v : Nat :=
    if intTy ty then
      match rop with
      | 0 => (a + b) % 2 ^ tyBits ty
      | 1 => if num ty a ≤ num ty b then a else b
      | _ => if num ty a ≤ num ty b then b else a
    else
      let x := decodeF ty a
      let y := decodeF ty b
      (rounded ty .near false (match rop with | 0 => fAdd .near x y | 1 => fMin x y | _ => fMax x y)).code
  (v, 0#6)
/-- The tree over ranks: a node without a right child passes its left child (R486). -/
def collReduce (typ rop fuel : Nat) (l : List Nat) : Nat :=
  match fuel with
  | 0 => l.headD 0
  | n + 1 => match l with
    | [] => 0
    | [x] => x
    | _ => collReduce typ rop n (treeLevel (collNode typ rop) l).1

/-- Domain numbers of a member set, in order: rank r is the r-th. -/
def memberList (m : BitVec 256) : List Nat := (List.range 256).filter (fun k => m.getLsbD k)
/-- COUNT, ROOT. -/
def collCount (v : Vec) : Nat := (vlane v 2).toNat
def collRoot (v : Vec) : Nat := bits (vlane v 4) 39 32
/-- Elements of the source and of the destination of a member (R486). -/
def Coll.srcCount (c : Coll) (me : Nat) : Nat :=
  match c.kind with
  | 1 => (memberList c.members).length * collCount c.desc
  | 3 => if me = collRoot c.desc then collCount c.desc else 0
  | _ => collCount c.desc
def Coll.dstCount (c : Coll) : Nat :=
  if c.kind = 2 then (memberList c.members).length * collCount c.desc else collCount c.desc
/-- Elements of the destination, from the sources by rank (R486). -/
def Coll.result (c : Coll) (me : Nat) (src : List (List Nat)) : List Nat :=
  let n := collCount c.desc
  let ms := memberList c.members
  let red := fun (i : Nat) => collReduce c.typ c.rop 9 (src.map (fun s => s.getD i 0))
  match c.kind with
  | 0 => (List.range n).map red
  | 1 => (List.range n).map (fun i => red (ms.idxOf me * n + i))
  | 2 => src.flatMap (fun s => s.take n)
  | _ => ((src.getD (ms.idxOf (collRoot c.desc)) [])).take n

/-- A descriptor that is not valid (R485, R487), by its own fields. -/
def W.badColl (w : W) (v : Vec) (c : Nat) : Bool :=
  let s := (vlane v 0).toNat
  let t := (vlane v 1).toNat
  s % 64 != 0 || t % 64 != 0 || decide (2 ^ 57 ≤ s) || decide (2 ^ 57 ≤ t) || !w.isLocal s || !w.isLocal t ||
    collCount v == 0 || decide (2 ^ 28 < collCount v) || decide (2 ^ 57 ≤ (vlane v 3).toNat) || bits (vlane v 4) 63 40 != 0 ||
    vlane v 6 != 0#64 || w.d.badCompl c v
/-- Entries of the collective engine that are free. -/
def Dev.collFree (d : Dev) : Bool :=
  decide (d.colls.length + (d.allEffs.filter (fun e => match e.2 with | .acoll _ _ _ _ _ => true | _ => false)).length <
    Config.collEntries)

/-- ACOLL (R487). -/
def execAcoll (f : FmtQ) (s : State) : Host.Outcome State Fault Refusal :=
  run (waitFire (.acoll f) f.limit (fun _ _ => (0xF5, 0#64))
    (fun w c t =>
      let v := c.ops.va
      let st := fun (w : W) (n : Nat) (es : List Eff) =>
        Test.sat { w with d := w.d.answer c (es ++ w.d.eventEffs t c 8 0xF5#64 (splat64 (BitVec.ofNat 64 n))) (statusTo f n) }
      let at_ := (vlane v 3).toNat
      if w.badColl v t.ctx then st w 2 []
      else
        match w.check t rR at_ 32 1 with
        | (.fault q, w) => .stop { w with d := w.d.holdAt c q at_ 0 0 }
        | (.ok, w) =>
          match w.readHome t.ctx (w.d.rnumOf t) at_ 32 with
          | (.ok bs, w) =>
            let m := BitVec.ofNat 256 (ofBytes bs)
            if !m.getLsbD w.g.domId || (f.sub == 3#4 && !m.getLsbD (collRoot v)) then st w 2 []
            else if !w.d.collFree || w.d.waitBefore c t (0xF5, 0#64) then .wait
            else st w 0 [.acoll v m f.sub.toNat (bits f.imm 1 0) (bits f.imm 3 2)]
          | (.absent, w) => .stop { w with d := w.pageFault c.iid (w.failAt t (span at_ 32)) 0 }
          | (.waits, _) => .notYet
          | (.ecc, w) => .stop { w with d := w.d.holdAt c .dataEcc at_ 0 0 }
          | (.lost, w) => .stop { w with d := w.d.holdAt c .linkLost at_ 0 0 }
          | (.noRegion, w) => .stop { w with d := w.d.holdAt c .protection at_ 0 0 })
    (fun w c t =>
      { w with d := w.d.answer c (w.d.eventEffs t c 8 0xF5#64 (splat64 1#64)) (statusTo f 1) })) s
/-- The commit of `acoll`: a release at DOMAIN scope, then the issue. -/
def W.acollCommit (w : W) (tid : Nat) (t : Thread) (seq : Nat) (v : Vec) (m : BitVec 256) (kind rop typ : Nat) : W :=
  let w := w.releaseNow tid t.ctx 3 t.grids
  let r := w.d.newId
  let c : Coll := { ctx := t.ctx, gid := t.gid, who := t.who, grid := t.first, desc := v, members := m, kind := kind,
                    rop := rop, typ := typ, since := w.d.now, rnum := w.d.rnumOf t, seq := seq, key := r.1, status := none,
                    waitPage := none }
  { w with d := { r.2 with colls := r.2.colls ++ [c] } }

/-- A member that takes no part: absent from the domain, isolated or unreachable. -/
def W.memberLost (w : W) (dom : Nat) : Bool :=
  dom != w.g.domId && (decide (w.g.domMembers ≤ dom) || (w.d.usablePorts dom).isEmpty)
/-- The page of a range that the engine has to wait for, or the status its own accesses end with (R485, 08 R250). -/
def W.collAccess (w : W) (c : Coll) (base len : Nat) (wr : Bool) : Except Nat (Option Nat) × W :=
  let r := w.rightsAll c.grid c.ctx (if wr then 2 else 1) base len
  if !r.1 || (wr && r.2.d.wprotected base len) then (.error 1, r.2)
  else (.ok ((rangePages [(base, len)]).find? (fun p => match r.2.translate c.ctx c.rnum p with | .ok _ _ => false | _ => true)), r.2)
/-- A collective ended: its entry is free, and its completion is a release at DOMAIN scope. -/
def W.collEnd (w : W) (c : Coll) (status len : Nat) : W :=
  let w := { w with d := { w.d with colls := w.d.colls.filter (fun q => q.key != c.key) } }
  w.action c.ctx c.gid (complOf c.desc) 3 status (vlane c.desc 7).toNat (some ((vlane c.desc 1).toNat, len, 3))
/-- A page that the engine waits for is asked for. -/
def W.collWait (w : W) (c : Coll) (page : Nat) (wr : Bool) : W :=
  match w.translate c.ctx c.rnum page with
  | .absent =>
    let r := w.raisePage c.ctx page (if wr then 5 else 4) (originOf page) (some (.coll c.key))
    { w with d := { r.2 with colls := r.2.colls.map (fun q => if q.key = c.key then { q with waitPage := r.1 } else q) } }
  | .noRegion => w.collEnd c 1 0
  | _ => w
/-- What can be done for a collective now, with what the other members have brought (R486-R487); none while it waits. -/
def W.collStep (w : W) (peers : List PeerColl) (c : Coll) : Option W :=
  let me := w.g.domId
  let ms := memberList c.members
  let es := tyBits (collTy c.typ) / 8
  let key := (vlane c.desc 4).setWidth 32
  let said := fun (dom : Nat) => peers.find? (fun p => p.dom == dom && p.answered && p.key == key)
  let differs := fun (p : PeerColl) => p.kind != c.kind || p.rop != c.rop || p.typ != c.typ || p.count != collCount c.desc
  let others := ms.filter (fun m => m != me)
  let st := (w.d.ctx c.ctx).st
  if st = .gating ∨ st = .quiescent ∨ st = .saved ∨ st = .killed then none
  else if let some k := c.status then some (w.collEnd c k 0)
  else if c.waitPage.isSome then none
  else if others.any w.memberLost then some (w.collEnd c 7 0)
  else if others.any (fun m => match said m with | some p => differs p | none => false) then some (w.collEnd c 6 0)
  else if others.any (fun m => (said m).isNone) then
    if c.since + 1000 * w.g.lnkTmo ≤ w.d.now then some (w.collEnd c 4 0) else none
  else
    let src := (vlane c.desc 0).toNat
    let dst := (vlane c.desc 1).toNat
    let slen := es * c.srcCount me
    let dlen := es * c.dstCount
    match w.collAccess c src slen false with
    | (.error k, w) => some (w.collEnd c k 0)
    | (.ok (some p), w) => some (w.collWait c p false)
    | (.ok none, w) =>
      match w.collAccess c dst dlen true with
      | (.error k, w) => some (w.collEnd c k 0)
      | (.ok (some p), w) => some (w.collWait c p true)
      | (.ok none, w) =>
        match w.readHome c.ctx c.rnum src slen with
        | (.ok bs, w) =>
          let mine := (List.range (c.srcCount me)).map (fun i => ofBytes ((bs.drop (es * i)).take es))
          let from_ := fun (m : Nat) => if m = me then mine else
            match said m with | some p => p.elems.map (fun x => x.toNat % 2 ^ (8 * es)) | none => []
          let out := (c.result me (ms.map from_)).flatMap (fun x => leBytes es x)
          some ((w.loggedWrite c.ctx c.rnum c.seq c.who (cellsAt dst out)).collEnd c 0 dlen)
        | (.ecc, w) => some (w.collEnd c 3 0)
        | (_, _) => none

/-- COLLECTIVE_COMPLETION (R486-R487): `peers` is what the other members have brought; the first collective that can go on
does. -/
def execCollectiveCompletion (s : State) : Host.Outcome State Fault Refusal :=
  run (fun w => (w.d.colls.findSome? (w.collStep w.d.arg.peers)).getD w) s

end Sys2Proof.Machine
end

