-- ==== Sys2Proof/Machine/Barrier.lean ====
section
/-!
DEFINITION. Barriers (14 R395-R408): allocation, arrivals, waits, host commands. Arrivals reserved and numbers reserved are
read off the effects of uncommitted instances.
-/

namespace Sys2Proof.Machine

/-- The handle of a barrier (R396). -/
def barHandle (n bgen : Nat) : Nat := n % 1024 + bgen % 2 ^ 22 * 1024
/-- A configuration word out of range (R402). -/
def badBarCfg (w : Word) : Bool := bits w 15 0 == 0 || bits w 18 16 == 0 || decide (4 < bits w 18 16) || bits w 63 19 != 0
/-- The lowest free barrier number (R402). -/
def Dev.freeBar (d : Dev) (c : Nat) : Option Nat :=
  let held := (d.ctxEffs c).filterMap (fun e => match e with | .binitAlloc n _ => some n | _ => none)
  (List.range 1024).find? (fun n => !((d.ctx c).bar n).armed && !held.contains n)
/-- An allocation (R398). -/
def Dev.barAlloc (d : Dev) (c n : Nat) (cfg : Word) : Dev :=
  let b : Barrier := { armed := true, phase := 0, expected := bits cfg 15 0, arrivals := 0, drops := 0, scope := bits cfg 18 16,
                       bgen := (((d.ctx c).bar n).bgen + 1) % 2 ^ 22 }
  d.modCtx c (fun k => { k with bars := k.bars.set n b })
/-- A barrier freed (R398). -/
def Dev.barFree (d : Dev) (c n : Nat) : Dev :=
  d.modCtx c (fun k => { k with bars := k.bars.set n { k.bar n with armed := false } })
/-- Phase, arrivals and expected count in the layout of BQUERY and of lane 4 (R400, R405). -/
def Barrier.word (b : Barrier) : Nat := b.phase + b.arrivals * 2 ^ 32 + b.expected * 2 ^ 48

/-- BINIT_ALLOC (R402): the statuses 3, then 4. -/
def execBinitAlloc (f : FmtQ) (s : State) : Host.Outcome State Fault Refusal :=
  runR (fireQ (.binitAlloc f) fun w c t =>
    let st := fun (n : Nat) => w.d.answer c [] { toks := [(f.t0, .null), (f.t1, .val (splat64 (BitVec.ofNat 64 n)))] }
    if badBarCfg c.ops.a0 then st 3
    else
      match w.d.freeBar t.ctx with
      | none => st 4
      | some n =>
        let h := barHandle n (((w.d.ctx t.ctx).bar n).bgen + 1)
        w.d.answer c [.binitAlloc n c.ops.a0]
          { toks := [(f.t0, .val (splat64 (BitVec.ofNat 64 h))), (f.t1, .val (splat64 0#64))] }) s

/-- BINIT_FREE (R402). -/
def execBinitFree (f : FmtQ) (s : State) : Host.Outcome State Fault Refusal :=
  runR (fireQ (.binitFree f) fun w c t =>
    match (w.d.ctx t.ctx).barOf c.ops.a0.toNat with
    | none => w.d.answer c [] (statusTo f 2)
    | some n => w.d.answer c [.binitFree n ((w.d.ctx t.ctx).bar n).bgen] (statusTo f 0)) s

/-- A timeout of a barrier wait (R405). -/
def barExpire (f : FmtQ) (out : Out) (w : W) (c : Firing) (t : Thread) : W :=
  if trapBit f then
    let w4 := match (w.d.ctx t.ctx).barOf c.ops.a0.toNat with | some n => ((w.d.ctx t.ctx).bar n).word | none => 0
    w.timeout c .barrierTimeout c.ops.a0 w4
  else { w with d := w.d.answer c [] out }

/-- `arrive` and `arrive.drop` (R403). -/
def arriveFire (i : Instr) (f : FmtQ) (drop : Bool) (w : W) : W :=
  let st := fun (n : Nat) => (⟨[(f.t0, .null), (f.t1, .val (splat64 (BitVec.ofNat 64 n)))], 0#6⟩ : Out)
  waitFire i f.limit (fun c _ => (0xD6, c.ops.a0))
    (fun w c t =>
      if !w.d.isOldest c.x then .notYet
      else
        match (w.d.ctx t.ctx).barOf c.ops.a0.toNat with
        | none => .sat { w with d := w.d.answer c [] (st 2) }
        | some n =>
          let b := (w.d.ctx t.ctx).bar n
          if drop && b.expected - b.drops - w.d.barResv t.ctx n b.bgen true == 1 then .sat { w with d := w.d.answer c [] (st 3) }
          else if w.d.barFull t.ctx n then .wait
          else
            let out : Out := { toks := [(f.t0, .val (splat64 (BitVec.ofNat 64 ((b.phase + 1) % 2 ^ 30)))), (f.t1, .val (splat64 0#64))] }
            .sat { w with d := w.d.answer c [.arrive n b.bgen drop] out })
    (barExpire f (st 1)) w

/-- ARRIVE (R403). -/
def execArrive (f : FmtQ) (s : State) : Host.Outcome State Fault Refusal :=
  runR (fun w => (arriveFire (.arrive f) f false w).d) s
/-- ARRIVE_DROP (R403). -/
def execArriveDrop (f : FmtQ) (s : State) : Host.Outcome State Fault Refusal :=
  runR (fun w => (arriveFire (.arriveDrop f) f true w).d) s

/-- BWAIT (R404). -/
def execBwait (f : FmtQ) (s : State) : Host.Outcome State Fault Refusal :=
  runR (fun w => (waitFire (.bwait f) f.limit (fun c _ => (0xD7, c.ops.a0))
    (fun w c t =>
      if !w.d.isOldest c.x then .notYet
      else
        match (w.d.ctx t.ctx).barOf c.ops.a0.toNat with
        | none => .sat { w with d := w.d.answer c [] (statusTo f 2) }
        | some n =>
          let b := (w.d.ctx t.ctx).bar n
          if reached b.phase (bits c.ops.b0 29 0) then
            let w := w.acquireFire c t b.scope
            .sat { w with d := w.d.answer c [] (statusTo f 0) }
          else .wait)
    (barExpire f (statusTo f 1)) w).d) s

/-! ### Host commands (R400) -/

/-- BALLOC (R400). -/
def execBalloc (cmd : CmdRec) (s : State) : Host.Outcome State Fault Refusal :=
  run (command objectStates (fun w c cmd =>
    if badBarCfg cmd.a2 then w.finish c cmd sBadArgument 0
    else
      match w.d.freeBar c with
      | none => w.finish c cmd sNoResource 0
      | some n =>
        let d := w.d.barAlloc c n cmd.a2
        W.finish { w with d := d } c cmd sDone (barHandle n ((d.ctx c).bar n).bgen)) cmd) s
/-- BFREE (R400). -/
def execBfree (cmd : CmdRec) (s : State) : Host.Outcome State Fault Refusal :=
  run (command objectStates (fun w c cmd =>
    match (w.d.ctx c).barOf cmd.a2.toNat with
    | none => w.finish c cmd sStale 0
    | some n => W.finish { w with d := w.d.barFree c n } c cmd sDone cmd.a2.toNat) cmd) s
/-- BQUERY (R400). -/
def execBquery (cmd : CmdRec) (s : State) : Host.Outcome State Fault Refusal :=
  run (command objectStates (fun w c cmd =>
    match (w.d.ctx c).barOf cmd.a2.toNat with
    | none => w.finish c cmd sStale 0
    | some n => w.finish c cmd sDone ((w.d.ctx c).bar n).word) cmd) s

/-- The commit of `arrive` (R398, R403). A barrier freed since is not changed. -/
def Dev.arriveCommit (d : Dev) (c n bgen : Nat) (drop : Bool) : Dev :=
  if ((d.ctx c).bar n).armed = true ∧ ((d.ctx c).bar n).bgen = bgen then d.barArrive c n drop else d
/-- The commit of `binit.free`. -/
def Dev.barFreeCommit (d : Dev) (c n bgen : Nat) : Dev :=
  if ((d.ctx c).bar n).armed = true ∧ ((d.ctx c).bar n).bgen = bgen then d.barFree c n else d

end Sys2Proof.Machine
end

