-- ==== Sys2Proof/Machine/Check.lean ====
section
/-!
DEFINITION. The placement checks 1 to 21 and 23 of 04 R109, in the order of its table, the register checks (02 R36, R48), and
reading a block from its bytes (04 R80-R88). Check 22 is the placer's.
-/

namespace Sys2Proof.Machine

/-- A check that fails: the cause, the location byte, the number of the check, lane 3 of the record (04 R110, 10 R306). -/
structure Bad where
  cause : Cause
  loc : Nat
  check : Nat
  w3 : Nat := 0
deriving DecidableEq, Repr

/-! ### Reading a block (R80) -/

/-- Consecutive pieces of n bytes as numbers. -/
def pieces (n count : Nat) (bs : List Byte) : List Nat := (List.range count).map (fun k => ofBytes ((bs.drop (n * k)).take n))
/-- The block that a header of 256 bytes and a body give. -/
def parseBlock (hdr body : List Byte) : Block :=
  let n64 := fun (o : Nat) => BitVec.ofNat 64 (ofBytes ((hdr.drop o).take 8))
  let chunks := bits (n64 0) 10 8 + 1
  { hdw0 := n64 0, hdw1 := n64 8, reads := (pieces 4 36 (hdr.drop 16)).map (BitVec.ofNat 32),
    writes := (pieces 2 24 (hdr.drop 160)).map (BitVec.ofNat 16), exits := (pieces 4 8 (hdr.drop 208)).map (BitVec.ofNat 32),
    w240 := n64 240, w248 := n64 248, words := (pieces 8 (16 * chunks) body).map (BitVec.ofNat 64), memChunks := chunks }
/-- Bytes of a body whose header has a word hdw0. -/
def bodyLen (hdr : List Byte) : Nat := 128 * (bits (BitVec.ofNat 64 (ofBytes (hdr.take 8))) 10 8 + 1)

/-- One bit of the CRC of R84. -/
def crcBit (c : BitVec 16) : BitVec 16 := if c.getLsbD 15 then (c <<< 1) ^^^ 0x1021#16 else c <<< 1
/-- BodyCrc (R84). -/
def bodyCrc (bs : List Byte) : BitVec 16 :=
  bs.foldl (fun c b => (List.range 8).foldl (fun c _ => crcBit c) (c ^^^ BitVec.ofNat 16 (b.toNat * 256))) 0xFFFF#16
/-- The body of a block in address order. -/
def Block.body (b : Block) : List Byte := b.words.flatMap (fun w => leBytes 8 w.toNat)

/-! ### Header checks -/

/-- Slots of the body. -/
def Block.bodySlots (b : Block) : Nat := 16 * b.chunks
/-- PROFILE. -/
def Block.profile (b : Block) : BitVec 16 := b.hdw1.setWidth 16
/-- A non-empty slot within the body. -/
def Block.slotAt (b : Block) (idx : Nat) : Bool := decide (idx < b.bodySlots) && b.word idx != 0#64
/-- A target names what the block has (R89). -/
def Block.targetOk (b : Block) (t : Target) : Bool :=
  match tgtKind t with
  | 0 => t == 0#12
  | 2 => bits t 9 5 == 0 && decide (bits t 4 0 < b.nwrite)
  | _ => b.slotAt (tgtIdx t) && decide (tgtOp t ≤ 4)
/-- A read entry keeps R85 and R89, with registers below a limit. -/
def Block.readOk (b : Block) (limit : Nat) (e : BitVec 32) : Bool :=
  e.getLsbD 31 && decide (readReg e < limit) &&
    (readTgts e).all (fun t => b.targetOk t && tgtKind t != 3 && !(tgtKind t == 1 && tgtOp t == 4))
/-- Check 3 (R85-R86). -/
def Block.entriesOk (b : Block) (limit : Nat) : Bool :=
  let ws := b.writes.take b.nwrite
  (b.reads.take b.nread).all (b.readOk limit) && (b.reads.drop b.nread).all (fun e => e == 0#32) &&
    ws.all (fun e => e.getLsbD 15 && bits e 14 7 == 0 && decide (writeReg e < limit)) &&
    (b.writes.drop b.nwrite).all (fun e => e == 0#16) && decide ((ws.map writeReg).eraseDups.length = ws.length)
/-- Check 4 (R87). -/
def Block.exitsOk (b : Block) : Bool :=
  (b.exits.take (b.exitMax + 1)).all (fun e => bits e 31 30 == 1 || bits e 29 0 == 0) &&
    (b.exits.drop (b.exitMax + 1)).all (fun e => e == 0#32)
/-- Check 5 (R83): in portable form the rename range ends below the table's NV. -/
def Block.hdw1Ok (b : Block) (limit : Nat) : Bool :=
  if b.kind != 2 then bits b.hdw1 47 16 == 0
  else
    let n := b.renCount
    decide (1 ≤ b.maxInst) && decide (b.maxInst ≤ 8) && decide (b.tagField ≤ 7) && decide (n ≤ 64) &&
      (if n = 0 then b.renBase == 0 && b.renStride == 0
       else decide (b.renStride < n) && (if b.placed then decide (b.renBase ≤ 63) else decide (b.renBase + n ≤ limit)))
/-- Check 1 (R82). -/
def Block.kindOk (b : Block) : Bool :=
  if b.placed then b.kind == 1 || b.kind == 2 else b.kind == 2 || b.kind == 3
/-- Check 6 (R88). -/
def Block.tailOk (b : Block) : Bool := b.w248 == 0#64 && (if b.placed then b.w240 == 0#64 else bits b.w240 2 0 == 0)

/-- A failure of a header check. -/
def badHdr (n : Nat) : Bad := { cause := .blockMalformed, loc := 0xFF, check := n }
/-- Checks 1 to 7 in order. `limit` is 64 in placed form, and the NV of the table in portable form. -/
def Block.headerCheck (b : Block) (limit : Nat) : Option Bad :=
  if !b.kindOk then some (badHdr 1)
  else if b.hdw0.getLsbD 15 || decide (36 < b.nread) || decide (24 < b.nwrite) then some (badHdr 2)
  else if !b.entriesOk limit then some (badHdr 3)
  else if !b.exitsOk then some (badHdr 4)
  else if !b.hdw1Ok limit then some (badHdr 5)
  else if !b.tailOk then some (badHdr 6)
  else if !b.profile.getLsbD 0 then some (badHdr 7)
  else if b.profile &&& ~~~Config.profiles != 0#16 then some { badHdr 7 with cause := .profileMissing }
  else none

/-! ### Instruction checks -/

/-- Instructions of which a block may hold one (R109): `setsr` of one register, `getsr prng`, `compose`, `fork`, `join`,
`rregion`. -/
def onceKey (i : Instr) : Option Nat :=
  match i with
  | .setsr f => some (0x300 + bits f.x 7 0)
  | .getsr f => if bits f.x 7 0 = 0x0B then some 0x2F else none
  | .compose _ => some 0x38
  | .fork _ => some 0xE0
  | .join _ => some 0xE1
  | .rregionDecl _ => some 0xE2
  | .rregionDrop _ => some 0xE2
  | _ => none

/-- LIMIT of a word of format Q. -/
def limitField (w : Word) : Option (BitVec 12) :=
  let o := bits w 63 56
  if o = 0x38 ∨ 0xC0 ≤ o then some (w.extractLsb' 35 12) else none
/-- E-node and stage of a slot (R103). -/
def nodeStage (idx : Nat) (w : Word) : Nat × Nat := (idx / 16, bits w 55 53)

/-- The targets of an instruction name what the block has, kind 11 only in a resident block and only operands that a kind-01
target names too (R89, R90). -/
def Block.targetsOk (b : Block) (i : Instr) : Bool :=
  Machine.targetsOk i && (targets i).all (fun t => b.targetOk t &&
    (tgtKind t != 3 || (b.isResident &&
      (b.readTargets ++ b.instrTargets).any (fun u => tgtKind u == 1 && tgtIdx u == tgtIdx t && tgtOp u == tgtOp t))))

/-- Check 17: what is expected is what the opcode takes. -/
def Block.operandsOk (b : Block) (idx : Nat) (i : Instr) : Bool :=
  let p := prOf i != 0#2
  [0, 1, 2, 3, 4].all (fun op =>
    let e := b.expects idx op
    if op = 3 then e == p
    else if (required i).contains op then e
    else !e || (optional i).contains op)

/-- The width an instruction's format prefix must have (06 R172). -/
def prefixWidth (i : Instr) : Option Nat :=
  match i with
  | .fadd f => some (tyBits f.ty) | .fsub f => some (tyBits f.ty) | .fmul f => some (tyBits f.ty)
  | .fma f => some (tyBits f.ty) | .fms f => some (tyBits f.ty) | .fnma f => some (tyBits f.ty)
  | .cvt f => some (tyBits f.ty) | .cvti f => some (tyBits f.ty)
  | .fdot2 _ => some 16
  | .fdot4 _ => some 8
  | _ => none

/-- The stream that `scfg` configures, or that `sread`, `swrite` and `sclose` use. -/
def scfgStream (i : Instr) : Option Nat := match i with | .scfg f => some (bits f.offs 4 0) | _ => none
def usesStream (i : Instr) : Option Nat :=
  match i with
  | .sread f => some (bits f.offs 4 0)
  | .swrite f => some (bits f.offs 4 0)
  | .sclose f => some (bits f.offs 4 0)
  | _ => none

/-- Halves of tagged pairs on a tile: instruction index, tile, element type, cell format (07 R210). -/
def Block.pairHalves (b : Block) (isA : Bool) (tile : Nat) : List (Nat × BitVec 4 × BitVec 2) :=
  b.slots.filterMap (fun s => match s.2 with
    | .mputa f => if isA && f.tile.toNat == tile then some (s.1, f.af, f.cf) else none
    | .mputb f => if !isA && f.tile.toNat == tile then some (s.1, f.bf, f.cf) else none
    | _ => none)
/-- A half of a tagged pair has exactly one partner, of a type that goes with it; a mismatch fails at the higher index. -/
def Block.pairOk (b : Block) (tile idx : Nat) : Bool :=
  match b.pairHalves true tile, b.pairHalves false tile with
  | [(i, af, ca)], [(j, bf, cb)] => (typeCombo af bf ca && ca == cb) || idx != max i j
  | _, _ => false

/-- Check 12 where it depends on the block or the kernel: `tagrd` of a field the kernel has (05 R137), `loop` in resident blocks
alone (05 R148), `compose`, `spawn` and `sync` in others (05 R154, 13 R387), the mask of `evwait`, the width of a prefix and
the types of a `cvt` that takes one (06 R172), a stream used beside its `scfg` (08 R237), tagged pairs (07 R209-R210). -/
def Block.contextOk (b : Block) (fields idx : Nat) (i : Instr) : Bool :=
  let noStream := match usesStream i with
    | some k => b.slots.all (fun s => scfgStream s.2 != some k)
    | none => true
  noStream &&
    (match i with
    | .tagrd f => f.x.getLsbD 3 || decide (bits f.x 2 0 < fields)
    | .loop _ => b.isResident
    | .compose _ => !b.isResident
    | .spawn _ => !b.isResident
    | .syncWait _ => !b.isResident
    | .syncNext _ => !b.isResident
    | .evwait f => b.expects idx 0 == (bits f.imm 5 5 == 1)
    | .cvt f => !b.expects idx 4 || (decide (8 ≤ f.ty.toNat) && decide (f.ty.toNat ≤ 14))
    | .fmt f => tgtKind f.t0 != 1 || tgtOp f.t0 != 4 ||
      (match (b.instr (tgtIdx f.t0)).bind prefixWidth with
        | some w => tyBits f.fmt == w
        | none => true)
    | .mma f => (b.pairHalves true f.tile.toNat).isEmpty && (b.pairHalves false f.tile.toNat).isEmpty
    | .mputa f => b.pairOk f.tile.toNat idx
    | .mputb f => b.pairOk f.tile.toNat idx
    | _ => true)

/-- Checks 8 to 19 of one slot that is not empty. -/
def Block.instrCheck (b : Block) (unbounded : Bool) (fields idx : Nat) : Option Bad :=
  let w := b.word idx
  let bad := fun (n : Nat) => some ({ cause := .blockMalformed, loc := idx, check := n } : Bad)
  match decodeWord w with
  | .err .illegalOpcode => bad 8
  | .err .reservedOpcode => bad 9
  | .err _ => if 5 < bits w 55 53 then bad 10 else if bits w 52 51 = 3 then bad 11 else bad 12
  | .ok i =>
    let before := b.slots.filter (fun s => decide (s.1 < idx))
    if 5 < bits w 55 53 then bad 10
    else if bits w 52 51 = 3 then bad 11
    else if !fieldsOk i || !b.contextOk fields idx i ||
        ((onceKey i).isSome && before.any (fun s => onceKey s.2 == onceKey i)) then bad 12
    else if !b.targetsOk i then bad 13
    else if profileOf i &&& ~~~b.profile != 0#16 then bad 14
    else if !stageOk i then bad 15
    else if 4 ≤ (before.filter (fun s => nodeStage s.1 (b.word s.1) == nodeStage idx w)).length then bad 16
    else if !b.operandsOk idx i then bad 17
    else if isExit i && (match exitField i with | some e => decide (b.exitMax < e) | none => false) then bad 18
    else if limitField w == some 0xFFF#12 && !unbounded then bad 19
    else none

/-- LSIDs of the instructions of a class. -/
def Block.lsidsOf (b : Block) (c : MemClass) : List Nat :=
  b.slots.filterMap (fun s => if memClass s.2 = c then lsidOf s.2 else none)

/-- Checks 20 and 21. -/
def Block.wholeCheck (b : Block) : Option Bad :=
  let st := b.lsidsOf .store
  let bad := fun (n : Nat) => some ({ cause := .blockMalformed, loc := 0xFE, check := n } : Bad)
  if !(List.range 32).all (fun l => b.storeMask.testBit l == st.contains l) || (b.lsidsOf .load).any (fun l => st.contains l) then bad 20
  else if !b.slots.any (fun s => isExit s.2) then bad 21
  else none

/-- Checks 1 to 21 of a placed block. -/
def Block.check (b : Block) (unbounded : Bool) (fields : Nat) : Option Bad :=
  match b.headerCheck 64 with
  | some e => some e
  | none =>
    match ((List.range b.bodySlots).filter (fun k => b.word k != 0#64)).findSome? (b.instrCheck unbounded fields) with
    | some e => some e
    | none => b.wholeCheck

/-- The register checks for a thread of c registers (02 R36, R48). -/
def Block.registerCheck (b : Block) (c : Nat) : Option Bad :=
  let rs := (b.reads.take b.nread).map readReg ++ (b.writes.take b.nwrite).map writeReg ++
    (if b.renCount = 0 then [] else [b.renBase + b.renCount - 1])
  (rs.find? (fun r => decide (c ≤ r))).map (fun r => { cause := .registerRange, loc := 0xFF, check := 0, w3 := r })

/-- Check 23 (02 R46): entering a resident block at a nesting depth, with a kernel's tag fields. -/
def Block.depthCheck (b : Block) (depth fields : Nat) : Option Bad :=
  if b.isResident && (b.tagField != depth || decide (fields ≤ depth)) then some (badHdr 23) else none

/-- A failure as the fault it makes pending (10 R306). -/
def Bad.pend (e : Bad) (blk : Nat) : Pend :=
  { cause := e.cause, loc := BitVec.ofNat 8 e.loc, check := BitVec.ofNat 5 e.check,
    w2 := if e.cause = .profileMissing then BitVec.ofNat 64 (blk / 2 ^ 14 * 2 ^ 14) else 0#64, w3 := BitVec.ofNat 64 e.w3 }

end Sys2Proof.Machine
end

