-- ==== Sys2Proof/Machine/Placer.lean ====
section
/-!
DEFINITION. The hardware placer (04 R105, R112, 11 R329-R330): registers by RANK, spills, LSIDs, the expansion of `fdot2`, the
rename range, and the slots: the stage classes of R104 first, each in its first free place, then the other instructions in
program order, so that the instructions whose order R105 keeps stand in increasing index (log 28).
-/

namespace Sys2Proof.Machine

/-! ### The virtual-register table (11 R319) -/

/-- RANK of each virtual register, from the words of a table. -/
structure VTable where
  nv : Nat
  ranks : List Nat
deriving DecidableEq, Repr

/-- The virtual registers in the order of R330: by RANK, ties by number. -/
def VTable.order (t : VTable) : List Nat :=
  (List.range t.nv).isort (fun a b =>
    decide (t.ranks.getD a 0 < t.ranks.getD b 0) || (t.ranks.getD a 0 == t.ranks.getD b 0 && decide (a ≤ b)))
/-- Position of a virtual register in that order. -/
def VTable.pos (t : VTable) (v : Nat) : Nat := t.order.idxOf v
/-- Where a virtual register lives for a thread of c registers: a thread register, or a spill slot (R330). -/
inductive Home where
  | reg (r : Nat)
  | slot (s : Nat)
deriving DecidableEq, Repr
def VTable.home (t : VTable) (c v : Nat) : Home :=
  if t.nv ≤ c ∨ t.pos v < c - 1 then .reg (t.pos v) else .slot (t.pos v - (c - 1))

/-! ### Nodes -/

/-- A target before slots are assigned: kind, node or write entry, operand. -/
structure VT where
  kind : Nat
  node : Nat
  op : Nat
deriving DecidableEq, Repr
/-- No target. -/
def VT.none : VT := ⟨0, 0, 0⟩
/-- An operand of a node. -/
def VT.opnd (node op : Nat) : VT := ⟨1, node, op⟩

/-- The VT of a target field; a write entry keeps its reserved bits in `op`, so that a malformed target stays one. -/
def vtOf (t : BitVec 12) : VT := if tgtKind t = 2 then ⟨2, bits t 4 0, bits t 9 5⟩ else ⟨tgtKind t, tgtIdx t, tgtOp t⟩

/-- An instruction to be placed: its word without stage and targets, and its targets. -/
structure Node where
  id : Nat
  word : Word
  tgts : List VT
deriving DecidableEq, Repr

/-- Where the target fields of a word stand (04 R93-R100); EOR of `mma` is a second one (07 R204). -/
def tgtFields (o : Nat) : List Nat :=
  if o = 0x24 ∨ o = 0x25 then [35]
  else if o = 0x63 then [27]
  else if o = 0x38 ∨ 0xC0 ≤ o then [23, 11]
  else if o = 0xB2 then [20, 8]
  else if 0xB0 ≤ o then [20]
  else if 0xA0 ≤ o then [25]
  else if 0x80 ≤ o then [27]
  else if 0x30 ≤ o ∧ o ≤ 0x3D ∧ o ≠ 0x3B then [34]
  else [31, 19]
/-- A word with a field replaced. -/
def putField (w : Word) (lo width v : Nat) : Word :=
  let m := BitVec.ofNat 64 ((2 ^ width - 1) * 2 ^ lo)
  (w &&& ~~~m) ||| BitVec.ofNat 64 (v % 2 ^ width * 2 ^ lo)
/-- OP of a word. -/
def wordOp (w : Word) : Nat := bits w 63 56
/-- The node of a slot. -/
def nodeOf (idx : Nat) (w : Word) : Node :=
  ⟨idx, w, (tgtFields (wordOp w)).map (fun lo => vtOf (w.extractLsb' lo 12))⟩

/-- LSID and class of a word, if it is a memory instruction that takes part in LSID order. -/
def wordLsid (w : Word) : Option Nat :=
  match decodeWord w with
  | .ok i => if memClass i = .load ∨ memClass i = .store then lsidOf i else none
  | .err _ => none

/-- Bindings of stages (R104): 1 the M-node's ports, 2 the converter, 3 cross-lane and exits, 0 any. -/
def stageClass (w : Word) : Nat :=
  let o := wordOp w
  if (0x80 ≤ o ∧ o ≤ 0x96) ∨ (0xA0 ≤ o ∧ o ≤ 0xAA) then 1
  else if (0x4A ≤ o ∧ o ≤ 0x51) ∨ (0x60 ≤ o ∧ o ≤ 0x66) then 2
  else if (0x70 ≤ o ∧ o ≤ 0x78) ∨ (0x30 ≤ o ∧ o ≤ 0x3D ∧ o ≠ 0x38 ∧ o ≠ 0x3B) then 3
  else 0
/-- Stages of a class, in the order they are tried. -/
def classStages (k : Nat) : List Nat :=
  match k with
  | 1 => [0, 3]
  | 2 => [4]
  | 3 => [5]
  | _ => [1, 2, 0, 3, 4, 5]

/-! ### Slots -/

/-- What has been placed: node, E-node, slot, stage. -/
abbrev Placed := List (Nat × Nat × Nat × Nat)
/-- The first E-node and stage that takes a word of a class. -/
def seat (p : Placed) (k : Nat) : Option (Nat × Nat) :=
  (List.range 8).findSome? (fun e =>
    if 16 ≤ (p.filter (fun q => q.2.1 == e)).length then none
    else ((classStages k).find? (fun s => decide ((p.filter (fun q => q.2.1 == e && q.2.2.2 == s)).length < 4))).map (fun s => (e, s)))
/-- Nodes placed one after the other. -/
def placeNodes (p : Placed) : List Node → Option Placed
  | [] => some p
  | n :: r =>
    match seat p (stageClass n.word) with
    | none => none
    | some (e, s) => placeNodes (p ++ [(n.id, e, (p.filter (fun q => q.2.1 == e)).length, s)]) r
/-- The classes with few stages first, then the rest in program order. -/
def placeAll (ns : List Node) : Option Placed :=
  placeNodes [] (ns.filter (fun n => stageClass n.word != 0) ++ ns.filter (fun n => stageClass n.word == 0))
/-- Index of a node. -/
def Placed.idx (p : Placed) (n : Nat) : Option Nat := (p.find? (fun q => q.1 == n)).map (fun q => 16 * q.2.1 + q.2.2.1)

/-! ### Conversion -/

/-- A read entry before placement: thread register and targets. -/
structure VRead where
  reg : Nat
  tgts : List VT
deriving DecidableEq, Repr

/-- A block taken apart. -/
structure Parts where
  nodes : List Node
  reads : List VRead
  writes : List Nat
  mask : Nat
  base : Nat
deriving DecidableEq, Repr

/-- The target a VT encodes once slots are known; one that names no node gets the malformed operand 7. -/
def encTgt (p : Placed) (t : VT) : Nat :=
  match t.kind with
  | 0 => t.node % 128 * 8 + t.op % 8
  | 2 => 2 ^ 11 + t.op % 32 * 32 + t.node % 32
  | k => match p.idx t.node with
    | some i => k * 2 ^ 10 + i * 2 ^ 3 + t.op % 8
    | none => k * 2 ^ 10 + 7

/-- The parts put together again with their slots; none beyond the limits of check 22. A word whose STG was not 7 gets STG 6, so
that it fails check 10 (R112). -/
def assemble (b : Block) (q : Parts) : Option Block :=
  if 36 < q.reads.length ∨ 24 < q.writes.length then none
  else
    match placeAll q.nodes with
    | none => none
    | some p =>
      let chunks := p.foldl (fun n s => max n (s.2.1 + 1)) 1
      let word := fun (n : Node) (e : Nat × Nat × Nat) =>
        let w := putField n.word 53 3 (if bits n.word 55 53 = 7 then e.2.2 else 6)
        ((tgtFields (wordOp w)).zip n.tgts).foldl (fun w t => putField w t.1 12 (encTgt p t.2)) w
      let at_ := fun (k : Nat) => ((p.find? (fun s => 16 * s.2.1 + s.2.2.1 == k)).bind (fun s =>
        (q.nodes.find? (fun n => n.id == s.1)).map (fun n => word n s.2))).getD 0#64
      let words := (List.range (16 * chunks)).map at_
      let hdw0 := (if b.kind = 3 then 1 else b.kind) + (chunks - 1) * 2 ^ 8 + b.exitMax * 2 ^ 11 + 2 ^ 14 + q.reads.length * 2 ^ 16 +
        q.writes.length * 2 ^ 24 + q.mask % 2 ^ 32 * 2 ^ 32
      let entry := fun (r : VRead) => 2 ^ 31 + r.reg % 128 * 2 ^ 24 +
        encTgt p (r.tgts.headD .none) * 2 ^ 12 + encTgt p (r.tgts.getD 1 .none)
      let crc := bodyCrc (words.flatMap (fun w => leBytes 8 w.toNat))
      some { b with
        hdw0 := BitVec.ofNat 64 hdw0, hdw1 := putField (putField b.hdw1 16 8 q.base) 48 16 crc.toNat,
        reads := (q.reads.map (fun r => BitVec.ofNat 32 (entry r))) ++ List.replicate (36 - q.reads.length) 0#32,
        writes := (q.writes.map (fun r => BitVec.ofNat 16 (2 ^ 15 + r % 128))) ++ List.replicate (24 - q.writes.length) 0#16,
        w240 := 0#64, w248 := 0#64, words := words }

/-- Numbers of the nodes that conversion adds: spill loads, their `mov`s, spill stores, and eleven of an expansion. -/
def ldId (k : Nat) : Nat := 1000 + k
def mvId (k : Nat) : Nat := 2000 + k
def stId (k : Nat) : Nat := 3000 + k
def exId (n k : Nat) : Nat := 4000 + 16 * n + k

/-- The words of spills (R330): `ld.n64`, `st.n64` at a slot with an LSID, and `mov`. -/
def spillWord (op : BitVec 8) (l s : Nat) : Word :=
  packM op { stg := 7#3, pr := 0#2, ty := 7#4, lsid := BitVec.ofNat 5 l, scope := 0#3, t0 := 0#12, offs := BitVec.ofNat 27 (64 * s) }
def plainG (op : BitVec 8) (ty : BitVec 4) (x : Nat) (pr : BitVec 2 := 0#2) : Word :=
  packG op { stg := 7#3, pr := pr, ty := ty, fzi := 0#1, fzo := 0#1, rm := 0#2, t0 := 0#12, t1 := 0#12, x := BitVec.ofNat 19 x }
/-- `mov`. -/
def movWord (pr : BitVec 2 := 0#2) : Word := plainG 0x23#8 0#4 0 pr
/-- The word with another LSID. -/
def withLsid (w : Word) (l : Nat) : Word := putField w 42 5 l

/-- A node that the EXPAND bit 0 expands (R329): `fdot2.f16`, `c` and `f` not expected, FZI, FZO and RM zero. -/
def Block.expands (b : Block) (n : Node) : Bool :=
  let f := unpackG n.word
  wordOp n.word == 0x55 && f.ty == 8#4 && noRound f && f.x == 0#19 && !b.expects n.id 2 && !b.expects n.id 4
/-- The nodes of its expansion. The predicate stands at the `mov` of `a`: where it does not hold, nothing more fires. -/
def expandFdot2 (n : Node) : List Node :=
  let i := fun (k : Nat) => exId n.id k
  let up := fun (sel : Nat) => plainG 0x65#8 8#4 (10 + sel * 16)
  [⟨i 0, movWord (unpackG n.word).pr, [.opnd (i 2) 0, .opnd (i 3) 0]⟩, ⟨i 1, movWord, [.opnd (i 4) 0, .opnd (i 5) 0]⟩,
   ⟨i 2, up 2, [.opnd (i 6) 0, .none]⟩, ⟨i 3, up 3, [.opnd (i 7) 0, .none]⟩,
   ⟨i 4, up 2, [.opnd (i 6) 1, .none]⟩, ⟨i 5, up 3, [.opnd (i 7) 1, .none]⟩,
   ⟨i 6, plainG 0x42#8 10#4 0, [.opnd (i 7) 2, .none]⟩, ⟨i 7, plainG 0x43#8 10#4 0, n.tgts⟩]
/-- Where a target at an expanded node goes. -/
def expandTgt (ex : List Nat) (t : VT) : VT :=
  if (t.kind = 1 ∨ t.kind = 3) ∧ t.node ∈ ex then
    (if t.op = 0 then { t with node := exId t.node 0 } else if t.op = 1 then { t with node := exId t.node 1, op := 0 }
     else { t with node := exId t.node 0 })
  else t

/-- The nodes of a block that are expanded under an expansion set (R329). -/
def Block.expandIds (b : Block) (expand : BitVec 16) (ns : List Node) : List Nat :=
  (ns.filter (fun n => expand.getLsbD 0 && b.expands n)).map (fun n => n.id)
/-- Nodes with the ones to be expanded replaced by their expansions. -/
def expandNodes (ex : List Nat) (ns : List Node) : List Node := ns.flatMap (fun n => if ex.contains n.id then expandFdot2 n else [n])

/-- Pairs of a list. -/
def pairUp {α : Type} : List α → List (List α)
  | [] => []
  | [a] => [[a]]
  | a :: b :: r => [a, b] :: pairUp r

/-- Conversion (R330) of a portable block for a thread of c registers; none where check 22 fails. -/
def convert (b : Block) (t : VTable) (expand : BitVec 16) (c : Nat) : Option Block :=
  let raw := (b.words.zipIdx.filter (fun p => p.1 != 0#64)).map (fun p => nodeOf p.2 p.1)
  let rs := (b.reads.take b.nread).map (fun e => (readReg e, ((readTgts e).map vtOf).filter (fun g => g.kind != 0)))
  let ws := (b.writes.take b.nwrite).map writeReg
  let slot : Nat → Option Nat := fun v => match t.home c v with | .slot s => some s | .reg _ => none
  let reg : Nat → Nat := fun v => match t.home c v with | .reg r => r | .slot _ => 0
  -- spilled entries, in slot order
  let at_ : Nat → Nat := fun v => (slot v).getD 0
  let sr := (rs.filter (fun e => (slot e.1).isSome)).isort (fun (x y : Nat × List VT) => decide (at_ x.1 ≤ at_ y.1))
  let sw := (ws.zipIdx.filter (fun e => (slot e.1).isSome)).isort (fun (x y : Nat × Nat) => decide (at_ x.1 ≤ at_ y.1))
  let keptW := ws.zipIdx.filter (fun e => (slot e.1).isNone)
  -- targets at write entries
  let wt := fun (g : VT) =>
    if g.kind = 2 ∧ g.op = 0 then
      match sw.findIdx? (fun e => e.2 == g.node) with
      | some k => VT.opnd (stId k) 1
      | none => { g with node := (keptW.findIdx? (fun e => e.2 == g.node)).getD 31 }
    else g
  -- LSIDs: spill loads, the block's own, spill stores
  let own := (List.range 32).filter (fun l => b.storeMask.testBit l || raw.any (fun n => wordLsid n.word == some l))
  let lid := fun (l : Nat) => sr.length + own.idxOf l
  let nl := sr.length + own.length + sw.length
  let ex := b.expandIds expand raw
  let fix := fun (g : VT) => expandTgt ex (wt g)
  let body := expandNodes ex (raw.map (fun n =>
    { n with word := (match wordLsid n.word with | some l => withLsid n.word (lid l) | none => n.word), tgts := n.tgts.map fix }))
  let loads := sr.zipIdx.flatMap (fun p =>
    let w := spillWord 0x80#8 p.2 ((slot p.1.1).getD 0)
    let ts := p.1.2.map fix
    if ts.length ≤ 1 then [(⟨ldId p.2, w, [ts.headD .none]⟩ : Node)]
    else [⟨ldId p.2, w, [.opnd (mvId p.2) 0]⟩, ⟨mvId p.2, movWord, ts⟩])
  let stores := sw.zipIdx.map (fun p =>
    (⟨stId p.2, spillWord 0x82#8 (sr.length + own.length + p.2) ((slot p.1.1).getD 0), [.none]⟩ : Node))
  let bases := pairUp (((List.range sr.length).map (fun k => VT.opnd (ldId k) 0)) ++ ((List.range sw.length).map (fun k => VT.opnd (stId k) 0)))
  let reads := (rs.filter (fun e => (slot e.1).isNone)).map (fun e => (⟨reg e.1, e.2.map fix⟩ : VRead)) ++
    bases.map (fun g => (⟨c - 1, g⟩ : VRead))
  let mask := ofBits ((List.range 32).map (fun l =>
    own.any (fun o => b.storeMask.testBit o && lid o == l) || (decide (sr.length + own.length ≤ l) && decide (l < nl))))
  let n := b.renCount
  let renamed := n == 0 || ((List.range n).all (fun i => t.home c (b.renBase + i) == .reg (reg b.renBase + i)))
  if 32 < nl || !renamed then none
  else assemble b { nodes := loads ++ body ++ stores, reads := reads, writes := keptW.map (fun e => reg e.1), mask := mask,
                    base := if n = 0 then 0 else reg b.renBase }

/-- A placed block of another geometry placed again from its instructions (R320), with the expansions of R329. -/
def replace (b : Block) (expand : BitVec 16) : Option Block :=
  let free := fun (w : Word) => if bits w 55 53 ≤ 5 then putField w 53 3 7 else w
  let raw := (b.words.zipIdx.filter (fun p => p.1 != 0#64)).map (fun p => nodeOf p.2 (free p.1))
  let ex := b.expandIds expand raw
  let fix := fun (t : VT) => expandTgt ex t
  assemble b {
    nodes := expandNodes ex (raw.map (fun n => { n with tgts := n.tgts.map fix })),
    writes := (b.writes.take b.nwrite).map writeReg, mask := b.storeMask, base := b.renBase,
    reads := (b.reads.take b.nread).map (fun e => ⟨readReg e, (readTgts e).map (fun t => fix (vtOf t))⟩) }

/-- A block as a grid runs it for a thread of c registers of a kernel: a portable block converted (R330), after checks 1 to 7; a
placed block of another geometry placed again (R320, log 28); under loader-only placement a portable block fails check 1 (R337). -/
def placeBlock (k : Kernel) (t : VTable) (loaderOnly : Bool) (c : Nat) (b : Block) : Except Bad Block :=
  let limit : Bad := { cause := .blockMalformed, loc := 0xFE, check := 22 }
  if b.placed then
    if k.geometry = 1 then .ok b
    else
      match b.headerCheck 64 with
      | some e => .error e
      | none => match replace b k.expand with | some q => .ok q | none => .error limit
  else if loaderOnly then .error (badHdr 1)
  else
    match b.headerCheck t.nv with
    | some e => .error e
    | none => match convert b t k.expand c with | some q => .ok q | none => .error limit

end Sys2Proof.Machine
end

