-- ==== Sys2Proof/Machine/Fetch.lean ====
section
/-!
DEFINITION. Fetching, placing and feeding block instances (02 R23-R41, R46-R48): fetch opportunities and predictions, the fill
table and the placement cache (11 R328, R332), placement, tokens on their way, retained and overflowed tokens, and the events of
thread slots (02 R29, R34, R37). An event's subject stands in `Dev.arg`.
-/

namespace Sys2Proof.Machine

/-! ### Fetch (R24, R31, R41) -/

/-- What an instance counts as on its grid: the placement it has or will share, else itself (R23-R24). -/
def Inst.unitKey (x : Inst) (iid : Nat) : Nat × Nat :=
  if x.plane.isSome then (0, x.placement) else match x.preLoops with
    | l :: _ => (0, l.placement)
    | [] => (1, iid)
/-- Block instances of a thread in flight on a grid, a resident placement counted once (R24). -/
def Dev.inFlight (d : Dev) (tid g : Nat) : Nat :=
  (((d.instsOf tid).filter (fun p => p.2.grid == g && p.2.st != .flushed)).map (fun p => p.2.unitKey p.1)).eraseDups.length
/-- Planes of a grid that are held or promised to instances being fetched (R23). -/
def Dev.planesUsed (d : Dev) (g : Nat) : Nat :=
  let held : List (Nat × Nat) := (d.grid g).planes.map (fun p => (0, p.2.placement))
  let coming := d.insts.filter (fun p => p.2.grid == g && (p.2.st == .fetching || p.2.st == .placing))
  (held ++ coming.map (fun p => p.2.unitKey p.1)).eraseDups.length
/-- The grid the next instance of a thread goes to (R24). -/
def Thread.nextGrid (t : Thread) : Nat :=
  match t.loops with
  | l :: _ => l.grid
  | [] => t.first + (t.seq + 1) % t.width
/-- A slot that a restore has brought back in WAIT, or in RETENTION from it, and whose waiting block is still to be fetched again
(10 R301). -/
def Dev.rearms (d : Dev) (tid : Nat) (t : Thread) : Bool :=
  (t.st == .wait || (t.st == .retention && t.fromWait)) && t.waitLeft.isSome && (d.instsOf tid).isEmpty
/-- A slot of a thread is disabled (R51). -/
def Dev.slotDisabled (d : Dev) (t : Thread) : Bool := t.slots.any (fun s => ((d.grid s.1).slots.get s.2 {}).disabled)
/-- A thread may be fetched: its slot is in FETCH or RUN, its next block is known, and its grid has room (R41). One whose slot is
disabled is moved first, where it is outside every loop (R51, log 29). -/
def Dev.mayFetch (d : Dev) (tid : Nat) (t : Thread) : Bool :=
  let g := t.nextGrid
  let mine := d.instsOf tid
  (t.st == .fetch || t.st == .run || d.rearms tid t) && !t.ended && !t.argLoad && !t.endAfter && t.rcd.isNone && t.next.isSome &&
    !(t.loops.isEmpty && d.slotDisabled t) &&
    (d.ctx t.ctx).st == .running && !d.stopped g && mine.all (fun p => p.2.plane.isSome) &&
    (match t.loops with
      | l :: _ => decide ((mine.filter (fun p => p.2.placement == l.placement)).length < l.maxInst)
      | [] => decide (d.inFlight tid g < 2) && decide (d.planesUsed g < Config.planes)) &&
    (match t.loops with
      | l :: _ => (d.grid g).planes.any (fun p => p.2.placement == l.placement) || !mine.isEmpty || decide (d.planesUsed g < Config.planes)
      | [] => true)

/-- The exit an exit number of a block stands for: opcode of its first instruction. -/
def Block.exitOp (b : Block) (n : Nat) : Nat :=
  match b.slots.find? (fun s => isExit s.2 && exitField s.2 == some n) with
  | some s => opcode s.2
  | none => 0x30
/-- The exit that a descriptor predicts (04 R87, 05 R147): direct, from the indirect target table, or from the return
predictor. -/
def Dev.predictExit (d : Dev) (t : Thread) (x : Inst) (n : Nat) : Option ExitFired :=
  match x.code with
  | none => none
  | some b =>
    let e := b.exits.getD n 0#32
    let target := match bits e 31 30 with
      | 1 => some ((((x.blk : Int) + 256 * sbits e 29 0) % (2 ^ 57 : Nat)).toNat)
      | 2 => ((d.grid x.grid).indirect.find? (fun (q : Nat × Nat × Nat) => q.1 == x.blk && q.2.1 == n)).map (fun (q : Nat × Nat × Nat) => q.2.2)
      | 3 => t.retPred.head?
      | _ => none
    target.map (fun a => ⟨n, b.exitOp n, some a⟩)
/-- Fetch follows a prediction for the youngest instance of a thread, whose exit has not fired (R31). -/
def Dev.predict (d : Dev) (tid n : Nat) : Dev :=
  match d.thr tid, d.youngest tid with
  | some t, some (iid, x) =>
    if t.next.isNone && x.exit.isNone && x.predicted.isNone && x.plane.isSome && x.pend.isNone then
      match d.predictExit t x n with
      | some e => d.followExit iid e
      | none => d
    else d
  | _, _ => d

/-- The slot a thread holds on a grid. -/
def Thread.slotOn (t : Thread) (g : Nat) : Nat := match t.slots.find? (fun s => s.1 == g) with | some s => s.2 | none => 0
/-- Ready threads of a grid with their slots. -/
def Dev.readyOn (d : Dev) (g : Nat) : List (Nat × Nat) :=
  (d.threads.filter (fun p => d.mayFetch p.1 p.2 && p.2.nextGrid == g)).map (fun p => (p.1, p.2.slotOn g))
/-- The ready slot taken at an opportunity (R41): a starving one that was passed over most often, else the one that has waited
longest; ties to the lower slot. DESIGN CHOICE: a slot has waited since its last fetch, its start or its last `yield`, and the
number of times it was passed over stands while it is not ready (log 80). -/
def Dev.chooseSlot (d : Dev) (g : Nat) (l : List (Nat × Nat)) : Option (Nat × Nat) :=
  let sl := fun (p : Nat × Nat) => (d.grid g).slots.get p.2 {}
  let before := fun (a b : Nat × Nat) =>
    let x := sl a
    let y := sl b
    let sx := decide (56 ≤ x.passed)
    let sy := decide (56 ≤ y.passed)
    if sx != sy then sx
    else if sx && x.passed != y.passed then decide (y.passed < x.passed)
    else if !sx && x.waitSince != y.waitSince then decide (x.waitSince < y.waitSince)
    else decide (a.2 ≤ b.2)
  (l.isort before).head?

/-- A fetch begun for a thread on a grid: the instance is in FETCHING; a block off the package, or without X, is PROTECTION
(05 R145, 08 R225). -/
def W.beginFetch (w : W) (g tid : Nat) : W :=
  match w.d.thr tid with
  | none => w
  | some t =>
    match t.next with
    | none => w
    | some blk =>
      let n := w.d.newId
      let x : Inst := { thr := tid, grid := g, st := .fetching, seq := t.seq + 1, blk := blk, tag := t.fTag, preTag := t.fTag,
                        preDepth := t.fDepth, preLoops := t.loops, since := w.d.cycle }
      let d := (n.2.setInst n.1 x).setThr tid { t with seq := t.seq + 1, next := none }
      let r := W.rights { w with d := d } g t.ctx blk
      let w := r.2
      if !w.isLocal blk || !hasRights r.1 rX then
        { w with d := w.d.hold n.1 { cause := .protection, loc := 0xFF#8, w2 := BitVec.ofNat 64 blk, w3 := 2#64 } }
      else w

/-- FETCH_OPPORTUNITY (R41) on grid `a`. With `b` = n + 1 the controller first predicts exit n for thread `c` (R31). -/
def execFetchOpportunity (s : State) : Host.Outcome State Fault Refusal :=
  runR (fun w =>
    let g := w.d.arg.a
    let d := if w.d.arg.b = 0 then w.d else w.d.predict w.d.arg.c (w.d.arg.b - 1)
    let l := d.readyOn g
    match d.chooseSlot g l with
    | none => d
    | some (tid, sl) =>
      let d := d.modGrid g (fun gr => { gr with slots := l.foldl (fun (ss : Tbl Slot) p =>
        let s := ss.get p.2 {}
        ss.set p.2 (if p.2 = sl then { s with passed := 0, waitSince := d.cycle } else { s with passed := s.passed + 1 })) gr.slots })
      (W.beginFetch { w with d := d } g tid).d) s

/-! ### Fills and the placement cache (11 R328, R332-R333) -/

/-- The cached placement of a block for a thread. -/
def Dev.cached (d : Dev) (g : Nat) (kernel : Word) (blk c : Nat) : Option CacheEnt :=
  (d.grid g).cache.find? (fun e => e.kernel == kernel && e.blk == blk && e.regCnt == c)
/-- Bytes of a cached block. -/
def CacheEnt.size (e : CacheEnt) : Nat := 256 + 128 * e.code.chunks
/-- An entry put in a placement cache of 64 KiB: the least recently used ones whose block no plane holds make room. -/
def Grid.cachePut (g : Grid) (e : CacheEnt) (fuel : Nat) : Grid :=
  let rest := g.cache.filter (fun q => !(q.kernel == e.kernel && q.blk == e.blk && q.regCnt == e.regCnt))
  let used := (rest.map CacheEnt.size).sum
  match fuel with
  | 0 => g
  | n + 1 =>
    if used + e.size ≤ Config.placementBytes then { g with cache := rest ++ [e] }
    else
      match (rest.filter (fun q => !g.planes.any (fun p => p.2.blk == q.blk))).isort (fun a b => decide (a.used ≤ b.used)) with
      | [] => g
      | v :: _ => Grid.cachePut { g with cache := rest.erase v } e n

/-- FETCH_COMPLETE (R27): instance `a` in FETCHING finds its block in the placement cache and enters PLACING; a miss joins the
fill table (11 R328). -/
def execFetchComplete (s : State) : Host.Outcome State Fault Refusal :=
  runD (fun d =>
    let iid := d.arg.a
    match d.inst iid with
    | none => d
    | some x =>
      match d.thr x.thr with
      | none => d
      | some t =>
        if x.st ≠ .fetching ∨ d.stopped x.grid = true then d
        else
          let h := d.kernelOf t
          match d.cached x.grid h x.blk t.regCnt with
          | some e =>
            let d := d.modGrid x.grid (fun gr => { gr with cache := gr.cache.map (fun q => if q == e then { q with used := d.cycle } else q) })
            d.setInst iid { x with st := .placing, code := some e.code }
          | none =>
            let f := fieldOf x.grid
            if (d.field f).fills.any (fun q => q.2.joined.contains iid) then d
            else (d.joinFill f t.ctx h x.blk t.regCnt [iid] []).getD d) s

/-- A fill that fails: its fault is held against every instance that has joined (11 R328, R333). -/
def W.failFill (w : W) (f : Fill) (cause : Cause) (w2 w3 : Nat) : W :=
  { w with d := f.joined.foldl (fun d i => d.hold i { cause := cause, loc := 0xFF#8, w2 := BitVec.ofNat 64 w2, w3 := BitVec.ofNat 64 w3 }) w.d }
/-- A fill whose page is absent: a page fault of every instance that has joined (R32). -/
def W.absentFill (w : W) (f : Fill) (x : Nat) : W :=
  f.joined.foldl (fun w i => { w with d := w.pageFault i x 2 }) w
/-- What reading memory for a fill finds beside bytes: the fill ends with a fault, or goes on waiting. -/
def Rd.fillFail {α : Type} (r : Rd α) (w : W) (f : Fill) (x page : Nat) : Option W :=
  match r with
  | .ok _ => none
  | .waits => none
  | .absent => some (w.absentFill f x)
  | .ecc => some ({ w with d := { w.d with life := { w.d.life with codeEcc := w.d.life.codeEcc + 1 } } }.failFill f .codeEcc page 0)
  | .lost => some (w.failFill f .linkLost x 2)
  | .noRegion => some (w.failFill f .protection x 2)

/-- The virtual-register table that a portable block points to (11 R319). -/
def W.readTable (w : W) (c x : Nat) : Rd VTable × W :=
  match w.readHome c 0 x 8 with
  | (.ok h, w) =>
    let nv := (h.headD 0#8).toNat
    (match w.readHome c 0 (x + 8) (2 * nv) with
      | (.ok bs, w) => (.ok ⟨nv, (pieces 2 nv bs).map (fun e => e % 128)⟩, w)
      | (.absent, w) => (.absent, w)
      | (.waits, w) => (.waits, w)
      | (.ecc, w) => (.ecc, w)
      | (.lost, w) => (.lost, w)
      | (.noRegion, w) => (.noRegion, w))
  | (.absent, w) => (.absent, w)
  | (.waits, w) => (.waits, w)
  | (.ecc, w) => (.ecc, w)
  | (.lost, w) => (.lost, w)
  | (.noRegion, w) => (.noRegion, w)
/-- Address of that table. -/
def Block.tableAt (b : Block) (blk : Nat) : Nat := (((blk : Int) + b.w240.toInt) % (2 ^ 57 : Nat)).toNat

/-- The grids a fill delivers to. -/
def Dev.fillGrids (d : Dev) (f : Fill) : List Nat :=
  ((f.joined.filterMap (fun i => (d.inst i).map (fun x => x.grid))) ++ f.hints).eraseDups
/-- A fill removed. -/
def Dev.endFill (d : Dev) (field n : Nat) : Dev := d.modField field (fun q => { q with fills := q.fills.erase n })
/-- The first page of a code object, of the pages of some bytes, that is not verified: `true` if it has failed. -/
def Kernel.pageIn (k : Kernel) (x n : Nat) : Option (Nat × Bool) :=
  let lo := (x - k.base) / 2 ^ 14
  let hi := (x + n - 1 - k.base) / 2 ^ 14
  (((List.range (hi + 1 - lo)).map (· + lo)).find? (fun p => !k.verified.contains p)).map (fun p => (p, k.failed.contains p))

/-- One attempt of a fill: the block read, its pages verified, converted and delivered. -/
def W.fill (w : W) (field n : Nat) (f : Fill) : W :=
  let fin := fun (w : W) => ({ w with d := w.d.endFill field n } : W)
  let k := (w.d.ctx f.ctx).kernels.get (bits f.kernel 7 0) {}
  let page := f.blk / 2 ^ 14 * 2 ^ 14
  let stopOr := fun (o : Option W) (w : W) => match o with | some w => fin w | none => w
  if k.st = .unloaded ∨ k.lgen ≠ bits f.kernel 39 8 then fin w
  else if f.blk < k.base ∨ k.base + k.codeLen < f.blk + 256 then fin (w.failFill f .codeIntegrity page 0)
  else
    let verify := fun (w : W) (len : Nat) (go : W → W) =>
      match k.pageIn f.blk len with
      | none => go w
      | some (p, true) => fin (w.failFill f .codeIntegrity (k.base + 2 ^ 14 * p) 0)
      | some (p, false) =>
        let d := if k.verifying.contains p then w.d
          else
            let d := w.d.modCtx f.ctx (fun c => { c with kernels := c.kernels.set (bits f.kernel 7 0) { k with verifying := k.verifying ++ [p] } })
            { d with verifs := d.verifs ++ [⟨f.ctx, bits f.kernel 7 0, p⟩] }
        { w with d := d.modField field (fun q => { q with fills := q.fills.set n { f with waitPage := some p } }) }
    match w.readHome f.ctx 0 f.blk 256 with
    | (.ok hdr, w) =>
      let len := 256 + bodyLen hdr
      if k.base + k.codeLen < f.blk + len then fin (w.failFill f .codeIntegrity page 0)
      else
        verify w len fun w =>
          match w.readHome f.ctx 0 (f.blk + 256) (len - 256) with
          | (.ok body, w) =>
            let b := parseBlock hdr body
            if bodyCrc body ≠ b.hdw1.extractLsb' 48 16 then stopOr (Rd.fillFail (.ecc : Rd Unit) w f f.blk page) w
            else
              let t : Rd VTable × W := if b.placed then (.ok ⟨0, []⟩, w) else w.readTable f.ctx (b.tableAt f.blk)
              match t with
              | (.ok tab, w) =>
                let code := match placeBlock k tab (((w.d.bctl f.ctx).getLsbD 26)) f.regCnt b with
                  | .ok q => q
                  | .error _ => b
                let e : CacheEnt := ⟨f.kernel, f.blk, f.regCnt, code, w.d.cycle⟩
                let d := (w.d.fillGrids f).foldl (fun (d : Dev) g => d.modGrid g (fun gr => gr.cachePut e 512)) w.d
                fin { w with d := d }
              | (r, w) => stopOr (r.fillFail w f (b.tableAt f.blk) page) w
          | (r, w) => stopOr (r.fillFail w f f.blk page) w
    | (r, w) => stopOr (r.fillFail w f f.blk page) w

/-- FILL_DELIVERY (11 R328): fill `b` of the fill table of field `a`, if it waits for no verification. -/
def execFillDelivery (s : State) : Host.Outcome State Fault Refusal :=
  run (fun w =>
    match (w.d.field w.d.arg.a).fills.look w.d.arg.b with
    | some f => if f.waitPage.isSome then w else w.fill w.d.arg.a w.d.arg.b f
    | none => w) s

/-! ### Registers as instances see them (R35) -/

/-- The value that a register has for an instance: of the youngest older instance whose write entry names it and has received
a value; none while that is not known. -/
def Dev.readValue (d : Dev) (x : Inst) (r : Nat) : Option Vec :=
  let older := ((d.olderOf x).map Prod.snd).isort (fun a b => decide (b.seq ≤ a.seq))
  let regs := match d.thr x.thr with | some t => t.regs | none => []
  let q := older.foldl (fun (acc : Option (Option Vec)) y =>
    match acc with
    | some v => some v
    | none =>
      match y.code with
      | none => some none
      | some b =>
        match (b.writes.take b.nwrite).findIdx? (fun e => y.renamed (writeReg e) == r) with
        | none => none
        | some k =>
          match y.wr.look k with
          | some (.val v) => some (some v)
          | some _ => none
          | none => some none) none
  match q with
  | some v => v
  | none => some (regs.get r 0#512)

/-- Read entries of an instance whose value is known are injected. -/
def Dev.inject (d : Dev) (iid : Nat) : Dev :=
  match d.inst iid with
  | none => d
  | some x =>
    match x.code with
    | none => d
    | some b =>
      x.pendReads.foldl (fun d k =>
        let e := b.reads.getD k 0#32
        match d.readValue x (x.renamed (readReg e)) with
        | none => d
        | some v =>
          let fl := ((readTgts e).filter (fun t => tgtKind t != 0)).map (fun t => ({ iid := iid, src := none, tgt := t, tok := .val v } : Flight))
          { d.modInst iid (fun y => { y with pendReads := y.pendReads.erase k }) with flight := d.flight ++ fl }) d
/-- Every instance of a thread. -/
def Dev.injectAll (d : Dev) (tid : Nat) : Dev := (d.instsOf tid).foldl (fun d p => d.inject p.1) d

/-! ### Placing (R27, 04 R109) -/

/-- A retained token is for an instance of a resident placement, by tag (R47): of the placement it belongs to, or, a completion
that no instance has received yet, of any (08 R249). -/
def FarTok.isFor (f : FarTok) (c : Nat) (x : Inst) : Bool :=
  f.grid == x.grid && f.ctx == c && f.tag == x.tag && x.plane.isSome && x.resident &&
    (match f.placement with | some p => p == x.placement | none => (match f.bound with | some p => p == x.placement | none => true))

/-- What placement finds wrong with an instance: conversion, the checks of the placed block, registers, depth. -/
def Dev.placeCheck (d : Dev) (t : Thread) (x : Inst) (b : Block) (tab : VTable) : Option Bad :=
  let k := d.kernelRec t
  let conv := if b.placed && k.geometry == 1 then none
    else match placeBlock k tab ((d.bctl t.ctx).getLsbD 26) t.regCnt b with | .error e => some e | .ok _ => none
  match conv with
  | some e => some e
  | none =>
    match b.check (((d.ctx t.ctx).cfg.headD 0#64).getLsbD 8) (d.tagWidths t).length with
    | some e => some e
    | none =>
      match b.registerCheck t.regCnt with
      | some e => some e
      | none => if x.preLoops.isEmpty then b.depthCheck x.preDepth (d.tagWidths t).length else none

/-- The lowest plane of a grid that nothing holds. -/
def Dev.freePlane (d : Dev) (g : Nat) : Option Nat := (List.range Config.planes).find? (fun k => ((d.grid g).planes.look k).isNone)

/-- An instance enters FIRING in a plane of a placement. -/
def Dev.enter (d : Dev) (iid : Nat) (x : Inst) (t : Thread) (b : Block) (plane placement : Nat) : Dev :=
  let ws := d.tagWidths t
  let x := { x with plane := some plane, placement := placement, resident := b.isResident, code := some b }
  let tag := BitVec.ofNat 64 (x.post ws).tag
  let iter := match (x.post ws).loops with | l :: _ => l.iter | [] => 0
  let rot := match (x.post ws).loops with | l :: _ => tagField ws (x.post ws).tag l.fieldNo | [] => 0
  let x := { x with st := .firing, tag := tag, iter := iter, rot := rot, since := d.cycle, wdog := (d.ctx t.ctx).wdog,
                    pendReads := List.range b.nread }
  let again := d.retained.filter (fun f => f.isFor t.ctx x && !((d.grid x.grid).overflow.contains f))
  let d := d.setInst iid x
  let d := d.modGrid x.grid (fun gr => { gr with planes := gr.planes.map (fun p =>
    if p.2.placement = placement ∧ p.2.firingAt = none then (p.1, { p.2 with firingAt := some d.cycle }) else p) })
  let d := d.modThr x.thr (fun t => { (t.setNest (x.post ws)) with st := if t.st = .fetch then .run else t.st })
  let d := d.modGroup t.ctx t.gid (fun g => if g.st = .dispatched then { g with st := .running } else g)
  let d := { d with flight := d.flight ++ again.map (fun (f : FarTok) => ({ iid := iid, src := none, tgt := f.tgt, tok := f.tok } : Flight)) }
  d.inject iid

/-- INSTANCE_PLACE (R27): instance `a` in PLACING is checked (04 R109) and, with a plane, enters FIRING. -/
def execInstancePlace (s : State) : Host.Outcome State Fault Refusal :=
  runR (fun w =>
    let iid := w.d.arg.a
    match w.d.inst iid with
    | none => w.d
    | some x =>
      match w.d.thr x.thr, x.code with
      | some t, some b =>
        if x.st ≠ .placing ∨ w.d.stopped x.grid = true then w.d
        else
          let tab : VTable := match (if b.placed then (.waits, w) else w.readTable t.ctx (b.tableAt x.blk)) with
            | (.ok q, _) => q
            | _ => ⟨0, []⟩
          match w.d.placeCheck t x b tab with
          | some e => w.d.hold iid (e.pend x.blk)
          | none =>
            -- a resident loop goes on in its plane; a loop that was restored or moved takes a plane again
            let n := w.d.newId
            let new := match x.preLoops with | l :: _ => l.placement | [] => n.1
            match (w.d.grid x.grid).planes.find? (fun p => p.2.placement == new) with
            | some (k, _) => w.d.enter iid x t b k new
            | none =>
              match w.d.freePlane x.grid with
              | none => w.d
              | some k =>
                let p : Plane := { placement := new, blk := x.blk, resident := b.isResident, thr := x.thr, fetchAt := x.since,
                                   firingAt := none, commitAt := none, leaveAt := none }
                Dev.enter (n.2.modGrid x.grid (fun gr => { gr with planes := gr.planes.set k p })) iid x t b k new
      | _, _ => w.d) s

/-! ### Tokens (R47, 04 R89-R91) -/

/-- A token reaches its instance: an operand (a carried one takes kind 01 in iteration 0 alone, 04 R90), a write entry, or the
way to the next instance. A second token is EXIT_CONFLICT (R26). -/
def Dev.receive (d : Dev) (f : Flight) : Dev :=
  match d.inst f.iid with
  | none => d
  | some x =>
    match x.code, d.thr x.thr with
    | some b, some t =>
      if x.st ≠ .firing ∧ x.st ≠ .complete then d
      else
        let k := tgtKind f.tgt
        let idx := tgtIdx f.tgt
        let op := tgtOp f.tgt
        if k = 2 then
          let e := bits f.tgt 4 0
          if (x.wr.look e).isSome then d.conflict f.iid 0 e 0
          else (d.setInst f.iid { x with wr := x.wr.set e f.tok }).injectAll x.thr
        else if k = 3 ∧ f.src.isSome = true then
          let ws := d.tagWidths t
          let n := b.tagField
          let tok : FarTok := { grid := x.grid, ctx := t.ctx, placement := some x.placement, tgt := f.tgt, tok := f.tok,
                                tag := BitVec.ofNat 64 (tagSet ws x.tag.toNat n (tagField ws x.tag.toNat n + 1)),
                                producer := some f.iid, acq := none }
          { d with retained := d.retained ++ [tok] }.modGrid x.grid (fun gr => { gr with overflow := gr.overflow ++ [tok] })
        else if k = 1 ∧ b.carried idx op = true ∧ x.iter ≠ 0 then d
        else if (x.operand idx op).isSome then d.conflict f.iid 3 idx op
        else d.setInst f.iid { x with operands := (idx, op, f.tok) :: x.operands }
    | _, _ => d

/-- TOKEN_DELIVERY (04 R91): the token at place `a` among those on their way, if its grid is not stopped. -/
def execTokenDelivery (s : State) : Host.Outcome State Fault Refusal :=
  runD (fun d =>
    match d.flight[d.arg.a]? with
    | none => d
    | some f =>
      if (match d.inst f.iid with | some x => d.stopped x.grid | none => false) then d
      else { d with flight := d.flight.eraseIdx d.arg.a }.receive f) s

/-- The overflowed token of a grid that is reinjected next, with its instance: the lowest tag first (R47). -/
def Dev.reinjectable (d : Dev) (g : Nat) : Option (FarTok × Nat) :=
  ((d.grid g).overflow.isort (fun a b => decide (a.tag.toNat ≤ b.tag.toNat))).findSome? (fun f =>
    (d.insts.find? (fun p => f.isFor (d.ctxOf p.2) p.2 && (p.2.st == .firing || p.2.st == .complete))).map (fun p => (f, p.1)))

/-- A completion delivered is an acquire at the engine's scope (09 R276): loads of younger instances are fetched again, and copies of
the destination that no scope of the acquire drops are read again at its points. The destination counts as a store resolved now: a
load of a younger instance that has read it enters the dependence predictor (02 R34). -/
def W.completionAcquire (w : W) (x : Inst) (t : Thread) (q : Nat × Nat × Nat) : Dev :=
  let lo := q.1
  let hi := q.1 + q.2.1
  let d := (w.acquireBy q.2.2 t.grids).d.dropUnowned t.grids (fun l => decide (lo < 32 * l.line + 32) && decide (32 * l.line < hi))
  let hit := fun (a : Access) => !a.isStore && a.scratch.isNone && a.bytes.any (fun b => decide (lo ≤ b.1) && decide (b.1 < hi))
  let d := match ((d.instsOf x.thr).filter (fun p => decide (x.seq < p.2.seq))).find? (fun p => p.2.accs.any hit) with
    | none => d
    | some (_, y) => d.modGrid y.grid (fun gr => gr.predict y.blk (((y.accs.find? hit).map (fun (a : Access) => a.lsid)).getD 0))
  d.acquireFlush x

/-- OVERFLOW_REINJECT (R47) on grid `a`: the token reaches its slot before one of a higher tag is reinjected (R52). -/
def execOverflowReinject (s : State) : Host.Outcome State Fault Refusal :=
  runR (fun w =>
    let g := w.d.arg.a
    match w.d.reinjectable g with
    | none => w.d
    | some (f, iid) =>
      if w.d.stopped g then w.d
      else
        let d := w.d.modGrid g (fun gr => { gr with overflow := gr.overflow.erase f })
        let d := match f.placement, d.inst iid with
          | none, some x => { d with retained := d.retained.map (fun q => if q == f then { f with bound := some x.placement } else q) }
          | _, _ => d
        let d := d.receive { iid := iid, src := none, tgt := f.tgt, tok := f.tok }
        match d.inst iid, f.acq with
        | some x, some q => (match d.thr x.thr with | some t => W.completionAcquire { w with d := d } x t q | none => d)
        | _, _ => d) s

/-! ### Exits, completeness, the watchdog -/

/-- The exit that fired differs from the prediction in its number, its target, or in whether it goes on with the loop (R31). -/
def Inst.mispredicted (x : Inst) : Bool :=
  match x.exit, x.predicted, x.code with
  | some e, some (n, a), some b => e.num != n || e.target != some a || ((e.opcode == 0x35) != (b.exitOp n == 0x35))
  | _, _, _ => false
/-- EXIT_MISPREDICT (R31): younger instances of instance `a` are flushed, and fetch follows the exit that fired. -/
def execExitMispredict (s : State) : Host.Outcome State Fault Refusal :=
  runD (fun d =>
    let iid := d.arg.a
    match d.inst iid with
    | none => d
    | some x =>
      match x.exit with
      | some e =>
        if x.mispredicted then
          let d := d.flushFrom x.thr (x.seq + 1)
          let d := d.followExit iid e
          if e.opcode = 0x31 ∨ e.opcode = 0x33 then
            d.modGrid x.grid (fun gr =>
              let rest := gr.indirect.filter (fun q => !(q.1 == x.blk && q.2.1 == e.num))
              { gr with indirect := (rest ++ [(x.blk, e.num, e.target.getD 0)]).drop (rest.length + 1 - Config.indirectEntries) })
          else d
        else d
      | none => d) s

/-- Write entries that have received nothing, as bits; LSIDs likewise (R25). -/
def Inst.missingWrites (x : Inst) (b : Block) : Nat := ofBits ((List.range 24).map (fun k => decide (k < b.nwrite) && (x.wr.look k).isNone))
def Inst.missingLsids (x : Inst) (b : Block) : Nat := ofBits ((List.range 32).map (fun l => b.storeMask.testBit l && !x.lsids.contains l))
/-- Complete (R25). -/
def Inst.complete (x : Inst) : Bool :=
  match x.code with
  | none => false
  | some b => x.missingWrites b == 0 && x.missingLsids b == 0 && x.exit.isSome

/-- COMPLETE: the rule of R25, and every matrix step has finished (R30). -/
def Inst.whole (x : Inst) : Bool := x.complete && x.msteps.all (fun m => m.st == .done)

/-- WATCHDOG_EXPIRY (R29): instance `a` in FIRING has reached its limit, and no matrix step of it runs. -/
def execWatchdogExpiry (s : State) : Host.Outcome State Fault Refusal :=
  runD (fun d =>
    let iid := d.arg.a
    match d.inst iid with
    | none => d
    | some x =>
      match x.code with
      | none => d
      | some b =>
        if x.st = .firing ∧ x.wdog ≤ d.cycle - x.since ∧ x.running = false ∧ d.stopped x.grid = false ∧ x.pend.isNone = true ∧
            (x.complete && x.msteps.all (fun m => m.st == .done)) = false then
          let w4 := x.missingLsids b + (if x.exit.isNone then 2 ^ 32 else 0)
          let d := { d with life := { d.life with watchdog := d.life.watchdog + 1 } }
          d.hold iid { cause := .blockIncomplete, w3 := BitVec.ofNat 64 (x.missingWrites b), w4 := BitVec.ofNat 64 w4 }
        else d) s

/-- PREDICTOR_ENTRY_CLEAR (R34): entries of grid `a` set 2^20 commits of the grid ago. -/
def execPredictorEntryClear (s : State) : Host.Outcome State Fault Refusal :=
  runD (fun d => d.modGrid d.arg.a (fun g => { g with pred := g.pred.filter (fun e => decide (g.commits < e.at_ + 2 ^ 20)) })) s

/-! ### Thread slots (R37-R38) -/

/-- The wait of a thread's oldest instance that is bounded. -/
def Dev.oldestWait (d : Dev) (tid : Nat) : Option Wait :=
  match d.instsOf tid with
  | [] => none
  | (iid, _) :: _ => d.waits.find? (fun q => q.iid == iid && q.limit.isSome)

/-- SLOT_WAIT_ENTRY (R37): thread `a` in RUN whose oldest instance's bounded wait has lasted 1,024 cycles goes to WAIT; its
younger instances are flushed. -/
def execSlotWaitEntry (s : State) : Host.Outcome State Fault Refusal :=
  runD (fun d =>
    let tid := d.arg.a
    match d.thr tid, d.oldestWait tid with
    | some t, some q =>
      if t.st = .run ∧ q.since + 1024 ≤ d.cycle then
        match d.inst q.iid with
        | some x => ((d.flushFrom tid (x.seq + 1)).modThr tid (fun t => { t with st := .wait, stSince := d.cycle })).gcThread tid
        | none => d
      else d
    | _, _ => d) s

/-- SLOT_RETENTION (R37): thread `a` held 16,384 cycles in WAIT or PAGE: its banks go to retention, the wait or the page request
stays armed. -/
def execSlotRetention (s : State) : Host.Outcome State Fault Refusal :=
  runD (fun d =>
    d.modThr d.arg.a (fun t =>
      if (t.st = .wait ∨ t.st = .page) ∧ t.stSince + 16384 ≤ d.cycle then
        { t with st := .retention, fromWait := (t.st == .wait), stSince := d.cycle }
      else t)) s

end Sys2Proof.Machine
end

