-- ==== Sys2Proof/Machine/Crypto.lean ====
section
/-!
DEFINITION. SHA-384 and the verification of ECDSA over P-384, which the spec names without restating them (11 R318, R323,
R332; 10 R298): taken from the public standards FIPS 180-4 and FIPS 186-4 (log 27).
-/

namespace Sys2Proof.Machine

/-! ### SHA-384 -/

/-- Round constants. -/
def shaK : List Word :=
  [0x428A2F98D728AE22#64, 0x7137449123EF65CD#64, 0xB5C0FBCFEC4D3B2F#64, 0xE9B5DBA58189DBBC#64,
   0x3956C25BF348B538#64, 0x59F111F1B605D019#64, 0x923F82A4AF194F9B#64, 0xAB1C5ED5DA6D8118#64,
   0xD807AA98A3030242#64, 0x12835B0145706FBE#64, 0x243185BE4EE4B28C#64, 0x550C7DC3D5FFB4E2#64,
   0x72BE5D74F27B896F#64, 0x80DEB1FE3B1696B1#64, 0x9BDC06A725C71235#64, 0xC19BF174CF692694#64,
   0xE49B69C19EF14AD2#64, 0xEFBE4786384F25E3#64, 0x0FC19DC68B8CD5B5#64, 0x240CA1CC77AC9C65#64] ++
  [0x2DE92C6F592B0275#64, 0x4A7484AA6EA6E483#64, 0x5CB0A9DCBD41FBD4#64, 0x76F988DA831153B5#64,
   0x983E5152EE66DFAB#64, 0xA831C66D2DB43210#64, 0xB00327C898FB213F#64, 0xBF597FC7BEEF0EE4#64,
   0xC6E00BF33DA88FC2#64, 0xD5A79147930AA725#64, 0x06CA6351E003826F#64, 0x142929670A0E6E70#64,
   0x27B70A8546D22FFC#64, 0x2E1B21385C26C926#64, 0x4D2C6DFC5AC42AED#64, 0x53380D139D95B3DF#64,
   0x650A73548BAF63DE#64, 0x766A0ABB3C77B2A8#64, 0x81C2C92E47EDAEE6#64, 0x92722C851482353B#64] ++
  [0xA2BFE8A14CF10364#64, 0xA81A664BBC423001#64, 0xC24B8B70D0F89791#64, 0xC76C51A30654BE30#64,
   0xD192E819D6EF5218#64, 0xD69906245565A910#64, 0xF40E35855771202A#64, 0x106AA07032BBD1B8#64,
   0x19A4C116B8D2D0C8#64, 0x1E376C085141AB53#64, 0x2748774CDF8EEB99#64, 0x34B0BCB5E19B48A8#64,
   0x391C0CB3C5C95A63#64, 0x4ED8AA4AE3418ACB#64, 0x5B9CCA4F7763E373#64, 0x682E6FF3D6B2B8A3#64,
   0x748F82EE5DEFB2FC#64, 0x78A5636F43172F60#64, 0x84C87814A1F0AB72#64, 0x8CC702081A6439EC#64] ++
  [0x90BEFFFA23631E28#64, 0xA4506CEBDE82BDE9#64, 0xBEF9A3F7B2C67915#64, 0xC67178F2E372532B#64,
   0xCA273ECEEA26619C#64, 0xD186B8C721C0C207#64, 0xEADA7DD6CDE0EB1E#64, 0xF57D4F7FEE6ED178#64,
   0x06F067AA72176FBA#64, 0x0A637DC5A2C898A6#64, 0x113F9804BEF90DAE#64, 0x1B710B35131C471B#64,
   0x28DB77F523047D84#64, 0x32CAAB7B40C72493#64, 0x3C9EBE0A15C9BEBC#64, 0x431D67C49C100D4C#64,
   0x4CC5D4BECB3E42B6#64, 0x597F299CFC657E2A#64, 0x5FCB6FAB3AD6FAEC#64, 0x6C44198C4A475817#64]

/-- Initial hash value of SHA-384. -/
def shaH : List Word :=
  [0xCBBB9D5DC1059ED8#64, 0x629A292A367CD507#64, 0x9159015A3070DD17#64, 0x152FECD8F70E5939#64,
   0x67332667FFC00B31#64, 0x8EB44A8768581511#64, 0xDB0C2E0D64F98FA7#64, 0x47B5481DBEFA4FA4#64]

/-- The message schedule, newest word first, extended n times. -/
def shaSched (l : List Word) (n : Nat) : List Word :=
  match n with
  | 0 => l
  | k + 1 =>
    let a := l.getD 1 0#64
    let b := l.getD 14 0#64
    let s1 := a.rotateRight 19 ^^^ a.rotateRight 61 ^^^ (a >>> 6)
    let s0 := b.rotateRight 1 ^^^ b.rotateRight 8 ^^^ (b >>> 7)
    shaSched ((s1 + l.getD 6 0#64 + s0 + l.getD 15 0#64) :: l) k

/-- The eight working variables. -/
structure ShaSt where
  a : Word
  b : Word
  c : Word
  d : Word
  e : Word
  f : Word
  g : Word
  h : Word
deriving DecidableEq, Repr

/-- One round with a round constant and a schedule word. -/
def ShaSt.round (s : ShaSt) (k w : Word) : ShaSt :=
  let s1 := s.e.rotateRight 14 ^^^ s.e.rotateRight 18 ^^^ s.e.rotateRight 41
  let ch := (s.e &&& s.f) ^^^ (~~~s.e &&& s.g)
  let t1 := s.h + s1 + ch + k + w
  let s0 := s.a.rotateRight 28 ^^^ s.a.rotateRight 34 ^^^ s.a.rotateRight 39
  let maj := (s.a &&& s.b) ^^^ (s.a &&& s.c) ^^^ (s.b &&& s.c)
  ⟨t1 + (s0 + maj), s.a, s.b, s.c, s.d + t1, s.e, s.f, s.g⟩

/-- The words of a list, as the working variables. -/
def ShaSt.of (l : List Word) : ShaSt :=
  ⟨l.getD 0 0#64, l.getD 1 0#64, l.getD 2 0#64, l.getD 3 0#64, l.getD 4 0#64, l.getD 5 0#64, l.getD 6 0#64, l.getD 7 0#64⟩
/-- The working variables as a list. -/
def ShaSt.words (s : ShaSt) : List Word := [s.a, s.b, s.c, s.d, s.e, s.f, s.g, s.h]

/-- A number from bytes, the highest first. -/
def ofBytesBE (bs : List Byte) : Nat := bs.foldl (fun acc b => 256 * acc + b.toNat) 0
/-- n bytes of a number, the highest first. -/
def beBytes (n v : Nat) : List Byte := (leBytes n v).reverse

/-- One block of 128 bytes. -/
def shaBlock (h : List Word) (bs : List Byte) : List Word :=
  let w := (List.range 16).map (fun k => BitVec.ofNat 64 (ofBytesBE ((bs.drop (8 * k)).take 8)))
  let s := (List.zip shaK (shaSched w.reverse 64).reverse).foldl (fun s p => s.round p.1 p.2) (ShaSt.of h)
  List.zipWith (· + ·) h s.words

/-- Blocks one after the other. -/
def shaBlocks (h : List Word) (bs : List Byte) (n : Nat) : List Word :=
  match n with
  | 0 => h
  | k + 1 => shaBlocks (shaBlock h (bs.take 128)) (bs.drop 128) k

/-- SHA-384 of bytes: 48 bytes. -/
def sha384 (bs : List Byte) : List Byte :=
  let zeros := (128 - (bs.length + 17) % 128) % 128
  let padded := bs ++ [0x80#8] ++ List.replicate zeros 0#8 ++ beBytes 16 (8 * bs.length)
  ((shaBlocks shaH padded (padded.length / 128)).take 6).flatMap (fun w => beBytes 8 w.toNat)

/-! ### ECDSA over P-384 -/

/-- The prime of the field. -/
def ecP : Nat := 2 ^ 384 - 2 ^ 128 - 2 ^ 96 + 2 ^ 32 - 1
/-- The order of the base point. -/
def ecN : Nat := 0xFFFFFFFFFFFFFFFFFFFFFFFFFFFFFFFFFFFFFFFFFFFFFFFFC7634D81F4372DDF581A0DB248B0A77AECEC196ACCC52973
/-- The coefficient b; a is −3. -/
def ecB : Nat := 0xB3312FA7E23EE7E4988E056BE3F82D19181D9C6EFE8141120314088F5013875AC656398D8A2ED19D2A85C8EDD3EC2AEF
/-- The base point. -/
def ecG : Nat × Nat :=
  (0xAA87CA22BE8B05378EB1C71EF320AD746E1D3B628BA79B9859F741E082542A385502F25DBF55296C3A545E3872760AB7,
   0x3617DE4A96262C6F5D9E98BF9292DC29F8F41DBD289A147CE9DA3113B5F0B8C00A60B1CE1D7E819D7A431D7C90EA0E5F)

/-- x^e modulo m by squaring, over the low n bits of e. -/
def powMod (m x e n : Nat) : Nat :=
  match n with
  | 0 => 1 % m
  | k + 1 =>
    let r := powMod m (x * x % m) (e / 2) k
    if e % 2 = 1 then r * x % m else r
/-- The inverse modulo a prime. -/
def invMod (m x : Nat) : Nat := powMod m (x % m) (m - 2) 384
/-- A point of the curve; none is the point at infinity. -/
abbrev EcPt := Option (Nat × Nat)
/-- Point addition. -/
def ecAdd (p q : EcPt) : EcPt :=
  match p, q with
  | none, q => q
  | p, none => p
  | some (x1, y1), some (x2, y2) =>
    if x1 = x2 ∧ (y1 + y2) % ecP = 0 then none
    else
      let l := if x1 = x2 then (3 * x1 * x1 + ecP - 3) * invMod ecP (2 * y1) % ecP
        else (y2 + ecP - y1) * invMod ecP (x2 + ecP - x1) % ecP
      let x := (l * l + 2 * ecP - x1 - x2) % ecP
      some (x, (l * (x1 + ecP - x) + ecP - y1) % ecP)
/-- A multiple of a point, over the low n bits of k. -/
def ecMul (p : EcPt) (k n : Nat) : EcPt :=
  match n with
  | 0 => none
  | m + 1 =>
    let r := ecMul (ecAdd p p) (k / 2) m
    if k % 2 = 1 then ecAdd r p else r
/-- A public key on the curve. -/
def ecOn (x y : Nat) : Bool :=
  decide (x < ecP) && decide (y < ecP) && (y * y % ecP == (x * x % ecP * x + (ecP - 3) * x + ecB) % ecP)
/-- The signature (r, s) of a digest verifies under a key. -/
def ecdsaOk (digest : Nat) (x y r s : Nat) : Bool :=
  if ecOn x y && decide (0 < r) && decide (r < ecN) && decide (0 < s) && decide (s < ecN) then
    let i := invMod ecN s
    match ecAdd (ecMul (some ecG) (digest * i % ecN) 384) (ecMul (some (x, y)) (r * i % ecN) 384) with
    | some (v, _) => v % ecN == r
    | none => false
  else false

end Sys2Proof.Machine
end

