-- ==== Sys2Proof/Machine/Kernel.lean ====
section
/-!
DEFINITION. Kernels (11 R316-R337, R342): code objects and their manifests, LOAD and UNLOAD, write protection, page
verification, `kinfo`.
-/

namespace Sys2Proof.Machine

/-- Kernel command statuses (R322). -/
def sBadObject : Nat := 0x10
def sSignature : Nat := 0x11
def sProfile : Nat := 0x12
def sPlacement : Nat := 0x13

/-- A kernel slot of a context. -/
def Ctx.kernel (k : Ctx) (n : Nat) : Kernel := k.kernels.get n {}
/-- A kernel slot changed. -/
def Dev.modKernel (d : Dev) (c n : Nat) (f : Kernel → Kernel) : Dev :=
  d.modCtx c (fun k => { k with kernels := k.kernels.set n (f (k.kernel n)) })
/-- The handle of a kernel slot (R316). -/
def Kernel.handle (x : Kernel) (n : Nat) : Nat := n % 2 ^ 8 + x.lgen % 2 ^ 32 * 2 ^ 8
/-- Loader-only placement is selected (13 R368, R336). -/
def Dev.loaderOnly (d : Dev) (c : Nat) : Bool := (d.bctl c).getLsbD 26
/-- Code pages (R318). -/
def Kernel.pages (x : Kernel) : Nat := x.codeLen / 2 ^ 14

/-! ### The header (R317) -/

/-- The words of a header. -/
def hdrWord (bs : List Byte) (o : Nat) : Nat := ofBytes ((bs.drop o).take 8)
/-- A field of a number. -/
def nbits (x hi lo : Nat) : Nat := x / 2 ^ lo % 2 ^ (hi + 1 - lo)
/-- Tag field widths of a header. -/
def hdrWidths (bs : List Byte) : List Nat := ((bs.drop 0x28).take 8).map (fun b => b.toNat)

/-- MAGIC, format, a field out of range, or a nonzero reserved field (R322). -/
def badHeader (base : Nat) (bs : List Byte) : Bool :=
  let w0 := hdrWord bs 0
  let w1 := hdrWord bs 8
  let len := hdrWord bs 0x10
  let entry := hdrWord bs 0x18
  let w4 := hdrWord bs 0x20
  let n := nbits w4 27 24
  let ws := hdrWidths bs
  let dat := hdrWord bs 0x38
  let dlen := hdrWord bs 0x40
  let man := hdrWord bs 0x48
  let w10 := hdrWord bs 0x50
  nbits w0 31 0 != 0x5A4F4649 || nbits w0 63 32 != 1 || nbits w1 63 48 != 0 || nbits w1 31 17 != 0 ||
    len % 2 ^ 14 != 0 || decide (len < 2 ^ 14) || decide (2 ^ 26 < len) || entry % 256 != 0 || decide (len ≤ entry) ||
    !([16, 32, 64].contains (nbits w4 7 0)) || decide (128 < nbits w4 15 8) || nbits w4 18 16 == 0 ||
    decide (3 < nbits w4 18 16) || nbits w4 23 19 != 0 || n == 0 || decide (8 < n) || nbits w4 63 28 != 0 ||
    !(ws.take n).all (fun w => decide (4 ≤ w) && decide (w ≤ 64)) || !(ws.drop n).all (fun w => w == 0) ||
    decide (64 < (ws.take n).sum) || decide (2 ^ 21 < hdrWord bs 0x30) ||
    (dat == 0 && dlen != 0) || decide (len < dat + dlen) || decide (man < len) ||
    decide (2 ^ 57 ≤ base + man + 0x70 + 48 * (len / 2 ^ 14) + 96) ||
    nbits w10 63 16 != 0 || !(bs.drop 0x58).all (fun b => b == 0#8)

/-- The kernel record that a header gives, beside what LOAD has put in the slot. -/
def Kernel.ofHeader (x : Kernel) (bs : List Byte) : Kernel :=
  let w1 := hdrWord bs 8
  let w4 := hdrWord bs 0x20
  { x with
    req := BitVec.ofNat 16 w1, expand := BitVec.ofNat 16 (w1 / 2 ^ 16), expandable := BitVec.ofNat 16 (w1 / 2 ^ 32),
    codeLen := hdrWord bs 0x10, entry := x.base + hdrWord bs 0x18, regs := nbits w4 7 0, nv := nbits w4 15 8,
    form := nbits w4 18 16, tagWidths := (hdrWidths bs).take (nbits w4 27 24), scratch := hdrWord bs 0x30,
    manifest := hdrWord bs 0x48, geometry := nbits (hdrWord bs 0x50) 15 0 }

/-- Bytes of a manifest (R318). -/
def manifestLen (n : Nat) : Nat := 0x70 + 48 * n + 96

/-- The end of the last page that the manifest of a kernel touches. -/
def Kernel.manifestEnd (x : Kernel) : Nat := pageOf (x.base + x.manifest + manifestLen x.pages + 2 ^ 14 - 1)

/-- What the checks of a LOADING kernel find (R322-R323, R325): the kernel, or a status. -/
def W.loadChecks (w : W) (c : Nat) (x : Kernel) : Except Nat Kernel × W :=
  match w.readHome c 0 x.base 256 with
  | (.ok bs, w) =>
    if badHeader x.base bs then (.error sBadObject, w)
    else
      let k := x.ofHeader bs
      let n := k.pages
      match w.readHome c 0 (x.base + k.manifest) (manifestLen n) with
      | (.ok ms, w) =>
        let key := (ms.drop (8 + 48 * n)).take 97
        let sig := ms.drop (0x70 + 48 * n)
        let digest := ofBytesBE (sha384 (bs ++ (ms.drop 8).take (48 * n)))
        let good := ofBytes (ms.take 8) == n && key.headD 0#8 == 4#8 && (((ms.drop (8 + 48 * n + 97)).take 7).all (fun b => b == 0#8)) &&
          ecdsaOk digest (ofBytesBE ((key.drop 1).take 48)) (ofBytesBE ((key.drop 49).take 48)) (ofBytesBE (sig.take 48))
            (ofBytesBE ((sig.drop 48).take 48))
        if !good then (.error sSignature, w)
        else if k.req &&& ~~~k.expandable &&& ~~~Config.profiles != 0#16 then (.error sProfile, w)
        else if w.d.loaderOnly c && (k.form != 1 || k.geometry != 1) then (.error sPlacement, w)
        else (.ok { k with signer := BitVec.ofNat 384 (ofBytesBE (sha384 key)), st := .resident }, w)
      | (_, w) => (.error sBadObject, w)
  | (_, w) => (.error sBadObject, w)

/-- LOAD (R322-R325): a slot is taken, and the pages of the object, manifest included, are write-protected (R324). -/
def execLoad (cmd : CmdRec) (s : State) : Host.Outcome State Fault Refusal :=
  run (command objectStates (fun w c cmd =>
    let base := cmd.a2.toNat
    if base % 2 ^ 14 ≠ 0 ∨ 2 ^ 57 ≤ base ∨ cmd.a3.toNat % 256 ≠ 0 ∨ 2 ^ 57 ≤ cmd.a3.toNat ∨ 65535 < cmd.a4.toNat then
      w.finish c cmd sBadArgument 0
    else
      match (List.range 256).find? (fun n => ((w.d.ctx c).kernel n).st == .unloaded) with
      | none => w.finish c cmd sNoResource 0
      | some n =>
        let r := w.readHome c 0 base 256
        let w := r.2
        let len := match r.1 with | .ok bs => if badHeader base bs then 2 ^ 14 else hdrWord bs 0x10 | _ => 2 ^ 14
        let man := match r.1 with | .ok bs => if badHeader base bs then 0 else hdrWord bs 0x48 | _ => 0
        let mlo := (base + man) / 2 ^ 14 * 2 ^ 14
        let mhi := (base + man + manifestLen (len / 2 ^ 14) + 2 ^ 14 - 1) / 2 ^ 14 * 2 ^ 14
        let lgen := ((w.d.ctx c).kernel n).lgen % (2 ^ 32 - 1) + 1
        let x : Kernel := { st := .loading, lgen := lgen, base := base, poolBase := cmd.a3.toNat, poolSize := cmd.a4.toNat,
                            owes := [cmd] }
        let d := w.d.modKernel c n (fun _ => x)
        { w with d := { d with wprot := d.wprot ++ [(c, n, base, len), (c, n, mlo, mhi - mlo)] } }) cmd) s

/-- Commands that a kernel owes complete. -/
def W.owed (w : W) (c n status : Nat) : W :=
  let x := (w.d.ctx c).kernel n
  let w := { w with d := w.d.modKernel c n (fun x => { x with owes := [] }) }
  x.owes.foldl (fun w cmd => w.finish c cmd status (if status = sDone then x.handle n else 0)) w

/-- A kernel enters UNLOADED (R327): its placements are invalidated on every grid, then its write protection is lifted. -/
def Dev.unloadKernel (d : Dev) (c n : Nat) : Dev :=
  let h := BitVec.ofNat 64 (((d.ctx c).kernel n).handle n)
  let mine := fun (e : CacheEnt) => e.kernel == h && (match d.ctxs.look c with | some k => k.parcel.length != 0 | none => false)
  let d := (d.ctx c).parcel.foldl (fun (d : Dev) g => d.modGrid g (fun gr => { gr with cache := gr.cache.filter (fun e => !mine e) })) d
  let strip := fun (f : Field) => { f with fills := f.fills.filter (fun q => !(q.2.ctx == c && q.2.kernel == h)) }
  let d : Dev := { d with
    fields := d.fields.map (fun (f : Nat × Field) => (f.1, strip f.2)),
    verifs := d.verifs.filter (fun v => !(v.ctx == c && v.kslot == n)),
    wprot := d.wprot.filter (fun p => !(p.1 == c && p.2.1 == n)) }
  d.modKernel c n (fun x => { lgen := x.lgen, owes := x.owes })

/-- Groups of a kernel that are dispatched and not retired. -/
def Dev.liveGroups (d : Dev) (c : Nat) (h : Word) : List Group :=
  d.groups.filter (fun g => g.ctx == c && g.handle == h && (g.st == .dispatched || g.st == .running || g.st == .draining))
/-- Launches of a kernel that are queued: records in launch queues, and formed groups that wait. -/
def W.queuedLaunches (w : W) (c : Nat) (h : Word) : Nat :=
  let k := w.d.ctx c
  let inQueue := k.queues.foldl (fun n q =>
    if q.2.kind = 1 ∧ (q.2.st = .opened ∨ q.2.st = .draining) then
      n + (q.2.live.filter (fun i => BitVec.ofNat 64 (w.g64 c (q.2.entry i)) == h)).length
    else n) 0
  inQueue + (w.d.groups.filter (fun g => g.ctx == c && g.handle == h && (g.st == .gated || g.st == .queued))).length

/-- A kernel that drains and has no live group enters UNLOADED, and UNLOAD completes; one that is ACTIVE with no group and no
queued launch goes back to RESIDENT (R325). -/
def W.settleKernel (w : W) (c n : Nat) : W :=
  let x := (w.d.ctx c).kernel n
  let h := BitVec.ofNat 64 (x.handle n)
  if !(w.d.liveGroups c h).isEmpty then w
  else if x.draining && (x.st == .active || x.st == .tainted) then
    let owes := x.owes
    let w := { w with d := w.d.unloadKernel c n }
    let w := { w with d := w.d.modKernel c n (fun x => { x with owes := [] }) }
    owes.foldl (fun w cmd => w.finish c cmd sDone h.toNat) w
  else if x.st = .active ∧ w.queuedLaunches c h = 0 then { w with d := w.d.modKernel c n (fun x => { x with st := .resident }) }
  else w

/-- LOAD_CHECKS_COMPLETE (R325): kernel slot `b` of context `a`. -/
def execLoadChecksComplete (s : State) : Host.Outcome State Fault Refusal :=
  run (fun w =>
    let c := w.d.arg.a % 4096
    let n := w.d.arg.b % 256
    let x := (w.d.ctx c).kernel n
    if x.st ≠ .loading then w
    else
      match w.loadChecks c x with
      | (.ok k, w) => W.owed { w with d := w.d.modKernel c n (fun _ => k) } c n sDone
      | (.error st, w) =>
        let owes := x.owes
        let w := { w with d := (w.d.unloadKernel c n).modKernel c n (fun x => { x with owes := [] }) }
        owes.foldl (fun w cmd => w.finish c cmd st 0) w) s

/-- UNLOAD (R325-R327): RESIDENT unloads at once; ACTIVE or TAINTED drains, and the command completes at UNLOADED. Formed
groups that wait complete with KERNEL (13 R373). -/
def execUnload (cmd : CmdRec) (s : State) : Host.Outcome State Fault Refusal :=
  run (command objectStates (fun w c cmd =>
    match (w.d.ctx c).kernelOf cmd.a2 with
    | none => w.finish c cmd sStale 0
    | some (n, x) =>
      let w := if x.st = .loading then w else w.dropGroups c lKernel (fun g => g.handle == cmd.a2)
      match x.st with
      | .resident =>
        let w := { w with d := w.d.unloadKernel c n }
        w.finish c cmd sDone cmd.a2.toNat
      | .active => W.settleKernel { w with d := w.d.modKernel c n (fun x => { x with draining := true, owes := x.owes ++ [cmd] }) } c n
      | .tainted => W.settleKernel { w with d := w.d.modKernel c n (fun x => { x with draining := true, owes := x.owes ++ [cmd] }) } c n
      | _ => w.finish c cmd sBadState 0) cmd) s

/-! ### Page verification (R332-R333) -/

/-- A kernel enters TAINTED; formed groups of it that wait complete with KERNEL (R326, 13 R373). -/
def W.taint (w : W) (c n page : Nat) : W :=
  let x := (w.d.ctx c).kernel n
  let h := BitVec.ofNat 64 (x.handle n)
  let w := { w with d := w.d.modKernel c n (fun (x : Kernel) => { x with
    st := (if x.st == KState.resident || x.st == KState.active then KState.tainted else x.st), failed := x.failed ++ [page] }) }
  w.dropGroups c lKernel (fun g => g.handle == h)

/-- CODE_PAGE_VERIFICATION (R332-R333): page `c` of kernel slot `b` of context `a`. Its SHA-384 is compared with its digest of
the manifest; the fills that wait on it go on. A page that cannot be read fails. -/
def execCodePageVerification (s : State) : Host.Outcome State Fault Refusal :=
  run (fun w =>
    let v : Verif := ⟨w.d.arg.a, w.d.arg.b, w.d.arg.c⟩
    if !w.d.verifs.contains v then w
    else
      let x := (w.d.ctx v.ctx).kernel v.kslot
      let r := w.readHome v.ctx 0 (x.base + 2 ^ 14 * v.page) (2 ^ 14)
      let q := r.2.readHome v.ctx 0 (x.base + x.manifest + 8 + 48 * v.page) 48
      let w := q.2
      let same := match r.1, q.1 with
        | .ok bs, .ok dg => sha384 bs == dg
        | _, _ => false
      let w := { w with d := { w.d with verifs := w.d.verifs.erase v } }
      let w := { w with d := w.d.modKernel v.ctx v.kslot (fun x => { x with
        verifying := x.verifying.erase v.page, verified := if same then x.verified ++ [v.page] else x.verified }) }
      let w := if same then w else w.taint v.ctx v.kslot v.page
      let go := fun (f : Fill) =>
        if f.ctx = v.ctx ∧ bits f.kernel 7 0 = v.kslot ∧ f.waitPage = some v.page then { f with waitPage := none } else f
      { w with d := { w.d with fields := w.d.fields.map (fun f => (f.1, { f.2 with fills := f.2.fills.map (fun p => (p.1, go p.2)) })) } }) s

/-! ### `kinfo` (R342) -/

/-- Private pool entries that threads of a kernel hold (R331). -/
def Dev.poolTaken (d : Dev) (c : Nat) (h : Word) : List Nat :=
  d.threads.filterMap (fun t =>
    if t.2.ctx = c ∧ t.2.ended = false ∧ (match d.group c t.2.gid with | some g => g.handle == h | none => false) = true then
      t.2.poolEntry
    else none)
/-- STATE of a kernel. -/
def kstateCode (s : KState) : Nat :=
  match s with
  | .loading => 1 | .resident => 2 | .active => 3 | .tainted => 4 | .unloaded => 5
/-- An item of `kinfo`. -/
def W.kinfoItem (w : W) (c : Nat) (h : Word) (item : Nat) : Nat :=
  match (w.d.ctx c).kernelOf h with
  | none => 0
  | some (_, x) =>
    match item with
    | 0 => kstateCode x.st + (if x.draining then 8 else 0)
    | 1 => h.toNat
    | 2 => x.req.toNat + x.expand.toNat * 2 ^ 16
    | 3 => x.nv + x.regs * 2 ^ 8 + x.tagWidths.length * 2 ^ 16 + x.scratch % 2 ^ 32 * 2 ^ 32
    | 4 => x.entry
    | 5 => (w.d.liveGroups c h).length % 2 ^ 16 + w.queuedLaunches c h % 2 ^ 16 * 2 ^ 16
    | 6 => x.verified.length + x.pages * 2 ^ 16 + x.failed.length * 2 ^ 32
    | _ => (x.poolSize - (w.d.poolTaken c h).length) + x.poolSize * 2 ^ 16
/-- KINFO (R342): the kernel of lane 0 of `a`, or the thread's own. -/
def execKinfo (f : FmtQ) (s : State) : Host.Outcome State Fault Refusal :=
  runR (fireQ (.kinfo f) fun w c t =>
    let h := if c.ops.a.isSome then c.ops.a0 else w.d.kernelOf t
    w.d.answer c [] (both f.t0 f.t1 (splat64 (BitVec.ofNat 64 (w.kinfoItem t.ctx h f.sub.toNat))))) s

end Sys2Proof.Machine
end

