-- ==== Sys2Proof/Machine/MoveOps.lean ====
section
/-!
DEFINITION. Compare, select, moves, constants, lane moves and the reading of special registers, opcodes 0x20 to 0x2F
(05 R128-R142).
-/

namespace Sys2Proof.Machine

/-- A predicate token of the lanes of TY to both targets. -/
def prOut (f : FmtG) (l : List Bool) : Out := both f.t0 f.t1 (prTok (laneCount f.ty) (ofBits l))

/-- Conditions of `cmp` (R128). -/
def cmpHolds (cond : Nat) (a b : Int) : Bool :=
  match cond with
  | 0 => decide (a = b) | 1 => decide (a ≠ b) | 2 => decide (a < b) | 3 => decide (a ≤ b) | 4 => decide (b < a)
  | _ => decide (b ≤ a)

/-- CMP (R128): the immediate is X[17:4]. -/
def execCmp (f : FmtG) (s : State) : Host.Outcome State Fault Refusal :=
  runD (fire (.cmp f) fun o =>
    let n := tyBits f.ty
    prOut f ((List.range (512 / n)).map (fun k =>
      cmpHolds (bits f.x 3 0) (num f.ty (lane n o.va k)) (num f.ty (bLane f 17 4 o.vb k))))) s

/-- Conditions of `fcmp` with the flag each raises (R129). -/
def fcmpLane (cond : Nat) (a b : FVal) : Bool × BitVec 6 :=
  let un := a.isNan || b.isNan
  let quiet := snanFlag [a, b]
  let strict : BitVec 6 := if un then fNV else 0#6
  match cond with
  | 0 => (!un && fCmp a b == 0, quiet)
  | 1 => (un || fCmp a b != 0, quiet)
  | 2 => (!un && decide (fCmp a b < 0), strict)
  | 3 => (!un && decide (fCmp a b ≤ 0), strict)
  | 4 => (!un && decide (0 < fCmp a b), strict)
  | 5 => (!un && decide (0 ≤ fCmp a b), strict)
  | 6 => (un, quiet)
  | _ => (!un, quiet)

/-- FCMP (R129): FZI applies to both operands. -/
def execFcmp (f : FmtG) (s : State) : Host.Outcome State Fault Refusal :=
  runD (fire (.fcmp f) fun o =>
    let fzi := f.fzi == 1#1
    let r := (List.range (laneCount f.ty)).map (fun k =>
      fcmpLane (bits f.x 3 0) (readF f.ty fzi none o.va k) (readF f.ty fzi none o.vb k))
    { prOut f (r.map Prod.fst) with flags := joinFlags (r.map Prod.snd) }) s

/-- SEL (R130): lane by lane by bit k of `c`. -/
def execSel (f : FmtG) (s : State) : Host.Outcome State Fault Refusal :=
  runD (fire (.sel f) fun o =>
    let n := tyBits f.ty
    both f.t0 f.t1 (ofLanes n ((List.range (512 / n)).map (fun k =>
      if o.vc.getLsbD k then lane n o.va k else lane n o.vb k)))) s

/-- MOV (R132): the token unchanged. -/
def execMov (f : FmtG) (s : State) : Host.Outcome State Fault Refusal :=
  runD (fire (.mov f) fun o => both f.t0 f.t1 o.va) s

/-- The lane value of `movi` (R134). -/
def moviLane (f : FmtI) : Nat :=
  match f.ty.toNat with
  | 8 => bits f.imm 15 0 | 9 => bits f.imm 15 0
  | 10 => bits f.imm 31 0
  | 11 => bits f.imm 31 0 * 2 ^ 32
  | 12 => bits f.imm 7 0
  | _ => wrap (tyBits f.ty) (sbits f.imm 34 0)

/-- MOVI (R134): every lane, or the bits of a predicate. -/
def execMovi (f : FmtI) (s : State) : Host.Outcome State Fault Refusal :=
  runD (fire (.movi f) fun _ =>
    { toks := [(f.t0, .val (if f.ty = 15#4 then f.imm.setWidth 512
        else ofLanes (tyBits f.ty) (List.replicate (laneCount f.ty) (moviLane f))))] }) s

/-- MOVHI (R135). -/
def execMovhi (f : FmtI) (s : State) : Host.Outcome State Fault Refusal :=
  runD (fire (.movhi f) fun o =>
    { toks := [(f.t0, .val (if f.ty = 15#4 then BitVec.ofNat 512 (o.va.toNat % 2 ^ 35 + bits f.imm 28 0 * 2 ^ 35)
        else ofLanes 64 ((List.range 8).map (fun k => bits f.imm 31 0 * 2 ^ 32 + lane 64 o.va k % 2 ^ 32))))] }) s

/-- NULL (R133): a null to both targets; `a` is optional and may hold anything. -/
def execNull (f : FmtG) (s : State) : Host.Outcome State Fault Refusal :=
  runD (fire (.null f) fun _ => { toks := [(f.t0, .null), (f.t1, .null)] }) s

/-- Bits 0 to L − 1 of a predicate operation (R131). -/
def prBits (f : FmtG) (v : Vec) : Out := both f.t0 f.t1 (prTok (laneCount f.ty) v.toNat)

/-- PAND (R131). -/
def execPand (f : FmtG) (s : State) : Host.Outcome State Fault Refusal :=
  runD (fire (.pand f) fun o => prBits f (o.va &&& o.vb)) s
/-- POR (R131). -/
def execPor (f : FmtG) (s : State) : Host.Outcome State Fault Refusal :=
  runD (fire (.por f) fun o => prBits f (o.va ||| o.vb)) s
/-- PNOT (R131). -/
def execPnot (f : FmtG) (s : State) : Host.Outcome State Fault Refusal :=
  runD (fire (.pnot f) fun o => prBits f (~~~o.va)) s

/-- LANE (R136): X[15:0] + k. -/
def execLane (f : FmtG) (s : State) : Host.Outcome State Fault Refusal :=
  runD (fire (.lane f) fun _ =>
    both f.t0 f.t1 (ofLanes (tyBits f.ty) ((List.range (laneCount f.ty)).map (fun k => bits f.x 15 0 + k)))) s

/-- BCAST (R138). -/
def execBcast (f : FmtG) (s : State) : Host.Outcome State Fault Refusal :=
  runD (fire (.bcast f) fun o =>
    let n := tyBits f.ty
    both f.t0 f.t1 (ofLanes n (List.replicate (512 / n) (lane n o.va (laneIdx f o.vb))))) s

/-- EXTL (R138): lane 0 := a lane j, the others zero. -/
def execExtl (f : FmtG) (s : State) : Host.Outcome State Fault Refusal :=
  runD (fire (.extl f) fun o =>
    let n := tyBits f.ty
    both f.t0 f.t1 (ofLanes n [lane n o.va (laneIdx f o.vb)])) s

/-- INSL (R138): a with lane j := b lane 0. -/
def execInsl (f : FmtG) (s : State) : Host.Outcome State Fault Refusal :=
  runD (fire (.insl f) fun o =>
    let n := tyBits f.ty
    both f.t0 f.t1 (ofLanes n ((lanes n o.va).set (laneIdx f o.vc) (lane n o.vb 0)))) s

/-! ### Tag and special registers -/

/-- TAGRD (R137): the whole tag, or one field of it, in every lane. -/
def execTagrd (f : FmtG) (s : State) : Host.Outcome State Fault Refusal :=
  runD (fun d =>
    match d.firing with
    | none => d
    | some c =>
      let ws := match d.thr c.x.thr with
        | some t => d.tagWidths t
        | none => List.replicate 8 8
      let v := if bits f.x 3 3 = 1 then c.x.tag.toNat else tagField ws c.x.tag.toNat (bits f.x 2 0)
      d.emit c (outcome (.tagrd f) c.ops fun _ =>
        both f.t0 f.t1 (ofLanes (tyBits f.ty) (List.replicate (laneCount f.ty) v)))) s

/-- Next (R142): the generator's next state. -/
def prngNext (s : Word) : Word :=
  let s := s ^^^ (s <<< 13)
  let s := s ^^^ (s >>> 7)
  s ^^^ (s <<< 17)

/-- LIMIT of a field: 1,000 A at reset (23 R513). -/
def Mgmt.limit (m : Mgmt) (f : Nat) : Nat := m.ilim.get f 1000

/-- The content of a special register that a thread reads (R140); `prng` gives Next of its state. -/
def specialReg (d : Dev) (m : Mgmt) (t : Thread) (num : Nat) : Word :=
  match num with
  | 0x00 => BitVec.ofNat 64 t.tnum
  | 0x01 => BitVec.ofNat 64 (t.gid % 2 ^ 32)
  | 0x02 => d.ident t.ctx
  | 0x03 => BitVec.ofNat 64 t.first
  | 0x04 => BitVec.ofNat 64 t.width
  | 0x05 => BitVec.ofNat 64 (match t.slots with | (_, k) :: _ => k | [] => 0)
  | 0x06 => BitVec.ofNat 64 d.now
  | 0x07 => BitVec.ofNat 64 (d.cycles (fieldOf t.first))
  | 0x08 => t.flags
  | 0x09 => BitVec.ofNat 64 (m.limit (fieldOf t.first) % 2 ^ 11)
  | 0x0A => BitVec.ofNat 64 (m.imeas.get (fieldOf t.first) 0 % 2 ^ 11)
  | 0x0B => prngNext t.prng
  | 0x0C => BitVec.ofNat 64 (d.ctx t.ctx).wdog
  | 0x0D => if (d.ctx t.ctx).undoEn then 1#64 else 0#64
  | _ => 0#64

/-- GETSR (R139-R142): `flags` and `prng` only when the instance is the oldest uncommitted of its thread; the commit of the
instance stores the value of `prng` that it read. -/
def execGetsr (f : FmtG) (s : State) : Host.Outcome State Fault Refusal :=
  runR (fun w =>
    match w.d.firing with
    | none => w.d
    | some c =>
      match w.d.thr c.x.thr with
      | none => w.d
      | some t =>
        let num := bits f.x 7 0
        if (num == 8 || num == 0x0B) && !w.d.isOldest c.x then w.d
        else
          let v := specialReg w.d w.g t num
          let took := num == 0x0B && c.ops.holds f.pr
          let c' := if took then { c with x := { c.x with prngNew := some v } } else c
          w.d.emit c' (outcome (.getsr f) c.ops fun _ => both f.t0 f.t1 (splat64 v))) s

end Sys2Proof.Machine
end

