-- ==== Sys2Proof/Machine/Group.lean ====
section
/-!
DEFINITION. Groups (13 R366-R394): forming groups from launch records, gates, the dispatch choice and placements, thread start,
retirement; deques, events, and their instructions.
-/

namespace Sys2Proof.Machine

/-! ### Forming groups (R371-R374, 10 R305) -/

/-- The number that stands for the handler queue of a context. -/
def handlerQueue : Nat := 1024
/-- Width of a launch record's threads. -/
def Group.width (g : Group) : Nat := 2 ^ bits (vlane g.rcd 1) 10 8
/-- Registers of a launch record's threads. -/
def Group.regCnt (g : Group) : Nat := 16 * 2 ^ bits (vlane g.rcd 1) 13 12
/-- PRIO of a launch record. -/
def Group.prio (g : Group) : Nat := bits (vlane g.rcd 1) 18 16
/-- A group formed and not dispatched. -/
def Group.waiting (g : Group) : Bool := g.st == .gated || g.st == .queued
/-- Formed groups of a queue; the handler queue's number is `handlerQueue`. -/
def Dev.formedOf (d : Dev) (c q : Nat) : List Group :=
  d.groups.filter (fun g => g.ctx == c && g.waiting && g.queue.getD handlerQueue == q)
/-- Formed groups of a field. -/
def Dev.formedIn (d : Dev) (f : Nat) : Nat := (d.groups.filter (fun g => g.waiting && (d.ctx g.ctx).home == f)).length


/-- A group identifier that no live group of the context has (R373). -/
def Dev.newGid (d : Dev) (c : Nat) (fuel : Nat) : Nat × Dev :=
  let n := d.gidNext % 2 ^ 32
  let d' := { d with gidNext := (n + 1) % 2 ^ 32 }
  match fuel with
  | 0 => (n, d')
  | k + 1 => if n = 0 ∨ (d.group c n).isSome = true then Dev.newGid d' c k else (n, d')

/-- A group formed from a record: GATED, or QUEUED with its gates open. -/
def Dev.form (d : Dev) (g : Group) : Dev :=
  let n := d.newGid g.ctx 4096
  let d := { n.2 with groups := n.2.groups ++ [{ g with gid := n.1, st := .gated, since := n.2.cycle, order := n.2.nextId }],
                      nextId := n.2.nextId + 1 }
  if (d.ctx g.ctx).gatesOpen g.rcd then d.enqueue g.ctx n.1 else d

/-- The record of a handler launch (10 R305): the handler kernel, one thread of width 1 with the header's registers at the
context's ceiling, and the record handle as its argument. -/
def Dev.handlerRecord (d : Dev) (c : Nat) (rec : Word) (k : Kernel) : Vec :=
  let regs := if k.regs ≤ 16 then 0 else if k.regs ≤ 32 then 1 else 2
  vecOf [(d.ctx c).cfg.getD 1 0#64, BitVec.ofNat 64 (1 + regs * 2 ^ 12 + bits (d.bctl c) 2 0 * 2 ^ 16), rec]

/-- The dispatcher may remove a record of a queue (R371). -/
def Dev.removable (d : Dev) (c q : Nat) : Bool :=
  (d.ctx c).st == .running && decide ((d.formedOf c q).length < 4) && decide (d.formedIn (d.ctx c).home < 512)

/-- The handler queue of a context served (10 R305). DESIGN CHOICE: where the handler kernel can get no group any more, the fault
counts as one that is not routed, and freezes the context (10 R304, log 90). -/
def W.removeHandler (w : W) (c : Nat) : W :=
  match (w.d.ctx c).handlerQ with
  | [] => w
  | (rec, _) :: rest =>
    let h := (w.d.ctx c).cfg.getD 1 0#64
    let d := w.d.modCtx c (fun k => { k with handlerQ := rest })
    match (d.ctx c).kernelOf h, (d.ctx c).handlerOn with
    | some (_, k), true =>
      { w with d := d.form { ctx := c, gid := 0, st := .gated, rcd := d.handlerRecord c rec k, queue := none, qhandle := 0#64, order := 0,
                             rev := 0, since := 0, level := 0, handle := h } }
    | _, _ =>
      let e := bits rec 5 0
      match (d.ctx c).frecs.look e with
      | none => { w with d := d }
      | some r =>
        let d := d.modCtx c (fun k => { k with frecs := k.frecs.set e { r with routed := false } })
        W.freeze { w with d := d } c (fcause r.cause) (some rec)

/-- The record at the head of a launch queue removed and validated (R371): INVALID, then KERNEL, else a group is formed. -/
def W.removeRecord (w : W) (c n : Nat) : W :=
  let q := (w.d.ctx c).queue n
  match q.live with
  | [] => w
  | i :: _ =>
    match w.readHome c 0 (q.entry i) 64 with
    | (.ecc, w) => w.queueFault c n
    | (.ok bs, w) =>
      let rcd := vecOfBytes bs
      let h := vlane rcd 0
      let issuer := q.issuers.look i
      let rev := q.revs.get i 0
      let w := { w with d := w.d.qRemove c n i }
      let k := (w.d.ctx c).kernelOf h
      let regs := match k with | some (_, k) => k.regs | none => 16
      if badLaunch rcd regs issuer.isNone then w.completeRecord c issuer rcd lInvalid 0
      else
        (match k with
          | some (_, k) =>
            if k.usable then
              { w with d := w.d.form { ctx := c, gid := 0, st := .gated, rcd := rcd, queue := some n, qhandle := BitVec.ofNat 64 (q.handle n),
                                       qindex := i, order := 0, rev := rev, since := 0, level := 0, issuer := issuer, handle := h } }
            else w.completeRecord c issuer rcd lKernel 0
          | none => w.completeRecord c issuer rcd lKernel 0)
    | (_, w) => w

/-- DISPATCH_REMOVE (R371): queue `b` of context `a`; the handler queue goes before every other. -/
def execDispatchRemove (s : State) : Host.Outcome State Fault Refusal :=
  run (fun w =>
    let c := w.d.arg.a % 4096
    let n := w.d.arg.b
    let q := (w.d.ctx c).queue n
    if !(w.d.ctx c).handlerQ.isEmpty then (if w.d.removable c handlerQueue then w.removeHandler c else w)
    else if n < 1024 ∧ q.kind = 1 ∧ (q.st = .opened ∨ q.st = .draining) ∧ w.d.removable c n = true then w.removeRecord c n
    else w) s

/-! ### Dispatch choice (R375) -/

/-- The level of a QUEUED group (R375). -/
def Dev.levelOf (d : Dev) (g : Group) : Nat := max (bits (d.bctl g.ctx) 2 0) (g.prio - (d.cycle - g.since) / 2 ^ 16)
/-- GROUP_LEVEL_RISE (R375): group `b` of context `a`. -/
def execGroupLevelRise (s : State) : Host.Outcome State Fault Refusal :=
  runD (fun d => d.modGroup d.arg.a d.arg.b (fun g => if g.st = .queued then { g with level := d.levelOf g } else g)) s

/-- The first group of its queue that is not dispatched (R371). -/
def Dev.headOfQueue (d : Dev) (g : Group) : Bool :=
  (d.formedOf g.ctx (g.queue.getD handlerQueue)).all (fun o => decide (g.order ≤ o.order))
/-- Groups of a field in the order in which the dispatcher considers them (R375). -/
def Dev.candidates (d : Dev) (f : Nat) : List Group :=
  let weight := fun (c : Nat) => bits (d.bctl c) 15 8
  let before := fun (a b : Group) =>
    let la := d.levelOf a
    let lb := d.levelOf b
    let va := (d.ctx a.ctx).v f * weight b.ctx
    let vb := (d.ctx b.ctx).v f * weight a.ctx
    if la != lb then decide (la < lb)
    else if a.ctx != b.ctx then (if va != vb then decide (va < vb) else decide (a.ctx < b.ctx))
    else if a.since != b.since then decide (a.since < b.since) else decide (a.order ≤ b.order)
  (d.groups.filter (fun g => g.st == .queued && (d.ctx g.ctx).home == f && (d.ctx g.ctx).st == .running && d.headOfQueue g &&
    (!g.asked || g.answered.isSome))).isort before

/-! ### Placements (R376-R378) -/

/-- The kernel of a group. -/
def Dev.groupKernel (d : Dev) (g : Group) : Kernel := (d.ctx g.ctx).kernel (bits g.handle 7 0)
/-- A kernel whose placement for c registers spills, by the placer or by `psld` (11 R330-R331). -/
def Kernel.spills (k : Kernel) (c : Nat) : Bool := decide (c < k.nv)
/-- Rank of a grid in the thermal ranking of its field, the coolest first. -/
def Dev.rank (d : Dev) (g : Nat) : Nat := (d.field (fieldOf g)).order.idxOf (g % Config.gridsPerField)
/-- One more thread of a group fits on a set, beside those already given to its grids (R376). -/
def Dev.setFits (d : Dev) (g : Group) (first : Nat) (use : Tbl Nat) : Bool :=
  let k := d.groupKernel g
  let need := banksPer g.regCnt g.width
  (setGrids first g.width).all (fun q =>
    let n := use.get q 0
    (d.ctx g.ctx).parcel.contains q && !(d.grid q).hot && decide (n < (d.freeSlots q (some g.gid)).length) &&
      decide (need * (n + 1) ≤ d.freeBanks q (some g.gid)) && (!k.mx || (n == 0 && (d.grid q).owner.isNone)))
/-- A set given one more thread. -/
def addUse (first w : Nat) (use : Tbl Nat) : Tbl Nat := (setGrids first w).foldl (fun u q => u.set q (u.get q 0 + 1)) use
/-- Sets filled in order until n threads have one. -/
def Dev.fillSets (d : Dev) (g : Group) : List Nat → Nat → Tbl Nat → List Nat → List Nat
  | [], _, _, acc => acc
  | s :: r, n, use, acc =>
    let q := (List.range Config.slots).foldl (fun (p : Nat × Tbl Nat × List Nat) _ =>
      if 0 < p.1 ∧ d.setFits g s p.2.1 = true then (p.1 - 1, addUse s g.width p.2.1, p.2.2 ++ [s]) else p) (n, use, acc)
    Dev.fillSets d g r q.1 q.2.1 q.2.2
/-- The placement in some fields whose hottest grid ranks coolest, the lowest grids first. -/
def Dev.placeIn (d : Dev) (g : Group) (fs : List Nat) : Option (List Nat) :=
  let sets := fs.flatMap (fun f => alignedSets f g.width)
  let hottest := fun (s : Nat) => (setGrids s g.width).foldl (fun m q => max m (d.rank q)) 0
  (List.range Config.gridsPerField).findSome? (fun t =>
    let l := d.fillSets g (sets.filter (fun s => decide (hottest s ≤ t))) g.nthreads [] []
    if l.length = g.nthreads then some l else none)

/-- Units of the thread pool that no live group holds. -/
def Dev.freeUnits (d : Dev) (c : Nat) : List Nat :=
  let used := d.groups.flatMap (fun g => if g.ctx = c then g.units else [])
  match (d.ctx c).plat with
  | some p => ((List.range (min p.poolUnits (used.length + 64))).filter (fun u => !used.contains u)).take 64
  | none => []
/-- Private pool entries of a kernel that are free. -/
def Dev.freePool (d : Dev) (c : Nat) (h : Word) (k : Kernel) : List Nat :=
  let used := d.poolTaken c h
  ((List.range (min k.poolSize (used.length + 64))).filter (fun e => !used.contains e)).take 64
/-- The field's measured current holds dispatch back (R378). -/
def W.fieldHeld (w : W) (f : Nat) : Bool := decide (95 * w.g.limit f < 100 * w.g.imeas.get f 0)
/-- What running threads of a context are charged in a field, in A (R378). -/
def Dev.charge (d : Dev) (c f : Nat) : Nat :=
  (d.threads.map (fun t => if t.2.ctx = c ∧ t.2.ended = false then
    (if (d.kernelRec t.2).mx then 20 else 8) * (t.2.grids.filter (fun g => fieldOf g == f)).length else 0)).sum
/-- Budgets hold for a placement (R378). -/
def Dev.inBudget (d : Dev) (g : Group) (sets : List Nat) : Bool :=
  let per := if (d.groupKernel g).mx then 20 else 8
  (List.range Config.fields).all (fun f =>
    let b := match (d.ctx g.ctx).plat with | some p => p.budgets.getD f 0 | none => 0
    let n := (sets.filter (fun s => fieldOf s == f)).length
    b == 0 || n == 0 || decide (d.charge g.ctx f + per * n * g.width ≤ b))
/-- The scratchpad window of a group on its grids: the lowest base that is free on all of them. -/
def Dev.windowFor (d : Dev) (g : Group) (sets : List Nat) : Option Nat :=
  let k := d.groupKernel g
  if k.scratch = 0 then some 0
  else firstFit ((sets.flatMap (fun s => setGrids s g.width)).eraseDups.flatMap (d.scratchUsed g.ctx)) k.scratch (d.ctx g.ctx).scratchCap

/-- A placement can be made now: pools, window, current (R376, R378). -/
def W.admits (w : W) (g : Group) (sets : List Nat) : Bool :=
  let k := w.d.groupKernel g
  decide (g.nthreads ≤ (w.d.freeUnits g.ctx).length) &&
    (!k.spills g.regCnt || decide (g.nthreads ≤ (w.d.freePool g.ctx g.handle k).length)) &&
    (w.d.windowFor g sets).isSome && sets.all (fun s => !w.fieldHeld (fieldOf s)) && w.d.inBudget g sets
/-- An answered placement checked under R376. -/
def Dev.answerOk (d : Dev) (g : Group) (sets : List Nat) : Bool :=
  sets.length == g.nthreads &&
    (sets.foldl (fun (acc : Bool × Tbl Nat) s =>
      (acc.1 && (alignedSets (fieldOf s) g.width).contains s && d.setFits g s acc.2, addUse s g.width acc.2)) (true, [])).1
/-- The target placement of a group that is its context's blocked group (R377): the first grid of each thread's set. -/
def Dev.blockedTarget (d : Dev) (g : Group) : Option (List Nat) :=
  match (d.field (d.ctx g.ctx).home).blocked.look g.ctx with
  | some (gid, hold) =>
    let l := (hold.zipIdx.filter (fun p => p.2 % g.width == 0)).map (fun p => p.1.1)
    if gid = g.gid ∧ l.length = g.nthreads then some l else none
  | none => none
/-- The placement chosen for a group: none while its home field is held (R378); the answered one; its target, once that is free, if it
is the blocked group (R377); else inside its home field, and anywhere in the parcel only where its grids there cannot hold it
(R372). -/
def W.placement (w : W) (g : Group) : Option (List Nat) :=
  let ok := fun (o : Option (List Nat)) => o.bind (fun l => if w.admits g l then some l else none)
  let home := (w.d.ctx g.ctx).home
  if w.fieldHeld home then none
  else
    match g.answered with
    | some l => if w.d.answerOk g l then ok (some l) else none
    | none =>
      match w.d.blockedTarget g with
      | some l => if w.d.answerOk g l then ok (some l) else none
      | none =>
        match w.d.placeIn g [home] with
        | some l => ok (some l)
        | none => ok (w.d.placeIn g ((List.range Config.fields).filter (fun f => !w.fieldHeld f)))

/-- The fewest holders whose banks make up for a shortage. -/
def holdersFor : List Nat → Nat → Nat
  | _, 0 => 0
  | [], _ + 1 => 0
  | b :: r, n + 1 => 1 + holdersFor r (n + 1 - b)
/-- Occupied slots of a grid that must free for n threads of a group: for their slots, their banks, the matrix owner (R376). -/
def Dev.slotsToFree (d : Dev) (g : Group) (q n : Nat) : Nat :=
  let need := banksPer g.regCnt g.width
  let held := ((d.grid q).banks.map Prod.snd).isort (fun a b => decide (b ≤ a))
  max (max (n - (d.freeSlots q (some g.gid)).length) (holdersFor held (need * n - d.freeBanks q (some g.gid))))
    (if (d.groupKernel g).mx && (d.grid q).owner.isSome && n != 0 then 1 else 0)
/-- What a blocked group holds on sets: a slot of each grid with its banks, set by set (R377). -/
def Group.holds (g : Group) (sets : List Nat) : List (Nat × Nat) :=
  sets.flatMap (fun s => (setGrids s g.width).map (fun q => (q, banksPer g.regCnt g.width)))
/-- The target of a blocked group (R377): its answered sets (R380), else for each thread the set of the parcel with the fewest
occupied slots still to free, the lowest where several are equal. -/
def Dev.target (d : Dev) (g : Group) : List Nat :=
  let sets := ((List.range Config.fields).flatMap (fun f => alignedSets f g.width)).filter (fun s =>
    (setGrids s g.width).all (fun q => (d.ctx g.ctx).parcel.contains q))
  let need := banksPer g.regCnt g.width
  let cost := fun (use : Tbl Nat) (s : Nat) =>
    ((setGrids s g.width).map (fun q => d.slotsToFree g q (use.get q 0 + 1) - d.slotsToFree g q (use.get q 0))).sum
  let room := fun (use : Tbl Nat) (s : Nat) =>
    (setGrids s g.width).all (fun q => decide (use.get q 0 < (if (d.groupKernel g).mx then 1 else min Config.slots (Config.banks / need))))
  let r := (List.range g.nthreads).foldl (fun (acc : Tbl Nat × List Nat) _ =>
    let l := sets.filter (room acc.1)
    match l with
    | [] => acc
    | s0 :: _ =>
      let best := l.foldl (fun (b : Nat) s => if cost acc.1 s < cost acc.1 b then s else b) s0
      (addUse best g.width acc.1, acc.2 ++ [best])) ([], [])
  g.answered.getD r.2

/-! ### Thread start (R381-R382) -/

/-- PRNG of a thread at its start (R381). -/
def startPrng (gid t : Nat) : Word :=
  let v := BitVec.ofNat 64 (gid * 64 + t) ^^^ 0x2545F4914F6CDD1D#64
  if v = 0#64 then 1#64 else v
/-- Bytes of a private pool entry (11 R331). -/
def poolEntryLen (nv : Nat) : Nat := (64 * (nv - 15) + 255) / 256 * 256

/-- The virtual-register table that a kernel's threads start with; none where its entry block is placed. -/
def W.startTable (w : W) (c : Nat) (k : Kernel) : Rd (Option VTable) × W :=
  if k.form = 1 then (.ok none, w)
  else
    match w.readHome c 0 k.entry 256 with
    | (.ok hdr, w) =>
      let b := parseBlock hdr []
      if b.placed then (.ok none, w)
      else
        (match w.readTable c (b.tableAt k.entry) with
          | (.ok t, w) => (.ok (some t), w)
          | (.absent, w) => (.absent, w)
          | (.waits, w) => (.waits, w)
          | (.ecc, w) => (.ecc, w)
          | (.lost, w) => (.lost, w)
          | (.noRegion, w) => (.noRegion, w))
    | (.absent, w) => (.absent, w)
    | (.waits, w) => (.waits, w)
    | (.ecc, w) => (.ecc, w)
    | (.lost, w) => (.lost, w)
    | (.noRegion, w) => (.noRegion, w)

/-- Initial registers given to a thread: registers by number, or spill slots of its private pool entry, whose address the spill
base register then holds (11 R331). -/
def W.giveRegs (w : W) (tid : Nat) (t : Thread) (k : Kernel) (tab : Option VTable) (vals : List Vec) : W :=
  let entry := match t.poolEntry with | some e => k.poolBase + e * poolEntryLen k.nv | none => 0
  let w := vals.zipIdx.foldl (fun (w : W) p =>
    match (match tab with | some q => q.home t.regCnt p.2 | none => Home.reg p.2) with
    | .reg r => { w with d := w.d.modThr tid (fun t => { t with regs := t.regs.set r p.1 }) }
    | .slot s => w.pkgWrite t.ctx 0 (cellsAt (entry + 64 * s) (bytesOfVec p.1))) w
  let w := match t.poolEntry with
    | some _ => { w with d := w.d.modThr tid (fun t => { t with regs := t.regs.set (t.regCnt - 1) (vecOf [BitVec.ofNat 64 entry]) }) }
    | none => w
  { w with d := w.d.modThr tid (fun t => { t with argLoad := false, next := some k.entry }) }

/-- A thread starts (R382): its argument area is read with the context's rights. An absent page takes its slot to PAGE; a
failure is a fault with block address 0. A handler thread gets the record handle and the handler argument (10 R305). -/
def W.startLoad (w : W) (tid : Nat) : W :=
  match w.d.thr tid with
  | none => w
  | some t =>
    match w.d.group t.ctx t.gid with
    | none => w
    | some g =>
      let k := w.d.groupKernel g
      let arg := (vlane g.rcd 2).toNat
      let fault := fun (w : W) (cause : Cause) (w2 w3 : Nat) =>
        w.threadFault tid { cause := cause, loc := 0xFF#8, w2 := BitVec.ofNat 64 w2, w3 := BitVec.ofNat 64 w3 } 0 0
      let page := fun (w : W) (x : Nat) =>
        match w.raisePage t.ctx x 0 (originOf x) (some (.thread tid 0 x 0)) with
        | (some n, d) => { w with d := d.modThr tid (fun t => { t with st := .page, stSince := d.cycle, pageReq := some n, resumeAt := none }) }
        | (none, d) => { w with d := d }
      match w.startTable t.ctx k with
      | (.waits, w) => w
      | (.absent, w) => page w k.entry
      | (.ecc, w) => fault w .dataEcc k.entry 0
      | (.lost, w) => fault w .linkLost k.entry 0
      | (.noRegion, w) => fault w .protection k.entry 0
      | (.ok tab, w) =>
        if g.queue.isNone then
          w.giveRegs tid t k tab [vecOf [vlane g.rcd 2], splat64 ((w.d.ctx t.ctx).cfg.getD 7 0#64)]
        else if arg = 0 then w.giveRegs tid t k tab []
        else
          match w.readHome t.ctx g.rev arg 64 with
          | (.waits, w) => w
          | (.absent, w) => page w arg
          | (.ecc, w) => fault w .dataEcc arg 0
          | (.lost, w) => fault w .linkLost arg 0
          | (.noRegion, w) => fault w .protection arg 0
          | (.ok hd, w) =>
            let n := (hd.headD 0#8).toNat
            let per := (hd.getD 1 0#8).getLsbD 0
            let base := arg + 64 + (if per then 64 * t.tnum * n else 0)
            let limit := match tab with | some q => min 128 q.nv | none => t.regCnt
            let r := w.rightsAll t.first t.ctx 1 arg (base + 64 * n - arg)
            let w := r.2
            if !w.inDomain arg || 2 ^ 57 < base + 64 * n || !r.1 then fault w .protection arg 0
            else if limit < n then fault w .registerRange 0 limit
            else
              match w.readHome t.ctx g.rev base (64 * n) with
              | (.ok bs, w) => w.giveRegs tid t k tab ((List.range n).map (fun j => vecOfBytes ((bs.drop (64 * j)).take 64)))
              | (.waits, w) => w
              | (.absent, w) =>
                page w (((rangePages [(base, 64 * n)]).find? (fun p => match w.translate t.ctx g.rev p with | .absent => true | _ => false)).getD base)
              | (.ecc, w) => fault w .dataEcc base 0
              | (.lost, w) => fault w .linkLost base 0
              | (.noRegion, w) => fault w .protection base 0

/-- A thread put on a set (R381): slots, banks, matrix ownership with tiles of the core's width (07 R192), and its record. -/
def Dev.startThread (d : Dev) (g : Group) (k : Kernel) (tnum first unit : Nat) (pool : Option Nat) : Nat × Dev :=
  let n := d.newId
  let d := n.2
  let need := banksPer g.regCnt g.width
  let slots := (setGrids first g.width).map (fun q => (q, ((d.freeSlots q (some g.gid)).head?).getD 0))
  let d := slots.foldl (fun (d : Dev) s => d.modGrid s.1 (fun gr => { gr with
    slots := gr.slots.set s.2 { gr.slots.get s.2 {} with thr := some n.1, passed := 0, waitSince := d.cycle },
    banks := gr.banks.set n.1 need, owner := if k.mx then some n.1 else gr.owner, wtags := if k.mx then [] else gr.wtags })) d
  let t : Thread := { ctx := g.ctx, gid := g.gid, tnum := tnum, st := .fetch, stSince := d.cycle, first := first, width := g.width,
                      slots := slots, regCnt := g.regCnt, next := none, prng := startPrng g.gid tnum, unit := unit, poolEntry := pool,
                      argLoad := true,
                      tiles := if k.mx then [(0, { width := g.width }), (1, { width := g.width })] else [],
                      tileFirst := if k.mx then [(0, first), (1, first)] else [] }
  (n.1, d.setThr n.1 t)

/-- A monument of a thread (19 R499), where its context logs. -/
def W.monument (w : W) (t : Thread) (kind addr seq : Nat) : W :=
  w.logWrite t.ctx [(t.seg, .monument kind (w.d.ctx t.ctx).log.station addr seq w.d.now)]
/-- A group dispatched on the sets of its threads (R373, R375, R381). -/
def W.dispatch (w : W) (field : Nat) (g : Group) (sets : List Nat) : W :=
  let d := w.d
  let k := d.groupKernel g
  let units := (d.freeUnits g.ctx).take g.nthreads
  let pools := if k.spills g.regCnt then (d.freePool g.ctx g.handle k).take g.nthreads else []
  let window := (d.windowFor g sets).getD 0
  let level := d.levelOf g
  let r := sets.zipIdx.foldl (fun (acc : List Nat × Dev) p =>
    let q := acc.2.startThread g k p.2 p.1 (units.getD p.2 0) pools[p.2]?
    (acc.1 ++ [q.1], q.2)) ([], d)
  let d := r.2.modGroup g.ctx g.gid (fun g => { g with st := .dispatched, level := level, threads := r.1, live := r.1.length,
                                                        scratch := window, units := units })
  let d := d.modCtx g.ctx (fun c => { c with vcount := c.vcount.set field (c.v field + g.nthreads * g.width) })
  let d := d.modKernel g.ctx (bits g.handle 7 0) (fun (x : Kernel) => if x.st == KState.resident then { x with st := .active } else x)
  let free := fun (f : Field) => { f with blocked := f.blocked.filter (fun b => !(b.1 == g.ctx && b.2.1 == g.gid)) }
  let d : Dev := { d with fields := d.fields.map (fun (f : Nat × Field) => (f.1, free f.2)) }
  let w := W.acquireBy { w with d := d } 2 (sets.flatMap (fun s => setGrids s g.width)).eraseDups
  r.1.foldl (fun w t =>
    let w := match w.d.thr t with | some th => w.monument th 5 0 0 | none => w
    w.startLoad t) w

/-- Candidates tried in order: the first that can be placed is dispatched; the first of a context that cannot becomes its
blocked group (R377). -/
def W.tryDispatch (w : W) (field : Nat) : List Group → W
  | [] => w
  | g :: r =>
    match w.placement g with
    | some l => w.dispatch field g l
    | none =>
      let again := g.answered.isSome && !(w.d.answerOk g (g.answered.getD []))
      if again then
        let d := w.d.modGroup g.ctx g.gid (fun g => { g with answered := none })
        W.tryDispatch { w with d := d.askPlace g.ctx g.gid } field r
      else if ((w.d.field field).blocked.look g.ctx).isSome then W.tryDispatch w field r
      else
        let hold := g.holds (w.d.target g)
        W.tryDispatch { w with d := w.d.modField field (fun f => { f with blocked := f.blocked.set g.ctx (g.gid, hold) }) } field r

/-- The answer `ns` of the policy that the controller of a field has loaded, for a group of it that waits for one (R380, 10 R291,
log 76). -/
def Dev.policyAnswer (d : Dev) (f c gid : Nat) (ns : List Nat) : Dev :=
  if (d.field f).policy && (d.ctx c).home == f && !ns.isEmpty then
    d.modGroup c gid (fun g => if g.st = .queued ∧ g.asked = true ∧ g.answered = none then { g with answered := some ns } else g)
  else d
/-- GROUP_DISPATCH (R375-R378) by the dispatcher of field `a`; a policy of its controller answers for group `c` of context `b`. -/
def execGroupDispatch (s : State) : Host.Outcome State Fault Refusal :=
  run (fun w =>
    let e := w.d.arg
    let w := { w with d := w.d.policyAnswer e.a e.b e.c e.ns }
    w.tryDispatch e.a (w.d.candidates e.a)) s

/-- DANSWER (R380): a placement list for a group that waits for one. -/
def execDanswer (cmd : CmdRec) (s : State) : Host.Outcome State Fault Refusal :=
  run (command [.running] (fun w c cmd =>
    match w.d.group c cmd.a2.toNat with
    | none => W.finish { w with d := w.d.countStale c } c cmd sStale 0
    | some g =>
      if g.st ≠ .queued ∨ g.asked = false ∨ g.answered.isSome = true then W.finish { w with d := w.d.countStale c } c cmd sStale 0
      else if cmd.a3.toNat % 64 ≠ 0 ∨ 2 ^ 57 ≤ cmd.a3.toNat then w.finish c cmd sBadArgument 0
      else
        match w.readHome c 0 cmd.a3.toNat (2 * g.nthreads) with
        | (.ok bs, w) =>
          W.finish { w with d := w.d.modGroup c g.gid (fun g => { g with answered := some (pieces 2 g.nthreads bs) }) } c cmd sDone 0
        | (_, w) => w.finish c cmd sBadArgument 0) cmd) s

/-! ### Retirement (R383) -/

/-- A launch completion that names a mailbox of a group is still to come: a queued record or a group that it issued. -/
def W.owesMail (w : W) (c gid : Nat) : Bool :=
  let kind4 := fun (x : Word) => bits x 63 60 == 4
  let inQueue := (w.d.ctx c).queues.any (fun q => q.2.kind == 1 && q.2.live.any (fun i =>
    q.2.issuers.look i == some gid && kind4 (BitVec.ofNat 64 (w.g64 c (q.2.entry i + 40)))))
  inQueue || w.d.groups.any (fun g => g.ctx == c && g.issuer == some gid && kind4 (vlane g.rcd 5))
/-- Nothing of a group's threads is outstanding. -/
def W.groupSettled (w : W) (g : Group) : Bool :=
  let mine := fun (t : Nat) => g.threads.contains t
  !w.d.copies.any (fun c => c.ctx == g.ctx && c.gid == g.gid) && !w.d.fwds.any (fun c => c.ctx == g.ctx && c.gid == g.gid) &&
    !w.d.colls.any (fun c => c.ctx == g.ctx && c.gid == g.gid) && !w.d.rels.any (fun r => mine r.thr) &&
    !w.d.spStores.any (fun r => mine r.thr) && !w.d.insts.any (fun p => mine p.2.thr) && !w.owesMail g.ctx g.gid

/-- GROUP_RETIRE (R383): group `b` of context `a` in DRAINING with nothing outstanding. -/
def execGroupRetire (s : State) : Host.Outcome State Fault Refusal :=
  run (fun w =>
    let c := w.d.arg.a
    match w.d.group c w.d.arg.b with
    | none => w
    | some g =>
      if g.st ≠ .draining ∨ w.groupSettled g = false then w
      else
        let d : Dev := { w.d with threads := w.d.threads.filter (fun p => !g.threads.contains p.1),
                                  groups := w.d.groups.filter (fun q => !(q.ctx == c && q.gid == g.gid)) }
        -- a group that a containment has ended completes with KERNEL (11 R335)
        let contained := ((d.ctx c).kernel (bits g.handle 7 0)).contained
        let status := if contained then lKernel else if g.failed then lFailed else lDone
        let w := W.completeRecord { w with d := d } c g.issuer g.rcd status g.gid
        w.settleKernel c (bits g.handle 7 0)) s

/-! ### Frames and deques (R384-R390) -/

/-- The child count of a frame at its home (R385). -/
def W.frameCount (w : W) (c rnum a : Nat) : Rd Nat × W :=
  match w.readHome c rnum a 4 with
  | (.ok bs, w) => (.ok (ofBytes bs), w)
  | (.absent, w) => (.absent, w)
  | (.waits, w) => (.waits, w)
  | (.ecc, w) => (.ecc, w)
  | (.lost, w) => (.lost, w)
  | (.noRegion, w) => (.noRegion, w)
/-- The child count changed by a commit (R388, R390): a release at PACKAGE scope. -/
def W.frameAdd (w : W) (tid : Nat) (t : Thread) (seq a : Nat) (z : Int) : W :=
  let w := w.releaseNow tid t.ctx 2 t.grids
  let rnum := w.d.rnumOf t
  match w.frameCount t.ctx rnum a with
  | (.ok n, w) => w.loggedWrite t.ctx rnum seq t.who (cellsAt a (leBytes 4 (wrap 32 (n + z))))
  | (_, w) => w

/-- Deque entries: 32 on chip and 1,536 in the spill area. -/
def dequeSize : Nat := 32 + 1536
/-- Deque entries that uncommitted `spawn` instructions of a thread have reserved. -/
def Dev.spawnResv (d : Dev) (tid : Nat) : Nat :=
  ((d.instsOf tid).map (fun p => (p.2.effs.filter (fun e => match e.2.2 with | .spawn _ _ _ => true | _ => false)).length)).sum
/-- Entries that uncommitted `sync.next` instructions have reserved: thread and entry. -/
def Dev.dequeResv (d : Dev) : List (Nat × Nat) :=
  d.allEffs.filterMap (fun e => match e.2 with | .syncNext _ r => r | _ => none)
/-- Entries of a thread's deque that can be taken, oldest first. -/
def Dev.dequeOf (d : Dev) (tid : Nat) : List DqEnt :=
  match d.thr tid with
  | some t => t.deque.filter (fun e => !d.dequeResv.contains (tid, e.id))
  | none => []
/-- Entries in the circular deque spill area of a unit, from a place on: 32 bytes each (R384, 13 R370). -/
def spillTasks (k : Nat) (es : List DqEnt) : List Host.Cell :=
  es.zipIdx.flatMap (fun p => cellsAt (0x4000 + 32 * ((k + p.2) % 1536))
    (leBytes 8 p.1.cont.toNat ++ leBytes 8 p.1.frame.toNat ++ leBytes 8 p.1.tag.toNat ++ leBytes 8 0))
/-- What a thread holds in the spill areas of its unit, written there again. -/
def W.respill (w : W) (tid : Option Nat) : W :=
  match tid.bind w.d.thr with
  | none => w
  | some t =>
    w.toUnit t (t.mboxes.flatMap (fun m => (m.2.msgs.drop mboxChip).flatMap (spillMail m.1)) ++
      spillTasks t.dqBase (t.deque.take t.spilled))
/-- The commit of `spawn` (R388): the increment, then the push at the bottom; a full on-chip part spills its oldest 16 in one
transfer. -/
def W.spawnCommit (w : W) (tid : Nat) (t : Thread) (seq : Nat) (cont : Word) (frame : Nat) (tag : Word) : W :=
  let w := w.frameAdd tid t seq frame 1
  let n := w.d.newId
  match n.2.thr tid with
  | none => { w with d := n.2 }
  | some t =>
    let full := decide (32 ≤ t.deque.length - t.spilled)
    let w := if full then w.toUnit t (spillTasks (t.dqBase + t.spilled) ((t.deque.drop t.spilled).take 16)) else w
    { w with d := (w.d.newId).2.modThr tid (fun t => { t with
        deque := t.deque ++ [⟨cont, BitVec.ofNat 64 frame, tag, n.1⟩], spilled := if full then t.spilled + 16 else t.spilled }) }
/-- An entry removed from a deque. One that leaves the spill area moves its top on by a place; the entries above it move with it. -/
def W.dequeRemove (w : W) (tid id : Nat) : W :=
  match w.d.thr tid with
  | none => w
  | some t =>
    let i := (t.deque.findIdx? (fun e => e.id == id)).getD t.deque.length
    let away := decide (i < t.spilled)
    let w := if away then w.toUnit t (spillTasks (t.dqBase + 1) (t.deque.take i)) else w
    { w with d := w.d.modThr tid (fun t => { t with
        deque := t.deque.filter (fun e => e.id != id),
        spilled := if away then t.spilled - 1 else t.spilled, dqBase := if away then (t.dqBase + 1) % 1536 else t.dqBase }) }
/-- A pop by the owner that finds the on-chip part empty: up to 16 of the newest spilled entries come back (R384). -/
def Dev.refill (d : Dev) (tid : Nat) : Dev :=
  d.modThr tid (fun t =>
    if (t.deque.drop t.spilled).all (fun e => d.dequeResv.contains (tid, e.id)) then { t with spilled := t.spilled - min 16 t.spilled } else t)
/-- The commit of `sync.next` (R390). -/
def W.syncNextCommit (w : W) (tid : Nat) (t : Thread) (seq frame : Nat) (entry : Option (Nat × Nat)) : W :=
  let w := if frame = 0 then w else w.frameAdd tid t seq frame (-1)
  match entry with
  | some (v, id) => w.dequeRemove v id
  | none => w

/-- A frame's checks (R388-R390): alignment, R and W rights, presence. Its child count; or the work area where the instruction
ends. -/
def W.frameCheck (w : W) (c : Firing) (t : Thread) (a : Nat) : Except W (Nat × W) :=
  match w.check t (rR ||| rW) a 64 64 with
  | (.fault e, w) => .error { w with d := w.d.holdAt c e a 1 0 }
  | (.ok, w) =>
    match w.frameCount t.ctx (w.d.rnumOf t) a with
    | (.ok n, w) => .ok (n, w)
    | (r, w) => .error { w with d := r.fail w c a 1 }

/-- SPAWN (R388). -/
def execSpawn (f : FmtQ) (s : State) : Host.Outcome State Fault Refusal :=
  run (fireFill (.spawn f) fun w c t =>
    let a := c.ops.b0.toNat
    if badTarget c.ops.a0 then { w with d := w.d.holdAt c .alignment c.ops.a0.toNat 0 0 }
    else
      match w.frameCheck c t a with
      | .error w => w
      | .ok (_, w) =>
        if dequeSize ≤ t.deque.length + w.d.spawnResv c.x.thr then { w with d := w.d.answer c [] (statusTo f 1) }
        else
          let e := Eff.spawn c.ops.a0 a (if c.ops.c.isSome then c.ops.c0 else 0#64)
          { w with d := w.d.answer c [e] (statusTo f 0) }) s

/-- The expiry of `sync` and `evwait`: a timeout fault with TRAP, else an outcome. -/
def trapOr (f : FmtQ) (cause : Cause) (ident : Word) (o : Out) (w : W) (c : Firing) : W :=
  if trapBit f then w.timeout c cause ident 0 else { w with d := w.d.answer c [] o }

/-- SYNC_WAIT (R389). -/
def execSyncWait (f : FmtQ) (s : State) : Host.Outcome State Fault Refusal :=
  run (waitFire (.syncWait f) f.limit (fun c _ => (0xD1, c.ops.a0))
    (fun w c t =>
      match w.frameCheck c t c.ops.a0.toNat with
      | .error w => .stop w
      | .ok (n, w) =>
        if n = 0 then
          let w := w.acquireFire c t 2
          .sat { w with d := w.d.answer c [] (statusTo f 0) }
        else .wait)
    (fun w c _ => trapOr f .syncTimeout c.ops.a0 (statusTo f 1) w c)) s

/-- Victims of a thread in the order of R386: threads of its group by core grid 0 and slot, from after its own grid on. -/
def Dev.victims (d : Dev) (tid : Nat) (t : Thread) : List (Nat × Thread) :=
  let l := (d.threads.filter (fun p => p.2.ctx == t.ctx && p.2.gid == t.gid && p.1 != tid)).isort (fun a b =>
    decide (a.2.place.1 < b.2.place.1) || (a.2.place.1 == b.2.place.1 && decide (a.2.place.2 ≤ b.2.place.2)))
  l.filter (fun p => decide (t.first < p.2.first)) ++ l.filter (fun p => decide (p.2.first ≤ t.first))
/-- What `sync.next` may take, in order: the own bottom, then the top of each victim. -/
def Dev.taskChoices (d : Dev) (tid : Nat) (t : Thread) (steal : Bool) : List (Nat × DqEnt × Bool) :=
  let own := match (d.dequeOf tid).getLast? with | some e => [(tid, e, false)] | none => []
  if steal then own ++ (d.victims tid t).filterMap (fun p => (d.dequeOf p.1).head?.map (fun e => (p.1, e, true))) else own
/-- The token of an entry taken. -/
def taskVec (q : Nat × DqEnt × Bool) : Vec := vecOf [q.2.1.cont, q.2.1.frame, q.2.1.tag, if q.2.2 then 1#64 else 0#64]
/-- The source of a replay event of `sync.next`: the victim thread, or all ones for none (19 R503). -/
def Dev.taskSource (d : Dev) (q : Nat × DqEnt × Bool) : Word :=
  if q.2.2 then (match d.thr q.1 with | some v => BitVec.ofNat 64 v.tnum | none => ~~~0#64) else ~~~0#64

/-- SYNC_NEXT (R390): under replay, the victim and entry that were recorded (19 R504). DESIGN CHOICE: a steal request is answered
in the step in which it reaches a deque, so that a deque never holds one back for another; which thief's request comes first is
the agenda's choice (log 88). -/
def execSyncNext (f : FmtQ) (s : State) : Host.Outcome State Fault Refusal :=
  run (waitFire (.syncNext f) f.limit (fun _ t => (0xD101, BitVec.ofNat 64 t.gid))
    (fun w c t =>
      let a := c.ops.a0.toNat
      if !w.d.isOldest c.x then .notYet
      else
        match (if a = 0 then .ok (0, w) else w.frameCheck c t a) with
        | .error w => .stop w
        | .ok (_, w) =>
          let l := w.d.taskChoices c.x.thr t (bits f.limit 7 0 != 0)
          let told := fun (q : Nat × DqEnt × Bool) => match w.prescribed c.x.thr t 3 (w.d.taskSource q) with
            | some v => v == foldVec (taskVec q)
            | none => !((w.d.ctx t.ctx).recd.armed && (w.d.ctx t.ctx).recd.mode == 2)
          match l.find? told with
          | none => .wait
          | some q =>
            let w := if q.2.2 then w.acquireFire c t 2 else { w with d := w.d.refill c.x.thr }
            let ev := w.d.eventEffs t c 3 (w.d.taskSource q) (taskVec q)
            let out : Out := { toks := [(f.t0, .val (taskVec q)), (f.t1, .val (splat64 0#64))] }
            .sat { w with d := w.d.answer c (.syncNext a (some (q.1, q.2.1.id)) :: ev) out })
    (fun w c t =>
      if trapBit f then w.timeout c .syncTimeout c.ops.a0 0
      else
        let ev := w.d.eventEffs t c 3 (~~~0#64) (splat64 1#64)
        let out : Out := { toks := [(f.t0, .null), (f.t1, .val (splat64 1#64))] }
        { w with d := w.d.answer c (.syncNext c.ops.a0.toNat none :: ev) out })) s

/-- STEAL (R386): the steal request of the `sync.next` at index `b` of instance `a` is served, if an entry can be taken. -/
def execSteal (s : State) : Host.Outcome State Fault Refusal :=
  let a := s.dev.arg
  match (s.dev.inst a.a).bind (fun x => x.code.bind (fun b => b.instr a.b)) with
  | some (.syncNext f) => execSyncNext f { s with dev := { s.dev with focus := some (a.a, a.b) } }
  | _ => .next s

/-! ### Events and `ginfo` (R391-R393) -/

/-- The latches that an `evwait` names. -/
def evMask (f : FmtQ) (o : Opnds) : BitVec 16 :=
  if bits f.imm 5 5 = 1 then o.a0.setWidth 16 else 1#16 <<< bits f.imm 4 1
/-- The token of `evwait`: the status in every lane but lane 1, which holds the cleared latches. -/
def evOut (f : FmtQ) (st : Nat) (cleared : BitVec 16) : Out :=
  let n := BitVec.ofNat 64 st
  both f.t0 f.t1 (vecOf [n, cleared.setWidth 64, n, n, n, n, n, n])
/-- EVWAIT (R391): the latches are cleared when it fires, and a flush sets them again. -/
def execEvwait (f : FmtQ) (s : State) : Host.Outcome State Fault Refusal :=
  runR (fun w => (waitFire (.evwait f) f.limit (fun c _ => (0xD2, (evMask f c.ops).setWidth 64))
    (fun w c t =>
      let hit := t.latches &&& evMask f c.ops
      if !w.d.isOldest c.x then .notYet
      else if hit = 0#16 then .wait
      else
        let w := w.acquireFire c t 2
        let d := w.d.modThr c.x.thr (fun t => { t with latches := t.latches &&& ~~~hit })
        .sat { w with d := d.answer c [.evwait hit] (evOut f 0 hit) })
    (fun w c _ => trapOr f .eventTimeout ((evMask f c.ops).setWidth 64) (evOut f 1 0#16) w c) w).d) s

/-- EVSIG (R392). -/
def execEvsig (f : FmtQ) (s : State) : Host.Outcome State Fault Refusal :=
  runR (fireQ (.evsig f) fun w c t =>
    let n := c.ops.a0.toNat
    if w.d.badEvent t.ctx t.gid n then w.d.answer c [] (statusTo f 4)
    else w.d.answer c [.evsig (n / 16) (n % 16)] (statusTo f 0)) s

/-- An item of `ginfo`. -/
def Dev.ginfoItem (d : Dev) (t : Thread) (item : Nat) : Nat :=
  match d.group t.ctx t.gid with
  | none => 0
  | some g =>
    match item with
    | 0 => g.gid
    | 1 => (putField (vlane g.rcd 1) 16 3 g.level).toNat
    | 2 => g.live
    | 3 => t.latches.toNat
    | 4 => (t.deque.length - t.spilled) + t.spilled * 2 ^ 16
    | 5 => bits (vlane g.rcd 7) 31 0
    | 6 => (vlane g.rcd 2).toNat
    | _ => g.qhandle.toNat
/-- GINFO (R393). -/
def execGinfo (f : FmtQ) (s : State) : Host.Outcome State Fault Refusal :=
  runR (fireQ (.ginfo f) fun w c t =>
    w.d.answer c [] (both f.t0 f.t1 (splat64 (BitVec.ofNat 64 (w.d.ginfoItem t f.sub.toNat))))) s

end Sys2Proof.Machine
end

