-- ==== Sys2Proof/Machine/Revisions.lean ====
section
/-!
DEFINITION. Revisions (16 R432-R453): regions, forks and their datums, joins and the merge engine, the end of a revision. What a
revision sees of a page is `viewFrame`, and copy-on-write is `W.cow`; the map of a page is written by `W.writeMap`.
-/

namespace Sys2Proof.Machine

/-! ### Regions (R432) -/

/-- Bytes of an element, merge type, AUX and CBUF of a region descriptor. -/
def regionEsize (v : Vec) : Nat := 2 ^ bits (vlane v 2) 1 0
def regionMtype (v : Vec) : Nat := bits (vlane v 2) 7 4
def regionAux (v : Vec) : Nat × Nat := ((vlane v 3).toNat, (vlane v 4).toNat)
def regionCbuf (v : Vec) : Nat × Nat := ((vlane v 5).toNat, (vlane v 6).toNat)
/-- A descriptor that R432 rejects for another reason than overlap. -/
def W.badRegion (w : W) (v : Vec) : Bool :=
  let base := regionBase v
  let size := regionSize v
  let mt := regionMtype v
  let aux := regionAux v
  let cb := regionCbuf v
  !w.isLocal base || decide (2 ^ 57 ≤ base) || base % 2 ^ 14 != 0 || size % 2 ^ 14 != 0 || decide (size < 2 ^ 14) ||
    decide (2 ^ 36 < size) || !w.isLocal (base + size - 1) || bits (vlane v 2) 3 2 != 0 || bits (vlane v 2) 63 8 != 0 ||
    decide (11 < mt) || ([3, 6, 7].contains mt && regionEsize v != 4) || vlane v 7 != 0#64 ||
    aux.1 % 64 != 0 || aux.2 % 64 != 0 || cb.1 % 64 != 0 || cb.2 % 32 != 0 || ((cb.1 == 0) != (cb.2 == 0)) ||
    (mt == 11 && cb.1 != 0) ||
    (if mt = 10 then decide (aux.2 < ((size / regionEsize v + 7) / 8 + 63) / 64 * 64)
     else if mt = 11 then decide (aux.2 < 32)
     else aux.1 != 0 || aux.2 != 0)

/-- Ranges overlap. -/
def overlap (a n b m : Nat) : Bool := decide (a < b + m) && decide (b < a + n)
/-- Declared regions, and with `held` those that uncommitted instances have reserved: number, base, size. -/
def Dev.regionsOf (d : Dev) (c : Nat) (held : Bool) : List (Nat × Nat × Nat) :=
  ((d.ctx c).regions.filter (fun p => p.2.declared)).map (fun p => (p.1, regionBase p.2.desc, regionSize p.2.desc)) ++
    (if held then (d.ctxEffs c).filterMap (fun e => match e with
      | .regionDecl n v => some (n, regionBase v, regionSize v)
      | _ => none) else [])
/-- The 16 KiB pages of the declared regions. -/
def Dev.regionPages (d : Dev) (c : Nat) : List Nat := rangePages ((d.regionsOf c false).map (fun p => p.2))
/-- A revision of a context. -/
def Ctx.rev (k : Ctx) (n : Nat) : Revision := k.revs.get n {}
/-- A revision changed. -/
def Dev.modRev (d : Dev) (c n : Nat) (f : Revision → Revision) : Dev :=
  d.modCtx c (fun k => { k with revs := k.revs.set n (f (k.rev n)) })
/-- Revisions besides the root that a context has (R435). -/
def Ctx.liveRevs (k : Ctx) : List (Nat × Revision) := k.revs.filter (fun p => p.1 != 0 && p.2.st != .free)
/-- The handle of a revision (R435); the root's is 0. -/
def Ctx.revHandle (k : Ctx) (n : Nat) : Nat := if n = 0 then 0 else n + (k.rev n).rgen * 2 ^ 10
/-- The revision that a handle names, if it is not stale. -/
def Ctx.revOf (k : Ctx) (h : Nat) : Option Nat :=
  let n := h % 2 ^ 10
  if h = 0 then some 0
  else if n ≠ 0 ∧ (k.rev n).st ≠ .free ∧ k.revHandle n = h then some n else none

/-- RREGION_DECL (R450): the first that fails of 3, 4, 1, 2, 5. -/
def execRregionDecl (f : FmtQ) (s : State) : Host.Outcome State Fault Refusal :=
  runR (fireQ (.rregionDecl f) fun w c t =>
    let v := c.ops.va
    let st := fun (w : W) (n : Nat) => w.d.answer c [] { toks := [(f.t0, .null), (f.t1, .val (splat64 (BitVec.ofNat 64 n)))] }
    let rs := w.d.regionsOf t.ctx true
    let base := regionBase v
    let size := regionSize v
    if w.badRegion v then st w 3
    else if !(w.d.ctx t.ctx).liveRevs.isEmpty then st w 4
    else
      match (List.range 16).find? (fun n => !(rs.map Prod.fst).contains n) with
      | none => st w 1
      | some n =>
        let shadows := ((w.d.ctx t.ctx).shadows.filter (fun p => p.2.isOpen)).map (fun p => (p.2.base, p.2.len)) ++
          (w.d.shadowResv t.ctx).map (fun p => p.2)
        if rs.any (fun p => overlap base size p.2.1 p.2.2) || shadows.any (fun p => overlap base size p.1 p.2) then st w 2
        else
          let r := w.rightsAll t.first t.ctx 2 base size
          let q := r.2.rightsAll t.first t.ctx 2 (regionAux v).1 (regionAux v).2
          let u := q.2.rightsAll t.first t.ctx 2 (regionCbuf v).1 (regionCbuf v).2
          let outside := fun (p : Nat × Nat) => decide (2 ^ 57 < p.1 + p.2)
          if !(r.1 && q.1 && u.1) || outside (regionAux v) || outside (regionCbuf v) then st u.2 5
          else u.2.d.answer c [.regionDecl n v]
            { toks := [(f.t0, .val (splat64 (BitVec.ofNat 64 n))), (f.t1, .val (splat64 0#64))] }) s
/-- RREGION_DROP (R450). -/
def execRregionDrop (f : FmtQ) (s : State) : Host.Outcome State Fault Refusal :=
  runR (fireQ (.rregionDrop f) fun w c t =>
    let n := c.ops.a0.toNat
    if 16 ≤ n ∨ ((w.d.ctx t.ctx).regions.get n {}).declared = false then w.d.answer c [] (statusTo f 3)
    else if !(w.d.ctx t.ctx).liveRevs.isEmpty then w.d.answer c [] (statusTo f 4)
    else w.d.answer c [.regionDrop n] (statusTo f 0)) s
/-- The commits of `rregion`. -/
def Dev.regionCommit (d : Dev) (c n : Nat) (desc : Option Vec) : Dev :=
  d.modCtx c (fun k => { k with regions := k.regions.set n (match desc with
    | some v => { declared := true, desc := v }
    | none => {}) })

/-! ### Fork (R436-R441, R448) -/

/-- Revision numbers of a context that are taken or reserved. -/
def Dev.rnumsTaken (d : Dev) (c : Nat) : List Nat :=
  (d.ctx c).liveRevs.map Prod.fst ++ (d.ctxEffs c).flatMap (fun e => match e with
    | .fork n _ m _ _ _ _ => [n, m]
    | _ => [])
/-- RIDs of the package that are taken or reserved (R435). -/
def Dev.ridsTaken (d : Dev) : List Nat :=
  d.ctxs.flatMap (fun k => (k.2.liveRevs.filter (fun p => p.2.rid != 0)).map (fun p => p.2.rid)) ++
    d.allEffs.flatMap (fun e => match e.2 with
      | .fork _ r _ q _ _ _ => [r, q]
      | _ => [])
/-- Table frames that splitting the large leaves under some pages takes (R441). -/
def W.tablesFor (w : W) (pages : List Nat) : Nat :=
  let large := pages.filterMap (fun p => (w.leafAt p).bind (fun l => if l.level = 3 then none else some (l, p)))
  ((large.filter (fun q => q.1.level == 1)).map (fun q => q.2 / 2 ^ 30)).eraseDups.length +
    (large.map (fun q => q.2 / 2 ^ 21)).eraseDups.length
/-- Frames that a fork reserves for N pages (R441): the child's and the parent's copies, the map, and the tables. -/
def W.forkFrames (w : W) (pages : List Nat) : Nat :=
  let n := pages.length
  2 * n + (2 * n + 1791) / 1792 + w.tablesFor pages
/-- What the checks of a `fork` find (R448). -/
inductive ForkTest where
  | status (n : Nat)
  | wait
  | ok (rnum rid drnum drid : Nat) (frames : List Nat)
deriving DecidableEq, Repr
/-- The checks in order: 2, 3, 4, 8, 7, 6, 5, then the waits. -/
def W.forkTest (w : W) (t : Thread) (rcd : Vec) (h : Nat) : ForkTest :=
  let k := w.d.ctx t.ctx
  if k.insertStatus h 1 ≠ none then .status 2
  else
    match k.kernelOf (vlane rcd 0) with
    | none => .status 3
    | some (_, x) =>
      if !x.usable then .status 3
      else if badLaunch rcd x.regs false then .status 4
      else
        let pages := w.d.regionPages t.ctx
        let leaf := fun (p : Nat) => w.leafAt p
        let bad := fun (p : Nat) => match leaf p with
          | none => true
          | some l => l.state == stAbsent || l.state == stMigrating || l.state == stEvicting || l.state == stSplitting || entBit l.w0 55
        if pages.isEmpty || pages.any bad then .status 8
        else if 8 ≤ (k.rev (w.d.rnumOf t)).depth then .status 7
        else
          let nt := w.d.rnumsTaken t.ctx
          let rt := w.d.ridsTaken
          let ns := ((List.range (Config.revisions + 1)).filter (fun n => n != 0 && !nt.contains n)).take 2
          let rs := ((List.range (Config.rids + 1)).filter (fun n => n != 0 && !rt.contains n)).take 2
          match ns, rs with
          | [n, m], [r, q] =>
            let need := w.forkFrames pages
            let fr := w.d.poolFree.take need
            if fr.length < need then .status 5
            else if pages.any (fun p => match leaf p with | some l => entLocks l.w0 != 0 | none => false) then .wait
            else if w.d.queueFree t.ctx (h % 2 ^ 10) = 0 then .wait
            else .ok n r m q fr
          | _, _ => .status 6
/-- FORK (R448). -/
def execFork (f : FmtQ) (s : State) : Host.Outcome State Fault Refusal :=
  runR (fun w => (waitFire (.fork f) f.limit (fun c _ => (0xE0, c.ops.b0))
    (fun w c t =>
      let ev := fun (n : Nat) => w.d.eventEffs t c 8 0xE0#64 (splat64 (BitVec.ofNat 64 n))
      let out := fun (a : Tok) (n : Nat) => (⟨[(f.t0, a), (f.t1, .val (splat64 (BitVec.ofNat 64 n)))], 0#6⟩ : Out)
      if !w.d.isOldest c.x then .notYet
      else
        match w.forkTest t c.ops.va c.ops.b0.toNat with
        | .wait => .wait
        | .status n => .sat { w with d := w.d.answer c (ev n) (out .null n) }
        | .ok n r m q fr =>
          let h := n + (((w.d.ctx t.ctx).rev n).rgen + 1) % 2 ^ 32 * 2 ^ 10
          .sat { w with d := w.d.answer c (.fork n r m q fr c.ops.b0.toNat c.ops.va :: ev 0)
                              (out (.val (splat64 (BitVec.ofNat 64 h))) 0) })
    (fun w c t =>
      { w with d := w.d.answer c (w.d.eventEffs t c 8 0xE0#64 (splat64 1#64))
                      ⟨[(f.t0, .null), (f.t1, .val (splat64 1#64))], 0#6⟩ }) w).d) s

/-- Large leaves under a page split at once, one level a frame (R441). -/
def W.splitDown (w : W) (page : Nat) (fuel : Nat) (fr : List Nat) : W × List Nat :=
  match fuel, fr with
  | n + 1, f :: r =>
    (match w.leafAt page with
      | some l =>
        if l.level = 3 then (w, fr)
        else
          let w := w.splitTable l f true
          W.splitDown { w with d := w.d.tcDrop (l.base page) l.size } page n r
      | none => (w, fr))
  | _, _ => (w, fr)
/-- A page of a region enters REVISED (R439): word 1 keeps the PDID alone. -/
def W.revise (w : W) (page : Nat) : W :=
  match w.leafAt page with
  | some l => if l.state = stRevised then w else w.setLeaf page l (withState l.w0 stRevised) (l.w1 / 2 ^ 48 * 2 ^ 48)
  | none => w
/-- A fork may share the datum that its parent has (R437). -/
def Ctx.shares (k : Ctx) (p : Nat) : Bool :=
  (k.rev p).lastDatum != 0 && (k.rev (k.rev p).lastDatum).st == .retained && (k.rev (k.rev p).lastDatum).parent == p && !(k.rev p).wrote
/-- The commit of `fork` (R437-R442, R448): release, datum, child, REVISED pages, and the record appended. -/
def W.forkCommit (w : W) (tid : Nat) (t : Thread) (rnum rid drnum drid : Nat) (frames : List Nat) (q : Nat) (rcd : Vec) : W :=
  let c := t.ctx
  let w := w.releaseNow tid c 2 t.grids
  let p := w.d.rnumOf t
  let pages := w.d.regionPages c
  let n := pages.length
  let tables := w.tablesFor pages
  let w := { w with d := { w.d with pool := w.d.pool.filter (fun f => !frames.contains f) } }
  let own := frames.take n
  let datum := (frames.drop n).take n
  let rest := frames.drop (2 * n)
  let w := (pages.foldl (fun (a : W × List Nat) x => a.1.splitDown x 2 a.2) (w, rest.take tables)).1
  let w := pages.foldl (fun (w : W) x => w.revise x) w
  let k := w.d.ctx c
  let par := k.rev p
  let shared := k.shares p
  let dn := if shared then par.lastDatum else drnum
  let d := w.d
  let d : Dev := if shared then { d with pool := d.pool ++ datum }
    else
      let old := k.rev drnum
      let dat : Revision := { st := .retained, rgen := (old.rgen + 1) % 2 ^ 32, parent := p, depth := par.depth, rid := drid,
                              base := par.base, reserve := datum, owned := par.owned }
      let par' := { par with base := drnum, owned := [], lastDatum := drnum, wrote := false }
      d.modCtx c (fun k => { k with revs := (k.revs.set drnum dat).set p par' })
  let old := (d.ctx c).rev rnum
  let child : Revision := { st := .active, rgen := (old.rgen + 1) % 2 ^ 32, parent := p, depth := par.depth + 1, rid := rid, base := dn,
                            datum := dn, reserve := own, order := k.forkCount }
  let d := d.modCtx c (fun k => { k with
    revs := k.revs.set rnum child, forkCount := k.forkCount + 1, mapFrames := k.mapFrames ++ rest.drop tables })
  W.launchCommit (W.writeMaps { w with d := d } c pages) c q rcd rnum t.gid

/-! ### Join (R445, R449) -/

/-- Unjoined children of a revision, in the order of their forks. -/
def Ctx.childrenOf (k : Ctx) (n : Nat) : List Nat :=
  ((k.liveRevs.filter (fun p => p.2.st == .active && p.2.parent == n)).isort (fun a b => decide (a.2.order ≤ b.2.order))).map Prod.fst
/-- A revision with its unjoined descendants, each after its own children (R445). -/
def Ctx.joinOrder (k : Ctx) (fuel n : Nat) : List Nat :=
  match fuel with
  | 0 => [n]
  | m + 1 => (k.childrenOf n).flatMap (fun c => Ctx.joinOrder k m c) ++ [n]
/-- A live group or a queued launch record of a revision (R449). -/
def Dev.revBusy (d : Dev) (c n : Nat) : Bool :=
  d.groups.any (fun g => g.ctx == c && g.rev == n) ||
    (d.ctx c).queues.any (fun q => q.2.live.any (fun i => q.2.revs.look i == some n))
/-- Uncommitted joins that have reserved a child. -/
def Dev.joinResv (d : Dev) (c n : Nat) : Bool := (d.ctxEffs c).any (fun e => match e with | .join m => m == n | _ => false)
/-- JOIN (R449). -/
def execJoin (f : FmtQ) (s : State) : Host.Outcome State Fault Refusal :=
  runR (fun w => (waitFire (.join f) f.limit (fun c _ => (0xE1, c.ops.a0))
    (fun w c t =>
      let k := w.d.ctx t.ctx
      let st := fun (n : Nat) (es : List Eff) => Test.sat { w with d := w.d.answer c es (statusTo f n) }
      if !w.d.isOldest c.x then .notYet
      else
        match k.revOf c.ops.a0.toNat with
        | none => st 2 []
        | some n =>
          if n = 0 ∨ (k.rev n).st ≠ .active ∨ (k.rev n).parent ≠ w.d.rnumOf t then st 2 []
          else if w.d.joinResv t.ctx n then st 3 []
          else if (k.joinOrder 8 n).any (w.d.revBusy t.ctx) then .wait
          else st 0 [.join n])
    (fun w c _ => { w with d := w.d.answer c [] (statusTo f 1) }) w).d) s

/-- The commit of `join` (R449): the thread's owned lines of the regions are written back, the child and its unjoined descendants
enter JOINING, and the loads of younger instances wait for JOINED. -/
def W.joinCommit (w : W) (tid : Nat) (t : Thread) (seq commitSeq rnum : Nat) : W :=
  let c := t.ctx
  let k := w.d.ctx c
  let w := w.writeBackAll t.grids (fun l => (k.regionOf (32 * l.line)).isSome)
  let ns := (w.d.ctx c).joinOrder 8 rnum
  let joining := fun (p : Nat × Revision) => if ns.contains p.1 then (p.1, { p.2 with st := .joining }) else p
  let merge := fun (n : Nat) =>
    ({ child := n, regionNo := 0, awaiting := false, reported := [], commitSeq := commitSeq, thr := tid } : Merge)
  let d := w.d.modCtx c (fun k => { k with revs := k.revs.map joining, merges := k.merges ++ ns.map merge })
  { w with d := d.modThr tid (fun t => { t with joinWait := some (t.joinWait.getD seq) }) }

/-! ### The merge engine (R433, R443, R446) -/

/-- The value of an element when both sides changed (R433). -/
def mergeRule (mt n p c a : Nat) : Nat :=
  let f32 := 10#4
  let rnd := fun (v : FRes) => (rounded f32 .near false v).code
  match mt with
  | 0 => c
  | 2 => (p + c + 2 ^ n - a) % 2 ^ n
  | 3 => rnd (fAdd .near (decodeF f32 p) (decodeF f32 (rnd (fAdd .near (decodeF f32 c) (decodeF f32 a).neg))))
  | 4 => if sgn n c ≤ sgn n p then p else c
  | 5 => if sgn n p ≤ sgn n c then p else c
  | 6 => rnd (fMax (decodeF f32 p) (decodeF f32 c))
  | 7 => rnd (fMin (decodeF f32 p) (decodeF f32 c))
  | 8 => p ||| c
  | 9 => p &&& c
  | _ => p
/-- The bytes of a page as a revision sees them (R438). -/
def W.viewPage (w : W) (c rnum page : Nat) : List Byte :=
  match w.translate c rnum page with
  | .ok k _ => w.rds k (2 ^ 14)
  | _ => []
/-- An element that both sides changed: its address, datum, parent and child values, and the merged value. -/
structure Conflict where
  addr : Nat
  a : Nat
  p : Nat
  c : Nat
  m : Nat
deriving DecidableEq, Repr
/-- A page merged (R443): the elements that change, and the conflicts. -/
def mergePage (mt es page : Nat) (av pv cv : List Byte) : List Host.Cell × List Conflict :=
  (List.range (2 ^ 14 / es)).foldl (fun (acc : List Host.Cell × List Conflict) e =>
    let el := fun (l : List Byte) => ofBytes ((l.drop (e * es)).take es)
    let a := el av
    let p := el pv
    let c := el cv
    let x := page + e * es
    if c = a then acc
    else if p = a then (acc.1 ++ cellsAt x (leBytes es c), acc.2)
    else
      let m := mergeRule mt (8 * es) p c a
      ((if m = p then acc.1 else acc.1 ++ cellsAt x (leBytes es m)), acc.2 ++ [⟨x, a, p, c, m⟩])) ([], [])
/-- Bytes of a merge or of its answer written as stores of the `join`'s commit (R453). -/
def W.mergeWrite (w : W) (c rnum : Nat) (j : Merge) (cs : List Host.Cell) : W :=
  let who := match w.d.thr j.thr with | some t => t.who | none => 0
  w.loggedWrite c rnum j.commitSeq who cs
/-- A region merged (R443, R446): the conflicts that are reported are answered before the next region. -/
def W.mergeRegion (w : W) (c : Nat) (j : Merge) (rn : Nat) : W × Bool :=
  let k := w.d.ctx c
  let v := (k.regions.get rn {}).desc
  let base := regionBase v
  let mt := regionMtype v
  let es := regionEsize v
  let child := k.rev j.child
  let pages := ((child.owned.map Prod.fst).filter (fun x => decide (base ≤ x) && decide (x < base + regionSize v))).isort
    (fun a b => decide (a ≤ b))
  let r := pages.foldl (fun (acc : W × List Conflict) x =>
    let q := mergePage mt es x (acc.1.viewPage c child.datum x) (acc.1.viewPage c child.parent x) (acc.1.viewPage c j.child x)
    (acc.1.mergeWrite c child.parent j q.1, acc.2 ++ q.2)) (w, [])
  let w := r.1
  let cfs := r.2
  -- FLAG: the bits of the conflict bitmap, in the root's memory
  let w := if mt = 10 then cfs.foldl (fun (w : W) q =>
      let e := (q.addr - base) / es
      let a := (regionAux v).1 + e / 8
      match w.readHome c 0 a 1 with
      | (.ok bs, w) => w.mergeWrite c 0 j [(a, bs.headD 0#8 ||| (1#8 <<< (e % 8)))]
      | (_, w) => w) w else w
  let rep := mt == 11 || (w.d.bctl c).getLsbD 28
  let buf := if mt = 11 then regionAux v else regionCbuf v
  let told := if rep then cfs.take (buf.2 / 32) else []
  let w := told.zipIdx.foldl (fun (w : W) p =>
    w.pkgWrite c 0 (cellsAt (buf.1 + 32 * p.2) ([p.1.addr, p.1.a, p.1.p, p.1.c].flatMap (leBytes 8)))) w
  let lost := if rep then cfs.length - told.length else 0
  let d := w.d.modRev c j.child (fun x => { x with conflicts := (x.conflicts + cfs.length) % 2 ^ 32, overflow := (x.overflow + lost) % 2 ^ 32 })
  if rep ∧ cfs ≠ [] then
    let lanes := [d.ident c, BitVec.ofNat 64 (k.revHandle j.child), BitVec.ofNat 64 rn, BitVec.ofNat 64 told.length,
      BitVec.ofNat 64 lost, BitVec.ofNat 64 buf.1]
    let d := d.request 3 8 lanes
    let j' := { j with regionNo := rn, awaiting := true, reported := told.map (fun q => q.addr) }
    ({ w with d := d.modCtx c (fun k => { k with merges := k.merges.map (fun m => if m == j then j' else m) }) }, true)
  else ({ w with d := d }, false)
/-- A merge can read and write what it needs (R443): every page that the child copied, the bitmap and the conflict buffer of each
region that is left. DESIGN CHOICE: while one of them is absent or its home does not serve it, the merge waits (log 31). -/
def W.mergeReady (w : W) (c : Nat) (j : Merge) (rs : List Nat) : Bool :=
  let k := w.d.ctx c
  let par := (k.rev j.child).parent
  let served := fun (rnum x : Nat) => match w.translate c rnum x with | .ok _ _ => w.reach x == .served | _ => false
  let lines := fun (p : Nat) => (List.range 64).map (fun i => p + 256 * i)
  let copied := (k.rev j.child).owned.map Prod.fst
  copied.all (fun p => (lines p).all (fun x => served par x && served j.child x)) &&
    rs.all (fun n =>
      let v := (k.regions.get n {}).desc
      (rangePages [regionAux v, regionCbuf v]).all (fun p => (lines p).all (served 0)))
/-- Regions merged from a number on, until one reports: whether all are done. -/
def W.mergeFrom (w : W) (c : Nat) (j : Merge) : List Nat → W × Bool
  | [] => (w, true)
  | n :: r =>
    match w.mergeRegion c j n with
    | (w, true) => (w, false)
    | (w, false) => W.mergeFrom w c j r

/-- A datum that no unjoined revision is forked against is freed (R442): its frames and BASE pass to the one revision whose BASE
it is. -/
def Dev.freeDatum (d : Dev) (c n : Nat) : Dev :=
  let k := d.ctx c
  let x := k.rev n
  if x.st ≠ .retained ∨ k.liveRevs.any (fun p => p.2.datum == n && (p.2.st == .active || p.2.st == .joining)) = true then d
  else
    let heir := (k.revs.find? (fun p => p.2.base == n && p.2.st != .joined && (p.1 == 0 || p.2.st != .free))).map Prod.fst
    match heir with
    | some h =>
      let y := k.rev h
      let mine := y.owned.map Prod.fst
      let pass := x.owned.filter (fun p => !mine.contains p.1)
      let back := (x.owned.filter (fun p => mine.contains p.1)).map Prod.snd
      let d := d.modCtx c (fun k => { k with revs := (k.revs.set h { y with owned := y.owned ++ pass, base := x.base }).set n { rgen := x.rgen } })
      { d with pool := d.pool ++ back ++ x.reserve }
    | none =>
      let d := d.modRev c n (fun x => { rgen := x.rgen })
      { d with pool := d.pool ++ x.owned.map Prod.snd ++ x.reserve }
/-- A revision enters JOINED (R442): its frames and unused reserve return to the pool, and its datum may be freed. -/
def Dev.joined (d : Dev) (c n : Nat) : Dev :=
  let x := (d.ctx c).rev n
  let d := { d with pool := d.pool ++ x.owned.map Prod.snd ++ x.reserve }
  (d.modRev c n (fun x => { x with st := .joined, owned := [], reserve := [] })).freeDatum c x.datum

/-- The merge that the engine of a context runs. -/
def Ctx.merge (k : Ctx) : Option Merge := match k.merges with | j :: _ => if j.awaiting then none else some j | [] => none
/-- MERGE_COMPLETE (R443): the merge at the head of context `a` goes on through its regions; when all are merged its child is
JOINED, and when it was the last of its thread the thread acquires (R449). -/
def execMergeComplete (s : State) : Host.Outcome State Fault Refusal :=
  run (fun w =>
    let c := w.d.arg.a
    match (w.d.ctx c).merge with
    | none => w
    | some j =>
      let rs := (((w.d.ctx c).regions.filter (fun p => p.2.declared && decide (j.regionNo ≤ p.1))).map Prod.fst).isort (fun a b => decide (a ≤ b))
      if !w.mergeReady c j rs then w
      else
      match w.mergeFrom c j rs with
      | (w, false) => w
      | (w, true) =>
        let d := w.d.modCtx c (fun k => { k with merges := k.merges.erase j })
        let d := d.joined c j.child
        let w := W.writeMaps { w with d := d } c ((d.ctx c).mapRecs.map Prod.fst)
        if (d.ctx c).merges.any (fun m => m.thr == j.thr) then w
        else
          match w.d.thr j.thr with
          | none => w
          | some t => W.acquireBy { w with d := w.d.modThr j.thr (fun t => { t with joinWait := none }) } 2 t.grids) s

/-- MANSWER (R446): the host's results for the region that its child's merge reports; then the merge goes on. -/
def execManswer (cmd : CmdRec) (s : State) : Host.Outcome State Fault Refusal :=
  run (fun w =>
    let c := cmd.ctx.toNat
    let k := w.d.ctx c
    let stale := W.finish { w with d := w.d.countStale c } c cmd sStale 0
    let n := cmd.a4.toNat
    let x := cmd.a3.toNat
    if k.st = .free ∨ k.st = .killed ∨ k.gen ≠ cmd.gen then stale
    else
      match (k.revOf cmd.a2.toNat).bind (fun r => k.merges.find? (fun m => m.child == r && m.awaiting)) with
      | none => stale
      | some j =>
        if 2 ^ 24 < n ∨ 2 ^ 57 < x + 16 * n then w.finish c cmd sBadArgument 0
        else
          match w.readHome c 0 x (16 * n) with
          | (.ok bs, w) =>
            let es := regionEsize (k.regions.get j.regionNo {}).desc
            let par := (k.rev j.child).parent
            let w := (List.range n).foldl (fun (w : W) i =>
              let a := ofBytes ((bs.drop (16 * i)).take 8)
              if j.reported.contains a then w.mergeWrite c par j (cellsAt a ((bs.drop (16 * i + 8)).take es)) else w) w
            let j' := { j with regionNo := j.regionNo + 1, awaiting := false, reported := [] }
            let d := w.d.modCtx c (fun k => { k with merges := k.merges.map (fun m => if m == j then j' else m) })
            W.finish { w with d := d } c cmd sDone cmd.a2.toNat
          | (_, w) => w.finish c cmd sBadArgument 0) s

/-! ### The end of a revision (R442, R444) -/

/-- The pages of the regions leave REVISED (R442): the frame that the root sees is written into ADDR, and the frames of the map
records return to the pool. -/
def W.unrevise (w : W) (c : Nat) : W :=
  let w := (w.d.regionPages c).foldl (fun (w : W) x =>
    match w.leafAt x with
    | none => w
    | some l =>
      if l.state ≠ stRevised then w
      else
        let w1 := l.w1 / 2 ^ 48 * 2 ^ 48
        match viewFrame (w.d.ctx c).revs 1024 0 x with
        | none => w.setLeaf x l (settled l.w0) w1
        | some f =>
          let w := w.setLeaf x l (settled (withAddr l.w0 f)) w1
          { w with d := { w.d with pool := w.d.pool ++ [l.frame] } }) w
  let d := { w.d with pool := w.d.pool ++ (w.d.ctx c).mapFrames }.modCtx c (fun k => { k with mapFrames := [], mapRecs := [] })
  { w with d := d.modRev c 0 (fun r => { r with owned := [], base := 0, lastDatum := 0, wrote := false }) }
/-- Lines tagged with a RID written back and invalidated in every L1 and L2 (R442). -/
def W.dropRid (w : W) (rid : Nat) : W :=
  let w := w.writeBackAll (w.d.grids.map Prod.fst) (fun l => l.rid == rid)
  { w with d := { w.d with grids := w.d.grids.map (fun g => (g.1, { g.2 with l1 := g.2.l1.filter (fun l => l.rid != rid) })),
                             l2 := w.d.l2.filter (fun l => l.rid != rid) } }
/-- RID_FREE (R442): revision `b` of context `a` is JOINED; its lines are dropped, its RID and its number are free. -/
def execRidFree (s : State) : Host.Outcome State Fault Refusal :=
  run (fun w =>
    let c := w.d.arg.a
    let n := w.d.arg.b
    let x := (w.d.ctx c).rev n
    if n = 0 ∨ x.st ≠ .joined then w
    else
      let w := if x.rid = 0 then w else w.dropRid x.rid
      let w := { w with d := w.d.modRev c n (fun x => { rgen := x.rgen }) }
      if (w.d.ctx c).liveRevs.isEmpty then w.unrevise c else w) s
/-- KILL frees every revision without a merge (R444). -/
def W.killRevs (w : W) (c : Nat) : W :=
  let k := w.d.ctx c
  let w := k.liveRevs.foldl (fun (w : W) p => if p.2.rid = 0 then w else
    { w with d := { w.d with grids := w.d.grids.map (fun g => (g.1, { g.2 with l1 := g.2.l1.filter (fun l => l.rid != p.2.rid) })),
                             l2 := w.d.l2.filter (fun l => l.rid != p.2.rid) } }) w
  let kept := (w.d.regionPages c).filterMap (fun x => viewFrame k.revs 1024 0 x)
  let w := w.unrevise c
  let back := k.liveRevs.flatMap (fun p => (p.2.owned.map Prod.snd).filter (fun f => !kept.contains f) ++ p.2.reserve)
  { w with d := { (w.d.modCtx c (fun k => { k with
      revs := k.revs.map (fun p => if p.1 = 0 then p else (p.1, { rgen := p.2.rgen })), merges := [], regions := [] })) with
    pool := w.d.pool ++ back } }

/-! ### `rinfo` (R451) -/

/-- STATE code of a revision. -/
def rstateCode (s : RState) : Nat :=
  match s with
  | .free => 0 | .active => 1 | .joining => 2 | .joined => 3 | .retained => 4
/-- An item of `rinfo` for a thread. -/
def Dev.rinfoItem (d : Dev) (t : Thread) (a item : Nat) : Nat :=
  let k := d.ctx t.ctx
  match item with
  | 1 => k.revHandle (d.rnumOf t)
  | 2 => k.liveRevs.length % 2 ^ 10 + (Config.rids - d.ridsTaken.length) * 2 ^ 16
  | 4 =>
    let r := k.regions.get a {}
    if r.declared then bits (vlane r.desc 2) 1 0 + regionMtype r.desc * 2 ^ 4 + 2 ^ 8 else 0
  | _ =>
    match k.revOf a with
    | none => 0
    | some n =>
      let r := k.rev n
      match item with
      | 0 => (if n = 0 then 1 else rstateCode r.st) + r.depth * 2 ^ 4 + r.parent * 2 ^ 8 + r.base * 2 ^ 18
      | 3 =>
        let mine := (k.liveRevs.filter (fun p => p.2.st == .retained && p.2.parent == n)).map (fun p => p.2.reserve.length)
        (r.reserve.length + mine.sum) + r.owned.length * 2 ^ 32
      | _ => if r.st = .joined then r.conflicts + r.overflow * 2 ^ 32 else 0
/-- RINFO (R451). -/
def execRinfo (f : FmtQ) (s : State) : Host.Outcome State Fault Refusal :=
  runR (fireQ (.rinfo f) fun w c t =>
    w.d.answer c [] (both f.t0 f.t1 (splat64 (BitVec.ofNat 64 (w.d.rinfoItem t c.ops.a0.toNat f.sub.toNat))))) s

end Sys2Proof.Machine
end

