-- ==== Sys2Proof/Machine/Thermal.lean ====
section
/-!
DEFINITION. Threads that change their grids, and heat (02 R36-R38, R43-R45, R51, 13 R376, 09 R277): the move of a thread to
another core, slots disabled and enabled again, displaced threads, the thermal ranking.
-/

namespace Sys2Proof.Machine

/-- A thread put on another core: the slots and banks it no longer needs are released, those of the new core are held, and its
streams go with core grid 0 (R43, R51). -/
def Dev.moveThread (d : Dev) (tid first width : Nat) (slots : List (Nat × Nat)) : Dev :=
  match d.thr tid with
  | none => d
  | some t =>
    let mx := (d.kernelRec t).mx
    let d := d.releaseSlots tid
    let d := slots.foldl (fun (d : Dev) s => d.modGrid s.1 (fun gr => { gr with
      slots := gr.slots.set s.2 { gr.slots.get s.2 {} with thr := some tid, passed := 0, waitSince := d.cycle },
      banks := gr.banks.set tid (banksPer t.regCnt width), owner := if mx then some tid else gr.owner,
      wtags := if mx && !t.grids.contains s.1 then [] else gr.wtags })) d
    d.modThr tid (fun t => { t with first := first, width := width, slots := slots })

/-- Release, then acquire, at PACKAGE scope at the block boundary where a thread moves (09 R277). -/
def W.boundary (w : W) (tid : Nat) (old new : List Nat) : W :=
  match w.d.thr tid with
  | none => w
  | some t => (w.releaseNow tid t.ctx 2 old).acquireBy 2 new

/-- Instances of a thread, oldest first, that are COMPLETE and will commit one after another (02 R38). -/
def Dev.committable (d : Dev) (tid : Nat) : List (Nat × Inst) :=
  (d.instsOf tid).takeWhile (fun p => p.2.plane.isSome && p.2.whole && !p.2.mispredicted && p.2.pend.isNone)
/-- A thread that can be moved now: its slot is in RUN or DISPLACED, it is outside every resident loop, and none of its instances but
those that are COMPLETE and committable holds a performed atomic or a running matrix step (log 29). -/
def Dev.atBoundary (d : Dev) (tid : Nat) (t : Thread) : Bool :=
  let kept := (d.committable tid).map Prod.fst
  (t.st == .run || t.st == .displaced) && t.rcd.isNone && t.loops.isEmpty &&
    d.insts.all (fun p => p.2.thr != tid || kept.contains p.1 ||
      (p.2.preLoops.isEmpty && p.2.atomics == 0 && !p.2.running && !p.2.dying && p.2.pend.isNone))
/-- Sets a displaced thread may go to, the coolest first: of its width, in the parcel, with free slots and banks on grids that
are not hot and that none of its disabled slots is on, and with every share of a live tile (R44). -/
def Dev.displaceSets (d : Dev) (tid : Nat) (t : Thread) : List (Nat × List (Nat × Nat)) :=
  let bad := (t.slots.filter (fun s => ((d.grid s.1).slots.get s.2 {}).disabled)).map Prod.fst
  let sets := ((List.range Config.fields).flatMap (fun f => alignedSets f t.width)).filter (fun s =>
    (setGrids s t.width).all (fun q => !(d.grid q).hot && !bad.contains q) && (t.tileLost (setGrids s t.width)).isNone)
  let hottest := fun (s : Nat) => (setGrids s t.width).foldl (fun m q => max m (d.rank q)) 0
  ((sets.isort (fun a b => decide (hottest a < hottest b) || (hottest a == hottest b && decide (a ≤ b)))).filterMap
    (fun s => (d.qualify tid t s t.width).map (fun l => (s, l))))
/-- A thread with a disabled slot is moved, or waits in DISPLACED (R51). Instances that are COMPLETE and committable commit first
(02 R38). Under THERM_HA the field controller names the set: `target` is its first grid plus 1, and until it does the thread stays
where it is. DESIGN CHOICE: a thread in DISPLACED whose own slot is enabled again goes to FETCH where it is: neither R37 nor R51
gives that transition (log 92). -/
def W.displace (w : W) (tid target : Nat) : W :=
  match w.d.thr tid with
  | none => w
  | some t =>
    if !w.d.slotDisabled t then
      { w with d := w.d.modThr tid (fun t => if t.st = .displaced then { t with st := .fetch, stSince := w.d.cycle } else t) }
    else if !w.d.atBoundary tid t then w
    else
      let ha := (w.d.bctl t.ctx).getLsbD 27
      let kept := w.d.committable tid
      let w := { w with d := w.d.flushFrom tid (match kept.getLast? with | some (_, x) => x.seq + 1 | none => 0) }
      let all := w.d.displaceSets tid t
      let l := if ha then all.filter (fun p => p.1 + 1 == target) else all
      if !kept.isEmpty then w
      else
        match all, l with
        | [], _ => { w with d := w.d.modThr tid (fun t => { t with st := .displaced, stSince := w.d.cycle }) }
        | _, [] => w
        | _, (first, slots) :: _ =>
          let w := w.boundary tid t.grids (setGrids first t.width)
          { w with d := (w.d.moveThread tid first t.width slots).modThr tid (fun t => { t with st := .fetch, stSince := w.d.cycle }) }

/-- THERMAL_THRESHOLD (R51): grid `a` measures `b` °C; above THERM_THR it is hot. -/
def execThermalThreshold (s : State) : Host.Outcome State Fault Refusal :=
  runR (fun w =>
    let e := w.d.arg
    w.d.modGrid e.a (fun g => { g with temp := e.b, hot := g.hot || decide (w.g.thermThr < e.b) })) s

/-- The highest-numbered occupied slot of a grid that is not disabled. -/
def Grid.hotSlot (g : Grid) : Option Nat :=
  (List.range Config.slots).reverse.find? (fun k => (g.slots.get k {}).thr.isSome && !(g.slots.get k {}).disabled)
/-- THERMAL_SLOT_DISABLE (R51): hot grid `a` disables a slot; its thread moves at its next block boundary, to the set `b` − 1 where
the field controller chooses. -/
def execThermalSlotDisable (s : State) : Host.Outcome State Fault Refusal :=
  run (fun w =>
    let g := w.d.arg.a
    let target := w.d.arg.b
    match (w.d.grid g).hot, (w.d.grid g).hotSlot with
    | true, some k =>
      let sl := (w.d.grid g).slots.get k {}
      let w := { w with d := w.d.modGrid g (fun gr => { gr with slots := gr.slots.set k { sl with disabled := true } }) }
      (match sl.thr with | some t => w.displace t target | none => w)
    | _, _ => w) s

/-- THERMAL_SLOT_ENABLE (R51): grid `a`, at `b` °C, 5 °C or more below the threshold, enables its lowest disabled slot again; with
none left it is no longer hot. -/
def execThermalSlotEnable (s : State) : Host.Outcome State Fault Refusal :=
  runR (fun w =>
    let e := w.d.arg
    let gr := w.d.grid e.a
    if w.g.thermThr < e.b + 5 then w.d.modGrid e.a (fun g => { g with temp := e.b })
    else
      match (List.range Config.slots).find? (fun k => (gr.slots.get k {}).disabled) with
      | none => w.d.modGrid e.a (fun g => { g with temp := e.b, hot := false })
      | some k =>
        let slots := gr.slots.set k { gr.slots.get k {} with disabled := false }
        w.d.modGrid e.a (fun g => { g with
          temp := e.b, slots := slots, hot := (List.range Config.slots).any (fun j => (slots.get j {}).disabled) })) s

/-- DISPLACED_MOVE (R51): thread `a`, whose slot is disabled, is moved when a set qualifies. -/
def execDisplacedMove (s : State) : Host.Outcome State Fault Refusal :=
  run (fun w => w.displace w.d.arg.a w.d.arg.b) s

/-- THERMAL_RANKING_REFRESH (13 R376): field `a` measures the temperatures `ns` of its grids and ranks them, the coolest first;
a hot grid is not in the table. -/
def execThermalRankingRefresh (s : State) : Host.Outcome State Fault Refusal :=
  runD (fun d =>
    let f := d.arg.a
    let gs := List.range Config.gridsPerField
    let at_ := fun (o : Nat) => f * Config.gridsPerField + o
    let d := if d.arg.ns.length = Config.gridsPerField then
        d.arg.ns.zipIdx.foldl (fun (d : Dev) p => d.modGrid (at_ p.2) (fun g => { g with temp := p.1 })) d
      else d
    let temp := fun (o : Nat) => (d.grid (at_ o)).temp
    let l := (gs.filter (fun o => !(d.grid (at_ o)).hot)).isort (fun a b => decide (temp a < temp b) || (temp a == temp b && decide (a ≤ b)))
    d.modField f (fun x => { x with ranking := l })) s

end Sys2Proof.Machine
end

