-- ==== Sys2Proof/Machine/Contexts.lean ====
section
/-!
DEFINITION. Contexts (10): configuration and bind records, the life cycle, pre-emption by source gating, save images, restore,
dumps, kill, and the context instructions. The subject of an event is context `a` of `Dev.arg`.
-/

namespace Sys2Proof.Machine

/-! ### Records (10 R282-R283, 13 R367-R369) -/

/-- A configuration record with a value out of range (R282-R283). -/
def badConfig (v : Vec) : Bool :=
  let l := fun (k : Nat) => (vlane v k).toNat
  let kib := l 5 % 2 ^ 16
  l 0 / 2 ^ 12 != 0 || decide (nbits (l 0) 7 3 < 10) || decide (30 < nbits (l 0) 7 3) || l 1 / 2 ^ 40 != 0 ||
    l 2 % 4096 != 0 || decide (2 ^ 57 ≤ l 2) || l 3 % 4096 != 0 || decide (2 ^ 57 ≤ l 3) || l 4 % 4096 != 0 ||
    decide (kib < 16) || decide (4096 < kib) || l 5 / 2 ^ 16 != 0 || l 6 % 65536 != 0 || decide (2 ^ 57 ≤ l 6)
/-- The words of a record. -/
def recWords (v : Vec) : List Word := (List.range 8).map (fun k => vlane v k)
/-- Watchdog limit in cycles of a configuration. -/
def cfgWdog (cfg : List Word) : Nat := 2 ^ nbits (cfg.headD 0#64).toNat 7 3

/-- The bind record in 128 bytes; none with a field out of range (13 R367-R369). -/
def bindOf (bs : List Byte) : Option Plat :=
  let word := fun (o : Nat) => ofBytes ((bs.drop o).take 8)
  let b := word 0x38
  let base := word 0x50
  let units := word 0x58
  let budgets := (List.range 8).map (fun f => ofBytes ((bs.drop (0x40 + 2 * f)).take 2))
  let parcel := BitVec.ofNat 448 (ofBytes (bs.take 56))
  if parcel = 0#448 || b / 2 ^ 48 != 0 || nbits b 47 40 == 0 || nbits b 39 32 == 0 || nbits b 23 21 != 0 || nbits b 20 16 == 0 ||
      decide (16 < nbits b 20 16) || nbits b 15 8 == 0 || nbits b 7 3 != 0 || budgets.any (fun x => decide (1200 < x)) ||
      base % 65536 != 0 || decide (2 ^ 57 < base + 65536 * units) || units == 0 || decide (65536 < units) ||
      (bs.drop 0x60).any (fun x => x != 0#8) then none
  else some { parcel := parcel, bctl := BitVec.ofNat 64 b, budgets := budgets, poolBase := base, poolUnits := units, locks := [] }
/-- The bind record at an address, if it can be read and is valid. -/
def W.readBind (w : W) (c x : Nat) : Option Plat × W :=
  if 2 ^ 57 < x + 128 then (none, w)
  else match w.readHome c 0 x 128 with
    | (.ok bs, w) => (bindOf bs, w)
    | (_, w) => (none, w)
/-- A parcel that holds a grid of another bound context. -/
def Dev.overlaps (d : Dev) (c : Nat) (p : Plat) : Bool :=
  d.ctxs.any (fun q => q.1 != c && (match q.2.plat with | some o => (o.parcel &&& p.parcel) != 0#448 | none => false))
/-- Leaves of a thread pool that are present and can be locked. -/
def W.poolLeaves (w : W) (p : Plat) : List Nat :=
  ((rangePages [(p.poolBase, 65536 * p.poolUnits)]).filterMap (fun x =>
    if w.isRemote x then none
    else (w.leafAt x).bind (fun l => if l.state = stPresent ∨ l.state = stLocked then some (l.base x) else none))).eraseDups

/-- A grid given to a context, or taken from it: what heat has done to it stays. -/
def Grid.fresh (g : Grid) (cycle : Nat) (n : Nat × Nat × Nat) : Grid :=
  { temp := g.temp, hot := g.hot, lastTime := cycle, blockCommits := n.1, sent := n.2.1, received := n.2.2,
    slots := (g.slots.filter (fun s => s.2.disabled)).map (fun s => (s.1, ({ disabled := true } : Slot))) }
/-- The bind record written into the plat (R369, 13 R370, R372). -/
def W.bindTo (w : W) (c : Nat) (p : Plat) : W :=
  let ls := w.poolLeaves p
  let w := w.lockAll ls
  let gs := (List.range Config.grids).filter (fun g => p.parcel.getLsbD g)
  let counts := (w.d.ctx c).counts
  let d := gs.foldl (fun (d : Dev) g => d.modGrid g (fun gr => gr.fresh d.cycle (counts.get g (0, 0, 0)))) w.d
  { w with d := d.modCtx c (fun k => { k with plat := some { p with locks := ls }, home := fieldOf (gs.headD 0), vcount := [] }) }

/-- The parcel released: owned lines are written back, counters are kept, pool pages are unlocked. -/
def W.releaseParcel (w : W) (c : Nat) : W :=
  match (w.d.ctx c).plat with
  | none => w
  | some p =>
    let gs := (w.d.ctx c).parcel
    let w := w.writeBackAll gs (fun _ => true)
    let d := w.d
    let counts := gs.foldl (fun (t : Tbl (Nat × Nat × Nat)) g =>
      t.set g ((d.grid g).blockCommits, (d.grid g).sent, (d.grid g).received)) (d.ctx c).counts
    let d := gs.foldl (fun (d : Dev) g => d.modGrid g (fun gr => gr.fresh d.cycle (0, 0, 0))) d
    let d := d.modCtx c (fun k => { k with plat := none, counts := counts, cuts := [], vcount := [] })
    let clear := fun (f : Field) => { f with fills := f.fills.filter (fun q => q.2.ctx != c), blocked := f.blocked.filter (fun q => q.1 != c) }
    { w with d := { d with fields := d.fields.map (fun f => (f.1, clear f.2)), unlocks := d.unlocks ++ p.locks } }

/-- A context's threads, groups and requests in the package, gone. -/
def Dev.dropObjects (d : Dev) (c : Nat) : Dev :=
  let mine := fun (t : Nat) => match d.thr t with | some x => x.ctx == c | none => false
  { d with
    insts := d.insts.filter (fun p => !mine p.2.thr), flight := d.flight.filter (fun f => d.ctxOfIid f.iid != c || (d.inst f.iid).isNone),
    retained := d.retained.filter (fun f => f.ctx != c), waits := d.waits.filter (fun q => (d.inst q.iid).isSome && d.ctxOfIid q.iid != c),
    threads := d.threads.filter (fun p => p.2.ctx != c), groups := d.groups.filter (fun g => g.ctx != c),
    copies := d.copies.filter (fun q => q.ctx != c), colls := d.colls.filter (fun q => q.ctx != c), fwds := d.fwds.filter (fun q => q.ctx != c),
    rels := d.rels.filter (fun q => q.ctx != c), spStores := d.spStores.filter (fun q => q.ctx != c),
    handovers := d.handovers.filter (fun h => !mine h.oldThr && !mine h.newThr), arrWaits := d.arrWaits.filter (fun a => a.ctx != c),
    preqs := d.preqs.filter (fun r => r.ctx != c), pubs := d.pubs.filter (fun p => p.ctx != c),
    remotes := d.remotes.filter (fun r => r.ctx != c || r.isSnoop) }

/-! ### Creation and binding (R288) -/

/-- CREATE (R281, R284, R288). -/
def execCreate (cmd : CmdRec) (s : State) : Host.Outcome State Fault Refusal :=
  run (fun w =>
    let c := cmd.ctx.toNat
    let k := w.d.ctx c
    if k.st = .killed then W.finish { w with d := w.d.countStale c } c cmd sStale 0
    else if k.st ≠ .free then w.finish c cmd sBadState 0
    else
      match w.readRec c cmd.a2.toNat with
      | (none, w) => w.finish c cmd sBadArgument 0
      | (some v, w) =>
        if badConfig v then w.finish c cmd sBadArgument 0
        else
          let new : Ctx := { st := .opened, gen := k.gen + 1#32, cfg := recWords v, wdog := cfgWdog (recWords v), posted := k.posted }
          W.finish { w with d := w.d.setCtx c new } c cmd sDone 0) s
/-- CONFIGURE (R282, R288). -/
def execConfigure (cmd : CmdRec) (s : State) : Host.Outcome State Fault Refusal :=
  run (command [.opened, .saved] (fun w c cmd =>
    match w.readRec c cmd.a2.toNat with
    | (none, w) => w.finish c cmd sBadArgument 0
    | (some v, w) =>
      if badConfig v then w.finish c cmd sBadArgument 0
      else W.finish { w with d := w.d.modCtx c (fun k => { k with cfg := recWords v, wdog := cfgWdog (recWords v) }) } c cmd sDone 0) cmd) s
/-- BIND (13 R367-R369). -/
def execBind (cmd : CmdRec) (s : State) : Host.Outcome State Fault Refusal :=
  run (command [.opened] (fun w c cmd =>
    match w.readBind c cmd.a2.toNat with
    | (none, w) => w.finish c cmd sBadArgument 0
    | (some p, w) =>
      if w.d.overlaps c p then w.finish c cmd sNoResource 0
      else
        let w := w.bindTo c p
        W.finish { w with d := w.d.modCtx c (fun k => { k with st := .bound }) } c cmd sDone 0) cmd) s
/-- The recorder armed by RUN or GRESUME (19 R503). -/
def Dev.armRecorder (d : Dev) (c : Nat) : Dev :=
  d.modCtx c (fun k => { k with recd := { k.recd with armed := k.recd.armed || k.recd.mode == 1 || k.recd.mode == 2 } })
/-- RUN (R288). -/
def execRun (cmd : CmdRec) (s : State) : Host.Outcome State Fault Refusal :=
  run (command [.bound] (fun w c cmd =>
    W.finish { w with d := (w.d.modCtx c (fun k => { k with st := .running })).armRecorder c } c cmd sDone 0) cmd) s
/-- UNBIND (R288): threads that a RESTORE has brought are gone with the parcel. -/
def execUnbind (cmd : CmdRec) (s : State) : Host.Outcome State Fault Refusal :=
  run (command [.bound] (fun w c cmd =>
    let w := W.releaseParcel { w with d := w.d.dropObjects c } c
    W.finish { w with d := w.d.modCtx c (fun k => { k with st := .opened }) } c cmd sDone 0) cmd) s

/-! ### Freeze, resume, dump (R288-R289, R307-R309) -/

/-- A command that waits for the end of a dump (R289). -/
def Dev.holdDump (d : Dev) (c : Nat) (code : BitVec 8) (cmd : CmdRec) : Dev :=
  d.modCtx c (fun k => { k with heldCmds := k.heldCmds ++ [(code, cmd)] })
/-- FREEZE (R288-R289). -/
def execFreeze (cmd : CmdRec) (s : State) : Host.Outcome State Fault Refusal :=
  run (command [.running, .dumping] (fun w c cmd =>
    if (w.d.ctx c).st = .dumping then { w with d := w.d.holdDump c 0x08#8 cmd }
    else (w.freeze c 0 none).finish c cmd sDone 0) cmd) s
/-- The live record that a handle names (R307). -/
def Ctx.recOf (k : Ctx) (h : Word) : Option (Nat × FRec) :=
  let e := bits h 5 0
  match k.frecs.look e with
  | some r => if h = recHandle e (bits (vlane r.lanes 0) 63 48) then some (e, r) else none
  | none => none
/-- A redirect address that is not 256-byte aligned, has bits [63:57] set or lies off the local package (R314). -/
def W.badRedirect (w : W) (a : Word) : Bool := a.toNat % 256 != 0 || bits a 63 57 != 0 || !w.isLocal a.toNat
/-- A gang stop lifted: the stops of every grid of the parcel, and the context goes on. -/
def Dev.unfreeze (d : Dev) (c : Nat) : Dev :=
  let d := (d.ctx c).parcel.foldl (fun (d : Dev) g => if (d.grid g).gang then d.liftGrid g else d) d
  { d with dumpQ := d.dumpQ.filter (fun q => q != c) }.modCtx c (fun k => { k with st := .running, cuts := [] })
/-- RESUME (R284, R288). DESIGN CHOICE: a handle that names no live record is BAD_ARGUMENT (log 91). -/
def execResume (cmd : CmdRec) (s : State) : Host.Outcome State Fault Refusal :=
  run (command [.frozen] (fun w c cmd =>
    match (w.d.ctx c).recOf cmd.a2 with
    | none => w.finish c cmd sBadArgument 0
    | some (e, r) =>
      if decide (2 < cmd.a3.toNat) || (cmd.a3 == 1#64 && w.badRedirect cmd.a4) then w.finish c cmd sBadArgument 0
      else
        let ended := match w.d.thr r.thr with | some u => decide (cmd.a3.toNat = 2) && !u.ended | none => false
        let w := match w.d.thr r.thr with | some u => if ended then w.monument u 5 0 u.commitSeq else w | none => w
        let d := w.d.resume c e cmd.a3.toNat cmd.a4.toNat
        W.finish { w with d := if (d.ctx c).frecs.isEmpty then d.unfreeze c else d } c cmd sDone 0) cmd) s
/-- DUMP (R309). -/
def execDump (cmd : CmdRec) (s : State) : Host.Outcome State Fault Refusal :=
  run (command [.frozen] (fun w c cmd =>
    let r := w.askDump c
    r.2.finish c cmd (if r.1 then sDone else sNoResource) 0) cmd) s
/-- DUMP_START (R308): the engine is idle and takes the next context that waits and is still FROZEN. -/
def execDumpStart (s : State) : Host.Outcome State Fault Refusal :=
  runD (fun d =>
    if d.dumping.isSome then d
    else
      match d.dumpQ with
      | [] => d
      | c :: rest =>
        let d := { d with dumpQ := rest }
        if (d.ctx c).st = .frozen then { d.modCtx c (fun k => { k with st := .dumping }) with dumping := some c } else d) s

/-! ### Pre-emption (R292-R296) -/

/-- The remaining limit of the oldest bounded wait of a thread, as an image keeps it (R297). -/
def Dev.keepWait (d : Dev) (tid : Nat) : Dev :=
  match (d.waits.filter (fun q => q.limit.isSome && (match d.inst q.iid with | some x => x.thr == tid | none => false))).isort
      (fun a b => decide (a.since ≤ b.since)) with
  | [] => d
  | q :: _ =>
    match d.inst q.iid with
    | none => d
    | some x =>
      let now := if d.stopped x.grid then (d.grid x.grid).stopCycle else d.cycle
      let left := (q.limit.getD 0) - (now - q.since)
      d.modThr tid (fun t => { t with waitLeft := some (x.blk, q.idx, left) })
/-- Threads of a context that have not ended. -/
def Dev.ctxThreads (d : Dev) (c : Nat) : List (Nat × Thread) := d.threads.filter (fun p => p.2.ctx == c && !p.2.ended)
/-- Every uncommitted instance of a context flushed; matrix steps that have started run to their end (R294). -/
def Dev.flushAll (d : Dev) (c : Nat) : Dev :=
  (d.ctxThreads c).foldl (fun (d : Dev) p => (d.keepWait p.1).flushFrom p.1 0) d
/-- An instance in which an atomic has been performed takes BLOCK_INCOMPLETE (R294). -/
def W.failAtomics (w : W) (c : Nat) : W :=
  (w.d.ctxThreads c).foldl (fun (w : W) p =>
    match (w.d.instsOf p.1).find? (fun q => decide (0 < q.2.atomics)) with
    | none => w
    | some (_, x) =>
      let miss := match x.code with | some b => (x.missingWrites b, x.missingLsids b) | none => (0, 0)
      let q : Pend := { cause := .blockIncomplete, w3 := BitVec.ofNat 64 miss.1,
                        w4 := BitVec.ofNat 64 (miss.2 + (if x.exit.isNone then 2 ^ 32 else 0)) }
      let w := { w with d := (w.d.flushFrom p.1 x.seq).modThr p.1 (fun t => { t with next := none }) }
      w.threadFault p.1 q x.blk x.atomics) w
/-- The end of the gating window (R293-R296): instances are flushed, releases are performed, owned lines and write streams reach
their homes; releases whose homes do not answer count as awaited acknowledgements. -/
def W.endWindow (w : W) (c : Nat) : W :=
  let w := w.failAtomics c
  let gs := (w.d.ctx c).parcel
  let w := { w with d := gs.foldl (fun (d : Dev) g => d.liftGrid g) (w.d.flushAll c) }
  let w := (w.d.ctxThreads c).foldl (fun (w : W) p => w.flushStreams p.1) w
  let w := (w.d.rels.filter (fun r => r.ctx == c)).foldl (fun (w : W) r => w.performRel r) w
  let w := w.writeBackAll gs (fun _ => true)
  let blocked := w.d.rels.any (fun r => r.ctx == c)
  let ack : Remote := ⟨.ack c, c, w.g.domId, 0, 0, w.d.now⟩
  let d := w.d.modCtx c (fun k => { k with gatePhase := 2, zeroSweeps := 0 })
  { w with d := if blocked then { d with remotes := d.remotes ++ [ack] } else d }
/-- PREEMPT (R288-R293): source gating begins; from FROZEN it has no window. -/
def execPreempt (cmd : CmdRec) (s : State) : Host.Outcome State Fault Refusal :=
  run (command [.running, .frozen, .dumping] (fun w c cmd =>
    let k := w.d.ctx c
    if k.st = .dumping then { w with d := w.d.holdDump c 0x06#8 cmd }
    else if 2 ^ 57 < cmd.a2.toNat + cmd.a3.toNat then w.finish c cmd sBadArgument 0
    else
      let d := w.d.modCtx c (fun q => { q with
        st := .gating, gatePhase := 1, gateAt := w.d.cycle, zeroSweeps := 0, fromFrozen := (k.st == .frozen),
        saveAddr := cmd.a2.toNat, saveLen := cmd.a3.toNat, owes := some cmd, cuts := [] })
      let d := { d with dumpQ := d.dumpQ.filter (fun q => q != c) }
      if k.st = .frozen then W.endWindow { w with d := d } c else { w with d := d }) cmd) s
/-- GATING_WINDOW_END (R293): 4,096 cycles after the gating point. -/
def execGatingWindowEnd (s : State) : Host.Outcome State Fault Refusal :=
  run (fun w =>
    let c := w.d.arg.a
    let k := w.d.ctx c
    if k.st = .gating ∧ k.gatePhase = 1 ∧ k.gateAt + 4096 ≤ w.d.cycle then w.endWindow c else w) s

/-- Something of a context is in flight (R295, 12 R365, 14 R408, 16 R452). -/
def Dev.outstanding (d : Dev) (c : Nat) : Bool :=
  let mine := fun (iid : Nat) => (d.inst iid).isSome && d.ctxOfIid iid == c
  let thr := fun (t : Nat) => match d.thr t with | some x => x.ctx == c | none => false
  d.insts.any (fun p => d.ctxOf p.2 == c) || d.flight.any (fun f => mine f.iid) || d.rels.any (fun r => r.ctx == c) ||
    d.spStores.any (fun q => q.ctx == c) || d.fwds.any (fun q => q.ctx == c) || d.arrWaits.any (fun a => a.ctx == c) ||
    d.handovers.any (fun h => thr h.oldThr) || (d.ctx c).merges.any (fun m => !m.awaiting) ||
    d.copies.any (fun q => q.ctx == c && (q.over || (!d.copyPaused q && q.waitPage.isNone))) ||
    d.threads.any (fun p => p.2.ctx == c && p.2.mboxes.any (fun m => !m.2.waiting.isEmpty)) ||
    d.remotes.any (fun r => r.ctx == c)
/-- QUIESCENCE_SWEEP (R295): two sweeps in a row that read zero report quiescence. -/
def execQuiescenceSweep (s : State) : Host.Outcome State Fault Refusal :=
  runD (fun d =>
    let c := d.arg.a
    let k := d.ctx c
    if k.st = .gating ∧ k.gatePhase = 2 then
      let d := if d.rels.any (fun r => r.ctx == c) then d else { d with remotes := d.remotes.filter (fun r => r.kind != .ack c) }
      if d.outstanding c then d.modCtx c (fun k => { k with zeroSweeps := 0 })
      else if k.zeroSweeps = 0 then d.modCtx c (fun k => { k with zeroSweeps := 1 })
      else d.modCtx c (fun k => { k with st := .quiescent, gatePhase := 0, zeroSweeps := 0 })
    else d) s

/-! ### Save images (R297-R299) -/

/-- The save image of a context as its committed state stands, without predictor state; the device is one whose uncommitted
instances are flushed. -/
def W.imageOf (w : W) (c : Nat) : Image :=
  let d := w.d
  let ts := (d.threads.filter (fun p => p.2.ctx == c)).map (fun p => (p.1, { p.2 with retPred := [] }))
  let listed := fun (k n : Nat) => (w.listed k n).map (fun x => ((x - k, w.rd x) : Host.Cell))
  { ctx := d.ctx c, threads := ts, groups := d.groups.filter (fun g => g.ctx == c), copies := d.copies.filter (fun q => q.ctx == c),
    colls := d.colls.filter (fun q => q.ctx == c), arrWaits := d.arrWaits.filter (fun a => a.ctx == c),
    preqs := d.preqs.filter (fun r => r.ctx == c),
    weights := ts.flatMap (fun p => (p.2.grids.zipIdx.filter (fun q => (d.grid q.1).owner == some p.1)).map (fun q =>
      ⟨p.1, q.2, (d.grid q.1).wtags, listed (wbKey q.1 0) (2 ^ 19)⟩)),
    rings := (d.ctx c).queues.flatMap (fun q =>
      if q.2.kind = 3 ∧ q.2.st ≠ .none ∧ q.2.st ≠ .unbound then
        (List.range q.2.width).map (fun m => ⟨q.1, m, listed (spKey (q.2.first + m) q.2.scratch) (64 * q.2.size)⟩)
      else []) }
/-- The feature vector (R299). -/
def Image.features (i : Image) : Nat :=
  ofBits [i.threads.any (fun p => p.2.tileLive) || i.weights.any (fun q => q.tags.any (fun t => t.2 != .empty)),
    i.ctx.sets.any (fun t => t.2.st == .opened || t.2.st == .running || t.2.st == .draining),
    i.ctx.revs.any (fun r => r.1 != 0 && (r.2.st == .active || r.2.st == .joining || r.2.st == .retained)),
    i.ctx.undoEn || i.ctx.log.segs.any (fun s => !s.2.ents.isEmpty),
    i.ctx.recd.mode != 0,
    i.threads.any (fun p => p.2.flags.getLsbD 5)]
/-- Which of the twelve sections hold something (R298). -/
def Image.sections (i : Image) : List Bool :=
  let f := i.features
  [!i.threads.isEmpty, f.testBit 0, i.threads.any (fun p => p.2.streams.any (fun s => s.2.isOpen)),
    i.ctx.queues.any (fun q => q.2.st != .none) || i.threads.any (fun p => !p.2.deque.isEmpty || p.2.mboxes.any (fun m => !m.2.msgs.isEmpty)),
    i.ctx.bars.any (fun b => b.2.armed) || i.threads.any (fun p => p.2.latches != 0#16),
    !i.copies.isEmpty || i.ctx.copyTags.any (fun t => t.2 != 0#64), !i.ctx.frecs.isEmpty, f.testBit 2, f.testBit 1, f.testBit 3,
    f.testBit 4, true]
/-- A fault in the fault queue had no handler route (R298); a BREAKPOINT record is none. -/
def Ctx.frozenPending (k : Ctx) : Bool := k.frecs.any (fun r => !r.2.routed && r.2.cause != .breakpoint)
/-- The bytes of image number n for context c: the header of R298 and 64 bytes a section, whose first word is the number (log 9),
with the device that has used the free bytes. -/
def imageBytes (d : Dev) (c n : Nat) (i : Image) : List Byte × Dev :=
  let secs := i.sections
  let free := fun (k : Nat) => (List.range 56).map (fun j => Config.freeByte (d.freeCtr + 56 * k + j))
  let offs := secs.zipIdx.map (fun s => if s.1 then 256 + 64 * ((secs.take s.2).filter (fun b => b)).length else 0)
  let body := ((secs.filter (fun b => b)).zipIdx).flatMap (fun s => leBytes 8 n ++ free s.2)
  let len := 256 + body.length
  let head := leBytes 8 (1 + Config.stepping * 2 ^ 16) ++ leBytes 8 (d.ident c).toNat ++ leBytes 8 i.features ++ leBytes 8 len ++
    leBytes 8 ((if i.ctx.frozenPending then 1 else 0) + (if i.ctx.fromFrozen then 2 else 0)) ++
    leBytes 8 (i.threads.length % 2 ^ 16 + i.groups.length % 2 ^ 16 * 2 ^ 16) ++
    (List.range 8).flatMap (fun k => leBytes 8 (i.ctx.cfg.getD k 0#64).toNat) ++ offs.flatMap (leBytes 8)
  let digest := sha384 (head ++ List.replicate 48 0#8 ++ body)
  (head ++ digest ++ body, { d with freeCtr := d.freeCtr + 56 * 12 })
/-- What writing a range meets: nothing, or the cause that ends it (log 37). -/
def W.areaFault (w : W) (c base len : Nat) : Option Cause :=
  ((span base len).map pageOf).eraseDups.findSome? (fun x =>
    if w.reach x != .served then some .linkLost
    else match w.translate c 0 x with
      | .ok _ _ => none
      | .waits => none
      | .absent => some .pageAbsent
      | .noRegion => some .protection)
/-- An image written in an area: none where it does not fit or a write fails, with the cause. -/
def W.writeImage (w : W) (c base len : Nat) (i : Image) : Except Cause (Nat × W) :=
  let n := w.d.images.length
  let r := imageBytes w.d c n i
  if len < r.1.length then .error .protection
  else
    match w.areaFault c base r.1.length with
    | some e => .error e
    | none => .ok (n, W.pkgWrite { w with d := { r.2 with images := r.2.images ++ [i] } } c 0 (cellsAt base r.1))

/-- RIDs of a context's revisions given up: their lines are written back and invalidated (16 R452). -/
def W.dropRids (w : W) (c : Nat) : W :=
  let w := (w.d.ctx c).liveRevs.foldl (fun (w : W) p => if p.2.rid = 0 then w else w.dropRid p.2.rid) w
  { w with d := w.d.modCtx c (fun k => { k with revs := k.revs.map (fun p => (p.1, { p.2 with rid := 0 })) }) }
/-- SAVE_IMAGE_WRITTEN (R288, R297-R298): the image is written, the parcel is released, PREEMPT completes. -/
def execSaveImageWritten (s : State) : Host.Outcome State Fault Refusal :=
  run (fun w =>
    let c := w.d.arg.a
    let k := w.d.ctx c
    if k.st ≠ .quiescent then w
    else
      let w := w.dropRids c
      match w.writeImage c k.saveAddr k.saveLen (w.imageOf c) with
      | .error e => w.ctxFaulted c e
      | .ok (n, w) =>
        let w := W.releaseParcel { w with d := w.d.dropObjects c } c
        let w := { w with d := w.d.modCtx c (fun k => { k with st := .saved, lastImage := some n, owes := none }) }
        let w := w.notify c (stateCode .saved) 0
        match k.owes with
        | some cmd => w.finish c cmd sDone 0
        | none => w) s

/-- DUMP_COMPLETE (R308-R309): the dump of the context that the engine serves: header, primary and secondary records, image. A
command held for its end is performed next. -/
def execDumpComplete (s : State) : Host.Outcome State Fault Refusal :=
  run (fun w =>
    match w.d.dumping with
    | none => w
    | some c =>
      let k := w.d.ctx c
      let base := (k.cfg.getD 3 0#64).toNat
      let len := (k.cfg.getD 4 0#64).toNat
      let lanesOf := fun (h : Option Word) => match h.bind k.recOf with | some (_, r) => recWords r.lanes | none => List.replicate 8 0#64
      let recs := (k.frozenRec :: k.secRecs.map some).flatMap (fun h => (lanesOf h).flatMap (fun x => leBytes 8 x.toNat))
      let at_ := 64 + recs.length
      let head := fun (status : Nat) =>
        leBytes 8 (status + k.secRecs.length * 2 ^ 8) ++ leBytes 8 at_ ++ List.replicate 48 0#8
      let flushed : W := { w with d := w.d.flushAll c }
      let put := fun (w : W) (bs : List Byte) =>
        if base != 0 && decide (bs.length ≤ len) && (w.areaFault c base bs.length).isNone then w.pkgWrite c 0 (cellsAt base bs) else w
      let r : Nat × W :=
        if base = 0 ∨ len < at_ ∨ (w.areaFault c base at_).isSome = true then (0x70, put w (head 0x70))
        else
          let i := flushed.imageOf c
          match w.writeImage c (base + at_) (len - at_) { i with ctx := { i.ctx with fromFrozen := true } } with
          | .error _ => (0x70, put w (head 0x70 ++ recs))
          | .ok (_, w) => (0, put w (head 0 ++ recs))
      let w := r.2
      let back := k.heldCmds.map (fun p => packCmd p.1 p.2)
      let d := w.d.modCtx c (fun k => { k with st := .frozen, heldCmds := [], posted := back ++ k.posted })
      W.notify { w with d := { d with dumping := none } } c (stateCode .frozen) r.1) s

/-! ### Restore (R300-R301) -/

/-- Identities of the model's own in a context record moved on. -/
def Ctx.shift (k : Ctx) (n : Nat) : Ctx :=
  { k with frecs := k.frecs.map (fun r => (r.1, { r.2 with thr := r.2.thr + n })),
           merges := k.merges.map (fun m => { m with thr := m.thr + n }),
           tagLast := k.tagLast.map (fun t => (t.1, t.2 + n)) }
/-- Those of a requester. -/
def Requester.shift (q : Requester) (n : Nat) : Requester :=
  match q with
  | .thread t b a h => .thread (t + n) b a h
  | .copy k => .copy (k + n)
  | .coll k => .coll (k + n)
  | .burst t s => .burst (t + n) s
  | .advice => .advice
/-- Those of an image, so that one image can be restored more than once. -/
def Image.shift (i : Image) (n : Nat) : Image :=
  let loops := fun (l : LoopSt) => { l with placement := l.placement + n }
  { i with
    ctx := i.ctx.shift n,
    threads := i.threads.map (fun p => (p.1 + n, { p.2 with loops := p.2.loops.map loops })),
    groups := i.groups.map (fun g => { g with threads := g.threads.map (· + n) }),
    copies := i.copies.map (fun q => { q with thr := q.thr + n, key := q.key + n }),
    colls := i.colls.map (fun q => { q with key := q.key + n }),
    preqs := i.preqs.map (fun r => { r with who := r.who.map (fun q => q.shift n) }),
    weights := i.weights.map (fun q => { q with thr := q.thr + n }) }

/-- The state in which a saved slot goes on (R301, log 37): the one it was saved in. A wait is armed again by its block, which is
fetched again for it; a page that is not asked for again leaves its thread in RUN. -/
def Thread.wake (t : Thread) (asked : List (Nat × Nat)) : Thread :=
  let st := if t.st = .stopped then t.prior else t.st
  let num := t.pageReq.bind (fun n => (asked.find? (fun p => p.1 == n)).map Prod.snd)
  let go := fun (st : SlotSt) => if t.argLoad then SlotSt.fetch else st
  let s := match st with
    | .wait => if t.waitLeft.isSome then st else go .run
    | .retention => if (if t.fromWait then t.waitLeft.isSome else num.isSome) then st else go .run
    | .page => if num.isSome then st else go .run
    | _ => st
  let waits := num.isSome && (s == .page || s == .retention)
  { t with st := if t.rcd.isSome then .stopped else s, prior := if t.rcd.isSome then s else .run, fromWait := t.fromWait && s == .retention,
           pageReq := if waits then num else none, resumeAt := if waits then t.resumeAt else none,
           next := if waits || t.pageReq.isNone then t.next else t.resumeAt }
/-- A saved thread put on the lowest qualifying set of its width (R301); none where no set qualifies. -/
def Dev.rehome (d : Dev) (tid : Nat) (t : Thread) : Option Dev :=
  if t.ended then some (d.setThr tid t)
  else
    let bare := { t with slots := [] }
    let sets := (List.range Config.fields).flatMap (fun f => alignedSets f t.width)
    (sets.findSome? (fun s => (d.qualify tid bare s t.width).map (fun l => (s, l)))).map (fun q =>
      let on := fun (g : Nat) => q.1 + (g - t.first)
      let t' := { bare with first := q.1, streams := t.streams.map (fun s => (s.1, { s.2 with latches := [] })),
                            tileFirst := t.tileFirst.map (fun p => (p.1, on p.2)),
                            loops := t.loops.map (fun l => { l with grid := on l.grid }) }
      (d.setThr tid t').moveThread tid q.1 t.width q.2)
/-- The groups of an image with their threads, each group's scratchpad window where it fits (R300 check 3). -/
def Dev.rehomeGroups (d : Dev) (c : Nat) (ts : List (Nat × Thread)) (gs : List Group) : Option Dev :=
  gs.foldl (fun (acc : Option Dev) g => acc.bind (fun d =>
    let mine := ts.filter (fun p => p.2.gid == g.gid)
    match mine.foldl (fun (a : Option Dev) p => a.bind (fun d => d.rehome p.1 p.2)) (some d) with
    | none => none
    | some d =>
      let k := d.groupKernel g
      let on := (mine.flatMap (fun p => match d.thr p.1 with | some t => if t.ended then [] else t.grids | none => [])).eraseDups
      let others := { d with groups := d.groups.filter (fun q => !(q.ctx == c && q.gid == g.gid)) }
      let base := if k.scratch = 0 ∨ on = [] then some g.scratch
        else firstFit (on.flatMap (others.scratchUsed c)) k.scratch (d.ctx c).scratchCap
      base.map (fun b => d.modGroup c g.gid (fun q => { q with scratch := b })))) (some d)
/-- A scratchpad key moved with its thread and its group's window. -/
def moveKey (oldG newG oldW newW k : Nat) : Nat := spKey (newG + (spGrid k - oldG)) (k % 2 ^ 21 - oldW + newW)
/-- Copies of an image where their threads and their groups' windows now are (R301, 08 R252); no release stands before them. -/
def Dev.rehomeCopies (d : Dev) (c : Nat) (gs : List Group) : Dev :=
  let move := fun (q : Copy) =>
    if q.ctx ≠ c then q
    else
      let t := d.thr q.thr
      let first := match t with | some t => (if t.ended then q.first else t.first) | none => q.first
      let old := match gs.find? (fun g => g.gid == q.gid) with | some g => g.scratch | none => 0
      let new := match d.group c q.gid with | some g => g.scratch | none => old
      let key := moveKey q.first first old new
      let d := { q.d with dst := if q.d.dspace = .scratch then key q.d.dst else q.d.dst,
                          src := if q.d.sspace = .scratch then key q.d.src else q.d.src,
                          slim := if q.d.slim = 0 then 0 else key (q.d.slim - 1) + 1 }
      { q with d := d, first := first, grid := first + (q.grid - q.first), after := none }
  { d with copies := d.copies.map move }
/-- RIDs taken for the live revisions of a context (16 R452); none where the package lacks them. -/
def Dev.takeRids (d : Dev) (c : Nat) : Option Dev :=
  let taken := d.ridsTaken
  let need := (d.ctx c).liveRevs.map Prod.fst
  let got := ((List.range (Config.rids + 1)).filter (fun n => n != 0 && !taken.contains n)).take need.length
  if got.length < need.length then none
  else some ((need.zip got).foldl (fun (d : Dev) p => d.modCtx c (fun k =>
    { k with revs := k.revs.set p.1 { k.revs.get p.1 {} with rid := p.2 } })) d)
/-- What a context holds in the package beside its parcel, let go: locks, write protection, frames of its shadows and
revisions. -/
def W.letGo (w : W) (c : Nat) : W :=
  let w := w.killRevs c
  let k := w.d.ctx c
  let locks := k.queues.flatMap (fun q => q.2.locks) ++ k.sets.flatMap (fun t => t.2.locks) ++ k.log.locks
  let frames := k.shadows.flatMap (fun s => s.2.frames)
  { w with d := { w.d with
      unlocks := w.d.unlocks ++ locks, pool := w.d.pool ++ frames, wprot := w.d.wprot.filter (fun p => p.1 != c),
      verifs := w.d.verifs.filter (fun v => v.ctx != c), pubs := w.d.pubs.filter (fun p => p.ctx != c) } }
/-- The locks and the write protection that an image's objects hold, taken for another life of a context. -/
def W.takeUp (w : W) (c : Nat) (k : Ctx) : W :=
  let w := w.lockAll (k.queues.flatMap (fun q => q.2.locks) ++ k.sets.flatMap (fun t => t.2.locks) ++ k.log.locks)
  let ps := k.kernels.flatMap (fun p => if p.2.st = .unloaded then []
    else [(c, p.1, p.2.base, p.2.codeLen), (c, p.1, pageOf (p.2.base + p.2.manifest), p.2.manifestEnd - pageOf (p.2.base + p.2.manifest))])
  { w with d := { w.d with wprot := w.d.wprot ++ ps } }

/-- An accepted image installed in a bound context (R301); none where the parcel or the RIDs do not suffice. `live` says that the
context is the one that was saved in it last, whose objects commands may have changed since. -/
def W.install (w : W) (c : Nat) (p : Plat) (i : Image) (cfg : List Word) (pending live : Bool) : Option W :=
  let old := w.d.ctx c
  let n := w.d.nextId
  let i := i.shift n
  let w := { w with d := { w.d with nextId := n + n } }
  let w := if live then w else (w.letGo c).takeUp c i.ctx
  let k := if live then old.shift n else { i.ctx with cfg := cfg }
  let k := { k with gen := old.gen, posted := old.posted, heldCmds := [], owes := none, restores := old.restores + 1,
                    lastImage := if live then old.lastImage else none, st := .opened, fromFrozen := false, gatePhase := 0 }
  let w := W.bindTo { w with d := w.d.setCtx c k } c p
  -- saved page requests are raised again under new numbers
  let d := w.d
  let again := i.preqs.zipIdx.map (fun q => (q.1, (d.preqNext + q.2) % 2 ^ 16))
  let asked := again.map (fun q => (q.1.num, q.2))
  let num := fun (o : Option Nat) => o.bind (fun n => (asked.find? (fun p => p.1 == n)).map Prod.snd)
  let gs := i.groups.map (fun g => { g with ctx := c, since := d.cycle })
  let d : Dev := { d with
    groups := d.groups ++ gs, preqNext := (d.preqNext + again.length) % 2 ^ 16,
    copies := d.copies ++ i.copies.map (fun q => { q with ctx := c, waitPage := num q.waitPage }),
    colls := d.colls ++ i.colls.map (fun q => { q with ctx := c, waitPage := num q.waitPage, since := d.now }),
    arrWaits := d.arrWaits ++ i.arrWaits.map (fun a => { a with ctx := c }),
    pubs := d.pubs ++ k.shadows.filterMap (fun s => s.2.publishing.map (fun sc =>
      ⟨c, s.1, sc, (i.copies.filter (fun q => q.d.dspace == .shadow && q.d.shadow == s.1)).map (fun q => q.key), 0⟩)) }
  let ts := i.threads.map (fun p => (p.1, { p.2.wake asked with ctx := c }))
  -- check 3 of R300 takes the image's SPP
  let held := (d.ctx c).cfg
  match ((d.modCtx c (fun k => { k with cfg := cfg })).rehomeGroups c ts gs).bind (fun d => d.takeRids c) with
  | none => none
  | some d =>
    let d := (d.modCtx c (fun k => { k with cfg := held })).rehomeCopies c gs
    -- QUEUED groups count for V, and are asked for again (13 R375, R380)
    let queued := (d.groups.filter (fun g => g.ctx == c && g.st == .queued)).map (fun g => g.gid)
    let d := queued.foldl (fun (d : Dev) gid => d.enqueue c gid) (if queued.isEmpty then d else d.raiseV c (d.ctx c).home)
    let w := { w with d := d }
    let w := again.foldl (fun (w : W) q =>
      let served := w.selfServed c q.1.page
      let d := w.d
      let req : List Word := [d.ident c, BitVec.ofNat 64 q.1.page, q.1.word2.setWidth 64, BitVec.ofNat 64 q.2, BitVec.ofNat 64 d.now]
      let d : Dev := { d with preqs := d.preqs ++ [{ q.1 with num := q.2, ctx := c, host := !served }] }
      { w with d := if served then d else d.request 1 (originOf q.1.page) req }) w
    let w := i.weights.foldl (fun (w : W) q =>
      match w.d.thr q.thr with
      | none => w
      | some t =>
        let g := t.first + q.place
        let w := w.wrs (q.bytes.map (fun b => (wbKey g b.1, b.2)))
        { w with d := w.d.modGrid g (fun gr => { gr with wtags := q.tags }) }) w
    let w := i.rings.foldl (fun (w : W) q =>
      let ring := (w.d.ctx c).queues.get q.queue {}
      if ring.kind ≠ 3 ∨ (w.d.ctx c).ringOutside ring = true then w
      else w.wrs (q.bytes.map (fun b => (spKey (ring.first + q.member) (ring.scratch + b.1), b.2)))) w
    let w := ts.foldl (fun (w : W) q => w.respill (some q.1)) w
    if pending then
      let first := match ((w.d.ctx c).frecs.filter (fun r => !r.2.routed)).head? with
        | some (e, r) => (fcause r.cause, some (recHandle e (bits (vlane r.lanes 0) 63 48)))
        | none => (0, none)
      let d := w.d.modCtx c (fun k => { k with st := .frozen, frozenCause := BitVec.ofNat 8 first.1, frozenRec := first.2, secondary := 0,
                                                secRecs := [] })
      some { w with d := d.gangStop c }
    else some { w with d := w.d.modCtx c (fun k => { k with st := .bound }) }

/-- RESTORE (R288, R300-R301): the bind request, the digest, the features, the parcel; the first check that fails gives the
status, and a request record under CONTAIN_HA. -/
def execRestore (cmd : CmdRec) (s : State) : Host.Outcome State Fault Refusal :=
  run (command [.opened, .saved] (fun w c cmd =>
    let a := cmd.a2.toNat
    match w.readBind c cmd.a3.toNat with
    | (none, w) => w.finish c cmd sBadArgument 0
    | (some p, w) =>
      let refuse := fun (w : W) (status missing : Nat) =>
        let w := if p.bctl.getLsbD 29 then
            { w with d := w.d.request 4 8 [w.d.ident c, BitVec.ofNat 64 status, BitVec.ofNat 64 missing, cmd.a2, BitVec.ofNat 64 w.d.now] }
          else w
        w.finish c cmd status 0
      let bytes : Option (List Byte) × W :=
        if 2 ^ 57 < a + 256 then (none, w)
        else match w.readHome c 0 a 256 with
          | (.ok h, w) =>
            let len := ofBytes ((h.drop 0x18).take 8)
            if len < 256 ∨ 256 + 64 * 12 < len ∨ 2 ^ 57 < a + len then (none, w)
            else (match w.readHome c 0 a len with | (.ok bs, w) => (some bs, w) | (_, w) => (none, w))
          | (_, w) => (none, w)
      match bytes with
      | (none, w) => refuse w 0x61 0
      | (some bs, w) =>
        let word := fun (o : Nat) => ofBytes ((bs.drop o).take 8)
        let zeroed := bs.take 0xD0 ++ List.replicate 48 0#8 ++ bs.drop 256
        let number := ofBytes ((bs.drop (word 0xC8)).take 8)
        match w.d.images[number]? with
        | none => refuse w 0x61 0
        | some i =>
          if sha384 zeroed ≠ (bs.drop 0xD0).take 48 then refuse w 0x61 0
          else if word 0x10 / (Config.features + 1) ≠ 0 then refuse w 0x60 (word 0x10 / (Config.features + 1) * (Config.features + 1))
          else if w.d.overlaps c p then w.finish c cmd sNoResource 0
          else
            let k := w.d.ctx c
            let live := k.st == .saved && k.lastImage == some number
            let cfg := (List.range 8).map (fun j => BitVec.ofNat 64 (word (0x30 + 8 * j)))
            match w.install c p i cfg ((word 0x20).testBit 0) live with
            | none => refuse w 0x63 0
            | some w => w.finish c cmd sDone 0) cmd) s

/-! ### Kill (R310-R311) -/

/-- The commands of a killed context that were held or had not completed (log 89): a kernel that drained has reached UNLOADED, so
its UNLOAD is done (11 R325-R326); every other one is stale (R281). -/
def W.endOwed (w : W) (c : Nat) (k : Ctx) : W :=
  let stale := fun (w : W) (cmd : CmdRec) => W.finish { w with d := w.d.countStale c } c cmd sStale 0
  let w := k.kernels.foldl (fun (w : W) p => p.2.owes.foldl (fun (w : W) cmd =>
    if p.2.st = .loading then stale w cmd else w.finish c cmd sDone (p.2.handle p.1)) w) w
  (k.owes.toList ++ k.heldCmds.map Prod.snd).foldl stale w
/-- KILL (R310-R311): the parcel is gang-stopped, uncommitted instances are flushed, kernels are unloaded, fault records and queues
are cleared, and a dump is abandoned. -/
def execKill (cmd : CmdRec) (s : State) : Host.Outcome State Fault Refusal :=
  run (command [.opened, .bound, .running, .gating, .quiescent, .saved, .frozen, .dumping, .faulted] (fun w c cmd =>
    let k := w.d.ctx c
    let dumped := w.d.dumping == some c || w.d.dumpQ.contains c
    let base := (k.cfg.getD 3 0#64).toNat
    let w := if dumped && base != 0 && decide (64 ≤ (k.cfg.getD 4 0#64).toNat) && (w.areaFault c base 64).isNone then
        w.pkgWrite c 0 (cellsAt base (leBytes 8 (0x70 + k.secRecs.length * 2 ^ 8) ++ List.replicate 56 0#8))
      else w
    let d := (w.d.gangStop c).flushAll c
    let d := { d with dumpQ := d.dumpQ.filter (fun q => q != c), dumping := if d.dumping = some c then none else d.dumping,
                      preqs := d.preqs.filter (fun r => r.ctx != c), arrWaits := d.arrWaits.filter (fun a => a.ctx != c),
                      remotes := d.remotes.filter (fun r => r.kind != .ack c) }
    -- placements are invalidated before write protection is lifted (11 R327)
    let d := k.kernels.foldl (fun (d : Dev) p => d.unloadKernel c p.1) d
    let w := W.letGo { w with d := d } c
    let d := w.d.modCtx c (fun k => { k with
      st := .killed, frecs := [], handlerQ := [], queues := [], kernels := [], shadows := [], sets := [], heldCmds := [], owes := none,
      cuts := [], log := {}, undoEn := false })
    (W.endOwed { w with d := d } c k).finish c cmd sDone 0) cmd) s

/-- TEARDOWN_COMPLETE (R311): no matrix step of the context runs, its copies stand at a boundary; what it has committed is
performed, its parcel is released, and the context is FREE. -/
def execTeardownComplete (s : State) : Host.Outcome State Fault Refusal :=
  run (fun w =>
    let c := w.d.arg.a
    let k := w.d.ctx c
    if k.st ≠ .killed then w
    else if w.d.insts.any (fun p => w.d.ctxOf p.2 == c) || w.d.copies.any (fun q => q.ctx == c && !q.over && !w.d.copyPaused q && q.waitPage.isNone) then w
    else
      let ts := (w.d.threads.filter (fun p => p.2.ctx == c)).map Prod.fst
      let w := ts.foldl (fun (w : W) t => (w.landSp t).flushStreams t) w
      let w := (w.d.rels.filter (fun r => r.ctx == c)).foldl (fun (w : W) r => w.performRel r) w
      let w := W.releaseParcel { w with d := w.d.dropObjects c } c
      let w := { w with d := w.d.setCtx c { gen := k.gen, posted := k.posted } }
      w.notify c (stateCode .free) 0) s

/-! ### Context instructions (R312-R315) -/

/-- An item of `ctxq` (R312). -/
def Dev.ctxItem (d : Dev) (c item : Nat) : Nat :=
  let k := d.ctx c
  match item with
  | 0 => (d.ident c).toNat
  | 1 => (k.cfg.headD 0#64).toNat
  | 2 => k.frecs.length % 2 ^ 7 + (if k.handlerOn then 2 ^ 8 else 0)
  | 3 => k.stale % 2 ^ 32
  | 4 => k.fwderr % 2 ^ 32
  | 5 => Config.features
  | 6 => Config.stepping
  | _ => k.restores
/-- CTXQ (R312). -/
def execCtxq (f : FmtQ) (s : State) : Host.Outcome State Fault Refusal :=
  runR (fireQ (.ctxq f) fun w c t =>
    w.d.answer c [] (both f.t0 f.t1 (splat64 (BitVec.ofNat 64 (w.d.ctxItem t.ctx f.sub.toNat))))) s
/-- FREC (R313, R315). -/
def execFrec (f : FmtQ) (s : State) : Host.Outcome State Fault Refusal :=
  runR (fireQ (.frec f) fun w c t =>
    if !w.d.isHandler t then w.d.holdAt c .protection 0 0 0
    else w.d.answer c [] (both f.t0 f.t1 (match (w.d.ctx t.ctx).recOf c.ops.a0 with | some (_, r) => r.lanes | none => 0#512))) s
/-- A record that an uncommitted `fresume` has reserved. -/
def Dev.recTaken (d : Dev) (c h : Nat) : Bool := (d.ctxEffs c).any (fun e => match e with | .fresume r _ _ => r == h | _ => false)
/-- `fresume` with an action (R314-R315): as the oldest instance of its thread. -/
def resumeFire (f : FmtQ) (action : Nat) (w : W) (c : Firing) (t : Thread) : Dev :=
  if !w.d.isOldest c.x then w.d
  else if !w.d.isHandler t then w.d.holdAt c .protection 0 0 0
  else if action == 1 && w.badRedirect c.ops.b0 then w.d.holdAt c .alignment c.ops.b0.toNat 0 0
  else
    let h := c.ops.a0
    match (w.d.ctx t.ctx).recOf h with
    | none => w.d.answer c [] (statusTo f 1)
    | some (_, r) =>
      if w.d.recTaken t.ctx h.toNat then w.d.answer c [] (statusTo f 1)
      else if (w.d.thr r.thr).all (fun u => u.st != .stopped) then w.d.answer c [] (statusTo f 2)
      else w.d.answer c [.fresume h.toNat action (if action = 1 then c.ops.b0.toNat else 0)] (statusTo f 0)
/-- FRESUME_RESUME (R314). -/
def execFresumeResume (f : FmtQ) (s : State) : Host.Outcome State Fault Refusal := runR (fireQ (.fresumeResume f) (resumeFire f 0)) s
/-- FRESUME_REDIRECT (R314). -/
def execFresumeRedirect (f : FmtQ) (s : State) : Host.Outcome State Fault Refusal := runR (fireQ (.fresumeRedirect f) (resumeFire f 1)) s
/-- FRESUME_END (R314). -/
def execFresumeEnd (f : FmtQ) (s : State) : Host.Outcome State Fault Refusal := runR (fireQ (.fresumeEnd f) (resumeFire f 2)) s
/-- The commit of `fresume`: a release at PACKAGE scope, the action, and the resumed thread's acquire (R314, 09 R277). -/
def W.fresumeCommit (w : W) (tid : Nat) (t : Thread) (h action target : Nat) : W :=
  let w := w.releaseNow tid t.ctx 2 t.grids
  match (w.d.ctx t.ctx).recOf (BitVec.ofNat 64 h) with
  | none => w
  | some (e, r) =>
    let w := { w with d := w.d.resume t.ctx e action target }
    match w.d.thr r.thr with
    | some u => if u.ended then w.monument u 5 0 u.commitSeq else w.acquireBy 2 u.grids
    | none => w

end Sys2Proof.Machine
end

