-- ==== Sys2Proof/Machine/Debug.lean ====
section
/-!
DEFINITION. Debug, trace and reverse execution (19): stops, the undo log's stations and reversal, trace, recorder, and the debug
instructions. The subject of an event is context or grid `a` of `Dev.arg`.
-/

namespace Sys2Proof.Machine

/-- Debug statuses (R489). -/
def sConflict : Nat := 0x80
def sMonument : Nat := 0x81
def sNoWindow : Nat := 0x82
def sNoEntry : Nat := 0x83

/-- Every state but FREE and KILLED. -/
def liveStates : List CState := [.opened, .bound, .running, .gating, .quiescent, .saved, .frozen, .dumping, .faulted]

/-! ### Stops (R489, R492-R493) -/

/-- The BREAKPOINT records of threads that no stopped grid holds any more, ended (R489). -/
def Dev.endBreaks (d : Dev) (c : Nat) (ts : List Nat) : Dev :=
  (d.ctx c).frecs.foldl (fun (d : Dev) r =>
    if r.2.cause = .breakpoint ∧ r.2.thr ∈ ts then d.resume c r.1 0 0 else d) d
/-- GRESUME (R489). -/
def execGresume (cmd : CmdRec) (s : State) : Host.Outcome State Fault Refusal :=
  run (command [.running, .frozen] (fun w c cmd =>
    let k := w.d.ctx c
    let g := cmd.a2.toNat
    let all := g == 0x1FF
    if !all && k.st == .frozen then w.finish c cmd sBadState 0
    else if !all && !k.parcel.contains g then w.finish c cmd sBadArgument 0
    else
      let gs := if all then k.parcel else [g]
      if k.st = .running then
        let d := gs.foldl (fun (d : Dev) g => d.liftGrid g) w.d
        let free := (gs.flatMap d.threadsOn).filter (fun t => match d.thr t with | some x => !x.grids.any d.stopped | none => false)
        W.finish { w with d := (d.endBreaks c free).armRecorder c } c cmd sDone 0
      else
        let d := w.d.endBreaks c ((w.d.threads.filter (fun p => p.2.ctx == c)).map Prod.fst)
        W.finish { w with d := if (d.ctx c).frecs.isEmpty then (d.unfreeze c).armRecorder c else d } c cmd sDone 0) cmd) s

/-- DBGMATCH (R489, R492). -/
def execDbgmatch (cmd : CmdRec) (s : State) : Host.Outcome State Fault Refusal :=
  run (command liveStates (fun w c cmd =>
    if 3 < cmd.a2.toNat ∨ 7 < cmd.a3.toNat then w.finish c cmd sBadArgument 0
    else
      let m : Comparator := { kind := cmd.a3.toNat % 4, gang := cmd.a3.getLsbD 2, addr := cmd.a4.toNat, mask := cmd.a5.toNat }
      W.finish { w with d := w.d.modCtx c (fun k => { k with comps := k.comps.set cmd.a2.toNat m }) } c cmd sDone 0) cmd) s

/-- A cut record (R493). -/
def cutBytes (p : Nat × List Nat) : List Byte :=
  leBytes 8 p.1 ++ (List.range 5).flatMap (fun k => leBytes 8 (p.2.getD k 0)) ++ List.replicate 16 0#8
/-- CUTREAD (R493): a destination that cannot be written is BAD_ARGUMENT. -/
def execCutread (cmd : CmdRec) (s : State) : Host.Outcome State Fault Refusal :=
  run (command [.frozen] (fun w c cmd =>
    let bs := (w.d.ctx c).cuts.flatMap cutBytes
    let a := cmd.a2.toNat
    if 2 ^ 57 < a + bs.length ∨ (w.areaFault c a bs.length).isSome = true then w.finish c cmd sBadArgument 0
    else (w.pkgWrite c 0 (cellsAt a bs)).finish c cmd sDone 0) cmd) s

/-! ### Trace (R490-R491) -/

/-- A range of a debug buffer: alignment, least and greatest length. -/
def badBuffer (base len unit least : Nat) : Bool :=
  base % unit != 0 || len % unit != 0 || decide (len < least) || decide (2 ^ 32 < len) || decide (2 ^ 57 < base + len)
/-- Every page of a range is LOCKED (R491, R494). DEDUCED: TRCFG of another range is BAD_ARGUMENT (log 95). -/
def W.allLocked (w : W) (base len : Nat) : Bool :=
  (rangePages [(base, len)]).all (fun x => match w.leafAt x with | some l => l.state == stLocked | none => false)
/-- TRCFG (R491): the loss record is written as space returns. -/
def execTrcfg (cmd : CmdRec) (s : State) : Host.Outcome State Fault Refusal :=
  run (command liveStates (fun w c cmd =>
    let base := cmd.a2.toNat
    let len := cmd.a3.toNat
    if badBuffer base len 4096 65536 || decide (31 < cmd.a4.toNat) || !w.allLocked base len then w.finish c cmd sBadArgument 0
    else
      let old := (w.d.ctx c).trace
      let t : Trace := { base := base, len := len, enables := cmd.a4.setWidth 5 }
      let w := { w with d := w.d.modCtx c (fun k => { k with trace := t }) }
      let g := (w.d.ctx c).parcel.headD 0
      let w := if old.lossDue = 0 then w
        else w.traceBytes c (leBytes 8 (traceWord w.d 6 g 0 0 (old.lossDue % 2 ^ 32 * 2)) ++ leBytes 8 w.d.now)
      w.finish c cmd sDone 0) cmd) s
/-- TIME_PACKET (R491): grid `a`, 4,096 cycles after its last one, while an enable bit of its context is set. -/
def execTimePacket (s : State) : Host.Outcome State Fault Refusal :=
  run (fun w =>
    let g := w.d.arg.a
    match w.d.ownerOf g with
    | none => w
    | some c =>
      if (w.d.ctx c).trace.enables = 0#5 ∨ w.d.cycle < (w.d.grid g).lastTime + 4096 then w
      else
        let w := w.traceBytes c (leBytes 8 (traceWord w.d 0 g 0 0 0) ++ leBytes 8 w.d.now)
        { w with d := w.d.modGrid g (fun gr => { gr with lastTime := w.d.cycle }) }) s
/-- A phase record of a grid written (R490-R491): plane, slot, block and the four counts. -/
def W.phaseRecord (w : W) (c g : Nat) (l : List Nat) : W :=
  let n := fun (k : Nat) => l.getD k 0
  w.traceBytes c (leBytes 8 (traceWord w.d 5 g (n 1) 0 (n 0)) ++ leBytes 8 (n 2) ++ leBytes 8 (n 3 + n 4 * 2 ^ 32) ++
    leBytes 8 (n 5 + n 6 * 2 ^ 32))

/-! ### The recorder (R503) -/

/-- RECORD (R489, R503). -/
def execRecord (cmd : CmdRec) (s : State) : Host.Outcome State Fault Refusal :=
  run (command [.opened, .bound, .saved, .frozen] (fun w c cmd =>
    let m := cmd.a2.toNat
    if 3 < m ∨ 2 ^ 57 < cmd.a3.toNat + cmd.a4.toNat then w.finish c cmd sBadArgument 0
    else
      let r := fun (old : Recorder) => if m = 0 ∨ m = 3 then { old with mode := m, armed := false }
        else { mode := m, base := cmd.a3.toNat, len := cmd.a4.toNat, pos := 0, armed := false, truncated := false }
      W.finish { w with d := w.d.modCtx c (fun k => { k with recd := r k.recd }) } c cmd sDone 0) cmd) s

/-! ### The undo log: configuration, stations, drain (R494-R498, R506) -/

/-- LOGCFG (R489, R494). -/
def execLogcfg (cmd : CmdRec) (s : State) : Host.Outcome State Fault Refusal :=
  run (command [.opened, .bound, .saved] (fun w c cmd =>
    let base := cmd.a2.toNat
    let len := cmd.a3.toNat
    let drain := cmd.a5.toNat
    if (w.d.ctx c).undoEn then w.finish c cmd sBadState 0
    else if badBuffer base len 65536 (2 ^ 21) || decide (2 < cmd.a4.toNat) || decide (2 ^ 57 ≤ drain) ||
        (drain != 0 && !w.isHost drain) || !w.allLocked base len then w.finish c cmd sBadArgument 0
    else
      match w.lockPlan base len with
      | .absent => w.finish c cmd sBadArgument 0
      | .waits => { w with d := w.d.holdCmd c 0x61#8 cmd }
      | .locks ls =>
        let old := (w.d.ctx c).log.locks
        let l : Log := { configured := true, base := base, len := len, mode := cmd.a4.toNat, drain := drain, locks := ls }
        let w := w.lockAll ls
        let d := w.d.modCtx c (fun k => { k with log := l })
        W.finish { w with d := { d with unlocks := d.unlocks ++ old } } c cmd sDone 0) cmd) s
/-- A station whose window can still be reversed into, or trimmed. -/
def Log.knows (l : Log) (n : Nat) : Bool := l.configured && l.begun && l.taken.contains n && decide (l.oldest ≤ n)
/-- LOGTRIM (R489, R498): the windows older than a station are freed. -/
def execLogtrim (cmd : CmdRec) (s : State) : Host.Outcome State Fault Refusal :=
  run (command liveStates (fun w c cmd =>
    let n := cmd.a2.toNat
    if !(w.d.ctx c).log.knows n then w.finish c cmd sNoWindow 0
    else W.finish { w with d := w.d.modCtx c (fun k => { k with log := { k.log.trim n with asked75 := false } }) } c cmd sDone 0) cmd) s

/-- Entries of a segment up to its first marker of a station or later. -/
def Segment.before (s : Segment) (n : Nat) : List LogEnt :=
  (s.ents.map Prod.snd).takeWhile (fun e => match e with | .marker k _ => decide (k < n) | _ => true)
/-- LOG_DRAIN (R498): in hardware mode the oldest window of context `a` is copied to the drain target, segment after segment, and
freed. -/
def execLogDrain (s : State) : Host.Outcome State Fault Refusal :=
  run (fun w =>
    let c := w.d.arg.a
    let l := (w.d.ctx c).log
    match l.taken.reverse.find? (fun k => decide (l.oldest < k)) with
    | none => w
    | some n =>
      if !l.configured || l.drain == 0 || (w.d.bctl c).getLsbD 30 || w.reach l.drain != .served then w
      else
        let bs := (l.segs.flatMap (fun s => s.2.before n)).flatMap (fun e => e.words.flatMap (leBytes 8))
        let w := w.sysWrite c (cellsAt (l.drain + l.drainPos) bs)
        { w with d := w.d.modCtx c (fun k => { k with log := { k.log.trim n with drainPos := l.drainPos + bs.length } }) }) s

/-- A station's marker enters a segment (R494): one that holds no entry, or ends in a marker, or whose chunk is full, keeps the
number instead. -/
def Log.mark (l : Log) (seg n now : Nat) : Log × List (Nat × Nat × LogEnt) :=
  let s := l.segs.get seg {}
  let keep := { l with segs := l.segs.set seg { s with marker := some n } }
  match s.ents.getLast? with
  | none => (keep, [])
  | some (_, .marker _ _) => (keep, [])
  | some _ =>
    if s.marker.isSome || decide (1024 ≤ s.off) then (keep, [])
    else match l.put seg (.marker n now) with
      | some (l, k, o) => (l, [(k, o, .marker n now)])
      | none => (keep, [])
/-- A station taken: its marker enters every segment (R497). -/
def W.takeStation (w : W) (c n : Nat) : W :=
  let l := (w.d.ctx c).log
  let r := (l.segs.map Prod.fst).foldl (fun (acc : Log × List (Nat × Nat × LogEnt)) s =>
    let q := acc.1.mark s n w.d.now
    (q.1, acc.2 ++ q.2)) (l, [])
  let w := { w with d := w.d.modCtx c (fun k => { k with log := { r.1 with
    station := n, taken := n :: l.taken, marking := none, begun := true } }) }
  r.2.foldl (fun (w : W) p => w.pkgWrite c 0 (cellsAt (l.base + 65536 * p.1 + 64 * p.2.1) (p.2.2.words.flatMap (leBytes 8)))) w
/-- Writes of a context that a station waits for (R497): what leaves the package and was committed before it. -/
def W.leaving (w : W) (c : Nat) : Bool :=
  w.d.copies.any (fun q => q.ctx == c && !q.over && q.d.dspace == .global && !(w.isLocal q.d.dst && w.isLocal (q.d.dstAt (q.d.bytes - 1)))) || w.d.fwds.any (fun q => q.ctx == c) ||
    w.d.colls.any (fun q => q.ctx == c) || w.d.rels.any (fun r => r.ctx == c) ||
    w.d.l2.any (fun l => l.dirty != 0#32 && w.reach (32 * l.line) != .served)
/-- Owned lines and coalescing buffers of a context written back as logged stores (R497, R500). -/
def W.cleanLogged (w : W) (c : Nat) : W :=
  let w := (w.d.ctxThreads c).foldl (fun (w : W) p => w.flushStreams p.1) w
  (w.d.ctx c).parcel.foldl (fun (w : W) g =>
    ((w.d.grid g).l1.filter (fun l => l.owned != 0#32)).foldl (fun (w : W) l =>
      let w := w.loggedWrite c ((w.d.ctx c).rnumOf l.rid) 0 0 (maskCells l.line l.owned l.data)
      { w with d := w.d.modGrid g (fun gr => gr.l1Set { l with owned := 0#32 }) }) w) w
/-- STATION_MARKER (R497): the station committed in context `a` is taken when the writes before it are performed. -/
def execStationMarker (s : State) : Host.Outcome State Fault Refusal :=
  run (fun w =>
    let c := w.d.arg.a
    match (w.d.ctx c).log.marking with
    | none => w
    | some n =>
      let w := (w.cleanLogged c).l2Flush c true (fun _ => true)
      if w.leaving c then w else w.takeStation c n) s

/-! ### Entries for objects (R495): kinds, identities, and how each is undone (log 38) -/

/-- The grid in whose segment objects of a context are logged that belong to no thread. -/
def Ctx.ownSeg (k : Ctx) : Nat := 128 + k.parcel.headD 0
/-- A table of numbers as words. -/
def tblWords (t : Tbl Nat) : List Word := BitVec.ofNat 64 t.length :: t.flatMap (fun p => [BitVec.ofNat 64 p.1, BitVec.ofNat 64 p.2])
/-- It read back, with the words that follow it. -/
def wordsTbl (l : List Word) : Tbl Nat × List Word :=
  let n := (l.headD 0#64).toNat
  ((List.range n).map (fun k => ((l.getD (1 + 2 * k) 0#64).toNat, (l.getD (2 + 2 * k) 0#64).toNat)), l.drop (1 + 2 * n))
/-- Cursors of a queue. -/
def Queue.words (q : Queue) : List Word :=
  [BitVec.ofNat 64 q.head, BitVec.ofNat 64 q.tail] ++ tblWords (q.removed.map (fun i => (i, 0))) ++ tblWords q.masks ++ tblWords q.cursors
/-- A queue with its cursors taken back. -/
def Queue.withWords (q : Queue) (l : List Word) : Queue :=
  let r := wordsTbl (l.drop 2)
  let m := wordsTbl r.2
  let c := wordsTbl m.2
  { q with head := (l.getD 0 0#64).toNat, tail := (l.getD 1 0#64).toNat, removed := r.1.map Prod.fst, masks := m.1, cursors := c.1 }
/-- The object entry of a queue before a change (kind 0). -/
def Dev.queueEnt (d : Dev) (c h seq who : Nat) : List (Nat × LogEnt) :=
  match (d.ctx c).queueOf h with
  | none => []
  | some (_, q) => [((d.ctx c).ownSeg, .object 0 seq who (BitVec.ofNat 64 h) q.words)]
/-- Of a message removed from a mailbox (kind 1). -/
def Thread.mailEnt (t : Thread) (p mseq seq who : Nat) : List (Nat × LogEnt) :=
  match (t.mbox p).msgs.find? (fun m => m.seq == mseq) with
  | none => []
  | some m => [(t.seg, .object 1 seq who (BitVec.ofNat 64 (mailIdent t.gid t.tnum p)) ([BitVec.ofNat 64 m.seq, m.origin] ++ recWords m.data))]
/-- Of a thread's latches (kind 2). -/
def Thread.latchEnt (t : Thread) (old : BitVec 16) (seq who : Nat) : List (Nat × LogEnt) :=
  [(t.seg, .object 2 seq who (BitVec.ofNat 64 t.who) [old.setWidth 64])]
/-- Of a barrier (kind 3). -/
def Dev.barEnt (d : Dev) (c n seq who : Nat) : List (Nat × LogEnt) :=
  let b := (d.ctx c).bar n
  [((d.ctx c).ownSeg, .object 3 seq who (BitVec.ofNat 64 n)
    [if b.armed then 1#64 else 0#64, BitVec.ofNat 64 b.phase, BitVec.ofNat 64 b.expected, BitVec.ofNat 64 b.arrivals, BitVec.ofNat 64 b.drops,
      BitVec.ofNat 64 b.scope, BitVec.ofNat 64 b.bgen])]
/-- Of a deque (kind 4). -/
def Thread.dequeEnt (t : Thread) (seq who : Nat) : List (Nat × LogEnt) :=
  [(t.seg, .object 4 seq who (BitVec.ofNat 64 t.who)
    (BitVec.ofNat 64 t.spilled :: BitVec.ofNat 64 t.dqBase :: t.deque.flatMap (fun e => [e.cont, e.frame, e.tag, BitVec.ofNat 64 e.id])))]
/-- Of a stream's position (kind 5). -/
def Thread.streamEnt (t : Thread) (s seq who : Nat) : List (Nat × LogEnt) :=
  [(t.seg, .object 5 seq who (BitVec.ofNat 64 (t.who + s * 2 ^ 40)) [BitVec.ofNat 64 (t.stream s).pos])]
/-- Of a copy-tag entry (kind 6). -/
def Dev.tagEnt (d : Dev) (c n seq who : Nat) : List (Nat × LogEnt) :=
  [((d.ctx c).ownSeg, .object 6 seq who (BitVec.ofNat 64 n) [(d.ctx c).copyTags.get n 0#64])]

/-- An object taken back to its old state (R500). -/
def Dev.undoObject (d : Dev) (c kind : Nat) (ident : Word) (old : List Word) : Dev :=
  let n := fun (k : Nat) => (old.getD k 0#64).toNat
  let member := d.memberOf c (bits ident 31 0) (bits ident 37 32)
  match kind with
  | 0 => (match (d.ctx c).queueOf ident.toNat with | some (q, _) => d.modQueue c q (fun x => x.withWords old) | none => d)
  | 1 => (match member with
    | some (tid, t) =>
      let p := bits ident 39 38
      let m := t.mbox p
      let msg : Msg := ⟨vecOf (old.drop 2), old.getD 1 0#64, n 0⟩
      let back := { m with msgs := (msg :: m.msgs).isort (fun a b => decide (a.seq ≤ b.seq)), received := m.received - 1 }
      d.modThr tid (fun t => { t with mboxes := t.mboxes.set p back })
    | none => d)
  | 2 => (match member with | some (tid, _) => d.modThr tid (fun t => { t with latches := (old.getD 0 0#64).setWidth 16 }) | none => d)
  | 3 =>
    let b : Barrier := { armed := n 0 == 1, phase := n 1, expected := n 2, arrivals := n 3, drops := n 4, scope := n 5, bgen := n 6 }
    d.modCtx c (fun k => { k with bars := k.bars.set ident.toNat b })
  | 4 => (match member with
    | some (tid, _) =>
      let es := (List.range ((old.length - 2) / 4)).map (fun k =>
        ({ cont := old.getD (4 * k + 2) 0#64, frame := old.getD (4 * k + 3) 0#64, tag := old.getD (4 * k + 4) 0#64, id := n (4 * k + 5) } : DqEnt))
      d.modThr tid (fun t => { t with deque := es, spilled := n 0, dqBase := n 1 })
    | none => d)
  | 5 => (match member with | some (tid, _) => d.modStream tid (bits ident 63 40) (fun q => { q with pos := n 0 }) | none => d)
  | _ => d.modCtx c (fun k => { k with copyTags := k.copyTags.set ident.toNat (old.getD 0 0#64) })

/-! ### Reversal (R500-R502) -/

/-- A line's bytes taken back, at its home and in every L1. -/
def W.undoLine (w : W) (c rid : Nat) (mask : BitVec 32) (addr : Nat) (old : BitVec 256) : W :=
  let line := lineOf addr
  let w := w.homeWrite c ((w.d.ctx c).rnumOf rid) (maskCells line mask old)
  { w with d := { w.d with grids := w.d.grids.map (fun g => (g.1, { g.2 with l1 := g.2.l1.filter (fun l => l.line != line) })) } }
/-- Entries of lines, scratchpads and objects undone, in the order given. -/
def W.undoPlaces (w : W) (c : Nat) (es : List LogEnt) : W :=
  es.foldl (fun (w : W) e =>
    match e with
    | .line rid mask addr _ _ old => w.undoLine c rid mask addr old
    | .scratch mask addr _ _ old => w.wrs (maskCells (lineOf addr) mask old)
    | .object kind _ _ ident old =>
      let w := { w with d := w.d.undoObject c kind ident old }
      if kind = 1 ∨ kind = 4 then w.respill ((w.d.memberOf c (bits ident 31 0) (bits ident 37 32)).map Prod.fst) else w
    | _ => w) w
/-- Thread and commit of an entry, none for a marker or a monument. -/
def LogEnt.owner (e : LogEnt) : Option (Nat × Nat) :=
  match e with
  | .line _ _ _ seq who _ => some (who, seq)
  | .scratch _ _ seq who _ => some (who, seq)
  | .reg _ seq who _ => some (who, seq)
  | .object _ seq who _ _ => some (who, seq)
  | .commit _ seq _ _ _ who _ _ _ _ _ => some (who, seq)
  | _ => none
/-- Commits of threads undone, each thread's newest first: registers, `flags`, `prng`; the thread goes on at the block of its oldest
undone commit (R500). Its uncommitted instances are flushed. -/
def Dev.undoCommits (d : Dev) (c : Nat) (es : List LogEnt) : Dev :=
  let seqOf := fun (e : LogEnt) => match e.owner with | some p => p.2 | none => 0
  let mine := (es.filter (fun e => match e with | .reg _ _ _ _ => true | .commit _ _ _ _ _ _ _ _ _ _ _ => true | _ => false)).isort
    (fun a b => decide (seqOf b ≤ seqOf a))
  mine.foldl (fun (d : Dev) e =>
    let at_ := fun (who : Nat) => d.memberOf c (who % 2 ^ 32) (who / 2 ^ 32)
    match e with
    | .reg num _ who old => (match at_ who with
      | some (tid, _) => d.modThr tid (fun t => { t with regs := t.regs.set num old })
      | none => d)
    | .commit blk seq _ fl prng who _ _ tag depth loops => (match at_ who with
      | some (tid, _) => (d.flushFrom tid 0).modThr tid (fun t => { t with
          flags := fl, prng := prng, next := some blk, resumeAt := if t.rcd.isSome then some blk else none, pageReq := none,
          fTag := tag, fDepth := depth, loops := loops, seq := seq - 1, commitSeq := seq - 1, prior := .run })
      | none => d)
    | _ => d) d

/-- A segment taken back to a station's marker: what is left, and what is undone, newest first (R501). -/
def Segment.backTo (s : Segment) (n : Nat) : Segment × List LogEnt :=
  let isMark := fun (e : Nat × LogEnt) => match e.2 with | .marker k _ => decide (n ≤ k) | _ => false
  match s.ents.findIdx? isMark with
  | none => ({ s with marker := some n }, [])
  | some i =>
    let own := match s.ents[i]? with | some (_, .marker k _) => k == n | _ => false
    let kept := if own then s.ents.take (i + 1) else s.ents.take i
    let gone := s.ents.drop kept.length
    let chunk := (s.ents.getLast?).map Prod.fst
    let same := (kept.getLast?).map Prod.fst == chunk
    let off := if same then s.off - ((gone.filter (fun e => some e.1 == chunk)).map (fun e => e.2.units)).sum else 1024
    ({ s with ents := kept, off := off, marker := if own then none else some n }, (gone.map Prod.snd).reverse)
/-- A monument of a station or later stands in the log. -/
def Log.monumentFrom (l : Log) (n : Nat) : Bool :=
  l.segs.any (fun s => s.2.ents.any (fun e => match e.2 with | .monument _ k _ _ _ => decide (n ≤ k) | _ => false))
/-- REVERSE_TO_STATION (R489, R501). -/
def execReverseToStation (cmd : CmdRec) (s : State) : Host.Outcome State Fault Refusal :=
  run (command [.frozen] (fun w c cmd =>
    let n := cmd.a2.toNat
    let l := (w.d.ctx c).log
    if !l.knows n then w.finish c cmd sNoWindow 0
    else if l.monumentFrom n then w.finish c cmd sMonument 0
    else
      let w := w.cleanLogged c
      let l := (w.d.ctx c).log
      let r := l.segs.map (fun s => (s.1, s.2.backTo n))
      let gone := r.flatMap (fun s => s.2.2)
      let w := r.foldl (fun (w : W) s => w.undoPlaces c s.2.2) w
      let d := (w.d.undoCommits c gone).modCtx c (fun k => { k with log := { l with
        segs := r.map (fun s => (s.1, s.2.1)), station := n, taken := l.taken.filter (fun k => decide (k ≤ n)) } })
      W.finish { w with d := d } c cmd sDone 0) cmd) s

/-- Entries of a segment in its current window. -/
def Segment.window (s : Segment) : List LogEnt :=
  if s.marker.isSome then []
  else ((s.ents.map Prod.snd).reverse.takeWhile (fun e => match e with | .marker _ _ => false | _ => true)).reverse
/-- A line entry of a commit followed by an entry of another thread, or an object entry followed by a later one for that object. -/
def followed (who seq : Nat) (l : List LogEnt) : Bool :=
  match l with
  | [] => false
  | e :: rest =>
    (e.owner == some (who, seq) && (match e with
      | .line _ _ _ _ _ _ => rest.any (fun q => match q.owner with | some p => p.1 != who | none => false)
      | .scratch _ _ _ _ _ => rest.any (fun q => match q.owner with | some p => p.1 != who | none => false)
      | .object kind _ _ ident _ => rest.any (fun q => match q with
        | .object k2 s2 w2 i2 _ => k2 == kind && i2 == ident && !(s2 == seq && w2 == who)
        | _ => false)
      | _ => false)) || followed who seq rest
/-- REVERSE_BLOCK (R489, R502). -/
def execReverseBlock (cmd : CmdRec) (s : State) : Host.Outcome State Fault Refusal :=
  run (command [.frozen] (fun w c cmd =>
    if bits cmd.a2 63 38 ≠ 0 then w.finish c cmd sBadArgument 0
    else
      let who := cmd.a2.toNat
      let w1 := w.cleanLogged c
      let l := (w1.d.ctx c).log
      let win := l.segs.map (fun s => s.2.window)
      let seqs := win.flatten.filterMap (fun e => match e with
        | .commit _ seq _ _ _ q _ _ _ _ _ => if q = who then some seq else none
        | _ => none)
      let monument := win.flatten.any (fun e => match e with | .monument _ _ _ _ _ => true | _ => false)
      match seqs.isort (fun a b => decide (b ≤ a)) with
      | [] => w.finish c cmd sNoEntry 0
      | seq :: _ =>
        if monument then w.finish c cmd sMonument 0
        else if win.any (followed who seq) then w.finish c cmd sConflict 0
        else
          let mine := fun (e : LogEnt) => e.owner == some (who, seq)
          let gone := (l.segs.flatMap (fun s => (s.2.ents.map Prod.snd).reverse)).filter mine
          let w := w1.undoPlaces c gone
          let d := (w.d.undoCommits c gone).modCtx c (fun k => { k with log := { l with
            segs := l.segs.map (fun s => (s.1, { s.2 with ents := s.2.ents.filter (fun e => !mine e.2) })) } })
          W.finish { w with d := d } c cmd sDone 0) cmd) s

/-! ### Instructions (R506-R508) -/

/-- A station that an uncommitted instance has reserved. -/
def Dev.stationResv (d : Dev) (c : Nat) : Bool := (d.ctxEffs c).any (fun e => match e with | .station _ => true | _ => false)
/-- STATION (R506). -/
def execStation (f : FmtQ) (s : State) : Host.Outcome State Fault Refusal :=
  runR (fireQ (.station f) fun w c t =>
    if !w.d.isOldest c.x then w.d
    else
      let k := w.d.ctx t.ctx
      let n := c.ops.a0.toNat % 2 ^ 32
      if !k.logging then w.d.answer c [] (statusTo f 1)
      else if n ≤ max k.log.station (k.log.marking.getD 0) then w.d.answer c [] (statusTo f 2)
      else if w.d.stationResv t.ctx then w.d.answer c [] (statusTo f 3)
      else w.d.answer c [.station n] (statusTo f 0)) s
/-- DMARK (R507). -/
def execDmark (f : FmtQ) (s : State) : Host.Outcome State Fault Refusal :=
  runR (fireQ (.dmark f) fun w c _ => w.d.answer c [.dmark f.imm.toNat c.ops.a0] {}) s
/-- The commit of `dmark`: a trace record, where they are enabled. -/
def W.dmarkCommit (w : W) (t : Thread) (mark : Nat) (v : Word) : W :=
  w.trace t.ctx 1 3 t.first t.place.2 0 mark v.toNat
/-- An item of `probe` (R508). -/
def Dev.probeItem (d : Dev) (x : Inst) (t : Thread) (item : Nat) : Nat :=
  let k := d.ctx t.ctx
  match item with
  | 0 => (match (d.grid x.grid).planes.find? (fun p => p.2.placement == x.placement) with
    | some (_, p) => (p.phases d.cycle).getD 0 0 + (p.phases d.cycle).getD 1 0 * 2 ^ 32
    | none => 0)
  | 1 => (d.grid t.first).blockCommits
  | 2 => k.trace.off
  | 3 => k.log.station % 2 ^ 32 + k.log.chunks.length * 2 ^ 32
  | 4 => k.recd.mode % 4 + t.ordinal * 2 ^ 24
  | _ => (if (k.cfg.headD 0#64).getLsbD 11 then 1 else 0) + ofBits ((List.range 4).map (fun j => (k.comps.get j {}).kind != 0)) * 2
/-- PROBE (R508). -/
def execProbe (f : FmtQ) (s : State) : Host.Outcome State Fault Refusal :=
  runR (fireQ (.probe f) fun w c t =>
    w.d.answer c [] (both f.t0 f.t1 (splat64 (BitVec.ofNat 64 (w.d.probeItem c.x t f.sub.toNat))))) s

/-! ### The lifetime record (R505) -/

/-- Bin of a temperature: below 30 °C, 30 °C to 120 °C in steps of 10 °C, and above. -/
def tempBin (t : Nat) : Nat := if t < 30 then 0 else min 10 (t / 10 - 2)
/-- LIFETIME_RECORD_WRITE (R505): every 60 minutes the hour is counted for each field in the bin of its hottest grid, and the counters,
which saturate at 2^32 − 1, are stored. -/
def execLifetimeRecordWrite (s : State) : Host.Outcome State Fault Refusal :=
  runD (fun d =>
    let hot := fun (f : Nat) => (List.range Config.gridsPerField).foldl (fun m g => max m (d.grid (f * Config.gridsPerField + g)).temp) 0
    let hours := (List.range Config.fields).foldl (fun (h : Tbl Nat) f =>
      let k := 16 * f + tempBin (hot f)
      h.set k (min (2 ^ 32 - 1) (h.get k 0 + 1))) d.life.hours
    let life := { d.life with hours := hours }
    { d with life := life, lifeStored := life }) s

end Sys2Proof.Machine
end

