-- ==== Sys2Proof/Machine/Management.lean ====
section
/-!
DEFINITION. Islands, bring-up and management (23): field current, clocks, power, SPDM, the management registers, and the host
request queue (10 R291). What an event tells stands in `Dev.arg`.
-/

namespace Sys2Proof.Machine

/-! ### The host request queue (10 R291) -/

/-- One request record written as the entry at REQ_TAIL: 128 bytes, as a release at SYSTEM scope. -/
def W.postRequest (w : W) (r : HeldReq) : W :=
  let at_ := hostKey (w.g.reqBase.toNat + 128 * (w.d.reqTail % w.g.reqLen))
  let bs := leBytes 8 (r.rkind + r.origin * 2 ^ 8) ++ List.replicate 56 0#8 ++
    (List.range 8).flatMap (fun k => leBytes 8 (r.lanes.getD k 0#64).toNat)
  let w := (w.wrs (cellsAt at_ bs)).l2Flush ((r.lanes.headD 0#64).toNat % 4096) true (fun _ => true)
  { w with d := { w.d with reqTail := (w.d.reqTail + 1) % 2 ^ 32 } }
/-- Space between REQ_HEAD and REQ_TAIL. -/
def W.requestRoom (w : W) : Nat := w.g.reqLen - (w.d.reqTail + 2 ^ 32 - w.g.reqHead) % 2 ^ 32
/-- Held requests raised while there is space. -/
def W.raiseHeld (w : W) : W :=
  let n := w.requestRoom
  let w' := (w.d.heldReqs.take n).foldl (fun (w : W) r => w.postRequest r) w
  { w' with d := { w'.d with heldReqs := w.d.heldReqs.drop n } }

/-! ### Field current (R513-R514) -/

/-- A value taken as the nearest end of its range. -/
def inBounds (lo hi x : Nat) : Nat := max lo (min hi x)
/-- ISL_ILIM_WRITE (R513): LIMIT of field `a`, effective at the next sample. -/
def execIslIlimWrite (s : State) : Host.Outcome State Fault Refusal :=
  runM (fun w => ({ w.g with ilimNext := w.g.ilimNext.set (w.d.arg.a % 8) (inBounds 100 1200 (w.d.arg.b % 2 ^ 11)) }, w)) s
/-- ISL_IMEAS_READ (R513): PEAK of field `a` restarts. -/
def execIslImeasRead (s : State) : Host.Outcome State Fault Refusal :=
  runM (fun w => ({ w.g with peak := w.g.peak.set (w.d.arg.a % 8) 0 }, w)) s
/-- The regulator of a field trips (R514): its island has no power, its stitch bridges hold their traffic (R515), and every context that
holds a grid of it is FAULTED. -/
def W.regulatorTrip (w : W) (f : Nat) : W :=
  let w := { w with d := (w.d.modField f (fun q => { q with powered := false, pllLocked := false, overCount := 0, throttled := false, cut := true })) }
  let w := { w with d := { w.d with life := { w.d.life with trips := w.d.life.trips + 1 } } }
  let hit := (w.d.ctxs.filter (fun p => p.2.st != .faulted && p.2.st != .killed && p.2.parcel.any (fun g => fieldOf g == f))).map Prod.fst
  hit.foldl (fun (w : W) c => w.ctxFaulted c .dataEcc) w
/-- IMEAS_SAMPLE (R513-R514): field `a` has drawn `b` A over the last microsecond. -/
def execImeasSample (s : State) : Host.Outcome State Fault Refusal :=
  runM (fun w =>
    let f := w.d.arg.a % 8
    let i := min w.d.arg.b 2047
    let limit := (w.g.ilimNext.look f).getD (w.g.limit f)
    let g := { w.g with ilim := w.g.ilim.set f limit, ilimNext := w.g.ilimNext.erase f, imeas := w.g.imeas.set f i,
                        peak := w.g.peak.set f (max i (w.g.peak.get f 0)) }
    let q := w.d.field f
    let n := if limit < i then min 10 (q.overCount + 1) else 0
    let thr := if decide (10 ≤ n) then true else if decide (100 * i < 95 * limit) then false else q.throttled
    let w := { w with d := w.d.modField f (fun q => { q with overCount := n, throttled := thr }) }
    (g, if 1300 < i then w.regulatorTrip f else w)) s

/-! ### Clocks and power (R515-R518) -/

/-- VOLTAGE_DROOP (R515, 19 R505): a droop of `b` mV in field `a`, whose PLL relocks. -/
def execVoltageDroop (s : State) : Host.Outcome State Fault Refusal :=
  runD (fun d =>
    let f := d.arg.a % 8
    let k := 8 * f + min 7 (d.arg.b / 10)
    let d := d.modField f (fun q => { q with pllLocked := false })
    { d with life := { d.life with droops := d.life.droops.set k (min (2 ^ 32 - 1) (d.life.droops.get k 0 + 1)) } }) s
/-- PLL_LOCK (R515): the PLL of field `a`, which has power, locks. -/
def execPllLock (s : State) : Host.Outcome State Fault Refusal :=
  runD (fun d =>
    let f := d.arg.a % 8
    if (d.field f).powered then d.modField f (fun q => { q with pllLocked := true, lockAt := d.cycle }) else d) s
/-- Power gone: what the always-on island keeps in non-volatile storage stays, with what is outside the package; an orderly
power-down stores the lifetime record first. The model's own counters go on. -/
def powerOff (orderly : Bool) (w : W) : Mgmt × W :=
  let d := w.d
  let stored := if orderly then d.life else d.lifeStored
  ({ Mgmt.reset with fwMin := w.g.fwMin },
   { w with d := { Dev.reset with life := stored, lifeStored := stored, cycle := d.cycle, freeCtr := d.freeCtr, nextId := d.nextId, arg := d.arg } })
/-- THERMAL_TRIP (R518): a junction at `b` °C; at 115 °C every island is powered down. -/
def execThermalTrip (s : State) : Host.Outcome State Fault Refusal :=
  runM (fun w => if 115 ≤ w.d.arg.b then powerOff false w else (w.g, w)) s
/-- POWER_DOWN (R516): orderly, the fields from F7 to F0. -/
def execPowerDown (s : State) : Host.Outcome State Fault Refusal := runM (powerOff true) s

/-- Which of the 18 islands have power (01 R20): the eight field cores, the always-on island from power-on, I/O, the eight HBM PHYs. -/
def W.islands (w : W) : List Bool :=
  let fs := List.range Config.fields
  fs.map (fun f => (w.d.field f).powered) ++ [w.g.bstep != 0, w.d.io] ++ fs.map (fun f => (w.d.field f).phy)

/-! ### Bring-up (R516-R517, R519) -/

/-- POWER_ON (R516): bring-up starts at step 1. -/
def execPowerOn (s : State) : Host.Outcome State Fault Refusal :=
  runM (fun w => (if w.g.bstep = 0 then { w.g with bstep := 1 } else w.g, w)) s
/-- The firmware images that step 2 has to run (R519): the coordinating controller's and the field controllers', whose versions are
`ns`; bit k of `b` says that key and signature of image k verify. -/
def W.firmwareOk (w : W) : Bool :=
  [0, 1].all (fun k => w.d.arg.b.testBit k && decide (w.g.fwMin.get k 0 ≤ w.d.arg.ns.getD k 0))
/-- A step can complete: what its row of R516 asks for. -/
def W.stepReady (w : W) (n : Nat) : Bool :=
  match n with
  | 2 => w.firmwareOk
  | 4 => (List.range Config.fields).all (fun f => (w.d.field f).pllLocked)
  | 7 => w.d.arg.a % 4 == 3
  | 8 => w.d.ports.all (fun p => p.2.st != .training)
  | _ => decide (1 ≤ n) && decide (n ≤ 10)
/-- What the completion of a step leaves in the device: the counter starts, the fields get power, then the HBM PHY and the I/O islands
(log 93), repair rows are known, the CXL links of mask `a` are up, the Wolux ports go to training. -/
def W.stepDone (w : W) (n : Nat) : Dev :=
  let d := w.d
  match n with
  | 1 => { d with now := 0 }
  | 3 => (List.range Config.fields).foldl (fun (d : Dev) f => d.modField f (fun q => { q with powered := true })) d
  | 4 => (List.range Config.fields).foldl (fun (d : Dev) f => d.modField f (fun q => { q with phy := true })) d
  | 6 => { d with io := true }
  | 5 => { d with life := { d.life with repair := (List.range (d.arg.ns.length / 2)).map (fun k =>
      (k, (d.arg.ns.getD (2 * k) 0, d.arg.ns.getD (2 * k + 1) 0))) } }
  | 7 =>
    let d := { d with cxl := [(0, ⟨d.arg.a.testBit 0⟩), (1, ⟨d.arg.a.testBit 1⟩)] }
    (List.range Config.ports).foldl (fun (d : Dev) p => if (d.port p).st = .down then d.train p else d) d
  | _ => d
/-- The step's bit is set and the next step starts; the plat is open after step 10, and the firmware versions are the least that may
boot from then on. -/
def Mgmt.advance (g : Mgmt) (n : Nat) (versions : List Nat) : Mgmt :=
  let g := { g with stat := g.stat ||| BitVec.ofNat 10 (2 ^ (n - 1)), bstep := n + 1 }
  if n = 2 then { g with fwVersion := [(0, versions.getD 0 0), (1, versions.getD 1 0)] }
  else if n = 10 then { g with fwMin := g.fwVersion }
  else g
/-- BRINGUP_STEP_COMPLETE (R516): the step in progress. -/
def execBringupStepComplete (s : State) : Host.Outcome State Fault Refusal :=
  runM (fun w =>
    let n := w.g.bstep
    if n = 0 || decide (10 < n) || w.g.fatal || !w.stepReady n then (w.g, w)
    else (w.g.advance n w.d.arg.ns, { w with d := w.stepDone n })) s
/-- BRINGUP_TIMEOUT (R516): the step in progress times out; step 7 goes on with one port of mask `a`, step 8 with the ports that have
trained, and any other is fatal. -/
def execBringupTimeout (s : State) : Host.Outcome State Fault Refusal :=
  runM (fun w =>
    let n := w.g.bstep
    if n = 0 || decide (10 < n) || w.g.fatal then (w.g, w)
    else if n = 7 ∧ w.d.arg.a % 4 ≠ 0 then (w.g.advance n [], { w with d := w.stepDone n })
    else if n = 8 then
      let fail := fun (q : Port) => if q.st = .training then { q with st := .failed } else q
      (w.g.advance n [], { w with d := { w.d with ports := w.d.ports.map (fun p => (p.1, fail p.2)) } })
    else ({ w.g with failStep := n, fatal := true }, w)) s

/-! ### SPDM (R519-R520) -/

/-- An answer on the management message channel; before step 9 there is no responder, and after a fatal timeout only version and status
requests are answered (R516). -/
def W.spdmAnswer (w : W) (status : Bool) (code : Nat) (words : List Nat) : Dev :=
  if 9 < w.g.bstep ∨ (w.g.fatal ∧ status) then { w.d with spdm := w.d.spdm ++ [⟨code, words⟩] } else w.d
/-- Free words of an answer: digests, certificates and signatures that the spec does not give. -/
def Dev.freeWords (d : Dev) (n : Nat) : List Nat × Dev :=
  ((List.range n).map (fun k => (Config.freeWord (d.freeCtr + k)).toNat), { d with freeCtr := d.freeCtr + n })
/-- An answer with free words after those given. -/
def W.spdmFree (w : W) (status : Bool) (code : Nat) (words : List Nat) (n : Nat) : Dev :=
  let r := w.d.freeWords n
  W.spdmAnswer { w with d := r.2 } status code (words ++ r.1)
/-- GET_VERSION (R520): VERSION 1.3. -/
def execGetVersion (s : State) : Host.Outcome State Fault Refusal := runR (fun w => w.spdmAnswer true 0x04 [0x13]) s
/-- GET_CAPABILITIES (R520): the flags are not given. -/
def execGetCapabilities (s : State) : Host.Outcome State Fault Refusal := runR (fun w => w.spdmFree false 0x61 [] 1) s
/-- NEGOTIATE_ALGORITHMS (R520): ECDSA P-384 and SHA-384. -/
def execNegotiateAlgorithms (s : State) : Host.Outcome State Fault Refusal := runR (fun w => w.spdmAnswer false 0x63 [0x80, 0x02]) s
/-- GET_DIGESTS (R520). -/
def execGetDigests (s : State) : Host.Outcome State Fault Refusal := runR (fun w => w.spdmFree false 0x01 [] 6) s
/-- GET_CERTIFICATE (R520). -/
def execGetCertificate (s : State) : Host.Outcome State Fault Refusal := runR (fun w => w.spdmFree false 0x02 [] 6) s
/-- CHALLENGE (R520): signed with the device identity key, which never leaves the always-on island. -/
def execChallenge (s : State) : Host.Outcome State Fault Refusal := runR (fun w => w.spdmFree false 0x03 [] 12) s
/-- GET_MEASUREMENTS (R520) of index `a`; index 5 is the bring-up status. -/
def execGetMeasurements (s : State) : Host.Outcome State Fault Refusal :=
  runR (fun w =>
    match w.d.arg.a with
    | 1 => w.spdmFree false 0x60 [1] 6
    | 2 => w.spdmFree false 0x60 [2, w.g.fwVersion.get 0 0] 6
    | 3 => w.spdmFree false 0x60 [3, w.g.fwVersion.get 1 0] 6
    | 4 => w.spdmFree false 0x60 [4, Config.stepping] 1
    | 5 => w.spdmAnswer true 0x60 [5, w.g.stat.toNat + w.g.failStep * 2 ^ 16, w.g.ideKeys]
    | _ => w.spdmAnswer false 0x7F [0x01]) s
/-- SPDM_UNSUPPORTED_REQUEST (R520): an unsupported-request error. -/
def execSpdmUnsupportedRequest (s : State) : Host.Outcome State Fault Refusal := runR (fun w => w.spdmAnswer false 0x7F [0x07]) s

/-! ### Management registers (R521) -/

/-- REQ_HEAD_WRITE (R521, 10 R291): the host has consumed entries; requests that were held are raised. -/
def execReqHeadWrite (s : State) : Host.Outcome State Fault Refusal :=
  runM (fun w =>
    let g := { w.g with reqHead := w.d.arg.b % 2 ^ 32 }
    (g, if g.bstep = 11 then W.raiseHeld { w with g := g } else w)) s
/-- Registers that accept writes only before plat open. -/
def earlyOnly (a : Nat) : Bool := [0x30, 0x38, 0x40, 0xB0, 0x90, 0x98].contains a
/-- A register with a value written: ranges taken at their nearest end, alignment bits and bits beyond the field dropped; an offset that
is not listed or is read-only keeps nothing (R4). -/
def Mgmt.store (g : Mgmt) (a : Nat) (v : Word) : Mgmt :=
  let n := v.toNat
  let aligned := fun (u : Nat) => BitVec.ofNat 64 (n / u * u)
  match a with
  | 0x10 => { g with thermThr := inBounds 70 100 (n % 2 ^ 8) }
  | 0x18 => { g with lnkTmo := inBounds 10 100000 (n % 2 ^ 17) }
  | 0x20 => { g with domId := n % 2 ^ 8, domMembers := inBounds 1 256 (n / 2 ^ 8 % 2 ^ 9) }
  | 0x28 => { g with ptpGm := BitVec.ofNat 64 (n % 2 ^ 9) }
  | 0x30 => { g with ptRoot := aligned (2 ^ 14) }
  | 0x38 => { g with ptHroot := aligned (2 ^ 14) }
  | 0x40 => { g with appendBase := aligned (2 ^ 28) }
  | 0x48 => { g with notifyBase := aligned (2 ^ 12) }
  | 0x50 => { g with notifyLen := inBounds 128 65536 n }
  | 0x58 => { g with ksignSel := BitVec.ofNat 64 (n % 2 ^ 20) }
  | 0x90 => { g with reqBase := aligned (2 ^ 12) }
  | 0x98 => { g with reqLen := inBounds 128 65536 n }
  | 0xB0 => { g with cmdBase := aligned (2 ^ 18) }
  | _ => g
/-- MGMT_REGISTER_WRITE (R521): the value `v` written at offset `a`. A device without power or after a fatal timeout takes none. -/
def execMgmtRegisterWrite (s : State) : Host.Outcome State Fault Refusal :=
  runM (fun w =>
    let a := w.d.arg.a
    if w.g.bstep = 0 || w.g.fatal then (w.g, w)
    else if earlyOnly a && w.g.bstep == 11 then
      (w.g, { w with d := { w.d with life := { w.d.life with ignored := w.d.life.ignored + 1 } } })
    else (w.g.store a (w.d.arg.v.setWidth 64), w)) s
/-- What a read of a management register gives (R513, R521): KSIGN_DATA is the signer digest of the selected kernel (11 R323), and an
offset that is not listed reads zero (01 R4). -/
def W.mgmtRead (w : W) (a : Nat) : Word :=
  let g := w.g
  let word := fun (n : Nat) => BitVec.ofNat 64 n
  let sel := g.ksignSel.toNat
  let signer := (((w.d.ctx (sel % 2 ^ 12)).kernels.get (sel / 2 ^ 12) {}).signer)
  if a % 8 ≠ 0 then 0#64
  else if 0x60 ≤ a ∧ a < 0x90 then signer.extractLsb' (8 * (a - 0x60)) 64
  else if 0x100 ≤ a ∧ a < 0x140 then word ((g.ilimNext.look ((a - 0x100) / 8)).getD (g.limit ((a - 0x100) / 8)))
  else if 0x140 ≤ a ∧ a < 0x180 then word (g.imeas.get ((a - 0x140) / 8) 0 + g.peak.get ((a - 0x140) / 8) 0 * 2 ^ 16)
  else
    match a with
    | 0x00 => word Config.stepping
    | 0x08 => word (g.stat.toNat + g.failStep * 2 ^ 16)
    | 0x10 => word g.thermThr
    | 0x18 => word g.lnkTmo
    | 0x20 => word (g.domId + g.domMembers * 2 ^ 8)
    | 0x28 => g.ptpGm
    | 0x30 => g.ptRoot
    | 0x38 => g.ptHroot
    | 0x40 => g.appendBase
    | 0x48 => g.notifyBase
    | 0x50 => word g.notifyLen
    | 0x58 => g.ksignSel
    | 0x90 => g.reqBase
    | 0x98 => word g.reqLen
    | 0xA0 => word g.reqHead
    | 0xA8 => word w.d.reqTail
    | 0xB0 => g.cmdBase
    | _ => 0#64
/-- PARTIAL_APERTURE_WRITE (10 R285): a partial or misaligned write to the command aperture has no effect. -/
def execPartialApertureWrite (s : State) : Host.Outcome State Fault Refusal := .next s

end Sys2Proof.Machine
end

