-- ==== Sys2Proof/Machine/Matrix.lean ====
section
/-!
DEFINITION. The matrix array (07): firing of its instructions, the resources and order of steps, operands, steps, pairs.
A step reads, computes and changes its tile when it starts; its tokens, unlocking and late faults come when it finishes.
-/

namespace Sys2Proof.Machine

/-! ### Firing -/

/-- The tile an `mputa` or `mputb` names. -/
def pairTile (i : Instr) : Option Nat :=
  match i with
  | .mputa f => some f.tile.toNat
  | .mputb f => some f.tile.toNat
  | _ => none
/-- The other instruction of a tagged pair of a block (R210). -/
def Block.partner (b : Block) (idx : Nat) : Option (Nat × Instr) :=
  match (b.instr idx).bind pairTile with
  | none => none
  | some t => b.slots.find? (fun s => s.1 != idx && pairTile s.2 == some t)
/-- A pair of which one instruction does not operate: the other performs no step, and `mputb` sends nulls (R210). -/
def Dev.pairDropped (d : Dev) (c : Firing) : Dev :=
  match c.code.partner c.idx with
  | none => d
  | some (k, i) =>
    match d.inst c.iid with
    | none => d
    | some x =>
      if x.msteps.any (fun m => m.idx == k) then
        { d.setInst c.iid { x with msteps := x.msteps.filter (fun m => m.idx != k) } with
          flight := d.flight ++ sends c.iid k (nullsTo i) }
      else d

/-- A matrix instruction fires (R204): its step waits for the array. A null on an operand makes it send nulls and perform no
step; an instruction whose partner has fired without operating performs none either. -/
def fireMatrix (i : Instr) (d : Dev) : Dev :=
  match d.firing with
  | none => d
  | some c =>
    if !c.ops.holds (prOf i) then (d.emit c {}).pairDropped c
    else if c.ops.anyNull then (d.emit c { toks := nullsTo i }).pairDropped c
    else
      let void := match c.code.partner c.idx with
        | some (k, _) => c.x.fired.contains k && !c.x.msteps.any (fun m => m.idx == k)
        | none => false
      if void then d.emit c { toks := nullsTo i }
      else d.emit { c with x := { c.x with msteps := c.x.msteps ++ [{ idx := c.idx, a := c.ops.a0, b := c.ops.b0 }] } } {}

/-- MCFG (R206). -/
def execMcfg (f : FmtN) (s : State) : Host.Outcome State Fault Refusal := runD (fireMatrix (.mcfg f)) s
/-- MZERO (R207). -/
def execMzero (f : FmtN) (s : State) : Host.Outcome State Fault Refusal := runD (fireMatrix (.mzero f)) s
/-- MMA (R208). -/
def execMma (f : FmtN) (s : State) : Host.Outcome State Fault Refusal := runD (fireMatrix (.mma f)) s
/-- MLD (R211). -/
def execMld (f : FmtN) (s : State) : Host.Outcome State Fault Refusal := runD (fireMatrix (.mld f)) s
/-- MST (R211). -/
def execMst (f : FmtN) (s : State) : Host.Outcome State Fault Refusal := runD (fireMatrix (.mst f)) s
/-- MCTR (R212). -/
def execMctr (f : FmtN) (s : State) : Host.Outcome State Fault Refusal := runD (fireMatrix (.mctr f)) s
/-- MBOUND (R213). -/
def execMbound (f : FmtN) (s : State) : Host.Outcome State Fault Refusal := runD (fireMatrix (.mbound f)) s
/-- WBLOAD (R214). -/
def execWbload (f : FmtN) (s : State) : Host.Outcome State Fault Refusal := runD (fireMatrix (.wbload f)) s
/-- MPUTA (R210). -/
def execMputa (f : FmtN) (s : State) : Host.Outcome State Fault Refusal := runD (fireMatrix (.mputa f)) s
/-- MPUTB (R210). -/
def execMputb (f : FmtN) (s : State) : Host.Outcome State Fault Refusal := runD (fireMatrix (.mputb f)) s
/-- MRED (R216). -/
def execMred (f : FmtN) (s : State) : Host.Outcome State Fault Refusal := runD (fireMatrix (.mred f)) s
/-- MROW (R215). -/
def execMrow (f : FmtN) (s : State) : Host.Outcome State Fault Refusal := runD (fireMatrix (.mrow f)) s

/-! ### Resources and order (R198-R200) -/

/-- A resource of the array. -/
inductive MRes where
  | tile (t : Nat)
  | weights
  | counter (c : Nat)
deriving DecidableEq, Repr

/-- Resources of the step of an instruction (R198). Those of both phases of a pair stand with its `mputb` (log 18). -/
def matrixRes (i : Instr) : List MRes :=
  match i with
  | .mcfg f => [.tile f.tile.toNat]
  | .mzero f => [.tile f.tile.toNat]
  | .mma f => [.tile f.tile.toNat, .weights] ++ (if f.ksteps = 0#6 then [.counter (bits f.x 6 4)] else [])
  | .mld f => [.tile f.tile.toNat]
  | .mst f => [.tile f.tile.toNat]
  | .mctr f => [.counter (bits f.x 19 17)]
  | .mbound f => [.counter (bits f.x 19 17)]
  | .wbload _ => [.weights]
  | .mputb f => [.tile f.tile.toNat, .weights]
  | .mred f => [.tile f.tile.toNat]
  | .mrow f => [.tile f.tile.toNat]
  | _ => []
/-- An instruction of the matrix family. -/
def isMatrix (i : Instr) : Bool := decide (0xB0 ≤ opcode i) && decide (opcode i ≤ 0xBB)
/-- Two sets of resources meet. -/
def meets (l r : List MRes) : Bool := l.any (fun x => r.contains x)

/-- No older uncommitted instance holds a matrix instruction that uses some resources. -/
def Dev.olderClear (d : Dev) (x : Inst) (uses : Instr → Bool) : Bool :=
  (d.olderOf x).all (fun p => match p.2.code with
    | none => p.2.pend.isSome
    | some b => b.slots.all (fun s => !uses s.2))
/-- A step has finished with some resources: a pair leaves the weight buffer at the end of its multiply phase. -/
def MStep.leaves (m : MStep) (i : Instr) (res : List MRes) : Bool :=
  m.st == .done || (m.st == .multiplied && (match pairTile i with | some t => !res.contains (.tile t) | none => false))
/-- Every lower-indexed matrix instruction of the instance that uses some resources has finished with them, or has fired without
operating. -/
def Inst.lowerDone (x : Inst) (b : Block) (idx : Nat) (res : List MRes) : Bool :=
  b.slots.all (fun s => !(decide (s.1 < idx) && meets (matrixRes s.2) res) ||
    (x.fired.contains s.1 && x.msteps.all (fun m => m.idx != s.1 || m.leaves s.2 res)))
/-- The array of a thread performs no step (R198). -/
def Dev.arrayIdle (d : Dev) (t : Thread) : Bool :=
  !d.insts.any (fun p => p.2.running && (match d.thr p.2.thr with | some u => u.grids.any (fun g => t.grids.contains g) | none => false))
/-- The conditions of R198 on a step. -/
def Dev.eligible (d : Dev) (x : Inst) (b : Block) (idx : Nat) (res : List MRes) : Bool :=
  d.olderClear x (fun i => meets (matrixRes i) res) && x.lowerDone b idx res
/-- Slots that tokens of a set of slots can still reach: slots that have not fired. -/
def Inst.reached (x : Inst) (b : Block) (fuel : Nat) (set : List Nat) : List Nat :=
  match fuel with
  | 0 => set
  | n + 1 =>
    let outs := (b.slots.filter (fun s => set.contains s.1)).flatMap (fun s => targets s.2)
    let new := (outs.filter (fun t => tgtKind t == 1 && !set.contains (tgtIdx t) && !x.fired.contains (tgtIdx t))).map tgtIdx
    if new.isEmpty then set else Inst.reached x b n (set ++ new.eraseDups)
/-- Every condition of R25 but the finish of matrix steps (R200): an output that a token of an unfinished step can still give
may be missing. -/
def Inst.outputsDone (x : Inst) (b : Block) : Bool :=
  let open_ := (b.slots.filter (fun s => isMatrix s.2 &&
    (!x.fired.contains s.1 || x.msteps.any (fun m => m.idx == s.1 && m.st != .done)))).map Prod.fst
  let from_ := b.slots.filter (fun s => (x.reached b 128 open_).contains s.1)
  let ents := (from_.flatMap (fun s => targets s.2)).filter (fun t => tgtKind t == 2)
  (List.range b.nwrite).all (fun k => (x.wr.look k).isSome || ents.any (fun t => bits t 4 0 == k)) && x.storesBelow b 32 &&
    (x.exit.isSome || from_.any (fun s => isExit s.2))

/-! ### Operands (R190-R196) -/

/-- Share columns of a width (R190). -/
def shareCols (w : Nat) : Nat := if w ≤ 1 then 1 else if w ≤ 4 then 2 else 4
/-- Share rows. -/
def shareRows (w : Nat) : Nat := w / shareCols w
/-- Logical rows and columns of a tile. -/
def Tile.rows (t : Tile) : Nat := shareRows t.width * t.m
def Tile.cols (t : Tile) : Nat := shareCols t.width * t.n
/-- A logical cell. -/
def Tile.cell (t : Tile) (x y : Nat) : BitVec 32 := t.cells.getD (x * t.cols + y) 0#32
/-- A tile with every logical cell given by a function. -/
def Tile.fill (t : Tile) (g : Nat → Nat → BitVec 32) : Tile :=
  { t with cells := (List.range t.rows).flatMap (fun x => (List.range t.cols).map (g x)), live := true }
/-- Width of an element of the array: 8 or 16. -/
def elemWidth (ty : BitVec 4) : Nat := tyBits ty
/-- Elements of a K-step (R196). -/
def kElems (ty : BitVec 4) : Nat := 768 / elemWidth ty
/-- Record size (R194). -/
def recSize (sparse : Nat) : Nat := if sparse = 0 then 96 else if sparse = 1 then 64 else 32
/-- Values of a group of four in a record: 4, 2 or 1; values of a record; index bytes. -/
def recVals (sparse : Nat) : Nat := if sparse = 0 then 4 else if sparse = 1 then 2 else 1

/-- Element of bytes. -/
def elemAt (width e : Nat) (bs : List Byte) : Nat := ofBytes ((List.range (width / 8)).map (fun k => bs.getD (e * width / 8 + k) 0#8))
/-- The 2-bit index of value v of a sparse record. -/
def recIndex (width sparse v : Nat) (bs : List Byte) : Nat :=
  let n := kElems (if width = 8 then 0#4 else 8#4) / 4 * recVals sparse
  let at_ := n * width / 8
  (bs.getD (at_ + 2 * v / 8) 0#8).toNat / 2 ^ (2 * v % 8) % 4
/-- A record expanded to the dense K-step (R194). -/
def expandRec (width sparse : Nat) (bs : List Byte) : List Nat :=
  let n := 768 / width
  if sparse = 0 then (List.range n).map (fun e => elemAt width e bs)
  else
    let per := recVals sparse
    (List.range n).map (fun e =>
      let g := e / 4
      ((List.range per).map (fun k => if recIndex width sparse (per * g + k) bs = e % 4 then elemAt width (per * g + k) bs else 0)).foldl
        (· + ·) 0)

/-- The product of two elements as a term of an exact sum (R73). -/
def termOf (x y : FVal) : MSum :=
  if x.isNan || y.isNan then .bad
  else
    match (fMul x y).v with
    | .nan _ => .bad
    | .inf s => .inf s
    | .zero _ => .exact 0 0
    | .num s n _ e => .exact (signedInt s n) e
/-- The exact sum of two terms. -/
def MSum.add (x y : MSum) : MSum :=
  match x, y with
  | .bad, _ => .bad
  | _, .bad => .bad
  | .inf s, .inf t => if s = t then .inf s else .bad
  | .inf s, _ => .inf s
  | _, .inf t => .inf t
  | .exact a e, .exact b f =>
    let m := min e f
    .exact (a * 2 ^ (e - m).toNat + b * 2 ^ (f - m).toNat) m
/-- The exact sum of a K-step of two rows of elements (R73, R208). -/
def stepSum (af bf : BitVec 4) (xs ys : List Nat) : MSum :=
  (xs.zip ys).foldl (fun acc p =>
    acc.add (if intTy af then .exact (num af p.1 * num bf p.2) 0 else termOf (decodeF af p.1) (decodeF bf p.2))) (.exact 0 0)
/-- AddCell (R73, R208): the cell and its flags. -/
def addCell (i32 : Bool) (cell : BitVec 32) (s : MSum) : BitVec 32 × BitVec 6 :=
  match s with
  | .bad => (BitVec.ofNat 32 (canonicalNan 10#4), fNV)
  | .inf g =>
    (match decodeF 10#4 cell.toNat with
      | .nan _ => (BitVec.ofNat 32 (canonicalNan 10#4), 0#6)
      | .inf h => if g = h then (cell, 0#6) else (BitVec.ofNat 32 (canonicalNan 10#4), fNV)
      | _ => (BitVec.ofNat 32 (roundTo 10#4 (.inf g) .near false).code, 0#6))
  | .exact z e =>
    if i32 then (BitVec.ofInt 32 ((cell.toNat : Int) + z * 2 ^ e.toNat), 0#6)
    else
      match decodeF 10#4 cell.toNat with
      | .nan _ => (BitVec.ofNat 32 (canonicalNan 10#4), 0#6)
      | v =>
        let t : FVal := if z = 0 then .zero false else .num (decide (z < 0)) z.natAbs 1 e
        let r := rounded 10#4 .near false (fAdd .near v t)
        (BitVec.ofNat 32 r.code, r.flags)

/-! ### Reads of a step (R193, R199) -/

/-- What preparing a step gives: it may not start, ends in a fault, or goes on with a step record. -/
inductive Prep where
  | wait
  | stop (w : W)
  | go (w : W) (m : MStep) (x : Inst)

/-- A fault of a step. -/
def W.stepFault (w : W) (iid idx : Nat) (c : Cause) (addr tile : Nat) : Prep :=
  .stop { w with d := w.d.hold iid { cause := c, loc := BitVec.ofNat 8 idx, w2 := BitVec.ofNat 64 addr, w3 := BitVec.ofNat 64 tile } }
/-- The faults of R217 that name a data address. -/
def W.memFault (w : W) (iid idx : Nat) (c : Cause) (addr write : Nat) : Prep :=
  .stop { w with d := w.d.hold iid { cause := c, loc := BitVec.ofNat 8 idx, w2 := BitVec.ofNat 64 addr, w3 := BitVec.ofNat 64 write } }

/-- Pages of ranges checked and locked for a step (R202). -/
def W.stepPages (w : W) (iid idx : Nat) (x : Inst) (t : Thread) (m : MStep) (need : BitVec 3) (l : List (Nat × Nat)) : Prep :=
  match w.checkPages t.first t.ctx (w.d.rnumOf t) need l with
  | (.ok ls, w) => .go (w.lockAll ls) { m with locks := ls } x
  | (.fault c a, w) => w.memFault iid idx c a (if need = rW then 1 else 0)
  | (.absent a, w) => .stop { w with d := w.pageFault iid a (if need = rW then 1 else 0) }
  | (.waits, _) => .wait

/-- The DATA_ECC that a step leaves pending (R203); bad data of a weight buffer has no data address (10 R306). -/
def badData (idx addr : Nat) : Pend := { cause := .dataEcc, loc := BitVec.ofNat 8 idx, w2 := BitVec.ofNat 64 addr }
/-- Global bytes as a step reads them, after every LSID of its instance; bad data is noted and the step goes on (R199, R203). -/
def W.stepRead (w : W) (x : Inst) (t : Thread) (idx : Nat) (as : List Nat) : List Byte × Inst × Option Pend × W :=
  match w.loadCells x t 32 as with
  | (.ok cs, w) => (cs.map Prod.snd, { x with accs := x.accs ++ [⟨32, idx, cs, false, none⟩] }, none, w)
  | (_, w) => (as.map (fun _ => 0#8), x, some (badData idx (as.headD 0)), w)

/-- The A rows of a run of K K-steps, for each share row: its bytes in order (R193). -/
def W.readA (w : W) (iid idx : Nat) (x : Inst) (t : Thread) (m : MStep) (asrc : Bool) (tm K : Nat) (tile : Nat) :
    Prep × List (List Byte) :=
  let R := shareRows t.width
  let C := shareCols t.width
  let base := m.a.toNat
  if asrc then
    let n := K * R * tm * 96
    if base % 32 ≠ 0 ∨ 2 ^ 57 ≤ base then (w.memFault iid idx .alignment base 0, [])
    else if !w.isLocal base then (w.memFault iid idx .protection base 0, [])
    else
      match w.stepPages iid idx x t m rR [(base, n)] with
      | .go w m x =>
        let r := w.stepRead x t idx (span base n)
        let bs := r.1.toArray
        let row := fun (share : Nat) => (List.range (K * tm * 96)).map (fun o =>
          let s := o / (tm * 96)
          bs.getD ((s * R * tm + share * tm) * 96 + o % (tm * 96)) 0#8)
        (.go r.2.2.2 { m with late := r.2.2.1 } r.2.1, (List.range R).map row)
      | p => (p, [])
  else
    let n := K * tm * 96
    if base % 32 ≠ 0 then (w.memFault iid idx .alignment base 0, [])
    else if w.d.scratchSize t < base + n then (w.stepFault iid idx .matrixShape base tile, [])
    else
      let keys := (List.range R).map (fun r => (t.first + r * C, spKey (t.first + r * C) (w.d.window t + base)))
      if keys.any (fun k => w.d.stalled x k.2 n) then (.wait, [])
      else
        let cells := keys.map (fun k => (k.1, w.loadSp x k.1 32 (span k.2 n)))
        let late := if keys.any (fun k => w.spPoison k.2 n) then some (badData idx base) else none
        (.go w { m with late := late } { x with accs := x.accs ++ cells.map (fun c => ⟨32, idx, c.2, false, some c.1⟩) },
          cells.map (fun c => c.2.map Prod.snd))

/-- The B range of a run is not tagged as its format asks on every grid of the core, or overruns the buffer (R195). -/
def Dev.badB (d : Dev) (t : Thread) (off n : Nat) (bf : BitVec 4) (sparse : Nat) : Bool :=
  off % 32 != 0 || decide (524288 < off + n) ||
    t.grids.any (fun g => (List.range (n / 32)).any (fun u =>
      (d.grid g).wtags.get (off / 32 + u) .empty != .full (elemWidth bf) sparse))

/-- The records of a K-step in the buffer of a grid, expanded (R194). -/
def W.readB (w : W) (g off s tn : Nat) (bf : BitVec 4) (sparse : Nat) : List (List Nat) :=
  let rs := recSize sparse
  (List.range tn).map (fun j => expandRec (elemWidth bf) sparse (w.rds (wbKey g (off + (s * tn + j) * rs)) rs))
/-- An uncorrectable error stands in the B range of a run on a grid of the core (R203). -/
def W.poisonB (w : W) (t : Thread) (off n : Nat) : Bool := t.grids.any (fun g => w.spPoison (wbKey g off) n)
/-- What a run leaves pending: bad data of its A panel, else of its B range. -/
def MStep.orPoison (m : MStep) (bad : Bool) (idx : Nat) : Option Pend :=
  match m.late with
  | some p => some p
  | none => if bad then some (badData idx 0) else none

/-- The sums of K-step s of a run, for each logical cell in row order: share (r, c) takes B from the buffer of its own grid
(R194, R208). -/
def kStepSums (w : W) (t : Thread) (tl : Tile) (rows : List (List Byte)) (off s : Nat) (af bf : BitVec 4) (sparse : Nat) : List MSum :=
  let C := shareCols tl.width
  rows.zipIdx.flatMap (fun p =>
    let bcols := (List.range C).flatMap (fun c => w.readB (t.first + p.2 * C + c) off s tl.n bf sparse)
    (List.range tl.m).flatMap (fun i =>
      let seg := (p.1.drop ((s * tl.m + i) * 96)).take 96
      let xs := (List.range (kElems af)).map (fun e => elemAt (elemWidth af) e seg)
      bcols.map (fun ys => stepSum af bf xs ys)))

/-- Sums added into a tile, with the flags they raise. -/
def Tile.addSums (t : Tile) (l : List MSum) : Tile × BitVec 6 :=
  let n := t.rows * t.cols
  let r := (List.range n).map (fun k => addCell t.i32 (t.cells.getD k 0#32) (l.getD k (.exact 0 0)))
  ({ t with cells := r.map Prod.fst, live := true }, joinFlags (r.map Prod.snd))

/-! ### Steps -/

/-- The unit a step sees: committed values as lower-indexed steps of the instance left them (R197). -/
def Inst.counter (x : Inst) (t : Thread) (c : Nat) : Counter :=
  (x.msteps.isort (fun a b => decide (a.idx ≤ b.idx))).foldl
    (fun acc m => match m.ctr with | some (k, v) => if k = c then v else acc | none => acc) (t.ctrs.get c {})

/-- The start copy of a tile (R201), and the tile as the step leaves it. -/
def W.putTile (w : W) (x : Inst) (t : Thread) (k : Nat) (tl : Tile) : W × Inst :=
  let x := { x with starts := if (x.starts.look k).isSome then x.starts else x.starts.set k (t.tile k) }
  ({ w with d := w.d.modThr x.thr (fun th => { th with
      tiles := th.tiles.set k tl, tileFirst := if tl.width = th.width then th.tileFirst.set k th.first else th.tileFirst }) }, x)

/-- A tile that takes the current width when it is not live (R191); a live one of another width, or a cell type unlike the
tile's, is MATRIX_SHAPE (R217). -/
def shapeOk (tl : Tile) (width : Nat) (cf : Option Bool) : Option Tile :=
  if (tl.live && tl.width != width) || (match cf with | some i => i != tl.i32 | none => false) then none
  else some (if tl.live then tl else { tl with width := width })

/-- A token of one n64 value. -/
def oneTok (t : Target) (n : Nat) : BitVec 12 × Tok := (t, .val (splat64 (BitVec.ofNat 64 n)))
/-- A token of 16 lanes of 32 bits. -/
def tok16 (l : List Nat) : Tok := .val (ofLanes 32 l)

/-- Addresses of the cells of a tile in memory (R211): row x at a + 4·PITCH·x. -/
def tileAddrs (tl : Tile) (a pitch : Nat) : List Nat :=
  (List.range tl.rows).flatMap (fun x => span (a + 4 * pitch * x) (4 * tl.cols))
/-- The ranges of the rows. -/
def tileRanges (tl : Tile) (a pitch : Nat) : List (Nat × Nat) :=
  (List.range tl.rows).map (fun x => (a + 4 * pitch * x, 4 * tl.cols))

/-- Start `mcfg` (R206). -/
def startMcfg (f : FmtN) (w : W) (iid idx : Nat) (x : Inst) (t : Thread) (m : MStep) : Prep :=
  let k := f.tile.toNat
  let tl := t.tile k
  let mm := if bits f.x 19 18 = 0 then 16 else if bits f.x 19 18 = 1 then 32 else 48
  let nn := if bits f.x 17 16 = 0 then 32 else if bits f.x 17 16 = 1 then 64 else 96
  let i32 := f.cf == 1#2
  let drop := f.x.getLsbD 0
  let same := tl.m == mm && tl.n == nn && tl.i32 == i32 && tl.width == t.width
  if same && !drop then .go w m x
  else if !same && tl.live && !drop then w.stepFault iid idx .tileLive 0 k
  else
    let r := w.putTile x t k { m := mm, n := nn, i32 := i32, width := t.width, live := false, cells := [] }
    .go r.1 m r.2

/-- Start `mzero` (R207). -/
def startMzero (f : FmtN) (w : W) (iid idx : Nat) (x : Inst) (t : Thread) (m : MStep) : Prep :=
  let k := f.tile.toNat
  match shapeOk (t.tile k) t.width none with
  | none => w.stepFault iid idx .matrixShape 0 k
  | some tl =>
    let r := w.putTile x t k { tl with cells := [], live := true }
    .go r.1 m r.2

/-- Start `mma` (R208): the whole run. -/
def startMma (f : FmtN) (w : W) (iid idx : Nat) (x : Inst) (t : Thread) (m : MStep) : Prep :=
  let k := f.tile.toNat
  let cu := bits f.x 6 4
  let ctr := x.counter t cu
  let K := if f.ksteps = 0#6 then ctr.ktrip else f.ksteps.toNat
  let eor := f.ksteps == 0#6 && decide (ctr.rowtrip ≤ ctr.count + 1)
  match shapeOk (t.tile k) t.width (some (f.cf == 1#2)) with
  | none => w.stepFault iid idx .matrixShape 0 k
  | some tl =>
    let n := K * tl.n * recSize f.sparse.toNat
    if w.d.badB t m.b.toNat n f.bf f.sparse.toNat then
      w.stepFault iid idx .weightFormat m.b.toNat k
    else
      match w.readA iid idx x t m (f.x.getLsbD 7) tl.m K k with
      | (.go w m x, rows) =>
        let r := (List.range K).foldl (fun (acc : Tile × BitVec 6) s =>
          let q := acc.1.addSums (kStepSums w t tl rows m.b.toNat s f.af f.bf f.sparse.toNat)
          (q.1, acc.2 ||| q.2)) ({ tl with live := true }, 0#6)
        let p := w.putTile x t k r.1
        .go p.1 { m with
            late := m.orPoison (w.poisonB t m.b.toNat n) idx,
            toks := [oneTok f.t0 K, (f.x.extractLsb' 8 12, .val (prTok 8 (if eor then 255 else 0)))],
            ctr := if f.ksteps = 0#6 then some (cu, { ctr with count := if eor then 0 else ctr.count + 1 }) else none }
          { p.2 with flags := p.2.flags ||| r.2 }
      | (p, _) => p

/-- Start `mld` (R211). -/
def startMld (f : FmtN) (w : W) (iid idx : Nat) (x : Inst) (t : Thread) (m : MStep) : Prep :=
  let k := f.tile.toNat
  let a := m.a.toNat
  let pitch := bits f.x 15 0
  match shapeOk (t.tile k) t.width none with
  | none => w.stepFault iid idx .matrixShape a k
  | some tl =>
    if a % 64 ≠ 0 ∨ 2 ^ 57 ≤ a ∨ pitch < tl.cols ∨ pitch % 16 ≠ 0 then w.memFault iid idx .alignment a 0
    else if !w.isLocal a then w.memFault iid idx .protection a 0
    else
      match w.stepPages iid idx x t m rR (tileRanges tl a pitch) with
      | .go w m x =>
        let r := w.stepRead x t idx (tileAddrs tl a pitch)
        let bs := r.1.toArray
        let p := r.2.2.2.putTile r.2.1 t k (tl.fill (fun i j =>
          BitVec.ofNat 32 (ofBytes ((List.range 4).map (fun b => bs.getD (4 * (i * tl.cols + j) + b) 0#8)))))
        .go p.1 { m with late := r.2.2.1, toks := [oneTok f.t0 1] } p.2
      | p => p

/-- Start `mst` (R211): the cells go to a store buffer; with REL the tile is released. -/
def startMst (f : FmtN) (w : W) (iid idx : Nat) (x : Inst) (t : Thread) (m : MStep) : Prep :=
  let k := f.tile.toNat
  let a := m.a.toNat
  let pitch := bits f.x 15 0
  let tl := t.tile k
  if a % 64 ≠ 0 ∨ 2 ^ 57 ≤ a ∨ pitch < tl.cols ∨ pitch % 16 ≠ 0 then w.memFault iid idx .alignment a 1
  else if !w.isLocal a then w.memFault iid idx .protection a 1
  else
    match w.stepPages iid idx x t m rW (tileRanges tl a pitch) with
    | .go w m x =>
      let cs := (List.range tl.rows).flatMap (fun i => (List.range tl.cols).flatMap (fun j =>
        cellsAt (a + 4 * (pitch * i + j)) (leBytes 4 (tl.cell i j).toNat)))
      let d := w.d.violate x none (cs.map Prod.fst)
      let w := { w with d := d }
      let p := if bits f.x 16 16 = 1 then w.putTile x t k { tl with cells := [], live := false } else (w, x)
      .go p.1 { m with out := cs, toks := [oneTok f.t0 1] } { p.2 with accs := p.2.accs ++ [⟨32 + idx, idx, cs, true, none⟩] }
    | p => p

/-- Start `mctr` (R212). -/
def startMctr (f : FmtN) (w : W) (_iid _idx : Nat) (x : Inst) (_t : Thread) (m : MStep) : Prep :=
  .go w { m with ctr := some (bits f.x 19 17, ⟨bits f.x 16 10 + 1, bits f.x 9 0, 0⟩) } x

/-- Start `mbound` (R213). -/
def startMbound (f : FmtN) (w : W) (_iid _idx : Nat) (x : Inst) (t : Thread) (m : MStep) : Prep :=
  let u := bits f.x 19 17
  let c := x.counter t u
  let v := m.a.toNat
  .go w { m with ctr := some (u, if bits f.x 16 16 = 0 then { c with ktrip := max 1 (min 64 v) }
    else { c with rowtrip := max 1 (min 1023 v) }) } x

/-- A record fails its check (R214): indices of a 2-of-4 group not strictly increasing, or a nonzero zero byte. -/
def badRec (width sparse : Nat) (bs : List Byte) : Bool :=
  let groups := 768 / width / 4
  let vals := groups * recVals sparse
  let used := vals * width / 8 + vals * 2 / 8
  (sparse == 1 && (List.range groups).any (fun g => decide (recIndex width 1 (2 * g + 1) bs ≤ recIndex width 1 (2 * g) bs))) ||
    (sparse != 0 && (bs.drop used).any (fun b => b != 0#8))

/-- Start `wbload` (R214, 20 R509): every grid of share column c takes the c-th run of bytes. -/
def startWbload (f : FmtN) (w : W) (iid idx : Nat) (x : Inst) (t : Thread) (m : MStep) : Prep :=
  let a := m.a.toNat
  let b := m.b.toNat
  let n := 256 * (bits f.x 7 0 + 1)
  let C := shareCols t.width
  let rs := recSize f.sparse.toNat
  if a % 256 ≠ 0 ∨ 2 ^ 57 ≤ a then w.memFault iid idx .alignment a 0
  else if !w.isLocal a then w.memFault iid idx .protection a 0
  else if 524288 < b + n ∨ n % rs ≠ 0 ∨ b % rs ≠ 0 then w.stepFault iid idx .weightFormat b 0
  else
    match w.stepPages iid idx x t m rR [(a, n * C)] with
    | .go w m x =>
      let r := w.stepRead x t idx (span a (n * C))
      let w := r.2.2.2
      let units := t.grids.flatMap (fun g => (List.range (n / 32)).map (fun u => (g, b / 32 + u)))
      let part := fun (c : Nat) => (r.1.drop (c * n)).take n
      let bad := (List.range C).any (fun c => (List.range (n / rs)).any (fun k =>
        badRec (elemWidth f.bf) f.sparse.toNat (((part c).drop (k * rs)).take rs)))
      let late := match r.2.2.1 with
        | some p => some p
        | none => if bad then some { cause := .weightFormat, loc := BitVec.ofNat 8 idx, w2 := BitVec.ofNat 64 b } else none
      let w := if late.isSome then w
        else t.grids.foldl (fun w g => w.wrs (cellsAt (wbKey g b) (part ((g - t.first) % C)))) w
      let tag : WTag := if late.isSome then .empty else .full (elemWidth f.bf) f.sparse.toNat
      let d := units.foldl (fun d u => d.modGrid u.1 (fun g => { g with wtags := g.wtags.set u.2 tag })) w.d
      .go { w with d := d } { m with late := late, units := units, toks := [oneTok f.t0 n] } r.2.1
    | p => p

/-- Start `mrow` (R215). -/
def startMrow (f : FmtN) (w : W) (iid idx : Nat) (x : Inst) (t : Thread) (m : MStep) : Prep :=
  let tl := t.tile f.tile.toNat
  let row := if f.x.getLsbD 0 then bits m.a 7 0 else bits f.x 19 12
  let seg := if f.x.getLsbD 0 then bits m.a 12 8 else bits f.x 11 7
  if tl.rows ≤ row ∨ tl.cols / 16 ≤ seg then w.stepFault iid idx .matrixShape 0 f.tile.toNat
  else .go w { m with toks := [(f.t0, tok16 ((List.range 16).map (fun k => (tl.cell row (16 * seg + k)).toNat)))] } x

/-- One lane of `mred` (R216); a signalling NaN raises NV (03 R56). DESIGN CHOICE: an exactly zero f32 sum is −0 where every
cell is −0, else +0 (log 11). -/
def redRow (i32 : Bool) (op : Nat) (l : List (BitVec 32)) : Nat × BitVec 6 :=
  if i32 then
    let z := l.map BitVec.toInt
    let v := if op = 0 then z.foldl (· + ·) 0 else if op = 1 then z.foldl max (z.headD 0) else z.foldl min (z.headD 0)
    (wrap 32 v, 0#6)
  else
    let v := l.map (fun c => decodeF 10#4 c.toNat)
    if v.any FVal.isNan then (canonicalNan 10#4, snanFlag v)
    else
      let r := if op = 0 then sumExact .near (v.map (fun x => ⟨x, 0#6⟩))
        else (v.drop 1).foldl (fun acc x => if op = 1 then fMax acc.v x else fMin acc.v x) ⟨v.headD (.zero false), 0#6⟩
      let q := rounded 10#4 .near false r
      (q.code, q.flags)

/-- Start `mred` (R216). -/
def startMred (f : FmtN) (w : W) (iid idx : Nat) (x : Inst) (t : Thread) (m : MStep) : Prep :=
  let tl := t.tile f.tile.toNat
  let blk := bits f.x 19 12
  if tl.rows / 16 ≤ blk then w.stepFault iid idx .matrixShape 0 f.tile.toNat
  else
    let l := (List.range 16).map (fun k => redRow tl.i32 (bits f.x 1 0) ((List.range tl.cols).map (tl.cell (16 * blk + k))))
    .go w { m with toks := [(f.t0, tok16 (l.map Prod.fst))] } { x with flags := x.flags ||| joinFlags (l.map Prod.snd) }

/-- The start of the step of an instruction; none for one that has no step of this kind. -/
def startOf (i : Instr) : Option (W → Nat → Nat → Inst → Thread → MStep → Prep) :=
  match i with
  | .mcfg f => some (startMcfg f)
  | .mzero f => some (startMzero f)
  | .mma f => some (startMma f)
  | .mld f => some (startMld f)
  | .mst f => some (startMst f)
  | .mctr f => some (startMctr f)
  | .mbound f => some (startMbound f)
  | .wbload f => some (startWbload f)
  | .mred f => some (startMred f)
  | .mrow f => some (startMrow f)
  | _ => none
/-- A step that reads memory (R199). -/
def readsMem (i : Instr) : Bool :=
  match i with
  | .mma _ => true
  | .mld _ => true
  | .wbload _ => true
  | .mputa _ => true
  | .mputb _ => true
  | _ => false
def isWbload (i : Instr) : Bool := match i with | .wbload _ => true | _ => false

/-- The step that an event names, waiting in its instance. -/
def Dev.stepAt (d : Dev) (iid idx : Nat) (st : StepSt) : Option (Inst × Block × Thread × MStep × Instr) :=
  match d.inst iid with
  | none => none
  | some x =>
    match x.code, d.thr x.thr, x.msteps.find? (fun m => m.idx == idx && m.st == st) with
    | some b, some t, some m => (b.instr idx).map (fun i => (x, b, t, m, i))
    | _, _, _ => none

/-- A step replaced in its instance. -/
def Inst.setStep (x : Inst) (m : MStep) : Inst := { x with msteps := x.msteps.map (fun q => if q.idx == m.idx then m else q) }

/-- The other instruction of the pair whose `mputb` is given has fired and waits (R210). -/
def Inst.pairWaits (x : Inst) (b : Block) (idx : Nat) : Bool :=
  match b.partner idx with
  | some (k, .mputa _) => x.msteps.any (fun q => q.idx == k && q.st == .waiting)
  | _ => false
/-- Pairs of older instances of a thread that have not been multiplied: the entries of the matching store they will need. -/
def Dev.olderPairs (d : Dev) (x : Inst) : Nat :=
  ((d.olderOf x).map (fun p => match p.2.code with
    | none => 0
    | some b => (b.slots.filter (fun s => (match s.2 with | .mputb _ => true | _ => false) &&
        !(p.2.fired.contains s.1 && p.2.msteps.all (fun m => m.idx != s.1 || m.st != .waiting)))).length)).sum
/-- A step may begin its reads: as a load ordered after every LSID of its instance (R199, 02 R34, 09 R269). -/
def Dev.mayRead (d : Dev) (iid : Nat) (x : Inst) (b : Block) (t : Thread) (idx : Nat) : Bool :=
  d.mayLoad ⟨iid, idx, x, b, {}⟩ t 32
/-- The next phase of a step is eligible: R198, R199 for reads, R200 for `wbload`, R210 for a pair. Older matrix steps do not hold
back a multiply phase, and a younger pair leaves an entry of the matching store for each older one. -/
def Dev.stepReady (d : Dev) (iid : Nat) (x : Inst) (b : Block) (t : Thread) (m : MStep) (i : Instr) : Bool :=
  x.pend.isNone && !x.dying && (match i, m.st with
    | .mputa _, _ => false
    | .mputb _, .waiting =>
      x.pairWaits b m.idx && d.mayRead iid x b t m.idx && d.olderClear x isWbload && x.lowerDone b m.idx [.weights] &&
        decide ((d.grid t.first).matching.length + d.olderPairs x < 8)
    | .mputb f, .multiplied => d.eligible x b m.idx [.tile f.tile.toNat]
    | i, .waiting =>
      d.eligible x b m.idx (matrixRes i) && (!readsMem i || d.mayRead iid x b t m.idx) &&
        (!isWbload i || (d.isOldest x && x.outputsDone b))
    | _, _ => false)
/-- Steps that have become eligible take their place in line (R198). -/
def Dev.markSteps (d : Dev) : Dev :=
  { d with insts := d.insts.map (fun p =>
      match p.2.msteps, p.2.code, d.thr p.2.thr with
      | [], _, _ => p
      | ms, some b, some t =>
        (p.1, { p.2 with msteps := ms.map (fun m =>
          if m.elig.isNone && (b.instr m.idx).any (d.stepReady p.1 p.2 b t m) then { m with elig := some d.cycle } else m) })
      | _, _, _ => p) }
/-- A step stands before another: eligible earlier, or in the same cycle and of an older instance (R198). DEDUCED: of one
instance the lower index goes first (log 18). -/
def Dev.stepBefore (d : Dev) (y : Inst) (n : MStep) (x : Inst) (m : MStep) : Bool :=
  let at_ := fun (q : MStep) => q.elig.getD d.cycle
  decide (at_ n < at_ m) || (at_ n == at_ m && (decide (y.seq < x.seq) || (y.seq == x.seq && decide (n.idx < m.idx))))

/-- The shape and weight checks of the multiply phase of a pair, and its A panel. -/
def W.pairPrep (w : W) (iid idx k : Nat) (f fa : FmtN) (x : Inst) (t : Thread) (m ma : MStep) : Prep × List (List Byte) :=
  let tile := f.tile.toNat
  match shapeOk (t.tile tile) t.width (some (f.cf == 1#2)) with
  | none => (w.stepFault iid idx .matrixShape 0 tile, [])
  | some tl =>
    if w.d.badB t m.a.toNat (tl.n * recSize f.sparse.toNat) f.bf f.sparse.toNat then
      (w.stepFault iid idx .weightFormat m.a.toNat tile, [])
    else w.readA iid k x t ma (fa.x.getLsbD 7) tl.m 1 tile
/-- A step that is eligible has still to wait: for a range of the scoreboard (08 R251), or for a page of its range (R202). -/
def W.stepHeld (w : W) (iid : Nat) (x : Inst) (b : Block) (t : Thread) (m : MStep) (i : Instr) : Bool :=
  match i, m.st, b.partner m.idx with
  | .mputb f, .waiting, some (k, .mputa fa) =>
    (match x.msteps.find? (fun q => q.idx == k) with
    | some ma => (match (w.pairPrep iid m.idx k f fa x t m ma).1 with | .wait => true | _ => false)
    | none => false)
  | .mputb _, _, _ => false
  | i, _, _ =>
    match startOf i with
    | some g => (match g w iid m.idx x t m with | .wait => true | _ => false)
    | none => false
/-- It is the turn of a step: the array is idle, the step is eligible, and none of the thread's steps that can start stands before
it (R198). -/
def W.stepTurn (w : W) (iid : Nat) (x : Inst) (b : Block) (t : Thread) (m : MStep) (i : Instr) : Bool :=
  w.d.arrayIdle t && w.d.stepReady iid x b t m i &&
    (w.d.instsOf x.thr).all (fun p => p.2.msteps.all (fun n =>
      !w.d.stepBefore p.2 n x m || (match p.2.code.bind (fun c => (c.instr n.idx).map (fun j => (c, j))) with
        | some (c, j) => !w.d.stepReady p.1 p.2 c t n j || w.stepHeld p.1 p.2 c t n j
        | none => true)))

/-- A step starts. -/
def W.stepStart (w : W) (iid idx : Nat) (ok : Instr → Bool) : W :=
  match w.d.stepAt iid idx .waiting with
  | none => w
  | some (x, b, t, m, i) =>
    match startOf i with
    | none => w
    | some g =>
      if !ok i || !w.stepTurn iid x b t m i then w
      else
        match g w iid idx x t m with
        | .wait => w
        | .stop w => w
        | .go w m x => { w with d := w.d.setInst iid (x.setStep { m with st := .started }) }

/-- A step finishes: pages unlocked but for `mst`, tokens sent, late faults pending; an instance that only waited for it is
removed (R202-R203, 02 R30). -/
def W.stepFinish (w : W) (iid idx : Nat) : W :=
  match w.d.stepAt iid idx .started with
  | none => w
  | some (x, _, _, m, i) =>
    let keep := match i with | .mst _ => true | _ => false
    let w := if keep then w else m.locks.foldl (fun w l => w.unlock l) w
    let m' := { m with st := .done, locks := if keep then m.locks else [] }
    let x := x.setStep m'
    let d := w.d.setInst iid x
    if x.dying then { w with d := if x.running then d else d.dropInst iid }
    else if x.pend.isSome then { w with d := d }
    else
      let d := { d with flight := d.flight ++ sends iid idx m.toks }
      { w with d := match m.late with
        | some p => d.hold iid p
        | none => d }

/-- MATRIX_STEP_START (R198): the step of instance `a`, index `b`. -/
def execMatrixStepStart (s : State) : Host.Outcome State Fault Refusal :=
  run (fun w => w.stepStart w.d.arg.a w.d.arg.b (fun i => !isWbload i)) s
/-- MATRIX_STEP_FINISH (R203). -/
def execMatrixStepFinish (s : State) : Host.Outcome State Fault Refusal :=
  run (fun w => w.stepFinish w.d.arg.a w.d.arg.b) s
/-- WBLOAD_STEP_START (R200). -/
def execWbloadStepStart (s : State) : Host.Outcome State Fault Refusal :=
  run (fun w => w.stepStart w.d.arg.a w.d.arg.b isWbload) s

/-! ### Tagged pairs (R210) -/

/-- The multiply phase of the pair whose `mputb` stands at an index: shape and weight checks, then the sums of the K-step in a
matching-store entry; bad data in what it read is pending at its end (R203). DESIGN CHOICE: the shape, the cell type and the
layout are those that the tile has at this phase, and the held sums are taken in the tile's order at the accumulate phase
(log 18). -/
def W.pairMultiply (w : W) (iid idx : Nat) : W :=
  match w.d.stepAt iid idx .waiting with
  | none => w
  | some (x, b, t, m, i) =>
    match i, b.partner idx with
    | .mputb f, some (k, .mputa fa) =>
      (match x.msteps.find? (fun q => q.idx == k && q.st == .waiting) with
      | none => w
      | some ma =>
        if !w.stepTurn iid x b t m i then w
        else
          match w.pairPrep iid idx k f fa x t m ma with
          | (.wait, _) => w
          | (.stop w, _) => w
          | (.go w ma x, rows) =>
            let tile := f.tile.toNat
            let tl := (shapeOk (t.tile tile) t.width none).getD (t.tile tile)
            let w := ma.locks.foldl (fun w l => w.unlock l) w
            let sums := kStepSums w t tl rows m.a.toNat 0 fa.af f.bf f.sparse.toNat
            let x := (x.setStep { m with st := .multiplied, sums := sums, elig := none }).setStep { ma with st := .multiplied, locks := [] }
            let d := (w.d.setInst iid x).modGrid t.first (fun g => { g with matching := g.matching ++ [(iid, tile)] })
            { w with d := match ma.orPoison (w.poisonB t m.a.toNat (tl.n * recSize f.sparse.toNat)) idx with
              | some p => d.hold iid p
              | none => d })
    | _, _ => w

/-- The accumulate phase of a pair: the held sums are added into the tile, under R198; `mputb` sends its completion token. -/
def W.pairAccumulate (w : W) (iid idx : Nat) : W :=
  match w.d.stepAt iid idx .multiplied with
  | none => w
  | some (x, b, t, m, i) =>
    match i with
    | .mputb f =>
      let tile := f.tile.toNat
      if !w.stepTurn iid x b t m i then w
      else
        match shapeOk (t.tile tile) t.width (some (f.cf == 1#2)) with
        | none => (match w.stepFault iid idx .matrixShape 0 tile with | .stop w => w | _ => w)
        | some tl =>
          let r := tl.addSums m.sums
          let p := w.putTile x t tile r.1
          let x := { p.2 with flags := p.2.flags ||| r.2 }
          let done := fun (q : MStep) => if q.idx == idx || (b.partner idx).any (fun s => s.1 == q.idx) then { q with st := .done, sums := [] } else q
          let x := { x with msteps := x.msteps.map done }
          let d := (p.1.d.setInst iid x).modGrid t.first (fun g => { g with
            matching := g.matching.filter (fun e => !(e.1 == iid && e.2 == tile)) })
          { p.1 with d := { d with flight := d.flight ++ sends iid idx [oneTok f.t0 1] } }
    | _ => w

/-- PAIR_MULTIPLY_PHASE (R210): the pair of instance `a` whose `mputb` has index `b`. -/
def execPairMultiplyPhase (s : State) : Host.Outcome State Fault Refusal :=
  run (fun w => w.pairMultiply w.d.arg.a w.d.arg.b) s
/-- PAIR_ACCUMULATE_PHASE (R210). -/
def execPairAccumulatePhase (s : State) : Host.Outcome State Fault Refusal :=
  run (fun w => w.pairAccumulate w.d.arg.a w.d.arg.b) s

end Sys2Proof.Machine
end

