-- ==== Sys2Proof/Machine/Traverse.lean ====
section
/-!
DEFINITION. Traverse sets (17 R454-R472): descriptors, routing, the instructions as they fire, and what their commits do.
-/

namespace Sys2Proof.Machine

/-! ### Sets, handles, reservations (R459) -/

/-- A set of a context by number. -/
def Ctx.tset (k : Ctx) (n : Nat) : TSet := k.sets.get n {}
/-- A set changed. -/
def Dev.modTset (d : Dev) (c n : Nat) (f : TSet → TSet) : Dev := d.modCtx c (fun k => { k with sets := k.sets.set n (f (k.tset n)) })
/-- The handle of a set. -/
def TSet.handle (s : TSet) (n : Nat) : Nat := n % 16 + s.tgen % 2 ^ 32 * 2 ^ 10
/-- Address of a slot (R456). -/
def TSet.slotAt (s : TSet) (slot : Nat) : Nat := s.base + 256 * slot
/-- A stage. -/
def TSet.stage (s : TSet) (k : Nat) : Stage := s.stages.getD k { kind := 3, template := none, queue := 0#64 }
/-- A stage changed. -/
def TSet.modStage (s : TSet) (k : Nat) (f : Stage → Stage) : TSet := { s with stages := s.stages.modify k f }
/-- A set that takes records. -/
def TSet.accepts (s : TSet) : Bool := s.st == .opened || s.st == .running

/-- Effects of the uncommitted instances of a thread up to an instance, the oldest first. -/
def Dev.ownEffs (d : Dev) (x : Inst) : List Eff :=
  ((d.olderOf x).isort (fun a b => decide (a.2.seq ≤ b.2.seq))).flatMap (fun p => p.2.effs.map (fun e => e.2.2)) ++
    x.effs.map (fun e => e.2.2)
/-- The set that a handle names for an instance; a set that its own thread is opening counts (log 32). -/
def Dev.tsetFor (d : Dev) (c : Nat) (x : Inst) (h : Nat) : Option (Nat × TSet) :=
  let n := h % 16
  let s := (d.ctx c).tset n
  if s.st ≠ .free ∧ h = s.handle n then some (n, s)
  else (d.ownEffs x).findSome? (fun e => match e with
    | .trvopen m s => if h = s.handle m then some (m, s) else none
    | _ => none)
/-- Slots that uncommitted `trvput` instructions have reserved. -/
def Dev.putResv (d : Dev) (c n tgen : Nat) : List Nat :=
  (d.ctxEffs c).filterMap (fun e => match e with
    | .trvput m g slot _ _ _ => if m = n ∧ g = tgen then some slot else none
    | _ => none)
/-- Slots that uncommitted `trvtake` instructions have reserved at a stage. -/
def Dev.takenResv (d : Dev) (c n tgen k : Nat) : List Nat :=
  (d.ctxEffs c).filterMap (fun e => match e with
    | .trvtake m g j slot => if m = n ∧ g = tgen ∧ j = k then some slot else none
    | _ => none)
/-- The lowest free slot. -/
def Dev.freeTslot (d : Dev) (c n : Nat) (s : TSet) : Option Nat :=
  let used := s.slots.map Prod.fst ++ d.putResv c n s.tgen
  (List.range s.nslots).find? (fun k => !used.contains k)
/-- Free slots. -/
def Dev.freeTslots (d : Dev) (c n : Nat) (s : TSet) : Nat := s.nslots - s.slots.length - (d.putResv c n s.tgen).length

/-- A set whose records are gone closes and lets go of its pages (R459). -/
def Dev.settleSet (d : Dev) (c n : Nat) : Dev :=
  let s := (d.ctx c).tset n
  if s.st = .draining ∧ s.slots.isEmpty = true ∧ (d.putResv c n s.tgen).isEmpty = true then
    { (d.modTset c n (fun s => { s with st := .closed, locks := [] })) with unlocks := d.unlocks ++ s.locks }
  else d
/-- Every set of every context. -/
def Dev.settleSets (d : Dev) : Dev := d.ctxs.foldl (fun d k => k.2.sets.foldl (fun d s => d.settleSet k.1 s.1) d) d

/-! ### Routing (R460-R462) -/

/-- One step of the LFSR. -/
def lfsrStep (s : BitVec 32) : BitVec 32 := if s.getLsbD 0 then (s >>> 1) ^^^ 0x80200003#32 else s >>> 1
/-- The word 0 of a record that stands at a stage (R455). -/
def TRec.header (r : TRec) (stage : Nat) : Nat :=
  r.done % 2 ^ 8 + (if r.drop then 2 ^ 8 else 0) + r.len % 4 * 2 ^ 9 + stage % 8 * 2 ^ 16 + r.seq % 2 ^ 32 * 2 ^ 32
/-- Records queued, reserved and taken at a stage. -/
def Stage.depth (s : Stage) : Nat := s.fifo.length + s.taken.length
/-- Tickets of a stage (R461). -/
def Stage.tickets (s : Stage) : Nat := max 1 ((65536 - s.pass16) * 256 / (s.depth + 1))
/-- Stages of some kinds that have not passed a record. -/
def TSet.left (s : TSet) (r : TRec) (kinds : List Nat) : List Nat :=
  (List.range s.stages.length).filter (fun k => kinds.contains (s.stage k).kind && !r.done.testBit k)
/-- The SINK. -/
def TSet.sink (s : TSet) : Nat := ((List.range s.stages.length).find? (fun k => (s.stage k).kind == 3)).getD 0
/-- The candidate whose cumulative ticket range holds a pick. -/
def TSet.pickFrom (s : TSet) (pick : Nat) (l : List Nat) : Nat :=
  match l with
  | [] => 0
  | [k] => k
  | k :: r => if pick < (s.stage k).tickets then k else TSet.pickFrom s (pick - (s.stage k).tickets) r
/-- A draw among candidates, with the LFSR stepped (R461). -/
def TSet.draw (s : TSet) (cs : List Nat) : Nat × TSet :=
  let total := (cs.map (fun k => (s.stage k).tickets)).sum
  let next := lfsrStep s.lfsr
  (s.pickFrom (next.toNat * total / 2 ^ 32) cs, { s with lfsr := next })

/-- An event for the recorder: kind, source, value (19 R503). -/
abbrev Ev := Nat × Word × Vec
/-- Value of the event of a draw (R471): SEQ, the candidates as a mask, the chosen stage. -/
def drawValue (seq : Nat) (cs : List Nat) (k : Nat) : Vec :=
  vecOf [BitVec.ofNat 64 (seq % 2 ^ 32), BitVec.ofNat 64 ((cs.map (fun k => 2 ^ k)).sum), BitVec.ofNat 64 k]
/-- The fold of the next draw of a set that a thread's commits make, under replay. -/
def W.drawTold (w : W) (t : Thread) (source : Word) : Option Word :=
  if (w.d.ctx t.ctx).recd.armed && (w.d.ctx t.ctx).recd.mode == 2 then
    ((w.recorded t).find? (fun e => e.2.1 == 5 && e.2.2.1 == source)).map (fun e => e.2.2.2)
  else none

/-- A record routed by a commit of a thread (R460): header first, then the queue of the next stage, and a launch (R457). -/
def W.route (w : W) (t : Thread) (n slot : Nat) : W × List Ev :=
  let c := t.ctx
  let s := (w.d.ctx c).tset n
  match s.slots.look slot with
  | none => (w, [])
  | some r =>
    let src := BitVec.ofNat 64 (s.handle n)
    let cs := s.left r [0, 1]
    let go := fun (k : Nat) (s : TSet) (ev : List Ev) =>
      let w := w.pkgWrite c 0 (cellsAt (s.slotAt slot) (leBytes 8 (r.header k)))
      let s := s.modStage k (fun g => { g with
        fifo := g.fifo ++ [slot], launches := if g.template.isSome then g.launches ++ [slot] else g.launches })
      (({ w with d := w.d.modTset c n (fun _ => s) } : W), ev)
    if r.drop then go s.sink s []
    else
      match cs with
      | [] => go ((s.left r [2]).headD s.sink) s []
      | [k] => go k s []
      | _ =>
        let p := s.draw cs
        let told := w.drawTold t src
        let k := match told with
          | some f => (cs.find? (fun k => foldVec (drawValue r.seq cs k) == f)).getD p.1
          | none => p.1
        go k p.2 [(5, src, drawValue r.seq cs k)]

/-- A verdict counted at a stage; a full window sets the pass rates (R462). -/
def TSet.verdict (s : TSet) (k : Nat) (passed : Bool) : TSet :=
  let s := s.modStage k (fun g => { g with verdicts := g.verdicts + 1, passes := g.passes + (if passed then 1 else 0) })
  if s.verdicts + 1 = 2 ^ s.nwin then
    { s with verdicts := 0, stages := s.stages.map (fun g => { g with
        pass16 := if g.verdicts = 0 then g.pass16 else 65536 * g.passes / g.verdicts, verdicts := 0, passes := 0 }) }
  else { s with verdicts := s.verdicts + 1 }

/-! ### Instructions -/

/-- An instruction of format Q that may change more than the device: predicate and nulls, then its meaning. -/
def fireQW (i : Instr) (g : W → Firing → Thread → W) (w : W) : W :=
  match w.d.firing with
  | none => w
  | some c =>
    match w.d.thr c.x.thr with
    | none => w
    | some t =>
      if !c.ops.holds (prOf i) then { w with d := w.d.emit c {} }
      else if c.ops.anyNull then { w with d := w.d.emit c { toks := nullsTo i } }
      else g w c t

/-- What reading a record for a firing gives: bytes, or the work area where the instruction ends or waits. -/
def W.fireRead (w : W) (c : Firing) (t : Thread) (rnum x n : Nat) : Except W (List Byte × W) :=
  match w.readHome t.ctx rnum x n with
  | (.ok bs, w) => .ok (bs, w)
  | (.absent, w) => .error { w with d := w.pageFault c.iid x 0 }
  | (.waits, w) => .error w
  | (.ecc, w) => .error { w with d := w.d.holdAt c .dataEcc x 0 0 }
  | (.lost, w) => .error { w with d := w.d.holdAt c .linkLost x 0 0 }
  | (.noRegion, w) => .error { w with d := w.d.holdAt c .protection x 0 0 }

/-- The fields of a set descriptor (R456). -/
def W.badSet (w : W) (v : Vec) : Bool :=
  let base := (vlane v 0).toNat
  let l1 := vlane v 1
  let tab := (vlane v 2).toNat
  let n := bits l1 16 0
  base % 2 ^ 14 != 0 || decide (2 ^ 57 ≤ base) || !w.isLocal base || !w.isLocal (base + 256 * n - 1) ||
    !((List.range 13).any (fun k => n == 2 ^ (k + 4))) || bits l1 19 17 != 0 || decide (7 < bits l1 23 20) ||
    decide (bits l1 28 24 < 8) || decide (16 < bits l1 28 24) || bits l1 31 29 != 0 || tab % 64 != 0 || decide (2 ^ 57 ≤ tab) ||
    [3, 4, 5, 6, 7].any (fun k => vlane v k != 0#64)

/-- What reading one entry of a stage table gives: a stage, or none for an invalid one. -/
def W.stageEntry (w : W) (c : Firing) (t : Thread) (bs : List Byte) : Except W (Option Stage × W) :=
  let word := fun (k : Nat) => ofBytes ((bs.drop (8 * k)).take 8)
  let kind := word 0 % 4
  if word 0 / 8 ≠ 0 ∨ word 3 ≠ 0 then .ok (none, w)
  else if word 0 / 4 % 2 = 0 then
    .ok (if word 1 = 0 ∧ word 2 = 0 then some { kind := kind, template := none, queue := 0#64 } else none, w)
  else if word 1 % 64 ≠ 0 ∨ 2 ^ 57 ≤ word 1 then .ok (none, w)
  else
    match w.rightsAll t.first t.ctx 1 (word 1) 64 with
    | (false, w) => .error { w with d := w.d.holdAt c .protection (word 1) 0 0 }
    | (true, w) =>
      match w.fireRead c t (w.d.rnumOf t) (word 1) 64 with
      | .error w => .error w
      | .ok (ts, w) =>
        let v := vecOfBytes ts
        match (w.d.ctx t.ctx).kernelOf (vlane v 0) with
        | none => .ok (none, w)
        | some (_, x) =>
          if !x.usable || badLaunch v x.regs false then .ok (none, w)
          else .ok (some { kind := kind, template := some v, queue := BitVec.ofNat 64 (word 2) }, w)

/-- The stages of a table (R456), if it is valid. -/
def W.stageTable (w : W) (c : Firing) (t : Thread) (tab n : Nat) : Except W (Option (List Stage) × W) :=
  match w.fireRead c t (w.d.rnumOf t) tab (32 * n) with
  | .error w => .error w
  | .ok (bs, w) =>
    let r := (List.range n).foldl (fun (acc : Except W (Option (List Stage) × W)) k =>
      match acc with
      | .ok (some l, w) =>
        (match w.stageEntry c t ((bs.drop (32 * k)).take 32) with
          | .ok (some g, w) => .ok (some (l ++ [g]), w)
          | .ok (none, w) => .ok (none, w)
          | .error w => .error w)
      | r => r) (.ok (some [], w))
    match r with
    | .ok (some l, w) => .ok (if (l.filter (fun g => g.kind == 3)).length = 1 then some l else none, w)
    | r => r

/-- The lowest set number that is free or CLOSED, and that no uncommitted `trvopen` has reserved (R464). -/
def Dev.freeSet (d : Dev) (c : Nat) : Option Nat :=
  let held := (d.ctxEffs c).filterMap (fun e => match e with | .trvopen m _ => some m | _ => none)
  (List.range 16).find? (fun n =>
    (((d.ctx c).tset n).st == .free || ((d.ctx c).tset n).st == .closed) && !held.contains n)

/-- TRVOPEN (R464): its checks in order, then the locks of the record area. -/
def execTrvopen (f : FmtQ) (s : State) : Host.Outcome State Fault Refusal :=
  run (fireQW (.trvopen f) fun w c t =>
    let v := c.ops.va
    let base := (vlane v 0).toNat
    let l1 := vlane v 1
    let n := bits l1 16 0
    let count := bits l1 23 20 + 1
    let no := fun (w : W) (k : Nat) =>
      ({ w with d := w.d.answer c [] { toks := [(f.t0, .null), (f.t1, .val (splat64 (BitVec.ofNat 64 k)))] } } : W)
    if w.badSet v then no w 3
    else
      match w.rightsAll t.first t.ctx 2 base (256 * n) with
      | (false, w) => no w 5
      | (true, w) =>
      match w.rightsAll t.first t.ctx 2 (vlane v 2).toNat (32 * count) with
      | (false, w) => no w 5
      | (true, w) =>
      match w.stageTable c t (vlane v 2).toNat count with
      | .error w => w
      | .ok (none, w) => no w 3
      | .ok (some stages, w) =>
      match w.d.freeSet t.ctx with
      | none => no w 4
      | some num =>
      match w.checkPages t.first t.ctx 0 rW [(base, 256 * n)] with
      | (.fault q x, w) => { w with d := w.d.holdAt c q x 1 0 }
      | (.absent x, w) => { w with d := w.pageFault c.iid x 1 }
      | (.waits, w) => w
      | (.ok leaves, w) =>
        let seed := l1.extractLsb' 32 32
        let set : TSet := { st := .opened, tgen := (((w.d.ctx t.ctx).tset num).tgen + 1) % 2 ^ 32, base := base, nslots := n,
                            nwin := bits l1 28 24, lfsr := if seed = 0#32 then 1#32 else seed, stages := stages,
                            home := fieldOf t.first, gid := t.gid, locks := leaves }
        let h := BitVec.ofNat 64 (set.handle num)
        let w := w.lockAll leaves
        let out : Out := { toks := [(f.t0, .val (splat64 h)), (f.t1, .val (splat64 0#64))] }
        { w with d := w.d.answer c (.trvopen num set :: w.d.eventEffs t c 5 h (splat64 (set.lfsr.setWidth 64))) out }) s
/-- The commit of `trvopen` (R459). -/
def Dev.trvopenCommit (d : Dev) (c num : Nat) (s : TSet) : Dev := d.modTset c num (fun _ => s)

/-- TRVPUT (R465). -/
def execTrvput (f : FmtQ) (s : State) : Host.Outcome State Fault Refusal :=
  runR (fun w => (waitFire (.trvput f) f.limit (fun c _ => (0xE5, c.ops.b0))
    (fun w c t =>
      let st := fun (w : W) (k : Nat) => Test.sat { w with d := w.d.answer c [] (statusTo f k) }
      match w.d.tsetFor t.ctx c.x c.ops.b0.toNat with
      | none => st w 2
      | some (n, q) =>
        let head := c.ops.a0
        let len := bits head 10 9
        let rest := c.ops.c0.toNat
        if !q.accepts then st w 2
        else if bits head 63 11 ≠ 0 ∨ bits head 8 0 ≠ 0 ∨ (len ≠ 0 ∧ (c.ops.c.isNone = true ∨ rest % 64 ≠ 0 ∨ 2 ^ 57 ≤ rest)) then
          st w 3
        else
          let go := fun (w : W) =>
            match w.d.freeTslot t.ctx n q with
            | none => Test.wait
            | some slot =>
              if w.d.waitBefore c t (0xE5, c.ops.b0) then .wait
              else .sat { w with d := w.d.answer c [.trvput n q.tgen slot c.ops.va rest len] (statusTo f 0) }
          if len = 0 then go w
          else
            match w.check t rR rest (64 * len) 64 with
            | (.fault e, w) => .stop { w with d := w.d.holdAt c e rest 0 0 }
            | (.ok, w) =>
              match w.probe t rest, w.probe t (rest + 64 * len - 1) with
              | (.ok _ _, _), (.ok _ _, w) => go w
              | (.absent, w), _ => .stop { w with d := w.pageFault c.iid rest 0 }
              | _, (.absent, w) => .stop { w with d := w.pageFault c.iid (rest + 64 * len - 1) 0 }
              | _, _ => .notYet)
    (fun w c t =>
      if trapBit f then
        let fr := match w.d.tsetFor t.ctx c.x c.ops.b0.toNat with | some (n, q) => w.d.freeTslots t.ctx n q | none => 0
        w.timeout c .queueTimeout c.ops.b0 (fr * 2 ^ 16)
      else { w with d := w.d.answer c [] (statusTo f 1) }) w).d) s

/-- The commit of `trvput` (R465): a release at PACKAGE scope, then the record written and routed. A set that has been aborted
or discarded takes nothing (log 32). -/
def W.trvputCommit (w : W) (tid : Nat) (t : Thread) (n tgen slot : Nat) (v : Vec) (rest len : Nat) : W × List Ev :=
  let c := t.ctx
  let w := w.releaseNow tid c 2 t.grids
  let s := (w.d.ctx c).tset n
  if s.tgen ≠ tgen ∨ s.aborted = true ∨ s.st = .closed ∨ s.st = .free then (w, [])
  else
    let r := if len = 0 then ((.ok [] : Rd (List Byte)), w) else w.readHome c (w.d.rnumOf t) rest (64 * len)
    let bs := match r.1 with | .ok bs => bs | _ => []
    let w := r.2.pkgWrite c 0 (cellsAt (s.slotAt slot) (bytesOfVec v ++ bs))
    let put := fun (s : TSet) => { s with
      slots := s.slots.set slot ⟨s.seqNext, len, 0, false⟩, seqNext := (s.seqNext + 1) % 2 ^ 32,
      st := if s.st = .opened then .running else s.st }
    ({ w with d := w.d.modTset c n put } : W).route t n slot

/-- The info token of a record (R466). -/
def takeInfo (h addr slot k seq : Nat) : Tok :=
  .val (vecOf [0#64, BitVec.ofNat 64 h, BitVec.ofNat 64 addr,
    BitVec.ofNat 64 (slot % 2 ^ 16 + k % 8 * 2 ^ 16 + seq % 2 ^ 32 * 2 ^ 32)])
/-- The stage of `trvtake` and of `trvstat`. -/
def takeStage (f : FmtQ) : Nat := bits f.imm 3 1

/-- TRVTAKE (R466). -/
def execTrvtake (f : FmtQ) (s : State) : Host.Outcome State Fault Refusal :=
  run (waitFire (.trvtake f) f.limit (fun c _ => (0xE600 + takeStage f, c.ops.a0))
    (fun w c t =>
      let k := takeStage f
      let st := fun (w : W) (n : Nat) => Test.sat { w with d := w.d.answer c [] (noEntry f n) }
      if !w.d.isOldest c.x then .notYet
      else
        match w.d.tsetFor t.ctx c.x c.ops.a0.toNat with
        | none => st w 2
        | some (n, q) =>
          if q.st = .closed then st w 2
          else if q.stages.length ≤ k then st w 3
          else
            let held := w.d.takenResv t.ctx n q.tgen k
            let seqOf := fun (slot : Nat) => match q.slots.look slot with | some r => r.seq | none => 0
            let value := fun (slot : Nat) => removalValue (seqOf slot) (((w.readRec t.ctx (q.slotAt slot)).1).getD 0#512)
            match w.pick c.x.thr t 1 c.ops.a0 value ((q.stage k).fifo.filter (fun i => !held.contains i)) with
            | none => .wait
            | some slot =>
              if w.d.waitBefore c t (0xE600 + k, c.ops.a0) then .wait
              else
                let w := w.acquireFire c t 2
                match w.fireRead c t (w.d.rnumOf t) (q.slotAt slot) 64 with
                | .error w => .stop w
                | .ok (bs, w) =>
                  let v := vecOfBytes bs
                  let out : Out := { toks := [(f.t0, .val v), (f.t1, takeInfo c.ops.a0.toNat (q.slotAt slot) slot k (seqOf slot))] }
                  let es := .trvtake n q.tgen k slot :: w.d.eventEffs t c 1 c.ops.a0 (removalValue (seqOf slot) v)
                  .sat { w with d := w.d.answer c es out })
    (fun w c t =>
      let fr := match w.d.tsetFor t.ctx c.x c.ops.a0.toNat with | some (n, q) => w.d.freeTslots t.ctx n q | none => 0
      takeExpire f .queueTimeout c.ops.a0 (takeStage f + fr * 2 ^ 16) w c)) s

/-- The commit of `trvtake`: the record is taken, unless an abort has discarded it (R459). -/
def Dev.trvtakeCommit (d : Dev) (c n tgen k slot : Nat) : Dev :=
  let s := (d.ctx c).tset n
  if s.tgen = tgen ∧ (s.stage k).fifo.contains slot = true then
    d.modTset c n (fun s => s.modStage k (fun g => { g with fifo := g.fifo.erase slot, taken := g.taken ++ [slot] }))
  else d

/-- The record that an info token names, if it is taken, or reserved by the own thread, and has no verdict yet (R467, log 32):
number, set, slot, SEQ, stage. -/
def Dev.trvTaken (d : Dev) (c : Nat) (x : Inst) (info : Vec) : Option (Nat × TSet × Nat × Nat × Nat) :=
  let l3 := vlane info 3
  let slot := bits l3 15 0
  let k := bits l3 18 16
  let seq := bits l3 63 32
  match d.tsetFor c x (vlane info 1).toNat with
  | none => none
  | some (n, s) =>
    let own := (d.ownEffs x).any (fun e => match e with
      | .trvtake m g j i => m == n && g == s.tgen && j == k && i == slot
      | _ => false)
    let told := (d.ctxEffs c).any (fun e => match e with
      | .trvdone m g i q _ _ => m == n && g == s.tgen && i == slot && q == seq
      | _ => false)
    match s.slots.look slot with
    | none => none
    | some r =>
      if r.seq = seq ∧ k < s.stages.length ∧ ((s.stage k).taken.contains slot || (own && (s.stage k).fifo.contains slot)) = true ∧
          told = false then some (n, s, slot, seq, k)
      else none

/-- The verdict of a stage (R467). -/
def trvVerdict (f : FmtQ) (drop : Bool) (w : W) (c : Firing) (t : Thread) : Dev :=
  match w.d.trvTaken t.ctx c.x c.ops.va with
  | none => w.d.answer c [] (statusTo f 2)
  | some (n, s, slot, seq, k) =>
    if drop && (s.stage k).kind != 0 then
      w.d.holdAt c .traverseConfig 0 (vlane c.ops.va 1).toNat (vlane c.ops.va 3).toNat
    else w.d.answer c [.trvdone n s.tgen slot seq k drop] (statusTo f 0)
/-- TRVDONE.PASS (R467). -/
def execTrvdonePass (f : FmtQ) (s : State) : Host.Outcome State Fault Refusal :=
  runR (fireQ (.trvdonePass f) (trvVerdict f false)) s
/-- TRVDONE.DROP (R467). -/
def execTrvdoneDrop (f : FmtQ) (s : State) : Host.Outcome State Fault Refusal :=
  runR (fireQ (.trvdoneDrop f) (trvVerdict f true)) s

/-- The commit of `trvdone` (R467, R459): a release at PACKAGE scope, then the verdict. -/
def W.trvdoneCommit (w : W) (tid : Nat) (t : Thread) (n tgen slot seq k : Nat) (drop : Bool) : W × List Ev :=
  let c := t.ctx
  let w := w.releaseNow tid c 2 t.grids
  let s := (w.d.ctx c).tset n
  match s.slots.look slot with
  | none => (w, [])
  | some r =>
    if s.tgen ≠ tgen ∨ r.seq ≠ seq ∨ (s.stage k).taken.contains slot = false then (w, [])
    else
      let s := s.modStage k (fun g => { g with taken := g.taken.erase slot })
      let freed := fun (s : TSet) => ({ w with d := (w.d.modTset c n (fun _ => { s with slots := s.slots.erase slot })).settleSet c n } : W)
      if s.aborted then (freed s, [])
      else
        let r : TRec := if drop then { r with drop := true } else { r with done := r.done ||| 2 ^ k }
        let kind := (s.stage k).kind
        let s := if kind = 0 ∨ kind = 1 then s.verdict k (!drop) else s
        if kind = 3 then
          (freed { s with done := (s.done + 1) % 2 ^ 32, dropped := (s.dropped + if r.drop then 1 else 0) % 2 ^ 32 }, [])
        else ({ w with d := w.d.modTset c n (fun _ => { s with slots := s.slots.set slot r }) } : W).route t n slot

/-- `trvclose` (R468). -/
def trvClose (f : FmtQ) (abort : Bool) (w : W) (c : Firing) (t : Thread) : Dev :=
  match w.d.tsetFor t.ctx c.x c.ops.a0.toNat with
  | none => w.d.answer c [] (statusTo f 2)
  | some (n, s) =>
    if s.st = .closed then w.d.answer c [] (statusTo f 2)
    else w.d.answer c [.trvclose n s.tgen abort] (statusTo f 0)
/-- TRVCLOSE.DRAIN (R468). -/
def execTrvcloseDrain (f : FmtQ) (s : State) : Host.Outcome State Fault Refusal :=
  runR (fireQ (.trvcloseDrain f) (trvClose f false)) s
/-- TRVCLOSE.ABORT (R468). -/
def execTrvcloseAbort (f : FmtQ) (s : State) : Host.Outcome State Fault Refusal :=
  runR (fireQ (.trvcloseAbort f) (trvClose f true)) s

/-- The commit of `trvclose` (R459): an abort discards what is queued and withdraws the pending launches. -/
def Dev.trvcloseCommit (d : Dev) (c n tgen : Nat) (abort : Bool) : Dev :=
  let s := (d.ctx c).tset n
  if s.tgen ≠ tgen ∨ s.st = .closed ∨ s.st = .free then d
  else
    let s := { s with st := .draining }
    let s := if abort then
        let gone := s.stages.flatMap (fun g => g.fifo)
        { s with aborted := true, slots := s.slots.filter (fun (p : Nat × TRec) => !gone.contains p.1),
                 stages := s.stages.map (fun g => { g with fifo := [], launches := [] }) }
      else s
    (d.modTset c n (fun _ => s)).settleSet c n

/-- STATE as `trvstat` gives it. -/
def tstateCode (s : TState) : Nat := match s with | .free => 0 | .opened => 1 | .running => 2 | .draining => 3 | .closed => 4
/-- An item of `trvstat` (R469); a stage that the set does not have gives 0. -/
def TSet.item (s : TSet) (sub k : Nat) : Nat :=
  let g := s.stages[k]?
  match sub with
  | 0 => tstateCode s.st + s.stages.length % 16 * 2 ^ 8 + s.slots.length * 2 ^ 16
  | 1 => match g with | some g => g.pass16 | none => 0
  | 2 => match g with | some g => g.depth | none => 0
  | 3 => match g with | some g => g.tickets | none => 0
  | 4 => s.lfsr.toNat
  | _ => s.done + s.dropped * 2 ^ 32
/-- TRVSTAT (R469). -/
def execTrvstat (f : FmtQ) (s : State) : Host.Outcome State Fault Refusal :=
  runR (fireQ (.trvstat f) fun w c t =>
    let v := match w.d.tsetFor t.ctx c.x c.ops.a0.toNat with
      | some (_, q) => q.item f.sub.toNat (bits f.imm 2 0)
      | none => 0
    w.d.answer c [] (statusTo f v)) s

/-! ### Launches of the router (R457) -/

/-- The launch at the head of a stage, appended or withdrawn; none while its queue is full. -/
def W.stageLaunch (w : W) (c n k : Nat) : Option W :=
  let s := (w.d.ctx c).tset n
  let g := s.stage k
  match g.template, g.launches with
  | some v, slot :: rest =>
    let h := g.queue.toNat
    let took := fun (w : W) => ({ w with d := w.d.modTset c n (fun s => s.modStage k (fun g => { g with launches := rest })) } : W)
    (match (w.d.ctx c).insertStatus h 1 with
      | some _ => let w := took w
                  some { w with d := w.d.fwdError c }
      | none =>
        if w.d.queueFree c (h % 2 ^ 10) = 0 then none
        else
          let lane7 := BitVec.ofNat 64 (slot % 2 ^ 16 + k % 8 * 2 ^ 16)
          some ((took w).launchCommit c h (vecOf ((List.range 7).map (vlane v) ++ [lane7])) 0 s.gid))
  | _, _ => none
/-- STAGE_LAUNCH_APPEND (R457): of the pending launches of set `b` of context `a`, the first that need not wait. -/
def execStageLaunchAppend (s : State) : Host.Outcome State Fault Refusal :=
  run (fun w => ((List.range 8).findSome? (fun k => w.stageLaunch w.d.arg.a w.d.arg.b k)).getD w) s

end Sys2Proof.Machine
end

