-- ==== Sys2Proof/Machine/Commit.lean ====
section
/-!
DEFINITION. The commit of a block instance (02 R25-R30, 19 R494-R499, R503-R504): when it happens, what stands against it, and
what it performs, as one step for the thread; the expiry of a bounded wait (12 R356).
-/

namespace Sys2Proof.Machine

/-! ### When an instance commits (R25-R27) -/

/-- An atomic of the instance is still to be performed before its commit (08 R258). -/
def Inst.owesAtomic (x : Inst) (b : Block) : Bool :=
  x.effs.any (fun e => match amoOf e.2.2, b.instr e.2.1 with
    | some q, some i => q.early i
    | _, _ => false)
/-- Quiescent (R25): no token is on its way to it, no request of it is outstanding, and nothing in it is ready to fire. -/
def Dev.quiescent (d : Dev) (iid : Nat) (x : Inst) (b : Block) : Bool :=
  d.flight.all (fun f => f.iid != iid) &&
    d.remotes.all (fun r => match r.kind with | .access i _ => i != iid | _ => true) &&
    (d.grid x.grid).overflow.all (fun f => !f.isFor (d.ctxOf x) x) &&
    !x.owesAtomic b && b.slots.all (fun s => (d.awaits iid s.1).isNone)
/-- A context whose instances commit: RUNNING, or in the window of the gating protocol (10 R293), and no station pauses it
(19 R497). -/
def Ctx.commits (k : Ctx) : Bool := (k.st == .running || (k.st == .gating && k.gatePhase == 1)) && k.log.marking.isNone
/-- COMPLETE → COMMITTING (R27). -/
def Dev.commitReady (d : Dev) (iid : Nat) (x : Inst) (b : Block) : Bool :=
  (x.st == .firing || x.st == .complete) && !x.dying && x.pend.isNone && x.whole && !x.mispredicted && d.isOldest x &&
    !d.stopped x.grid && d.quiescent iid x b && (d.ctx (d.ctxOf x)).commits

/-! ### What the commit performs -/

/-- Order of the effects: LSIDs first, a set opened and records taken before what uses them, the rest by index. -/
def effPlace (e : Nat × Nat × Eff) : Nat :=
  match e.2.2 with
  | .trvopen _ _ => 32
  | .trvtake _ _ _ _ => 40 + e.2.1
  | _ => if e.1 < 32 then e.1 else 200 + e.1
/-- Effects in that order, each with its place. -/
def Inst.ordered (x : Inst) : List (Nat × Eff) :=
  (x.effs.isort (fun a b => decide (effPlace a ≤ effPlace b))).map (fun e => (effPlace e, e.2.2))
/-- Registers that an instance writes, with their values; a null leaves its register unchanged (R28). -/
def Inst.regWrites (x : Inst) (b : Block) : List (Nat × Vec) :=
  ((b.writes.take b.nwrite).zipIdx).filterMap (fun p => match x.wr.look p.2 with
    | some (.val v) => some (x.renamed (writeReg p.1), v)
    | _ => none)
/-- Bytes that `mst` steps write at the commit (07 R199), in index order. -/
def Inst.mstCells (x : Inst) : List Host.Cell := (x.msteps.isort (fun a b => decide (a.idx ≤ b.idx))).flatMap (fun m => m.out)
/-- The instance changed matrix state (19 R499 kind 6). -/
def Inst.changedMatrix (x : Inst) : Bool := !x.starts.isEmpty || x.msteps.any (fun m => !m.units.isEmpty || m.ctr.isSome)

/-- The scope of an effect that releases (09 R268, R277); 0 for none. -/
def Dev.effScope (d : Dev) (c : Nat) (e : Eff) : Nat :=
  match e with
  | .store _ rel => rel
  | .amo _ _ scope ord _ _ _ => if ord.getLsbD 1 then scope else 0
  | .fence _ scope => scope
  | .copy q => q.scope
  | .apubPublish _ scope => scope
  | .launch _ _ => 2
  | .qpush _ _ => 2
  | .mbsend _ _ _ => 2
  | .mcput _ _ _ => 2
  | .evsig _ _ => 2
  | .arrive n _ _ => ((d.ctx c).bar n).scope
  | .spawn _ _ _ => 2
  | .syncNext _ _ => 2
  | .fork _ _ _ _ _ _ _ => 2
  | .trvput _ _ _ _ _ _ => 2
  | .trvdone _ _ _ _ _ _ => 2
  | .acoll _ _ _ _ _ => 3
  | .fresume _ _ _ => 2
  | .station _ => 2
  | _ => 0
/-- An effect that sends a message, for the cut record (19 R493). -/
def effSends (e : Eff) : Bool :=
  match e with
  | .launch _ _ => true
  | .qpush _ _ => true
  | .mbsend _ _ _ => true
  | .mcput _ _ _ => true
  | .copy _ => true
  | .ldfwd _ _ => true
  | .acoll _ _ _ _ _ => true
  | .fork _ _ _ _ _ _ _ => true
  | _ => false
/-- An effect that receives one. -/
def effReceives (e : Eff) : Bool :=
  match e with
  | .qpop _ _ => true
  | .mbrecv _ _ => true
  | .mctake _ _ _ => true
  | _ => false

/-- The buffers of a thread flushed, and the tails that this advances published (08 R240, R242). -/
def W.flushPublished (w : W) (tid : Nat) (t : Thread) : W :=
  let w := w.flushStreams tid
  t.streams.foldl (fun (w : W) s =>
    if s.2.buffer.isEmpty then w
    else match w.d.thr tid with
      | some u => w.evictBehind t.ctx s.2 (u.stream s.1)
      | none => w) w
/-- A release of a thread at a scope before its own write: coalescing buffers (08 R240), then 09 R268. -/
def W.relFirst (w : W) (tid : Nat) (t : Thread) (scope : Nat) : W :=
  if scope = 0 then w
  else
    let w := if 2 ≤ scope then w.flushPublished tid t else w
    w.releaseNow tid t.ctx scope t.grids
/-- A release that is performed after the commit (09 R268): the thread goes on. -/
def W.relLater (w : W) (tid : Nat) (t : Thread) (scope : Nat) : W :=
  if scope = 0 then w
  else
    let w := if 2 ≤ scope then w.flushPublished tid t else w
    let n := w.d.newId
    { w with d := { n.2 with rels := n.2.rels ++ [⟨t.ctx, tid, scope, t.grids, n.1⟩] } }
/-- Bytes of committed stores: in the L1s; while the context logs they go on to their homes, where they have been logged (log 40). -/
def W.putCells (w : W) (t : Thread) (rnum : Nat) (cs : List Host.Cell) : W :=
  let w := w.storeCells t rnum cs
  if (w.d.ctx t.ctx).logging then
    let ls := linesOf cs
    w.writeBackAll t.grids (fun l => ls.contains l.line)
  else w

/-! #### Streams (08 R236-R242) -/

/-- Lowest and highest byte of a stream of a thread that stands in memory: addresses, or keys of a scratchpad. -/
def Dev.streamEnds (d : Dev) (t : Thread) (c : StreamCfg) : Option (Int × Int) :=
  if c.space = .port then none
  else
    match c.spans with
    | none => none
    | some sp =>
      let e := spanEnds sp
      if c.space = .scratch then
        (d.spKeyAt t e.1.toNat (e.2 - e.1 + 1).toNat).map (fun (k : Nat) => ((k : Int), (k : Int) + (e.2 - e.1)))
      else some e
/-- OPEN write streams of a context whose ranges overlap the range of a configuration (R238): thread and stream. -/
def Dev.overlapped (d : Dev) (t : Thread) (cfg : StreamCfg) : List (Nat × Nat) :=
  match d.streamEnds t cfg with
  | none => []
  | some e =>
    (d.ctxThreads t.ctx).flatMap (fun p => (p.2.streams.filter (fun q =>
      q.2.isOpen && q.2.cfg.write && q.2.cfg.space == cfg.space &&
        (match d.streamEnds p.2 q.2.cfg with | some f => decide (f.1 ≤ e.2) && decide (e.1 ≤ f.2) | none => false))).map (fun q => (p.1, q.1)))
/-- The commit of `scfg` (R237-R238): the stream opens at position 0; a write stream over ranges of others opens when their tokens
have returned. -/
def W.scfgCommit (w : W) (tid : Nat) (t : Thread) (x : Inst) (s : Nat) (cfg : StreamCfg) (frames : List (Nat × Nat)) : W :=
  let old := if cfg.write then w.d.overlapped t cfg else []
  let st : Stream := { isOpen := old.isEmpty, cfg := cfg, latches := frames.map (fun p => (p.1, p.2, false)),
                       buffer := (t.stream s).buffer,
                       configuring := if old.isEmpty then none else some x.seq }
  let d := w.d.modStream tid s (fun _ => st)
  { w with d := { d with handovers := d.handovers ++ old.map (fun p => (⟨p.1, p.2, tid, s⟩ : Handover)) } }
/-- The commit of `sread` (R239): the position advances. -/
def W.sreadCommit (w : W) (tid : Nat) (t : Thread) (s n : Nat) : W :=
  let before := t.stream s
  let w := { w with d := w.d.modStream tid s (fun q => { q with pos := q.pos + n }) }
  w.evictBehind t.ctx before { before with pos := before.pos + n }
/-- Bytes of the next elements of a write stream, by address. -/
def Stream.cells (st : Stream) (ty : BitVec 4) (v : Vec) : List Host.Cell :=
  let n := elBytes ty
  let k := st.cfg.take st.pos (laneCount ty)
  (List.range k).flatMap (fun i => cellsAt (st.cfg.addr (st.pos + i)) (leBytes n ((lanes (8 * n) v).getD i 0)))
/-- The commit of `swrite` (R240): elements enter the coalescing buffer, a full span of 256 bytes leaves it; a scratchpad stream
writes its M-nodes. -/
def W.swriteCommit (w : W) (tid : Nat) (t : Thread) (x : Inst) (s : Nat) (ty : BitVec 4) (v : Vec) : W :=
  let st := t.stream s
  if !st.isOpen then w
  else
    let n := elBytes ty
    let cs := st.cells ty v
    let step := fun (q : Stream) => { q with pos := q.pos + cs.length / n }
    if st.cfg.space = .scratch then
      let put := fun (w : W) (i : Nat) =>
        match w.d.spAddr t (st.cfg.addr (st.pos + i)) n with
        | some (g, k) => w.scratchWrite t.ctx x.seq t.who g (cellsAt k (((cs.drop (n * i)).take n).map Prod.snd))
        | none => w
      let w := (List.range (cs.length / n)).foldl put w
      { w with d := w.d.modStream tid s step }
    else
      let keep := fun (b : Host.Cell) => (cellAt cs b.1).isNone
      let w := { w with d := w.d.modStream tid s (fun q => { step q with buffer := q.buffer.filter keep ++ cs }) }
      let buf := match w.d.thr tid with | some u => (u.stream s).buffer | none => []
      let spans := ((cs.map (fun b => b.1 / 256)).eraseDups).filter (fun k => (buf.filter (fun b => b.1 / 256 == k)).length == 256)
      let w := if spans.isEmpty then w else w.flushBytes tid s (fun b => spans.contains (b.1 / 256))
      match w.d.thr tid with
      | some u => w.evictBehind t.ctx st (u.stream s)
      | none => w
/-- The commit of `sclose` (R241). -/
def W.scloseCommit (w : W) (tid : Nat) (t : Thread) (s : Nat) : W :=
  let st := t.stream s
  if !st.isOpen then w
  else
    let w := w.flushStream tid s
    let w := w.evictBehind t.ctx st { st with pos := st.cfg.total, buffer := [] }
    { w with d := w.d.closeStream tid s }

/-! #### Cache control (08 R246) -/

/-- The commit of `cwb` and `cinv`. -/
def W.cacheCommit (w : W) (t : Thread) (inval : Bool) (scope base len : Nat) : W :=
  let hit := fun (line : Nat) => decide (base < 32 * line + 32) && decide (32 * line < base + len)
  let drop := fun (d : Dev) => t.grids.foldl (fun (d : Dev) g => d.modGrid g (fun gr =>
    { gr with l1 := gr.l1.filter (fun l => !(hit l.line && l.owned == 0#32)) })) d
  if scope < 2 then (if inval then { w with d := drop w.d } else w)
  else
    let w := t.grids.foldl (fun (w : W) g => w.performRels g) w
    let w := w.writeBackAll t.grids (fun l => hit l.line)
    let w := if 3 ≤ scope then w.l2Flush t.ctx (decide (4 ≤ scope)) hit else w
    if !inval then w
    else
      let d := drop w.d
      let far := fun (l : L2Line) => hit l.line && l.dirty == 0#32 &&
        ((decide (3 ≤ scope) && w.isRemote (32 * l.line)) || (decide (4 ≤ scope) && w.isHost (32 * l.line)))
      { w with d := { d with l2 := d.l2.filter (fun l => !far l) } }

/-! #### Special registers (05 R142-R144) -/

/-- The commit of `setsr`, but for `undo`, which takes effect after everything the commit logs. -/
def Dev.setsrCommit (d : Dev) (tid : Nat) (t : Thread) (num : Nat) (v : Word) : Dev :=
  match num with
  | 0x08 => d.modThr tid (fun th => { th with flags := v &&& 0x3F#64 })
  | 0x0B => d.modThr tid (fun th => { th with prng := if v = 0#64 then 1#64 else v })
  | 0x0C => d.modCtx t.ctx (fun k => { k with wdog := max (2 ^ 10) (min (2 ^ 30) v.toNat) })
  | _ => d

/-! #### Undo-log entries (19 R495, R499) -/

/-- Entries of an effect that the commit writes before it performs it, and those that its own operation writes. -/
def W.effEnts (w : W) (t : Thread) (x : Inst) (seq : Nat) (e : Eff) : List (Nat × LogEnt) × List (Nat × LogEnt) :=
  let c := t.ctx
  let who := t.who
  let rnum := w.d.rnumOf t
  let line := fun (cs : List Host.Cell) => w.lineEnts c rnum seq who cs
  let monument := fun (kind addr : Nat) => [(t.seg, LogEnt.monument kind (w.d.ctx c).log.station addr seq w.d.now)]
  let frame := fun (a : Nat) => line (cellsAt a [0#8, 0#8, 0#8, 0#8])
  match e with
  | .store bs _ => (line bs ++ w.monuments c t seq bs, [])
  | .spStore g bs =>
    (if g = x.grid then (linesOf bs).map (fun l =>
      (128 + g, LogEnt.scratch (cellMask (cellsIn l bs)) (32 * l) seq who (packLine (w.rds (32 * l) 32)))) else [], [])
  | .amo op ty scope ord addr b k =>
    match amoOf (.amo op ty scope ord addr b k) with
    | some q =>
      let cs := cellsAt addr (List.replicate (elBytes ty) 0#8)
      if q.scope < 2 then (line cs ++ w.monuments c t seq cs, []) else (w.monuments c t seq cs, line cs)
    | none => ([], [])
  | .sread s _ => (t.streamEnt s seq who, [])
  | .swrite s ty v => (t.streamEnt s seq who ++ w.monuments c t seq ((t.stream s).cells ty v), line ((t.stream s).cells ty v))
  | .copy q =>
    ((if q.tagen then w.d.tagEnt c q.ctag seq who else []) ++
      (if q.dspace = .global then (match w.monumentOf q.dst with | some k => monument k q.dst | none => []) else []), [])
  | .launch q _ => (w.d.queueEnt c q seq who, [])
  | .qpush q _ => (w.d.queueEnt c q seq who, [])
  | .qpop q _ => (w.d.queueEnt c q seq who, [])
  | .mcput q _ _ => (w.d.queueEnt c q seq who, [])
  | .mctake q _ _ => (w.d.queueEnt c q seq who, [])
  | .fork _ _ _ _ _ q _ => (w.d.queueEnt c q seq who, [])
  | .mbrecv p s => (t.mailEnt p s seq who, [])
  | .evsig th _ => (match w.d.memberOf c t.gid th with | some (_, u) => u.latchEnt u.latches seq who | none => [], [])
  | .evwait m => (t.latchEnt (t.latches ||| m) seq who, [])
  | .spawn _ a _ => (t.dequeEnt seq who, frame a)
  | .syncNext a r =>
    (match r with
      | some (v, _) => (match w.d.thr v with | some u => u.dequeEnt seq who | none => [])
      | none => [], if a = 0 then [] else frame a)
  | .binitAlloc n _ => (w.d.barEnt c n seq who, [])
  | .binitFree n _ => (w.d.barEnt c n seq who, [])
  | .arrive n _ _ => (w.d.barEnt c n seq who, [])
  | .acoll v _ _ _ _ => (monument 3 (vlane v 0).toNat, [])
  | .trvput n _ _ _ _ _ => (monument 7 n, [])
  | .trvtake n _ _ _ => (monument 7 n, [])
  | .trvdone n _ _ _ _ _ => (monument 7 n, [])
  | .trvclose n _ _ => (monument 7 n, [])
  | _ => ([], [])
/-- Register entries and the other entries of the end of a commit. -/
def W.endEnts (w : W) (t : Thread) (x : Inst) (b : Block) (lines : Nat) : List (Nat × LogEnt) :=
  let regs := (x.regWrites b).map (fun p => (t.seg, LogEnt.reg p.1 x.seq t.who (t.regs.get p.1 0#512)))
  let station := (w.d.ctx t.ctx).log.station
  (if x.changedMatrix then [(t.seg, LogEnt.monument 6 station 0 x.seq w.d.now)] else []) ++ regs ++
    [(t.seg, .commit x.blk x.seq w.d.now t.flags t.prng t.who regs.length lines x.preTag x.preDepth x.preLoops)]
/-- Entries of the bytes of `mst`. -/
def W.mstEnts (w : W) (t : Thread) (x : Inst) : List (Nat × LogEnt) :=
  w.lineEnts t.ctx (w.d.rnumOf t) x.seq t.who x.mstCells ++ w.monuments t.ctx t x.seq x.mstCells
/-- Everything a commit will log: the gate asks for its room (R498). -/
def W.commitEnts (w : W) (t : Thread) (x : Inst) (b : Block) : List (Nat × LogEnt) :=
  let l := x.ordered.flatMap (fun e => let r := w.effEnts t x x.seq e.2; r.1 ++ r.2) ++ w.mstEnts t x
  l ++ w.endEnts t x b 0
/-- How many of them are line entries. -/
def lineCount (l : List (Nat × LogEnt)) : Nat :=
  (l.filter (fun e => match e.2 with | .line _ _ _ _ _ _ => true | .scratch _ _ _ _ _ => true | _ => false)).length

/-! #### Events (19 R503-R504) -/

/-- Events of a commit, in the order of its effects: kind, source, value. A barrier arrival shows the phase and its place in it
(log 41). -/
def Dev.commitEvents (d : Dev) (c : Nat) (x : Inst) : List Ev :=
  if !d.recording c then []
  else
    (x.ordered.foldl (fun (acc : Dev × List Ev) e =>
      match e.2 with
      | .event k s v => (acc.1, acc.2 ++ [(k, s, v)])
      | .arrive n g drop =>
        let b := (acc.1.ctx c).bar n
        (acc.1.arriveCommit c n g drop,
          acc.2 ++ [(4, BitVec.ofNat 64 (barHandle n g), vecOf [BitVec.ofNat 64 b.phase, BitVec.ofNat 64 b.arrivals])])
      | _ => acc) (d, [])).2
/-- The fault of a divergence (R504). -/
def divergence (ordinal ekind : Nat) (efold : Word) (okind : Nat) (ofold : Word) : Pend :=
  { cause := .replayDiverged, w2 := efold, w3 := ofold,
    w4 := BitVec.ofNat 64 (ordinal % 2 ^ 40 + ekind % 2 ^ 8 * 2 ^ 40 + okind % 2 ^ 8 * 2 ^ 48) }
/-- The first event that differs from the recording, under replay. -/
def W.diverges (w : W) (t : Thread) (ordinal : Nat) : List Ev → Option Pend
  | [] => none
  | (k, s, v) :: rest =>
    let r := (w.d.ctx t.ctx).recd
    if !(r.armed && r.mode == 2) then none
    else
      match (w.recorded t).find? (fun e => e.1 == ordinal) with
      | none => some (divergence ordinal 0 0#64 k (foldVec v))
      | some (_, ek, es, ef) =>
        if ek = k ∧ es = s ∧ ef = foldVec v then W.diverges w t (ordinal + 1) rest else some (divergence ordinal ek ef k (foldVec v))
/-- One event written (mode 1), or passed (mode 2); a full buffer ends the recording. -/
def W.noteEvent (w : W) (tid : Nat) (e : Ev) : W :=
  match w.d.thr tid with
  | none => w
  | some t =>
    let c := t.ctx
    let r := (w.d.ctx c).recd
    let next := fun (w : W) => ({ w with d := w.d.modThr tid (fun th => { th with ordinal := th.ordinal + 1 }) } : W)
    if !r.armed then w
    else if r.mode = 1 then
      if r.len < r.pos + 32 then
        { w with d := w.d.modCtx c (fun k => { k with recd := { r with truncated := true, armed := false } }) }
      else
        let bs := leBytes 8 (w.d.eventHead t e.1) ++ leBytes 8 (t.ordinal % 2 ^ 40) ++ leBytes 8 e.2.1.toNat ++ leBytes 8 (foldVec e.2.2).toNat
        let w := w.pkgWrite c 0 (cellsAt (r.base + r.pos) bs)
        next { w with d := w.d.modCtx c (fun k => { k with recd := { r with pos := r.pos + 32 } }) }
    else if r.mode = 2 then next w
    else w

/-! #### One effect -/

/-- An effect performed; draws of a router are events of their own. -/
def W.perform (w : W) (tid : Nat) (x : Inst) (e : Eff) : W × List Ev :=
  match w.d.thr tid with
  | none => (w, [])
  | some t =>
    let c := t.ctx
    let rnum := w.d.rnumOf t
    let grid := x.grid
    let log := (w.d.ctx c).logging
    let first := fun (w : W) => w.relFirst tid t (w.d.effScope c e)
    let only := fun (w : W) => (w, ([] : List Ev))
    let onD := fun (w : W) (d : Dev) => (({ w with d := d } : W), ([] : List Ev))
    match e with
    | .store bs rel =>
      if log then only ((first w).putCells t rnum bs) else only ((w.putCells t rnum bs).relLater tid t rel)
    | .spStore g bs =>
      if g = grid then
        let mine := w.d.spStores.filter (fun s => s.thr == tid && s.grid == g)
        let w := mine.foldl (fun (w : W) s => W.scratchWrite { w with d := { w.d with spStores := w.d.spStores.erase s } } c s.seq t.who g s.bytes) w
        only (w.wrs bs)
      else onD w { w.d with spStores := w.d.spStores ++ [⟨c, tid, g, bs, x.seq⟩] }
    | .amo op ty scope ord addr b k =>
      (match amoOf (.amo op ty scope ord addr b k) with
      | none => only w
      | some q =>
        let w := first w
        match w.amoPeek tid t rnum q (fun _ => none) with
        | (.ok (_, new, fl), w) =>
          let cs := cellsAt addr (leBytes (elBytes ty) new)
          let w := w.amoPut t rnum q x.seq cs
          let w := if q.scope < 2 && log then w.writeBackAll [t.accessGrid addr] (fun m => m.line == lineOf addr) else w
          onD w (w.d.modThr tid (fun th => { th with flags := th.flags ||| fl.setWidth 64 }))
        | (_, w) => only w)
    | .amoDone scope ord => only (w.relLater tid t (if ord.getLsbD 1 then scope else 0))
    | .scfg s cfg frames => only (w.scfgCommit tid t x s cfg frames)
    | .sread s n => only (w.sreadCommit tid t s n)
    | .swrite s ty v => only (w.swriteCommit tid t x s ty v)
    | .sclose s => only (w.scloseCommit tid t s)
    | .ldfwd addr dest => only (w.ldfwdCommit tid t x.seq addr dest)
    | .fence _ scope => only (w.relLater tid t scope)
    | .cwb scope base len => only (w.cacheCommit t false scope base len)
    | .cinv scope base len => only (w.cacheCommit t true scope base len)
    | .copy q => only ((first w).copyCommit tid t grid x.seq q)
    | .ashadow h base len frames => onD w (w.d.ashadowCommit c h base len frames)
    | .apubPublish h scope => only ((first w).apubCommit tid t h scope)
    | .apubDiscard h => onD w (w.d.discardCommit c h)
    | .setsr num v => onD w (w.d.setsrCommit tid t num v)
    | .compose _ _ _ => only w
    | .launch q rcd => only ((first w).launchCommit c q rcd rnum t.gid)
    | .qpush q v => only ((first w).qpushCommit c q v)
    | .qpop q i => onD w (w.d.qpopCommit c q i)
    | .mbsend th p v => only ((first w).mbsendCommit th p v t.tnum)
    | .mbrecv p s => onD w (w.d.mbrecvCommit tid p s)
    | .mcput q mask v => only ((first w).mcputCommit c q mask v)
    | .mctake q i m => onD w (w.d.mctakeCommit c q i m)
    | .spawn cont frame tag => only ((first w).spawnCommit tid t x.seq cont frame tag)
    | .syncNext frame r => only ((first w).syncNextCommit tid t x.seq frame r)
    | .evsig th latch => let w := first w; onD w (w.d.setLatch c t.gid (16 * th + latch))
    | .evwait _ => only w
    | .binitAlloc n cfg => onD w (w.d.barAlloc c n cfg)
    | .binitFree n g => onD w (w.d.barFreeCommit c n g)
    | .arrive n g drop => let w := first w; onD w (w.d.arriveCommit c n g drop)
    | .fork rn rid dn drid fs q rcd => only ((first w).forkCommit tid t rn rid dn drid fs q rcd)
    | .join rn => let w := w.joinCommit tid t x.seq x.seq rn; onD w (w.d.acquireFlush x)
    | .regionDecl n v => onD w (w.d.regionCommit c n (some v))
    | .regionDrop n => onD w (w.d.regionCommit c n none)
    | .trvopen n s => onD w (w.d.trvopenCommit c n s)
    | .trvput n g slot v rest len => (first w).trvputCommit tid t n g slot v rest len
    | .trvtake n g k slot => onD w (w.d.trvtakeCommit c n g k slot)
    | .trvdone n g slot seq k drop => (first w).trvdoneCommit tid t n g slot seq k drop
    | .trvclose n g abort => onD w (w.d.trvcloseCommit c n g abort)
    | .fresume h action target => only ((first w).fresumeCommit tid t h action target)
    | .pgadvise sub base len => only (w.adviseCommit c (fieldOf t.first) sub base len)
    | .acoll v m kind rop typ => only ((first w).acollCommit tid t x.seq v m kind rop typ)
    | .station n => let w := first w; onD w (w.d.modCtx c (fun k => { k with log := { k.log with marking := some n } }))
    | .dmark mark v => only (w.dmarkCommit t mark v)
    | .brkp _ => only w
    | .hint _ => only w
    | .trap _ _ => only w
    | .yield => onD w (t.slots.foldl (fun (d : Dev) s => d.modGrid s.1 (fun gr =>
        { gr with slots := gr.slots.set s.2 { gr.slots.get s.2 {} with waitSince := d.cycle } })) w.d)
    | .event _ _ _ => only w
/-- An effect logged, performed and counted; its draws are recorded after it. -/
def W.performLogged (w : W) (tid : Nat) (x : Inst) (e : Eff) : W :=
  match w.d.thr tid with
  | none => w
  | some t =>
    let w := if (w.d.ctx t.ctx).logging then w.logWrite t.ctx (w.effEnts t x x.seq e).1 else w
    let r := w.perform tid x e
    let count := fun (gr : Grid) => { gr with sent := gr.sent + (if effSends e then 1 else 0), received := gr.received + (if effReceives e then 1 else 0) }
    let w := { r.1 with d := r.1.d.modGrid x.grid count }
    r.2.foldl (fun (w : W) v => w.noteEvent tid v) w

/-! ### What stands against a commit -/

/-- What a commit finds before it performs anything. -/
inductive Bar where
  | ok
  | wait
  | stop (w : W)

/-- A read that a commit depends on. -/
def W.commitRead {α : Type} (w : W) (iid : Nat) (r : Rd α) (addr write : Nat) : Bar :=
  let fault := fun (c : Cause) => Bar.stop { w with d := w.d.hold iid { cause := c, w2 := BitVec.ofNat 64 addr, w3 := BitVec.ofNat 64 write } }
  match r with
  | .ok _ => .ok
  | .waits => .wait
  | .absent => .stop { w with d := w.pageFault iid addr write }
  | .ecc => fault .dataEcc
  | .lost => fault .linkLost
  | .noRegion => fault .protection
/-- What an atomic performed at the commit finds (08 R258): its line, a release of the thread that waits (09 R268), or a load of its
own instance that has read a byte with another value than it leaves (09 R266): the instance is fetched again, unless it holds a
performed atomic (log 84). -/
def W.commitAmo (w : W) (iid : Nat) (x : Inst) (t : Thread) (rnum l : Nat) (q : AmoReq) : Bar :=
  if decide (2 ≤ q.scope) && w.relPending x.thr (if q.ord.getLsbD 1 then q.scope else 2) t.grids then .wait
  else
    match (w.amoPeek x.thr t rnum q (storeByte x l none)).1 with
    | .ok r =>
      if x.atomics = 0 && x.misread l (cellsAt q.addr (leBytes (elBytes q.ty) r.2.1)) then .stop { w with d := w.d.flushFrom x.thr x.seq }
      else .ok
    | r => w.commitRead iid r q.addr 1
/-- Elements of a scratchpad that a `swrite` will write. -/
def Dev.swriteKeys (d : Dev) (t : Thread) (s : Nat) (ty : BitVec 4) : List Nat :=
  let st := t.stream s
  if st.isOpen && st.cfg.space == .scratch then d.spKeys t st.cfg st.pos (st.cfg.take st.pos (laneCount ty)) (elBytes ty) else []
/-- A copy that has been issued and has not retired holds n bytes at a key (08 R251). -/
def Dev.copyHolds (d : Dev) (key n : Nat) : Bool := d.copies.any (fun c => c.d.covers key n)
/-- What an effect finds: TILE_LIVE (02 R44), the line of an atomic, a copy that holds bytes of the scratchpad (08 R251), a release
that has to wait before the write that it orders (09 R268; DEDUCED for a publication, an arrival and a collective, log 95), a
frame, the rest of a record. -/
def W.effBar (w : W) (iid : Nat) (x : Inst) (t : Thread) (l : Nat) (e : Eff) : Bar :=
  let rnum := w.d.rnumOf t
  let scope := w.d.effScope t.ctx e
  match e with
  | .compose first width _ =>
    (match t.tileLost (setGrids first width) with
    | some tile => .stop { w with d := w.d.hold iid { cause := .tileLive, w3 := BitVec.ofNat 64 tile } }
    | none => .ok)
  | .spStore _ bs => if bs.any (fun b => w.d.copyHolds b.1 1) then .wait else .ok
  | .swrite s ty _ => if (w.d.swriteKeys t s ty).any (fun k => w.d.copyHolds k (elBytes ty)) then .wait else .ok
  | .apubPublish _ _ => if w.relWaits scope t.grids then .wait else .ok
  | .arrive _ _ _ => if w.relWaits scope t.grids then .wait else .ok
  | .acoll _ _ _ _ _ => if w.relWaits scope t.grids then .wait else .ok
  | .amo op ty scope ord addr b k =>
    (match amoOf (.amo op ty scope ord addr b k) with
    | none => .ok
    | some q => w.commitAmo iid x t rnum l q)
  | .spawn _ a _ => w.commitRead iid (w.frameCount t.ctx rnum a).1 a 1
  | .syncNext a _ => if a = 0 then .ok else w.commitRead iid (w.frameCount t.ctx rnum a).1 a 1
  | .trvput _ _ _ _ rest len => if len = 0 then .ok else w.commitRead iid (w.readHome t.ctx rnum rest (64 * len)).1 rest 0
  | _ => .ok
/-- The first thing that stands against the effects of an instance. -/
def W.effBars (w : W) (iid : Nat) (x : Inst) (t : Thread) : List (Nat × Eff) → Bar
  | [] => .ok
  | e :: r =>
    match w.effBar iid x t e.1 e.2 with
    | .ok => W.effBars w iid x t r
    | q => q

/-! ### After the effects -/

/-- The instance leaves (R27): its plane, if it is a normal block's; what was retained for it; tokens it has sent on stand now. A
resident loop that it leaves takes its placement along (R47). -/
def Dev.retire (d : Dev) (iid : Nat) (x : Inst) (c : Nat) : Dev :=
  let done := fun (f : FarTok) => if f.producer == some iid then { f with producer := none } else f
  let d : Dev := { d with retained := (d.retained.filter (fun f => !f.isFor c x)).map done,
                          grids := d.grids.map (fun g => (g.1, { g.2 with overflow := g.2.overflow.map done })),
                          insts := d.insts.erase iid }
  let leaves := x.resident && (match x.exit with | some e => e.opcode != 0x35 | none => false)
  let mark := fun (p : Nat × Plane) =>
    if p.2.placement = x.placement then
      (p.1, { p.2 with commitAt := some (p.2.commitAt.getD d.cycle), leaveAt := if leaves then some x.exitAt else p.2.leaveAt })
    else p
  let d := d.modGrid x.grid (fun gr => { gr with
    planes := gr.planes.map mark, commits := gr.commits + 1, blockCommits := gr.blockCommits + 1 })
  let fieldNo := match x.code with | some b => b.tagField | none => 0
  (if leaves then d.dropPlacement x.thr x.grid x.placement fieldNo x.tag.toNat else d).gcPlanes x.grid

/-- An address matches under a comparator's mask. -/
def Comparator.hits (m : Comparator) (a : Nat) : Bool := (a &&& m.mask) == (m.addr &&& m.mask)
/-- An armed comparator matches an instance (19 R492). -/
def Comparator.matches (m : Comparator) (x : Inst) : Bool :=
  match m.kind with
  | 0 => false
  | 1 => m.hits x.blk
  | 2 => x.accs.any (fun a => !a.isStore && a.scratch.isNone && a.bytes.any (fun b => m.hits b.1))
  | _ => x.accs.any (fun a => a.isStore && a.scratch.isNone && a.bytes.any (fun b => m.hits b.1)) || x.mstCells.any (fun b => m.hits b.1)
/-- Debug stops of a committed instance (19 R492-R493, 05 R153): `brkp` first, then the comparators in order. The thread's slot
records BREAKPOINT unless it has ended or stopped otherwise. -/
def W.debugStop (w : W) (tid c : Nat) (x : Inst) : W :=
  let k := w.d.ctx c
  let m := (List.range 4).find? (fun n => (k.comps.get n {}).matches x)
  let b := if (k.cfg.headD 0#64).getLsbD 11 then x.brkp else none
  let w3 := match b, m with
    | some n, _ => some n
    | none, some n => some (2 ^ 18 + n * 2 ^ 16)
    | none, none => none
  match w3 with
  | none => w
  | some v =>
    let gang := m.any (fun n => (k.comps.get n {}).gang)
    let next := match x.exit with | some e => e.target | none => none
    let d := if gang then w.d.gangStop c else w.d.stopGrid x.grid false
    match d.thr tid with
    | some t =>
      if t.ended || t.rcd.isSome || next.isNone then { w with d := d }
      else
        let d := (d.flushFrom tid (x.seq + 1)).modThr tid (fun th => { th with next := none })
        W.threadFault { w with d := d } tid
          { cause := .breakpoint, w2 := BitVec.ofNat 64 (next.getD 0), w3 := BitVec.ofNat 64 v } x.blk x.atomics
    | none => { w with d := d }

/-- The exit of a committed instance (05 R149-R151): `halt` ends the thread, `trap` and `sys` stop it with their record. A thread
whose kernel has been contained ends too (11 R335). -/
def W.exitCommit (w : W) (tid : Nat) (x : Inst) : W :=
  match w.d.thr tid, x.exit with
  | some t, some e =>
    if e.opcode = 0x36 then
      let w := w.relFirst tid t 2
      let w := w.monument t 5 0 x.seq
      { w with d := w.d.endThread tid t.endAfter }
    else if t.endAfter then
      let w := w.monument t 5 0 x.seq
      { w with d := w.d.endThread tid true }
    else
      match x.effs.findSome? (fun q => match q.2.2 with | .trap sys arg => some (sys, arg) | _ => none) with
      | none => w
      | some (sys, arg) =>
        let p : Pend := { cause := if sys then .sysCall else .swTrap, w2 := BitVec.ofNat 64 (e.target.getD 0), w3 := arg }
        let w := { w with d := w.d.flushFrom tid (x.seq + 1) }
        W.threadFault { w with d := w.d.redirect tid none } tid p x.blk x.atomics
  | _, _ => w
/-- `compose` takes effect (02 R43-R45): younger instances are flushed, and the thread goes to its new core across a release and an
acquire (09 R277). -/
def W.composeCommit (w : W) (tid : Nat) (x : Inst) : W :=
  match w.d.thr tid, x.effs.findSome? (fun q => match q.2.2 with | .compose f n s => some (f, n, s) | _ => none) with
  | some t, some (first, width, slots) =>
    if t.ended then w
    else
      let w := { w with d := w.d.flushFrom tid (x.seq + 1) }
      let w := w.boundary tid t.grids (setGrids first width)
      { w with d := w.d.moveThread tid first width slots }
  | _, _ => w

/-- The trace record of a commit (19 R491). -/
def W.commitTrace (w : W) (t : Thread) (x : Inst) : W :=
  match x.exit with
  | none => w
  | some e =>
    let indirect := e.opcode == 0x31 || e.opcode == 0x33 || e.opcode == 0x34
    w.trace t.ctx 0 (if indirect then 2 else 1) x.grid (t.slotOn x.grid) e.num (x.seq % 2 ^ 32 * 2) (if indirect then e.target.getD 0 else 0)

/-- EN of `undo` changed by a commit (05 R143); owned lines go to their homes before logging begins (log 40). -/
def W.undoCommit (w : W) (c : Nat) (x : Inst) : W :=
  match x.effs.findSome? (fun q => match q.2.2 with | .setsr 0x0D v => some (v.getLsbD 0) | _ => none) with
  | none => w
  | some en =>
    let w := if en && !(w.d.ctx c).undoEn then (w.d.ctx c).parcel.foldl (fun (w : W) g => (w.performRels g).writeBackAll [g] (fun _ => true)) w else w
    { w with d := w.d.modCtx c (fun k => { k with undoEn := en }) }

/-- Everything a commit performs, once nothing stands against it (R28). -/
def W.commitNow (w : W) (iid : Nat) (x : Inst) (b : Block) (t : Thread) : W :=
  let tid := x.thr
  let c := t.ctx
  let seq := x.seq
  let logged := (w.d.ctx c).logging
  let lines := if logged then lineCount (w.commitEnts t x b) else 0
  let evs := w.d.commitEvents c x
  let flags0 := t.flags
  let prng0 := t.prng
  let w := evs.foldl (fun (w : W) v => w.noteEvent tid v) w
  let low := x.ordered.filter (fun e => decide (e.1 < 32))
  let high := x.ordered.filter (fun e => decide (32 ≤ e.1))
  -- flags that atomics raise now are ORed in after a replacement by `setsr` (R28)
  let w := { w with d := w.d.modThr tid (fun th => { th with flags := 0#64 }) }
  let w := low.foldl (fun (w : W) e => w.performLogged tid x e.2) w
  -- the bytes of `mst` (07 R199), and its pages let go
  let w := if logged then w.logWrite c (w.mstEnts t x) else w
  let w := if x.mstCells.isEmpty then w else w.putCells t (w.d.rnumOf t) x.mstCells
  let w := (x.msteps.flatMap (fun m => m.locks)).foldl (fun (w : W) l => w.unlock l) w
  let raised := match w.d.thr tid with | some th => th.flags | none => 0#64
  let w := { w with d := w.d.modThr tid (fun th => { th with flags := flags0 }) }
  let w := high.foldl (fun (w : W) e => w.performLogged tid x e.2) w
  -- registers, counters, `prng`, flags
  let w := if logged then w.logWrite c (w.endEnts { t with flags := flags0, prng := prng0 } x b lines) else w
  let setsPrng := x.effs.any (fun q => match q.2.2 with | .setsr 0x0B _ => true | _ => false)
  let ctrs := (x.msteps.isort (fun p q => decide (p.idx ≤ q.idx))).filterMap (fun m => m.ctr)
  let regs := fun (old : Tbl Vec) => (x.regWrites b).foldl (fun (r : Tbl Vec) (p : Nat × Vec) => r.set p.1 p.2) old
  let newCtrs := fun (old : Tbl Counter) => ctrs.foldl (fun (r : Tbl Counter) (p : Nat × Counter) => r.set p.1 p.2) old
  let w := { w with d := w.d.modThr tid (fun th => { th with
    regs := regs th.regs,
    ctrs := newCtrs th.ctrs,
    prng := if setsPrng then th.prng else x.prngNew.getD th.prng,
    flags := th.flags ||| raised ||| x.flags.setWidth 64, commitSeq := seq }.awake w.d.cycle) }
  let w := w.commitTrace t x
  let w := { w with d := w.d.retire iid x c }
  let w := w.composeCommit tid x
  let w := w.exitCommit tid x
  let w := w.undoCommit c x
  w.debugStop tid c x

/-- BLOCK_COMMIT of an instance (R27-R28): it commits, is held for a fault, or waits. -/
def W.commit (w : W) (iid : Nat) : W :=
  match w.d.inst iid with
  | none => w
  | some x =>
    match x.code, w.d.thr x.thr with
    | some b, some t =>
      let c := t.ctx
      if !w.d.commitReady iid x b then w
      else
        match w.diverges t t.ordinal (w.d.commitEvents c x) with
        | some p => { w with d := (w.d.hold iid p).gangStop c }
        | none =>
          match w.effBars iid x t x.ordered with
          | .wait => w
          | .stop w => w
          | .ok =>
            -- station 0 is taken at the first commit that is logged (19 R497)
            let w' := if (w.d.ctx c).logging && !(w.d.ctx c).log.begun then w.takeStation c 0 else w
            match (w'.d.ctx c).logGate (w'.commitEnts t x b) with
            | .wait => w
            | .trap =>
              let lg := (w.d.ctx c).log
              let p : Pend := { cause := .undoLogFull, w2 := BitVec.ofNat 64 lg.base, w3 := BitVec.ofNat 64 lg.inUse,
                                w4 := BitVec.ofNat 64 (lg.oldest % 2 ^ 32 + lg.station * 2 ^ 32) }
              { w with d := w.d.hold iid p }
            | .ok lg => W.commitNow { w' with d := w'.d.modCtx c (fun k => { k with log := lg }) } iid x b t
    | _, _ => w

/-- BLOCK_COMMIT (R28): instance `a`. -/
def execBlockCommit (s : State) : Host.Outcome State Fault Refusal :=
  run (fun w => w.commit w.d.arg.a) s

/-- WAIT_LIMIT_EXPIRY (12 R356): the wait of instance `a`, index `b` has reached its limit, and its grid is not stopped; the
instruction fires again with its timeout. -/
def execWaitLimitExpiry (s : State) : Host.Outcome State Fault Refusal :=
  runD (fun d =>
    let due := fun (q : Wait) => q.iid == d.arg.a && q.idx == d.arg.b && (match q.limit with | some n => decide (q.since + n ≤ d.cycle) | none => false) &&
      (match d.inst q.iid with | some x => !d.stopped x.grid | none => false)
    { d with waits := d.waits.map (fun q => if due q then { q with expired := true } else q) }) s

end Sys2Proof.Machine
end

