-- ==== Sys2Proof/Machine/Convert.lean ====
section
/-!
DEFINITION. The format prefix and conversions, opcodes 0x60 to 0x66 (06 R171-R178, 03 R64-R69).
-/

namespace Sys2Proof.Machine

/-- A value rounded to an integer and saturated to a type (03 R69). -/
def toIntType (dt : BitVec 4) (rm : Rm) (v : FVal) : Rounded :=
  let n := tyBits dt
  match v with
  | .nan _ => ⟨0, true, fNV⟩
  | .inf s => ⟨wrap n (if s then tyMin dt else tyMax dt), true, fNV⟩
  | .zero _ => ⟨0, false, 0#6⟩
  | .num s a b e =>
    -- a magnitude of 2^65 or more is beyond every integer type
    if 65 < magExp a b e then ⟨wrap n (if s then tyMin dt else tyMax dt), true, fNV⟩
    else
      let r := roundInt rm s a b e
      if r.1 < tyMin dt then ⟨wrap n (tyMin dt), true, fNV⟩
      else if tyMax dt < r.1 then ⟨wrap n (tyMax dt), true, fNV⟩
      else ⟨wrap n r.1, false, if r.2 then fNX else 0#6⟩

/-- An integer as an exact value. -/
def ofInt (z : Int) : FVal := if z = 0 then .zero false else .num (decide (z < 0)) z.natAbs 1 0

/-- Conv (R173): one lane, by the classes of the two types; `scale` is the power of two of `cvti`, `cvtf` or a prefix that
has been applied to a float source already. -/
def conv (ty dt : BitVec 4) (rm : Rm) (fzo : Bool) (v : FVal) (z : Int) : Rounded :=
  if anyFloat ty then
    if anyFloat dt then rounded dt rm fzo ⟨v, snanFlag [v]⟩ else toIntType dt rm v
  else if anyFloat dt then roundTo dt (ofInt z) rm fzo
  else
    let c := clamp dt z
    ⟨wrap (tyBits dt) c, c != z, 0#6⟩

/-- The lanes of a widening, a narrowing or an equal conversion (R173): source lane of each destination lane. -/
def partLanes (ws wd part : Nat) : List (Option Nat) :=
  let ls := 512 / ws
  let ld := 512 / wd
  if ld ≤ ls then (List.range ld).map (fun k => some (part * ld + k))
  else (List.range ld).map (fun k => if part * ls ≤ k ∧ k < part * ls + ls then some (k - part * ls) else none)

/-- Converted lanes with the overflow predicate on T1 (R175). -/
def convOut (f : FmtG) (dt : BitVec 4) (l : List (Option Rounded)) : Out :=
  { toks := [(f.t0, .val (ofLanes (tyBits dt) (l.map (fun r => match r with | some q => q.code | none => 0)))),
      (f.t1, .val (prTok (laneCount dt) (ofBits (l.map (fun r => match r with | some q => q.ov | none => false)))))],
    flags := joinFlags (l.map (fun r => match r with | some q => q.flags | none => 0#6)) }

/-- CVT (R173). -/
def execCvt (f : FmtG) (s : State) : Host.Outcome State Fault Refusal :=
  runD (fire (.cvt f) fun o =>
    let dt := dtOf f
    convOut f dt ((partLanes (tyBits f.ty) (tyBits dt) (bits f.x 6 4)).map (fun l => l.map (fun k =>
      conv f.ty dt (rmOf f.rm) (f.fzo == 1#1) (scaledF f o o.va k) (num f.ty (lane (tyBits f.ty) o.va k)))))) s

/-- CVTI (R174): ReadF(a) × 2^SHIFT, rounded and saturated. -/
def execCvti (f : FmtG) (s : State) : Host.Outcome State Fault Refusal :=
  runD (fire (.cvti f) fun o =>
    let dt := dtOf f
    convOut f dt ((partLanes (tyBits f.ty) (tyBits dt) (bits f.x 6 4)).map (fun l => l.map (fun k =>
      toIntType dt (rmOf f.rm) ((scaledF f o o.va k).scale (sbits f.x 14 7)))))) s

/-- CVTF (R174): a × 2^SHIFT, rounded. -/
def execCvtf (f : FmtG) (s : State) : Host.Outcome State Fault Refusal :=
  runD (fire (.cvtf f) fun o =>
    let dt := dtOf f
    convOut f dt ((partLanes (tyBits f.ty) (tyBits dt) (bits f.x 6 4)).map (fun l => l.map (fun k =>
      roundTo dt ((ofInt (num f.ty (lane (tyBits f.ty) o.va k))).scale (sbits f.x 14 7)) (rmOf f.rm) (f.fzo == 1#1))))) s

/-- FMT (R171): the format-and-scale token to T0. -/
def execFmt (f : FmtP) (s : State) : Host.Outcome State Fault Refusal :=
  runD (fire (.fmt f) fun _ => { toks := [(f.t0, .fmt f.fmt f.scale)] }) s

/-- PACK (R176): lane j of `a` and of `b`, side by side or interleaved. -/
def execPack (f : FmtG) (s : State) : Host.Outcome State Fault Refusal :=
  runD (fire (.pack f) fun o =>
    let dt := dtOf f
    let n := laneCount f.ty
    let c := fun (v : Vec) (k : Nat) =>
      conv f.ty dt (rmOf f.rm) (f.fzo == 1#1) (plainF f v k) (num f.ty (lane (tyBits f.ty) v k))
    let l := if bits f.x 4 4 = 1 then (List.range n).flatMap (fun k => [some (c o.va k), some (c o.vb k)])
      else (List.range n).map (fun k => some (c o.va k)) ++ (List.range n).map (fun k => some (c o.vb k))
    convOut f dt l) s

/-- The lane of `a` that result lane j of `unpack` takes (R177). -/
def unpackLane (l sel j : Nat) : Nat :=
  match sel with
  | 0 => j
  | 1 => l / 2 + j
  | 2 => 2 * j
  | _ => 2 * j + 1

/-- UNPACK (R177): every widening is exact; T1 carries a copy. -/
def execUnpack (f : FmtG) (s : State) : Host.Outcome State Fault Refusal :=
  runD (fire (.unpack f) fun o =>
    let dt := dtOf f
    let l := laneCount f.ty
    let q := (List.range (l / 2)).map (fun j =>
      let k := unpackLane l (bits f.x 5 4) j
      conv f.ty dt .near false (plainF f o.va k) (num f.ty (lane (tyBits f.ty) o.va k)))
    both f.t0 f.t1 (ofLanes (tyBits dt) (q.map (·.code))) (joinFlags (q.map (·.flags)))) s

/-- FMAXEXP (R178): the largest exponent of a finite nonzero lane, or −2^31. -/
def execFmaxexp (f : FmtG) (s : State) : Host.Outcome State Fault Refusal :=
  runD (fire (.fmaxexp f) fun o =>
    let vs := (List.range (laneCount f.ty)).map (plainF f o.va)
    let e := vs.foldl (fun (acc : Int) v =>
      match v with
      | .num _ n d k => if acc < magExp n d k then magExp n d k else acc
      | _ => acc) (-(2 ^ 31 : Int))
    both f.t0 f.t1 (ofLanes 32 (List.replicate 16 (wrap 32 e))) (snanFlag vs)) s

end Sys2Proof.Machine
end

