-- ==== Sys2Proof/Machine/IntOps.lean ====
section
/-!
DEFINITION. Integer and address arithmetic, opcodes 0x01 to 0x1F (05 R119-R127, 03 R68).
-/

namespace Sys2Proof.Machine

/-- A one-operand lane operation: `g` takes the width and the lane. -/
def int1 (f : FmtG) (g : Nat → Nat → Nat) (o : Opnds) : Out :=
  let n := tyBits f.ty
  both f.t0 f.t1 (ofLanes n ((lanes n o.va).map (g n)))

/-- A two-operand lane operation with an optional immediate in place of `b` (05 R121). -/
def int2 (f : FmtG) (g : Nat → Nat → Nat → Nat) (o : Opnds) : Out :=
  let n := tyBits f.ty
  both f.t0 f.t1 (ofLanes n ((List.range (512 / n)).map (fun k => g n (lane n o.va k) (bLane f 15 0 o.vb k))))

/-- A three-operand lane operation; an operand that is not expected reads as zero. -/
def int3 (f : FmtG) (g : Nat → Nat → Nat → Nat → Nat) (o : Opnds) : Out :=
  let n := tyBits f.ty
  both f.t0 f.t1 (ofLanes n ((List.range (512 / n)).map (fun k => g n (lane n o.va k) (lane n o.vb k) (lane n o.vc k))))

/-- A shift or rotation: the count is the unsigned lane of `b` or X[6:0] (05 R124). -/
def intShift (f : FmtG) (g : Nat → Nat → Nat → Nat) (o : Opnds) : Out :=
  let n := tyBits f.ty
  both f.t0 f.t1 (ofLanes n ((List.range (512 / n)).map (fun k =>
    g n (lane n o.va k) (if immB f then bits f.x 6 0 else lane n o.vb k))))

/-! ### Lane functions (03 R68, 05 R123-R127) -/

/-- Quotient truncated toward zero, with the corners of R68. -/
def laneDiv (ty : BitVec 4) (n a b : Nat) : Nat :=
  if b = 0 then 2 ^ n - 1 else wrap n ((num ty a).tdiv (num ty b))
/-- Remainder with the sign of the dividend. -/
def laneRem (ty : BitVec 4) (n a b : Nat) : Nat :=
  if b = 0 then a else wrap n ((num ty a).tmod (num ty b))
/-- Bits [2n − 1 : n] of the exact product. -/
def laneMulh (ty : BitVec 4) (n a b : Nat) : Nat := wrap n (num ty a * num ty b / (2 ^ n : Nat))
def laneMin (ty : BitVec 4) (a b : Nat) : Nat := if num ty a ≤ num ty b then a else b
def laneMax (ty : BitVec 4) (a b : Nat) : Nat := if num ty a ≤ num ty b then b else a
def laneAbs (ty : BitVec 4) (n a : Nat) : Nat := wrap n (num ty a).natAbs
/-- Bits not set in a lane. -/
def laneNot (n a : Nat) : Nat := 2 ^ n - 1 - a
def laneShl (n a c : Nat) : Nat := if n ≤ c then 0 else a * 2 ^ c % 2 ^ n
def laneShr (n a c : Nat) : Nat := if n ≤ c then 0 else a / 2 ^ c
/-- Copies of bit n − 1 enter from the left. -/
def laneSar (n a c : Nat) : Nat := wrap n (sgn n a / (2 ^ (if n ≤ c then n else c) : Nat))
def laneRotl (n a c : Nat) : Nat := (a * 2 ^ (c % n) ||| a / 2 ^ (n - c % n)) % 2 ^ n
/-- Leading zero bits, 0 to n. -/
def laneClz (n a : Nat) : Nat := if a = 0 then n else n - 1 - Nat.log2 a
def lanePopc (n a : Nat) : Nat := ((List.range n).map (bitNat a)).sum
def laneBrev (n a : Nat) : Nat := ofBits ((List.range n).map (fun k => a.testBit (n - 1 - k)))
/-- The field of LEN bits at POS, sign-extended for an i type (05 R125). -/
def laneBfx (ty : BitVec 4) (n pos len a : Nat) : Nat :=
  let x := a / 2 ^ pos % 2 ^ len
  wrap n (if signedTy ty then sgn len x else x)
/-- a with the field replaced by the low bits of b (05 R125). -/
def laneBfi (pos len a b : Nat) : Nat :=
  a - a / 2 ^ pos % 2 ^ len * 2 ^ pos + b % 2 ^ len * 2 ^ pos
/-- |a − b|, exact (05 R126). -/
def laneDist (ty : BitVec 4) (a b : Nat) : Nat := (num ty a - num ty b).natAbs
/-- Floor((a + b + 1) / 2), exact. -/
def laneAvg (ty : BitVec 4) (n a b : Nat) : Nat := wrap n ((num ty a + num ty b + 1) / 2)

/-! ### Meanings -/

/-- ADD (R123): a + b mod 2^n. -/
def execAdd (f : FmtG) (s : State) : Host.Outcome State Fault Refusal :=
  runD (fire (.add f) (int2 f fun _ a b => a + b)) s
/-- SUB (R123): a − b mod 2^n. -/
def execSub (f : FmtG) (s : State) : Host.Outcome State Fault Refusal :=
  runD (fire (.sub f) (int2 f fun n a b => a + 2 ^ n - b)) s
/-- MUL (R123): a × b mod 2^n. -/
def execMul (f : FmtG) (s : State) : Host.Outcome State Fault Refusal :=
  runD (fire (.mul f) (int2 f fun _ a b => a * b)) s
/-- MULH (R126): the high half of the exact product, signed or unsigned by TY. -/
def execMulh (f : FmtG) (s : State) : Host.Outcome State Fault Refusal :=
  runD (fire (.mulh f) (int2 f fun n a b => laneMulh f.ty n a b)) s
/-- MAD (R123): a × b + c mod 2^n. -/
def execMad (f : FmtG) (s : State) : Host.Outcome State Fault Refusal :=
  runD (fire (.mad f) (int3 f fun _ a b c => a * b + c)) s
/-- DIV (R68). -/
def execDiv (f : FmtG) (s : State) : Host.Outcome State Fault Refusal :=
  runD (fire (.div f) (int2 f fun n a b => laneDiv f.ty n a b)) s
/-- REM (R68). -/
def execRem (f : FmtG) (s : State) : Host.Outcome State Fault Refusal :=
  runD (fire (.rem f) (int2 f fun n a b => laneRem f.ty n a b)) s
/-- MIN (R123). -/
def execMin (f : FmtG) (s : State) : Host.Outcome State Fault Refusal :=
  runD (fire (.min f) (int2 f fun _ a b => laneMin f.ty a b)) s
/-- MAX (R123). -/
def execMax (f : FmtG) (s : State) : Host.Outcome State Fault Refusal :=
  runD (fire (.max f) (int2 f fun _ a b => laneMax f.ty a b)) s
/-- ABS (R123): abs(a) mod 2^n; for an n type, a. -/
def execAbs (f : FmtG) (s : State) : Host.Outcome State Fault Refusal :=
  runD (fire (.abs f) (int1 f fun n a => laneAbs f.ty n a)) s
/-- NEG (R123): −a mod 2^n. -/
def execNeg (f : FmtG) (s : State) : Host.Outcome State Fault Refusal :=
  runD (fire (.neg f) (int1 f fun n a => 2 ^ n - a)) s
/-- AND (R123). -/
def execAnd (f : FmtG) (s : State) : Host.Outcome State Fault Refusal :=
  runD (fire (.and f) (int2 f fun _ a b => a &&& b)) s
/-- OR (R123). -/
def execOr (f : FmtG) (s : State) : Host.Outcome State Fault Refusal :=
  runD (fire (.or f) (int2 f fun _ a b => a ||| b)) s
/-- XOR (R123). -/
def execXor (f : FmtG) (s : State) : Host.Outcome State Fault Refusal :=
  runD (fire (.xor f) (int2 f fun _ a b => a ^^^ b)) s
/-- ANDN (R123): a AND NOT b. -/
def execAndn (f : FmtG) (s : State) : Host.Outcome State Fault Refusal :=
  runD (fire (.andn f) (int2 f fun n a b => a &&& laneNot n b)) s
/-- NOT (R123). -/
def execNot (f : FmtG) (s : State) : Host.Outcome State Fault Refusal :=
  runD (fire (.not f) (int1 f fun n a => laneNot n a)) s
/-- SHL (R124). -/
def execShl (f : FmtG) (s : State) : Host.Outcome State Fault Refusal :=
  runD (fire (.shl f) (intShift f laneShl)) s
/-- SHR (R124): zero fill. -/
def execShr (f : FmtG) (s : State) : Host.Outcome State Fault Refusal :=
  runD (fire (.shr f) (intShift f laneShr)) s
/-- SAR (R124): sign fill. -/
def execSar (f : FmtG) (s : State) : Host.Outcome State Fault Refusal :=
  runD (fire (.sar f) (intShift f laneSar)) s
/-- ROTL (R124): the count modulo n. -/
def execRotl (f : FmtG) (s : State) : Host.Outcome State Fault Refusal :=
  runD (fire (.rotl f) (intShift f laneRotl)) s
/-- CLZ (R123). -/
def execClz (f : FmtG) (s : State) : Host.Outcome State Fault Refusal :=
  runD (fire (.clz f) (int1 f laneClz)) s
/-- POPC (R123). -/
def execPopc (f : FmtG) (s : State) : Host.Outcome State Fault Refusal :=
  runD (fire (.popc f) (int1 f lanePopc)) s
/-- BREV (R123). -/
def execBrev (f : FmtG) (s : State) : Host.Outcome State Fault Refusal :=
  runD (fire (.brev f) (int1 f laneBrev)) s
/-- BFX (R125). -/
def execBfx (f : FmtG) (s : State) : Host.Outcome State Fault Refusal :=
  runD (fire (.bfx f) (int1 f fun n a => laneBfx f.ty n (bits f.x 6 0) (bits f.x 13 7) a)) s
/-- BFI (R125). -/
def execBfi (f : FmtG) (s : State) : Host.Outcome State Fault Refusal :=
  runD (fire (.bfi f) (int3 f fun _ a b _ => laneBfi (bits f.x 6 0) (bits f.x 13 7) a b)) s
/-- ADDS (R123): clamped to the range of TY. -/
def execAdds (f : FmtG) (s : State) : Host.Outcome State Fault Refusal :=
  runD (fire (.adds f) (int2 f fun n a b => wrap n (clamp f.ty (num f.ty a + num f.ty b)))) s
/-- SUBS (R123): clamped to the range of TY. -/
def execSubs (f : FmtG) (s : State) : Host.Outcome State Fault Refusal :=
  runD (fire (.subs f) (int2 f fun n a b => wrap n (clamp f.ty (num f.ty a - num f.ty b)))) s

/-- AddC (R127): the sums and the carries of all lanes. Bit k of `c` is the carry in; it is 0 when `c` is not expected. -/
def addCarry (f : FmtG) (o : Opnds) : Out :=
  let n := tyBits f.ty
  let s := (List.range (512 / n)).map (fun k => lane n o.va k + bLane f 15 0 o.vb k + bitNat o.vc.toNat k)
  { toks := [(f.t0, .val (ofLanes n s)),
      (f.t1, .val (prTok (512 / n) (ofBits (s.map (fun x => decide (2 ^ n ≤ x))))))] }

/-- ADDC (R127): the sum to T0, the carry-out predicate to T1. -/
def execAddc (f : FmtG) (s : State) : Host.Outcome State Fault Refusal :=
  runD (fire (.addc f) (addCarry f)) s
/-- LEA (R123): a + b × 2^X[2:0] mod 2^64. -/
def execLea (f : FmtG) (s : State) : Host.Outcome State Fault Refusal :=
  runD (fire (.lea f) (int3 f fun _ a b _ => a + b * 2 ^ bits f.x 2 0)) s
/-- SAD (R123): c + |a − b| mod 2^n, the difference exact; c is 0 when not expected. -/
def execSad (f : FmtG) (s : State) : Host.Outcome State Fault Refusal :=
  runD (fire (.sad f) (int3 f fun _ a b c => c + laneDist f.ty a b)) s
/-- AVG (R123): Floor((a + b + 1) / 2). -/
def execAvg (f : FmtG) (s : State) : Host.Outcome State Fault Refusal :=
  runD (fire (.avg f) (int2 f fun n a b => laneAvg f.ty n a b)) s

end Sys2Proof.Machine
end

