-- ==== Sys2Proof/Machine/Dispatch.lean ====
section
/-!
DEFINITION. One arm for each constructor of `Instr`: the direct call of its meaning.
-/

namespace Sys2Proof.Machine

def exec (i : Instr) (s : State) : Host.Outcome State Fault Refusal :=
  match i with
  | .add f => Sys2Proof.Machine.execAdd f s
  | .sub f => Sys2Proof.Machine.execSub f s
  | .mul f => Sys2Proof.Machine.execMul f s
  | .mulh f => Sys2Proof.Machine.execMulh f s
  | .mad f => Sys2Proof.Machine.execMad f s
  | .div f => Sys2Proof.Machine.execDiv f s
  | .rem f => Sys2Proof.Machine.execRem f s
  | .min f => Sys2Proof.Machine.execMin f s
  | .max f => Sys2Proof.Machine.execMax f s
  | .abs f => Sys2Proof.Machine.execAbs f s
  | .neg f => Sys2Proof.Machine.execNeg f s
  | .and f => Sys2Proof.Machine.execAnd f s
  | .or f => Sys2Proof.Machine.execOr f s
  | .xor f => Sys2Proof.Machine.execXor f s
  | .andn f => Sys2Proof.Machine.execAndn f s
  | .not f => Sys2Proof.Machine.execNot f s
  | .shl f => Sys2Proof.Machine.execShl f s
  | .shr f => Sys2Proof.Machine.execShr f s
  | .sar f => Sys2Proof.Machine.execSar f s
  | .rotl f => Sys2Proof.Machine.execRotl f s
  | .clz f => Sys2Proof.Machine.execClz f s
  | .popc f => Sys2Proof.Machine.execPopc f s
  | .brev f => Sys2Proof.Machine.execBrev f s
  | .bfx f => Sys2Proof.Machine.execBfx f s
  | .bfi f => Sys2Proof.Machine.execBfi f s
  | .adds f => Sys2Proof.Machine.execAdds f s
  | .subs f => Sys2Proof.Machine.execSubs f s
  | .addc f => Sys2Proof.Machine.execAddc f s
  | .lea f => Sys2Proof.Machine.execLea f s
  | .sad f => Sys2Proof.Machine.execSad f s
  | .avg f => Sys2Proof.Machine.execAvg f s
  | .cmp f => Sys2Proof.Machine.execCmp f s
  | .fcmp f => Sys2Proof.Machine.execFcmp f s
  | .sel f => Sys2Proof.Machine.execSel f s
  | .mov f => Sys2Proof.Machine.execMov f s
  | .movi f => Sys2Proof.Machine.execMovi f s
  | .movhi f => Sys2Proof.Machine.execMovhi f s
  | .null f => Sys2Proof.Machine.execNull f s
  | .pand f => Sys2Proof.Machine.execPand f s
  | .por f => Sys2Proof.Machine.execPor f s
  | .pnot f => Sys2Proof.Machine.execPnot f s
  | .tagrd f => Sys2Proof.Machine.execTagrd f s
  | .lane f => Sys2Proof.Machine.execLane f s
  | .bcast f => Sys2Proof.Machine.execBcast f s
  | .extl f => Sys2Proof.Machine.execExtl f s
  | .insl f => Sys2Proof.Machine.execInsl f s
  | .getsr f => Sys2Proof.Machine.execGetsr f s
  | .br f => Sys2Proof.Machine.execBr f s
  | .brind f => Sys2Proof.Machine.execBrind f s
  | .call f => Sys2Proof.Machine.execCall f s
  | .calli f => Sys2Proof.Machine.execCalli f s
  | .ret f => Sys2Proof.Machine.execRet f s
  | .loop f => Sys2Proof.Machine.execLoop f s
  | .halt f => Sys2Proof.Machine.execHalt f s
  | .yield f => Sys2Proof.Machine.execYield f s
  | .compose f => Sys2Proof.Machine.execCompose f s
  | .trap f => Sys2Proof.Machine.execTrap f s
  | .sys f => Sys2Proof.Machine.execSys f s
  | .setsr f => Sys2Proof.Machine.execSetsr f s
  | .hint f => Sys2Proof.Machine.execHint f s
  | .brkp f => Sys2Proof.Machine.execBrkp f s
  | .fadd f => Sys2Proof.Machine.execFadd f s
  | .fsub f => Sys2Proof.Machine.execFsub f s
  | .fmul f => Sys2Proof.Machine.execFmul f s
  | .fma f => Sys2Proof.Machine.execFma f s
  | .fms f => Sys2Proof.Machine.execFms f s
  | .fnma f => Sys2Proof.Machine.execFnma f s
  | .fmin f => Sys2Proof.Machine.execFmin f s
  | .fmax f => Sys2Proof.Machine.execFmax f s
  | .fabs f => Sys2Proof.Machine.execFabs f s
  | .fneg f => Sys2Proof.Machine.execFneg f s
  | .fdiv f => Sys2Proof.Machine.execFdiv f s
  | .fsqrt f => Sys2Proof.Machine.execFsqrt f s
  | .frcp f => Sys2Proof.Machine.execFrcp f s
  | .frsqrt f => Sys2Proof.Machine.execFrsqrt f s
  | .fexp2 f => Sys2Proof.Machine.execFexp2 f s
  | .flog2 f => Sys2Proof.Machine.execFlog2 f s
  | .ftanh f => Sys2Proof.Machine.execFtanh f s
  | .fsig f => Sys2Proof.Machine.execFsig f s
  | .fround f => Sys2Proof.Machine.execFround f s
  | .fclass f => Sys2Proof.Machine.execFclass f s
  | .fscale f => Sys2Proof.Machine.execFscale f s
  | .fdot2 f => Sys2Proof.Machine.execFdot2 f s
  | .fdot4 f => Sys2Proof.Machine.execFdot4 f s
  | .fclamp f => Sys2Proof.Machine.execFclamp f s
  | .fcopysign f => Sys2Proof.Machine.execFcopysign f s
  | .cvt f => Sys2Proof.Machine.execCvt f s
  | .cvti f => Sys2Proof.Machine.execCvti f s
  | .cvtf f => Sys2Proof.Machine.execCvtf f s
  | .fmt f => Sys2Proof.Machine.execFmt f s
  | .pack f => Sys2Proof.Machine.execPack f s
  | .unpack f => Sys2Proof.Machine.execUnpack f s
  | .fmaxexp f => Sys2Proof.Machine.execFmaxexp f s
  | .perm f => Sys2Proof.Machine.execPerm f s
  | .shfl f => Sys2Proof.Machine.execShfl f s
  | .red f => Sys2Proof.Machine.execRed f s
  | .scan f => Sys2Proof.Machine.execScan f s
  | .cmpr f => Sys2Proof.Machine.execCmpr f s
  | .expd f => Sys2Proof.Machine.execExpd f s
  | .vote f => Sys2Proof.Machine.execVote f s
  | .zip f => Sys2Proof.Machine.execZip f s
  | .unzip f => Sys2Proof.Machine.execUnzip f s
  | .ld f => Sys2Proof.Machine.execLd f s
  | .lda f => Sys2Proof.Machine.execLda f s
  | .st f => Sys2Proof.Machine.execSt f s
  | .stl f => Sys2Proof.Machine.execStl f s
  | .ldg f => Sys2Proof.Machine.execLdg f s
  | .stg f => Sys2Proof.Machine.execStg f s
  | .ldsp f => Sys2Proof.Machine.execLdsp f s
  | .stsp f => Sys2Proof.Machine.execStsp f s
  | .sread f => Sys2Proof.Machine.execSread f s
  | .swrite f => Sys2Proof.Machine.execSwrite f s
  | .scfg f => Sys2Proof.Machine.execScfg f s
  | .sclose f => Sys2Proof.Machine.execSclose f s
  | .ldfwd f => Sys2Proof.Machine.execLdfwd f s
  | .pref f => Sys2Proof.Machine.execPref f s
  | .fence f => Sys2Proof.Machine.execFence f s
  | .cwb f => Sys2Proof.Machine.execCwb f s
  | .cinv f => Sys2Proof.Machine.execCinv f s
  | .acopy f => Sys2Proof.Machine.execAcopy f s
  | .acopy2 f => Sys2Proof.Machine.execAcopy2 f s
  | .ashadow f => Sys2Proof.Machine.execAshadow f s
  | .apubPublish f => Sys2Proof.Machine.execApubPublish f s
  | .apubDiscard f => Sys2Proof.Machine.execApubDiscard f s
  | .aprobe f => Sys2Proof.Machine.execAprobe f s
  | .agather f => Sys2Proof.Machine.execAgather f s
  | .amoAdd f => Sys2Proof.Machine.execAmoAdd f s
  | .amoFadd f => Sys2Proof.Machine.execAmoFadd f s
  | .amoMin f => Sys2Proof.Machine.execAmoMin f s
  | .amoMax f => Sys2Proof.Machine.execAmoMax f s
  | .amoAnd f => Sys2Proof.Machine.execAmoAnd f s
  | .amoOr f => Sys2Proof.Machine.execAmoOr f s
  | .amoXor f => Sys2Proof.Machine.execAmoXor f s
  | .amoSwap f => Sys2Proof.Machine.execAmoSwap f s
  | .amoCas f => Sys2Proof.Machine.execAmoCas f s
  | .amoInc f => Sys2Proof.Machine.execAmoInc f s
  | .amoDec f => Sys2Proof.Machine.execAmoDec f s
  | .mcfg f => Sys2Proof.Machine.execMcfg f s
  | .mzero f => Sys2Proof.Machine.execMzero f s
  | .mma f => Sys2Proof.Machine.execMma f s
  | .mld f => Sys2Proof.Machine.execMld f s
  | .mst f => Sys2Proof.Machine.execMst f s
  | .mctr f => Sys2Proof.Machine.execMctr f s
  | .mbound f => Sys2Proof.Machine.execMbound f s
  | .wbload f => Sys2Proof.Machine.execWbload f s
  | .mputa f => Sys2Proof.Machine.execMputa f s
  | .mputb f => Sys2Proof.Machine.execMputb f s
  | .mred f => Sys2Proof.Machine.execMred f s
  | .mrow f => Sys2Proof.Machine.execMrow f s
  | .qpush f => Sys2Proof.Machine.execQpush f s
  | .qpop f => Sys2Proof.Machine.execQpop f s
  | .qpeek f => Sys2Proof.Machine.execQpeek f s
  | .qinfo f => Sys2Proof.Machine.execQinfo f s
  | .mbsend f => Sys2Proof.Machine.execMbsend f s
  | .mbrecv f => Sys2Proof.Machine.execMbrecv f s
  | .mcput f => Sys2Proof.Machine.execMcput f s
  | .mctake f => Sys2Proof.Machine.execMctake f s
  | .launch f => Sys2Proof.Machine.execLaunch f s
  | .kinfo f => Sys2Proof.Machine.execKinfo f s
  | .spawn f => Sys2Proof.Machine.execSpawn f s
  | .syncWait f => Sys2Proof.Machine.execSyncWait f s
  | .syncNext f => Sys2Proof.Machine.execSyncNext f s
  | .evwait f => Sys2Proof.Machine.execEvwait f s
  | .evsig f => Sys2Proof.Machine.execEvsig f s
  | .ginfo f => Sys2Proof.Machine.execGinfo f s
  | .binitAlloc f => Sys2Proof.Machine.execBinitAlloc f s
  | .binitFree f => Sys2Proof.Machine.execBinitFree f s
  | .arrive f => Sys2Proof.Machine.execArrive f s
  | .arriveDrop f => Sys2Proof.Machine.execArriveDrop f s
  | .bwait f => Sys2Proof.Machine.execBwait f s
  | .fork f => Sys2Proof.Machine.execFork f s
  | .join f => Sys2Proof.Machine.execJoin f s
  | .rregionDecl f => Sys2Proof.Machine.execRregionDecl f s
  | .rregionDrop f => Sys2Proof.Machine.execRregionDrop f s
  | .rinfo f => Sys2Proof.Machine.execRinfo f s
  | .trvopen f => Sys2Proof.Machine.execTrvopen f s
  | .trvput f => Sys2Proof.Machine.execTrvput f s
  | .trvtake f => Sys2Proof.Machine.execTrvtake f s
  | .trvdonePass f => Sys2Proof.Machine.execTrvdonePass f s
  | .trvdoneDrop f => Sys2Proof.Machine.execTrvdoneDrop f s
  | .trvcloseDrain f => Sys2Proof.Machine.execTrvcloseDrain f s
  | .trvcloseAbort f => Sys2Proof.Machine.execTrvcloseAbort f s
  | .trvstat f => Sys2Proof.Machine.execTrvstat f s
  | .ctxq f => Sys2Proof.Machine.execCtxq f s
  | .frec f => Sys2Proof.Machine.execFrec f s
  | .fresumeResume f => Sys2Proof.Machine.execFresumeResume f s
  | .fresumeRedirect f => Sys2Proof.Machine.execFresumeRedirect f s
  | .fresumeEnd f => Sys2Proof.Machine.execFresumeEnd f s
  | .pgq f => Sys2Proof.Machine.execPgq f s
  | .pgadviseWillneed f => Sys2Proof.Machine.execPgadviseWillneed f s
  | .pgadviseTranslate f => Sys2Proof.Machine.execPgadviseTranslate f s
  | .pgadviseEvictbehind f => Sys2Proof.Machine.execPgadviseEvictbehind f s
  | .pgadviseKeep f => Sys2Proof.Machine.execPgadviseKeep f s
  | .acoll f => Sys2Proof.Machine.execAcoll f s
  | .lnkq f => Sys2Proof.Machine.execLnkq f s
  | .station f => Sys2Proof.Machine.execStation f s
  | .dmark f => Sys2Proof.Machine.execDmark f s
  | .probe f => Sys2Proof.Machine.execProbe f s
  | .create cmd => Sys2Proof.Machine.execCreate cmd s
  | .configure cmd => Sys2Proof.Machine.execConfigure cmd s
  | .bind cmd => Sys2Proof.Machine.execBind cmd s
  | .run cmd => Sys2Proof.Machine.execRun cmd s
  | .unbind cmd => Sys2Proof.Machine.execUnbind cmd s
  | .preempt cmd => Sys2Proof.Machine.execPreempt cmd s
  | .restore cmd => Sys2Proof.Machine.execRestore cmd s
  | .freeze cmd => Sys2Proof.Machine.execFreeze cmd s
  | .resume cmd => Sys2Proof.Machine.execResume cmd s
  | .dump cmd => Sys2Proof.Machine.execDump cmd s
  | .kill cmd => Sys2Proof.Machine.execKill cmd s
  | .danswer cmd => Sys2Proof.Machine.execDanswer cmd s
  | .load cmd => Sys2Proof.Machine.execLoad cmd s
  | .unload cmd => Sys2Proof.Machine.execUnload cmd s
  | .qcreate cmd => Sys2Proof.Machine.execQcreate cmd s
  | .qopen cmd => Sys2Proof.Machine.execQopen cmd s
  | .qdrain cmd => Sys2Proof.Machine.execQdrain cmd s
  | .qclose cmd => Sys2Proof.Machine.execQclose cmd s
  | .qdestroy cmd => Sys2Proof.Machine.execQdestroy cmd s
  | .qquery cmd => Sys2Proof.Machine.execQquery cmd s
  | .balloc cmd => Sys2Proof.Machine.execBalloc cmd s
  | .bfree cmd => Sys2Proof.Machine.execBfree cmd s
  | .bquery cmd => Sys2Proof.Machine.execBquery cmd s
  | .punmap cmd => Sys2Proof.Machine.execPunmap cmd s
  | .pmigrate cmd => Sys2Proof.Machine.execPmigrate cmd s
  | .pevict cmd => Sys2Proof.Machine.execPevict cmd s
  | .psplit cmd => Sys2Proof.Machine.execPsplit cmd s
  | .ppin cmd => Sys2Proof.Machine.execPpin cmd s
  | .punpin cmd => Sys2Proof.Machine.execPunpin cmd s
  | .pdomain cmd => Sys2Proof.Machine.execPdomain cmd s
  | .rsync cmd => Sys2Proof.Machine.execRsync cmd s
  | .panswer cmd => Sys2Proof.Machine.execPanswer cmd s
  | .pstock cmd => Sys2Proof.Machine.execPstock cmd s
  | .manswer cmd => Sys2Proof.Machine.execManswer cmd s
  | .gresume cmd => Sys2Proof.Machine.execGresume cmd s
  | .logcfg cmd => Sys2Proof.Machine.execLogcfg cmd s
  | .logtrim cmd => Sys2Proof.Machine.execLogtrim cmd s
  | .reverseToStation cmd => Sys2Proof.Machine.execReverseToStation cmd s
  | .reverseBlock cmd => Sys2Proof.Machine.execReverseBlock cmd s
  | .trcfg cmd => Sys2Proof.Machine.execTrcfg cmd s
  | .record cmd => Sys2Proof.Machine.execRecord cmd s
  | .dbgmatch cmd => Sys2Proof.Machine.execDbgmatch cmd s
  | .cutread cmd => Sys2Proof.Machine.execCutread cmd s
  | .fetchOpportunity => Sys2Proof.Machine.execFetchOpportunity s
  | .fetchComplete => Sys2Proof.Machine.execFetchComplete s
  | .fillDelivery => Sys2Proof.Machine.execFillDelivery s
  | .codePageVerification => Sys2Proof.Machine.execCodePageVerification s
  | .instancePlace => Sys2Proof.Machine.execInstancePlace s
  | .tokenDelivery => Sys2Proof.Machine.execTokenDelivery s
  | .blockCommit => Sys2Proof.Machine.execBlockCommit s
  | .exitMispredict => Sys2Proof.Machine.execExitMispredict s
  | .predictorEntryClear => Sys2Proof.Machine.execPredictorEntryClear s
  | .watchdogExpiry => Sys2Proof.Machine.execWatchdogExpiry s
  | .slotWaitEntry => Sys2Proof.Machine.execSlotWaitEntry s
  | .slotRetention => Sys2Proof.Machine.execSlotRetention s
  | .waitLimitExpiry => Sys2Proof.Machine.execWaitLimitExpiry s
  | .overflowReinject => Sys2Proof.Machine.execOverflowReinject s
  | .thermalThreshold => Sys2Proof.Machine.execThermalThreshold s
  | .thermalSlotDisable => Sys2Proof.Machine.execThermalSlotDisable s
  | .thermalSlotEnable => Sys2Proof.Machine.execThermalSlotEnable s
  | .displacedMove => Sys2Proof.Machine.execDisplacedMove s
  | .thermalRankingRefresh => Sys2Proof.Machine.execThermalRankingRefresh s
  | .steal => Sys2Proof.Machine.execSteal s
  | .matrixStepStart => Sys2Proof.Machine.execMatrixStepStart s
  | .matrixStepFinish => Sys2Proof.Machine.execMatrixStepFinish s
  | .wbloadStepStart => Sys2Proof.Machine.execWbloadStepStart s
  | .pairMultiplyPhase => Sys2Proof.Machine.execPairMultiplyPhase s
  | .pairAccumulatePhase => Sys2Proof.Machine.execPairAccumulatePhase s
  | .atomicEarlyPerform => Sys2Proof.Machine.execAtomicEarlyPerform s
  | .releasePerform => Sys2Proof.Machine.execReleasePerform s
  | .scratchpadStoreArrival => Sys2Proof.Machine.execScratchpadStoreArrival s
  | .streamHandover => Sys2Proof.Machine.execStreamHandover s
  | .ldfwdReplyDelivery => Sys2Proof.Machine.execLdfwdReplyDelivery s
  | .mailboxDelivery => Sys2Proof.Machine.execMailboxDelivery s
  | .copyCompletion => Sys2Proof.Machine.execCopyCompletion s
  | .shadowPublication => Sys2Proof.Machine.execShadowPublication s
  | .collectiveCompletion => Sys2Proof.Machine.execCollectiveCompletion s
  | .dispatchRemove => Sys2Proof.Machine.execDispatchRemove s
  | .groupLevelRise => Sys2Proof.Machine.execGroupLevelRise s
  | .groupDispatch => Sys2Proof.Machine.execGroupDispatch s
  | .groupRetire => Sys2Proof.Machine.execGroupRetire s
  | .barrierEngineArrival => Sys2Proof.Machine.execBarrierEngineArrival s
  | .gatingWindowEnd => Sys2Proof.Machine.execGatingWindowEnd s
  | .quiescenceSweep => Sys2Proof.Machine.execQuiescenceSweep s
  | .saveImageWritten => Sys2Proof.Machine.execSaveImageWritten s
  | .dumpStart => Sys2Proof.Machine.execDumpStart s
  | .dumpComplete => Sys2Proof.Machine.execDumpComplete s
  | .teardownComplete => Sys2Proof.Machine.execTeardownComplete s
  | .loadChecksComplete => Sys2Proof.Machine.execLoadChecksComplete s
  | .hostAppend => Sys2Proof.Machine.execHostAppend s
  | .queueStorageEcc => Sys2Proof.Machine.execQueueStorageEcc s
  | .stageLaunchAppend => Sys2Proof.Machine.execStageLaunchAppend s
  | .mergeComplete => Sys2Proof.Machine.execMergeComplete s
  | .ridFree => Sys2Proof.Machine.execRidFree s
  | .drainTokenEmerge => Sys2Proof.Machine.execDrainTokenEmerge s
  | .migrationComplete => Sys2Proof.Machine.execMigrationComplete s
  | .evictionComplete => Sys2Proof.Machine.execEvictionComplete s
  | .splitComplete => Sys2Proof.Machine.execSplitComplete s
  | .stationMarker => Sys2Proof.Machine.execStationMarker s
  | .logDrain => Sys2Proof.Machine.execLogDrain s
  | .timePacket => Sys2Proof.Machine.execTimePacket s
  | .lifetimeRecordWrite => Sys2Proof.Machine.execLifetimeRecordWrite s
  | .flitReceive => Sys2Proof.Machine.execFlitReceive s
  | .portTrainingDone => Sys2Proof.Machine.execPortTrainingDone s
  | .laneErrorDegrade => Sys2Proof.Machine.execLaneErrorDegrade s
  | .portEnable => Sys2Proof.Machine.execPortEnable s
  | .portDisable => Sys2Proof.Machine.execPortDisable s
  | .isolate => Sys2Proof.Machine.execIsolate s
  | .release => Sys2Proof.Machine.execRelease s
  | .linkTimeout => Sys2Proof.Machine.execLinkTimeout s
  | .ptpSync => Sys2Proof.Machine.execPtpSync s
  | .cxlSnoop => Sys2Proof.Machine.execCxlSnoop s
  | .hostCxlMemWrite => Sys2Proof.Machine.execHostCxlMemWrite s
  | .hostCxlMemRead => Sys2Proof.Machine.execHostCxlMemRead s
  | .backInvalidateComplete => Sys2Proof.Machine.execBackInvalidateComplete s
  | .imeasSample => Sys2Proof.Machine.execImeasSample s
  | .voltageDroop => Sys2Proof.Machine.execVoltageDroop s
  | .pllLock => Sys2Proof.Machine.execPllLock s
  | .thermalTrip => Sys2Proof.Machine.execThermalTrip s
  | .powerOn => Sys2Proof.Machine.execPowerOn s
  | .bringupStepComplete => Sys2Proof.Machine.execBringupStepComplete s
  | .bringupTimeout => Sys2Proof.Machine.execBringupTimeout s
  | .powerDown => Sys2Proof.Machine.execPowerDown s
  | .getVersion => Sys2Proof.Machine.execGetVersion s
  | .getCapabilities => Sys2Proof.Machine.execGetCapabilities s
  | .negotiateAlgorithms => Sys2Proof.Machine.execNegotiateAlgorithms s
  | .getDigests => Sys2Proof.Machine.execGetDigests s
  | .getCertificate => Sys2Proof.Machine.execGetCertificate s
  | .challenge => Sys2Proof.Machine.execChallenge s
  | .getMeasurements => Sys2Proof.Machine.execGetMeasurements s
  | .spdmUnsupportedRequest => Sys2Proof.Machine.execSpdmUnsupportedRequest s
  | .islIlimWrite => Sys2Proof.Machine.execIslIlimWrite s
  | .islImeasRead => Sys2Proof.Machine.execIslImeasRead s
  | .reqHeadWrite => Sys2Proof.Machine.execReqHeadWrite s
  | .mgmtRegisterWrite => Sys2Proof.Machine.execMgmtRegisterWrite s
  | .partialApertureWrite => Sys2Proof.Machine.execPartialApertureWrite s
  | .enginePageWait => Sys2Proof.Machine.execEnginePageWait s

end Sys2Proof.Machine
end

