-- ==== Sys2Proof/Machine/Sched.lean ====
section
/-!
DEFINITION. What happens next (log 3). The agenda says what the outside world does and when; with an empty agenda the device goes
on by itself: a cycle passes, what follows at once is settled, and one of the rows of the opcode table that can happen does.
Which one is open: a free value chooses (log 6).
-/

namespace Sys2Proof.Machine

/-! ### Time -/

/-- Nanoseconds times 6·10^6 that a cycle of 1.2 GHz takes, with the slew of the nanosecond counter in ppm (18 R484). -/
def Dev.nsRate (d : Dev) : Nat := (5000000 + 6 * d.slew).toNat
/-- Cycles pass: the nanosecond counter stands still before bring-up step 2 (23 R516); the watchdog of an instance does not count
while a matrix step of it runs (02 R29). Matrix steps that what came before has made eligible take their place in line (07 R198). -/
def Dev.pass (d : Dev) (bstep dt : Nat) : Dev :=
  let k := d.nsRate
  let ns := if bstep ≤ 1 then 0 else k * (d.cycle + dt) / 6000000 - k * d.cycle / 6000000
  let d := d.markSteps
  { d with cycle := d.cycle + dt, now := d.now + ns,
           insts := d.insts.map (fun p => if p.2.running then (p.1, { p.2 with since := p.2.since + dt }) else p) }

/-! ### What follows at once -/

/-- Instances that have become whole are COMPLETE (02 R27). -/
def Dev.markComplete (d : Dev) : Dev :=
  { d with insts := d.insts.map (fun p => if p.2.st = .firing ∧ p.2.whole = true then (p.1, { p.2 with st := .complete }) else p) }
/-- Phase records of released planes go to the traces of their contexts (19 R490). -/
def W.tracePhases (w : W) : W :=
  w.d.grids.foldl (fun (w : W) g =>
    if g.2.phases.isEmpty then w
    else
      let w := { w with d := w.d.modGrid g.1 (fun gr => { gr with phases := [] }) }
      match w.d.ownerOf g.1 with
      | some c => g.2.phases.foldl (fun (w : W) l => w.phaseRecord c g.1 l) w
      | none => w) w
/-- Spans of 256 bytes of an open write stream that are full, and whatever a closed one still holds, leave its buffer (08 R240). -/
def W.retryBuffers (w : W) : W :=
  w.d.threads.foldl (fun (w : W) t => t.2.streams.foldl (fun (w : W) s =>
    if s.2.buffer.isEmpty then w
    else
      let full := fun (k : Nat) => (s.2.buffer.filter (fun b => b.1 / 256 == k)).length == 256
      let asked := w.d.preqs.any (fun r => r.who.contains (.burst t.1 s.1))
      if asked then w
      else if s.2.isOpen then (if s.2.buffer.any (fun b => full (b.1 / 256)) then w.flushBytes t.1 s.1 (fun b => full (b.1 / 256)) else w)
      else w.flushStream t.1 s.1) w) w
/-- Pages that the device itself serves (15 R417). -/
def W.serveAll (w : W) : W := (w.d.preqs.filter (fun r => !r.host)).foldl (fun (w : W) r => w.serve r) w
/-- Kernels with nothing left to run (11 R325). -/
def W.settleKernels (w : W) : W :=
  w.d.ctxs.foldl (fun (w : W) c => c.2.kernels.foldl (fun (w : W) k => w.settleKernel c.1 k.1) w) w
/-- Copies that move a piece. -/
def W.moveCopies (w : W) : W := w.d.copies.foldl (fun (w : W) c => w.copyMove c) w
/-- Threads whose argument area is still to be read (13 R382). -/
def W.startThreads (w : W) : W :=
  w.d.threads.foldl (fun (w : W) t =>
    if t.2.argLoad && t.2.st == .fetch && !t.2.ended && t.2.rcd.isNone && (w.d.ctx t.2.ctx).st == .running then w.startLoad t.1 else w) w
/-- Faults that oldest instances hold are raised (02 R27). -/
def W.raiseAll (w : W) : W := w.d.insts.foldl (fun (w : W) p => if p.2.pend.isSome && !p.2.dying then w.raise p.1 else w) w
/-- Everything that follows at once. -/
def W.settleAll (w : W) : W :=
  let w := w.settleLocks
  let w := { w with d := w.d.settleQueues.settleSets }
  let w := w.settlePages.serveAll.settleKernels
  let w := w.moveCopies.startThreads
  let w := { w with d := w.d.markComplete }
  w.raiseAll.tracePhases.retryBuffers.raiseHeld

/-! ### What can happen -/

/-- A row of the table with its subject. -/
def act (i : Instr) (a b c : Nat) : Act := .ev i { a := a, b := b, c := c }
/-- Events without a subject. -/
def plainActs : List Act :=
  [act .releasePerform 0 0 0, act .scratchpadStoreArrival 0 0 0, act .streamHandover 0 0 0, act .ldfwdReplyDelivery 0 0 0,
   act .copyCompletion 0 0 0, act .enginePageWait 0 0 0, act .shadowPublication 0 0 0, act .collectiveCompletion 0 0 0,
   act .barrierEngineArrival 0 0 0, act .dumpStart 0 0 0, act .dumpComplete 0 0 0, act .linkTimeout 0 0 0]
/-- What can happen to an instance: its slots fire, its matrix steps go on, it is fetched, placed, committed. -/
def Dev.instActs (d : Dev) (iid : Nat) (x : Inst) : List Act :=
  let fires := match x.code with
    | some b => (b.slots.filter (fun s => (d.ready iid s.1).isSome)).map (fun s => Act.fire iid s.1)
    | none => []
  let steps := x.msteps.flatMap (fun m => [act .matrixStepStart iid m.idx 0, act .matrixStepFinish iid m.idx 0,
    act .wbloadStepStart iid m.idx 0, act .pairMultiplyPhase iid m.idx 0, act .pairAccumulatePhase iid m.idx 0])
  let atomics := x.effs.map (fun e => act .atomicEarlyPerform iid e.2.1 0)
  let own := match x.st with
    | .fetching => [act .fetchComplete iid 0 0]
    | .placing => [act .instancePlace iid 0 0]
    | .flushed => []
    | _ => [act .blockCommit iid 0 0, act .exitMispredict iid 0 0, act .watchdogExpiry iid 0 0]
  own ++ fires ++ steps ++ atomics
/-- What can happen to a thread: slot events, mail; a fetch that follows a prediction for it. -/
def Dev.threadActs (d : Dev) (tid : Nat) (t : Thread) : List Act :=
  let guess := match d.youngest tid with
    | some (_, x) =>
      (match x.code with
        | some b => if t.next.isNone && x.exit.isNone && x.predicted.isNone then
            (List.range (b.exitMax + 1)).map (fun n => act .fetchOpportunity t.nextGrid (n + 1) tid) else []
        | none => [])
    | none => []
  let sets := if d.slotDisabled t then (d.displaceSets tid t).map (fun p => act .displacedMove tid (p.1 + 1) 0) else []
  [act .slotWaitEntry tid 0 0, act .slotRetention tid 0 0, act .displacedMove tid 0 0] ++ sets ++
    (t.mboxes.map (fun m => act .mailboxDelivery tid m.1 0)) ++ guess
/-- What can happen on a grid. -/
def gridActs (g : Nat) : List Act :=
  [act .fetchOpportunity g 0 0, act .overflowReinject g 0 0, act .predictorEntryClear g 0 0, act .timePacket g 0 0]
/-- What can happen in a field. -/
def Dev.fieldActs (d : Dev) (f : Nat) : List Act :=
  act .groupDispatch f 0 0 :: (d.field f).fills.map (fun q => act .fillDelivery f q.1 0)
/-- What can happen in a context. -/
def Ctx.acts (k : Ctx) (c : Nat) : List Act :=
  let removes := if k.handlerQ.isEmpty then (k.queues.filter (fun q => q.2.kind == 1)).map (fun q => act .dispatchRemove c q.1 0)
    else [act .dispatchRemove c handlerQueue 0]
  removes ++ k.kernels.map (fun n => act .loadChecksComplete c n.1 0) ++ k.sets.map (fun n => act .stageLaunchAppend c n.1 0) ++
    k.revs.map (fun n => act .ridFree c n.1 0) ++
    [act .gatingWindowEnd c 0 0, act .quiescenceSweep c 0 0, act .saveImageWritten c 0 0, act .teardownComplete c 0 0,
     act .mergeComplete c 0 0, act .stationMarker c 0 0, act .logDrain c 0 0]
/-- What can happen to a page command. -/
def PageCmd.acts (p : PageCmd) : List Act :=
  p.gens.map (fun n => act .drainTokenEmerge p.page n 0) ++
    [act .migrationComplete p.page 0 0, act .evictionComplete p.page 0 0, act .splitComplete p.page 0 0]
/-- Everything that may be able to happen. -/
def Dev.acts (d : Dev) : List Act :=
  d.insts.flatMap (fun p => d.instActs p.1 p.2) ++
    (List.range d.flight.length).map (fun k => act .tokenDelivery k 0 0) ++
    d.waits.flatMap (fun q => [act .waitLimitExpiry q.iid q.idx 0, act .steal q.iid q.idx 0]) ++
    d.grids.flatMap (fun g => gridActs g.1) ++
    d.threads.flatMap (fun p => d.threadActs p.1 p.2) ++
    (List.range Config.fields).flatMap d.fieldActs ++
    d.ctxs.flatMap (fun c => c.2.acts c.1) ++
    d.groups.flatMap (fun g => [act .groupLevelRise g.ctx g.gid 0, act .groupRetire g.ctx g.gid 0]) ++
    d.verifs.map (fun v => act .codePageVerification v.ctx v.kslot v.page) ++
    d.pcmds.flatMap PageCmd.acts ++ plainActs

/-! ### Doing it -/

/-- An instruction of an instance fires: the word of its slot is decoded and its meaning is taken (log 5). -/
def State.fireAt (s : State) (iid idx : Nat) : Host.Outcome State Fault Refusal :=
  match s.dev.inst iid with
  | none => .next s
  | some x =>
    match x.code with
    | none => .next s
    | some b =>
      match decodeWord (b.word idx) with
      | .ok i => exec i { s with dev := { s.dev with focus := some (iid, idx) } }
      | .err _ => .fault .undecodable
/-- The record of a host command; none for every other row. -/
def recordFor (i : Instr) : Option (BitVec 512) :=
  match encode i with
  | [a, b, c, d, e, f, g, h] => some (recordOf a b c d e f g h)
  | _ => none
/-- The context whose commands stand before and after a record (10 R284). -/
def recordCtx (r : BitVec 512) : Nat := (unpackCmd r).ctx.toNat
/-- A record that its context takes up now: nothing of the context is held for the end of a dump, or it is a KILL, which nothing holds
while its context is DUMPING (10 R284, R289). -/
def Ctx.takes (k : Ctx) (r : BitVec 512) : Bool := k.heldCmds.isEmpty || (k.st == .dumping && r.extractLsb' 0 8 == 0x0B#8)
/-- A row of the table happens. A command record posted before the device takes commands, or behind one of its context that
waits or is held, stands in line (10 R284-R285, 23 R516). -/
def State.happen (s : State) (i : Instr) (arg : EvArg) : Host.Outcome State Fault Refusal :=
  match recordFor i with
  | none => exec i { s with dev := { s.dev with arg := arg } }
  | some r =>
    let c := recordCtx r
    let k := s.dev.ctx c
    if s.mgmt.bstep = 11 ∧ k.takes r = true ∧ (k.posted = [] ∨ k.heldCmds ≠ []) then exec i { s with dev := { s.dev with arg := arg } }
    else .next { s with dev := s.dev.modCtx c (fun k => { k with posted := k.posted ++ [r] }) }
/-- One thing happens. -/
def State.perform (s : State) (a : Act) : Host.Outcome State Fault Refusal :=
  match a with
  | .fire iid idx => s.fireAt iid idx
  | .ev i arg => s.happen i arg
/-- The first record that waits in a context is taken up again. -/
def State.takePosted (s : State) (c : Nat) : Host.Outcome State Fault Refusal :=
  match (s.dev.ctx c).posted with
  | [] => .next s
  | r :: rest =>
    if !(s.dev.ctx c).takes r then .next s
    else
    let s' := { s with dev := s.dev.modCtx c (fun k => { k with posted := rest }) }
    match decodeRecord r with
    | .ok i => exec i s'
    | .err _ => .next s'

/-- The first of some possible steps that changes the machine; a fault counts as one. What the step fires and what its event is
about are no change. -/
def firstChange (s : State) : List (State → Host.Outcome State Fault Refusal) → Host.Outcome State Fault Refusal
  | [] => .next s
  | f :: r =>
    match f s with
    | .next t =>
      if { t.dev with focus := s.dev.focus, arg := s.dev.arg } = s.dev ∧ t.mem = s.mem ∧ t.mgmt = s.mgmt then firstChange s r else .next t
    | o => o
/-- A list with its first k elements at its end. -/
def rotate {α : Type} (l : List α) (k : Nat) : List α := l.drop (k % (l.length + 1)) ++ l.take (k % (l.length + 1))
/-- A cycle in which the outside world does nothing: what follows at once is settled, and one thing that can happen does. The
free value says where the choice among them begins. -/
def State.goOn (s : State) : Host.Outcome State Fault Refusal :=
  let d := s.dev.pass s.mgmt.bstep 1
  if s.mgmt.bstep ≠ 11 then .next { s with dev := d }
  else
    let r := d.fresh
    match run W.settleAll { s with dev := r.2 } with
    | .next s =>
      let here := s.dev.acts.map (fun a s => State.perform s a) ++ s.dev.ctxs.map (fun c s => State.takePosted s c.1)
      firstChange s (rotate here (r.1 + s.dev.cycle))
    | o => o
/-- One step: the head of the agenda, its time having come, or the device by itself. -/
def State.advance (s : State) : Host.Outcome State Fault Refusal :=
  match s.agenda with
  | [] => s.goOn
  | a :: rest => State.perform { s with dev := s.dev.pass s.mgmt.bstep a.dt, agenda := rest } a.act

/-! ### A program of one instruction, loaded from outside (log 4) -/

/-- A placed block whose slot 0 holds a word, with read entries for the operands that its instruction requires. -/
def probeBlock (w : Word) (ops : List Nat) : Block :=
  { hdw0 := BitVec.ofNat 64 (1 + 2 ^ 14 + ops.length * 2 ^ 16), hdw1 := 0#64,
    reads := ops.map (fun op => BitVec.ofNat 32 ((2 ^ 10 + op) * 2 ^ 12)), writes := [], exits := [], w240 := 0#64, w248 := 0#64,
    words := [w], memChunks := 1 }
/-- Operands of an instruction that must have a token: the required ones, and `p` under a predicate. -/
def probeOps (i : Instr) : List Nat := required i ++ (if prOf i = 0#2 then [] else [3])
/-- Tokens for them: zero; for `p` the value that lets the instruction fire. -/
def probeToks (i : Instr) : List (Nat × Nat × Tok) :=
  (probeOps i).map (fun op => (0, op, .val (if op = 3 ∧ prOf i = 1#2 then 1#512 else 0#512)))
/-- A thread of context 0 on grid 0 whose block instance is about to fire one instruction, which the agenda fires next. -/
def State.loadWord (s : State) (w : Word) : State :=
  let tid := s.dev.nextId
  let iid := s.dev.nextId + 1
  let i := (decodeWord w).toOption
  let code := probeBlock w (match i with | some i => probeOps i | none => [])
  let x : Inst := { thr := tid, grid := 0, st := .firing, seq := 1, blk := 0, code := some code, plane := some 0,
                    placement := iid, operands := match i with | some i => probeToks i | none => [] }
  let t : Thread := { ctx := 0, gid := 0, tnum := 0, st := .run, first := 0, width := 1, slots := [(0, 0)], regCnt := 128,
                      next := none, seq := 1 }
  let g : Group := { ctx := 0, gid := 0, st := .running, rcd := 0#512, queue := none, qhandle := 0#64, order := 0, rev := 0,
                     since := 0, level := 0, threads := [tid], live := 1 }
  let k := { s.dev.ctx 0 with st := .running }
  { s with
    dev := { s.dev with nextId := iid + 1, threads := (tid, t) :: s.dev.threads, insts := (iid, x) :: s.dev.insts,
                        groups := g :: s.dev.groups, ctxs := s.dev.ctxs.set 0 k, grids := s.dev.grids.set 0 { s.dev.grid 0 with stopAt := none } }
    agenda := [⟨0, .fire iid 0⟩] }
/-- A device that takes commands, with one command record to be performed next. -/
def State.loadRecord (s : State) (r : BitVec 512) : State :=
  let c := recordCtx r
  { s with
    mgmt := { s.mgmt with bstep := 11 }
    dev := { s.dev with ctxs := s.dev.ctxs.set c { s.dev.ctx c with posted := [], heldCmds := [] } }
    agenda := match (decodeRecord r).toOption with
      | some i => [⟨0, .ev i {}⟩]
      | none => [] }
/-- A program of one instruction: a word of 64 bits, or a command record of 512. -/
def State.loadProgram (s : State) (nbits w : Nat) : State :=
  if nbits ≤ 64 then s.loadWord (BitVec.ofNat 64 w) else s.loadRecord (BitVec.ofNat 512 w)

end Sys2Proof.Machine
end

