-- ==== Sys2Proof/Machine/Step.lean ====
section
/-!
DEFINITION. One step of the machine, and a state whose next step runs a given instruction.
-/

namespace Sys2Proof.Machine

/-- One step (log 3): the head of the agenda, or what the device does by itself. -/
def step (s : State) : Host.Outcome State Fault Refusal := s.advance

/-- The state whose next step runs the instruction of some bits (log 4): a program of one instruction loaded from outside. -/
def State.withFetchWord (s : State) (nbits w : Nat) : State := s.loadProgram nbits w

end Sys2Proof.Machine
end

