-- ==== Sys2Proof/Safety.lean ====
section
/-!
DEFINITION. What counts as a safe run: the memory stays canonical (and no step stops; see `Machine.Fault`).
-/

namespace Sys2Proof.Safety

/-- Memory is in its canonical form. -/
def MemOk (s : Machine.State) : Prop := Machine.Memory.wf s.mem = true

end Sys2Proof.Safety
end

