-- ==== Sys2Proof/WellFormed.lean ====
section
/-!
DEFINITION. When an instruction of the set is well formed by itself: the checks 10 to 13 and 15 of 04 R109 that need
nothing but its own word. The checks that need the block, the kernel or the context are those of placement.
-/

namespace Sys2Proof

/-- Stage 0 to 5 (check 10, placed form), PR not 11 (check 11), fields (check 12), targets (check 13), stage class
(check 15). A command record is well formed when it is a record; an event always is. -/
def Instr.wf (i : Instr) : Bool :=
  decide ((Machine.stgOf i).toNat ≤ 5) && Machine.prOf i != 3#2 && Machine.fieldsOk i && Machine.targetsOk i &&
    Machine.stageOk i

end Sys2Proof
end

