-- ==== Sys2Proof/Certificates/Slice0/Obligations.lean ====
section
/-!
DEFINITION. The statements of slice 0, and the few definitions of their own that they speak in. Each docstring names the rules
of spec/ that its statement rests on; where a clause rests on a choice of the model, the docstring names the log entry.
-/

namespace Sys2Proof.Claims

open Sys2Proof.Machine

/-! ### Firing (04 R91) -/

/-- Slot `c` is the one that the step fires; its predicate lets it operate, and no null stands at `a`, `b` or `c`. -/
def Fires (pr : BitVec 2) (s : State) (c : Firing) : Prop :=
  s.dev.firing = some c ∧ c.ops.holds pr = true ∧ c.ops.anyNull = false

/-- The tokens of a firing on their way: one for each target that is not of kind 00 (04 R89). -/
def inFlight (c : Firing) (toks : List (Target × Tok)) : List Flight :=
  (toks.filter (fun p => tgtKind p.1 != 0)).map (fun p => { iid := c.iid, src := some c.idx, tgt := p.1, tok := p.2 })

/-- The state after slot `c` has fired, has raised flags in its instance and has sent tokens. Everything else is as before. -/
def sent (s : State) (c : Firing) (toks : List (Target × Tok)) (fl : BitVec 6 := 0#6) : State :=
  { s with dev := { s.dev with
      insts := s.dev.insts.set c.iid { c.x with fired := c.idx :: c.x.fired, flags := c.x.flags ||| fl }
      flight := s.dev.flight ++ inFlight c toks } }

/-- One value for both targets of a word of format G (05 R120). -/
def toBoth (f : FmtG) (v : Vec) : List (Target × Tok) := [(f.t0, .val v), (f.t1, .val v)]

/-! ### Lanes (03 R54) -/

/-- Lane k of width n: bits [n · k + n − 1 : n · k]. -/
def elem (n : Nat) (v : Vec) (k : Nat) : BitVec n := v.extractLsb' (n * k) n

/-- Lane k of operand `b`, or the immediate, sign-extended (05 R121). -/
def immOr (f : FmtG) (n : Nat) (b : Vec) (k : Nat) : BitVec n :=
  if immB f then (f.x.extractLsb' 0 16).signExtend n else elem n b k

/-- The count of a shift: the unsigned lane of `b`, or X[6:0] (05 R124). -/
def countOf (f : FmtG) (n : Nat) (b : Vec) (k : Nat) : Nat :=
  if immB f then (f.x.extractLsb' 0 7).toNat else (elem n b k).toNat

/-- A lane as the number that its type gives it (03 R54). -/
def value (ty : BitVec 4) {n : Nat} (a : BitVec n) : Int := if signedTy ty then a.toInt else a.toNat

/-- An integer as the nearest one in the range of a type of n bits (03 R68). -/
def clampTo (ty : BitVec 4) (n : Nat) (z : Int) : Int :=
  if signedTy ty then max (-2 ^ (n - 1)) (min (2 ^ (n - 1) - 1) z) else max 0 (min (2 ^ n - 1) z)

/-- An instruction of format G that fires sends one value to T0 and T1, raises no flag, and lane k of the value is what `g` says
of the operands, for every k below 512 / n, where n is the width of TY. -/
def LaneOp (i : FmtG → Instr) (g : FmtG → Opnds → (n : Nat) → Nat → BitVec n) : Prop :=
  ∀ (f : FmtG) (s : State) (c : Firing), Fires f.pr s c → ∃ v : Vec,
    exec (i f) s = .next (sent s c (toBoth f v)) ∧ ∀ k < 512 / tyBits f.ty, elem (tyBits f.ty) v k = g f c.ops (tyBits f.ty) k

end Sys2Proof.Claims

open Sys2Proof Sys2Proof.Machine Sys2Proof.Claims

/-! ### Integer and address arithmetic (05 R123-R127) -/

/-! ### Compare, select, moves (05 R128-R144) -/

namespace Sys2Proof.Claims

/-- The conditions of `cmp` by code (05 R128). -/
def condition : Nat → Int → Int → Bool
  | 0, a, b => decide (a = b)
  | 1, a, b => decide (a ≠ b)
  | 2, a, b => decide (a < b)
  | 3, a, b => decide (a ≤ b)
  | 4, a, b => decide (a > b)
  | _, a, b => decide (a ≥ b)

/-- An instruction of format G that fires sends one predicate token to T0 and T1 and raises no flag: its bit k is what `g` says,
for k below 512 / n, and the bits above that count are clear (05 R128). -/
def PredOp (i : FmtG → Instr) (g : FmtG → Opnds → (n : Nat) → Nat → Bool) : Prop :=
  ∀ (f : FmtG) (s : State) (c : Firing), Fires f.pr s c → ∃ v : Vec,
    exec (i f) s = .next (sent s c (toBoth f v)) ∧
    ∀ k < 512, v.getLsbD k = (decide (k < 512 / tyBits f.ty) && g f c.ops (tyBits f.ty) k)

/-- The lane index of a lane move: X[5:0], or lane 0 of an operand modulo the lane count (05 R138). -/
def indexOf (f : FmtG) (v : Vec) : Nat :=
  if immB f then (f.x.extractLsb' 0 6).toNat else (elem (tyBits f.ty) v 0).toNat % (512 / tyBits f.ty)

/-- The generator's next state (05 R142). -/
def nextPrng (p : Word) : Word :=
  let p := p ^^^ (p <<< 13)
  let p := p ^^^ (p >>> 7)
  p ^^^ (p <<< 17)

/-- What `getsr` reads of thread u, which stands on core grid 0 with slot `slot` (05 R140), for the registers of the table. -/
def srValue (s : State) (u : Thread) (slot : Nat) : Nat → Option Word
  | 0x00 => some (BitVec.ofNat 64 u.tnum)
  | 0x01 => some (BitVec.ofNat 64 (u.gid % 2 ^ 32))
  | 0x02 => some (BitVec.ofNat 64 (u.ctx % 4096 + (s.dev.ctx u.ctx).gen.toNat * 2 ^ 16))
  | 0x03 => some (BitVec.ofNat 64 u.first)
  | 0x04 => some (BitVec.ofNat 64 u.width)
  | 0x05 => some (BitVec.ofNat 64 slot)
  | 0x06 => some (BitVec.ofNat 64 s.dev.now)
  | 0x07 => some (BitVec.ofNat 64 (s.dev.cycle - (s.dev.field (u.first / 56)).lockAt))
  | 0x08 => some u.flags
  | 0x09 => some (BitVec.ofNat 64 (s.mgmt.ilim.get (u.first / 56) 1000 % 2 ^ 11))
  | 0x0A => some (BitVec.ofNat 64 (s.mgmt.imeas.get (u.first / 56) 0 % 2 ^ 11))
  | 0x0B => some (nextPrng u.prng)
  | 0x0C => some (BitVec.ofNat 64 (s.dev.ctx u.ctx).wdog)
  | 0x0D => some (if (s.dev.ctx u.ctx).undoEn then 1#64 else 0#64)
  | _ => none

/-- A slot with one more effect for the commit of its instance: it stands after every LSID, in the order of the indices. -/
def withEffects (c : Firing) (es : List Eff) : Firing :=
  { c with x := { c.x with effs := c.x.effs ++ es.map (fun e => (32 + c.idx, c.idx, e)) } }

/-- A fault is pending against an instance, which is flushed with everything it would have done (02 R27). -/
def Pending (t : State) (iid : Nat) (p : Pend) : Prop :=
  ∃ y, t.dev.inst iid = some y ∧ y.pend = some p ∧ y.st = .flushed ∧ y.effs = [] ∧ y.wr = []

/-- A fault of the instruction at an index: its location byte is the index. -/
def pendAt (c : Firing) (cause : Cause) (w2 w3 w4 : Nat) : Pend :=
  { cause := cause, loc := BitVec.ofNat 8 c.idx, w2 := BitVec.ofNat 64 w2, w3 := BitVec.ofNat 64 w3, w4 := BitVec.ofNat 64 w4 }

end Sys2Proof.Claims

/-! ### Exits and control (05 R145-R155) -/

namespace Sys2Proof.Claims

/-- What of a thread only a commit changes: registers, `flags`, `prng`, latches, tiles, counter units, core. -/
def archOf (u : Thread) : Tbl Vec × Word × Word × BitVec 16 × Tbl Tile × Tbl Counter × Nat × Nat :=
  (u.regs, u.flags, u.prng, u.latches, u.tiles, u.ctrs, u.first, u.width)

/-- The frame of a firing that does not commit anything: memory, the management registers, the agenda, every other instance,
contexts and grids are as before, and so is what of every thread only a commit changes. -/
def FiringFrame (s t : State) (iid : Nat) : Prop :=
  t.mem = s.mem ∧ t.mgmt = s.mgmt ∧ t.agenda = s.agenda ∧ t.dev.ctxs = s.dev.ctxs ∧ t.dev.grids = s.dev.grids ∧
  (∀ j, j ≠ iid → t.dev.inst j = s.dev.inst j) ∧ (∀ n, (t.dev.thr n).map archOf = (s.dev.thr n).map archOf)

/-- Exit `num` of slot c has fired with a successor: the instance holds it, keeps its own effects `es` for the commit, and the
tokens are sent. Where the instance is the youngest of its thread and nothing is predicted after it, fetch goes on at `next`. -/
def ExitTaken (s t : State) (c : Firing) (e : ExitFired) (es : List Eff) (toks : List (Target × Tok)) (next : Option Nat) : Prop :=
  FiringFrame s t c.iid ∧ t.dev.flight = s.dev.flight ++ inFlight c toks ∧
  (∃ y, t.dev.inst c.iid = some y ∧ y.exit = some e ∧ y.fired = c.idx :: c.x.fired ∧ y.flags = c.x.flags ∧
    y.effs = (withEffects c es).x.effs ∧ y.wr = c.x.wr ∧ y.accs = c.x.accs ∧ y.st = c.x.st ∧ y.pend = c.x.pend) ∧
  ((s.dev.youngest c.x.thr).map Prod.fst = some c.iid → c.x.predicted = none → ∀ u, s.dev.thr c.x.thr = some u →
    ∃ u', t.dev.thr c.x.thr = some u' ∧ u'.next = next)

/-- An exit that leads to own block address + 256 × OFFS modulo 2^57 (05 R145). -/
def directExit (c : Firing) (offs : BitVec 34) : Nat := (((c.x.blk : Int) + 256 * offs.toInt) % 2 ^ 57).toNat
/-- The first 256-byte boundary after the last chunk of the block as it stands in memory (05 R146). -/
def afterBlock (c : Firing) : Word := BitVec.ofNat 64 (c.x.blk + 256 * (2 + (c.code.memChunks - 1) / 2))
/-- A word in every n64 lane. -/
def everyLane (w : Word) : Vec := w ++ w ++ w ++ w ++ w ++ w ++ w ++ w
/-- Lane 0 of `a` as n64. -/
def argA (c : Firing) : Word := c.ops.va.extractLsb' 0 64
/-- An address that an indirect exit may lead to: bits [63:57] and [7:0] are zero (05 R145). -/
def exitable (a : Word) : Prop := a.extractLsb' 57 7 = 0#7 ∧ a.extractLsb' 0 8 = 0#8

end Sys2Proof.Claims

namespace Sys2Proof.Claims

/-- The effects of an instance that are not replay events (19 R503). -/
def plainEffs (l : List (Nat × Nat × Eff)) : List (Nat × Nat × Eff) :=
  l.filter (fun e => match e.2.2 with | .event _ _ _ => false | _ => true)

/-- The context of a thread does not replay a recording (19 R504). -/
def Live (s : State) (u : Thread) : Prop := (s.dev.ctx u.ctx).recd.armed = false ∨ (s.dev.ctx u.ctx).recd.mode ≠ 2

/-- Slot c has fired, leaves `es` for the commit (and replay events, where the context records), has sent tokens, and waits no
more. -/
def Answered (s t : State) (c : Firing) (es : List Eff) (toks : List (Target × Tok)) : Prop :=
  FiringFrame s t c.iid ∧ t.dev.flight = s.dev.flight ++ inFlight c toks ∧
  (∃ y, t.dev.inst c.iid = some y ∧ y.fired = c.idx :: c.x.fired ∧ y.flags = c.x.flags ∧ y.wr = c.x.wr ∧ y.accs = c.x.accs ∧
    y.exit = c.x.exit ∧ y.pend = c.x.pend ∧ y.st = c.x.st ∧
    plainEffs y.effs = plainEffs c.x.effs ++ es.map (fun e => (32 + c.idx, c.idx, e)))

/-- Slot c begins to wait with a limit in cycles (04 R99); nothing else changes. -/
def beginsWait (s : State) (c : Firing) (limit : BitVec 12) (key : Nat × Word) : State :=
  { s with dev := { s.dev with waits := s.dev.waits ++
      [⟨c.iid, c.idx, s.dev.cycle,
        if limit = 0xFFF#12 then none else some ((limit.extractLsb' 0 8).toNat * 4 ^ (limit.extractLsb' 8 4).toNat), false, key⟩] } }

/-- A LIMIT that polls once (04 R99). -/
def polls (limit : BitVec 12) : Prop := limit ≠ 0xFFF#12 ∧ limit.extractLsb' 0 8 = 0#8

/-- Slot c has not begun to wait, and its thread keeps no rest of a wait from a save image. -/
def Fresh (s : State) (c : Firing) (u : Thread) : Prop := s.dev.waitAt c.iid c.idx = none ∧ u.waitLeft = none

/-- A status in every n64 lane for T0 and T1. -/
def statuses (f : FmtQ) (n : Nat) : List (Target × Tok) :=
  [(f.t0, .val (everyLane (BitVec.ofNat 64 n))), (f.t1, .val (everyLane (BitVec.ofNat 64 n)))]

end Sys2Proof.Claims

/-- 05 R155, 04 R99, 12 R356: `compose` of the width that the core has, or with a core that qualifies in the order of 02 R43, sends
status 0 and eight predicate bits and keeps the core reserved until the commit; without one it waits up to LIMIT, or, polling,
sends status 1 and no predicate bit. -/
def Obligations.ComposeReserves : Prop :=
  ∀ (f : FmtQ) (s : State) (c : Firing) (u : Thread), Fires f.pr s c → s.dev.thr c.x.thr = some u → Live s u →
    let w := 2 ^ (f.imm.extractLsb' 0 3).toNat
    let good := [(f.t0, Tok.val (everyLane 0#64)), (f.t1, Tok.val 255#512)]
    (w = u.width → ∃ t, exec (.compose f) s = .next t ∧ Answered s t c [] good) ∧
    (w ≠ u.width → ∀ first slots, s.dev.newCore c.x.thr u w = some (first, slots) →
      ∃ t, exec (.compose f) s = .next t ∧ Answered s t c [.compose first w slots] good) ∧
    (w ≠ u.width → s.dev.newCore c.x.thr u w = none → Fresh s c u →
      (polls f.limit → ∃ t, exec (.compose f) s = .next t ∧
        Answered s t c [] [(f.t0, .val (everyLane 1#64)), (f.t1, .val 0#512)]) ∧
      (¬polls f.limit → exec (.compose f) s = .next (beginsWait s c f.limit (0x38, BitVec.ofNat 64 c.x.thr))))

/-! ### Floating point (03 R55-R79, 06 R157-R178) -/

namespace Sys2Proof.Claims

/-- The rational number of a finite value. -/
def ratOf : FVal → Option ℚ
  | .zero _ => some 0
  | .num s n d e => if n = 0 ∨ d = 0 then none else some ((if s then -1 else 1) * (n : ℚ) / d * (2 : ℚ) ^ e)
  | _ => none

/-- The rational number of a code of a float type. -/
def codeVal (ty : BitVec 4) (c : Nat) : Option ℚ := ratOf (decodeF ty c)

/-- ReadF of 06 R157 on a lane: decoded in the format of the prefix, or in TY; a subnormal read as zero by FZI; then scaled. -/
def readLane (f : FmtG) (pre : Option (BitVec 4 × Int)) (v : Vec) (k : Nat) : FVal :=
  let t := match pre with | some p => p.1 | none => f.ty
  let x := (elem (tyBits t) v k).toNat
  let r := if f.fzi = 1#1 ∧ isSubnormal t x then FVal.zero (decodeF t x).sign else decodeF t x
  match pre with | some p => r.scale p.2 | none => r

/-- The format-and-scale token at operand `f`. -/
def prefixOf (o : Opnds) : Option (BitVec 4 × Int) :=
  match o.f with
  | some (.fmt t e) => some (t, e.toInt)
  | _ => none

/-- A lane of a float result: rounded once to a type in the mode RM, its flags those of the computation and of the rounding. -/
def roundedTo (f : FmtG) (dt : BitVec 4) (r : FRes) : Nat × BitVec 6 :=
  let q := roundTo dt r.v (rmOf f.rm) (f.fzo == 1#1)
  (q.code, r.fl ||| q.flags)

/-- An instruction of format G that fires sends one value of lanes of type `dt` to T0 and T1; lane k is `g` rounded once, and the
flags of all lanes are raised (03 R61). -/
def FloatOp (i : FmtG → Instr) (ok : FmtG → Opnds → Prop) (dt : FmtG → BitVec 4) (g : FmtG → Opnds → Nat → FRes) : Prop :=
  ∀ (f : FmtG) (s : State) (c : Firing), Fires f.pr s c → ok f c.ops → ∃ (v : Vec) (fl : BitVec 6),
    exec (i f) s = .next (sent s c (toBoth f v) fl) ∧
    (∀ k < 512 / tyBits (dt f), elem (tyBits (dt f)) v k = BitVec.ofNat _ (roundedTo f (dt f) (g f c.ops k)).1) ∧
    (∀ b < 6, fl.getLsbD b = true ↔ ∃ k < 512 / tyBits (dt f), (roundedTo f (dt f) (g f c.ops k)).2.getLsbD b = true)

/-- The operands of an instruction that takes no prefix (06 R172). -/
def noPrefix (_ : FmtG) (o : Opnds) : Prop := o.f = none
/-- No condition. -/
def anyForm (_ : FmtG) (_ : Opnds) : Prop := True
/-- A lane of `a`, `b` or `c` without the prefix, and of `a` or `b` with it. -/
def fa (f : FmtG) (o : Opnds) (k : Nat) : FVal := readLane f none o.va k
def fb (f : FmtG) (o : Opnds) (k : Nat) : FVal := readLane f none o.vb k
def fc (f : FmtG) (o : Opnds) (k : Nat) : FVal := readLane f none o.vc k
def pa (f : FmtG) (o : Opnds) (k : Nat) : FVal := readLane f (prefixOf o) o.va k
def pb (f : FmtG) (o : Opnds) (k : Nat) : FVal := readLane f (prefixOf o) o.vb k

/-- An operation on the sign of `a` (06 R164): a NaN gives the canonical NaN, and a signalling NaN among `vs` raises NV. -/
def withSign (vs : List FVal) (a : FVal) (s : Bool) : FRes := ⟨if a.isNan then .nan false else a.setSign s, snanFlag vs⟩

/-- The exponent of `fscale` (06 R167): a lane of `b`, signed, or X[15:0], clamped to ±2^20. -/
def scaleBy (f : FmtG) (b : Vec) (k : Nat) : Int :=
  max (-(2 ^ 20)) (min (2 ^ 20) (if immB f then (f.x.extractLsb' 0 16).toInt else (elem (tyBits f.ty) b k).toInt))

end Sys2Proof.Claims

/-- 06 R157, R159, R161-R167, 03 R61, R67: the lanes of the floating operations, each computed exactly and rounded once, and the
flags of all lanes. The prefix acts on `a` and `b` of `fadd` to `fnma` only (06 R172). -/
def Obligations.FloatLanes : Prop :=
  FloatOp .fadd anyForm (·.ty) (fun f o k => fAdd (rmOf f.rm) (pa f o k) (pb f o k)) ∧
  FloatOp .fsub anyForm (·.ty) (fun f o k => fAdd (rmOf f.rm) (pa f o k) (pb f o k).neg) ∧
  FloatOp .fmul anyForm (·.ty) (fun f o k => fMul (pa f o k) (pb f o k)) ∧
  FloatOp .fma anyForm (·.ty) (fun f o k => fFma (rmOf f.rm) (pa f o k) (pb f o k) (fc f o k)) ∧
  FloatOp .fms anyForm (·.ty) (fun f o k => fFma (rmOf f.rm) (pa f o k) (pb f o k) (fc f o k).neg) ∧
  FloatOp .fnma anyForm (·.ty) (fun f o k => fFma (rmOf f.rm) (pa f o k).neg (pb f o k) (fc f o k)) ∧
  FloatOp .fmin noPrefix (·.ty) (fun f o k => fMin (fa f o k) (fb f o k)) ∧
  FloatOp .fmax noPrefix (·.ty) (fun f o k => fMax (fa f o k) (fb f o k)) ∧
  FloatOp .fabs anyForm (·.ty) (fun f o k => withSign [fa f o k] (fa f o k) false) ∧
  FloatOp .fneg anyForm (·.ty) (fun f o k => withSign [fa f o k] (fa f o k) (!(fa f o k).sign)) ∧
  FloatOp .fcopysign anyForm (·.ty) (fun f o k =>
    withSign [fa f o k, fb f o k] (fa f o k) ((elem (tyBits f.ty) o.vb k).getLsbD (tyBits f.ty - 1))) ∧
  FloatOp .fdiv noPrefix (·.ty) (fun f o k => fDiv (fa f o k) (fb f o k)) ∧
  FloatOp .fsqrt anyForm (·.ty) (fun f o k => fSqrt (fa f o k)) ∧
  FloatOp .fclamp noPrefix (·.ty) (fun f o k =>
    let m := fMax (fa f o k) (fb f o k)
    let r := fMin m.v (fc f o k)
    ⟨r.v, m.fl ||| r.fl ||| snanFlag [fc f o k]⟩) ∧
  FloatOp .fscale anyForm (·.ty) (fun f o k => ⟨(fa f o k).scale (scaleBy f o.vb k), snanFlag [fa f o k]⟩)

/-- 03 R57, 06 R161, R163: on finite operands the operations before rounding are exact. Sums, products, quotients by a nonzero
value and comparisons are those of the rational numbers, and none of them raises a flag. -/
def Obligations.ExactArithmetic : Prop :=
  ∀ (rm : Rm) (x y z : FVal) (p q r : ℚ), ratOf x = some p → ratOf y = some q → ratOf z = some r →
    (ratOf (fAdd rm x y).v = some (p + q) ∧ (fAdd rm x y).fl = 0#6) ∧
    (ratOf (fMul x y).v = some (p * q) ∧ (fMul x y).fl = 0#6) ∧
    (ratOf (fFma rm x y z).v = some (p * q + r) ∧ (fFma rm x y z).fl = 0#6) ∧
    (q ≠ 0 → ratOf (fDiv x y).v = some (p / q) ∧ (fDiv x y).fl = 0#6) ∧
    (p ≠ 0 → q = 0 → fDiv x y = ⟨.inf (x.sign != y.sign), fDZ⟩) ∧
    (p = 0 → q = 0 → fDiv x y = ⟨.nan false, fNV⟩) ∧
    ratOf x.neg = some (-p) ∧
    (∀ k : Int, ratOf (x.scale k) = some (p * 2 ^ k)) ∧
    ratOf (fMin x y).v = some (min p q) ∧ ratOf (fMax x y).v = some (max p q) ∧
    (fCmp x y < 0 ↔ p < q) ∧ (fCmp x y = 0 ↔ p = q) ∧
    (p + q = 0 → p ≠ 0 → (fAdd rm x y).v = .zero (rm == .down)) ∧
    (p = 0 → q = 0 → x.sign ≠ y.sign → (fAdd rm x y).v = .zero (rm == .down)) ∧
    (p = 0 → q = 0 → x.sign = y.sign → (fAdd rm x y).v = .zero x.sign) ∧
    (p < 0 → fSqrt x = ⟨.nan false, fNV⟩)

/-- 06 R161, 03 R79: the transcendentals fire, and every lane is the value their procedure gives, rounded once; their special
inputs give the results of 03 R79. -/
def Obligations.Transcendentals : Prop :=
  FloatOp .frcp anyForm (·.ty) (fun f o k => fRcp (fa f o k)) ∧
  FloatOp .frsqrt anyForm (·.ty) (fun f o k => fRsqrt (fa f o k)) ∧
  FloatOp .fexp2 anyForm (·.ty) (fun f o k => fExp2 (fa f o k)) ∧
  FloatOp .flog2 anyForm (·.ty) (fun f o k => fLog2 (fa f o k)) ∧
  FloatOp .ftanh anyForm (·.ty) (fun f o k => fTanh (fa f o k)) ∧
  FloatOp .fsig anyForm (·.ty) (fun f o k => fSig (fa f o k)) ∧
  (∀ g ∈ [fRcp, fRsqrt, fExp2, fLog2, fTanh, fSig], ∀ q, g (.nan q) = ⟨.nan false, if q then fNV else 0#6⟩) ∧
  (∀ s, fRcp (.inf s) = ⟨.zero s, 0#6⟩ ∧ fRcp (.zero s) = ⟨.inf s, fDZ⟩ ∧ fRsqrt (.zero s) = ⟨.inf s, fDZ⟩ ∧
    fLog2 (.zero s) = ⟨.inf true, fDZ⟩ ∧ ratOf (fExp2 (.zero s)).v = some 1 ∧ fTanh (.zero s) = ⟨.zero s, 0#6⟩ ∧
    ratOf (fSig (.zero s)).v = some (1 / 2)) ∧
  fRsqrt (.inf false) = ⟨.zero false, 0#6⟩ ∧ fRsqrt (.inf true) = ⟨.nan false, fNV⟩ ∧
  fExp2 (.inf false) = ⟨.inf false, 0#6⟩ ∧ fExp2 (.inf true) = ⟨.zero false, 0#6⟩ ∧
  fLog2 (.inf false) = ⟨.inf false, 0#6⟩ ∧ fLog2 (.inf true) = ⟨.nan false, fNV⟩ ∧
  ratOf (fTanh (.inf false)).v = some 1 ∧ ratOf (fTanh (.inf true)).v = some (-1) ∧
  ratOf (fSig (.inf false)).v = some 1 ∧ fSig (.inf true) = ⟨.zero false, 0#6⟩ ∧
  (∀ x p, ratOf x = some p → p < 0 → fRsqrt x = ⟨.nan false, fNV⟩ ∧ fLog2 x = ⟨.nan false, fNV⟩)

namespace Sys2Proof.Claims

/-- The order and the equality of two values for `fcmp` (05 R129), by code; unordered where one is a NaN. -/
def floatCondition (code : Nat) (x y : FVal) : Bool :=
  let un := x.isNan || y.isNan
  match code with
  | 0 => !un && decide (fCmp x y = 0)
  | 1 => un || decide (fCmp x y ≠ 0)
  | 2 => !un && decide (fCmp x y < 0)
  | 3 => !un && decide (fCmp x y ≤ 0)
  | 4 => !un && decide (fCmp x y > 0)
  | 5 => !un && decide (fCmp x y ≥ 0)
  | 6 => un
  | _ => !un

/-- NV of `fcmp`: any NaN under the ordered codes 2 to 5, a signalling one under the others. -/
def floatInvalid (code : Nat) (x y : FVal) : Bool :=
  if 2 ≤ code ∧ code ≤ 5 then x.isNan || y.isNan else x.isSnan || y.isSnan

/-- The class of a lane (06 R168). -/
def laneClass (ty : BitVec 4) (x : Nat) : Nat :=
  match decodeF ty x with
  | .nan true => 0
  | .nan false => 1
  | .inf true => 2
  | .inf false => 9
  | .zero true => 5
  | .zero false => 6
  | .num true _ _ _ => if isSubnormal ty x then 4 else 3
  | .num false _ _ _ => if isSubnormal ty x then 7 else 8

/-- One converted lane with its overflow bit and flags, by the classes of the two types (06 R173). -/
def convertLane (f : FmtG) (dt : BitVec 4) (v : FVal) (z : Int) : Rounded :=
  let lo : Int := if signedTy dt then -(2 ^ (tyBits dt - 1)) else 0
  let hi : Int := if signedTy dt then 2 ^ (tyBits dt - 1) - 1 else 2 ^ tyBits dt - 1
  let whole : FVal := if z = 0 then .zero false else .num (decide (z < 0)) z.natAbs 1 0
  if 8 ≤ f.ty.toNat ∧ 8 ≤ dt.toNat then
    let q := roundTo dt v (rmOf f.rm) (f.fzo == 1#1)
    { q with flags := snanFlag [v] ||| q.flags }
  else if 8 ≤ f.ty.toNat then toIntType dt (rmOf f.rm) v
  else if 8 ≤ dt.toNat then roundTo dt whole (rmOf f.rm) (f.fzo == 1#1)
  else ⟨(BitVec.ofInt (tyBits dt) (max lo (min hi z))).toNat, decide (z < lo ∨ hi < z), 0#6⟩

/-- The source lane of destination lane k of a conversion (06 R173): when widening, lane PART · Ld + k; when narrowing, lane
k − PART · Ls of the part, and none outside it. -/
def sourceLane (ty dt : BitVec 4) (part k : Nat) : Option Nat :=
  let ls := 512 / tyBits ty
  let ld := 512 / tyBits dt
  if ld ≤ ls then some (part * ld + k) else if part * ls ≤ k ∧ k < part * ls + ls then some (k - part * ls) else none

/-- The converted lanes go to T0, zero where no lane is converted, the overflow bits as a predicate of the destination lanes to
T1, and the flags of all lanes are raised (06 R173, R175). -/
def Converts (s : State) (c : Firing) (i : Instr) (f : FmtG) (dt : BitVec 4) (g : Nat → Option Rounded) : Prop :=
  ∃ (v ov : Vec) (fl : BitVec 6), exec i s = .next (sent s c [(f.t0, .val v), (f.t1, .val ov)] fl) ∧
    (∀ k < 512 / tyBits dt, elem (tyBits dt) v k = BitVec.ofNat _ (((g k).map Rounded.code).getD 0)) ∧
    (∀ k < 512, ov.getLsbD k = (decide (k < 512 / tyBits dt) && ((g k).map Rounded.ov).getD false)) ∧
    (∀ b < 6, fl.getLsbD b = true ↔ ∃ k < 512 / tyBits dt, ((g k).map Rounded.flags).getD 0#6 |>.getLsbD b)

/-- The sum of a list of values, exactly, with the flags of its terms and of the sum; in the mode of the instruction. -/
def rationalSum (l : List (Option ℚ)) : Option ℚ := l.foldr (fun x acc => x.bind (fun p => acc.map (p + ·))) (some 0)

end Sys2Proof.Claims

/-! ### Cross-lane instructions (03 R71-R72, 06 R179-R186) -/

namespace Sys2Proof.Claims

/-- One combination of `red` and `scan` on two codes of TY (06 R182): its code and the flags of its rounding. -/
def combineCodes (f : FmtG) (x y : Nat) : Nat × BitVec 6 :=
  let n := tyBits f.ty
  let a := BitVec.ofNat n x
  let b := BitVec.ofNat n y
  let op := (f.x.extractLsb' 0 4).toNat
  if f.ty.toNat ≤ 7 then
    ((match op with
      | 0 => a + b
      | 1 => if value f.ty a ≤ value f.ty b then a else b
      | 2 => if value f.ty a ≤ value f.ty b then b else a
      | 3 => a &&& b
      | 4 => a ||| b
      | _ => a ^^^ b).toNat, 0#6)
  else
    roundedTo f f.ty (match op with
      | 0 => fAdd (rmOf f.rm) (decodeF f.ty x) (decodeF f.ty y)
      | 1 => fMin (decodeF f.ty x) (decodeF f.ty y)
      | _ => fMax (decodeF f.ty x) (decodeF f.ty y))

/-- Node k of a level of the pairwise tree over some inputs (03 R71). -/
def node (g : Nat → Nat → Nat) (x : Nat → Nat) : Nat → Nat → Nat
  | 0, k => x k
  | l + 1, k => g (node g x l (2 * k)) (node g x l (2 * k + 1))

/-- ScanLane (03 R72) from a level down: what is combined so far, and where the next node begins. -/
def scanFrom (g : Nat → Nat → Nat) (x : Nat → Nat) (j : Nat) : Nat → Nat → Option Nat → Option Nat
  | 0, base, acc =>
    if (j + 1) % 2 = 1 then some (match acc with | none => x base | some a => g a (x base)) else acc
  | l + 1, base, acc =>
    if (j + 1) / 2 ^ (l + 1) % 2 = 1 then
      let blk := node g x (l + 1) (base / 2 ^ (l + 1))
      scanFrom g x j l (base + 2 ^ (l + 1)) (some (match acc with | none => blk | some a => g a blk))
    else scanFrom g x j l base acc

/-- An input lane of `red` and `scan`: with FZI, a subnormal is read as the zero of its sign (06 R182). -/
def inputLane (f : FmtG) (v : Vec) (k : Nat) : Nat :=
  let x := elem (tyBits f.ty) v k
  if 8 ≤ f.ty.toNat ∧ f.fzi = 1#1 ∧ isSubnormal f.ty x.toNat then (if x.msb then 2 ^ (tyBits f.ty - 1) else 0) else x.toNat

/-- log2 of the lanes of a group: G, or one group of all lanes (06 R182). -/
def groupBits (f : FmtG) : Nat :=
  if f.x.extractLsb' 5 4 = 0#4 then Nat.log2 (512 / tyBits f.ty) else (f.x.extractLsb' 5 4).toNat

/-- The identity of an operation in TY (06 R182). -/
def identity (f : FmtG) : BitVec (tyBits f.ty) :=
  let n := tyBits f.ty
  let op := (f.x.extractLsb' 0 4).toNat
  if f.ty.toNat ≤ 7 then
    match op with
    | 0 => 0
    | 1 => BitVec.ofInt n (if signedTy f.ty then 2 ^ (n - 1) - 1 else 2 ^ n - 1)
    | 2 => BitVec.ofInt n (if signedTy f.ty then -(2 ^ (n - 1)) else 0)
    | 3 => BitVec.allOnes n
    | _ => 0
  else
    BitVec.ofNat n (roundTo f.ty (match op with | 0 => .zero true | 1 => .inf false | _ => .inf true) .near false).code

/-- The number of set bits of a mask below k. -/
def setBelow (v : Vec) (k : Nat) : Nat := (List.range k).countP (fun j => v.getLsbD j)

end Sys2Proof.Claims

/-! ### Loads (08 R224-R234, 09 R262-R269) -/

namespace Sys2Proof.Claims

/-- The address of a memory instruction: lane 0 of `a` plus the signed OFFS, modulo 2^64 (08 R224). -/
def addrOf (f : FmtM) (c : Firing) : Nat := ((((argA c).toNat : Int) + f.offs.toInt) % 2 ^ 64).toNat
/-- n addresses from one on. -/
def addrs (a n : Nat) : List Nat := (List.range n).map (fun i => a + i)
/-- Byte i of a token. -/
def byteAt (v : Vec) (i : Nat) : Byte := v.extractLsb' (8 * i) 8

/-- A load of LSID l may be performed: every store-class LSID below it is filled (02 R33), every acquire of lower LSID is done (09
R269), and where the dependence predictor names it, every older instance has filled its stores (02 R34); the thread's loads after a
join wait for its merge (16 R449). -/
def LoadReady (s : State) (c : Firing) (u : Thread) (l : Nat) : Prop :=
  (∀ k < l, c.code.storeMask.testBit k = true → k ∈ c.x.lsids) ∧
  (∀ q ∈ c.code.slots, ∀ k < l, lsidOf q.2 = some k → isAcquire q.2 = true → q.1 ∈ c.x.fired ∧ k ∉ c.x.acquires) ∧
  ((∃ e ∈ (s.dev.grid c.x.grid).pred, e.blk = c.x.blk ∧ e.lsid = l) → ∀ p ∈ s.dev.olderOf c.x, p.2.storesDone = true) ∧
  (∀ n, u.joinWait = some n → c.x.seq ≤ n)

/-- The state after slot c, a load of LSID l, has read some cells and sent tokens. `w` is what the reads leave: lines filled, cache
entries, and bytes of the host window that a full filter writes back (18 R475). -/
def performed (s : State) (w : W) (c : Firing) (l : Nat) (scr : Option Nat) (cs : List Host.Cell) (toks : List (Target × Tok)) : State :=
  { s with
    mem := s.mem.writeAll w.ov.reverse
    dev := { w.d with
      insts := w.d.insts.set c.iid { c.x with fired := c.idx :: c.x.fired, accs := c.x.accs ++ [⟨l, c.idx, cs, false, scr⟩] }
      flight := w.d.flight ++ inFlight c toks } }

/-- No younger instance of the thread has performed a load. -/
def NoYoungLoad (s : State) (c : Firing) : Prop :=
  ∀ q ∈ s.dev.insts, q.2.thr = c.x.thr → c.x.seq < q.2.seq → ∀ a ∈ q.2.accs, a.isStore = true

/-- An acquire at PACKAGE scope or wider reads past the unowned lines of its address in its grids (09 R269). -/
def pastUnowned (scope a : Nat) (u : Thread) (w : W) : W :=
  let d := w.d.dropUnowned u.grids (fun q => decide (a / 32 ≤ q.line ∧ q.line ≤ (a + 63) / 32))
  { w with d := if 2 ≤ scope then d else w.d }

/-- The reads of a gather: each active lane is checked and reads its element (08 R234). -/
def gathers (c : Firing) (u : Thread) (l n : Nat) (w : W) : List (Option Nat) → Option (List (List Host.Cell) × W)
  | [] => some ([], w)
  | none :: r => (gathers c u l n w r).map (fun q => ([] :: q.1, q.2))
  | some a :: r =>
    match w.check u rR a n n with
    | (.ok, w) =>
      if (w.deviceOrdered u a && !w.d.isOldest c.x) || c.x.owed c.code l (addrs a n) then none
      else
        match w.loadCells c.x u l (addrs a n) with
        | (.ok cs, w) => (gathers c u l n w r).map (fun q => (cs :: q.1, q.2))
        | _ => none
    | _ => none

/-- The lanes of `ldg` and `stg`: no address for a lane whose index is the least of its type (08 R234). -/
def laneAddr (f : FmtM) (c : Firing) (k : Nat) : Option Nat :=
  let n := tyBits f.ty
  let i := (elem n c.ops.vb k).toInt
  if i = -2 ^ (n - 1) then none else some ((((argA c).toNat : Int) + f.offs.toInt + i * (n / 8)) % 2 ^ 64).toNat

/-- A scratchpad address of n bytes in the window of a thread's group: reserved bits zero, CG below the width, the offset inside
`.scratch` (08 R220, R233). -/
def InWindow (s : State) (u : Thread) (a n : Nat) : Prop :=
  a < 2 ^ 28 ∧ a / 2 ^ 21 % 8 = 0 ∧ a / 2 ^ 24 % 16 < u.width ∧ a % 2 ^ 21 + n ≤ s.dev.scratchSize u
/-- Its grid, and the key of its first byte. -/
def spGridOf (u : Thread) (a : Nat) : Nat := u.first + a / 2 ^ 24 % 16
def spKeyOf (s : State) (u : Thread) (a : Nat) : Nat := spKey (spGridOf u a) (s.dev.window u + a % 2 ^ 21)
/-- A scratchpad byte as a load sees it: a forwarded store, a store of the thread on its way, the scratchpad (02 R33, 09 R280). -/
def spByte (s : State) (c : Firing) (u : Thread) (l a i : Nat) : Byte :=
  let k := spKeyOf s u a + i
  (s.dev.fwdByte c.x l (some (spGridOf u a)) k).getD
    ((cellAt ((s.dev.spStores.filter (fun q => q.thr == c.x.thr)).flatMap (fun q => q.bytes)) k).getD (s.mem.read k))

end Sys2Proof.Claims

/-- 08 R224, R229-R234, R258, R259, 02 R33, 09 R263, R269: a load that is not ready waits, and so does one that takes a byte from an
atomic of its own instance that is still to be performed; ready, and with its address checked, its pages and bytes there and no later
load contradicted, `ld`, `lda` (here with no younger load performed), `ldg` and `ldsp` send the bytes they read, lane k from its own
bytes, and record the access. An acquire at PACKAGE scope or wider drops unowned lines before and after. Bad bytes of the scratchpad
are DATA_ECC. -/
def Obligations.LoadsAnswer : Prop :=
  ∀ (f : FmtM) (s : State) (c : Firing) (u : Thread), Fires f.pr s c → s.dev.thr c.x.thr = some u →
    let l := f.lsid.toNat
    let a := addrOf f c
    let n := tyBits f.ty / 8
    let may := fun (w : W) => (w.deviceOrdered u a = false ∧ w.deviceOrdered u (a + 63) = false) ∨ w.d.isOldest c.x = true
    let owed := c.x.owed c.code l (addrs a 64)
    (¬LoadReady s c u l → ∀ i ∈ ([.ld, .lda, .ldg, .ldsp] : List (FmtM → Instr)), exec (i f) s = .next s) ∧
    (LoadReady s c u l →
      (∀ w w' cs, s.toW.check u rR a 64 n = (.ok, w) → may w → owed = false → w.loadCells c.x u l (addrs a 64) = (.ok cs, w') →
        w'.d.incoherent c.x l none cs = none →
        ∃ v : Vec, exec (.ld f) s = .next (performed s w' c l none cs [(f.t0, .val v)]) ∧
          ∀ i < 64, byteAt v i = (cs.getD i (0, 0#8)).2) ∧
      (∀ w, s.toW.check u rR a 64 n = (.ok, w) → owed = true → ∀ i ∈ ([.ld, .lda] : List (FmtM → Instr)),
        exec (i f) s = .next { s with dev := w.d }) ∧
      (∀ w w' cs, s.toW.check u rR a 64 n = (.ok, w) → may w → owed = false →
        let w0 := w.acquireLines u f.scope.toNat a 64
        ((∀ q, a / 32 ≤ q → q ≤ (a + 63) / 32 → w.isRemote (32 * q) = false) → w0 = pastUnowned f.scope.toNat a u w) ∧
        (w0.loadCells c.x u l (addrs a 64) = (.ok cs, w') → w'.d.incoherent c.x l none cs = none → NoYoungLoad s c →
        ∃ v : Vec, (∀ i < 64, byteAt v i = (cs.getD i (0, 0#8)).2) ∧
          (let p := performed s w' c l none cs [(f.t0, .val v)]
           exec (.lda f) s = .next { p with dev := p.dev.acquire f.scope.toNat u.grids (fun q => w'.isRemote (32 * q)) }))) ∧
      (∀ w' q, f.ty.toNat ≤ 11 → gathers c u l n s.toW ((List.range (512 / tyBits f.ty)).map (laneAddr f c)) = some (q, w') →
        w'.d.incoherent c.x l none q.flatten = none →
        ∃ v : Vec, exec (.ldg f) s = .next (performed s w' c l none q.flatten [(f.t0, .val v)]) ∧
          ∀ k < 512 / tyBits f.ty, elem (tyBits f.ty) v k = BitVec.ofNat _ (ofBytes ((q.getD k []).map Prod.snd))) ∧
      (a % n = 0 → InWindow s u a 64 → s.dev.stalled c.x (spKeyOf s u a) 64 = true → exec (.ldsp f) s = .next s) ∧
      (a % n = 0 → InWindow s u a 64 → s.dev.stalled c.x (spKeyOf s u a) 64 = false →
        (∃ p ∈ s.dev.poison, spKeyOf s u a ≤ p ∧ p < spKeyOf s u a + 64) → c.x.pend = none →
        ∃ t, exec (.ldsp f) s = .next t ∧ t.mem = s.mem ∧ Pending t c.iid (pendAt c .dataEcc a 0 0)) ∧
      (a % n = 0 → InWindow s u a 64 → s.dev.stalled c.x (spKeyOf s u a) 64 = false →
        (∀ p ∈ s.dev.poison, p < spKeyOf s u a ∨ spKeyOf s u a + 64 ≤ p) →
        (let cs := (List.range 64).map (fun i => ((spKeyOf s u a + i, spByte s c u l a i) : Host.Cell))
         s.dev.incoherent c.x l (some (spGridOf u a)) cs = none →
         ∃ v : Vec, exec (.ldsp f) s = .next (performed s s.toW c l (some (spGridOf u a)) cs [(f.t0, .val v)]) ∧
           ∀ i < 64, byteAt v i = spByte s c u l a i)))

/-! ### Stores, faults of accesses, cache control (08 R228-R234, R244-R246, 09 R268-R270) -/

namespace Sys2Proof.Claims

/-- The state after slot c of the store class has fired: its LSID is filled, its effects stand for the commit, its bytes are seen by
the loads of its thread. It sends nothing. -/
def stored (s : State) (d : Dev) (c : Firing) (l : Nat) (es : List Eff) (acc : List Access) (toks : List (Target × Tok)) : State :=
  { s with dev := { d with
      insts := d.insts.set c.iid { c.x with
        fired := c.idx :: c.x.fired, lsids := l :: c.x.lsids, effs := c.x.effs ++ es.map (fun e => (l, c.idx, e)), accs := c.x.accs ++ acc }
      flight := d.flight ++ inFlight c toks } }

/-- The cells of a store of a token at an address: all lanes, or those whose bit in the predicate token `c` is 1 (08 R233). -/
def laneCells (f : FmtM) (c : Firing) (a : Nat) : List Host.Cell :=
  ((List.range 64).filter (fun i => c.ops.c.isNone || c.ops.vc.getLsbD (i / (tyBits f.ty / 8)))).map
    (fun i => (a + i, byteAt c.ops.vb i))

/-- The checks of a scatter, lane after lane, and the cells that it writes (08 R234). -/
def scatters (f : FmtM) (c : Firing) (u : Thread) (w : W) : List Nat → Option (List Host.Cell × W)
  | [] => some ([], w)
  | k :: r =>
    match laneAddr f c k with
    | none => scatters f c u w r
    | some a =>
      let n := tyBits f.ty / 8
      match w.storeCheck c u a n n with
      | .ok w => (scatters f c u w r).map (fun q =>
          ((List.range n).map (fun i => (a + i, byteAt c.ops.vc (n * k + i))) ++ q.1, q.2))
      | .error _ => none

/-- The store class of format M. -/
def storesM : List (FmtM → Instr) := [.st, .stl, .stg, .stsp, .swrite, .scfg, .sclose, .ldfwd, .cwb, .cinv, .ashadow, .apubPublish, .apubDiscard]

end Sys2Proof.Claims

/-- 08 R244-R246, 09 R268-R270: `pref` sends nothing and faults on nothing; where the access is allowed and its page is neither
remote nor device-ordered, it reads the line to the L1 (TY 0) or the L2 (TY 1). A fence of KIND 1 waits for the loads before it, then
drops what its scope makes stale; KIND 2 leaves its release for the commit; KIND 3 waits to be oldest, for the loads before it and for
the homes of what it has to write, performs the releases and writes of the older instances, and then drops what its scope makes stale.
`cwb` and `cinv` leave their range for the
commit; a length outside 1 to 2^32 or a missing W right on the range is PROTECTION. -/
def Obligations.PrefetchAndFences : Prop :=
  ∀ (f : FmtM) (s : State) (c : Firing) (u : Thread), Fires f.pr s c → s.dev.thr c.x.thr = some u →
    let l := f.lsid.toNat
    let sc := f.scope.toNat
    let a := addrOf f c
    let len := c.ops.b0.toNat
    let fired := fun (w : W) => { s with
      mem := s.mem.writeAll w.ov.reverse
      dev := { w.d with insts := w.d.insts.set c.iid { c.x with fired := c.idx :: c.x.fired } } }
    let loadsBefore := c.x.loadsBelow c.code l = true ∧
      ∀ p ∈ s.dev.olderOf c.x, ∃ b, p.2.code = some b ∧ p.2.loadsBelow b 32 = true
    (2 ^ 57 ≤ a ∨ s.toW.isRemote a = true → exec (.pref f) s = .next (fired s.toW)) ∧
    (∀ w, a < 2 ^ 57 → s.toW.isRemote a = false → s.toW.check u rR a 1 1 = (.ok, w) → w.deviceOrdered u a = false → f.ty = 0#4 →
      exec (.pref f) s = .next (fired (w.l1Read u.ctx (w.d.rnumOf u) (u.accessGrid a) (a / 32)).2)) ∧
    (∀ w, a < 2 ^ 57 → s.toW.isRemote a = false → s.toW.check u rR a 1 1 = (.ok, w) → w.deviceOrdered u a = false → f.ty = 1#4 →
      exec (.pref f) s = .next (fired (w.home u.ctx (w.d.rnumOf u) (a / 32)).2)) ∧
    (∀ w q, a < 2 ^ 57 → s.toW.isRemote a = false → s.toW.check u rR a 1 1 = (q, w) → q ≠ .ok ∨ w.deviceOrdered u a = true →
      exec (.pref f) s = .next (fired w)) ∧
    (f.ty = 1#4 →
      (¬loadsBefore → exec (.fence f) s = .next s) ∧
      (loadsBefore → NoYoungLoad s c → exec (.fence f) s =
        .next (fired { s.toW with d := s.dev.acquire sc u.grids (fun q => s.toW.isRemote (32 * q)) }))) ∧
    (f.ty = 2#4 → l ∉ c.x.lsids → exec (.fence f) s = .next (stored s s.dev c l [.fence 2#4 sc] [] [])) ∧
    (f.ty = 3#4 → (s.dev.isOldest c.x = false ∨ ¬loadsBefore ∨ s.toW.relWaits sc u.grids = true) → exec (.fence f) s = .next s) ∧
    (f.ty = 3#4 → s.dev.isOldest c.x = true → loadsBefore → s.toW.relWaits sc u.grids = false → l ∉ c.x.lsids →
      ∃ t, exec (.fence f) s = .next t ∧ t.mem = s.mem.writeAll (s.toW.releaseNow c.x.thr u.ctx sc u.grids).ov.reverse ∧
        ∃ y, t.dev.inst c.iid = some y ∧ y.fired = c.idx :: c.x.fired ∧ y.lsids = l :: c.x.lsids ∧
          y.effs = c.x.effs ++ [(l, c.idx, .fence 3#4 sc)]) ∧
    (f.ty = 3#4 → s.dev.isOldest c.x = true → loadsBefore → sc = 1 → NoYoungLoad s c → l ∉ c.x.lsids →
      (∀ r ∈ s.dev.rels, r.thr ≠ c.x.thr ∧ ∀ g ∈ u.grids, g ∉ r.grids) →
      c.x.thr ∉ s.dev.spStores.map SpStore.thr → exec (.fence f) s = .next (stored s s.dev c l [.fence 3#4 sc] [] [])) ∧
    (0 < len → len ≤ 2 ^ 32 → a < 2 ^ 57 → s.toW.inDomain a = true → l ∉ c.x.lsids →
      ∀ w, s.toW.rightsAll u.first u.ctx 2 a len = (true, w) →
        exec (.cwb f) s = .next (stored s w.d c l [.cwb sc a len] [] []) ∧
        exec (.cinv f) s = .next (stored s w.d c l [.cinv sc a len] [] [])) ∧
    (len = 0 ∨ 2 ^ 32 < len ∨ (a < 2 ^ 57 ∧ (s.toW.rightsAll u.first u.ctx 2 a len).1 = false) → c.x.pend = none →
      ∀ i ∈ ([.cwb, .cinv] : List (FmtM → Instr)), ∃ t, exec (i f) s = .next t ∧ t.mem = s.mem ∧
        Pending t c.iid (pendAt c .protection a 1 0))

/-! ### Streams and forwarded loads (08 R235-R243) -/

namespace Sys2Proof.Claims

/-- The state after slot c has fired with effects of its own key for the commit; `w` is what its reads leave. -/
def after (s : State) (w : W) (c : Firing) (es : List (Nat × Nat × Eff)) (toks : List (Target × Tok)) : State :=
  { s with
    mem := s.mem.writeAll w.ov.reverse
    dev := { w.d with
      insts := w.d.insts.set c.iid { c.x with fired := c.idx :: c.x.fired, effs := c.x.effs ++ es }
      flight := w.d.flight ++ inFlight c toks } }

/-- The stream of a stream instruction is known: no older instance of the thread is unread, has still to fire an instruction on it,
or opens or closes it, and no hand-over of it is awaited; no lower LSID of its own instance has one to fire. `OFFS` names stream k. -/
def StreamKnown (s : State) (c : Firing) (u : Thread) (k l : Nat) : Prop :=
  s.dev.streamBusy c.x (streamKey c.x u k) = false ∧ c.x.streamBelow c.code k l = false

/-- A stream of a grid is OPEN for some thread, or waits for its hand-over, or is configured by an instance that has not committed
(08 R235, R237). -/
def Taken (s : State) (g k : Nat) : Prop :=
  (∃ p ∈ s.dev.threads, ∃ q ∈ p.2.streams, q.1 % 32 = k % 32 ∧ p.2.streamAt q.1 = g ∧ (q.2.isOpen = true ∨ q.2.configuring.isSome = true)) ∨
  (∃ p ∈ s.dev.insts, ∃ u, s.dev.thr p.2.thr = some u ∧ ∃ e ∈ p.2.effs, ∃ n d fr, e.2.2 = .scfg n d fr ∧ n % 32 = k % 32 ∧ u.streamAt n = g)

/-- The descriptor of `scfg` (08 R236). -/
def described (f : FmtM) (v : Vec) : StreamCfg :=
  let space := (f.offs.extractLsb' 6 2).toNat
  { ty := f.ty, write := f.offs.getLsbD 5, space := if space = 0 then .global else if space = 1 then .scratch else .port,
    base := (elem 64 v 0).toNat, count0 := (elem 32 v 2).toNat, count1 := (elem 32 v 3).toNat, count2 := (elem 32 v 4).toNat,
    stride0 := (elem 64 v 3).toInt, stride1 := (elem 64 v 4).toInt, stride2 := (elem 64 v 5).toInt }

/-- A descriptor that is valid by itself (08 R236, R237): counts from 1, reserved bits zero, base and strides multiples of the
element width; for a port, base and strides zero. -/
def ValidStream (f : FmtM) (v : Vec) : Prop :=
  let d := described f v
  d.count0 ≠ 0 ∧ d.count1 ≠ 0 ∧ d.count2 ≠ 0 ∧ elem 32 v 5 = 0#32 ∧ elem 64 v 6 = 0#64 ∧ elem 64 v 7 = 0#64 ∧
  (d.space = .port → d.base = 0 ∧ d.stride0 = 0 ∧ d.stride1 = 0 ∧ d.stride2 = 0) ∧
  (d.space ≠ .port → ∀ z ∈ [(d.base : Int), d.stride0, d.stride1, d.stride2], z % (tyBits f.ty / 8 : Nat) = 0)

/-- A destination of `ldfwd` that is valid (08 R243). -/
def ValidDest (s : State) (u : Thread) (b : Word) : Prop :=
  b.extractLsb' 41 19 = 0#19 ∧ b.extractLsb' 8 24 = 0#24 ∧
  ((b.extractLsb' 60 4 = 1#4 ∧ ∃ g, s.dev.group u.ctx u.gid = some g ∧
      (b.extractLsb' 0 6).toNat < ((elem 64 g.rcd 1).extractLsb' 0 7).toNat) ∨
   (b.extractLsb' 60 4 = 2#4 ∧ (b.extractLsb' 32 9).toNat ∈ (s.dev.ctx u.ctx).parcel))

end Sys2Proof.Claims

/-- 08 R235-R241, R243, R251, R259, 15 R423: stream instructions on OFFS = k act on stream k of core grid 0, or, in a resident
instance, of its own grid. `sread`, `swrite` and `sclose` wait until the stream is known. `sread` sends a null from a CLOSED stream or
past its end, and else the next elements, those of a port in arrival order and those of memory from their addresses, missing lanes
zero; another type or direction is ALIGNMENT. `swrite` and `sclose` act at the commit, on a CLOSED stream not at all; a burst that
failed is PAGE_UNRESOLVED. `scfg` sends its status and opens the stream at the commit of status 0; where several statuses apply, 3 goes
before 2 and 2 before 1 (log 83). `ldfwd` checks its address, destination and pages and reads at the commit. -/
def Obligations.Streams : Prop :=
  ∀ (f : FmtM) (s : State) (c : Firing) (u : Thread), Fires f.pr s c → s.dev.thr c.x.thr = some u →
    let num := (f.offs.extractLsb' 0 5).toNat
    let sn := streamKey c.x u num
    let l := f.lsid.toNat
    let n := tyBits f.ty / 8
    let st := u.stream sn
    let lanes := 512 / tyBits f.ty
    let pos := s.dev.streamPos c.x st sn l
    let k := min lanes (st.cfg.total - pos)
    let null := after s s.toW c [] [(f.t0, .null)]
    let status := fun (w : W) (m : Nat) (es : List Eff) => stored s w.d c l es [] [(f.t0, .val (everyLane (BitVec.ofNat 64 m)))]
    let sends := fun (w : W) (g : Nat → Nat) => ∃ v : Vec,
      exec (.sread f) s = .next (after s w c [(l, c.idx, .sread sn k)] [(f.t0, .val v)]) ∧
      ∀ i < lanes, elem (tyBits f.ty) v i = if i < k then BitVec.ofNat _ (g i) else 0#_
    let at_ := fun (i : Nat) => st.cfg.addr (pos + i)
    let ends := fun (i : Instr) (q : Cause) (a write : Nat) => ∃ t, exec i s = .next t ∧ t.mem = s.mem ∧ Pending t c.iid (pendAt c q a write 0)
    let near := ∀ i < k, InWindow s u (at_ i) n ∧ s.dev.stalled c.x (spKeyOf s u (at_ i)) n = false
    (¬StreamKnown s c u num l → exec (.sread f) s = .next s ∧ exec (.swrite f) s = .next s ∧ exec (.sclose f) s = .next s) ∧
    (StreamKnown s c u num l → LoadReady s c u l → f.ty.toNat ≤ 12 →
      (st.isOpen = false → exec (.sread f) s = .next null) ∧
      (st.isOpen = true → (st.cfg.ty ≠ f.ty ∨ st.cfg.write = true) → c.x.pend = none → ends (.sread f) .alignment 0 0) ∧
      (st.isOpen = true → st.cfg.ty = f.ty → st.cfg.write = false →
        (k = 0 → exec (.sread f) s = .next null) ∧
        (k ≠ 0 → st.cfg.space = .port → st.arrivals.length < pos + k → exec (.sread f) s = .next s) ∧
        (k ≠ 0 → st.cfg.space = .port → pos + k ≤ st.arrivals.length → (∀ i < k, (st.arrivals.getD (pos + i) (0, false)).2 = false) →
          sends s.toW (fun i => (st.arrivals.getD (pos + i) (0, false)).1.toNat)) ∧
        (k ≠ 0 → st.cfg.space = .port → pos + k ≤ st.arrivals.length → (∃ i < k, (st.arrivals.getD (pos + i) (0, false)).2 = true) →
          c.x.pend = none → ends (.sread f) .dataEcc 0 0) ∧
        (k ≠ 0 → st.cfg.space = .scratch → near →
          ((∀ i < k, ∀ p ∈ s.dev.poison, p < spKeyOf s u (at_ i) ∨ spKeyOf s u (at_ i) + n ≤ p) →
            sends s.toW (fun i => ofBytes ((List.range n).map (fun j => s.mem.read (spKeyOf s u (at_ i) + j))))) ∧
          ((∃ i < k, ∃ p ∈ s.dev.poison, spKeyOf s u (at_ i) ≤ p ∧ p < spKeyOf s u (at_ i) + n) → c.x.pend = none →
            ends (.sread f) .dataEcc 0 0)) ∧
        (∀ ls w, k ≠ 0 → st.cfg.space = .global → (∀ i < k, ∀ q ∈ st.latches, q.1 = at_ i / 2 ^ 14 * 2 ^ 14 → q.2.2 = false) →
          s.toW.readLines u (s.dev.rnumOf u) (((List.range k).map (fun i => at_ i / 32)).eraseDups) = (.ok ls, w) →
          sends w (fun i => ofBytes ((List.range n).map (fun j =>
            ((ls.find? (fun q => q.1 == (at_ i + j) / 32)).map (fun q => q.2.getD ((at_ i + j) % 32) 0#8)).getD 0#8)))))) ∧
    (StreamKnown s c u num l →
      (l ∉ c.x.lsids → st.isOpen = true → st.cfg.ty = f.ty → st.cfg.write = true → st.unresolved = false → f.ty.toNat ≤ 12 →
        (st.cfg.space = .scratch → near) → exec (.swrite f) s = .next (stored s s.dev c l [.swrite sn f.ty c.ops.va] [] [])) ∧
      (l ∉ c.x.lsids → st.isOpen = false → exec (.swrite f) s = .next (stored s s.dev c l [] [] [])) ∧
      (st.isOpen = true → (st.cfg.ty ≠ f.ty ∨ st.cfg.write = false) → c.x.pend = none → ends (.swrite f) .alignment 0 1) ∧
      (st.isOpen = true → st.cfg.ty = f.ty → st.cfg.write = true → st.unresolved = true → c.x.pend = none →
        ends (.swrite f) .pageUnresolved 0 1) ∧
      (st.isOpen = true → st.unresolved = true → c.x.pend = none → ends (.sclose f) .pageUnresolved 0 1) ∧
      (l ∉ c.x.lsids → (st.isOpen = true → st.unresolved = false) →
        exec (.sclose f) s = .next (stored s s.dev c l [.sclose sn] [] []))) ∧
    (l ∉ c.x.lsids →
      (¬ValidStream f c.ops.va → exec (.scfg f) s = .next (status s.toW 3 [])) ∧
      (ValidStream f c.ops.va →
        let d := described f c.ops.va
        let taken := Taken s (u.streamAt sn) num
        let opens := (taken → exec (.scfg f) s = .next (status s.toW 2 [])) ∧ (¬taken → exec (.scfg f) s = .next (status s.toW 0 [.scfg sn d []]))
        (d.space = .port → opens) ∧
        (d.space = .scratch → d.spans = none → exec (.scfg f) s = .next (status s.toW 3 [])) ∧
        (∀ sp, d.space = .scratch → d.spans = some sp →
          (let lo := (spanEnds sp).1
           let size := ((spanEnds sp).2 - lo + 1).toNat
           (0 ≤ lo → InWindow s u lo.toNat size → opens) ∧
           (lo < 0 ∨ ¬InWindow s u lo.toNat size → exec (.scfg f) s = .next (status s.toW 3 [])))) ∧
        (d.space = .global →
          (taken → exec (.scfg f) s = .next (status s.toW 2 [])) ∧
          (¬taken → d.spans = none → exec (.scfg f) s = .next (status s.toW 1 [])) ∧
          (∀ sp, ¬taken → d.spans = some sp → 0 ≤ (spanEnds sp).1 →
            (pagesOf sp = none → exec (.scfg f) s = .next (status s.toW 1 [])) ∧
            (∀ ps, pagesOf sp = some ps →
              (1024 < ps.length → exec (.scfg f) s = .next (status s.toW 1 [])) ∧
              (∀ fr w, ps.length ≤ 1024 →
                (d.write = true → ∀ p ∈ sp, s.dev.wprotected p.1.toNat (p.2 - p.1 + 1).toNat = false) →
                s.toW.latch c u (if d.write then rW else rR) (if d.write then 1 else 0) ps [] = .ok (fr, w) →
                exec (.scfg f) s = .next (status w 0 [.scfg sn d fr]))))))) ∧
    (∀ w, s.toW.check u rR (addrOf f c) 64 1 = (.ok, w) →
      (¬ValidDest s u (c.ops.vb.extractLsb' 0 64) → c.x.pend = none → ends (.ldfwd f) .protection (addrOf f c) 0) ∧
      (∀ w', ValidDest s u (c.ops.vb.extractLsb' 0 64) → l ∉ c.x.lsids → (w.probe u (addrOf f c)).2.probe u (addrOf f c + 63) = w' →
        (∃ k w0, (w.probe u (addrOf f c)).1 = .ok k w0) → (∃ k w0, w'.1 = .ok k w0) →
        exec (.ldfwd f) s = .next (stored s w'.2.d c l [.ldfwd (addrOf f c) (c.ops.vb.extractLsb' 0 64)] [] [])))

/-! ### Engines, shadows (08 R247-R256) -/

namespace Sys2Proof.Claims

/-- The copy that an engine instruction asks for, by the lanes of its descriptor (08 R247-R249), before scratchpad addresses are
resolved. -/
def copyAsked (kind : CopyKind) (f : FmtM) (v : Vec) : CopyDesc :=
  let w := elem 64 v 6
  let c := elem 64 v 5
  { kind := kind, dst := (elem 64 v 0).toNat, src := (elem 64 v 1).toNat, rowLen := (elem 64 v 2).toNat
    rows := if kind = .straight then 1 else (elem 64 v 3).toNat
    dpitch := if kind = .rows then (elem 32 v 8).toNat else (elem 64 v 2).toNat
    spitch := if kind = .rows then (elem 32 v 9).toNat else (elem 64 v 2).toNat
    list := if kind = .gather then (elem 64 v 4).toNat else 0
    sspace := if w.extractLsb' 2 2 = 0#2 then .global else .scratch
    dspace := if w.extractLsb' 0 2 = 0#2 then .global else if w.extractLsb' 0 2 = 1#2 then .scratch else .shadow
    shadow := (w.extractLsb' 16 6).toNat, tagen := w.getLsbD 8, ctag := (w.extractLsb' 24 8).toNat
    compl := { kind := c.extractLsb' 60 4, tgt := c.extractLsb' 48 12, grid := (c.extractLsb' 32 9).toNat,
               arg := c.extractLsb' 0 32, tag := elem 64 v 7 }
    scope := f.scope.toNat }

/-- A valid descriptor (08 R247-R250): fields of the tables, lengths in range, everything aligned, a valid completion. -/
def ValidCopy (s : State) (u : Thread) (kind : CopyKind) (f : FmtM) (v : Vec) : Prop :=
  let q := copyAsked kind f v
  s.dev.badCopy u.ctx q v = false ∧ badCopyAlign q = false

end Sys2Proof.Claims

/-- 08 R225, R247-R256: with a valid descriptor and a free request entry, `acopy`, `acopy2` and `agather` leave their copy for the
commit, scratchpad addresses resolved; without an entry they wait; an invalid one is PROTECTION or ALIGNMENT with the destination. `ashadow`
sends 2 for an open handle, 3 for an overlap, 1 for too few frames in the pool, and 0 with the frames it takes. `apub` leaves its
publication, which needs the W right on the buffer, or its discard for the commit. `aprobe` sends the entry of its tag. -/
def Obligations.Engines : Prop :=
  ∀ (f : FmtM) (s : State) (c : Firing) (u : Thread), Fires f.pr s c → s.dev.thr c.x.thr = some u →
    let l := f.lsid.toNat
    let v := c.ops.va
    (∀ p ∈ ([(.acopy, .straight), (.acopy2, .rows), (.agather, .gather)] : List ((FmtM → Instr) × CopyKind)),
      let q := copyAsked p.2 f v
      let runs := fun (q : CopyDesc) => s.dev.copyFree c.x.grid = true → (q.dspace = .scratch → s.dev.rangeFree (spGrid q.dst) = true) →
        l ∉ c.x.lsids → exec (p.1 f) s = .next (stored s s.dev c l [.copy q] [] [])
      (ValidCopy s u p.2 f v → q.dspace ≠ .scratch → q.sspace = .global → runs q ∧
        (s.dev.copyFree c.x.grid = false → exec (p.1 f) s = .next s)) ∧
      (ValidCopy s u p.2 f v → q.dspace = .scratch → q.sspace = .global → InWindow s u q.dst ((q.rows - 1) * q.dpitch + q.rowLen) →
        runs { q with dst := spKeyOf s u q.dst }) ∧
      (ValidCopy s u p.2 f v → q.dspace ≠ .scratch → q.sspace = .scratch →
        InWindow s u q.src (if p.2 = .gather then q.rowLen else (q.rows - 1) * q.spitch + q.rowLen) →
        runs { q with src := spKeyOf s u q.src, slim := spKey (spGridOf u q.src) (s.dev.window u + s.dev.scratchSize u) }) ∧
      (s.dev.badCopy u.ctx q v = true → c.x.pend = none → ∃ t, exec (p.1 f) s = .next t ∧ t.mem = s.mem ∧
        Pending t c.iid (pendAt c .protection q.dst 1 0)) ∧
      (s.dev.badCopy u.ctx q v = false → badCopyAlign q = true → c.x.pend = none → ∃ t, exec (p.1 f) s = .next t ∧ t.mem = s.mem ∧
        Pending t c.iid (pendAt c .alignment q.dst 1 0))) ∧
    (let base := (elem 64 v 0).toNat
     let len := (elem 64 v 1).toNat
     let h := (elem 64 v 2).toNat
     let open_ := (((s.dev.ctx u.ctx).shadows.filter (fun p => p.2.isOpen)).map (fun p => (p.1, p.2.base, p.2.len))) ++ s.dev.shadowResv u.ctx
     let status := fun (w : W) (m : Nat) (es : List Eff) => exec (.ashadow f) s =
       .next (stored s w.d c l es [] [(f.t0, .val (everyLane (BitVec.ofNat 64 m)))])
     ∀ w, base % 2 ^ 14 = 0 → len % 2 ^ 14 = 0 → base < 2 ^ 57 → 0 < len → len ≤ 2 ^ 30 → h ≤ 63 → s.toW.isLocal base = true →
       s.toW.isLocal (base + len - 1) = true → s.toW.rightsAll u.first u.ctx 2 base len = (true, w) →
       (∀ p ∈ (s.dev.ctx u.ctx).regions, p.2.declared = true → base + len ≤ regionBase p.2.desc ∨ regionBase p.2.desc + regionSize p.2.desc ≤ base) →
       l ∉ c.x.lsids →
       ((∃ p ∈ open_, p.1 = h) → status w 2 []) ∧
       ((∀ p ∈ open_, p.1 ≠ h) → (∃ p ∈ open_, p.2.1 < base + len ∧ base < p.2.1 + p.2.2) → status w 3 []) ∧
       ((∀ p ∈ open_, p.1 ≠ h ∧ (base + len ≤ p.2.1 ∨ p.2.1 + p.2.2 ≤ base)) →
         (s.dev.poolFree.length < len / 2 ^ 14 → status w 1 []) ∧
         (len / 2 ^ 14 ≤ s.dev.poolFree.length → status w 0 [.ashadow h base len (s.dev.poolFree.take (len / 2 ^ 14))]))) ∧
    (l ∉ c.x.lsids →
      (s.dev.shadowBuffer u.ctx (elem 64 v 0).toNat = none →
        exec (.apubPublish f) s = .next (stored s s.dev c l [.apubPublish (elem 64 v 0).toNat f.scope.toNat] [] [])) ∧
      (∀ base len w, s.dev.shadowBuffer u.ctx (elem 64 v 0).toNat = some (base, len) →
        s.toW.rightsAll u.first u.ctx 2 base len = (true, w) →
        exec (.apubPublish f) s = .next (stored s w.d c l [.apubPublish (elem 64 v 0).toNat f.scope.toNat] [] [])) ∧
      (∀ base len w, s.dev.shadowBuffer u.ctx (elem 64 v 0).toNat = some (base, len) →
        s.toW.rightsAll u.first u.ctx 2 base len = (false, w) → c.x.pend = none →
        ∃ t, exec (.apubPublish f) s = .next t ∧ t.mem = s.mem ∧ Pending t c.iid (pendAt c .protection base 1 0)) ∧
      exec (.apubDiscard f) s = .next (stored s s.dev c l [.apubDiscard (elem 64 v 0).toNat] [] [])) ∧
    (LoadReady s c u l →
      let tag := (elem 64 v 0).toNat % 256
      let value := everyLane ((s.dev.ctx u.ctx).copyTags.get tag 0#64)
      exec (.aprobe f) s = .next (after s s.toW c (s.dev.event u.ctx l c.idx 6 (BitVec.ofNat 64 tag) value) [(f.t0, .val value)]))

/-! ### Atomics (08 R257-R258, 09 R274) -/

namespace Sys2Proof.Claims

/-- The new value of an integer atomic on n bits (08 R257): old value, `b`, and for `amo.cas` the comparand `c`. -/
def newValue (op : AmoOp) (ty : BitVec 4) {n : Nat} (old b c : BitVec n) : BitVec n :=
  match op with
  | .add => old + b
  | .fadd => BitVec.ofNat n (amoNew .fadd ty old.toNat b.toNat 0).1
  | .min => if value ty old ≤ value ty b then old else b
  | .max => if value ty b ≤ value ty old then old else b
  | .and => old &&& b
  | .or => old ||| b
  | .xor => old ^^^ b
  | .swap => b
  | .cas => if old = c then b else old
  | .inc => if b.toNat ≤ old.toNat then 0#n else old + 1#n
  | .dec => if old = 0#n ∨ b.toNat < old.toNat then b else old - 1#n

/-- The atomics with their operations. -/
def atomics : List ((FmtA → Instr) × AmoOp) :=
  [(.amoAdd, .add), (.amoFadd, .fadd), (.amoMin, .min), (.amoMax, .max), (.amoAnd, .and), (.amoOr, .or), (.amoXor, .xor),
   (.amoSwap, .swap), (.amoCas, .cas), (.amoInc, .inc), (.amoDec, .dec)]

/-- The address of an atomic (08 R224). -/
def amoAddr (f : FmtA) (c : Firing) : Nat := ((((argA c).toNat : Int) + f.offs.toInt) % 2 ^ 64).toNat

/-- n bytes in memory at a key, as a number of n bytes. -/
def memValue (m : Memory) (key n : Nat) : Nat := ofBytes ((List.range n).map (fun j => m.read (key + j)))

end Sys2Proof.Claims

/-! ### The matrix array (07) -/

namespace Sys2Proof.Claims

/-- The matrix instructions (07 R204). -/
def matrixInstrs : List (FmtN → Instr) := [.mcfg, .mzero, .mma, .mld, .mst, .mctr, .mbound, .wbload, .mputa, .mputb, .mred, .mrow]

/-- A step of an instance that an event names and that may start now (07 R198-R200): the array performs no step, the step is
eligible, and every step of the thread that became eligible before it, or in the same cycle and stands in an older instance or at a
lower index, is one that cannot start. -/
def StepReady (s : State) (x : Inst) (b : Block) (u : Thread) (m : MStep) (i : Instr) : Prop :=
  s.dev.stepAt s.dev.arg.a s.dev.arg.b .waiting = some (x, b, u, m, i) ∧ s.toW.stepTurn s.dev.arg.a x b u m i = true
/-- No step of the thread became eligible before a step (07 R198), but `mputa`, which is performed with its partner (07 R210). -/
def FirstInLine (s : State) (x : Inst) (m : MStep) : Prop :=
  ∀ p ∈ s.dev.instsOf x.thr, ∀ n ∈ p.2.msteps, s.dev.stepBefore p.2 n x m = true → ∃ c f, p.2.code = some c ∧ c.instr n.idx = some (.mputa f)

/-- The step has started: its record says so, with the tokens it will send and the counter unit it leaves. Matrix state of the
thread is as `tiles` says; memory is as before. -/
def StepStarted (s t : State) (x : Inst) (tiles : Tbl Tile) (toks : List (Target × Tok)) (ctr : Option (Nat × Counter)) : Prop :=
  t.mem = s.mem ∧ t.mgmt = s.mgmt ∧ (∃ u, t.dev.thr x.thr = some u ∧ u.tiles = tiles) ∧
  ∃ y, t.dev.inst s.dev.arg.a = some y ∧ y.st = x.st ∧ y.fired = x.fired ∧ y.effs = x.effs ∧
    ∃ m ∈ y.msteps, m.idx = s.dev.arg.b ∧ m.st = .started ∧ m.toks = toks ∧ m.ctr = ctr

/-- A tile of a thread; before it is configured it has 48 rows and 96 columns of f32 cells (07 R192). -/
def tileOf (u : Thread) (k : Nat) : Tile := (u.tiles.look k).getD {}
/-- Share rows and columns of a width (07 R190). -/
def shareR (w : Nat) : Nat := if w ≤ 1 then w else if w ≤ 4 then w / 2 else w / 4
def shareC (w : Nat) : Nat := if w ≤ 1 then 1 else if w ≤ 4 then 2 else 4
/-- A token of 16 lanes of 32 bits holds these values. -/
def Lanes16 (tok : Tok) (g : Nat → BitVec 32) : Prop := ∃ v : Vec, tok = .val v ∧ ∀ k < 16, elem 32 v k = g k

end Sys2Proof.Claims

/-- 07 R193-R196, R208, R210, 03 R73: a dense run of K K-steps of i8 by i8 on a core of one grid, A in the scratchpad: each cell of
the i32 tile grows, modulo 2^32, by the sum of the products of its A row and its B column over all K-steps, and the step sends K. -/
def Obligations.MatrixMultiply : Prop :=
  ∀ (f : FmtN) (s : State) (x : Inst) (b : Block) (u : Thread) (m : MStep), StepReady s x b u m (.mma f) →
    let k := f.tile.toNat
    let tl := tileOf u k
    let K := f.ksteps.toNat
    let A := m.a.toNat
    let B := m.b.toNat
    let base := s.dev.window u + A
    u.width = 1 → tl.width = 1 → tl.i32 = true → f.cf = 1#2 → f.af = 0#4 → f.bf = 0#4 → f.sparse = 0#2 → K ≠ 0 → f.x.getLsbD 7 = false →
    A % 32 = 0 → A + K * tl.m * 96 ≤ s.dev.scratchSize u → s.dev.stalled x (spKey u.first base) (K * tl.m * 96) = false →
    B % 32 = 0 → B + K * tl.n * 96 ≤ 524288 → tl.cells.length = tl.m * tl.n →
    (∀ j < K * tl.n * 3, (s.dev.grid u.first).wtags.get (B / 32 + j) .empty = .full 8 0) →
    (∀ y ∈ s.dev.insts, y.2.thr = x.thr → ∀ q ∈ y.2.accs, q.isStore = false) → (∀ q ∈ x.accs, q.isStore = false) →
    (∀ q ∈ s.dev.spStores, q.thr ≠ x.thr) →
    let a := fun (st i e : Nat) => (s.mem.read (spKey u.first base + ((st * tl.m + i) * 96 + e))).toInt
    let w := fun (st j e : Nat) => (s.mem.read (wbKey u.first (B + (st * tl.n + j) * 96 + e))).toInt
    ∃ t v, exec .matrixStepStart s = .next t ∧ t.mem = s.mem ∧ t.dev.thr x.thr = some v ∧ (tileOf v k).live = true ∧
      (∀ i < tl.m, ∀ j < tl.n, (tileOf v k).cells.getD (i * tl.n + j) 0#32 = tl.cells.getD (i * tl.n + j) 0#32 +
        BitVec.ofInt 32 (((List.range K).map (fun st => ((List.range 96).map (fun e => a st i e * w st j e)).sum)).sum)) ∧
      ∃ y, t.dev.inst s.dev.arg.a = some y ∧ ∃ m' ∈ y.msteps, m'.idx = s.dev.arg.b ∧ m'.st = .started ∧
        ∃ tok r, m'.toks = (f.t0, .val tok) :: r ∧ ∀ l < 8, elem 64 tok l = BitVec.ofNat 64 K

/-- 07 R198, R199, R209, R210: the multiply phase of a tagged pair, when the array is free, no step stands before it, its reads may be
performed and fewer than 8 entries of the matching store are wanted before it, holds the sums of one K-step in an entry; the accumulate phase adds held sums to
the tile, gives the entry up and sends 1. -/
def Obligations.TaggedPairs : Prop :=
  ∀ (f fa : FmtN) (s : State) (x : Inst) (b : Block) (u : Thread) (m : MStep) (k : Nat),
    let iid := s.dev.arg.a
    let idx := s.dev.arg.b
    let tile := f.tile.toNat
    let tl := tileOf u tile
    let free := s.dev.arrayIdle u = true ∧ x.pend = none ∧ x.dying = false ∧ FirstInLine s x m
    let good := (tl.live = false ∨ tl.width = u.width) ∧ (tl.i32 = true ↔ f.cf = 1#2)
    let now : Tile := if tl.live then tl else { tl with width := u.width }
    (s.dev.stepAt iid idx .waiting = some (x, b, u, m, .mputb f) → b.partner idx = some (k, .mputa fa) → free → good →
      ∀ ma w ma' x' rows, x.msteps.find? (fun q => q.idx == k && q.st == .waiting) = some ma → s.dev.mayRead iid x b u idx = true →
        s.dev.olderClear x isWbload = true → x.lowerDone b idx [.weights] = true →
        (s.dev.grid u.first).matching.length + s.dev.olderPairs x < 8 →
        s.dev.badB u m.a.toNat (now.n * recSize f.sparse.toNat) f.bf f.sparse.toNat = false →
        s.toW.readA iid k x u ma (fa.x.getLsbD 7) now.m 1 tile = (.go w ma' x', rows) → ma'.idx = k → ma'.locks = [] →
        ∃ t, exec .pairMultiplyPhase s = .next t ∧ t.mem = s.mem.writeAll w.ov.reverse ∧
          (iid, tile) ∈ (t.dev.grid u.first).matching ∧
          ∃ y, t.dev.inst iid = some y ∧ ∀ q ∈ y.msteps, (q.idx = idx ∨ q.idx = k) → q.st = .multiplied) ∧
    (s.dev.stepAt iid idx .multiplied = some (x, b, u, m, .mputb f) → free → good → s.dev.eligible x b idx [.tile tile] = true →
      ∃ t v, exec .pairAccumulatePhase s = .next t ∧ t.mem = s.mem ∧ t.dev.thr x.thr = some v ∧ v.tiles.look tile = some (now.addSums m.sums).1 ∧
        (∀ e ∈ (t.dev.grid u.first).matching, e ≠ (iid, tile)) ∧
        t.dev.flight = s.dev.flight ++ ([(f.t0, Tok.val (everyLane 1#64))].filter (fun p => tgtKind p.1 != 0)).map (fun p => ⟨iid, some idx, p.1, p.2⟩) ∧
        ∃ y, t.dev.inst iid = some y ∧ (∀ q ∈ y.msteps, q.idx = idx → q.st = .done) ∧ y.flags = x.flags ||| (now.addSums m.sums).2)

/-! ### Queues, mailboxes, rings, launch (11 R338-R342, 12) -/

namespace Sys2Proof.Claims

/-- An info token: status, index and a third word in lanes 0 to 2, the others zero (12 R359). -/
def info (status i x : Nat) : Tok :=
  .val (0#320 ++ BitVec.ofNat 64 x ++ BitVec.ofNat 64 i ++ BitVec.ofNat 64 status)

/-- The state after a removal that acquires at PACKAGE scope has fired: as `Answered`, but that the grids of the core have lost the
lines they do not own, and that lines and cache entries the read has left may differ; `m` is the memory it leaves. -/
def Received (s t : State) (c : Firing) (u : Thread) (m : Memory) (es : List Eff) (toks : List (Target × Tok)) : Prop :=
  t.mem = m ∧ t.mgmt = s.mgmt ∧ t.agenda = s.agenda ∧ t.dev.ctxs = s.dev.ctxs ∧
  (∀ j, j ≠ c.iid → t.dev.inst j = s.dev.inst j) ∧ (∀ n, (t.dev.thr n).map archOf = (s.dev.thr n).map archOf) ∧
  (∀ g ∈ u.grids, ∀ l ∈ (t.dev.grid g).l1, l.owned ≠ 0#32 ∧ l.valid = l.owned) ∧
  t.dev.flight = s.dev.flight ++ inFlight c toks ∧
  (∃ y, t.dev.inst c.iid = some y ∧ y.fired = c.idx :: c.x.fired ∧ y.flags = c.x.flags ∧ y.wr = c.x.wr ∧ y.st = c.x.st ∧
    y.pend = c.x.pend ∧ plainEffs y.effs = plainEffs c.x.effs ++ es.map (fun e => (32 + c.idx, c.idx, e)))

/-- What a waiting instruction does that cannot go on now (04 R99, 12 R356): with a LIMIT it begins to wait; polling, it ends with a
timeout fault if TRAP is set, and else with status 1. -/
def Waits (i : Instr) (s : State) (c : Firing) (u : Thread) (limit : BitVec 12) (trap : Bool) (key : Nat × Word)
    (fault : Pend) (toks : List (Target × Tok)) : Prop :=
  Fresh s c u →
    (¬polls limit → exec i s = .next (beginsWait s c limit key)) ∧
    (polls limit → trap = false → ∃ t, exec i s = .next t ∧ Answered s t c [] toks) ∧
    (polls limit → trap = true → c.x.pend = none → (s.dev.ctx u.ctx).recd.armed = false → ∃ t, exec i s = .next t ∧ t.mem = s.mem ∧ Pending t c.iid fault)

/-- A timeout of a waiting instruction: the object's identity, and what its chapter gives (12 R356). -/
def timeoutAt (c : Firing) (cause : Cause) (ident : Word) (w4 : Nat) : Pend := pendAt c cause 0 ident.toNat w4

/-- The handle of lane 0 of an operand. -/
def handleOf (v : Vec) : Nat := (v.extractLsb' 0 64).toNat
/-- TRAP of format Q (12 R356). -/
def traps (f : FmtQ) : Bool := f.imm.getLsbD 0
/-- What a removal that gives nothing sends: a null and an info token (12 R359). -/
def nothing (f : FmtQ) (status : Nat) : List (Target × Tok) := [(f.t0, .null), (f.t1, info status 0 0)]
/-- The status that a removal ends with at once (12 R355): 2 stale or not open, 5 FAULTED whatever its kind, 3 the wrong kind, 6 closed
or drained. -/
def removalEnds (k : Ctx) (h kind : Nat) : Option Nat :=
  match k.queueOf h with
  | none => some 2
  | some (_, q) => if q.st = .faulted then some 5 else if q.kind ≠ kind then some 3 else match q.st with
    | .opened => none
    | .faulted => some 5
    | .draining => if q.head = q.tail then some 6 else none
    | .closed => some 6
    | _ => some 2

end Sys2Proof.Claims

/-- 12 R348, R355, R356, R358-R360: `qpush` reserves an entry in an open data queue with room and sends 0; the statuses of R355 come at
once; without room it waits. `qpop` fires in the oldest instance alone, reserves the oldest entry that no other removal has reserved,
acquires, and sends the entry with its index; `qpeek` sends the oldest entry and reserves nothing; an empty queue makes both wait.
`qinfo` sends one item in every lane. -/
def Obligations.DataQueues : Prop :=
  ∀ (f : FmtQ) (s : State) (c : Firing) (u : Thread), Fires f.pr s c → s.dev.thr c.x.thr = some u → Live s u →
    let k := s.dev.ctx u.ctx
    let hb := handleOf c.ops.vb
    let ha := handleOf c.ops.va
    let pushes := fun (es : List Eff) (n : Nat) => ∃ t, exec (.qpush f) s = .next t ∧ Answered s t c es (statuses f n)
    (k.queueOf hb = none → pushes [] 2) ∧
    (∀ n q, k.queueOf hb = some (n, q) →
      (q.st = .faulted → pushes [] 5) ∧
      (q.kind ≠ 2 → q.st ≠ .faulted → pushes [] 3) ∧
      (q.kind = 2 → q.st ≠ .faulted → q.st ≠ .opened → pushes [] 2) ∧
      (q.kind = 2 → q.st = .opened → s.dev.queueFree u.ctx n ≠ 0 → pushes [.qpush hb c.ops.va] 0) ∧
      (q.kind = 2 → q.st = .opened → s.dev.queueFree u.ctx n = 0 →
        Waits (.qpush f) s c u f.limit (traps f) (0xC0, BitVec.ofNat 64 hb)
          (timeoutAt c .queueTimeout (BitVec.ofNat 64 hb) (q.head % 2 ^ 32 + q.tail % 2 ^ 32 * 2 ^ 32)) (statuses f 1))) ∧
    (s.dev.isOldest c.x = false → exec (.qpop f) s = .next s) ∧
    (∀ n, removalEnds k ha 2 = some n →
      (s.dev.isOldest c.x = true → ∃ t, exec (.qpop f) s = .next t ∧ Answered s t c [] (nothing f n)) ∧
      (∃ t, exec (.qpeek f) s = .next t ∧ Answered s t c [] (nothing f n))) ∧
    (∀ n q, removalEnds k ha 2 = none → k.queueOf ha = some (n, q) →
      let avail := q.live.filter (fun i => !(s.dev.popResv u.ctx ha).contains i)
      (avail = [] →
        (s.dev.isOldest c.x = true → Waits (.qpop f) s c u f.limit (traps f) (0xC1, BitVec.ofNat 64 ha)
          (timeoutAt c .queueTimeout (BitVec.ofNat 64 ha) (q.head % 2 ^ 32 + q.tail % 2 ^ 32 * 2 ^ 32)) (nothing f 1)) ∧
        Waits (.qpeek f) s c u f.limit (traps f) (0xC2, BitVec.ofNat 64 ha)
          (timeoutAt c .queueTimeout (BitVec.ofNat 64 ha) (q.head % 2 ^ 32 + q.tail % 2 ^ 32 * 2 ^ 32)) (nothing f 1)) ∧
      (∀ i r bs w, avail = i :: r → s.toW.readHome u.ctx 0 (q.base + 64 * (i % q.size)) 64 = (.ok bs, w) →
        ∃ v : Vec, (∀ j < 64, byteAt v j = bs.getD j 0#8) ∧
          (s.dev.isOldest c.x = true → s.dev.waitBefore c u (0xC1, BitVec.ofNat 64 ha) = false → NoYoungLoad s c →
            ∃ t, exec (.qpop f) s = .next t ∧
              Received s t c u (s.mem.writeAll w.ov.reverse) [.qpop ha i] [(f.t0, .val v), (f.t1, info 0 i 0)]) ∧
          (∃ t, exec (.qpeek f) s = .next t ∧ t.mem = s.mem.writeAll w.ov.reverse ∧
            t.dev.flight = s.dev.flight ++ inFlight c [(f.t0, .val v), (f.t1, info 0 i 0)] ∧
            ∃ y, t.dev.inst c.iid = some y ∧ y.fired = c.idx :: c.x.fired ∧ plainEffs y.effs = plainEffs c.x.effs))) ∧
    (∀ n q, k.queueOf ha = some (n, q) →
      let item := f.sub.toNat
      let value := if item = 0 then qstateCode q.st else if item = 1 then q.head else if item = 2 then q.tail
        else if item = 3 then q.size else if item = 4 then s.dev.queueFree u.ctx n else q.drops % 2 ^ 32
      item ≤ 5 → ∃ t, exec (.qinfo f) s = .next t ∧ Answered s t c [] (statuses f value)) ∧
    (k.queueOf ha = none → ∃ t, exec (.qinfo f) s = .next t ∧ Answered s t c [] (statuses f 0))

/-- 12 R352, R353, R361-R364: `mbsend` to a thread of its group with room in the priority reserves an entry; a thread that is not there is
4. `mbrecv` takes the oldest message of the lowest priority of its mask, in the oldest instance, with its origin. A thread whose core grid
0 is on no member grid of a ring gets status 4. `mcput` reserves a slot of a ring in the parcel whose slot is free, for the members it
is told; `mctake` takes the oldest slot that still has its
member's bit, with the members left. `launch` reserves a record of a usable kernel. `kinfo` sends one item of a kernel. -/
def Obligations.MailboxesRingsLaunch : Prop :=
  ∀ (f : FmtQ) (s : State) (c : Firing) (u : Thread), Fires f.pr s c → s.dev.thr c.x.thr = some u → Live s u →
    let k := s.dev.ctx u.ctx
    let hb := handleOf c.ops.vb
    let ha := handleOf c.ops.va
    let b := c.ops.vb.extractLsb' 0 64
    let dst := (b.extractLsb' 0 6).toNat
    let p := (b.extractLsb' 6 2).toNat
    let answers := fun (i : Instr) (es : List Eff) (toks : List (Target × Tok)) => ∃ t, exec i s = .next t ∧ Answered s t c es toks
    ((b.extractLsb' 8 56 ≠ 0#56 ∨ s.dev.memberOf u.ctx u.gid dst = none) → answers (.mbsend f) [] (statuses f 4)) ∧
    (∀ tid v, b.extractLsb' 8 56 = 0#56 → s.dev.memberOf u.ctx u.gid dst = some (tid, v) → (v.mbox p).waiting = [] →
      (s.dev.mboxSpace tid p = true → s.dev.waitBefore c u (1, BitVec.ofNat 64 (mailIdent u.gid dst p)) = false →
        answers (.mbsend f) [.mbsend tid p c.ops.va] (statuses f 0)) ∧
      (s.dev.mboxSpace tid p = false → Waits (.mbsend f) s c u f.limit (traps f) (1, BitVec.ofNat 64 (mailIdent u.gid dst p))
        (timeoutAt c .mailboxTimeout (BitVec.ofNat 64 (mailIdent u.gid dst p))
          ((v.mbox p).received % 2 ^ 32 + (v.mbox p).arrived % 2 ^ 32 * 2 ^ 32)) (statuses f 1))) ∧
    (s.dev.isOldest c.x = false → exec (.mbrecv f) s = .next s ∧ exec (.mctake f) s = .next s) ∧
    (∀ q m r, s.dev.isOldest c.x = true → q < 4 → f.imm.getLsbD (1 + q) = true →
      (∀ j < q, f.imm.getLsbD (1 + j) = true → (u.mbox j).msgs = []) → (u.mbox q).msgs = m :: r →
      (∀ e ∈ c.x.effs, ∀ j n, e.2.2 ≠ .mbrecv j n) → s.dev.recvBefore c q = false → NoYoungLoad s c →
      ∃ t, exec (.mbrecv f) s = .next t ∧
        Received s t c u s.mem [.mbrecv q m.seq] [(f.t0, .val m.data), (f.t1, info 0 m.seq m.origin.toNat)]) ∧
    (s.dev.isOldest c.x = true → (∀ q < 4, f.imm.getLsbD (1 + q) = true → (u.mbox q).msgs = []) → Fresh s c u → ¬polls f.limit →
      ∃ key, exec (.mbrecv f) s = .next (beginsWait s c f.limit key)) ∧
    (∀ n q, k.queueOf hb = some (n, q) → q.kind = 3 → q.st = .opened → (∀ i < q.width, q.first + i ∈ k.parcel) →
      let r := s.dev.pushResv u.ctx hb
      let all := 2 ^ q.width - 1
      let mask := if c.ops.c.isSome then all &&& (c.ops.vc.extractLsb' 0 16).toNat else all
      let open_ := q.count + r < q.size ∧ q.masks.get ((q.tail + r) % q.size) 0 = 0 ∧ k.st ≠ .gating
      let member := q.first ≤ u.first ∧ u.first < q.first + q.width
      (¬member → answers (.mcput f) [] (statuses f 4)) ∧
      (member → open_ → answers (.mcput f) [.mcput hb mask c.ops.va] (statuses f 0)) ∧
      (member → ¬open_ → Fresh s c u → ¬polls f.limit → exec (.mcput f) s = .next (beginsWait s c f.limit (0xC6, b)))) ∧
    (∀ n q, k.queueOf ha = some (n, q) → q.kind = 3 → q.st = .opened → s.dev.isOldest c.x = true →
      ((∃ j < q.width, q.first + j ∉ k.parcel) → answers (.mctake f) [] (nothing f 2)) ∧
      ((∀ j < q.width, q.first + j ∈ k.parcel) → (u.first < q.first ∨ q.first + q.width ≤ u.first) →
        answers (.mctake f) [] (nothing f 4))) ∧
    (∀ n q m i r, k.queueOf ha = some (n, q) → q.kind = 3 → q.st = .opened → (∀ j < q.width, q.first + j ∈ k.parcel) →
      u.first = q.first + m → m < q.width → s.dev.isOldest c.x = true →
      q.indices.filter (fun i => (q.masks.get (i % q.size) 0).testBit m && !(s.dev.takeResv u.ctx ha m).contains i) = i :: r →
      s.dev.waitBefore c u (0x100 + m, c.ops.va.extractLsb' 0 64) = false →
      (let key := spKey (q.first + m) (q.scratch + 64 * (i % q.size))
       (∀ a ∈ s.dev.poison, a < key ∨ key + 64 ≤ a) → NoYoungLoad s c →
       ∃ (v : Vec) (t : State), (∀ j < 64, byteAt v j = s.mem.read (key + j)) ∧ exec (.mctake f) s = .next t ∧
        Received s t c u s.mem [.mctake ha i m] [(f.t0, .val v), (f.t1, info 0 i (q.masks.get (i % q.size) 0 - 2 ^ m))])) ∧
    (let status := fun (n : Nat) (es : List Eff) => answers (.launch f) es (statuses f n)
     let kh := c.ops.va.extractLsb' 0 64
     (k.insertStatus hb 1 ≠ none → status 2 []) ∧
     (k.insertStatus hb 1 = none →
      (k.kernelOf kh = none → status 3 []) ∧
      (∀ n x, k.kernelOf kh = some (n, x) →
        (x.usable = false → status 3 []) ∧
        (x.usable = true → badLaunch c.ops.va x.regs false = true → status 4 []) ∧
        (x.usable = true → badLaunch c.ops.va x.regs false = false → s.dev.queueFree u.ctx (hb % 2 ^ 10) ≠ 0 →
          status 0 [.launch hb c.ops.va]) ∧
        (x.usable = true → badLaunch c.ops.va x.regs false = false → s.dev.queueFree u.ctx (hb % 2 ^ 10) = 0 → Fresh s c u →
          (polls f.limit → status 1 []) ∧ (¬polls f.limit → exec (.launch f) s = .next (beginsWait s c f.limit (0xC8, b))))))) ∧
    (let kh := if c.ops.a.isSome then c.ops.va.extractLsb' 0 64 else s.dev.kernelOf u
     (k.kernelOf kh = none → answers (.kinfo f) [] (statuses f 0)) ∧
     (∀ n x, k.kernelOf kh = some (n, x) →
      (f.sub.toNat = 0 → answers (.kinfo f) [] (statuses f (kstateCode x.st + if x.draining then 8 else 0))) ∧
      (f.sub.toNat = 1 → answers (.kinfo f) [] (statuses f kh.toNat)) ∧
      (f.sub.toNat = 4 → answers (.kinfo f) [] (statuses f x.entry))))

/-! ### Groups and barriers (13 R384-R393, 14 R395-R405) -/

namespace Sys2Proof.Claims

/-- Slot `c` has fired and has answered after reads: as `Answered`, but that grids and cache entries may differ; `m` is the memory. -/
def Touched (s t : State) (c : Firing) (m : Memory) (es : List Eff) (toks : List (Target × Tok)) : Prop :=
  t.mem = m ∧ t.mgmt = s.mgmt ∧ t.agenda = s.agenda ∧ t.dev.ctxs = s.dev.ctxs ∧
  (∀ j, j ≠ c.iid → t.dev.inst j = s.dev.inst j) ∧ (∀ n, (t.dev.thr n).map archOf = (s.dev.thr n).map archOf) ∧
  t.dev.flight = s.dev.flight ++ inFlight c toks ∧
  (∃ y, t.dev.inst c.iid = some y ∧ y.fired = c.idx :: c.x.fired ∧ y.flags = c.x.flags ∧ y.wr = c.x.wr ∧ y.st = c.x.st ∧
    y.pend = c.x.pend ∧ plainEffs y.effs = plainEffs c.x.effs ++ es.map (fun e => (32 + c.idx, c.idx, e)))

/-- What reading a frame finds: the rights and the alignment hold, and its child count at its home is `n` (13 R385, R388). -/
def FrameRead (s : State) (u : Thread) (a n : Nat) (w : W) : Prop :=
  ∃ w0 bs, s.toW.check u (rR ||| rW) a 64 64 = (.ok, w0) ∧ w0.readHome u.ctx (w0.d.rnumOf u) a 4 = (.ok bs, w) ∧ n = ofBytes bs

/-- The token of a task taken from a deque: continuation, frame, tag, and whether it was stolen (13 R390). -/
def taskTok (e : DqEnt) (stolen : Bool) : Tok := .val (0#256 ++ (if stolen then 1#64 else 0#64) ++ e.tag ++ e.frame ++ e.cont)

/-- A fault of a firing: pending, with memory as before. -/
def Stops (i : Instr) (s : State) (c : Firing) (p : Pend) : Prop :=
  c.x.pend = none → ∃ t, exec i s = .next t ∧ t.mem = s.mem ∧ Pending t c.iid p

end Sys2Proof.Claims

/-- 13 R384-R386, R388-R390: `spawn` checks its continuation and its frame, and reserves a deque entry, or ends with status 1 when
its 32 entries on chip and 1,536 spilled are taken; nothing is counted or pushed before the commit. `sync.wait` goes on when the
frame's child count is zero, and acquires. `sync.next` fires in the oldest instance alone: it takes the newest entry of its own deque,
else, unless it polls, the oldest of the first victim that has one, and acquires; the entry's number and the frame stay with the
instance for the commit, also where no entry was taken. -/
def Obligations.Tasks : Prop :=
  ∀ (f : FmtQ) (s : State) (c : Firing) (u : Thread), Fires f.pr s c → s.dev.thr c.x.thr = some u → Live s u →
    let a := argA c
    let fa := a.toNat
    let fb := handleOf c.ops.vb
    let left := fun (w : W) => s.mem.writeAll w.ov.reverse
    (¬exitable a → Stops (.spawn f) s c (pendAt c .alignment fa 0 0)) ∧
    (∀ e w, exitable a → s.toW.check u (rR ||| rW) fb 64 64 = (.fault e, w) → Stops (.spawn f) s c (pendAt c e fb 1 0)) ∧
    (∀ n w, exitable a → FrameRead s u fb n w →
      let held := u.deque.length + s.dev.spawnResv c.x.thr
      let tag := if c.ops.c.isSome then c.ops.vc.extractLsb' 0 64 else 0#64
      (32 + 1536 ≤ held → ∃ t, exec (.spawn f) s = .next t ∧ Touched s t c (left w) [] (statuses f 1)) ∧
      (held < 32 + 1536 → ∃ t, exec (.spawn f) s = .next t ∧ Touched s t c (left w) [.spawn a fb tag] (statuses f 0))) ∧
    (∀ n w, FrameRead s u fa n w →
      (n = 0 → NoYoungLoad s c → ∃ t, exec (.syncWait f) s = .next t ∧ Received s t c u (left w) [] (statuses f 0)) ∧
      (n ≠ 0 → Waits (.syncWait f) s c u f.limit (traps f) (0xD1, a) (timeoutAt c .syncTimeout a 0) (statuses f 1))) ∧
    (s.dev.isOldest c.x = false → exec (.syncNext f) s = .next s) ∧
    (∀ w, s.dev.isOldest c.x = true → (fa = 0 ∧ w = s.toW) ∨ (fa ≠ 0 ∧ ∃ n, FrameRead s u fa n w) →
      let took := fun (e : DqEnt) (stolen : Bool) => [(f.t0, taskTok e stolen), (f.t1, .val (everyLane 0#64))]
      (∀ e, (s.dev.dequeOf c.x.thr).getLast? = some e →
        ∃ t, exec (.syncNext f) s = .next t ∧ Touched s t c (left w) [.syncNext fa (some (c.x.thr, e.id))] (took e false)) ∧
      (s.dev.dequeOf c.x.thr = [] → ¬polls f.limit →
        (∀ l p r e, s.dev.victims c.x.thr u = l ++ p :: r → (∀ q ∈ l, s.dev.dequeOf q.1 = []) →
          (s.dev.dequeOf p.1).head? = some e → NoYoungLoad s c →
          ∃ t, exec (.syncNext f) s = .next t ∧ Received s t c u (left w) [.syncNext fa (some (p.1, e.id))] (took e true)) ∧
        ((∀ q ∈ s.dev.victims c.x.thr u, s.dev.dequeOf q.1 = []) → Fresh s c u →
          exec (.syncNext f) s = .next (beginsWait s c f.limit (0xD101, BitVec.ofNat 64 u.gid)))) ∧
      (s.dev.dequeOf c.x.thr = [] → polls f.limit → Fresh s c u →
        (traps f = false → ∃ t, exec (.syncNext f) s = .next t ∧
          Answered s t c [.syncNext fa none] [(f.t0, .null), (f.t1, .val (everyLane 1#64))]) ∧
        (traps f = true → (s.dev.ctx u.ctx).recd.armed = false → Stops (.syncNext f) s c (timeoutAt c .syncTimeout a 0))))

/-- 13 R387, R391-R393: `evwait` in the oldest instance takes the latches it names that are set, clears them, and acquires; with none
set it waits. `evsig` refuses a malformed number and a thread at or beyond THREADS with status 4, and else leaves the latch for its
commit. `ginfo` sends one item of its own group. -/
def Obligations.EventsAndGroupItems : Prop :=
  ∀ (f : FmtQ) (s : State) (c : Firing) (u : Thread), Fires f.pr s c → s.dev.thr c.x.thr = some u → Live s u →
    let mask : BitVec 16 := if f.imm.getLsbD 5 then (argA c).setWidth 16 else 1#16 <<< (f.imm.extractLsb' 1 4).toNat
    let hit := u.latches &&& mask
    let both := fun (v : Vec) => [(f.t0, Tok.val v), (f.t1, Tok.val v)]
    let late := 1#64 ++ 1#64 ++ 1#64 ++ 1#64 ++ 1#64 ++ 1#64 ++ 0#64 ++ 1#64
    (s.dev.isOldest c.x = false → exec (.evwait f) s = .next s) ∧
    (s.dev.isOldest c.x = true → hit = 0#16 → Waits (.evwait f) s c u f.limit (traps f) (0xD2, mask.setWidth 64)
      (timeoutAt c .eventTimeout (mask.setWidth 64) 0) (both late)) ∧
    (s.dev.isOldest c.x = true → hit ≠ 0#16 → NoYoungLoad s c → ∃ t v, exec (.evwait f) s = .next t ∧ t.mem = s.mem ∧ t.mgmt = s.mgmt ∧
      t.dev.ctxs = s.dev.ctxs ∧ t.dev.thr c.x.thr = some v ∧ archOf v = archOf { u with latches := u.latches &&& ~~~hit } ∧
      (∀ n, n ≠ c.x.thr → (t.dev.thr n).map archOf = (s.dev.thr n).map archOf) ∧ (∀ j, j ≠ c.iid → t.dev.inst j = s.dev.inst j) ∧
      t.dev.flight = s.dev.flight ++ inFlight c (both (0#384 ++ hit.setWidth 64 ++ 0#64)) ∧
      ∃ y, t.dev.inst c.iid = some y ∧ y.fired = c.idx :: c.x.fired ∧
        plainEffs y.effs = plainEffs c.x.effs ++ [(32 + c.idx, c.idx, .evwait hit)]) ∧
    (∀ g, s.dev.group u.ctx u.gid = some g →
      let n := (argA c).toNat
      let answers := fun (i : Instr) (es : List Eff) (k : Nat) => ∃ t, exec i s = .next t ∧ Answered s t c es (statuses f k)
      (2 ^ 10 ≤ n ∨ g.nthreads ≤ n / 16 → answers (.evsig f) [] 4) ∧
      (n < 2 ^ 10 → n / 16 < g.nthreads → answers (.evsig f) [.evsig (n / 16) (n % 16)] 0) ∧
      (let shape := elem 64 g.rcd 1
       ∀ p ∈ [(0, g.gid), (1, ((shape &&& ~~~(7#64 <<< 16)) ||| (BitVec.ofNat 64 (g.level % 8) <<< 16)).toNat), (2, g.live),
              (3, u.latches.toNat), (4, (u.deque.length - u.spilled) + u.spilled * 2 ^ 16), (5, (elem 64 g.rcd 7).toNat % 2 ^ 32),
              (6, (elem 64 g.rcd 2).toNat), (7, g.qhandle.toNat)],
         f.sub.toNat = p.1 → answers (.ginfo f) [] p.2))

/-- 14 R396-R398, R402-R405: `binit.alloc` refuses a configuration out of range, reserves the lowest free barrier number, and sends the
handle that the allocation will have; `binit.free` frees at its commit. `arrive` and `arrive.drop` fire in the oldest instance alone:
a stale handle is 2, the last expected arrival may not be dropped, a full phase makes them wait, and else an arrival is reserved and
the target phase is sent. `bwait` goes on when its phase is reached, acquiring at the barrier's scope. -/
def Obligations.Barriers : Prop :=
  ∀ (f : FmtQ) (s : State) (c : Firing) (u : Thread), Fires f.pr s c → s.dev.thr c.x.thr = some u → Live s u →
    let k := s.dev.ctx u.ctx
    let a := argA c
    let answers := fun (i : Instr) (es : List Eff) (toks : List (Target × Tok)) => ∃ t, exec i s = .next t ∧ Answered s t c es toks
    let fails := fun (n : Nat) => [(f.t0, Tok.null), (f.t1, .val (everyLane (BitVec.ofNat 64 n)))]
    let good := fun (n : Nat) => [(f.t0, .val (everyLane (BitVec.ofNat 64 n))), (f.t1, Tok.val (everyLane 0#64))]
    let valid := a.extractLsb' 0 16 ≠ 0#16 ∧ 1 ≤ (a.extractLsb' 16 3).toNat ∧ (a.extractLsb' 16 3).toNat ≤ 4 ∧ a.extractLsb' 19 45 = 0#45
    let free := fun (n : Nat) => (k.bar n).armed = false ∧ ∀ e ∈ s.dev.ctxEffs u.ctx, ∀ w, e ≠ .binitAlloc n w
    (¬valid → answers (.binitAlloc f) [] (fails 3)) ∧
    (valid → (∀ n < 1024, ¬free n) → answers (.binitAlloc f) [] (fails 4)) ∧
    (∀ n, valid → n < 1024 → free n → (∀ m < n, ¬free m) →
      answers (.binitAlloc f) [.binitAlloc n a] (good (n + ((k.bar n).bgen + 1) % 2 ^ 22 * 2 ^ 10))) ∧
    (k.barOf a.toNat = none → answers (.binitFree f) [] (statuses f 2) ∧
      (s.dev.isOldest c.x = true → answers (.arrive f) [] (fails 2) ∧ answers (.arriveDrop f) [] (fails 2) ∧ answers (.bwait f) [] (statuses f 2))) ∧
    (s.dev.isOldest c.x = false → exec (.arrive f) s = .next s ∧ exec (.arriveDrop f) s = .next s ∧ exec (.bwait f) s = .next s) ∧
    (∀ n, k.barOf a.toNat = some n →
      let b := k.bar n
      let reserved := fun (p : Bool → Bool) =>
        ((s.dev.ctxEffs u.ctx).filter (fun e => match e with | .arrive m g d => m == n && g == b.bgen && p d | _ => false)).length
      let full := b.expected ≤ b.arrivals + reserved (fun _ => true)
      let last := b.expected - b.drops - reserved (fun d => d) = 1
      let late := timeoutAt c .barrierTimeout a (b.phase + b.arrivals * 2 ^ 32 + b.expected * 2 ^ 48)
      answers (.binitFree f) [.binitFree n b.bgen] (statuses f 0) ∧
      (s.dev.isOldest c.x = true →
        (full → Waits (.arrive f) s c u f.limit (traps f) (0xD6, a) late (fails 1)) ∧
        (¬full → answers (.arrive f) [.arrive n b.bgen false] (good ((b.phase + 1) % 2 ^ 30))) ∧
        (last → answers (.arriveDrop f) [] (fails 3)) ∧
        (¬last → full → Waits (.arriveDrop f) s c u f.limit (traps f) (0xD6, a) late (fails 1)) ∧
        (¬last → ¬full → answers (.arriveDrop f) [.arrive n b.bgen true] (good ((b.phase + 1) % 2 ^ 30))) ∧
        (let ahead := (b.phase + 2 ^ 30 - (c.ops.vb.extractLsb' 0 30).toNat) % 2 ^ 30
         (2 ^ 29 ≤ ahead → Waits (.bwait f) s c u f.limit (traps f) (0xD7, a) late (statuses f 1)) ∧
         (ahead < 2 ^ 29 → NoYoungLoad s c → ∃ t, exec (.bwait f) s = .next t ∧ Touched s t c s.mem [] (statuses f 0) ∧
           (2 ≤ b.scope → Received s t c u s.mem [] (statuses f 0))))))

/-! ### Revisions (16 R432-R451) -/

namespace Sys2Proof.Claims

/-- A valid region descriptor (16 R432), its overlaps apart. -/
def ValidRegion (w : W) (v : Vec) : Prop :=
  let l := fun (k : Nat) => (elem 64 v k).toNat
  let es := 2 ^ (l 2 % 4)
  let mt := l 2 / 16 % 16
  w.isLocal (l 0) = true ∧ w.isLocal (l 0 + l 1 - 1) = true ∧ l 0 < 2 ^ 57 ∧ l 0 % 2 ^ 14 = 0 ∧ l 1 % 2 ^ 14 = 0 ∧ 2 ^ 14 ≤ l 1 ∧
  l 1 ≤ 2 ^ 36 ∧ l 2 / 4 % 4 = 0 ∧ l 2 < 2 ^ 8 ∧ mt ≤ 11 ∧ (mt ∈ [3, 6, 7] → es = 4) ∧ l 7 = 0 ∧ l 3 % 64 = 0 ∧ l 4 % 64 = 0 ∧
  l 5 % 64 = 0 ∧ l 6 % 32 = 0 ∧ (l 5 = 0 ↔ l 6 = 0) ∧ (mt = 11 → l 5 = 0) ∧
  (mt = 10 → ((l 1 / es + 7) / 8 + 63) / 64 * 64 ≤ l 4) ∧ (mt = 11 → 32 ≤ l 4) ∧ (mt ≤ 9 → l 3 = 0 ∧ l 4 = 0)

/-- The two lowest numbers of 1 to `top` that a list does not hold. -/
def TwoFree (taken : List Nat) (top n m : Nat) : Prop :=
  0 < n ∧ n < m ∧ m ≤ top ∧ n ∉ taken ∧ m ∉ taken ∧ ∀ j, 0 < j → j < m → j ≠ n → j ∈ taken

/-- A page of a region that a fork may take (16 R448). -/
def ForkPage (w : W) (p : Nat) : Prop :=
  ∃ l, w.leafAt p = some l ∧ l.state ∉ [stAbsent, stMigrating, stEvicting, stSplitting] ∧ entBit l.w0 55 = false

end Sys2Proof.Claims

/-- 16 R432, R450, R451: `rregion.decl` ends with the first of the statuses 3 (an invalid descriptor), 4 (a revision is live), 1 (no
number free), 2 (an overlap) and 5 (a right that misses, or a range that leaves the address space), and else reserves the lowest free region number; `rregion.drop` with 3 for
a number that is not declared and 4. `rinfo` sends one item in every lane, and zero for a stale handle. -/
def Obligations.Regions : Prop :=
  ∀ (f : FmtQ) (s : State) (c : Firing) (u : Thread), Fires f.pr s c → s.dev.thr c.x.thr = some u → Live s u →
    let k := s.dev.ctx u.ctx
    let v := c.ops.va
    let l := fun (j : Nat) => (elem 64 v j).toNat
    let rs := s.dev.regionsOf u.ctx true
    let alone := k.liveRevs = []
    let free := fun (n : Nat) => ∀ r ∈ rs, r.1 ≠ n
    let shadows := ((k.shadows.filter (fun p => p.2.isOpen)).map (fun p => (p.2.base, p.2.len))) ++ (s.dev.shadowResv u.ctx).map (fun p => p.2)
    let hits := fun (p : Nat × Nat) => l 0 < p.1 + p.2 ∧ p.1 < l 0 + l 1
    let clash := (∃ r ∈ rs, hits r.2) ∨ ∃ r ∈ shadows, hits r
    let fails := fun (n : Nat) => [(f.t0, Tok.null), (f.t1, .val (everyLane (BitVec.ofNat 64 n)))]
    let answers := fun (i : Instr) (es : List Eff) (toks : List (Target × Tok)) => ∃ t, exec i s = .next t ∧ Answered s t c es toks
    (¬ValidRegion s.toW v → answers (.rregionDecl f) [] (fails 3)) ∧
    (ValidRegion s.toW v →
      (¬alone → answers (.rregionDecl f) [] (fails 4)) ∧
      (alone → (∀ n < 16, ¬free n) → answers (.rregionDecl f) [] (fails 1)) ∧
      (∀ n, alone → n < 16 → free n → (∀ m < n, ¬free m) →
        (clash → answers (.rregionDecl f) [] (fails 2)) ∧
        (¬clash → ∀ r q z w1 w2 w3, s.toW.rightsAll u.first u.ctx 2 (l 0) (l 1) = (r, w1) →
          w1.rightsAll u.first u.ctx 2 (l 3) (l 4) = (q, w2) → w2.rightsAll u.first u.ctx 2 (l 5) (l 6) = (z, w3) →
          let outside := 2 ^ 57 < l 3 + l 4 ∨ 2 ^ 57 < l 5 + l 6
          ((r && q && z) = false ∨ outside → ∃ t, exec (.rregionDecl f) s = .next t ∧ Touched s t c s.mem [] (fails 5)) ∧
          ((r && q && z) = true → ¬outside → ∃ t, exec (.rregionDecl f) s = .next t ∧ Touched s t c s.mem [.regionDecl n v]
            [(f.t0, .val (everyLane (BitVec.ofNat 64 n))), (f.t1, .val (everyLane 0#64))])))) ∧
    (let n := (argA c).toNat
     let there := n < 16 ∧ (k.regions.get n {}).declared = true
     (¬there → answers (.rregionDrop f) [] (statuses f 3)) ∧
     (there → ¬alone → answers (.rregionDrop f) [] (statuses f 4)) ∧
     (there → alone → answers (.rregionDrop f) [.regionDrop n] (statuses f 0))) ∧
    (let a := (argA c).toNat
     let item := fun (n v : Nat) => f.sub.toNat = n → answers (.rinfo f) [] (statuses f v)
     item 1 (k.revHandle (s.dev.rnumOf u)) ∧
     item 2 (k.liveRevs.length % 2 ^ 10 + (4095 - s.dev.ridsTaken.length) * 2 ^ 16) ∧
     (let r := k.regions.get a {}
      item 4 (if r.declared then (elem 64 r.desc 2).toNat % 4 + (elem 64 r.desc 2).toNat / 16 % 16 * 2 ^ 4 + 2 ^ 8 else 0)) ∧
     (k.revOf a = none → item 0 0 ∧ item 3 0 ∧ item 5 0) ∧
     (∀ n, k.revOf a = some n →
       let r := k.rev n
       (n = 0 → item 0 (1 + r.depth * 2 ^ 4 + r.parent * 2 ^ 8 + r.base * 2 ^ 18)) ∧
       (n ≠ 0 → item 0 (rstateCode r.st + r.depth * 2 ^ 4 + r.parent * 2 ^ 8 + r.base * 2 ^ 18)) ∧
       item 3 ((r.reserve.length + ((k.liveRevs.filter (fun p => p.2.st == .retained && p.2.parent == n)).map
         (fun p => p.2.reserve.length)).sum) + r.owned.length * 2 ^ 32) ∧
       item 5 (if r.st = .joined then r.conflicts + r.overflow * 2 ^ 32 else 0)))

/-- 16 R435-R437, R441, R445, R448, R449: `fork` in the oldest instance ends with the first of the statuses 2, 3, 4 of a launch, 8 (no
region, or a page of one that it cannot take), 7 (depth 8), 6 (no two revision numbers or RIDs free) and 5 (the pool is too short);
it waits for locked pages and for room in the queue, and else keeps two numbers, two RIDs, its frames and a queue entry for the
commit, and sends the child's handle. `join` ends with 2 for what is not an active child of the own revision and 3 for one that
another join has reserved, waits while the child or an unjoined descendant has a group or a record, and else reserves the child. -/
def Obligations.ForkAndJoin : Prop :=
  ∀ (f : FmtQ) (s : State) (c : Firing) (u : Thread), Fires f.pr s c → s.dev.thr c.x.thr = some u → Live s u →
    let k := s.dev.ctx u.ctx
    let answers := fun (i : Instr) (es : List Eff) (toks : List (Target × Tok)) => ∃ t, exec i s = .next t ∧ Answered s t c es toks
    let fails := fun (n : Nat) => [(f.t0, Tok.null), (f.t1, .val (everyLane (BitVec.ofNat 64 n)))]
    (s.dev.isOldest c.x = false → exec (.fork f) s = .next s ∧ exec (.join f) s = .next s) ∧
    (s.dev.isOldest c.x = true →
      (let hb := handleOf c.ops.vb
       let kh := c.ops.va.extractLsb' 0 64
       let pages := s.dev.regionPages u.ctx
       let nt := s.dev.rnumsTaken u.ctx
       let rt := s.dev.ridsTaken
       (k.insertStatus hb 1 ≠ none → answers (.fork f) [] (fails 2)) ∧
       (k.insertStatus hb 1 = none →
        ((k.kernelOf kh = none ∨ ∃ n x, k.kernelOf kh = some (n, x) ∧ x.usable = false) → answers (.fork f) [] (fails 3)) ∧
        (∀ n x, k.kernelOf kh = some (n, x) → x.usable = true →
          (badLaunch c.ops.va x.regs false = true → answers (.fork f) [] (fails 4)) ∧
          (badLaunch c.ops.va x.regs false = false →
            (pages = [] ∨ (∃ p ∈ pages, ¬ForkPage s.toW p) → answers (.fork f) [] (fails 8)) ∧
            (pages ≠ [] → (∀ p ∈ pages, ForkPage s.toW p) →
              (8 ≤ (k.rev (s.dev.rnumOf u)).depth → answers (.fork f) [] (fails 7)) ∧
              ((k.rev (s.dev.rnumOf u)).depth < 8 →
                ((∀ n m, ¬TwoFree nt 1023 n m) ∨ (∀ n m, ¬TwoFree rt 4095 n m) → answers (.fork f) [] (fails 6)) ∧
                (∀ n m r q, TwoFree nt 1023 n m → TwoFree rt 4095 r q →
                  let need := 2 * pages.length + (2 * pages.length + 1791) / 1792 + s.toW.tablesFor pages
                  let locked := ∃ p ∈ pages, ∃ l, s.toW.leafAt p = some l ∧ entLocks l.w0 ≠ 0
                  let full := s.dev.queueFree u.ctx (hb % 2 ^ 10) = 0
                  (s.dev.poolFree.length < need → answers (.fork f) [] (fails 5)) ∧
                  (need ≤ s.dev.poolFree.length →
                    (locked ∨ full → Waits (.fork f) s c u f.limit false (0xE0, BitVec.ofNat 64 hb) (pendAt c .queueTimeout 0 0 0) (fails 1)) ∧
                    (¬locked → ¬full → answers (.fork f) [.fork n r m q (s.dev.poolFree.take need) hb c.ops.va]
                      [(f.t0, .val (everyLane (BitVec.ofNat 64 (n + ((k.rev n).rgen + 1) % 2 ^ 32 * 2 ^ 10)))),
                       (f.t1, .val (everyLane 0#64))]))))))))) ∧
      (let a := (argA c).toNat
       let child := fun (n : Nat) => k.revOf a = some n ∧ n ≠ 0 ∧ (k.rev n).st = .active ∧ (k.rev n).parent = s.dev.rnumOf u
       ((∀ n, ¬child n) → answers (.join f) [] (statuses f 2)) ∧
       (∀ n, child n →
        (s.dev.joinResv u.ctx n = true → answers (.join f) [] (statuses f 3)) ∧
        (s.dev.joinResv u.ctx n = false →
          ((∃ m ∈ k.joinOrder 8 n, s.dev.revBusy u.ctx m = true) →
            Waits (.join f) s c u f.limit false (0xE1, argA c) (pendAt c .queueTimeout 0 0 0) (statuses f 1)) ∧
          ((∀ m ∈ k.joinOrder 8 n, s.dev.revBusy u.ctx m = false) → answers (.join f) [.join n] (statuses f 0))))))

/-! ### Traverse sets (17 R454-R470) -/

namespace Sys2Proof.Claims

/-- A set descriptor whose own fields are valid (17 R456). -/
def ValidSet (w : W) (v : Vec) : Prop :=
  let l := fun (k : Nat) => (elem 64 v k).toNat
  let n := l 1 % 2 ^ 17
  (∃ k < 13, n = 2 ^ (k + 4)) ∧ l 0 % 2 ^ 14 = 0 ∧ l 0 < 2 ^ 57 ∧ w.isLocal (l 0) = true ∧ w.isLocal (l 0 + 256 * n - 1) = true ∧
  l 1 / 2 ^ 17 % 8 = 0 ∧ l 1 / 2 ^ 20 % 16 < 8 ∧ 8 ≤ l 1 / 2 ^ 24 % 32 ∧ l 1 / 2 ^ 24 % 32 ≤ 16 ∧ l 1 / 2 ^ 29 % 8 = 0 ∧
  l 2 % 64 = 0 ∧ l 2 < 2 ^ 57 ∧ ∀ k, 3 ≤ k → k ≤ 7 → l k = 0

/-- A header that a producer may write, with the address of the rest (17 R455, R465). -/
def ValidHead (c : Firing) (head rest : Word) : Prop :=
  head.extractLsb' 11 53 = 0#53 ∧ head.extractLsb' 0 9 = 0#9 ∧
  (head.extractLsb' 9 2 ≠ 0#2 → c.ops.c.isSome = true ∧ rest.toNat % 64 = 0 ∧ rest.toNat < 2 ^ 57)

end Sys2Proof.Claims

/-! ### Context, page, link and debug instructions (10 R312-R315, 15 R430-R431, 18 R485-R488, 19 R506-R508) -/

namespace Sys2Proof.Claims

/-- A collective descriptor whose own fields are valid (18 R485, R487). -/
def ValidColl (s : State) (u : Thread) (v : Vec) : Prop :=
  let l := fun (k : Nat) => (elem 64 v k).toNat
  l 0 % 64 = 0 ∧ l 1 % 64 = 0 ∧ l 0 < 2 ^ 57 ∧ l 1 < 2 ^ 57 ∧ s.toW.isLocal (l 0) = true ∧ s.toW.isLocal (l 1) = true ∧
  0 < l 2 ∧ l 2 ≤ 2 ^ 28 ∧ l 3 < 2 ^ 57 ∧ l 4 < 2 ^ 40 ∧ l 6 = 0 ∧ s.dev.badCompl u.ctx v = false

end Sys2Proof.Claims

/-- 10 R312-R315, 15 R413, R430, R431: `ctxq` sends an item of its context; a handler kernel is installed
where the configuration names one that can get a group (log 90). `frec` sends the live record that its handle names, and
zeros for any other; `fresume` in the oldest instance reserves a live record, with 1 for a handle that is not live or is reserved and
2 where the thread is not STOPPED; both raise PROTECTION outside the handler kernel, and a redirect to an address that is no block
address is ALIGNMENT. `pgq` sends state, size, bits, locks, package domain and rights of a leaf, and SIZE 3 where there is no right
or no leaf. `pgadvise` ends with 1 for a bad range and 2 for a right that misses, and else leaves its advice for the commit. -/
def Obligations.ContextAndPageInstructions : Prop :=
  ∀ (f : FmtQ) (s : State) (c : Firing) (u : Thread), Fires f.pr s c → s.dev.thr c.x.thr = some u → Live s u →
    let k := s.dev.ctx u.ctx
    let a := argA c
    let answers := fun (i : Instr) (es : List Eff) (toks : List (Target × Tok)) => ∃ t, exec i s = .next t ∧ Answered s t c es toks
    let both := fun (v : Vec) => [(f.t0, Tok.val v), (f.t1, Tok.val v)]
    (let item := fun (n v : Nat) => f.sub.toNat = n → answers (.ctxq f) [] (statuses f v)
     item 0 (u.ctx % 4096 + k.gen.toNat * 2 ^ 16) ∧ item 1 (k.cfg.headD 0#64).toNat ∧
     ((∃ n x, k.kernelOf (k.cfg.getD 1 0#64) = some (n, x) ∧ x.usable = true) → item 2 (k.frecs.length % 2 ^ 7 + 2 ^ 8)) ∧
     ((∀ n x, k.kernelOf (k.cfg.getD 1 0#64) = some (n, x) → x.usable = false) → item 2 (k.frecs.length % 2 ^ 7)) ∧ item 3 (k.stale % 2 ^ 32) ∧
     item 4 (k.fwderr % 2 ^ 32) ∧ item 5 0x3F ∧ item 6 Config.stepping ∧ item 7 k.restores) ∧
    (s.dev.isHandler u = false →
      Stops (.frec f) s c (pendAt c .protection 0 0 0) ∧
      (s.dev.isOldest c.x = true → ∀ i ∈ ([.fresumeResume, .fresumeRedirect, .fresumeEnd] : List (FmtQ → Instr)),
        Stops (i f) s c (pendAt c .protection 0 0 0))) ∧
    (s.dev.isHandler u = true →
      (k.recOf a = none → answers (.frec f) [] (both 0#512)) ∧ (∀ e r, k.recOf a = some (e, r) → answers (.frec f) [] (both r.lanes))) ∧
    (∀ p ∈ ([(.fresumeResume, 0), (.fresumeRedirect, 1), (.fresumeEnd, 2)] : List ((FmtQ → Instr) × Nat)),
      let b := c.ops.vb.extractLsb' 0 64
      let bad := p.2 = 1 ∧ (¬exitable b ∨ s.toW.isLocal b.toNat = false)
      (s.dev.isOldest c.x = false → exec (p.1 f) s = .next s) ∧
      (s.dev.isOldest c.x = true → s.dev.isHandler u = true →
        (bad → Stops (p.1 f) s c (pendAt c .alignment b.toNat 0 0)) ∧
        (¬bad →
          (k.recOf a = none ∨ s.dev.recTaken u.ctx a.toNat = true → answers (p.1 f) [] (statuses f 1)) ∧
          (∀ e r, k.recOf a = some (e, r) → s.dev.recTaken u.ctx a.toNat = false →
            (((s.dev.thr r.thr).all (fun v => v.st != .stopped)) = true → answers (p.1 f) [] (statuses f 2)) ∧
            (∀ v, s.dev.thr r.thr = some v → v.st = .stopped →
              answers (p.1 f) [.fresume a.toNat p.2 (if p.2 = 1 then b.toNat else 0)] (statuses f 0)))))) ∧
    (let x := a.toNat
     let none' := 0#448 ++ 24#64
     (2 ^ 57 ≤ x ∨ s.toW.pdid x = none → answers (.pgq f) [] (both none')) ∧
     (∀ pd, x < 2 ^ 57 → s.toW.pdid x = some pd →
       let r := s.toW.rightsOn u.ctx pd
       let hi := pd * 2 ^ 32 + r.toNat * 2 ^ 48
       (r = 0#3 → answers (.pgq f) [] (both none')) ∧
       (r ≠ 0#3 → s.toW.isRemote x = true → ∃ v : Vec, v.extractLsb' 128 384 = 0#384 ∧ answers (.pgq f) [] (both v)) ∧
       (r ≠ 0#3 → s.toW.isRemote x = false →
         (s.toW.leafAt x = none →
           answers (.pgq f) [] (both (0#384 ++ BitVec.ofNat 64 (x / 2 ^ 14 * 2 ^ 14) ++ BitVec.ofNat 64 (24 + hi)))) ∧
         (∀ l, s.toW.leafAt x = some l →
           let b := fun (q : Bool) (n : Nat) => if q then 2 ^ n else 0
           let size := if l.level = 3 then 0 else if l.level = 2 then 1 else 2
           answers (.pgq f) [] (both (0#384 ++ BitVec.ofNat 64 (l.base x) ++ BitVec.ofNat 64
             (l.state + size * 8 + b (entBit l.w0 58) 5 + b (entBit l.w0 55) 6 + b (entBit l.w0 56) 7 + b (entBit l.w1 47) 8 +
               entLocks l.w0 * 2 ^ 9 + hi))))))) ∧
    (∀ p ∈ ([(.pgadviseWillneed, 0), (.pgadviseTranslate, 1), (.pgadviseEvictbehind, 2), (.pgadviseKeep, 3)] : List ((FmtQ → Instr) × Nat)),
      let base := a.toNat
      let len := handleOf c.ops.vb
      let good := base % 2 ^ 14 = 0 ∧ len % 2 ^ 14 = 0 ∧ 0 < len ∧ len ≤ 2 ^ 30 ∧ base + len ≤ 2 ^ 57 ∧ s.toW.isLocal base = true ∧
        s.toW.isLocal (base + len - 1) = true
      (¬good → answers (p.1 f) [] (statuses f 1)) ∧
      (good → ∀ r w, s.toW.rightsAll u.first u.ctx (if p.2 < 2 then 1 else 2) base len = (r, w) →
        (r = false → ∃ t, exec (p.1 f) s = .next t ∧ Touched s t c s.mem [] (statuses f 2)) ∧
        (r = true → ∃ t, exec (p.1 f) s = .next t ∧ Touched s t c s.mem [.pgadvise p.2 base len] (statuses f 0))))

/-- 18 R485, R487, R488, 19 R506-R508: `lnkq` sends an item of a port, of the domain, or of the clock. `acoll` ends with 2 for an
invalid descriptor, its own bit clear or a root outside the members, waits for an entry, and else keeps the collective for its commit.
`station` in the oldest instance ends with 1 where the context does not log, 2 for a number that is not above the last and 3 where
another has reserved one. `dmark` leaves its mark for the commit and sends nothing. `probe` sends an item. -/
def Obligations.LinkAndDebugInstructions : Prop :=
  ∀ (f : FmtQ) (s : State) (c : Firing) (u : Thread), Fires f.pr s c → s.dev.thr c.x.thr = some u → Live s u →
    let k := s.dev.ctx u.ctx
    let a := argA c
    let answers := fun (i : Instr) (es : List Eff) (toks : List (Target × Tok)) => ∃ t, exec i s = .next t ∧ Answered s t c es toks
    let item := fun (i : Instr) (n : Nat) (v : Nat) => f.sub.toNat = n → answers i [] (statuses f v)
    (let p := s.dev.port a.toNat
     let port := fun (v : Nat) => if a.toNat < 48 then v else 0
     item (.lnkq f) 0 (port (pstateCode p.st + p.lanes % 8 * 2 ^ 3 + p.peer % 256 * 2 ^ 8)) ∧
     item (.lnkq f) 1 (port (p.replays % 2 ^ 32 + p.retrains % 2 ^ 32 * 2 ^ 32)) ∧
     item (.lnkq f) 2 (s.mgmt.domId % 256 + s.mgmt.domMembers % 512 * 2 ^ 8 + s.toW.grandmaster % 256 * 2 ^ 24) ∧
     item (.lnkq f) 3 (((s.dev.usablePorts a.toNat).eraseDups.map (fun p => 2 ^ p)).sum) ∧
     item (.lnkq f) 4 (port p.late) ∧ item (.lnkq f) 5 (s.dev.ptpOff % 2 ^ 64).toNat) ∧
    (let v := c.ops.va
     let at_ := (elem 64 v 3).toNat
     (¬ValidColl s u v → answers (.acoll f) [] (statuses f 2)) ∧
     (ValidColl s u v →
       (∀ e w, s.toW.check u rR at_ 32 1 = (.fault e, w) → Stops (.acoll f) s c (pendAt c e at_ 0 0)) ∧
       (∀ w bs w', s.toW.check u rR at_ 32 1 = (.ok, w) → w.readHome u.ctx (w.d.rnumOf u) at_ 32 = (.ok bs, w') →
         let m := BitVec.ofNat 256 (ofBytes bs)
         let root := ((elem 64 v 4).extractLsb' 32 8).toNat
         let out := m.getLsbD s.mgmt.domId = false ∨ (f.sub = 3#4 ∧ m.getLsbD root = false)
         let held := s.dev.collFree = false ∨ s.dev.waitBefore c u (0xF5, 0#64) = true
         let left := s.mem.writeAll w'.ov.reverse
         (out → ∃ t, exec (.acoll f) s = .next t ∧ Touched s t c left [] (statuses f 2)) ∧
         (¬out → held → Waits (.acoll f) s c u f.limit false (0xF5, 0#64) (pendAt c .queueTimeout 0 0 0) (statuses f 1)) ∧
         (¬out → ¬held → ∃ t, exec (.acoll f) s = .next t ∧ Touched s t c left
           [.acoll v m f.sub.toNat (f.imm.extractLsb' 0 2).toNat (f.imm.extractLsb' 2 2).toNat] (statuses f 0))))) ∧
    ((s.dev.isOldest c.x = false → exec (.station f) s = .next s) ∧
     (s.dev.isOldest c.x = true →
       let n := a.toNat % 2 ^ 32
       (k.logging = false → answers (.station f) [] (statuses f 1)) ∧
       (k.logging = true →
         let last := max k.log.station (k.log.marking.getD 0)
         let taken := ∃ e ∈ s.dev.ctxEffs u.ctx, ∃ m, e = .station m
         (n ≤ last → answers (.station f) [] (statuses f 2)) ∧
         (last < n → taken → answers (.station f) [] (statuses f 3)) ∧
         (last < n → ¬taken → answers (.station f) [.station n] (statuses f 0))))) ∧
    answers (.dmark f) [.dmark f.imm.toNat a] [] ∧
    (item (.probe f) 1 (s.dev.grid u.first).blockCommits ∧ item (.probe f) 2 k.trace.off ∧
     item (.probe f) 3 (k.log.station % 2 ^ 32 + k.log.chunks.length * 2 ^ 32) ∧
     item (.probe f) 4 (k.recd.mode % 4 + u.ordinal * 2 ^ 24) ∧
     ((∀ p ∈ (s.dev.grid c.x.grid).planes, p.2.placement ≠ c.x.placement) → item (.probe f) 0 0) ∧
     (let on := fun (j : Nat) => if (k.comps.get j {}).kind = 0 then 0 else 2 ^ (j + 1)
      item (.probe f) 5 ((if (k.cfg.headD 0#64).getLsbD 11 then 1 else 0) + on 0 + on 1 + on 2 + on 3)))

/-! ### Fetch, placement, tokens, thread slots (02 R23-R41, R47, 11 R328-R333) -/

namespace Sys2Proof.Claims

/-- A block body in memory that a fill reads: header, length, body, its CRC right, inside the code object, every page verified. -/
def FillReads (s : State) (f : Fill) (hdr body : List Byte) (w : W) : Prop :=
  let k := (s.dev.ctx f.ctx).kernels.get (f.kernel.extractLsb' 0 8).toNat {}
  let len := 256 + bodyLen hdr
  ∃ w1, k.st ≠ .unloaded ∧ k.lgen = (f.kernel.extractLsb' 8 32).toNat ∧ k.base ≤ f.blk ∧ f.blk + len ≤ k.base + k.codeLen ∧
    s.toW.readHome f.ctx 0 f.blk 256 = (.ok hdr, w1) ∧ k.pageIn f.blk len = none ∧
    w1.readHome f.ctx 0 (f.blk + 256) (len - 256) = (.ok body, w)

end Sys2Proof.Claims

/-- 02 R24, R31, R41, 08 R225, 11 R328, R332, R333: what FETCH_OPPORTUNITY, FETCH_COMPLETE, FILL_DELIVERY and CODE_PAGE_VERIFICATION
do. The ready slot that is chosen is a starving one passed over most often, else the one that has waited longest; its thread gets a
new instance of its next block, in FETCHING, or with PROTECTION pending where the block lies off the package (05 R145). A block in the placement cache is placed
next; a miss joins the fill table or starts a fill, 32 at most. A fill whose CRC is wrong is CODE_ECC against what has joined it; a right
one enters the placement cache of every grid that waits for it. A page whose digest differs taints its kernel. -/
def Obligations.FetchAndFill : Prop :=
  ∀ (s : State),
    let a := s.dev.arg.a
    (s.dev.arg.b = 0 → s.dev.readyOn a = [] → exec .fetchOpportunity s = .next s) ∧
    (∀ tid sl u blk, s.dev.arg.b = 0 → s.dev.chooseSlot a (s.dev.readyOn a) = some (tid, sl) → s.dev.thr tid = some u → u.next = some blk →
      (let x := (s.dev.grid a).slots.get sl {}
       (tid, sl) ∈ s.dev.readyOn a ∧ ∀ q ∈ s.dev.readyOn a, let y := (s.dev.grid a).slots.get q.2 {}
        (56 ≤ y.passed → 56 ≤ x.passed ∧ y.passed ≤ x.passed) ∧ (x.passed < 56 → x.waitSince ≤ y.waitSince)) ∧
      ∃ t n y, exec .fetchOpportunity s = .next t ∧ t.mem = s.mem ∧ t.dev.inst n = some y ∧ y.thr = tid ∧ y.grid = a ∧ y.blk = blk ∧
        y.seq = u.seq + 1 ∧ ((t.dev.grid a).slots.get sl {}).passed = 0 ∧
        ((∀ j z, s.dev.inst j = some z → z.thr = tid → z.seq ≤ u.seq) →
          ∃ v, t.dev.thr tid = some v ∧ v.seq = u.seq + 1 ∧ v.next = none ∧ archOf v = archOf u) ∧
        (s.toW.isLocal blk = false → Pending t n { cause := .protection, loc := 0xFF#8, w2 := BitVec.ofNat 64 blk, w3 := 2#64 }) ∧
        (s.toW.isLocal blk = true → (∃ e ∈ (s.dev.grid a).plb, e.region = blk / 2 ^ 21) →
          (∀ e ∈ (s.dev.grid a).plb, e.region = blk / 2 ^ 21 → e.rights.getLsbD 2 = true) → y.st = .fetching ∧ y.pend = none)) ∧
    (∀ x u, s.dev.inst a = some x → s.dev.thr x.thr = some u →
      let h := s.dev.kernelOf u
      let field := fieldOf x.grid
      let fills := (s.dev.field field).fills
      let same := fun (f : Fill) => f.ctx = u.ctx ∧ f.kernel = h ∧ f.blk = x.blk ∧ f.regCnt = u.regCnt
      (x.st ≠ .fetching ∨ s.dev.stopped x.grid = true → exec .fetchComplete s = .next s) ∧
      (x.st = .fetching → s.dev.stopped x.grid = false →
        (∀ e, s.dev.cached x.grid h x.blk u.regCnt = some e → ∃ t, exec .fetchComplete s = .next t ∧ t.mem = s.mem ∧
          t.dev.inst a = some { x with st := .placing, code := some e.code } ∧ ∀ j, j ≠ a → t.dev.inst j = s.dev.inst j) ∧
        (s.dev.cached x.grid h x.blk u.regCnt = none →
          ((∃ f ∈ fills, a ∈ f.2.joined) → exec .fetchComplete s = .next s) ∧
          ((∀ f ∈ fills, a ∉ f.2.joined) → (∀ f ∈ fills, ¬same f.2) →
            (32 ≤ fills.length → exec .fetchComplete s = .next s) ∧
            (fills.length < 32 → ∃ t n, exec .fetchComplete s = .next t ∧ t.mem = s.mem ∧ t.dev.insts = s.dev.insts ∧
              (t.dev.field field).fills = fills ++ [(n, ⟨u.ctx, h, x.blk, u.regCnt, [a], [], none⟩)]))))) ∧
    (∀ f hdr body w, (s.dev.field a).fills.look s.dev.arg.b = some f → f.waitPage = none → FillReads s f hdr body w →
      let blk := parseBlock hdr body
      let left := s.mem.writeAll w.ov.reverse
      (∀ j x, bodyCrc body ≠ blk.hdw1.extractLsb' 48 16 → f.joined = [j] → s.dev.inst j = some x → x.pend = none →
        ∃ t, exec .fillDelivery s = .next t ∧ t.mem = left ∧ (t.dev.field a).fills.look s.dev.arg.b = none ∧
          Pending t j { cause := .codeEcc, loc := 0xFF#8, w2 := BitVec.ofNat 64 (f.blk / 2 ^ 14 * 2 ^ 14) }) ∧
      (bodyCrc body = blk.hdw1.extractLsb' 48 16 → blk.placed = true →
        ∃ t code, exec .fillDelivery s = .next t ∧ t.mem = left ∧ (t.dev.field a).fills.look s.dev.arg.b = none ∧
          (∀ q, placeBlock ((s.dev.ctx f.ctx).kernels.get (f.kernel.extractLsb' 0 8).toNat {}) ⟨0, []⟩ ((s.dev.bctl f.ctx).getLsbD 26)
            f.regCnt blk = .ok q → code = q) ∧
          ∀ g ∈ s.dev.fillGrids f, (s.dev.grid g).cache = [] → 256 + 128 * code.chunks ≤ 65536 →
            (t.dev.grid g).cache = [⟨f.kernel, f.blk, f.regCnt, code, s.dev.cycle⟩])) ∧
    (∀ f, (s.dev.field a).fills.look s.dev.arg.b = some f → f.waitPage ≠ none → exec .fillDelivery s = .next s) ∧
    (let v : Verif := ⟨s.dev.arg.a, s.dev.arg.b, s.dev.arg.c⟩
     let k := (s.dev.ctx v.ctx).kernel v.kslot
     (v ∉ s.dev.verifs → exec .codePageVerification s = .next s) ∧
     (∀ bs w dg w', v ∈ s.dev.verifs → s.toW.readHome v.ctx 0 (k.base + 2 ^ 14 * v.page) (2 ^ 14) = (.ok bs, w) →
       w.readHome v.ctx 0 (k.base + k.manifest + 8 + 48 * v.page) 48 = (.ok dg, w') → (∀ g ∈ s.dev.groups, g.ctx ≠ v.ctx) →
       ∃ t, exec .codePageVerification s = .next t ∧ t.dev.verifs = s.dev.verifs.erase v ∧
         let k' := (t.dev.ctx v.ctx).kernel v.kslot
         (sha384 bs = dg → k'.verified = k.verified ++ [v.page] ∧ k'.failed = k.failed ∧ k'.st = k.st ∧
           ∀ f q, (t.dev.field f).fills.look q ≠ none → ∃ p p', (s.dev.field f).fills.look q = some p ∧ (t.dev.field f).fills.look q = some p' ∧
             p'.waitPage = if p.ctx = v.ctx ∧ (p.kernel.extractLsb' 0 8).toNat = v.kslot ∧ p.waitPage = some v.page then none else p.waitPage) ∧
         (sha384 bs ≠ dg → k'.verified = k.verified ∧ k'.failed = k.failed ++ [v.page] ∧
           (k.st = .resident ∨ k.st = .active → k'.st = .tainted))))

/-- 02 R26, R27, R29, R31, R34, R37, R47, 04 R90, R91, R109: INSTANCE_PLACE checks a block and gives it a plane. TOKEN_DELIVERY brings a
token to an operand, to a write entry or to the next iteration; a second one is EXIT_CONFLICT. OVERFLOW_REINJECT brings the
retained token of the lowest tag to its slot; a completion is bound to the placement that has taken it. EXIT_MISPREDICT flushes what is younger and follows the exit that fired. WATCHDOG_EXPIRY is BLOCK_INCOMPLETE with what is
missing. PREDICTOR_ENTRY_CLEAR drops entries 2^20 commits old. SLOT_WAIT_ENTRY, SLOT_RETENTION and WAIT_LIMIT_EXPIRY follow the times of
R37 and of the wait. -/
def Obligations.InstancesAndSlots : Prop :=
  ∀ (s : State),
    let a := s.dev.arg.a
    let b := s.dev.arg.b
    (∀ x u blk, s.dev.inst a = some x → s.dev.thr x.thr = some u → x.code = some blk →
      (x.st ≠ .placing ∨ s.dev.stopped x.grid = true → exec .instancePlace s = .next s) ∧
      (∀ e, x.st = .placing → s.dev.stopped x.grid = false → blk.placed = true → x.pend = none →
        s.dev.placeCheck u x blk ⟨0, []⟩ = some e →
        ∃ t, exec .instancePlace s = .next t ∧ t.mem = s.mem ∧ Pending t a (e.pend x.blk)) ∧
      (∀ k, x.st = .placing → s.dev.stopped x.grid = false → blk.placed = true → s.dev.placeCheck u x blk ⟨0, []⟩ = none → x.preLoops = [] →
        s.dev.freePlane x.grid = some k → (∀ p ∈ (s.dev.grid x.grid).planes, p.2.placement ≠ s.dev.nextId) →
        ∃ t y p, exec .instancePlace s = .next t ∧ t.mem = s.mem ∧ t.dev.inst a = some y ∧ y.st = .firing ∧ y.plane = some k ∧
          y.code = some blk ∧ y.thr = x.thr ∧ y.seq = x.seq ∧ y.blk = x.blk ∧ y.since = s.dev.cycle ∧ y.wdog = (s.dev.ctx u.ctx).wdog ∧
          y.fired = x.fired ∧ y.effs = x.effs ∧ (∀ j, j ≠ a → t.dev.inst j = s.dev.inst j) ∧
          (t.dev.grid x.grid).planes.look k = some p ∧ p.blk = x.blk ∧ p.thr = x.thr ∧ p.firingAt = some s.dev.cycle)) ∧
    (∀ f x blk u, s.dev.flight[a]? = some f → s.dev.inst f.iid = some x → x.code = some blk → s.dev.thr x.thr = some u →
      let idx := tgtIdx f.tgt
      let op := tgtOp f.tgt
      let rest := s.dev.flight.eraseIdx a
      let skipped := blk.carried idx op = true ∧ x.iter ≠ 0
      (s.dev.stopped x.grid = true → exec .tokenDelivery s = .next s) ∧
      (s.dev.stopped x.grid = false → x.st = .firing ∨ x.st = .complete →
        (tgtKind f.tgt = 1 → ¬skipped → x.operand idx op = none → exec .tokenDelivery s =
          .next { s with dev := { s.dev with flight := rest, insts := s.dev.insts.set f.iid { x with operands := (idx, op, f.tok) :: x.operands } } }) ∧
        (tgtKind f.tgt = 1 → skipped → exec .tokenDelivery s = .next { s with dev := { s.dev with flight := rest } }) ∧
        (tgtKind f.tgt = 1 → ¬skipped → x.operand idx op ≠ none → x.pend = none → ∃ t, exec .tokenDelivery s = .next t ∧ t.mem = s.mem ∧
          Pending t f.iid { cause := .exitConflict, w3 := BitVec.ofNat 64 (3 + idx * 2 ^ 8 + op * 2 ^ 16) }) ∧
        (let e := (f.tgt.extractLsb' 0 5).toNat
         (tgtKind f.tgt = 2 → x.wr.look e = none → ∃ t y, exec .tokenDelivery s = .next t ∧ t.mem = s.mem ∧ t.dev.inst f.iid = some y ∧
           y.wr = x.wr.set e f.tok ∧ y.fired = x.fired ∧ y.operands = x.operands ∧ y.st = x.st ∧ t.dev.threads = s.dev.threads) ∧
         (tgtKind f.tgt = 2 → x.wr.look e ≠ none → x.pend = none → ∃ t, exec .tokenDelivery s = .next t ∧ t.mem = s.mem ∧
           Pending t f.iid { cause := .exitConflict, w3 := BitVec.ofNat 64 (e * 2 ^ 8) })) ∧
        (tgtKind f.tgt = 3 → f.src ≠ none → ∃ t tok, exec .tokenDelivery s = .next t ∧ t.mem = s.mem ∧ t.dev.insts = s.dev.insts ∧
          t.dev.flight = rest ∧ t.dev.retained = s.dev.retained ++ [tok] ∧ tok.tgt = f.tgt ∧ tok.tok = f.tok ∧ tok.producer = some f.iid ∧
          tok.placement = some x.placement ∧ tok.grid = x.grid))) ∧
    (∀ f iid x blk u, s.dev.reinjectable a = some (f, iid) → s.dev.inst iid = some x → x.code = some blk → s.dev.thr x.thr = some u →
      let idx := tgtIdx f.tgt
      let op := tgtOp f.tgt
      (∀ q ∈ (s.dev.grid a).overflow, (∃ p ∈ s.dev.insts, q.isFor (s.dev.ctxOf p.2) p.2 = true ∧ p.2.st = .firing) → f.tag.toNat ≤ q.tag.toNat) ∧
      (s.dev.stopped a = true → exec .overflowReinject s = .next s) ∧
      (s.dev.stopped a = false → f.acq = none → x.st = .firing ∨ x.st = .complete → tgtKind f.tgt = 3 ∨ (tgtKind f.tgt = 1 ∧ blk.carried idx op = false) →
        x.operand idx op = none →
        ∃ t, exec .overflowReinject s = .next t ∧ t.mem = s.mem ∧ t.dev.flight = s.dev.flight ∧
          t.dev.insts = s.dev.insts.set iid { x with operands := (idx, op, f.tok) :: x.operands } ∧
          (t.dev.grid a).overflow = (s.dev.grid a).overflow.erase f ∧
          t.dev.retained = match f.placement with
            | some _ => s.dev.retained
            | none => s.dev.retained.map (fun q => if q == f then { f with bound := some x.placement } else q))) ∧
    (∀ x e, s.dev.inst a = some x → x.exit = some e →
      (x.mispredicted = false → exec .exitMispredict s = .next s) ∧
      (x.mispredicted = true → ∃ t y, exec .exitMispredict s = .next t ∧ t.mem = s.mem ∧ t.dev.inst a = some y ∧
        y.predicted = e.target.map (fun n => (e.num, n)) ∧ y.exit = some e ∧ y.effs = x.effs ∧
        (∀ j z, j ≠ a → t.dev.inst j = some z → z.thr = x.thr → x.seq < z.seq → z.dying = true) ∧
        (∀ u, s.dev.thr x.thr = some u → e.opcode ≠ 0x39 → e.opcode ≠ 0x3A → ∃ v, t.dev.thr x.thr = some v ∧ v.next = e.target))) ∧
    (∀ x blk, s.dev.inst a = some x → x.code = some blk →
      let done := (x.complete && x.msteps.all (fun m => m.st == .done)) = true
      (s.dev.cycle - x.since < x.wdog → exec .watchdogExpiry s = .next s) ∧
      (x.st = .firing → x.wdog ≤ s.dev.cycle - x.since → x.running = false → s.dev.stopped x.grid = false → x.pend = none → ¬done →
        ∃ t, exec .watchdogExpiry s = .next t ∧ t.mem = s.mem ∧ t.dev.life.watchdog = s.dev.life.watchdog + 1 ∧
          Pending t a { cause := .blockIncomplete, w3 := BitVec.ofNat 64 (x.missingWrites blk),
                        w4 := BitVec.ofNat 64 (x.missingLsids blk + if x.exit = none then 2 ^ 32 else 0) })) ∧
    (∃ t, exec .predictorEntryClear s = .next t ∧ t.mem = s.mem ∧ t.dev.insts = s.dev.insts ∧ (∀ g, g ≠ a → t.dev.grid g = s.dev.grid g) ∧
      t.dev.grid a = { s.dev.grid a with pred := (s.dev.grid a).pred.filter (fun e => decide ((s.dev.grid a).commits < e.at_ + 2 ^ 20)) }) ∧
    (∀ u q x, s.dev.thr a = some u → u.st = .run → s.dev.oldestWait a = some q → s.dev.inst q.iid = some x →
      (s.dev.cycle < q.since + 1024 → exec .slotWaitEntry s = .next s) ∧
      (q.since + 1024 ≤ s.dev.cycle → ∃ t v, exec .slotWaitEntry s = .next t ∧ t.mem = s.mem ∧ t.dev.thr a = some v ∧ v.st = .wait ∧
        v.stSince = s.dev.cycle ∧ v.regs = u.regs ∧ ∀ j z, t.dev.inst j = some z → z.thr = a → x.seq < z.seq → z.dying = true)) ∧
    (∀ u, s.dev.thr a = some u →
      let v := if (u.st = .wait ∨ u.st = .page) ∧ u.stSince + 16384 ≤ s.dev.cycle then
        { u with st := .retention, fromWait := u.st == .wait, stSince := s.dev.cycle } else u
      exec .slotRetention s = .next { s with dev := { s.dev with threads := s.dev.threads.set a v } }) ∧
    (∃ t, exec .waitLimitExpiry s = .next t ∧ t.mem = s.mem ∧ t.dev.insts = s.dev.insts ∧ t.dev.waits.length = s.dev.waits.length ∧
      ∀ q ∈ s.dev.waits,
        (∀ n x, q.iid = a → q.idx = b → q.limit = some n → q.since + n ≤ s.dev.cycle → s.dev.inst q.iid = some x →
          s.dev.stopped x.grid = false → { q with expired := true } ∈ t.dev.waits) ∧
        ((q.iid ≠ a ∨ q.idx ≠ b ∨ q.limit = none) → q ∈ t.dev.waits))

/-! ### The commit, exceptions and the return from them (02 R27, R28, R32, 05 R149-R151, 10 R302-R305, R314) -/

namespace Sys2Proof.Claims

/-- Nothing of 19 watches a commit: no log, recording, trace, comparator or breakpoint; the thread's kernel is not contained. -/
def Quiet (s : State) (u : Thread) (x : Inst) : Prop :=
  let k := s.dev.ctx u.ctx
  k.undoEn = false ∧ k.recd.armed = false ∧ k.trace.enables = 0#_ ∧ (∀ n < 4, (k.comps.get n {}).kind = 0) ∧ x.brkp = none ∧ u.endAfter = false

/-- Instance `a` of the argument is ready to commit, with its block and its thread. -/
def Commits (s : State) (x : Inst) (b : Block) (u : Thread) : Prop :=
  s.dev.inst s.dev.arg.a = some x ∧ x.code = some b ∧ s.dev.thr x.thr = some u ∧ s.dev.commitReady s.dev.arg.a x b = true ∧ Quiet s u x ∧ x.msteps = []

/-- What a commit writes into the thread: the registers of its write entries, a null leaving its register as it was; the flags raised;
the new `prng`; the sequence number. Latches, tiles, counter units and the core stay. -/
def Written (u v : Thread) (x : Inst) (b : Block) : Prop :=
  (∀ r, (∀ p ∈ x.regWrites b, p.1 ≠ r) → v.regs.get r 0#512 = u.regs.get r 0#512) ∧
  (∀ p ∈ x.regWrites b, (∀ q ∈ x.regWrites b, q.1 = p.1 → q.2 = p.2) → v.regs.get p.1 0#512 = p.2) ∧
  v.flags = u.flags ||| x.flags.setWidth 64 ∧ v.prng = x.prngNew.getD u.prng ∧ v.commitSeq = x.seq ∧ v.latches = u.latches ∧
  v.tiles = u.tiles ∧ v.ctrs = u.ctrs ∧ v.first = u.first ∧ v.width = u.width

/-- A fault record stands in entry `e` of a context's fault queue (10 R302). -/
def Recorded (d : Dev) (u : Thread) (tid e : Nat) (p : Pend) (blk rseq now atomics seq : Nat) : Prop :=
  ∃ r, (d.ctx u.ctx).frecs.look e = some r ∧ r.thr = tid ∧ r.cause = p.cause ∧
    elem 64 r.lanes 0 = BitVec.ofNat 64 (fcause p.cause + p.loc.toNat * 2 ^ 8 + p.check.toNat * 2 ^ 16 + u.tnum * 2 ^ 24 + u.first * 2 ^ 32 +
      (u.slots.map Prod.snd).headD 0 * 2 ^ 41 + rseq % 2 ^ 16 * 2 ^ 48) ∧
    elem 64 r.lanes 1 = BitVec.ofNat 64 blk ∧ elem 64 r.lanes 2 = p.w2 ∧ elem 64 r.lanes 3 = p.w3 ∧ elem 64 r.lanes 4 = p.w4 ∧
    elem 64 r.lanes 5 = BitVec.ofNat 64 now ∧ elem 64 r.lanes 6 = BitVec.ofNat 64 seq ∧
    elem 64 r.lanes 7 = BitVec.ofNat 64 (u.gid % 2 ^ 32 + min atomics 255 * 2 ^ 32)

end Sys2Proof.Claims

/-- 02 R25, R27, R28, 05 R149, 08 R219, R228, 09 R262: BLOCK_COMMIT. An instance that is not ready stays. One without effects writes
its thread's registers and flags, and leaves; memory is as before. Bytes of a store stand in the L1 of the access grid of their
address afterwards, owned. `halt` ends the thread, which gives up its slots. -/
def Obligations.BlockCommit : Prop :=
  ∀ (s : State) (x : Inst) (b : Block) (u : Thread),
    let iid := s.dev.arg.a
    (s.dev.inst iid = some x → x.code = some b → s.dev.commitReady iid x b = false → exec .blockCommit s = .next s) ∧
    (∀ e, Commits s x b u → x.exit = some e → x.effs = [] → e.opcode ≠ 0x36 →
      ∃ t v, exec .blockCommit s = .next t ∧ t.mem = s.mem ∧ t.mgmt = s.mgmt ∧ t.dev.inst iid = none ∧ (∀ j, j ≠ iid → t.dev.inst j = s.dev.inst j) ∧
        t.dev.thr x.thr = some v ∧ Written u v x b ∧ v.next = u.next ∧ v.ended = u.ended ∧ (∀ j, j ≠ x.thr → t.dev.thr j = s.dev.thr j)) ∧
    (∀ e l k cs, Commits s x b u → x.exit = some e → x.effs = [(l, k, .store cs 0)] → e.opcode ≠ 0x36 → 0 < u.width →
      (∀ g ∈ u.grids, (s.dev.grid g).l1 = []) → (linesOf cs).length ≤ 8 →
      ∃ t v, exec .blockCommit s = .next t ∧ t.mem = s.mem ∧ t.dev.inst iid = none ∧ t.dev.thr x.thr = some v ∧ Written u v x b ∧
        ∀ a w, cellAt cs a = some w → ∃ line,
          (t.dev.grid (u.accessGrid a)).l1Find (a / 32) ((s.dev.ctx u.ctx).ridOf (s.dev.rnumOf u) (32 * (a / 32))) = some line ∧
          line.owned.getLsbD (a % 32) = true ∧ line.valid.getLsbD (a % 32) = true ∧ line.data.extractLsb' (8 * (a % 32)) 8 = w) ∧
    (∀ e, Commits s x b u → x.exit = some e → x.effs = [] → e.opcode = 0x36 → u.ended = false → (∀ q ∈ s.dev.insts, q.2.thr = x.thr → q.1 = iid) →
      ∃ t v, exec .blockCommit s = .next t ∧ t.dev.inst iid = none ∧ t.dev.thr x.thr = some v ∧ Written u v x b ∧ v.ended = true ∧
        v.st = .idle ∧ v.slots = [] ∧ v.next = none)

/-- 02 R27, R32, 05 R150, R151, 10 R288, R302-R305, R314: taking an exception and returning from it. The pending fault of an oldest
instance discards the instance and everything younger, puts its slot in STOPPED, and writes the lowest free fault record with the
cause, the block, the time and what the thread has committed; it goes to the handler queue, or, where no kernel that may get a
group is installed as handler (log 90), freezes its context. A page fault takes its slot to PAGE, and the block is fetched again after the answer. `trap` and `sys` take the exception
at their commit. A resume fetches the faulted block again, or, after `trap`, `sys` and a breakpoint, the resume block, or the block
it is redirected to, or ends the thread; the record is free. -/
def Obligations.ExceptionsAndReturn : Prop :=
  (∀ (w : W) (iid : Nat) (x : Inst) (p : Pend) (u : Thread) (e : Nat),
    let k := w.d.ctx u.ctx
    let w' := w.raise iid
    let stands := w.d.inst iid = some x ∧ x.pend = some p ∧ w.d.thr x.thr = some u ∧ w.d.isOldest x = true ∧ x.running = false ∧
      k.trace.enables = 0#_
    let stopped := fun (v : Thread) => v.st = .stopped ∧ v.rcd = some e ∧ v.next = none ∧ v.regs = u.regs ∧ v.flags = u.flags
    let taken := ∃ v, w'.d.inst iid = none ∧ w'.d.thr x.thr = some v ∧ stopped v ∧
      (∀ j z, w'.d.inst j = some z → z.thr = x.thr → z.dying = true ∨ z.seq ≤ x.seq) ∧ (w'.d.ctx u.ctx).rseq = (k.rseq + 1) % 2 ^ 16 ∧
      Recorded w'.d u x.thr e p x.blk k.rseq w.d.now x.atomics u.commitSeq
    let handle := BitVec.ofNat 64 (e % 64 + k.rseq % 2 ^ 16 * 2 ^ 16)
    (stands → p.cause ≠ .pageAbsent → p.cause ≠ .codeIntegrity → k.freeRec = some e → taken ∧
      (p.cause ≠ .breakpoint → k.handlerOn = true → w.d.isHandler u = false →
        (w'.d.ctx u.ctx).handlerQ = k.handlerQ ++ [(handle, w.d.cycle)] ∧ (w'.d.ctx u.ctx).st = k.st) ∧
      (p.cause ≠ .breakpoint → k.handlerOn = false ∨ w.d.isHandler u = true → k.st = .running → (k.cfg.headD 0#64).getLsbD 10 = false →
        (w'.d.ctx u.ctx).st = .frozen ∧ (w'.d.ctx u.ctx).frozenCause = BitVec.ofNat 8 (fcause p.cause) ∧ (w'.d.ctx u.ctx).frozenRec = some handle ∧
        ∀ g ∈ k.parcel, w'.d.stopped g = true) ∧
      (p.cause = .breakpoint → (w'.d.ctx u.ctx).st = k.st ∧ (w'.d.ctx u.ctx).handlerQ = k.handlerQ)) ∧
    (∀ n, stands → p.cause = .pageAbsent → x.page = some n → (∃ r ∈ w.d.preqs, r.num = n) →
      ∃ v, w'.d.inst iid = none ∧ w'.d.thr x.thr = some v ∧ v.st = .page ∧ v.pageReq = some n ∧ v.resumeAt = some x.blk ∧ v.regs = u.regs ∧
        w'.ov = w.ov)) ∧
  (∀ (s : State) (x : Inst) (b : Block) (u : Thread) (ex : ExitFired) (l n : Nat) (sys : Bool) (arg : Word),
    Commits s x b u → x.exit = some ex → x.effs = [(l, n, .trap sys arg)] → ex.opcode ≠ 0x36 →
    ∀ e, (s.dev.ctx u.ctx).freeRec = some e → (∀ q ∈ s.dev.insts, q.2.thr = x.thr → q.1 = s.dev.arg.a) →
      ∃ t v, exec .blockCommit s = .next t ∧ t.dev.inst s.dev.arg.a = none ∧ t.dev.thr x.thr = some v ∧ Written u v x b ∧ v.st = .stopped ∧
        v.rcd = some e ∧ v.next = none ∧
        Recorded t.dev u x.thr e { cause := if sys then .sysCall else .swTrap, w2 := BitVec.ofNat 64 (ex.target.getD 0), w3 := arg }
          x.blk (s.dev.ctx u.ctx).rseq s.dev.now x.atomics x.seq) ∧
  (∀ (d : Dev) (c e target : Nat) (r : FRec) (u : Thread), (d.ctx c).frecs.look e = some r → d.thr r.thr = some u →
    (∀ action, ((d.resume c e action target).ctx c).frecs.look e = none) ∧
    (u.argLoad = false → u.resumeAt = none →
      let software := r.cause = .swTrap ∨ r.cause = .sysCall ∨ r.cause = .breakpoint
      ∃ v, (d.resume c e 0 target).thr r.thr = some v ∧ v.rcd = none ∧ archOf v = archOf u ∧
        v.next = some (if software then (elem 64 r.lanes 2).toNat else (elem 64 r.lanes 1).toNat) ∧
        v.st = if u.grids.any d.stopped then .stopped else .run) ∧
    (∃ v, (d.resume c e 1 target).thr r.thr = some v ∧ v.rcd = none ∧ archOf v = archOf u ∧ v.next = some target) ∧
    (u.ended = false → ∃ v, (d.resume c e 2 target).thr r.thr = some v ∧ v.ended = true ∧ v.failed = true ∧ v.st = .idle ∧ v.slots = []))

/-! ### What runs on after a commit (08 R238-R256, R280, 09 R268, 12 R352, 14 R399, 18 R486) -/

/-- 08 R238, 09 R268, R280, 12 R352, 14 R398, R399: RELEASE_PERFORM performs the oldest release: its thread's scratchpad stores have
landed, and no line of its grids is owned; it stays while the host has still to give back a line that it writes (18 R476). SCRATCHPAD_STORE_ARRIVAL writes the oldest store whose grid runs. STREAM_HANDOVER closes the
old stream and opens the new one. MAILBOX_DELIVERY gives a waiting message its entry; the 17th and later ones are written to the spill area too (13 R370, log 26). BARRIER_ENGINE_ARRIVAL counts an arrival that
waited, in the phase that has room, or drops and counts it when its barrier is gone. -/
def Obligations.ReleasesAndArrivals : Prop :=
  ∀ (s : State),
    (∀ r rest, s.dev.rels = r :: rest → r.scope ≤ 2 → ∃ t, exec .releasePerform s = .next t ∧
      (¬(r.scope = 2 ∧ t.dev.snoops = true) → ∀ q ∈ t.dev.rels, q.order ≠ r.order) ∧
      (1 ≤ r.scope → ∀ q ∈ t.dev.spStores, q.thr ≠ r.thr) ∧ (r.scope = 2 → ∀ g ∈ r.grids, ∀ l ∈ (t.dev.grid g).l1, l.owned = 0#32)) ∧
    (s.dev.rels = [] → exec .releasePerform s = .next s) ∧
    (∀ q, s.dev.spStores.find? (fun q => !s.dev.stopped q.grid) = some q → (s.dev.ctx q.ctx).undoEn = false →
      exec .scratchpadStoreArrival s = .next { s with mem := s.mem.writeAll q.bytes, dev := { s.dev with spStores := s.dev.spStores.erase q } }) ∧
    ((∀ q ∈ s.dev.spStores, s.dev.stopped q.grid = true) → exec .scratchpadStoreArrival s = .next s) ∧
    (∀ h rest u v, s.dev.handovers = h :: rest → s.dev.thr h.oldThr = some u → s.dev.thr h.newThr = some v → (u.stream h.oldStream).buffer = [] →
      (∀ r ∈ s.dev.rels, r.thr ≠ h.oldThr) →
      (s.dev.ctx u.ctx).undoEn = false → (h.oldThr ≠ h.newThr ∨ h.oldStream ≠ h.newStream) →
      (∀ q ∈ rest, q.newThr ≠ h.newThr ∨ q.newStream ≠ h.newStream) →
      ∃ t u' v', exec .streamHandover s = .next t ∧ t.mem = s.mem ∧ t.dev.handovers = rest ∧ t.dev.thr h.oldThr = some u' ∧
        (u'.stream h.oldStream).isOpen = false ∧ t.dev.thr h.newThr = some v' ∧
        (v'.stream h.newStream).isOpen = (v.stream h.newStream).configuring.isSome ∧ (v'.stream h.newStream).configuring = none) ∧
    (s.dev.handovers = [] → exec .streamHandover s = .next s) ∧
    (let a := s.dev.arg.a
     let p := s.dev.arg.b
     (s.dev.mailDue a p = none → exec .mailboxDelivery s = .next s) ∧
     (∀ m u, s.dev.mailDue a p = some m → s.dev.thr a = some u → ∃ t v, exec .mailboxDelivery s = .next t ∧
       ((u.mbox p).msgs.length < 16 → t.mem = s.mem) ∧
       (16 ≤ (u.mbox p).msgs.length →
         let w : W := { s.toW with d := s.dev.modThr a (fun q => { q with mboxes := q.mboxes.set p { q.mbox p with waiting := (q.mbox p).waiting.drop 1 } }) }
         t.mem = s.mem.writeAll (w.toUnit u (spillMail p ⟨m.data, m.origin, (u.mbox p).arrived⟩)).ov.reverse) ∧
       t.dev.thr a = some v ∧ archOf v = archOf u ∧ (v.mbox p).msgs = (u.mbox p).msgs ++ [⟨m.data, m.origin, (u.mbox p).arrived⟩] ∧
       (v.mbox p).waiting = (u.mbox p).waiting.drop 1 ∧ (v.mbox p).arrived = ((u.mbox p).arrived + 1) % 2 ^ 32)) ∧
    (∀ q, s.dev.arrWaits.find? s.dev.arrDue = some q →
      let k := s.dev.ctx q.ctx
      (k.barOf q.handle.toNat = none → ∃ t, exec .barrierEngineArrival s = .next t ∧ t.mem = s.mem ∧ t.dev.arrWaits = s.dev.arrWaits.erase q ∧
        (t.dev.ctx q.ctx).fwderr = (k.fwderr + 1) % 2 ^ 32 ∧ (t.dev.ctx q.ctx).bars = k.bars) ∧
      (∀ n, k.barOf q.handle.toNat = some n → ∃ t, exec .barrierEngineArrival s = .next t ∧ t.mem = s.mem ∧
        t.dev.arrWaits = s.dev.arrWaits.erase q ∧
        (let b := k.bar n
         let b' := (t.dev.ctx q.ctx).bar n
         (b.arrivals + 1 = b.expected → b' = { b with phase := (b.phase + 1) % 2 ^ 30, arrivals := 0, expected := b.expected - b.drops, drops := 0 }) ∧
         (b.arrivals + 1 ≠ b.expected → b' = { b with arrivals := b.arrivals + 1 })))) ∧
    (s.dev.arrWaits.find? s.dev.arrDue = none → exec .barrierEngineArrival s = .next s)

/-- 08 R243, R247-R250, R253, R255, R256, 18 R486, R487: LDFWD_REPLY_DELIVERY answers the oldest forwarded load into a mailbox or a port
stream, or counts it where the stream is not open. A piece of a copy moves its bytes and its cursor; ENGINE_PAGE_WAIT asks for the page
that a copy meets absent; COPY_COMPLETION retires a copy, with its tag entry and its completion; that of a killed context is dropped (10 R311). SHADOW_PUBLICATION gives a page its
shadow frame, and the old frame to the pool. COLLECTIVE_COMPLETION writes what R486 makes of the sources of all members; the tree gives
a rank without a partner through unchanged. -/
def Obligations.CopiesAndCollectives : Prop :=
  (∀ (s : State),
    (∀ q rest bs w, s.dev.fwds = q :: rest → s.toW.readHome q.ctx q.rnum q.addr 64 = (.ok bs, w) →
      let left := s.mem.writeAll w.ov.reverse
      (∀ tid u, q.dest.extractLsb' 60 4 = 1#4 → s.dev.memberOf q.ctx q.gid (q.dest.extractLsb' 0 6).toNat = some (tid, u) →
        s.dev.thr tid = some u →
        let p := (q.dest.extractLsb' 6 2).toNat
        s.dev.mboxSpace tid p = true → (u.mbox p).waiting = [] → (u.mbox p).msgs.length < 16 → (∀ e ∈ s.dev.waits, e.key.1 ≠ 1) →
        ∃ t v d, exec .ldfwdReplyDelivery s = .next t ∧ t.mem = left ∧ t.dev.fwds = rest ∧ t.dev.thr tid = some v ∧
          (v.mbox p).msgs = (u.mbox p).msgs ++ [⟨d, BitVec.ofNat 64 (2 ^ 9 + p * 2 ^ 6), (u.mbox p).arrived⟩] ∧ ∀ i < 64, byteAt d i = bs.getD i 0#8) ∧
      (q.dest.extractLsb' 60 4 = 2#4 → s.dev.stopped (q.dest.extractLsb' 32 9).toNat = false →
        let sn := (q.dest.extractLsb' 0 5).toNat
        (s.dev.portStream q.ctx (q.dest.extractLsb' 32 9).toNat sn = none → ∃ t, exec .ldfwdReplyDelivery s = .next t ∧ t.mem = left ∧
          t.dev.fwds = rest ∧ (t.dev.ctx q.ctx).fwderr = ((s.dev.ctx q.ctx).fwderr + 1) % 2 ^ 32) ∧
        (∀ tid key u, s.dev.portStream q.ctx (q.dest.extractLsb' 32 9).toNat sn = some (tid, key) → s.dev.thr tid = some u → 8 ≤ tyBits (u.stream key).cfg.ty →
          ∃ t v l, exec .ldfwdReplyDelivery s = .next t ∧ t.mem = left ∧ t.dev.fwds = rest ∧ t.dev.thr tid = some v ∧
            (let n := tyBits (u.stream key).cfg.ty / 8
             l.length = 64 / n ∧ (∀ i < 64 / n, l.getD i (0#64, true) = (BitVec.ofNat 64 (ofBytes ((bs.drop (n * i)).take n)), false)) ∧
             (v.stream key).arrivals = ((u.stream key).arrivals ++ l).take (u.stream key).cfg.total)))) ∧
    (∀ c rest x wr w n d, s.dev.copies = c :: rest → c.over = false → c.waitPage = none → s.dev.copyPaused c = false →
      s.toW.copyNext c = (.page x wr, w) → w.raisePage c.ctx x (if wr then 5 else 4) (originOf x) (some (.copy c.key)) = (some n, d) →
      ∃ t q, exec .enginePageWait s = .next t ∧ t.mem = s.mem.writeAll w.ov.reverse ∧ q ∈ t.dev.copies ∧ q.key = c.key ∧ q.waitPage = some n ∧
        q.cursor = c.cursor ∧ ∃ r ∈ t.dev.preqs, r.num = n ∧ .copy c.key ∈ r.who) ∧
    (s.dev.copies = [] → exec .enginePageWait s = .next s ∧ exec .copyCompletion s = .next s) ∧
    (∀ c, s.dev.copies.find? (fun c => c.over && (s.dev.ctx c.ctx).st != .saved) = some c → c.d.scope < 3 → (s.dev.ctx c.ctx).st ≠ .killed →
      let k := s.dev.ctx c.ctx
      let status := c.status.getD 0
      let gone := fun (t : State) => t.mem = s.mem ∧ t.dev.copies = s.dev.copies.filter (fun q => q.key != c.key)
      (c.d.compl.kind = 0#4 → ∃ t, exec .copyCompletion s = .next t ∧ gone t ∧ (t.dev.ctx c.ctx).copyTags =
        if c.d.tagen && k.tagLast.get c.d.ctag 0 == c.key then k.copyTags.set c.d.ctag (BitVec.ofNat 64 status) else k.copyTags) ∧
      (c.d.compl.kind = 2#4 → ∃ t, exec .copyCompletion s = .next t ∧ gone t ∧
        let num := (c.d.compl.arg.extractLsb' 0 16).toNat
        (s.dev.badEvent c.ctx c.gid num = true → (t.dev.ctx c.ctx).fwderr = (k.fwderr + 1) % 2 ^ 32) ∧
        (∀ tid u, s.dev.badEvent c.ctx c.gid num = false → s.dev.memberOf c.ctx c.gid (num / 16) = some (tid, u) → s.dev.thr tid = some u →
          u.ended = false → t.dev.thr tid = some { u with latches := u.latches ||| (1#16 <<< (num % 16)) }))) ∧
    (∀ c, s.dev.copies.find? (fun c => c.over && (s.dev.ctx c.ctx).st != .saved) = some c → (s.dev.ctx c.ctx).st = .killed →
      exec .copyCompletion s = .next { s with dev := { s.dev with copies := s.dev.copies.filter (fun q => q.key != c.key) } }) ∧
    (∀ p rest sh l f, s.dev.pubs = p :: rest → (s.dev.ctx p.ctx).shadows.look p.handle = some sh → sh.len = 2 ^ 14 → sh.frames = [f] →
      (∀ c ∈ s.dev.copies, c.key ∉ p.copies) → s.toW.leafAt sh.base = some l → l.level = 3 → s.toW.bufferReady sh.base 1 = true →
      (∀ u ∈ s.dev.threads, u.2.streams = []) → (∀ g ∈ s.dev.grids, g.2.l1 = []) → s.dev.l2 = [] →
      ∃ t, exec .shadowPublication s = .next t ∧
        t.mem = s.mem.writeAll (s.toW.setLeaf sh.base l (settled (withAddr l.w0 f)) l.w1).ov.reverse ∧ t.dev.pubs = rest ∧
        (t.dev.ctx p.ctx).shadows.look p.handle = none ∧ t.dev.pool = s.dev.pool ++ (if l.state = stAbsent then [] else [l.frame])) ∧
    (s.dev.pubs = [] → exec .shadowPublication s = .next s) ∧
    (s.dev.colls = [] → exec .collectiveCompletion s = .next s) ∧
    (∀ c rest w1 w2 bs w3, s.dev.colls = c :: rest → (s.dev.ctx c.ctx).st = .running → c.status = none → c.waitPage = none →
      let me := s.mgmt.domId
      let ms := memberList c.members
      let es := tyBits (collTy c.typ) / 8
      let src := (elem 64 c.desc 0).toNat
      let dst := (elem 64 c.desc 1).toNat
      let said := fun (m : Nat) => s.dev.arg.peers.find? (fun p => p.dom == m && p.answered && p.key == (elem 64 c.desc 4).setWidth 32)
      (∀ m ∈ ms, m ≠ me → s.toW.memberLost m = false ∧ ∃ p, said m = some p ∧ p.kind = c.kind ∧ p.rop = c.rop ∧ p.typ = c.typ ∧ p.count = collCount c.desc) →
      s.toW.collAccess c src (es * c.srcCount me) false = (.ok none, w1) → w1.collAccess c dst (es * c.dstCount) true = (.ok none, w2) →
      w2.readHome c.ctx c.rnum src (es * c.srcCount me) = (.ok bs, w3) → (complOf c.desc).kind = 0#4 → (∀ q ∈ rest, q.key ≠ c.key) →
      (s.dev.ctx c.ctx).undoEn = false →
      let mine := (List.range (c.srcCount me)).map (fun i => ofBytes ((bs.drop (es * i)).take es))
      let source := fun (m : Nat) => if m = me then mine else ((said m).map (fun p => p.elems.map (fun x => x.toNat % 2 ^ (8 * es)))).getD []
      let out := (c.result me (ms.map source)).flatMap (fun x => leBytes es x)
      let w4 := w3.pkgWrite c.ctx c.rnum (cellsAt dst out)
      let d4 : Dev := { w4.d with colls := w4.d.colls.filter (fun q => q.key != c.key) }
      ∃ t, exec .collectiveCompletion s = .next t ∧ t.dev.colls = rest ∧
        t.mem = s.mem.writeAll (W.engineRelease { w4 with d := d4 } c.ctx 3).ov.reverse)) ∧
  (∀ typ rop x y z : Nat, collReduce typ rop 9 [x, y, z] = (collNode typ rop (collNode typ rop x y).1 z).1) ∧
  (∀ x y : Nat, (collNode 2 0 x y).1 = (x + y) % 2 ^ 32 ∧ (collNode 3 0 x y).1 = (x + y) % 2 ^ 64) ∧
  (∀ (c : Coll) (me : Nat) (src : List (List Nat)), c.kind = 0 →
    c.result me src = (List.range (collCount c.desc)).map (fun i => collReduce c.typ c.rop 9 (src.map (fun s => s.getD i 0))))

/-! ### The dispatcher and heat (02 R51, 13 R371-R386) -/

/-- 13 R371, R373-R378, R381-R383, R386: DISPATCH_REMOVE takes the head record of a launch queue; it completes with INVALID or KERNEL, or
forms a group, GATED or QUEUED. GROUP_LEVEL_RISE raises a QUEUED group's level with its wait. GROUP_DISPATCH puts each thread of the
first group that can be placed on its set of grids, with its start value of `prng`; a group that cannot be placed becomes the
blocked group of its context, which is placed on its target alone. GROUP_RETIRE removes a DRAINING group with nothing outstanding, and writes its status. STEAL is the
firing of the `sync.next` whose request is served. -/
def Obligations.DispatcherEvents : Prop :=
  ∀ (s : State),
    let a := s.dev.arg.a
    let b := s.dev.arg.b
    (let n := a % 4096
     let k := s.dev.ctx n
     let q := k.queue b
     (q.kind ≠ 1 → k.handlerQ = [] → exec .dispatchRemove s = .next s) ∧
     (∀ i rest bs w, k.handlerQ = [] → b < 1024 → q.kind = 1 → q.st = .opened → s.dev.removable n b = true → q.live = i :: rest →
       s.toW.readHome n 0 (q.entry i) 64 = (.ok bs, w) → ∀ m x, k.kernelOf (elem 64 (vecOfBytes bs) 0) = some (m, x) →
       badLaunch (vecOfBytes bs) x.regs (q.issuers.look i).isNone = false → x.usable = true →
       ∃ t g, exec .dispatchRemove s = .next t ∧ t.mem = s.mem.writeAll w.ov.reverse ∧ g ∈ t.dev.groups ∧ g.ctx = n ∧ g.rcd = vecOfBytes bs ∧
         g.queue = some b ∧ g.qindex = i ∧ i ∉ ((t.dev.ctx n).queue b).live ∧
         g.st = if k.gatesOpen (vecOfBytes bs) then .queued else .gated)) ∧
    (∀ g, s.dev.group a b = some g → ∃ t h, exec .groupLevelRise s = .next t ∧ t.mem = s.mem ∧ t.dev.threads = s.dev.threads ∧
      t.dev.group a b = some h ∧ h.st = g.st ∧ (g.st ≠ .queued → h = g) ∧
      (g.st = .queued → h.level = max ((s.dev.bctl g.ctx).extractLsb' 0 3).toNat (g.prio - (s.dev.cycle - g.since) / 65536)) ∧
      ∀ q ∈ s.dev.groups, (q.ctx ≠ a ∨ q.gid ≠ b) → q ∈ t.dev.groups) ∧
    (s.dev.arg.ns = [] → s.dev.candidates a = [] → exec .groupDispatch s = .next s) ∧
    (∀ g rest sets, s.dev.arg.ns = [] → s.dev.candidates a = g :: rest → s.dev.group g.ctx g.gid = some g → (s.dev.ctx g.ctx).undoEn = false → s.toW.placement g = some sets → (s.dev.groupKernel g).spills g.regCnt = false →
      elem 64 g.rcd 2 = 0#64 → g.queue ≠ none → ∃ t h, exec .groupDispatch s = .next t ∧ t.dev.group g.ctx g.gid = some h ∧ h.st = .dispatched ∧
        h.live = sets.length ∧ h.threads.length = sets.length ∧
        ∀ i < sets.length, ∃ u, t.dev.thr (h.threads.getD i 0) = some u ∧ u.ctx = g.ctx ∧ u.gid = g.gid ∧ u.tnum = i ∧ u.first = sets.getD i 0 ∧
          u.width = g.width ∧ u.regCnt = g.regCnt ∧ u.st = .fetch ∧ u.next = some (s.dev.groupKernel g).entry ∧ u.regs = [] ∧ u.flags = 0#64 ∧
          (let v := BitVec.ofNat 64 (g.gid * 64 + i) ^^^ 0x2545F4914F6CDD1D#64
           u.prng = if v = 0#64 then 1#64 else v) ∧ u.slots.map Prod.fst = (List.range g.width).map (fun j => u.first + j)) ∧
    (∀ g, s.dev.arg.ns = [] → s.dev.candidates a = [g] → s.toW.placement g = none → g.answered = none → (s.dev.field a).blocked.look g.ctx = none →
      ∃ t, exec .groupDispatch s = .next t ∧ t.mem = s.mem ∧ t.dev.groups = s.dev.groups ∧ t.dev.threads = s.dev.threads ∧
        (t.dev.field a).blocked.look g.ctx = some (g.gid, g.holds (s.dev.target g))) ∧
    (∀ g l sets, g.answered = none → s.dev.blockedTarget g = some l → s.toW.placement g = some sets → sets = l) ∧
    (∀ g, s.dev.group a b = some g →
      (g.st ≠ .draining ∨ s.toW.groupSettled g = false → exec .groupRetire s = .next s) ∧
      (g.st = .draining → s.toW.groupSettled g = true → ∃ t, exec .groupRetire s = .next t ∧ t.dev.group a b = none ∧
        (∀ n ∈ g.threads, t.dev.thr n = none) ∧
        ((complOf g.rcd).kind = 0#4 ∨ (complOf g.rcd).kind = 1#4 → (∀ n, n ∉ g.threads → t.dev.thr n = s.dev.thr n) ∧
          (∀ q ∈ s.dev.groups, (q.ctx ≠ a ∨ q.gid ≠ b) → q ∈ t.dev.groups)) ∧
        (elem 64 g.rcd 6 = 0#64 → (complOf g.rcd).kind ≠ 4#4 → ((s.dev.ctx a).kernel (g.handle.extractLsb' 0 8).toNat).owes = [] → t.mem = s.mem))) ∧
    (s.dev.group a b = none → exec .groupRetire s = .next s ∧ exec .groupLevelRise s = .next s) ∧
    (∀ x p f, s.dev.inst a = some x → x.code = some p → p.instr b = some (.syncNext f) →
      ∃ t, exec .steal s = .next t ∧ exec (.syncNext f) { s with dev := { s.dev with focus := some (a, b) } } = .next t) ∧
    (s.dev.inst a = none → exec .steal s = .next s)

/-! ### Events of contexts and of their objects (10 R293-R311, 11 R325, 12 R347-R349, 15 R421-R428, 16 R442-R449, 17 R457, 19) -/

namespace Sys2Proof.Claims

/-- The state that a meaning leaves when it ends with `w`: its bytes are written, and nothing but the device and memory changes. -/
def Leaves (s t : State) (w : W) : Prop :=
  t.dev = w.d ∧ t.mem = s.mem.writeAll w.ov.reverse ∧ t.mgmt = s.mgmt ∧ t.agenda = s.agenda

/-- No uncommitted block of context `c`, and no thread of it. -/
def NoBlocks (s : State) (c : Nat) : Prop := ∀ p ∈ s.dev.insts, s.dev.ctxOf p.2 ≠ c
def NoThreads (s : State) (c : Nat) : Prop := ∀ p ∈ s.dev.threads, p.2.ctx ≠ c

end Sys2Proof.Claims

/-- 10 R293, R295, R297, R308, R309, R311, 11 R325: the events of a context. The gating window ends 4,096 cycles after the gating point.
Two sweeps in a row that find nothing outstanding make the context QUIESCENT. Its image written, it is SAVED, without threads and
without a parcel. A dump starts when the engine is idle and ends in FROZEN; commands held for it go before the posted ones. A killed
context with nothing running is FREE. The checks of a kernel make it RESIDENT, or leave its slot UNLOADED. -/
def Obligations.ContextEvents : Prop :=
  ∀ (s : State),
    let a := s.dev.arg.a
    let k := s.dev.ctx a
    (¬(k.st = .gating ∧ k.gatePhase = 1 ∧ k.gateAt + 4096 ≤ s.dev.cycle) → exec .gatingWindowEnd s = .next s) ∧
    (k.st = .gating → k.gatePhase = 1 → k.gateAt + 4096 ≤ s.dev.cycle → NoBlocks s a → NoThreads s a → (∀ r ∈ s.dev.rels, r.ctx ≠ a) →
      ∃ t, exec .gatingWindowEnd s = .next t ∧ (t.dev.ctx a).st = .gating ∧ (t.dev.ctx a).gatePhase = 2 ∧ (t.dev.ctx a).zeroSweeps = 0) ∧
    (¬(k.st = .gating ∧ k.gatePhase = 2) → exec .quiescenceSweep s = .next s) ∧
    (k.st = .gating → k.gatePhase = 2 → (∀ r ∈ s.dev.remotes, r.kind ≠ .ack a) → ∃ t, exec .quiescenceSweep s = .next t ∧ t.mem = s.mem ∧
      t.dev.threads = s.dev.threads ∧
      (s.dev.outstanding a = true → (t.dev.ctx a).st = .gating ∧ (t.dev.ctx a).zeroSweeps = 0) ∧
      (s.dev.outstanding a = false → k.zeroSweeps = 0 → (t.dev.ctx a).st = .gating ∧ (t.dev.ctx a).zeroSweeps = 1) ∧
      (s.dev.outstanding a = false → k.zeroSweeps ≠ 0 → (t.dev.ctx a).st = .quiescent)) ∧
    (k.st ≠ .quiescent → exec .saveImageWritten s = .next s) ∧
    (∀ n w, k.st = .quiescent → (s.toW.dropRids a).writeImage a k.saveAddr k.saveLen ((s.toW.dropRids a).imageOf a) = .ok (n, w) →
      ∃ t, exec .saveImageWritten s = .next t ∧ (t.dev.ctx a).st = .saved ∧ (t.dev.ctx a).plat = none ∧ (t.dev.ctx a).owes = none ∧
        (t.dev.ctx a).lastImage = some n ∧ t.dev.images[n]? = some ((s.toW.dropRids a).imageOf a) ∧ NoThreads t a ∧
        (∀ g ∈ t.dev.groups, g.ctx ≠ a) ∧ t.dev.notifyIdx = s.dev.notifyIdx + 1) ∧
    (s.dev.dumping ≠ none ∨ s.dev.dumpQ = [] → exec .dumpStart s = .next s) ∧
    (∀ c rest, s.dev.dumping = none → s.dev.dumpQ = c :: rest → ∃ t, exec .dumpStart s = .next t ∧ t.mem = s.mem ∧ t.dev.dumpQ = rest ∧
      ((s.dev.ctx c).st = .frozen → t.dev.dumping = some c ∧ (t.dev.ctx c).st = .dumping) ∧
      ((s.dev.ctx c).st ≠ .frozen → t.dev.dumping = none ∧ t.dev.ctxs = s.dev.ctxs)) ∧
    (s.dev.dumping = none → exec .dumpComplete s = .next s) ∧
    (∀ c, s.dev.dumping = some c → ∃ t, exec .dumpComplete s = .next t ∧ t.dev.dumping = none ∧ (t.dev.ctx c).st = .frozen ∧
      (t.dev.ctx c).heldCmds = [] ∧ t.dev.notifyIdx = s.dev.notifyIdx + 1 ∧
      (t.dev.ctx c).posted = (s.dev.ctx c).heldCmds.map (fun p => packCmd p.1 p.2) ++ (s.dev.ctx c).posted ∧ t.dev.threads = s.dev.threads) ∧
    (k.st ≠ .killed → exec .teardownComplete s = .next s) ∧
    (k.st = .killed → NoBlocks s a → (∀ q ∈ s.dev.copies, q.ctx ≠ a) → ∃ t, exec .teardownComplete s = .next t ∧
      t.dev.ctx a = { gen := k.gen, posted := k.posted } ∧ NoThreads t a ∧ (∀ g ∈ t.dev.groups, g.ctx ≠ a) ∧
      t.dev.notifyIdx = s.dev.notifyIdx + 1) ∧
    (let c := a % 4096
     let n := s.dev.arg.b % 256
     let x := (s.dev.ctx c).kernel n
     (x.st ≠ .loading → exec .loadChecksComplete s = .next s) ∧
     (∀ y w, x.st = .loading → s.toW.loadChecks c x = (.ok y, w) → ∃ t, exec .loadChecksComplete s = .next t ∧ y.st = .resident ∧
       (t.dev.ctx c).kernel n = { y with owes := [] } ∧ t.dev.threads = s.dev.threads) ∧
     (∀ e w, x.st = .loading → s.toW.loadChecks c x = (.error e, w) → ∃ t, exec .loadChecksComplete s = .next t ∧
       ((t.dev.ctx c).kernel n).st = .unloaded ∧ ((t.dev.ctx c).kernel n).lgen = x.lgen ∧ ∀ p ∈ t.dev.wprot, ¬(p.1 = c ∧ p.2.1 = n)))

/-- 12 R347, R349, 16 R442, R443, R449, 17 R457: the events of queues and revisions. A host append of one aligned 64-byte write at
the append address of a queue enters at the tail of an OPEN queue with room; any other is dropped and counted. An uncorrectable error of its storage takes a queue to FAULTED.
The router appends the pending launch at the head of a stage, or counts it where its queue is gone. A merge waits while a page that it needs is
absent or its home does not serve it (log 31, the model's choice); one that has done its regions ends: its child is JOINED and gives its frames and its reserve to the pool, and the thread goes on when it was the last. A
JOINED revision's number is free when its lines are dropped. -/
def Obligations.QueueAndRevisionEvents : Prop :=
  ∀ (s : State),
    let a := s.dev.arg.a
    let b := s.dev.arg.b
    (let base := s.mgmt.appendBase.toNat
     let c := (a - base) / 65536
     let n := (a - base) / 64 % 1024
     let q := (s.dev.ctx c).queue n
     let here := base ≤ a ∧ a < base + 2 ^ 28
     let fits := here ∧ a = base + (1024 * c + n) * 64 ∧ s.dev.arg.c = 64 ∧ q.st = .opened ∧ q.kind ≠ 3 ∧ 0 < s.dev.queueFree c n
     (¬here → exec .hostAppend s = .next s) ∧
     (fits → ∃ t, exec .hostAppend s = .next t ∧
       t.mem = s.mem.writeAll (s.toW.pkgWrite c 0 (cellsAt (q.base + 64 * (q.tail % q.size)) (bytesOfVec (s.dev.arg.v.setWidth 512)))).ov.reverse ∧
       (t.dev.ctx c).queue n = { q with tail := (q.tail + 1) % 2 ^ 32 } ∧ t.dev.threads = s.dev.threads) ∧
     (here → ¬fits → (q.st = .none ∧ s.mgmt.bstep = 11 → exec .hostAppend s = .next s) ∧
       (¬(q.st = .none ∧ s.mgmt.bstep = 11) → ∃ t, exec .hostAppend s = .next t ∧ t.mem = s.mem ∧
         (t.dev.ctx c).queue n = { q with drops := (q.drops + 1) % 2 ^ 32 } ∧ t.dev.threads = s.dev.threads))) ∧
    (let c := a % 4096
     let n := b % 1024
     let q := (s.dev.ctx c).queue n
     (q.st ≠ .opened → q.st ≠ .draining → exec .queueStorageEcc s = .next s) ∧
     (q.st = .opened ∨ q.st = .draining → ∃ t, exec .queueStorageEcc s = .next t ∧ (t.dev.ctx c).queue n = { q with st := .faulted } ∧
       t.dev.notifyIdx = s.dev.notifyIdx + 1 ∧ t.dev.threads = s.dev.threads)) ∧
    (let x := (s.dev.ctx a).tset b
     ((∀ j < 8, (x.stage j).template = none ∨ (x.stage j).launches = []) → exec .stageLaunchAppend s = .next s) ∧
     (∀ j v slot rest m, j < 8 → (∀ i < j, (x.stage i).template = none ∨ (x.stage i).launches = []) → (x.stage j).template = some v →
       (x.stage j).launches = slot :: rest → (s.dev.ctx a).insertable (x.stage j).queue.toNat 1 = some m →
       (s.dev.ctx a).insertStatus (x.stage j).queue.toNat 1 = none → m = (x.stage j).queue.toNat % 1024 → 0 < s.dev.queueFree a m →
       let q := (s.dev.ctx a).queue m
       let entry : Vec := BitVec.ofNat 64 (slot % 65536 + j * 65536) ++ v.extractLsb' 0 448
       ∃ t, exec .stageLaunchAppend s = .next t ∧ (((t.dev.ctx a).tset b).stage j).launches = rest ∧ ((t.dev.ctx a).queue m).tail = (q.tail + 1) % 2 ^ 32 ∧
         (let d := s.dev.modTset a b (fun x => x.modStage j (fun g => { g with launches := rest }))
          t.mem = s.mem.writeAll (W.pkgWrite { s.toW with d := d } a 0 (cellsAt (q.entry q.tail) (bytesOfVec entry))).ov.reverse)) ∧
     (∀ j v slot rest st, j < 8 → (∀ i < j, (x.stage i).template = none ∨ (x.stage i).launches = []) → (x.stage j).template = some v →
       (x.stage j).launches = slot :: rest → (s.dev.ctx a).insertStatus (x.stage j).queue.toNat 1 = some st →
       ∃ t, exec .stageLaunchAppend s = .next t ∧ t.mem = s.mem ∧ (((t.dev.ctx a).tset b).stage j).launches = rest ∧
         (t.dev.ctx a).fwderr = ((s.dev.ctx a).fwderr + 1) % 2 ^ 32)) ∧
    ((s.dev.ctx a).merge = none → exec .mergeComplete s = .next s) ∧
    (∀ j, (s.dev.ctx a).merge = some j → (∀ rs, s.toW.mergeReady a j rs = false) → exec .mergeComplete s = .next s) ∧
    (∀ j, (s.dev.ctx a).merge = some j → (∀ p ∈ (s.dev.ctx a).regions, p.2.declared = false ∨ p.1 < j.regionNo) →
      let x := (s.dev.ctx a).rev j.child
      x.datum ≠ j.child → s.toW.mergeReady a j [] = true → ∃ t more, exec .mergeComplete s = .next t ∧ ((s.dev.ctx a).mapRecs = [] → t.mem = s.mem) ∧ ((t.dev.ctx a).rev j.child).st = .joined ∧
        ((t.dev.ctx a).merges = (s.dev.ctx a).merges.erase j) ∧ t.dev.pool = s.dev.pool ++ x.owned.map Prod.snd ++ x.reserve ++ more ∧
        (∀ u, s.dev.thr j.thr = some u →
          ((∀ m ∈ (s.dev.ctx a).merges.erase j, m.thr ≠ j.thr) → t.dev.thr j.thr = some { u with joinWait := none }) ∧
          ((∃ m ∈ (s.dev.ctx a).merges.erase j, m.thr = j.thr) → t.dev.thr j.thr = some u))) ∧
    (let x := (s.dev.ctx a).rev b
     (b = 0 ∨ x.st ≠ .joined → exec .ridFree s = .next s) ∧
     (b ≠ 0 → x.st = .joined → ∃ t, exec .ridFree s = .next t ∧ (t.dev.ctx a).rev b = { rgen := x.rgen } ∧ t.dev.threads = s.dev.threads ∧
       (x.rid ≠ 0 → ∀ g ∈ t.dev.grids, ∀ l ∈ g.2.l1, l.rid ≠ x.rid)))

/-- 15 R421-R428: a change of a page. A drain token that emerges leaves its generator behind, with its latches of the page suspended.
With every token out, a migration copies the frame and installs the new one; an eviction leaves the leaf ABSENT, with its backing
address where it has copied the page; a split makes its small leaves usable. Each ends its command with a completion. -/
def Obligations.PageEvents : Prop :=
  ∀ (s : State),
    let a := s.dev.arg.a
    let w0 := s.toW
    ((∀ p ∈ s.dev.pcmds, p.page ≠ a ∨ p.waitLocks = true ∨ s.dev.arg.b ∉ p.gens) → exec .drainTokenEmerge s = .next s) ∧
    (∀ p, s.dev.pcmds.find? (fun p => p.page == a && !p.waitLocks && p.gens.contains s.dev.arg.b) = some p → p.kind ≠ .domain → p.kind ≠ .rsync →
      (∀ u ∈ s.dev.threads, ∀ q ∈ u.2.streams, q.2.buffer = []) → ∃ t, exec .drainTokenEmerge s = .next t ∧ t.mem = s.mem ∧
        t.dev.pcmds = s.dev.pcmds.erase p ++ [{ p with gens := p.gens.erase s.dev.arg.b }] ∧
        t.dev.threads.map Prod.fst = s.dev.threads.map Prod.fst ∧
        ∀ n u v, (n, u) ∈ s.dev.threads → t.dev.thr n = some v → s.dev.thr n = some u → archOf v = archOf u ∧
          ∀ i q, u.streams.look i = some q → genOf u i = s.dev.arg.b →
            ∃ q', v.streams.look i = some q' ∧ ∀ l ∈ q'.latches, a ≤ l.1 → l.1 < a + p.size → l.2.2 = true) ∧
    (s.dev.drained [.migrate] a = none → exec .migrationComplete s = .next s) ∧
    (∀ p l, s.dev.drained [.migrate] a = some p → w0.leafAt p.page = some l → p.owes = none →
      let w := (w0.copyKeys (w0.pageKey p.page p.old) (w0.pageKey p.page p.arg) p.size).setLeaf p.page l (settled (withAddr l.w0 p.arg)) l.w1
      ∃ t, exec .migrationComplete s = .next t ∧ t.mem = s.mem.writeAll w.ov.reverse ∧ t.dev.pcmds = s.dev.pcmds.erase p ∧
        ∀ e ∈ t.dev.tcaches, ¬(e.page < p.page + p.size ∧ p.page < e.page + e.size)) ∧
    (s.dev.drained [.unmap, .evict, .behind] a = none → exec .evictionComplete s = .next s) ∧
    (∀ p l, s.dev.drained [.unmap, .evict, .behind] a = some p → w0.leafAt p.page = some l → p.owes = none → p.kind = .unmap →
      w0.isHost p.page = false → s.dev.l2 = [] → (∀ g ∈ s.dev.grids, g.2.l1 = []) →
      let w := (w0.setLeaf p.page l (settled l.w0) l.w1).setLeaf p.page l (withState l.w0 stAbsent) l.w1
      ∃ t, exec .evictionComplete s = .next t ∧ t.mem = s.mem.writeAll w.ov.reverse ∧ t.dev.pcmds = s.dev.pcmds.erase p ∧ t.dev.pool = s.dev.pool ∧
        (∀ e ∈ t.dev.tcaches, ¬(e.page < p.page + p.size ∧ p.page < e.page + e.size)) ∧
        ∀ u ∈ t.dev.threads, ∀ q ∈ u.2.streams, ∀ x ∈ q.2.latches, ¬(p.page ≤ x.1 ∧ x.1 < p.page + p.size)) ∧
    (∀ p l, s.dev.drained [.unmap, .evict, .behind] a = some p → w0.leafAt p.page = some l → p.kind ≠ .unmap → w0.reach p.arg ≠ .served →
      exec .evictionComplete s = .next s) ∧
    (s.dev.drained [.split] a = none → exec .splitComplete s = .next s) ∧
    (∀ p, s.dev.drained [.split] a = some p → p.owes = none → ∃ t, exec .splitComplete s = .next t ∧ t.dev.pcmds = s.dev.pcmds.erase p ∧
      t.dev.pool = s.dev.pool ∧ ∀ e ∈ t.dev.tcaches, ¬(e.page = p.page ∧ e.size = p.size))

/-- 19 R491, R494, R497, R498, R505: the events of debug. A station whose earlier writes have left the package is taken. In hardware mode
the oldest window goes to the drain target and is freed. A grid's time packet comes every 4,096 cycles. Every hour of a field counts in
the bin of its hottest grid. -/
def Obligations.DebugEvents : Prop :=
  ∀ (s : State),
    let a := s.dev.arg.a
    let l := (s.dev.ctx a).log
    (l.marking = none → exec .stationMarker s = .next s) ∧
    (∀ n, l.marking = some n → ((s.toW.cleanLogged a).l2Flush a true (fun _ => true)).leaving a = false →
      ∃ t, exec .stationMarker s = .next t ∧ (let k := (t.dev.ctx a).log
        k.station = n ∧ n ∈ k.taken ∧ k.marking = none ∧ k.begun = true)) ∧
    (l.configured = false ∨ l.drain = 0 ∨ (s.dev.bctl a).getLsbD 30 = true ∨ (∀ k ∈ l.taken, k ≤ l.oldest) → exec .logDrain s = .next s) ∧
    (∀ n, l.configured = true → l.drain ≠ 0 → (s.dev.bctl a).getLsbD 30 = false → s.toW.reach l.drain = .served →
      l.taken.reverse.find? (fun k => decide (l.oldest < k)) = some n →
      let bs := (l.segs.flatMap (fun q => q.2.before n)).flatMap (fun e => e.words.flatMap (leBytes 8))
      ∃ t, exec .logDrain s = .next t ∧ t.mem = s.mem.writeAll (s.toW.sysWrite a (cellsAt (l.drain + l.drainPos) bs)).ov.reverse ∧
        (t.dev.ctx a).log = { l.trim n with drainPos := l.drainPos + bs.length }) ∧
    (s.dev.ownerOf a = none → exec .timePacket s = .next s) ∧
    (∀ c, s.dev.ownerOf a = some c →
      ((s.dev.ctx c).trace.enables = 0#5 ∨ s.dev.cycle < (s.dev.grid a).lastTime + 4096 → exec .timePacket s = .next s) ∧
      ((s.dev.ctx c).trace.enables ≠ 0#5 → (s.dev.grid a).lastTime + 4096 ≤ s.dev.cycle → ∃ t, exec .timePacket s = .next t ∧
        (t.dev.grid a).lastTime = s.dev.cycle ∧ t.dev.threads = s.dev.threads ∧
        (let r := (s.dev.ctx c).trace
         let r' := (t.dev.ctx c).trace
         (r.off + 16 ≤ r.len → r'.lost = r.lost ∧ t.mem = s.mem.writeAll (s.toW.traceBytes c
           (leBytes 8 (traceWord s.dev 0 a 0 0 0) ++ leBytes 8 s.dev.now)).ov.reverse) ∧
         (r.len < r.off + 16 → r.enables.getLsbD 4 = false → r'.lost = r.lost + 1 ∧ t.mem = s.mem)))) ∧
    (∃ t, exec .lifetimeRecordWrite s = .next t ∧ t.mem = s.mem ∧ t.dev.threads = s.dev.threads ∧ t.dev.lifeStored = t.dev.life ∧
      t.dev.life = { s.dev.life with hours := t.dev.life.hours } ∧
      ∀ f < 8, ∃ g < 56, (∀ h < 56, (s.dev.grid (f * 56 + h)).temp ≤ (s.dev.grid (f * 56 + g)).temp) ∧
        ∀ b < 16, t.dev.life.hours.get (16 * f + b) 0 = (let n := s.dev.life.hours.get (16 * f + b) 0
          if b = tempBin (s.dev.grid (f * 56 + g)).temp then min (2 ^ 32 - 1) (n + 1) else n))

/-! ### Events of the links, of the host, of power and management (18 R475-R484, 23 R513-R521) -/

/-- 10 R285, R291, 23 R516, R517, R519-R521: bring-up, SPDM and the management registers. A step completes when what its row asks for holds; its
bit is set, and the plat is open after step 10; when the HBM PHY and the I/O islands get power is the model's choice (log 93). A timeout is fatal, but that step 7 goes on with one CXL port and step 8 with the ports
that have trained. SPDM answers from step 9 on, after a fatal timeout only version and status; digests, certificates and signatures are
free values. A register is written in its own range; some take no write once the plat is open, and the write is counted. A partial write
to the command aperture does nothing. -/
def Obligations.ManagementEvents : Prop :=
  ∀ (s : State),
    let e := s.dev.arg
    let n := s.mgmt.bstep
    let live := 1 ≤ n ∧ n ≤ 10 ∧ s.mgmt.fatal = false
    let done := fun (t : State) => t.mgmt.bstep = n + 1 ∧ t.mgmt.stat = s.mgmt.stat ||| BitVec.ofNat 10 (2 ^ (n - 1)) ∧ t.mgmt.fatal = false
    (n = 0 → exec .powerOn s = .next { s with mgmt := { s.mgmt with bstep := 1 } }) ∧
    (n ≠ 0 → exec .powerOn s = .next s) ∧
    (¬live ∨ s.toW.stepReady n = false → exec .bringupStepComplete s = .next s) ∧
    (live → s.toW.stepReady n = true → ∃ t, exec .bringupStepComplete s = .next t ∧ t.mem = s.mem ∧ done t ∧
      (n = 1 → t.dev.now = 0) ∧ (n ≠ 1 → t.dev.now = s.dev.now) ∧ (n = 3 → ∀ f < 8, (t.dev.field f).powered = true) ∧
      (n = 2 → t.mgmt.fwVersion.get 0 0 = e.ns.getD 0 0 ∧ t.mgmt.fwVersion.get 1 0 = e.ns.getD 1 0 ∧
        s.mgmt.fwMin.get 0 0 ≤ e.ns.getD 0 0 ∧ s.mgmt.fwMin.get 1 0 ≤ e.ns.getD 1 0) ∧
      (n = 4 → ∀ f < 8, (t.dev.field f).pllLocked = true ∧ (t.dev.field f).phy = true) ∧ (n = 6 → t.dev.io = true) ∧
      (n = 7 → ∀ p < 48, (s.dev.port p).st = .down → (t.dev.port p).st = .training) ∧
      (n = 10 → t.mgmt.fwMin = s.mgmt.fwVersion) ∧ (n ≠ 10 → t.mgmt.fwMin = s.mgmt.fwMin)) ∧
    (¬live → exec .bringupTimeout s = .next s) ∧
    (live → n ≠ 7 ∨ e.a % 4 = 0 → n ≠ 8 → exec .bringupTimeout s = .next { s with mgmt := { s.mgmt with failStep := n, fatal := true } }) ∧
    (live → n = 7 → e.a % 4 ≠ 0 → ∃ t, exec .bringupTimeout s = .next t ∧ t.mem = s.mem ∧ done t) ∧
    (live → n = 8 → ∃ t, exec .bringupTimeout s = .next t ∧ t.mem = s.mem ∧ done t ∧ ∀ p ∈ t.dev.ports, p.2.st ≠ .training) ∧
    (let answers := fun (i : Instr) (code : Nat) (ws : List Nat) (k : Nat) => ∃ t rest, exec i s = .next t ∧ t.mem = s.mem ∧ t.mgmt = s.mgmt ∧
       rest.length = k ∧ t.dev.spdm = s.dev.spdm ++ [⟨code, ws ++ rest⟩] ∧ t.dev.threads = s.dev.threads
     let silent := fun (i : Instr) => ∃ t, exec i s = .next t ∧ t.mem = s.mem ∧ t.mgmt = s.mgmt ∧ t.dev.spdm = s.dev.spdm
     (9 < n ∨ s.mgmt.fatal = true → answers .getVersion 0x04 [0x13] 0) ∧
     (n ≤ 9 → s.mgmt.fatal = false → silent .getVersion) ∧
     (9 < n → answers .getCapabilities 0x61 [] 1 ∧ answers .negotiateAlgorithms 0x63 [0x80, 0x02] 0 ∧ answers .getDigests 0x01 [] 6 ∧
       answers .getCertificate 0x02 [] 6 ∧ answers .challenge 0x03 [] 12 ∧ answers .spdmUnsupportedRequest 0x7F [0x07] 0) ∧
     (n ≤ 9 → silent .getCapabilities ∧ silent .negotiateAlgorithms ∧ silent .getDigests ∧ silent .getCertificate ∧ silent .challenge ∧
       silent .spdmUnsupportedRequest) ∧
     (9 < n → (e.a = 1 → answers .getMeasurements 0x60 [1] 6) ∧ (e.a = 2 → answers .getMeasurements 0x60 [2, s.mgmt.fwVersion.get 0 0] 6) ∧
       (e.a = 3 → answers .getMeasurements 0x60 [3, s.mgmt.fwVersion.get 1 0] 6) ∧ (e.a = 4 → answers .getMeasurements 0x60 [4, Config.stepping] 1) ∧
       (e.a = 0 ∨ 6 ≤ e.a → answers .getMeasurements 0x7F [0x01] 0)) ∧
     (e.a = 5 → 9 < n ∨ s.mgmt.fatal = true →
       answers .getMeasurements 0x60 [5, s.mgmt.stat.toNat + s.mgmt.failStep * 2 ^ 16, s.mgmt.ideKeys] 0)) ∧
    (n ≠ 11 → exec .reqHeadWrite s = .next { s with mgmt := { s.mgmt with reqHead := e.b % 2 ^ 32 } }) ∧
    (n = 11 → ∃ t, exec .reqHeadWrite s = .next t ∧ t.mgmt = { s.mgmt with reqHead := e.b % 2 ^ 32 } ∧
      (let room := s.mgmt.reqLen - (s.dev.reqTail + 2 ^ 32 - e.b % 2 ^ 32) % 2 ^ 32
       t.dev.heldReqs = s.dev.heldReqs.drop room ∧
       (s.dev.reqTail < 2 ^ 32 → t.dev.reqTail = (s.dev.reqTail + min room s.dev.heldReqs.length) % 2 ^ 32) ∧ t.dev.threads = s.dev.threads)) ∧
    (n = 0 ∨ s.mgmt.fatal = true → exec .mgmtRegisterWrite s = .next s) ∧
    (n ≠ 0 → s.mgmt.fatal = false →
      (n = 11 → e.a ∈ [0x30, 0x38, 0x40, 0xB0, 0x90, 0x98] → exec .mgmtRegisterWrite s =
        .next { s with dev := { s.dev with life := { s.dev.life with ignored := s.dev.life.ignored + 1 } } }) ∧
      (n ≠ 11 ∨ e.a ∉ [0x30, 0x38, 0x40, 0xB0, 0x90, 0x98] → ∃ t, exec .mgmtRegisterWrite s = .next t ∧ t.dev = s.dev ∧ t.mem = s.mem ∧
        (let v := (e.v.setWidth 64).toNat
         let at_ := fun (off : Nat) (g : Mgmt) => e.a = off → t.mgmt = g
         at_ 0x10 { s.mgmt with thermThr := max 70 (min 100 (v % 256)) } ∧
         at_ 0x18 { s.mgmt with lnkTmo := max 10 (min 100000 (v % 2 ^ 17)) } ∧
         at_ 0x20 { s.mgmt with domId := v % 256, domMembers := max 1 (min 256 (v / 256 % 512)) } ∧
         at_ 0x28 { s.mgmt with ptpGm := BitVec.ofNat 64 (v % 512) } ∧
         at_ 0x30 { s.mgmt with ptRoot := BitVec.ofNat 64 (v / 16384 * 16384) } ∧
         at_ 0x38 { s.mgmt with ptHroot := BitVec.ofNat 64 (v / 16384 * 16384) } ∧
         at_ 0x40 { s.mgmt with appendBase := BitVec.ofNat 64 (v / 2 ^ 28 * 2 ^ 28) } ∧
         at_ 0xB0 { s.mgmt with cmdBase := BitVec.ofNat 64 (v / 2 ^ 18 * 2 ^ 18) } ∧
         at_ 0x48 { s.mgmt with notifyBase := BitVec.ofNat 64 (v / 4096 * 4096) } ∧
         at_ 0x50 { s.mgmt with notifyLen := max 128 (min 65536 v) } ∧
         at_ 0x58 { s.mgmt with ksignSel := BitVec.ofNat 64 (v % 2 ^ 20) } ∧
         at_ 0x90 { s.mgmt with reqBase := BitVec.ofNat 64 (v / 4096 * 4096) } ∧
         at_ 0x98 { s.mgmt with reqLen := max 128 (min 65536 v) } ∧ at_ 0x00 s.mgmt ∧ at_ 0x08 s.mgmt ∧ at_ 0xA8 s.mgmt))) ∧
    exec .partialApertureWrite s = .next s

/-! ### Host commands (10 R281-R289, 11 R322-R327, 12 R345-R347, 13 R367-R380, 14 R400, 15 R414-R426, 16 R446, 19 R489-R503) -/

namespace Sys2Proof.Claims

/-- A command ends with a status and a completion word, in the state that `w` leaves before its completion is written. -/
def Ends (i : CmdRec → Instr) (cmd : CmdRec) (s : State) (w : W) (status word : Nat) : Prop :=
  ∃ t, exec (i cmd) s = .next t ∧ Leaves s t (w.finish cmd.ctx.toNat cmd status word)

/-- The context of a command is in a state of a list, and the command names its generation. -/
def Takes (s : State) (cmd : CmdRec) (l : List CState) : Prop :=
  let k := s.dev.ctx cmd.ctx.toNat
  k.st ∈ l ∧ k.gen = cmd.gen

/-- A command whose context is FREE or KILLED, or whose generation differs. -/
def StaleCmd (s : State) (cmd : CmdRec) : Prop :=
  let k := s.dev.ctx cmd.ctx.toNat
  k.st = .free ∨ k.st = .killed ∨ k.gen ≠ cmd.gen

/-- The state that a stale command leaves before its completion: the context's count of stale answers is one higher. -/
def countedStale (s : State) (cmd : CmdRec) : W :=
  { s.toW with d := s.dev.modCtx cmd.ctx.toNat (fun k => { k with stale := (k.stale + 1) % 2 ^ 32 }) }

/-- Commands that check the state of their context, with the states that accept them (10 R288, 11 R322, 12 R346, 14 R400, 19 R489). -/
def stateChecked : List (List CState × (CmdRec → Instr)) :=
  let objects : List CState := [.opened, .bound, .running, .frozen, .saved]
  let live : List CState := [.opened, .bound, .running, .gating, .quiescent, .saved, .frozen, .dumping, .faulted]
  [([.opened, .saved], .configure), ([.opened], .bind), ([.bound], .run), ([.bound], .unbind), ([.running, .frozen, .dumping], .preempt),
   ([.opened, .saved], .restore), ([.running, .dumping], .freeze), ([.frozen], .resume), ([.frozen], .dump), (live, .kill), ([.running], .danswer),
   (objects, .load), (objects, .unload), (objects, .qcreate), (objects, .qopen), (objects, .qdrain), (objects, .qclose), (objects, .qdestroy),
   (objects, .qquery), (objects, .balloc), (objects, .bfree), (objects, .bquery), ([.running, .frozen], .gresume),
   ([.opened, .bound, .saved], .logcfg), (live, .logtrim), ([.frozen], .reverseToStation), ([.frozen], .reverseBlock), (live, .trcfg),
   ([.opened, .bound, .saved, .frozen], .record), (live, .dbgmatch), ([.frozen], .cutread)]

end Sys2Proof.Claims

/-- 10 R281, R285, R286, R288: every command that names a context answers STALE, and counts it, when the context is FREE or KILLED or of
another generation, and BAD_STATE in a state that does not accept it. The completion is 16 bytes at its address: status, state code and
the completion word; an address of zero asks for none. -/
def Obligations.CommandAnswers : Prop :=
  (∀ (cmd : CmdRec) (s : State), ∀ p ∈ stateChecked,
    (StaleCmd s cmd → Ends p.2 cmd s (countedStale s cmd) 4 0) ∧
    (¬StaleCmd s cmd → (s.dev.ctx cmd.ctx.toNat).st ∉ p.1 → Ends p.2 cmd s s.toW 1 0)) ∧
  (∀ (cmd : CmdRec) (s : State), StaleCmd s cmd →
    Ends .rsync cmd s (countedStale s cmd) 4 0 ∧ Ends .panswer cmd s (countedStale s cmd) 4 0 ∧ Ends .manswer cmd s (countedStale s cmd) 4 0) ∧
  (∀ (cmd : CmdRec) (s : State), ((s.dev.ctx cmd.ctx.toNat).st = .killed → Ends .create cmd s (countedStale s cmd) 4 0) ∧
    ((s.dev.ctx cmd.ctx.toNat).st ∉ [.killed, .free] → Ends .create cmd s s.toW 1 0)) ∧
  (∀ (w : W) (c : Nat) (cmd : CmdRec) (status word : Nat), let a := cmd.compl.toNat
    (a = 0 ∨ a % 16 ≠ 0 ∨ 2 ^ 57 ≤ a → w.finish c cmd status word = w) ∧
    (a ≠ 0 → a % 16 = 0 → a < 2 ^ 57 → ∃ bs, bs.length = 16 ∧ w.finish c cmd status word = w.sysWrite c (cellsAt a bs) ∧
      ofBytes (bs.take 8) = (status + 256 * stateCode (w.d.ctx c).st) % 2 ^ 64 ∧ ofBytes (bs.drop 8) = word % 2 ^ 64))

/-- 10 R281-R284, R288, R289, R292, R293, R300, R301, R307-R311, 13 R367-R369: the commands of the life of a context. -/
def Obligations.ContextCommands : Prop :=
  ∀ (cmd : CmdRec) (s : State),
    let c := cmd.ctx.toNat
    let k := s.dev.ctx c
    let w0 := s.toW
    let words := fun (v : Vec) => (List.range 8).map (fun i => elem 64 v i)
    let limit := fun (v : Vec) => 2 ^ ((elem 64 v 0).extractLsb' 3 5).toNat
    (∀ r w, k.st = .free → w0.readRec c cmd.a2.toNat = (r, w) →
      (r = none ∨ (∃ v, r = some v ∧ badConfig v = true) → Ends .create cmd s w 2 0) ∧
      (∀ v, r = some v → badConfig v = false → ∃ t, exec (.create cmd) s = .next t ∧ (t.dev.ctx c).st = .opened ∧ (t.dev.ctx c).gen = k.gen + 1#32 ∧
        (t.dev.ctx c).cfg = words v ∧ (t.dev.ctx c).wdog = limit v ∧ (t.dev.ctx c).plat = none ∧ (t.dev.ctx c).frecs = [] ∧ (t.dev.ctx c).queues = [] ∧
        (t.dev.ctx c).kernels = [] ∧ (t.dev.ctx c).stale = 0 ∧ t.dev.threads = s.dev.threads)) ∧
    (∀ r w, Takes s cmd [.opened, .saved] → w0.readRec c cmd.a2.toNat = (r, w) →
      (r = none ∨ (∃ v, r = some v ∧ badConfig v = true) → Ends .configure cmd s w 2 0) ∧
      (∀ v, r = some v → badConfig v = false → ∃ t, exec (.configure cmd) s = .next t ∧ (t.dev.ctx c).st = k.st ∧ (t.dev.ctx c).gen = k.gen ∧
        (t.dev.ctx c).cfg = words v ∧ (t.dev.ctx c).wdog = limit v ∧ (t.dev.ctx c).frecs = k.frecs ∧ t.dev.threads = s.dev.threads)) ∧
    (∀ r w, Takes s cmd [.opened] → w0.readBind c cmd.a2.toNat = (r, w) →
      (r = none → Ends .bind cmd s w 2 0) ∧
      (∀ p, r = some p → (w.d.overlaps c p = true → Ends .bind cmd s w 3 0) ∧
        (w.d.overlaps c p = false → ∃ t q, exec (.bind cmd) s = .next t ∧ (t.dev.ctx c).st = .bound ∧ (t.dev.ctx c).plat = some q ∧
          q.parcel = p.parcel ∧ q.bctl = p.bctl ∧ q.budgets = p.budgets ∧ q.poolBase = p.poolBase ∧ q.poolUnits = p.poolUnits ∧
          ∀ g < 448, p.parcel.getLsbD g = true → (t.dev.grid g).temp = (s.dev.grid g).temp ∧ (t.dev.grid g).hot = (s.dev.grid g).hot ∧
            (t.dev.grid g).l1 = [] ∧ (t.dev.grid g).plb = [] ∧ (t.dev.grid g).cache = [] ∧
            (∀ h < 448, h < g → p.parcel.getLsbD h = false) → (t.dev.ctx c).home = g / 56))) ∧
    (Takes s cmd [.bound] → ∃ t, exec (.run cmd) s = .next t ∧ (t.dev.ctx c).st = .running ∧ t.dev.threads = s.dev.threads ∧
      ((t.dev.ctx c).recd.armed = true ↔ k.recd.armed = true ∨ k.recd.mode = 1 ∨ k.recd.mode = 2)) ∧
    (Takes s cmd [.bound] → ∃ t, exec (.unbind cmd) s = .next t ∧ (t.dev.ctx c).st = .opened ∧ (t.dev.ctx c).plat = none ∧ NoThreads t c ∧
      ∀ g ∈ t.dev.groups, g.ctx ≠ c) ∧
    (Takes s cmd [.running] → ∃ t, exec (.freeze cmd) s = .next t ∧ (t.dev.ctx c).st = .frozen ∧ (t.dev.ctx c).frozenCause = 0#8 ∧
      (t.dev.ctx c).frozenRec = none ∧ (t.dev.ctx c).secondary = 0 ∧ t.dev.notifyIdx = s.dev.notifyIdx + 1 ∧ ∀ g ∈ k.parcel, t.dev.stopped g = true) ∧
    (Takes s cmd [.dumping] → ∀ p ∈ [((0x08#8 : BitVec 8), Instr.freeze cmd), (0x06#8, .preempt cmd)], ∃ t, exec p.2 s = .next t ∧ t.mem = s.mem ∧
      t.dev.ctx c = { k with heldCmds := k.heldCmds ++ [(p.1, cmd)] } ∧ t.dev.threads = s.dev.threads) ∧
    (Takes s cmd [.frozen] →
      (k.recOf cmd.a2 = none → Ends .resume cmd s w0 2 0) ∧
      (∀ e r, k.recOf cmd.a2 = some (e, r) →
        (2 < cmd.a3.toNat ∨ (cmd.a3 = 1#64 ∧ w0.badRedirect cmd.a4 = true) → Ends .resume cmd s w0 2 0) ∧
        (cmd.a3.toNat ≤ 2 → (cmd.a3 = 1#64 → w0.badRedirect cmd.a4 = false) → ∃ t, exec (.resume cmd) s = .next t ∧
          (t.dev.ctx c).frecs = k.frecs.erase e ∧ (t.dev.ctx c).st = (if k.frecs.erase e = [] then .running else .frozen) ∧
          ∀ u, s.dev.thr r.thr = some u → (cmd.a3 = 1#64 → ∃ v, t.dev.thr r.thr = some v ∧ v.next = some cmd.a4.toNat ∧ archOf v = archOf u) ∧
            (cmd.a3 = 2#64 → ∃ v, t.dev.thr r.thr = some v ∧ v.ended = true)))) ∧
    (Takes s cmd [.frozen] → s.dev.dumping = none → (s.dev.bctl c).getLsbD 29 = false → ∃ t, exec (.dump cmd) s = .next t ∧
      (t.dev.ctx c).st = .dumping ∧ t.dev.dumping = some c ∧ t.dev.threads = s.dev.threads) ∧
    (Takes s cmd [.frozen] → s.dev.dumping ≠ none → (s.dev.bctl c).getLsbD 29 = false → c ∉ s.dev.dumpQ →
      (s.dev.dumpQ.length < 8 → Ends .dump cmd s { w0 with d := { s.dev with dumpQ := s.dev.dumpQ ++ [c] } } 0 0) ∧
      (8 ≤ s.dev.dumpQ.length → Ends .dump cmd s w0 3 0)) ∧
    (Takes s cmd [.opened, .bound, .running, .gating, .quiescent, .saved, .frozen, .dumping, .faulted] → ∃ t, exec (.kill cmd) s = .next t ∧
      (t.dev.ctx c).st = .killed ∧ (t.dev.ctx c).frecs = [] ∧ (t.dev.ctx c).queues = [] ∧ (t.dev.ctx c).kernels = [] ∧ (t.dev.ctx c).handlerQ = [] ∧
      (∀ r ∈ t.dev.preqs, r.ctx ≠ c) ∧ c ∉ t.dev.dumpQ ∧ t.dev.dumping ≠ some c) ∧
    (Takes s cmd [.running, .frozen] → 2 ^ 57 < cmd.a2.toNat + cmd.a3.toNat → Ends .preempt cmd s w0 2 0) ∧
    (Takes s cmd [.running] → cmd.a2.toNat + cmd.a3.toNat ≤ 2 ^ 57 → ∃ t, exec (.preempt cmd) s = .next t ∧ t.mem = s.mem ∧
      t.dev.threads = s.dev.threads ∧ t.dev.insts = s.dev.insts ∧
      (let q := t.dev.ctx c
       q.st = .gating ∧ q.gatePhase = 1 ∧ q.gateAt = s.dev.cycle ∧ q.zeroSweeps = 0 ∧ q.fromFrozen = false ∧ q.saveAddr = cmd.a2.toNat ∧
       q.saveLen = cmd.a3.toNat ∧ q.owes = some cmd ∧ q.plat = k.plat ∧ q.frecs = k.frecs)) ∧
    (Takes s cmd [.frozen] → cmd.a2.toNat + cmd.a3.toNat ≤ 2 ^ 57 → NoBlocks s c → NoThreads s c → (∀ r ∈ s.dev.rels, r.ctx ≠ c) →
      ∃ t, exec (.preempt cmd) s = .next t ∧ (t.dev.ctx c).st = .gating ∧ (t.dev.ctx c).gatePhase = 2 ∧ (t.dev.ctx c).fromFrozen = true ∧
        (t.dev.ctx c).owes = some cmd) ∧
    (∀ w, Takes s cmd [.opened, .saved] → w0.readBind c cmd.a3.toNat = (none, w) → Ends .restore cmd s w 2 0) ∧
    (∀ p wb h w1 bs w, Takes s cmd [.opened, .saved] → w0.readBind c cmd.a3.toNat = (some p, wb) → cmd.a2.toNat + 256 ≤ 2 ^ 57 →
      wb.readHome c 0 cmd.a2.toNat 256 = (.ok h, w1) →
      let len := ofBytes ((h.drop 0x18).take 8)
      256 ≤ len → len ≤ 1024 → cmd.a2.toNat + len ≤ 2 ^ 57 → w1.readHome c 0 cmd.a2.toNat len = (.ok bs, w) →
      let word := fun (o : Nat) => ofBytes ((bs.drop o).take 8)
      let number := ofBytes ((bs.drop (word 0xC8)).take 8)
      let whole := sha384 (bs.take 0xD0 ++ List.replicate 48 0#8 ++ bs.drop 256) = (bs.drop 0xD0).take 48
      (p.bctl.getLsbD 29 = false → w.d.images[number]? = none ∨ ¬whole → Ends .restore cmd s w 0x61 0) ∧
      (∀ i, w.d.images[number]? = some i → whole → word 0x10 ≤ Config.features → w.d.overlaps c p = false →
        let install := w.install c p i ((List.range 8).map (fun j => BitVec.ofNat 64 (word (0x30 + 8 * j)))) ((word 0x20).testBit 0)
          ((w.d.ctx c).st == .saved && (w.d.ctx c).lastImage == some number)
        (install = none → p.bctl.getLsbD 29 = false → Ends .restore cmd s w 0x63 0) ∧
        (∀ w', install = some w' → Ends .restore cmd s w' 0 0))) ∧
    (∀ (w w' : W) p i cfg frozen same, w.install c p i cfg frozen same = some w' → (w'.d.ctx c).gen = (w.d.ctx c).gen ∧
      (w'.d.ctx c).restores = (w.d.ctx c).restores + 1 ∧ (w'.d.ctx c).st = if frozen then .frozen else .bound)

/-- 11 R322-R327, 12 R345-R347, 13 R380, 14 R398, R400: the commands on kernels, queues, barriers and dispatch requests. -/
def Obligations.ObjectCommands : Prop :=
  ∀ (cmd : CmdRec) (s : State), Takes s cmd [.opened, .bound, .running, .frozen, .saved] →
    let c := cmd.ctx.toNat
    let k := s.dev.ctx c
    let w0 := s.toW
    let a := cmd.a2.toNat
    (a % 16384 ≠ 0 ∨ 2 ^ 57 ≤ a ∨ cmd.a3.toNat % 256 ≠ 0 ∨ 2 ^ 57 ≤ cmd.a3.toNat ∨ 65535 < cmd.a4.toNat → Ends .load cmd s w0 2 0) ∧
    (a % 16384 = 0 → a < 2 ^ 57 → cmd.a3.toNat % 256 = 0 → cmd.a3.toNat < 2 ^ 57 → cmd.a4.toNat ≤ 65535 →
      ((∀ n < 256, (k.kernel n).st ≠ .unloaded) → Ends .load cmd s w0 3 0) ∧
      (∀ n < 256, (k.kernel n).st = .unloaded → (∀ m < n, (k.kernel m).st ≠ .unloaded) → ∃ t x, exec (.load cmd) s = .next t ∧
        t.mem = s.mem.writeAll (w0.readHome c 0 a 256).2.ov.reverse ∧ (t.dev.ctx c).kernel n = x ∧ x.st = .loading ∧
        x.lgen = (k.kernel n).lgen % (2 ^ 32 - 1) + 1 ∧ x.base = a ∧ x.poolBase = cmd.a3.toNat ∧ x.poolSize = cmd.a4.toNat ∧ x.owes = [cmd] ∧
        (∃ len, 16384 ≤ len ∧ (c, n, a, len) ∈ t.dev.wprot) ∧ t.dev.threads = s.dev.threads)) ∧
    (k.kernelOf cmd.a2 = none → Ends .unload cmd s w0 4 0) ∧
    (∀ n x, k.kernelOf cmd.a2 = some (n, x) → (∀ g ∈ s.dev.groups, g.ctx = c → g.handle = cmd.a2 → g.st ≠ .gated ∧ g.st ≠ .queued) →
      (x.st = .loading → Ends .unload cmd s w0 1 0) ∧
      (x.st = .resident → ∃ t, exec (.unload cmd) s = .next t ∧ ((t.dev.ctx c).kernel n).st = .unloaded ∧ ((t.dev.ctx c).kernel n).lgen = x.lgen ∧
        (∀ p ∈ t.dev.wprot, ¬(p.1 = c ∧ p.2.1 = n)) ∧
        Leaves s t (W.finish { w0 with d := s.dev.unloadKernel c n } c cmd 0 a)) ∧
      (x.st = .active ∨ x.st = .tainted → (∃ g ∈ s.dev.groups, g.ctx = c ∧ g.handle = BitVec.ofNat 64 (x.handle n) ∧ g.st = .running) →
        ∃ t, exec (.unload cmd) s = .next t ∧ t.mem = s.mem ∧ (t.dev.ctx c).kernel n = { x with draining := true, owes := x.owes ++ [cmd] } ∧
          t.dev.threads = s.dev.threads)) ∧
    (∀ r w, w0.readRec c a = (r, w) →
      (r = none ∨ (∃ v, r = some v ∧ badQueueDesc v = true) → Ends .qcreate cmd s w 2 0) ∧
      (∀ v, r = some v → badQueueDesc v = false →
        ((∀ n < 1024, ((w.d.ctx c).queue n).st ≠ .none) → Ends .qcreate cmd s w 3 0) ∧
        (∀ n < 1024, ((w.d.ctx c).queue n).st = .none → (∀ m < n, ((w.d.ctx c).queue m).st ≠ .none) → ∃ q : Queue,
          q.st = .unbound ∧ q.kind = ((elem 64 v 0).extractLsb' 0 4).toNat ∧ q.size = (elem 64 v 1).toNat ∧ q.base = (elem 64 v 2).toNat ∧
          q.qgen = (((w.d.ctx c).queue n).qgen + 1) % 2 ^ 32 ∧ q.head = 0 ∧ q.tail = 0 ∧
          Ends .qcreate cmd s { w with d := w.d.modQueue c n (fun _ => q) } 0 (n + q.qgen * 2 ^ 10 + q.kind * 2 ^ 60)))) ∧
    (k.queueOf a = none → ∀ i ∈ [Instr.qopen, .qdrain, .qclose, .qdestroy, .qquery], Ends i cmd s w0 4 0) ∧
    (∀ n q, k.queueOf a = some (n, q) →
      (q.st ≠ .unbound → q.st ≠ .closed → Ends .qopen cmd s w0 1 0 ∧ Ends .qdestroy cmd s w0 1 0) ∧
      (q.st ≠ .opened → Ends .qdrain cmd s w0 1 0) ∧
      (q.st = .unbound → q.kind ≠ 3 →
        (w0.lockPlan q.base (64 * q.size) = .absent → Ends .qopen cmd s w0 3 0) ∧
        (∀ ls, w0.lockPlan q.base (64 * q.size) = .locks ls → ∃ w, w = w0.lockAll ls ∧ ∃ q' : Queue, q'.st = .opened ∧ q'.head = 0 ∧ q'.tail = 0 ∧
          q'.locks = ls ∧ q'.qgen = q.qgen ∧ q'.base = q.base ∧ q'.size = q.size ∧ q'.kind = q.kind ∧
          Ends .qopen cmd s { w with d := w.d.modQueue c n (fun _ => q') } 0 (q.handle n))) ∧
      (q.st = .closed → q.kind ≠ 3 → ∃ q' : Queue, q'.st = .opened ∧ q'.head = 0 ∧ q'.tail = 0 ∧ q'.qgen = (q.qgen + 1) % 2 ^ 32 ∧ q'.locks = q.locks ∧
        Ends .qopen cmd s { w0 with d := s.dev.modQueue c n (fun _ => q') } 0 (q'.handle n)) ∧
      (q.st = .opened → ∃ t, exec (.qdrain cmd) s = .next t ∧ t.dev.threads = s.dev.threads ∧ ((t.dev.ctx c).queue n).st =
        if q.head = q.tail ∧ s.dev.pushResv c (q.handle n) = 0 then .closed else .draining) ∧
      (q.st = .opened ∨ q.st = .draining ∨ q.st = .faulted → q.kind ≠ 1 → ∃ q' : Queue, q'.st = .closed ∧ q'.head = q.tail ∧ q'.tail = q.tail ∧
        q'.qgen = q.qgen ∧ Ends .qclose cmd s { w0 with d := s.dev.modQueue c n (fun _ => q') } 0 (q.handle n)) ∧
      (q.st = .unbound ∨ q.st = .closed → q.locks = [] →
        Ends .qdestroy cmd s { w0 with d := s.dev.modQueue c n (fun q => { qgen := q.qgen }) } 0 (q.handle n)) ∧
      (q.st ≠ .none → Ends .qquery cmd s w0 0 (q.head % 2 ^ 32 + q.tail % 2 ^ 32 * 2 ^ 32))) ∧
    (let bad := (cmd.a2.extractLsb' 0 16).toNat = 0 ∨ (cmd.a2.extractLsb' 16 3).toNat = 0 ∨ 4 < (cmd.a2.extractLsb' 16 3).toNat ∨
       cmd.a2.extractLsb' 19 45 ≠ 0#45
     (bad → Ends .balloc cmd s w0 2 0) ∧ (¬bad → s.dev.freeBar c = none → Ends .balloc cmd s w0 3 0) ∧
     (∀ n, ¬bad → s.dev.freeBar c = some n → ∃ b : Barrier, b.armed = true ∧ b.phase = 0 ∧ b.arrivals = 0 ∧ b.drops = 0 ∧
       b.expected = (cmd.a2.extractLsb' 0 16).toNat ∧ b.scope = (cmd.a2.extractLsb' 16 3).toNat ∧ b.bgen = ((k.bar n).bgen + 1) % 2 ^ 22 ∧
       Ends .balloc cmd s { w0 with d := s.dev.modCtx c (fun k => { k with bars := k.bars.set n b }) } 0 (n % 1024 + b.bgen * 1024))) ∧
    (k.barOf a = none → Ends .bfree cmd s w0 4 0 ∧ Ends .bquery cmd s w0 4 0) ∧
    (∀ n, k.barOf a = some n → Ends .bquery cmd s w0 0 ((k.bar n).phase + (k.bar n).arrivals * 2 ^ 32 + (k.bar n).expected * 2 ^ 48) ∧
      Ends .bfree cmd s { w0 with d := s.dev.modCtx c (fun k => { k with bars := k.bars.set n { k.bar n with armed := false } }) } 0 a) ∧
    (k.st = .running → s.dev.group c a = none → Ends .danswer cmd s (countedStale s cmd) 4 0) ∧
    (∀ g, k.st = .running → s.dev.group c a = some g →
      (g.st ≠ .queued ∨ g.asked = false ∨ g.answered ≠ none → Ends .danswer cmd s (countedStale s cmd) 4 0) ∧
      (g.st = .queued → g.asked = true → g.answered = none →
        (cmd.a3.toNat % 64 ≠ 0 ∨ 2 ^ 57 ≤ cmd.a3.toNat → Ends .danswer cmd s w0 2 0) ∧
        (∀ bs w, cmd.a3.toNat % 64 = 0 → cmd.a3.toNat < 2 ^ 57 → w0.readHome c 0 cmd.a3.toNat (2 * g.nthreads) = (.ok bs, w) →
          Ends .danswer cmd s { w with d := w.d.modGroup c g.gid (fun g => { g with
            answered := some ((List.range g.nthreads).map (fun i => ofBytes ((bs.drop (2 * i)).take 2))) }) } 0 0)))

/-- 15 R414, R417-R422, R425-R428, 16 R446: the page commands. A page that is not named by the base of its leaf is BAD_ARGUMENT; one in the
hands of another change, or pinned, is BUSY; one with hardware locks waits. A migration, an eviction or an unmapping takes the leaf's
state and waits for the drain tokens of the generators that hold latches on it; a split takes a frame of the pool for its table. PPIN and
PUNPIN set PIN; PDOMAIN gives a region its domain, BUSY where the region is one leaf that another change has taken; RSYNC clears the context's cached rights; PANSWER lets the requesters of a page go on, refuses them, or asks again;
PSTOCK gives frames to the pool; MANSWER takes the host's results of a merge. -/
def Obligations.PageCommands : Prop :=
  ∀ (cmd : CmdRec) (s : State),
    let c := cmd.ctx.toNat
    let k := s.dev.ctx c
    let w0 := s.toW
    let x := cmd.a2.toNat
    (w0.namedLeaf x = none → ∀ i ∈ [Instr.punmap, .pmigrate, .pevict, .psplit, .ppin, .punpin], Ends i cmd s w0 2 0) ∧
    (∀ l, w0.namedLeaf x = some l →
      (l.state = stAbsent → Ends .punmap cmd s w0 0 0 ∧ Ends .ppin cmd s w0 2 0) ∧
      (l.state ≠ stAbsent → l.fixed = true → Ends .punmap cmd s w0 0x40 0) ∧
      (l.taken = true → l.state ≠ stAbsent → Ends .ppin cmd s w0 0x40 0 ∧ Ends .punpin cmd s w0 0x40 0) ∧
      (l.state ≠ stAbsent → l.fixed = false →
        let asked := fun (kind : PcKind) (arg : Nat) (waits : Bool) =>
          ({ kind := kind, page := x, arg := arg, size := l.size, old := l.frame, waitLocks := waits, insts := [], owes := some cmd,
             gens := if waits then [] else s.dev.latchGens x l.size } : PageCmd)
        let starts := fun (i : CmdRec → Instr) (p : PageCmd) (st : Nat) => ∃ t, exec (i cmd) s = .next t ∧ t.dev.pcmds = s.dev.pcmds ++ [p] ∧
          t.mem = s.mem.writeAll (w0.setLeaf x l (withState l.w0 st) l.w1).ov.reverse ∧ t.dev.threads = s.dev.threads ∧ t.dev.pool = s.dev.pool
        (entLocks l.w0 ≠ 0 → (∃ t, exec (.punmap cmd) s = .next t ∧ t.mem = s.mem ∧ t.dev.pcmds = s.dev.pcmds ++ [asked .unmap 0 true]) ∧
          (cmd.a3.toNat % l.size = 0 → cmd.a3.toNat < 2 ^ 52 → ∃ t, exec (.pmigrate cmd) s = .next t ∧ t.mem = s.mem ∧
            t.dev.pcmds = s.dev.pcmds ++ [asked .migrate cmd.a3.toNat true])) ∧
        (entLocks l.w0 = 0 → starts .punmap (asked .unmap ((backAddr l.w1).getD 0) false) stEvicting ∧
          (cmd.a3.toNat % l.size ≠ 0 ∨ 2 ^ 52 ≤ cmd.a3.toNat → Ends .pmigrate cmd s w0 2 0) ∧
          (cmd.a3.toNat % l.size = 0 → cmd.a3.toNat < 2 ^ 52 → starts .pmigrate (asked .migrate cmd.a3.toNat false) stMigrating) ∧
          (cmd.a3.toNat = 0 → backAddr l.w1 = none → Ends .pevict cmd s w0 2 0) ∧
          (∀ b, cmd.a3.toNat = 0 → backAddr l.w1 = some b → starts .pevict (asked .evict b false) stEvicting) ∧
          (cmd.a3.toNat ≠ 0 → w0.isHost cmd.a3.toNat = true → cmd.a3.toNat % 16384 = 0 → cmd.a3.toNat < 2 ^ 57 →
            starts .pevict (asked .evict cmd.a3.toNat false) stEvicting) ∧
          (l.level = 3 → Ends .psplit cmd s w0 2 0) ∧ (l.level ≠ 3 → s.dev.poolFree = [] → Ends .psplit cmd s w0 3 0) ∧
          (∀ f rest, l.level ≠ 3 → s.dev.poolFree = f :: rest → ∃ t, exec (.psplit cmd) s = .next t ∧ t.dev.pool = s.dev.pool.erase f ∧
            t.dev.pcmds = s.dev.pcmds ++ [asked .split 0 false] ∧ t.mem = s.mem.writeAll (w0.splitTable l f false).ov.reverse))) ∧
      (l.state ≠ stAbsent → l.taken = false → (s.dev.lockQueued x = false → Ends .ppin cmd s
          (w0.setLeaf x l (if l.state = stSplitting then withBit l.w0 55 true else settled (withBit l.w0 55 true)) l.w1) 0 x) ∧
        (s.dev.lockQueued x = true → ∃ t, exec (.ppin cmd) s = .next t ∧ t.mem = s.mem ∧ (t.dev.ctx c).posted = packCmd 0x44#8 cmd :: k.posted) ∧
        Ends .punpin cmd s (w0.setLeaf x l (if l.state = stSplitting then withBit l.w0 55 false else settled (withBit l.w0 55 false)) l.w1) 0 x)) ∧
    (let taken := fun (e : Nat) => entBit e 62 = true ∧ entState e ∈ [stRevised, stShadow, stMigrating, stEvicting]
     (2 ^ 57 ≤ x ∨ w0.isRemote x = true ∨ 65536 ≤ cmd.a3.toNat ∨ w0.regionEntry x = none → Ends .pdomain cmd s w0 2 0) ∧
    (∀ key e0 e1 size, x < 2 ^ 57 → w0.isRemote x = false → cmd.a3.toNat < 65536 → w0.regionEntry x = some (key, e0, e1, size) →
      (x % size ≠ 0 → Ends .pdomain cmd s w0 2 0) ∧
      (x % size = 0 → taken e0 → Ends .pdomain cmd s w0 0x40 0) ∧
      (x % size = 0 → ¬taken e0 → (∀ p ∈ s.dev.pcmds, p.kind ≠ .rsync → ¬(p.page < x + size ∧ x < p.page + p.size)) → s.dev.latchGens x size = [] →
        s.dev.insts = [] → cmd.compl = 0#64 → ∃ t, exec (.pdomain cmd) s = .next t ∧ t.dev.pcmds = s.dev.pcmds ∧
          t.mem = s.mem.writeAll (w0.wr64 (key + 8) (e1 % 2 ^ 48 + cmd.a3.toNat * 2 ^ 48)).ov.reverse ∧
          (∀ e ∈ t.dev.tcaches, ¬(e.page < x + size ∧ x < e.page + e.size)) ∧
          ∀ g ∈ t.dev.grids, ∀ e ∈ g.2.plb, ¬(x ≤ e.region * 2 ^ 21 ∧ e.region * 2 ^ 21 < x + size)))) ∧
    (¬StaleCmd s cmd →
      (s.dev.accessing [c] = [] → cmd.compl = 0#64 → ∃ t, exec (.rsync cmd) s = .next t ∧ t.mem = s.mem ∧ t.dev.threads = s.dev.threads ∧
        ∀ g ∈ k.parcel, (t.dev.grid g).plb = []) ∧
      (1 < cmd.a3.toNat → Ends .panswer cmd s w0 2 0) ∧
      (cmd.a3.toNat ≤ 1 → (∀ r ∈ s.dev.preqs, r.ctx ≠ c ∨ r.num ≠ x) → Ends .panswer cmd s (countedStale s cmd) 4 0) ∧
      (∀ r, cmd.a3.toNat ≤ 1 → s.dev.preqs.find? (fun r => r.ctx == c && r.num == x) = some r →
        (∀ n blk addr how u, r.who = [.thread n blk addr how] → s.dev.thr n = some u → u.pageReq = some r.num → u.st = .page →
          (cmd.a3 = 0#64 → w0.pagePresent c r.page = true → ∃ t v, exec (.panswer cmd) s = .next t ∧ t.dev.preqs = s.dev.preqs.erase r ∧
            t.dev.thr n = some v ∧ archOf v = archOf u ∧ v.pageReq = none ∧ v.next = u.resumeAt ∧ v.st = if u.argLoad then .fetch else .run) ∧
          (∀ e, cmd.a3 = 1#64 → (s.dev.ctx u.ctx).freeRec = some e → (s.dev.ctx u.ctx).trace.enables = 0#_ → ∃ t v, exec (.panswer cmd) s = .next t ∧
            t.dev.preqs = s.dev.preqs.erase r ∧ t.dev.thr n = some v ∧ v.st = .stopped ∧ v.rcd = some e ∧ v.pageReq = none ∧
            ∃ f, (t.dev.ctx u.ctx).frecs.look e = some f ∧ f.cause = .pageUnresolved ∧ elem 64 f.lanes 2 = BitVec.ofNat 64 addr)) ∧
        (cmd.a3 = 0#64 → w0.pagePresent c r.page = false → ∃ t q, exec (.panswer cmd) s = .next t ∧ q ∈ t.dev.preqs ∧ q.page = r.page ∧
          q.who = r.who ∧ q.host = true ∧ t.dev.heldReqs.length = s.dev.heldReqs.length + 1))) ∧
    (let n := cmd.a3.toNat
     (n = 0 ∨ 65536 < n ∨ x % 8 ≠ 0 ∨ 2 ^ 57 < x + 8 * n → Ends .pstock cmd s w0 2 0) ∧
     (∀ bs w, 1 ≤ n → n ≤ 65536 → x % 8 = 0 → x + 8 * n ≤ 2 ^ 57 → w0.readHome Config.contexts 0 x (8 * n) = (.ok bs, w) →
       let fs := (List.range n).map (fun i => ofBytes ((bs.drop (8 * i)).take 8))
       ((∃ f ∈ fs, f % 16384 ≠ 0 ∨ 2 ^ 52 ≤ f) → Ends .pstock cmd s w 2 0) ∧
       ((∀ f ∈ fs, f % 16384 = 0 ∧ f < 2 ^ 52) → (Config.poolFrames < w.d.pool.length + n → Ends .pstock cmd s w 3 0) ∧
         (w.d.pool.length + n ≤ Config.poolFrames → Ends .pstock cmd s { w with d := { w.d with pool := w.d.pool ++ fs } } 0 (w.d.pool.length + n))))) ∧
    (¬StaleCmd s cmd →
      let at_ := cmd.a3.toNat
      let n := cmd.a4.toNat
      (k.revOf x = none → Ends .manswer cmd s (countedStale s cmd) 4 0) ∧
      (∀ r j, k.revOf x = some r → k.merges.find? (fun m => m.child == r && m.awaiting) = some j →
        (2 ^ 24 < n ∨ 2 ^ 57 < at_ + 16 * n → Ends .manswer cmd s w0 2 0) ∧
        (n = 0 → at_ ≤ 2 ^ 57 → ∀ bs w, w0.readHome c 0 at_ 0 = (.ok bs, w) → ∃ d, (d.ctx c).merges = (w.d.ctx c).merges.map (fun m =>
            if m = j then { j with regionNo := j.regionNo + 1, awaiting := false, reported := [] } else m) ∧ d.threads = w.d.threads ∧
          Ends .manswer cmd s { w with d := d } 0 x)))

/-- 19 R489, R491-R494, R497, R498, R500-R503: the commands of debug. -/
def Obligations.DebugCommands : Prop :=
  ∀ (cmd : CmdRec) (s : State),
    let c := cmd.ctx.toNat
    let k := s.dev.ctx c
    let w0 := s.toW
    let x := cmd.a2.toNat
    let all : List CState := [.opened, .bound, .running, .gating, .quiescent, .saved, .frozen, .dumping, .faulted]
    let with_ := fun (f : Ctx → Ctx) => ({ w0 with d := s.dev.modCtx c f } : W)
    (Takes s cmd [.frozen] → x ≠ 0x1FF → Ends .gresume cmd s w0 1 0) ∧
    (Takes s cmd [.running] → x ≠ 0x1FF → x ∉ k.parcel → Ends .gresume cmd s w0 2 0) ∧
    (Takes s cmd [.running] → x ≠ 0x1FF → x ∈ k.parcel → ∃ t, exec (.gresume cmd) s = .next t ∧ t.dev.stopped x = false ∧
      (t.dev.ctx c).st = .running ∧ ∀ g, g ≠ x → t.dev.stopped g = s.dev.stopped g) ∧
    (Takes s cmd [.running] → x = 0x1FF → ∃ t, exec (.gresume cmd) s = .next t ∧ (t.dev.ctx c).st = .running ∧ ∀ g ∈ k.parcel, t.dev.stopped g = false) ∧
    (Takes s cmd [.frozen] → x = 0x1FF → (k.frecs = [] → ∃ t, exec (.gresume cmd) s = .next t ∧ (t.dev.ctx c).st = .running) ∧
      ((∃ p ∈ k.frecs, ∀ q ∈ k.frecs, q.1 = p.1 → q.2.cause ≠ .breakpoint) → ∃ t, exec (.gresume cmd) s = .next t ∧ (t.dev.ctx c).st = .frozen)) ∧
    (Takes s cmd all → 3 < x ∨ 7 < cmd.a3.toNat → Ends .dbgmatch cmd s w0 2 0) ∧
    (Takes s cmd all → x ≤ 3 → cmd.a3.toNat ≤ 7 → Ends .dbgmatch cmd s (with_ (fun k => { k with
      comps := k.comps.set x { kind := cmd.a3.toNat % 4, gang := cmd.a3.getLsbD 2, addr := cmd.a4.toNat, mask := cmd.a5.toNat } })) 0 0) ∧
    (Takes s cmd [.frozen] →
      let n := 64 * k.cuts.length
      (2 ^ 57 < x + n ∨ w0.areaFault c x n ≠ none → Ends .cutread cmd s w0 2 0) ∧
      (x + n ≤ 2 ^ 57 → w0.areaFault c x n = none → ∃ bs, bs.length = n ∧ (∀ i < k.cuts.length, ∀ p, k.cuts[i]? = some p →
          ofBytes ((bs.drop (64 * i)).take 8) = p.1 % 2 ^ 64 ∧ ∀ j < 5, ofBytes ((bs.drop (64 * i + 8 + 8 * j)).take 8) = p.2.getD j 0 % 2 ^ 64) ∧
        Ends .cutread cmd s (w0.pkgWrite c 0 (cellsAt x bs)) 0 0)) ∧
    (Takes s cmd all →
      let len := cmd.a3.toNat
      let bad := x % 4096 ≠ 0 ∨ len % 4096 ≠ 0 ∨ len < 65536 ∨ 2 ^ 32 < len ∨ 2 ^ 57 < x + len ∨ 31 < cmd.a4.toNat ∨ w0.allLocked x len = false
      (bad → Ends .trcfg cmd s w0 2 0) ∧
      (¬bad → k.trace.lossDue = 0 → Ends .trcfg cmd s (with_ (fun k => { k with trace := { base := x, len := len, enables := cmd.a4.setWidth 5 } })) 0 0)) ∧
    (Takes s cmd [.opened, .bound, .saved, .frozen] →
      (3 < x ∨ 2 ^ 57 < cmd.a3.toNat + cmd.a4.toNat → Ends .record cmd s w0 2 0) ∧
      (cmd.a3.toNat + cmd.a4.toNat ≤ 2 ^ 57 →
        (x = 0 ∨ x = 3 → Ends .record cmd s (with_ (fun k => { k with recd := { k.recd with mode := x, armed := false } })) 0 0) ∧
        (x = 1 ∨ x = 2 → Ends .record cmd s (with_ (fun k => { k with
          recd := { mode := x, base := cmd.a3.toNat, len := cmd.a4.toNat, pos := 0, armed := false, truncated := false } })) 0 0))) ∧
    (Takes s cmd [.opened, .bound, .saved] →
      let len := cmd.a3.toNat
      let drain := cmd.a5.toNat
      let bad := x % 65536 ≠ 0 ∨ len % 65536 ≠ 0 ∨ len < 2 ^ 21 ∨ 2 ^ 32 < len ∨ 2 ^ 57 < x + len ∨ 2 < cmd.a4.toNat ∨ 2 ^ 57 ≤ drain ∨
        (drain ≠ 0 ∧ w0.isHost drain = false) ∨ w0.allLocked x len = false
      (k.undoEn = true → Ends .logcfg cmd s w0 1 0) ∧ (k.undoEn = false → bad → Ends .logcfg cmd s w0 2 0) ∧
      (∀ ls, k.undoEn = false → ¬bad → w0.lockPlan x len = .locks ls → ∃ t, exec (.logcfg cmd) s = .next t ∧ (let l := (t.dev.ctx c).log
        l.configured = true ∧ l.base = x ∧ l.len = len ∧ l.mode = cmd.a4.toNat ∧ l.drain = drain ∧ l.locks = ls ∧ l.segs = [] ∧ l.begun = false))) ∧
    (Takes s cmd all → (k.log.knows x = false → Ends .logtrim cmd s w0 0x82 0) ∧
      (k.log.knows x = true → ∃ t, exec (.logtrim cmd) s = .next t ∧ (t.dev.ctx c).log.oldest = max k.log.oldest x ∧
        (t.dev.ctx c).log.station = k.log.station ∧ (t.dev.ctx c).log.base = k.log.base)) ∧
    (Takes s cmd [.frozen] →
      (k.log.knows x = false → Ends .reverseToStation cmd s w0 0x82 0) ∧
      (k.log.knows x = true → k.log.monumentFrom x = true → Ends .reverseToStation cmd s w0 0x81 0) ∧
      (k.log.knows x = true → k.log.monumentFrom x = false → ∃ t, exec (.reverseToStation cmd) s = .next t ∧ (t.dev.ctx c).log.station = x ∧
        (∀ n ∈ (t.dev.ctx c).log.taken, n ≤ x) ∧
        ∀ n who i seg, k.log.segs = [(n, seg)] → (∀ u ∈ s.dev.threads, u.2.streams = []) → (∀ g ∈ s.dev.grids, g.2.l1 = []) →
          ∀ ch num seq old, seg.ents = [(ch, .marker x i), (ch, .reg num seq who old)] →
            ∀ tid u, s.dev.memberOf c (who % 2 ^ 32) (who / 2 ^ 32) = some (tid, u) → s.dev.thr tid = some u → ∃ v, t.dev.thr tid = some v ∧
              v.regs.get num 0#512 = old ∧ (∀ r, r ≠ num → v.regs.get r 0#512 = u.regs.get r 0#512) ∧ v.flags = u.flags) ∧
      (cmd.a2.extractLsb' 38 26 ≠ 0#26 → Ends .reverseBlock cmd s w0 2 0) ∧
      (cmd.a2.extractLsb' 38 26 = 0#26 → (∀ g ∈ s.dev.grids, g.2.l1 = []) → (∀ u ∈ s.dev.threads, u.2.streams = []) → (∀ p ∈ k.log.segs, p.2.window = []) →
        Ends .reverseBlock cmd s w0 0x83 0) ∧
      (∀ n seg ch blk seq at_ fl prng p1 p2 tag depth loops num old, cmd.a2.extractLsb' 38 26 = 0#26 → k.log.segs = [(n, seg)] → seg.marker = none →
        (∀ g ∈ s.dev.grids, g.2.l1 = []) → (∀ u ∈ s.dev.threads, u.2.streams = []) →
        seg.ents = [(ch, .reg num seq x old), (ch, .commit blk seq at_ fl prng x p1 p2 tag depth loops)] →
        ∀ tid u, s.dev.memberOf c (x % 2 ^ 32) (x / 2 ^ 32) = some (tid, u) → s.dev.thr tid = some u → (∀ q ∈ s.dev.insts, q.2.thr ≠ tid) →
          ∃ t v, exec (.reverseBlock cmd) s = .next t ∧ t.dev.thr tid = some v ∧ v.regs.get num 0#512 = old ∧
            (∀ r, r ≠ num → v.regs.get r 0#512 = u.regs.get r 0#512) ∧ v.flags = fl ∧ v.prng = prng ∧ v.next = some blk ∧
            (∀ p ∈ (t.dev.ctx c).log.segs, p.2.ents = [])))

/-! ### The machine as a whole -/

/-- 04 R92-R100, and the words that 04, 05, 06, 07, 08, 09, 10, 11, 12, 13, 20 write out: each decodes to the instruction that its text
gives. A word that is zero is no instruction; opcodes 0x00 and 0xFF are illegal. -/
def Obligations.DecodeWords : Prop :=
  decodeWord 0x8005002040000000#64 = .ok (.ld { stg := 0, pr := 0, ty := 0xA, lsid := 0, scope := 0, t0 := 0x408, offs := 0 }) ∧
  decodeWord 0x4225020880000000#64 = .ok (.fmul { stg := 1, pr := 0, ty := 0xA, fzi := 0, fzo := 0, rm := 0, t0 := 0x411, t1 := 0, x := 0 }) ∧
  decodeWord 0x8265040000000000#64 = .ok (.st { stg := 3, pr := 0, ty := 0xA, lsid := 1, scope := 0, t0 := 0, offs := 0 }) ∧
  decodeWord 0x30A0000000000002#64 = .ok (.br { stg := 5, pr := 0, exit := 0, xk := 0, t0 := 0, offs := 2 }) ∧
  decodeWord 0x1C03840020500000#64 = .ok (.addc { stg := 0, pr := 0, ty := 7, fzi := 0, fzo := 0, rm := 0, t0 := 0x800, t1 := 0x40A, x := 0 }) ∧
  decodeWord 0x6386FF2060000000#64 = .ok (.fmt { stg := 4, pr := 0, fmt := 0xD, scale := 0xFE, t0 := 0x40C, rest := 0 }) ∧
  decodeWord 0xA062896850000008#64 = .ok (.amoAdd { stg := 3, pr := 0, ty := 5, lsid := 2, scope := 2, ord := 3, t0 := 0x428, offs := 8 }) ∧
  decodeWord 0xB246600400000000#64 =
    .ok (.mma { stg := 2, pr := 0, af := 0xC, bf := 0xC, cf := 0, tile := 0, ksteps := 1, sparse := 0, t0 := 0, x := 0 }) ∧
  decodeWord 0x382013EC00204002#64 = .ok (.compose { stg := 1, pr := 0, sub := 0, limit := 0x27D, t0 := 0x800, t1 := 0x408, imm := 2 }) ∧
  decodeWord 0xF240800210000000#64 = .ok (.fresumeRedirect { stg := 2, pr := 0, sub := 1, limit := 0, t0 := 0x420, t1 := 0, imm := 0 }) ∧
  decodeWord 0#64 = .err .emptySlot ∧ decodeWord 0x0000000000000001#64 = .err .illegalOpcode ∧
  decodeWord 0xFF00000000000000#64 = .err .illegalOpcode

/-- 04 R92-R107, 10 R284, R285: decoding what a well-formed instruction or a command encodes to gives it back, with every field at every
value; and a word that decodes is the encoding of what it decodes to, so that no bit of it is lost. -/
def Obligations.DecodeEncode : Prop :=
  (∀ (i : Instr) (w : Word), i.wf = true → encode i = [w] → decode [w] = .ok i) ∧
  (∀ (w : Word) (i : Instr), decodeWord w = .ok i → encode i = [w]) ∧
  (∀ (i : Instr) (a b c d e f g h : Word), encode i = [a, b, c, d, e, f, g, h] → decode [a, b, c, d, e, f, g, h] = .ok i)

/-- 02 R27, R30, 04 R91, R92, 10 R284, R285 (logs 3, 4 and 5): one step. At an agenda whose head fires a slot, time passes and the decoded
instruction of that slot runs; a word that is no instruction is the one fault. An event runs with its subject; a command runs when
the device takes commands and none of its context stands before it or is held, else it stands in line; a KILL passes the commands
that a dump holds. Time moves the counters of cycles and
nanoseconds alone, and the watchdog of a block that runs a matrix step. Before the plat is open an empty agenda only lets a cycle
pass. -/
def Obligations.StepRuns : Prop :=
  (∀ (s : State) (dt iid idx : Nat) (rest : List Sched) (x : Inst) (b : Block), s.agenda = ⟨dt, .fire iid idx⟩ :: rest →
    let s' : State := { s with dev := s.dev.pass s.mgmt.bstep dt, agenda := rest }
    s'.dev.inst iid = some x → x.code = some b →
      (∀ i, decodeWord (b.word idx) = .ok i → step s = exec i { s' with dev := { s'.dev with focus := some (iid, idx) } }) ∧
      (∀ e, decodeWord (b.word idx) = .err e → step s = .fault .undecodable)) ∧
  (∀ (s : State) (dt : Nat) (i : Instr) (arg : EvArg) (rest : List Sched), s.agenda = ⟨dt, .ev i arg⟩ :: rest →
    let s' : State := { s with dev := s.dev.pass s.mgmt.bstep dt, agenda := rest }
    (encode i = [] → step s = exec i { s' with dev := { s'.dev with arg := arg } }) ∧
    (∀ a b c d e f g h, encode i = [a, b, c, d, e, f, g, h] →
      let r := recordOf a b c d e f g h
      let n := (unpackCmd r).ctx.toNat
      let k := s.dev.ctx n
      let goes := (k.heldCmds = [] ∧ k.posted = []) ∨ (k.heldCmds ≠ [] ∧ k.st = .dumping ∧ r.extractLsb' 0 8 = 0x0B#8)
      (s.mgmt.bstep = 11 → goes → step s = exec i { s' with dev := { s'.dev with arg := arg } }) ∧
      (s.mgmt.bstep ≠ 11 ∨ ¬goes →
        step s = .next { s' with dev := s'.dev.modCtx n (fun k => { k with posted := k.posted ++ [r] }) }))) ∧
  (∀ (s : State) (w : Nat) (i : Instr), decodeWord (BitVec.ofNat 64 w) = .ok i → ∃ s' n, step (s.withFetchWord 64 w) = exec i s' ∧
    s'.dev.focus = some (n, 0) ∧ s'.mem = s.mem ∧ s'.mgmt = s.mgmt ∧ ∃ x b, s'.dev.inst n = some x ∧ x.code = some b ∧ b.word 0 = BitVec.ofNat 64 w) ∧
  (∀ (d : Dev) (bstep dt : Nat), (d.pass bstep dt).cycle = d.cycle + dt ∧ d.now ≤ (d.pass bstep dt).now ∧ (d.pass bstep dt).ctxs = d.ctxs ∧
    (d.pass bstep dt).threads = d.threads ∧ (d.pass bstep dt).insts.length = d.insts.length ∧ (bstep ≤ 1 → (d.pass bstep dt).now = d.now) ∧
    (d.slew = 0 → 2 ≤ bstep → (d.pass bstep dt).now = d.now + (5 * (d.cycle + dt) / 6 - 5 * d.cycle / 6))) ∧
  (∀ s : State, s.agenda = [] → s.mgmt.bstep ≠ 11 → step s = .next { s with dev := s.dev.pass s.mgmt.bstep 1 })

/-- 00 R9, 08 R219 (log 2): the memory stays canonical: from every state whose memory has strictly rising addresses and lists no byte equal
to what an unlisted address reads as, every step leaves such a memory, whatever happens in it. -/
def Obligations.MemoryStaysCanonical : Prop :=
  ∀ s t : State, Safety.MemOk s → step s = .next t → Safety.MemOk t

/-- 23 R513-R521, 02 R27: rules about every instruction. A step never ends in a refusal, and in a fault only where a slot holds no
instruction. The management registers change only by the events of bring-up, power, field current and the management aperture. No
instruction of a block changes a register, the flags or `prng` of any thread as it fires: what a block writes waits for its commit. -/
def Obligations.WholeMachine : Prop :=
  (∀ (s : State) (r : Refusal), step s ≠ .refused r) ∧
  (∀ (s : State) (f : Fault), step s = .fault f → f = .undecodable) ∧
  (∀ (i : Instr) (s : State), ∃ t, exec i s = .next t ∧
    (i ∉ [Instr.islIlimWrite, .islImeasRead, .imeasSample, .thermalTrip, .powerDown, .powerOn, .bringupStepComplete, .bringupTimeout, .reqHeadWrite,
      .mgmtRegisterWrite] → t.mgmt = s.mgmt) ∧ t.agenda = s.agenda ∧
    (∀ w, encode i = [w] → ∀ n, (t.dev.thr n).map (fun u => (u.regs, u.flags, u.prng, u.first, u.width, u.commitSeq)) =
      (s.dev.thr n).map (fun u => (u.regs, u.flags, u.prng, u.first, u.width, u.commitSeq))))

/-- 00 R9, 10 R281, R283, 18 R479, 23 R513, R516, R518: reset. Nothing is listed in memory and its form holds. No context, thread, block, message or
page request is there; every context is FREE of generation 0. THERM_THR is 95 and LNK_TMO 200, the bring-up has not begun; a field's limit
is 1,000 A. (The values of the other management registers are the model's choice, log 1.) -/
def Obligations.ResetLeaves : Prop :=
  let s := State.reset
  Safety.MemOk s ∧ (∀ k, s.mem.read k = 0#8) ∧ s.mgmt.thermThr = 95 ∧ s.mgmt.lnkTmo = 200 ∧ s.mgmt.bstep = 0 ∧ s.mgmt.stat = 0#10 ∧ s.mgmt.fatal = false ∧
  (∀ f, s.mgmt.limit f = 1000) ∧ (∀ c, (s.dev.ctx c).st = .free ∧ (s.dev.ctx c).gen = 0#32 ∧ (s.dev.ctx c).wdog = 2 ^ 20) ∧
  s.dev.threads = [] ∧ s.dev.insts = [] ∧ s.dev.flight = [] ∧ s.dev.preqs = [] ∧ s.dev.now = 0 ∧ s.agenda = []

/-! ### Rules stated whole -/

/-- 05 R126, R131, R136. `mulh` multiplies signed values for an i type and unsigned values for an n type; `min`, `max`, `avg` and the absolute
difference of `sad` take the lanes as numbers of TY. The logic of predicates works bit by bit on the L = 512 / width bits of its type, a code
from 0x0 to 0xC, and clears the rest. `lane` has no operands, and its type is one of the codes 0x0 to 0x7. -/
def Obligations.SignsPredicatesAndLaneNumbers : Prop :=
  LaneOp .mulh (fun f o n k => BitVec.ofInt n (value f.ty (elem n o.va k) * value f.ty (immOr f n o.vb k) / 2 ^ n)) ∧
  LaneOp .min (fun f o n k =>
    if value f.ty (elem n o.va k) ≤ value f.ty (immOr f n o.vb k) then elem n o.va k else immOr f n o.vb k) ∧
  LaneOp .max (fun f o n k =>
    if value f.ty (elem n o.va k) ≤ value f.ty (immOr f n o.vb k) then immOr f n o.vb k else elem n o.va k) ∧
  LaneOp .avg (fun f o n k =>
    BitVec.ofInt n ((value f.ty (elem n o.va k) + value f.ty (immOr f n o.vb k) + 1) / 2)) ∧
  LaneOp .sad (fun f o n k =>
    elem n o.vc k + BitVec.ofInt n |value f.ty (elem n o.va k) - value f.ty (elem n o.vb k)|) ∧
  (∀ (ty : BitVec 4) (n : Nat) (a : BitVec n), ty.toNat ≤ 7 → value ty a = if ty.toNat % 2 = 0 then a.toInt else (a.toNat : Int)) ∧
  PredOp .pand (fun _ o _ k => o.va.getLsbD k && o.vb.getLsbD k) ∧
  PredOp .por (fun _ o _ k => o.va.getLsbD k || o.vb.getLsbD k) ∧
  PredOp .pnot (fun _ o _ k => !o.va.getLsbD k) ∧
  (∀ i ∈ ([.pand, .por, .pnot] : List (FmtG → Instr)), ∀ f : FmtG, fieldsOk (i f) = true → f.ty.toNat ≤ 12) ∧
  (∀ f : FmtG, opcodeOf (.pand f) = 0x27 ∧ opcodeOf (.por f) = 0x28 ∧ opcodeOf (.pnot f) = 0x29 ∧ opcodeOf (.lane f) = 0x2B) ∧
  LaneOp .lane (fun f _ n k => BitVec.ofNat n ((f.x.extractLsb' 0 16).toNat + k)) ∧
  (∀ f : FmtG, required (.lane f) = [] ∧ Machine.optional (.lane f) = [] ∧ (fieldsOk (.lane f) = true → f.ty.toNat ≤ 7))

/-- 10 R310: KILL from any state but FREE. A command that names the context's generation leaves it KILLED, whatever its state was; a context
that is KILLED already stays so; and a FREE one stays FREE. -/
def Obligations.KillReachesKilled : Prop :=
  ∀ (cmd : CmdRec) (s : State), (s.dev.ctx cmd.ctx.toNat).gen = cmd.gen →
    ∃ t, exec (.kill cmd) s = .next t ∧
      (t.dev.ctx cmd.ctx.toNat).st = if (s.dev.ctx cmd.ctx.toNat).st = .free then .free else .killed

/-- 14 R397: when a phase is reached, that launch gates use the same test, and how far ahead a waiter may look. -/
def Obligations.PhasesReached : Prop :=
  (∀ p t : Nat, p < 2 ^ 30 → t < 2 ^ 30 → (reached p t = true ↔ ((p : Int) - t) % 2 ^ 30 < 2 ^ 29)) ∧
  (∀ (k : Ctx) (g : Word) (n : Nat), g.extractLsb' 62 2 = 1#2 → k.barOf (g.extractLsb' 0 32).toNat = some n →
    k.gateOpen g = reached (k.bar n).phase (g.extractLsb' 32 30).toNat) ∧
  (∀ p j : Nat, p < 2 ^ 30 → (1 ≤ j → j ≤ 2 ^ 29 - 1 → reached p ((p + j) % 2 ^ 30) = false) ∧
    (2 ^ 29 ≤ j - 1 → j < 2 ^ 30 → reached p ((p + j) % 2 ^ 30) = true))

/-! ### Statements of several parts, each part with the rules it rests on -/

/-- Integer instructions lane by lane, and the addition and subtraction with a carry lane.
(1) 05 R123, 03 R68: sums, differences, products and bitwise operations of integer lanes, modulo 2^n.
(2) 05 R123, R126, 03 R68: the operations that the signedness of TY decides. `value` is the lane as a number of TY, exact.
(3) 05 R124, R125, R123: shifts, rotation, bit counts and bit fields. A shift of n or more gives zero, or copies of bit n − 1.
  The field operations are for the fields that R121 admits: LEN 1 to n, POS + LEN ≤ n.
(4) 05 R127: `addc` sends the sum modulo 2^n to T0 and the carries of all lanes, as a predicate token, to T1; bit k of `c` is
  the carry into lane k, and it is 0 where no token stands at `c`. -/
def Obligations.IntegerLanes : Prop :=
  (LaneOp .add (fun f o n k => elem n o.va k + immOr f n o.vb k) ∧
    LaneOp .sub (fun f o n k => elem n o.va k - immOr f n o.vb k) ∧
    LaneOp .mul (fun f o n k => elem n o.va k * immOr f n o.vb k) ∧
    LaneOp .mad (fun _ o n k => elem n o.va k * elem n o.vb k + elem n o.vc k) ∧
    LaneOp .neg (fun _ o n k => -elem n o.va k) ∧
    LaneOp .lea (fun f o n k => elem n o.va k + elem n o.vb k <<< (f.x.extractLsb' 0 3).toNat) ∧
    LaneOp .and (fun f o n k => elem n o.va k &&& immOr f n o.vb k) ∧
    LaneOp .or (fun f o n k => elem n o.va k ||| immOr f n o.vb k) ∧
    LaneOp .xor (fun f o n k => elem n o.va k ^^^ immOr f n o.vb k) ∧
    LaneOp .andn (fun f o n k => elem n o.va k &&& ~~~immOr f n o.vb k) ∧
    LaneOp .not (fun _ o n k => ~~~elem n o.va k)) ∧
  (LaneOp .mulh (fun f o n k => BitVec.ofInt n (value f.ty (elem n o.va k) * value f.ty (immOr f n o.vb k) / 2 ^ n)) ∧
    LaneOp .div (fun f o n k =>
      if immOr f n o.vb k = 0#n then BitVec.allOnes n
      else if signedTy f.ty then (elem n o.va k).sdiv (immOr f n o.vb k) else elem n o.va k / immOr f n o.vb k) ∧
    LaneOp .rem (fun f o n k =>
      if immOr f n o.vb k = 0#n then elem n o.va k
      else if signedTy f.ty then (elem n o.va k).srem (immOr f n o.vb k) else elem n o.va k % immOr f n o.vb k) ∧
    LaneOp .min (fun f o n k =>
      if value f.ty (elem n o.va k) ≤ value f.ty (immOr f n o.vb k) then elem n o.va k else immOr f n o.vb k) ∧
    LaneOp .max (fun f o n k =>
      if value f.ty (elem n o.va k) ≤ value f.ty (immOr f n o.vb k) then immOr f n o.vb k else elem n o.va k) ∧
    LaneOp .abs (fun f o n k => if value f.ty (elem n o.va k) < 0 then -elem n o.va k else elem n o.va k) ∧
    LaneOp .adds (fun f o n k =>
      BitVec.ofInt n (clampTo f.ty n (value f.ty (elem n o.va k) + value f.ty (immOr f n o.vb k)))) ∧
    LaneOp .subs (fun f o n k =>
      BitVec.ofInt n (clampTo f.ty n (value f.ty (elem n o.va k) - value f.ty (immOr f n o.vb k)))) ∧
    LaneOp .avg (fun f o n k =>
      BitVec.ofInt n ((value f.ty (elem n o.va k) + value f.ty (immOr f n o.vb k) + 1) / 2)) ∧
    LaneOp .sad (fun f o n k =>
      elem n o.vc k + BitVec.ofInt n |value f.ty (elem n o.va k) - value f.ty (elem n o.vb k)|)) ∧
  (LaneOp .shl (fun f o n k => elem n o.va k <<< countOf f n o.vb k) ∧
    LaneOp .shr (fun f o n k => elem n o.va k >>> countOf f n o.vb k) ∧
    LaneOp .sar (fun f o n k => (elem n o.va k).sshiftRight (countOf f n o.vb k)) ∧
    LaneOp .rotl (fun f o n k => (elem n o.va k).rotateLeft (countOf f n o.vb k)) ∧
    LaneOp .clz (fun _ o n k => BitVec.ofNat n (((List.range n).find? (fun j => (elem n o.va k).getMsbD j)).getD n)) ∧
    LaneOp .popc (fun _ o n k => BitVec.ofNat n ((List.range n).countP (fun j => (elem n o.va k).getLsbD j))) ∧
    LaneOp .brev (fun _ o n k => (elem n o.va k).reverse) ∧
    LaneOp .bfx (fun f o n k =>
      let field := (elem n o.va k).extractLsb' (f.x.extractLsb' 0 7).toNat (f.x.extractLsb' 7 7).toNat
      if signedTy f.ty then field.signExtend n else field.setWidth n) ∧
    (∀ (f : FmtG) (s : State) (c : Firing), Fires f.pr s c →
      (f.x.extractLsb' 0 7).toNat + (f.x.extractLsb' 7 7).toNat ≤ tyBits f.ty → ∃ v : Vec,
      exec (.bfi f) s = .next (sent s c (toBoth f v)) ∧ ∀ k < 512 / tyBits f.ty, ∀ j < tyBits f.ty,
        (elem (tyBits f.ty) v k).getLsbD j =
          if (f.x.extractLsb' 0 7).toNat ≤ j ∧ j < (f.x.extractLsb' 0 7).toNat + (f.x.extractLsb' 7 7).toNat then
            (elem (tyBits f.ty) c.ops.vb k).getLsbD (j - (f.x.extractLsb' 0 7).toNat)
          else (elem (tyBits f.ty) c.ops.va k).getLsbD j)) ∧
  (∀ (f : FmtG) (s : State) (c : Firing), Fires f.pr s c → ∃ sum cout : Vec,
      exec (.addc f) s = .next (sent s c [(f.t0, .val sum), (f.t1, .val cout)]) ∧
      (∀ k < 512 / tyBits f.ty,
        elem (tyBits f.ty) sum k = elem (tyBits f.ty) c.ops.va k + immOr f (tyBits f.ty) c.ops.vb k +
          (if c.ops.vc.getLsbD k then 1#(tyBits f.ty) else 0#(tyBits f.ty))) ∧
      (∀ k < 512, cout.getLsbD k = decide (k < 512 / tyBits f.ty ∧
        2 ^ tyBits f.ty ≤ (elem (tyBits f.ty) c.ops.va k).toNat + (immOr f (tyBits f.ty) c.ops.vb k).toNat +
          (if c.ops.vc.getLsbD k then 1 else 0))))

/-- The predicate, nulls, comparisons, selection, moves and constants.
(1) 04 R91 for the instructions of format G that only compute: with a predicate that does not let it operate, the instruction
  consumes its operands and sends nothing; with a null on `a`, `b` or `c`, it sends a null to each target and raises no flag.
(2) 05 R128, R130, R131: `cmp` with the codes 0 to 5, `sel`, and the logic of predicates.
(3) 05 R132-R136, R138: moves, nulls, constants and lane moves. `null` sends nulls whatever stands at `a`; `movi` and `movhi`
  send to T0 only; a predicate token that they make holds 35 and 64 bits. -/
def Obligations.MovesAndPredicates : Prop :=
  (∀ i ∈ ([.add, .sub, .mul, .mulh, .mad, .div, .rem, .min, .max, .abs, .neg, .and, .or, .xor, .andn, .not, .shl, .shr, .sar, .rotl,
        .clz, .popc, .brev, .bfx, .bfi, .adds, .subs, .addc, .lea, .sad, .avg, .cmp, .fcmp, .sel, .mov, .null, .pand, .por, .pnot,
        .tagrd, .lane, .bcast, .extl, .insl, .fadd, .fsub, .fmul, .fma, .fms, .fnma, .fmin, .fmax, .fabs, .fneg, .fdiv, .fsqrt,
        .frcp, .frsqrt, .fexp2, .flog2, .ftanh, .fsig, .fround, .fclass, .fscale, .fdot2, .fdot4, .fclamp, .fcopysign, .cvt, .cvti,
        .cvtf, .pack, .unpack, .fmaxexp, .perm, .shfl, .red, .scan, .cmpr, .expd, .vote, .zip, .unzip] : List (FmtG → Instr)),
      ∀ (f : FmtG) (s : State) (c : Firing), s.dev.firing = some c →
        (c.ops.holds f.pr = false → exec (i f) s = .next (sent s c [])) ∧
        (c.ops.holds f.pr = true → c.ops.anyNull = true → exec (i f) s = .next (sent s c [(f.t0, .null), (f.t1, .null)]))) ∧
  ((∀ (f : FmtG) (s : State) (c : Firing), Fires f.pr s c → (f.x.extractLsb' 0 4).toNat ≤ 5 → ∃ v : Vec,
      exec (.cmp f) s = .next (sent s c (toBoth f v)) ∧
      ∀ k < 512, v.getLsbD k = (decide (k < 512 / tyBits f.ty) &&
        condition (f.x.extractLsb' 0 4).toNat (value f.ty (elem (tyBits f.ty) c.ops.va k))
          (value f.ty (if immB f then (f.x.extractLsb' 4 14).signExtend (tyBits f.ty) else elem (tyBits f.ty) c.ops.vb k)))) ∧
    LaneOp .sel (fun _ o n k => if o.vc.getLsbD k then elem n o.va k else elem n o.vb k) ∧
    PredOp .pand (fun _ o _ k => o.va.getLsbD k && o.vb.getLsbD k) ∧
    PredOp .por (fun _ o _ k => o.va.getLsbD k || o.vb.getLsbD k) ∧
    PredOp .pnot (fun _ o _ k => !o.va.getLsbD k)) ∧
  ((∀ (f : FmtG) (s : State) (c : Firing), Fires f.pr s c → exec (.mov f) s = .next (sent s c (toBoth f c.ops.va))) ∧
    (∀ (f : FmtG) (s : State) (c : Firing), s.dev.firing = some c → c.ops.holds f.pr = true →
      exec (.null f) s = .next (sent s c [(f.t0, .null), (f.t1, .null)])) ∧
    (∀ (f : FmtI) (s : State) (c : Firing), Fires f.pr s c → ∃ v : Vec, exec (.movi f) s = .next (sent s c [(f.t0, .val v)]) ∧
      (f.ty = 15#4 → v = f.imm.setWidth 512) ∧
      (f.ty.toNat ≤ 12 → ∀ k < 512 / tyBits f.ty, elem (tyBits f.ty) v k =
        if f.ty.toNat ≤ 7 then f.imm.signExtend (tyBits f.ty)
        else if f.ty = 11#4 then (f.imm.setWidth (tyBits f.ty)) <<< 32 else f.imm.setWidth (tyBits f.ty))) ∧
    (∀ (f : FmtI) (s : State) (c : Firing), Fires f.pr s c → ∃ v : Vec, exec (.movhi f) s = .next (sent s c [(f.t0, .val v)]) ∧
      (f.ty = 15#4 → ∀ k < 512, v.getLsbD k =
        if k < 35 then c.ops.va.getLsbD k else decide (k < 64) && f.imm.getLsbD (k - 35)) ∧
      (f.ty ∈ [6#4, 7#4, 11#4] → ∀ k < 8, elem 64 v k = f.imm.extractLsb' 0 32 ++ c.ops.va.extractLsb' (64 * k) 32)) ∧
    LaneOp .lane (fun f _ n k => (f.x.extractLsb' 0 16).setWidth n + BitVec.ofNat n k) ∧
    LaneOp .bcast (fun f o n _ => elem n o.va (indexOf f o.vb)) ∧
    LaneOp .extl (fun f o n k => if k = 0 then elem n o.va (indexOf f o.vb) else 0#n) ∧
    LaneOp .insl (fun f o n k => if k = indexOf f o.vc then elem n o.vb 0 else elem n o.va k))

/-- What `tagrd`, `getsr` and `setsr` read and write.
(1) 05 R137, 02 R46: `tagrd` sends the instance's tag, whole or one field of it, in every lane; field 0 stands in the lowest
  bits, and the widths are those of the kernel that the thread's group runs.
(2) 05 R139-R142: `getsr` sends the value of special register X[7:0] in every n64 lane. `flags` and `prng` fire only in the
  oldest uncommitted instance of the thread; a read of `prng` gives Next of its state, which the instance keeps for its
  commit.
(3) 05 R139, R143, 19 R494: `setsr` leaves its write for the commit; EN of `undo` in a context whose bind record does not
  permit logging, or without a configured log, is PROTECTION that names register 0x0D, pending against the instance, and
  nothing is written. -/
def Obligations.TagsAndSpecialRegisters : Prop :=
  (∀ (f : FmtG) (s : State) (c : Firing) (u : Thread), Fires f.pr s c → s.dev.thr c.x.thr = some u → ∃ v : Vec,
      exec (.tagrd f) s = .next (sent s c (toBoth f v)) ∧ ∀ k < 512 / tyBits f.ty, elem (tyBits f.ty) v k =
        if f.x.getLsbD 3 then c.x.tag.setWidth (tyBits f.ty)
        else
          let ws := s.dev.tagWidths u
          let m := (f.x.extractLsb' 0 3).toNat
          BitVec.ofNat (tyBits f.ty) (c.x.tag.toNat / 2 ^ (ws.take m).sum % 2 ^ ws.getD m 0)) ∧
  (∀ (f : FmtG) (s : State) (c : Firing) (u : Thread) (g k : Nat) (v : Word), Fires f.pr s c → s.dev.thr c.x.thr = some u →
      u.slots.head? = some (g, k) → srValue s u k (f.x.extractLsb' 0 8).toNat = some v →
      let n := (f.x.extractLsb' 0 8).toNat
      let all := v ++ v ++ v ++ v ++ v ++ v ++ v ++ v
      ((n = 0x08 ∨ n = 0x0B) → s.dev.isOldest c.x = false → exec (.getsr f) s = .next s) ∧
      (((n ≠ 0x08 ∧ n ≠ 0x0B) ∨ (n = 0x08 ∧ s.dev.isOldest c.x = true)) → exec (.getsr f) s = .next (sent s c (toBoth f all))) ∧
      (n = 0x0B → s.dev.isOldest c.x = true →
        exec (.getsr f) s = .next (sent s { c with x := { c.x with prngNew := some v } } (toBoth f all)))) ∧
  (∀ (f : FmtG) (s : State) (c : Firing) (u : Thread), Fires f.pr s c → s.dev.thr c.x.thr = some u →
      let n := (f.x.extractLsb' 0 8).toNat
      let permitted := (s.dev.bctl u.ctx).getLsbD 31 = true ∧ (s.dev.ctx u.ctx).log.configured = true
      ((n ≠ 0x0D ∨ c.ops.va.getLsbD 0 = false ∨ permitted) →
        exec (.setsr f) s = .next (sent s (withEffects c [.setsr n (c.ops.va.extractLsb' 0 64)]) [])) ∧
      (n = 0x0D → c.ops.va.getLsbD 0 = true → ¬permitted → c.x.pend = none → ∃ t, exec (.setsr f) s = .next t ∧
        t.mem = s.mem ∧ t.mgmt = s.mgmt ∧ Pending t c.iid (pendAt c .protection 0 0x0D00 0)))

/-- The exit instructions: the successor of a block, the faults, and the exits that hint or stop.
(1) 05 R145, R146, R148-R151, 02 R31: each exit fixes the successor of its instance. `call` and `calli` send the fall-through
  address; `yield`, `trap` and `sys` leave their effect for the commit, the last two with lane 0 of `a` or zero.
(2) 05 R145, 02 R26: an indirect exit whose address is not a block address holds ALIGNMENT with the address pending, and a
  second exit that fires holds EXIT_CONFLICT pending; neither changes memory or the management registers.
(3) 05 R152, R153: `hint` and `brkp` fire without a token and without a fault. `hint` changes nothing of its instance but that
  the slot has fired, and no thread; `brkp` notes its number in the instance. -/
def Obligations.Exits : Prop :=
  (∀ (f : FmtX) (s : State) (c : Firing) (u : Thread), Fires f.pr s c → s.dev.thr c.x.thr = some u → c.x.exit = none →
      let here := directExit c f.offs
      let there := (argA c).toNat
      let link := [(f.t0, Tok.val (everyLane (afterBlock c)))]
      let arg := if c.ops.a.isSome then argA c else 0#64
      (∃ t, exec (.br f) s = .next t ∧ ExitTaken s t c ⟨f.exit.toNat, 0x30, some here⟩ [] [] (some here)) ∧
      (exitable (argA c) → ∃ t, exec (.brind f) s = .next t ∧
        ExitTaken s t c ⟨f.exit.toNat, 0x31, some there⟩ [] [] (some there)) ∧
      (∃ t, exec (.call f) s = .next t ∧ ExitTaken s t c ⟨f.exit.toNat, 0x32, some here⟩ [] link (some here)) ∧
      (exitable (argA c) → ∃ t, exec (.calli f) s = .next t ∧
        ExitTaken s t c ⟨f.exit.toNat, 0x33, some there⟩ [] link (some there)) ∧
      (exitable (argA c) → ∃ t, exec (.ret f) s = .next t ∧
        ExitTaken s t c ⟨f.exit.toNat, 0x34, some there⟩ [] [] (some there)) ∧
      (∃ t, exec (.loop f) s = .next t ∧ ExitTaken s t c ⟨f.exit.toNat, 0x35, some c.x.blk⟩ [] [] (some c.x.blk)) ∧
      (∃ t, exec (.halt f) s = .next t ∧ ExitTaken s t c ⟨f.exit.toNat, 0x36, none⟩ [] [] none) ∧
      (∃ t, exec (.yield f) s = .next t ∧ ExitTaken s t c ⟨f.exit.toNat, 0x37, some here⟩ [.yield] [] (some here)) ∧
      (∃ t, exec (.trap f) s = .next t ∧ ExitTaken s t c ⟨f.exit.toNat, 0x39, some here⟩ [.trap false arg] [] none) ∧
      (∃ t, exec (.sys f) s = .next t ∧ ExitTaken s t c ⟨f.exit.toNat, 0x3A, some here⟩ [.trap true arg] [] none)) ∧
  (∀ i ∈ ([.brind, .calli, .ret] : List (FmtX → Instr)), ∀ (f : FmtX) (s : State) (c : Firing) (u : Thread),
      Fires f.pr s c → s.dev.thr c.x.thr = some u → c.x.pend = none →
      (¬exitable (argA c) → ∃ t, exec (i f) s = .next t ∧ t.mem = s.mem ∧ t.mgmt = s.mgmt ∧
        Pending t c.iid (pendAt c .alignment (argA c).toNat 0 0)) ∧
      (exitable (argA c) → c.x.exit ≠ none → ∃ t, exec (i f) s = .next t ∧ t.mem = s.mem ∧ t.mgmt = s.mgmt ∧
        Pending t c.iid { cause := .exitConflict, w3 := BitVec.ofNat 64 (2 + c.idx * 2 ^ 8) })) ∧
  (∀ (f : FmtX) (s : State) (c : Firing) (u : Thread), Fires f.pr s c → s.dev.thr c.x.thr = some u →
      (∃ t, exec (.hint f) s = .next t ∧ t.mem = s.mem ∧ t.mgmt = s.mgmt ∧ t.dev.threads = s.dev.threads ∧
        t.dev.insts = s.dev.insts.set c.iid { c.x with fired := c.idx :: c.x.fired } ∧ t.dev.flight = s.dev.flight) ∧
      exec (.brkp f) s = .next (sent s { c with x := { c.x with brkp := some (f.offs.extractLsb' 0 16).toNat } } []))

/-- Rounding is correct in each direction, and keeps what a format can hold.
(1) 03 R55, R58, R65: the rounding of f16, b16, f32 and f64 in each mode is the one IEEE 754 gives. With the subnormals kept,
  a finite result is a nearest code, or the code next to the exact value on the side of the mode; NX is raised exactly where
  the result differs from the value.
(2) 03 R56, R62-R66: every finite code of a float type, e4m3 and e5m2 among them, rounds to itself in every mode and raises no
  flag; a NaN becomes the canonical NaN; sd8 saturates beyond 4096, and its zero has no sign. -/
def Obligations.Rounding : Prop :=
  (∀ ty ∈ ([8#4, 9#4, 10#4, 11#4] : List (BitVec 4)), ∀ (rm : Rm) (v : FVal) (x z : ℚ), ratOf v = some x →
      codeVal ty (roundTo ty v rm false).code = some z →
      ((roundTo ty v rm false).flags.getLsbD 4 = true ↔ z ≠ x) ∧
      (rm = .near → ∀ c < 2 ^ tyBits ty, ∀ y, codeVal ty c = some y → |z - x| ≤ |y - x|) ∧
      (rm = .zero → |z| ≤ |x| ∧ 0 ≤ z * x ∧ ∀ c < 2 ^ tyBits ty, ∀ y, codeVal ty c = some y → |y| ≤ |x| → |y| ≤ |z|) ∧
      (rm = .up → x ≤ z ∧ ∀ c < 2 ^ tyBits ty, ∀ y, codeVal ty c = some y → x ≤ y → z ≤ y) ∧
      (rm = .down → z ≤ x ∧ ∀ c < 2 ^ tyBits ty, ∀ y, codeVal ty c = some y → y ≤ x → y ≤ z)) ∧
  ((∀ (ty : BitVec 4) (rm : Rm) (c : Nat), 8 ≤ ty.toNat → ty.toNat ≤ 14 → c < 2 ^ tyBits ty → (∃ x, codeVal ty c = some x) →
      roundTo ty (decodeF ty c) rm false = ⟨c, false, 0#6⟩) ∧
    (∀ (ty : BitVec 4) (rm : Rm) (fzo q : Bool), roundTo ty (.nan q) rm fzo = ⟨canonicalNan ty, false, 0#6⟩) ∧
    (∀ (rm : Rm) (fzo : Bool) (v : FVal) (x : ℚ), ratOf v = some x → 4096 < |x| →
      roundTo 12#4 v rm fzo = ⟨if x < 0 then 0xFF else 0x7F, true, fOF ||| fNX ||| fSAT⟩) ∧
    (∀ (rm : Rm) (fzo s : Bool), roundTo 12#4 (.zero s) rm fzo = ⟨0, false, 0#6⟩))

/-- Comparison, class, rounding to integers, dot products, format tokens and the greatest exponent.
(1) 05 R129, 06 R166, R168: `fcmp`, `fclass` and `fround`. FZI acts on the operands of `fcmp` and `fround`, not of `fclass`.
(2) 06 R170, 03 R70: lane k of `fdot2` and `fdot4` is the exact sum of its 2 or 4 products, and of lane k of `c` as f32 where
  `c` is expected, rounded once to f32; here for lanes whose elements are all finite.
(3) 06 R171, R178: `fmt` sends its format and scale to T0; `fmaxexp` sends, in 16 i32 lanes, the largest exponent of the
  finite nonzero lanes, or −2^31, and raises only NV for a signalling NaN. -/
def Obligations.FloatOperations : Prop :=
  ((∀ (f : FmtG) (s : State) (c : Firing), Fires f.pr s c → (f.x.extractLsb' 0 4).toNat ≤ 7 → ∃ (v : Vec) (fl : BitVec 6),
      exec (.fcmp f) s = .next (sent s c (toBoth f v) fl) ∧
      (∀ k < 512, v.getLsbD k = (decide (k < 512 / tyBits f.ty) &&
        floatCondition (f.x.extractLsb' 0 4).toNat (fa f c.ops k) (fb f c.ops k))) ∧
      fl = if (List.range (512 / tyBits f.ty)).any (fun k =>
        floatInvalid (f.x.extractLsb' 0 4).toNat (fa f c.ops k) (fb f c.ops k)) then fNV else 0#6) ∧
    PredOp .fclass (fun f o n k => (f.x.extractLsb' 0 10).getLsbD (laneClass f.ty (elem n o.va k).toNat)) ∧
    (∀ (f : FmtG) (s : State) (c : Firing), Fires f.pr s c → ∃ (v : Vec) (fl : BitVec 6),
      exec (.fround f) s = .next (sent s c (toBoth f v) fl) ∧
      ∀ k < 512 / tyBits f.ty,
        (∀ q, fa f c.ops k = .nan q → elem (tyBits f.ty) v k = BitVec.ofNat _ (canonicalNan f.ty) ∧ (q = true → fl.getLsbD 0 = true)) ∧
        (∀ q, (fa f c.ops k = .inf q ∨ fa f c.ops k = .zero q) →
          elem (tyBits f.ty) v k = BitVec.ofNat _ (roundTo f.ty (fa f c.ops k) (rmOf f.rm) (f.fzo == 1#1)).code) ∧
        (∀ x : ℚ, ratOf (fa f c.ops k) = some x → x ≠ 0 → ∃ (z : Int) (w : FVal), ratOf w = some (z : ℚ) ∧
          (z = 0 → w = .zero (decide (x < 0))) ∧ |(z : ℚ) - x| < 1 ∧
          (rmOf f.rm = .down → z = ⌊x⌋) ∧ (rmOf f.rm = .up → z = ⌈x⌉) ∧ (rmOf f.rm = .zero → |(z : ℚ)| ≤ |x|) ∧
          (rmOf f.rm = .near → |(z : ℚ) - x| ≤ 1 / 2 ∧ (|(z : ℚ) - x| = 1 / 2 → z % 2 = 0)) ∧
          elem (tyBits f.ty) v k = BitVec.ofNat _ (roundTo f.ty w (rmOf f.rm) (f.fzo == 1#1)).code ∧
          (f.x.getLsbD 0 = true → (z : ℚ) ≠ x → fl.getLsbD 4 = true)))) ∧
  (∀ p ∈ ([(.fdot2, 2), (.fdot4, 4)] : List ((FmtG → Instr) × Nat)), ∀ (f : FmtG) (s : State) (c : Firing), Fires f.pr s c →
      ∃ (v : Vec) (fl : BitVec 6), exec (p.1 f) s = .next (sent s c (toBoth f v) fl) ∧ ∀ k < 16, ∀ x : ℚ,
        rationalSum ((List.range p.2).map (fun j => do
            let a ← ratOf (pa f c.ops (p.2 * k + j))
            let b ← ratOf (pb f c.ops (p.2 * k + j))
            some (a * b)) ++
          (if c.ops.c.isSome then [ratOf (readLane { f with ty := 10#4 } none c.ops.vc k)] else [])) = some x →
        ∃ r : FVal, ratOf r = some x ∧ elem 32 v k = BitVec.ofNat 32 (roundTo 10#4 r (rmOf f.rm) (f.fzo == 1#1)).code) ∧
  ((∀ (f : FmtP) (s : State) (c : Firing), Fires f.pr s c →
      exec (.fmt f) s = .next (sent s c [(f.t0, .fmt f.fmt f.scale)])) ∧
    (∀ (f : FmtG) (s : State) (c : Firing), Fires f.pr s c → ∃ (v : Vec) (e : Int),
      exec (.fmaxexp f) s = .next (sent s c (toBoth f v)
        (if (List.range (512 / tyBits f.ty)).any (fun k => (fa f c.ops k).isSnan) then fNV else 0#6)) ∧
      (∀ k < 16, elem 32 v k = BitVec.ofInt 32 e) ∧
      (∀ k < 512 / tyBits f.ty, ∀ x : ℚ, ratOf (fa f c.ops k) = some x → x ≠ 0 → |x| < 2 ^ (e + 1)) ∧
      (e = -(2 ^ 31) ∨ ∃ k < 512 / tyBits f.ty, ∃ x : ℚ, ratOf (fa f c.ops k) = some x ∧ (2 : ℚ) ^ e ≤ |x|) ∧
      ((∀ k < 512 / tyBits f.ty, ∀ x : ℚ, ratOf (fa f c.ops k) = some x → x = 0) → e = -(2 ^ 31))))

/-- Conversions between formats, and between floating point and integers.
(1) 03 R69, 06 R174: a finite value becomes the integer that the mode gives, or the nearest bound of the type with NV and the
  overflow bit; NX is raised where an integer in range is not the value. A NaN becomes 0, and an infinity a bound.
(2) 06 R173-R177: conversions. `cvt` and `cvti` take the prefix; `pack` places `a` and `b` side by side or interleaved;
  `unpack` widens the lanes that SEL picks, and T1 carries a copy. Neither type is `pr`. -/
def Obligations.ConversionOperations : Prop :=
  (∀ (dt : BitVec 4) (rm : Rm), dt.toNat ≤ 7 →
      let lo : Int := if signedTy dt then -(2 ^ (tyBits dt - 1)) else 0
      let hi : Int := if signedTy dt then 2 ^ (tyBits dt - 1) - 1 else 2 ^ tyBits dt - 1
      let out := fun (z : Int) => (BitVec.ofInt (tyBits dt) z).toNat
      (∀ q, toIntType dt rm (.nan q) = ⟨0, true, fNV⟩) ∧
      (∀ s, toIntType dt rm (.inf s) = ⟨out (if s then lo else hi), true, fNV⟩) ∧
      (∀ (v : FVal) (x : ℚ) (z : Int), ratOf v = some x →
        (rm = .down → z = ⌊x⌋) → (rm = .up → z = ⌈x⌉) → (rm = .zero → z = if x < 0 then ⌈x⌉ else ⌊x⌋) →
        (rm = .near → |(z : ℚ) - x| ≤ 1 / 2 ∧ (|(z : ℚ) - x| = 1 / 2 → z % 2 = 0)) →
        toIntType dt rm v =
          if z < lo then ⟨out lo, true, fNV⟩ else if hi < z then ⟨out hi, true, fNV⟩
          else ⟨out z, false, if (z : ℚ) = x then 0#6 else fNX⟩)) ∧
  (∀ (f : FmtG) (s : State) (c : Firing), Fires f.pr s c → f.ty ≠ 15#4 → f.x.extractLsb' 0 4 ≠ 15#4 →
      let dt := f.x.extractLsb' 0 4
      let part := (f.x.extractLsb' 4 3).toNat
      let shift := (f.x.extractLsb' 7 8).toInt
      let src := fun (v : Vec) (k : Nat) => value f.ty (elem (tyBits f.ty) v k)
      let half := 512 / tyBits f.ty
      Converts s c (.cvt f) f dt (fun k => (sourceLane f.ty dt part k).map (fun j =>
        convertLane f dt (pa f c.ops j) (src c.ops.va j))) ∧
      Converts s c (.cvti f) f dt (fun k => (sourceLane f.ty dt part k).map (fun j =>
        toIntType dt (rmOf f.rm) ((pa f c.ops j).scale shift))) ∧
      Converts s c (.cvtf f) f dt (fun k => (sourceLane f.ty dt part k).map (fun j =>
        let z := src c.ops.va j
        roundTo dt (if z = 0 then .zero false else .num (decide (z < 0)) z.natAbs 1 shift) (rmOf f.rm) (f.fzo == 1#1))) ∧
      (512 / tyBits dt = 2 * half → Converts s c (.pack f) f dt (fun k =>
        let first := if f.x.getLsbD 4 then k % 2 = 0 else k < half
        let j := if f.x.getLsbD 4 then k / 2 else k % half
        let v := if first then c.ops.va else c.ops.vb
        some (convertLane f dt (readLane f none v j) (src v j)))) ∧
      (2 * (512 / tyBits dt) = half → ∃ (v : Vec) (fl : BitVec 6), exec (.unpack f) s = .next (sent s c (toBoth f v) fl) ∧
        ∀ j < half / 2,
          let k := match (f.x.extractLsb' 4 2).toNat with
            | 0 => j
            | 1 => half / 2 + j
            | 2 => 2 * j
            | _ => 2 * j + 1
          elem (tyBits dt) v j =
            BitVec.ofNat _ (convertLane { f with rm := 0#2, fzo := 0#1 } dt (fa f c.ops k) (src c.ops.va k)).code))

/-- Lanes moved, reductions and scans by the tree, and votes over lanes.
(1) 06 R180, R181, R184, R186: the moves of lanes by index, by constant, by mask and by interleaving. `cmpr` sends the count
  to T1 in 16 n32 lanes; an index of `perm` is taken modulo the lane count, or twice it.
(2) 06 R182, R183, 03 R71, R72: `red` and `scan` over groups of 2^G lanes, with the fixed tree and one rounding a combination.
  BC sends a group's result to all its lanes, else it stands in the lowest and the others are zero; EXCL moves the inclusive
  values up one lane, with the identity in the lowest. The flags of every node of `red` are raised. A NaN is delivered as the
  canonical one; the lowest lane of a scan, which no combination reaches, is not rounded (log 87, the model's choice).
(3) 06 R185: `vote`: any, all and uniform over the bits of a predicate, and the count in every lane. -/
def Obligations.CrossLane : Prop :=
  ((∀ (f : FmtG) (s : State) (c : Firing), Fires f.pr s c → ∃ v : Vec, exec (.perm f) s = .next (sent s c (toBoth f v)) ∧
      ∀ k < 512 / tyBits f.ty,
        let l := 512 / tyBits f.ty
        let i := (elem 8 c.ops.vb k).toNat
        elem (tyBits f.ty) v k =
          if f.x.getLsbD 0 = false then elem (tyBits f.ty) c.ops.va (i % l)
          else if i % (2 * l) < l then elem (tyBits f.ty) c.ops.va (i % (2 * l))
          else elem (tyBits f.ty) c.ops.vc (i % (2 * l) - l)) ∧
    LaneOp .shfl (fun f o n k =>
      let l := 512 / n
      let sh := (f.x.extractLsb' 4 6).toNat
      match (f.x.extractLsb' 0 4).toNat with
      | 0 => elem n o.va ((k + sh) % l)
      | 1 => if k + sh < l then elem n o.va (k + sh) else 0#n
      | 2 => if sh ≤ k then elem n o.va (k - sh) else 0#n
      | _ => elem n o.va (k ^^^ sh)) ∧
    LaneOp .expd (fun _ o n k => if o.vb.getLsbD k then elem n o.va (setBelow o.vb k) else elem n o.vc k) ∧
    LaneOp .zip (fun f o n k =>
      let j := (if f.x.getLsbD 0 then 512 / n / 2 else 0) + k / 2
      if k % 2 = 0 then elem n o.va j else elem n o.vb j) ∧
    LaneOp .unzip (fun f o n k =>
      let h := 512 / n / 2
      let odd := if f.x.getLsbD 0 then 1 else 0
      if k < h then elem n o.va (2 * k + odd) else elem n o.vb (2 * (k - h) + odd)) ∧
    (∀ (f : FmtG) (s : State) (c : Firing), Fires f.pr s c → ∃ v n : Vec,
      exec (.cmpr f) s = .next (sent s c [(f.t0, .val v), (f.t1, .val n)]) ∧
      (∀ k < 16, elem 32 n k = BitVec.ofNat 32 (setBelow c.ops.vb (512 / tyBits f.ty))) ∧
      (∀ k < 512 / tyBits f.ty, c.ops.vb.getLsbD k = true →
        elem (tyBits f.ty) v (setBelow c.ops.vb k) = elem (tyBits f.ty) c.ops.va k) ∧
      (∀ k < 512 / tyBits f.ty, setBelow c.ops.vb (512 / tyBits f.ty) ≤ k → elem (tyBits f.ty) v k = 0#(tyBits f.ty)))) ∧
  (∀ (f : FmtG) (s : State) (c : Firing), Fires f.pr s c → f.ty.toNat ≤ 11 → groupBits f ≤ Nat.log2 (512 / tyBits f.ty) →
      let n := tyBits f.ty
      let m := 2 ^ groupBits f
      let g := fun x y => (combineCodes f x y).1
      let canon := fun (x : Nat) => if 8 ≤ f.ty.toNat ∧ (decodeF f.ty x).isNan = true then canonicalNan f.ty else x
      let input := fun (q j : Nat) => inputLane f c.ops.va (q * m + j)
      (∃ (v : Vec) (fl : BitVec 6), exec (.red f) s = .next (sent s c (toBoth f v) fl) ∧
        (∀ q < 512 / n / m, ∀ j < m, elem n v (q * m + j) =
          if f.x.getLsbD 4 = true ∨ j = 0 then BitVec.ofNat n (node g (input q) (groupBits f) 0) else 0#n) ∧
        (∀ b < 6, fl.getLsbD b = true ↔ ∃ q < 512 / n / m, ∃ l < groupBits f, ∃ k < 2 ^ (groupBits f - l - 1),
          (combineCodes f (node g (input q) l (2 * k)) (node g (input q) l (2 * k + 1))).2.getLsbD b = true)) ∧
      (∃ (v : Vec) (fl : BitVec 6), exec (.scan f) s = .next (sent s c (toBoth f v) fl) ∧
        ∀ q < 512 / n / m, ∀ j < m, elem n v (q * m + j) =
          if f.x.getLsbD 4 = false then BitVec.ofNat n (canon ((scanFrom g (input q) j (groupBits f) 0 none).getD 0))
          else if j = 0 then identity f
          else BitVec.ofNat n (canon ((scanFrom g (input q) (j - 1) (groupBits f) 0 none).getD 0)))) ∧
  (∀ (f : FmtG) (s : State) (c : Firing), Fires f.pr s c → ∃ v : Vec, exec (.vote f) s = .next (sent s c (toBoth f v)) ∧
      let l := 512 / tyBits f.ty
      let n := setBelow c.ops.va l
      ∀ k < 512,
        ((f.x.extractLsb' 0 2).toNat = 0 → v.getLsbD k = decide (k < l ∧ ∃ j < l, c.ops.va.getLsbD j = true)) ∧
        ((f.x.extractLsb' 0 2).toNat = 1 → v.getLsbD k = decide (k < l ∧ ∀ j < l, c.ops.va.getLsbD j = true)) ∧
        ((f.x.extractLsb' 0 2).toNat = 2 → v.getLsbD k = decide (k < l ∧ ∀ j < l, c.ops.va.getLsbD j = c.ops.va.getLsbD 0)) ∧
        ((f.x.extractLsb' 0 2).toNat = 3 → k < l → elem (tyBits f.ty) v k = BitVec.ofNat _ n))

/-- Where the bytes of a load come from.
(1) 09 R262, R263, 08 R219, 15 R415, 02 R33: a line read through an L1 gives its valid bytes, or, where the L1 does not hold
  it, those of its home: the frame of the page as the revision sees it, or the L2 line of another package. While its page
  moves, a line is served if the L2 holds it, and waits if it does not. Bytes of an open write stream come before either. A
  load takes a byte from the store of the highest lower LSID of its own instance that writes it, else from the youngest older
  instance that stores it, else from the line. None of this writes local memory.
(2) 08 R233, R229, 09 R262, 15 R411: a 64-byte load whose lines no L1 holds and whose addresses the translation cache of their
  unit holds reads memory: with no store of the thread in flight and no open write stream on its bytes, byte i of the token is
  the byte of memory at the frame that its page has. Memory is unchanged. -/
def Obligations.LoadValues : Prop :=
  ((∀ (w : W) (c rnum g line : Nat),
      let rid := (w.d.ctx c).ridOf rnum (32 * line)
      let shown := fun (bs : List Byte) (mem : Nat → Byte) => bs.length = 32 ∧
        ∀ i < 32, bs.getD i 0#8 = (cellAt (w.d.coalesced g) (32 * line + i)).getD (mem i)
      (∀ l, (w.d.grid g).l1Find line rid = some l → l.valid = allMask →
        ∃ bs, w.l1Read c rnum g line = (.ok bs, w) ∧ shown bs (fun i => l.data.extractLsb' (8 * i) 8)) ∧
      (∀ key w0, w.d.snooping line = false → w.translate c rnum (32 * line) = .ok key w0 → w.isLocal (32 * line) = true →
        (∀ p ∈ w.d.poison, p < key ∨ key + 32 ≤ p) →
        ((w.d.grid g).l1Find line rid = none →
          ∃ bs w', w.l1Read c rnum g line = (.ok bs, w') ∧ w'.ov = w.ov ∧ shown bs (fun i => w.rd (key + i))) ∧
        (∀ l, (w.d.grid g).l1Find line rid = some l → l.valid ≠ allMask →
          ∃ bs w', w.l1Read c rnum g line = (.ok bs, w') ∧ w'.ov = w.ov ∧
            shown bs (fun i => if l.valid.getLsbD i then l.data.extractLsb' (8 * i) 8 else w.rd (key + i)))) ∧
      (∀ key w0 l2, w.d.snooping line = false → w.translate c rnum (32 * line) = .ok key w0 → w.isLocal (32 * line) = false →
        (w.d.grid g).l1Find line rid = none → w.d.l2Find line = some l2 → l2.valid = allMask →
        ∃ bs w', w.l1Read c rnum g line = (.ok bs, w') ∧ w'.ov = w.ov ∧ shown bs (fun i => l2.data.extractLsb' (8 * i) 8)) ∧
      ((w.d.grid g).l1Find line rid = none → w.d.snooping line = false →
        (w.translate c rnum (32 * line) = .absent → w.l1Read c rnum g line = (.absent, w)) ∧
        (w.translate c rnum (32 * line) = .waits →
          (w.cutOff (32 * line) = true ∨ w.d.l2Find line rid = none → w.l1Read c rnum g line = (.waits, w)) ∧
          (∀ key l2, w.cutOff (32 * line) = false → w.d.l2Find line rid = some l2 → w.isLocal (32 * line) = true →
            w.writeKey c rnum (32 * line) = some key → (∀ p ∈ w.d.poison, p < key ∨ key + 32 ≤ p) →
            ∃ bs w', w.l1Read c rnum g line = (.ok bs, w') ∧ w'.ov = w.ov ∧ shown bs (fun i => w.rd (key + i)))))) ∧
    (∀ (d : Dev) (x : Inst) (l : Nat) (scr : Option Nat) (a : Nat),
      let writes := fun (below : Nat) (q : Access) => q.isStore = true ∧ q.scratch = scr ∧ q.lsid < below ∧ (cellAt q.bytes a).isSome
      (∀ q ∈ x.accs, writes l q → (∀ q' ∈ x.accs, writes l q' → q' = q ∨ q'.lsid < q.lsid) →
        d.fwdByte x l scr a = cellAt q.bytes a) ∧
      ((∀ q ∈ x.accs, ¬writes l q) → (∀ y ∈ d.instsOf x.thr, y.2.seq < x.seq → ∀ q ∈ y.2.accs, ¬writes 256 q) →
        d.fwdByte x l scr a = none) ∧
      (∀ y ∈ d.instsOf x.thr, y.2.seq < x.seq → (∀ q ∈ x.accs, ¬writes l q) →
        (∀ z ∈ d.instsOf x.thr, z.2.seq < x.seq → z = y ∨ z.2.seq < y.2.seq ∨ ∀ q ∈ z.2.accs, ¬writes 256 q) →
        ∀ q ∈ y.2.accs, writes 256 q → (∀ q' ∈ y.2.accs, writes 256 q' → q' = q ∨ q'.lsid < q.lsid) →
          d.fwdByte x l scr a = cellAt q.bytes a))) ∧
  (∀ (f : FmtM) (s : State) (c : Firing) (u : Thread) (key : Nat → Nat), Fires f.pr s c → s.dev.thr c.x.thr = some u →
      let l := f.lsid.toNat
      let a := addrOf f c
      LoadReady s c u l → a < 2 ^ 57 → a % (tyBits f.ty / 8) = 0 → s.toW.isLocal a = true →
      (∀ x ∈ [a, a + 63], ∃ e ∈ (s.dev.grid (u.accessGrid x)).plb, e.region = x / 2 ^ 21 ∧
        ∀ e' ∈ (s.dev.grid (u.accessGrid x)).plb, e'.region = x / 2 ^ 21 → e'.rights.getLsbD 0 = true) →
      (∀ x, a ≤ x → x < a + 64 →
        s.dev.tcFind (32 * (x / 32)) ≠ none ∧ (∃ w0, s.toW.translate u.ctx (s.dev.rnumOf u) (32 * (x / 32)) = .ok (key (x / 32)) w0) ∧
        s.toW.isLocal (32 * (x / 32)) = true ∧ s.dev.snooping (x / 32) = false ∧ (∀ p ∈ s.dev.poison, p < key (x / 32) ∨ key (x / 32) + 32 ≤ p) ∧
        (s.dev.grid (u.accessGrid (32 * (x / 32)))).l1Find (x / 32) ((s.dev.ctx u.ctx).ridOf (s.dev.rnumOf u) (32 * (x / 32))) = none ∧
        (s.dev.coalesced (u.accessGrid (32 * (x / 32)))).all (fun b => b.1 != x) = true ∧ u.coalesced.all (fun b => b.1 != x) = true ∧
        (∀ y ∈ s.dev.insts, y.2.thr = c.x.thr → ∀ q ∈ y.2.accs, q.isStore = true → ∀ b ∈ q.bytes, b.1 ≠ x)) →
      (∀ q ∈ c.x.accs, q.isStore = true ∨ q.lsid ≤ l) → NoYoungLoad s c → s.toW.deviceOrdered u a = false →
      s.toW.deviceOrdered u (a + 63) = false →
      ∃ (v : Vec) (t : State), exec (.ld f) s = .next t ∧ t.mem = s.mem ∧ t.mgmt = s.mgmt ∧ t.dev.threads = s.dev.threads ∧
        t.dev.ctxs = s.dev.ctxs ∧ t.dev.flight = s.dev.flight ++ inFlight c [(f.t0, .val v)] ∧
        (∀ j, j ≠ c.iid → t.dev.inst j = s.dev.inst j) ∧ (∃ y, t.dev.inst c.iid = some y ∧ y.fired = c.idx :: c.x.fired ∧ y.effs = c.x.effs) ∧
        (∀ i < 64, byteAt v i = s.mem.read (key ((a + i) / 32) + (a + i) % 32)))

/-- Stores wait for their commit; the faults of an access.
(1) 08 R228, R229, R233, R234, 02 R28, R33: a store whose checks pass and that no younger load contradicts fills its LSID and
  leaves its bytes for the commit; nothing is written when it fires. A store that does not operate nullifies its LSID; a
  second fill of an LSID is EXIT_CONFLICT. A store whose bytes a younger instance has read flushes it and everything younger,
  and the predictor learns the load.
(2) 08 R224, R225, R229, R230, R233, 11 R324, 02 R32, 15 R418: a misaligned address or one with bits [63:57] is ALIGNMENT; one
  outside the domain, without the right, or, for a store, in write-protected code is PROTECTION; an absent page raises a page
  request for it, or joins one, and is PAGE_ABSENT. Each is pending with the address and whether it is a write; nothing is
  written. -/
def Obligations.StoresAndFaults : Prop :=
  ((∀ (f : FmtM) (s : State) (c : Firing) (u : Thread), Fires f.pr s c → s.dev.thr c.x.thr = some u → f.lsid.toNat ∉ c.x.lsids →
      let l := f.lsid.toNat
      let a := addrOf f c
      let cs := laneCells f c a
      (∀ w, s.toW.storeCheck c u a 64 (tyBits f.ty / 8) = .ok w →
        (w.d.youngLoads c.x.thr c.x.seq none (cs.map Prod.fst) = [] →
          exec (.st f) s = .next (stored s w.d c l [.store cs 0] [⟨l, c.idx, cs, true, none⟩] []) ∧
          exec (.stl f) s = .next (stored s w.d c l [.store cs f.scope.toNat] [⟨l, c.idx, cs, true, none⟩] [])) ∧
        (∀ y k r, w.d.youngLoads c.x.thr c.x.seq none (cs.map Prod.fst) = (y, k) :: r → ∃ t, exec (.st f) s = .next t ∧ t.mem = s.mem ∧
          (∃ x, t.dev.inst c.iid = some x ∧ x.lsids = l :: c.x.lsids ∧ x.effs = c.x.effs ++ [(l, c.idx, .store cs 0)]) ∧
          (∀ j z, j ≠ c.iid → t.dev.inst j = some z → z.thr = c.x.thr → y.seq ≤ z.seq → z.dying = true) ∧
          (∃ e ∈ (t.dev.grid y.grid).pred, e.blk = y.blk ∧ e.lsid = k))) ∧
      (∀ w cs, f.ty.toNat ≤ 11 → scatters f c u s.toW (List.range (512 / tyBits f.ty)) = some (cs, w) →
        w.d.youngLoads c.x.thr c.x.seq none (cs.map Prod.fst) = [] →
        exec (.stg f) s = .next (stored s w.d c l [.store cs 0] [⟨l, c.idx, cs, true, none⟩] [])) ∧
      (a % (tyBits f.ty / 8) = 0 → InWindow s u a 64 → s.dev.stalled c.x (spKeyOf s u a) 64 = false →
        (let cs := laneCells f c (spKeyOf s u a)
         let g := spGridOf u a
         s.dev.youngLoads c.x.thr c.x.seq (some g) (cs.map Prod.fst) = [] →
         exec (.stsp f) s = .next (stored s s.dev c l [.spStore g cs] [⟨l, c.idx, cs, true, some g⟩] [])))) ∧
    (∀ i ∈ storesM, ∀ (f : FmtM) (s : State) (c : Firing) (u : Thread), s.dev.firing = some c → s.dev.thr c.x.thr = some u →
      let l := f.lsid.toNat
      (l ∉ c.x.lsids → c.ops.holds f.pr = false → exec (i f) s = .next (stored s s.dev c l [] [] [])) ∧
      (l ∉ c.x.lsids → c.ops.holds f.pr = true → c.ops.anyNull = true →
        exec (i f) s = .next (stored s s.dev c l [] [] (nullsTo (i f)))) ∧
      (l ∈ c.x.lsids → c.ops.holds f.pr = false → c.x.pend = none → ∃ t, exec (i f) s = .next t ∧ t.mem = s.mem ∧
        Pending t c.iid { cause := .exitConflict, w3 := BitVec.ofNat 64 (1 + l * 2 ^ 8) }))) ∧
  (∀ (f : FmtM) (s : State) (c : Firing) (u : Thread), Fires f.pr s c → s.dev.thr c.x.thr = some u → c.x.pend = none →
      let a := addrOf f c
      let n := tyBits f.ty / 8
      let right := fun (x : Nat) (k : Nat) => (s.toW.rights (u.accessGrid x) u.ctx x).1.getLsbD k
      let ends := fun (i : Instr) (q : Cause) (write : Nat) => ∃ t, exec i s = .next t ∧ t.mem = s.mem ∧ t.mgmt = s.mgmt ∧
        Pending t c.iid (pendAt c q a write 0)
      let bad := 2 ^ 57 ≤ a ∨ a % n ≠ 0
      let asks := fun (i : Instr) (write : Nat) => ∃ t, exec i s = .next t ∧ t.mem = s.mem ∧
        Pending t c.iid { cause := .pageAbsent, w2 := BitVec.ofNat 64 a, w3 := BitVec.ofNat 64 write } ∧
        ∃ r ∈ t.dev.preqs, r.ctx = u.ctx ∧ r.page = a / 2 ^ 14 * 2 ^ 14
      let missing := ¬bad ∧ s.toW.isLocal a = true ∧ s.toW.deviceOrdered u (a + 63) = false ∧ a / 2 ^ 21 = (a + 63) / 2 ^ 21 ∧ s.toW.translate u.ctx (s.dev.rnumOf u) a = .absent ∧
        s.toW.translate u.ctx (s.dev.rnumOf u) (32 * (a / 32)) = .absent ∧ s.dev.snooping (a / 32) = false ∧
        (s.dev.grid (u.accessGrid a)).l1Find (a / 32) ((s.dev.ctx u.ctx).ridOf (s.dev.rnumOf u) a) = none ∧
        (s.dev.grid (u.accessGrid (32 * (a / 32)))).l1Find (a / 32) ((s.dev.ctx u.ctx).ridOf (s.dev.rnumOf u) (32 * (a / 32))) = none ∧
        s.dev.preqs.length < 4096
      (LoadReady s c u f.lsid.toNat →
        (bad → ends (.ld f) .alignment 0 ∧ ends (.lda f) .alignment 0) ∧
        (¬bad → s.toW.inDomain a = false ∨ right a 0 = false → ends (.ld f) .protection 0 ∧ ends (.lda f) .protection 0) ∧
        (missing → right a 0 = true → c.x.owed c.code f.lsid.toNat (addrs a 64) = false → asks (.ld f) 0) ∧
        (a % n ≠ 0 → ends (.ldsp f) .alignment 0) ∧
        (a % n = 0 → ¬InWindow s u a 64 → ends (.ldsp f) .protection 0)) ∧
      (bad → ends (.st f) .alignment 1 ∧ ends (.stl f) .alignment 1) ∧
      (¬bad → (s.toW.inDomain a = false ∨ right a 1 = false ∨ ∃ r ∈ s.dev.wprot, a < r.2.2.1 + r.2.2.2 ∧ r.2.2.1 < a + 64) →
        ends (.st f) .protection 1 ∧ ends (.stl f) .protection 1) ∧
      (missing → right a 1 = true → s.dev.wprot = [] → asks (.st f) 1 ∧ asks (.stl f) 1) ∧
      (a % n ≠ 0 → ends (.stsp f) .alignment 1) ∧
      (a % n = 0 → ¬InWindow s u a 64 → ends (.stsp f) .protection 1))

/-- Atomics as they fire and as they are performed.
(1) 08 R257, R258, R227, R229: an atomic whose checks pass, whose stores of lower LSID are done, whose page is not device-
  ordered, which takes no byte from an atomic of its instance that is still to be performed, and which no younger load
  contradicts, fills its LSID and leaves the operation for its performance, with its operands from lane 0; loads of its thread
  see the value it will leave by what stands there now. An acquiring atomic is noted as such.
(2) 08 R258, R257, 09 R274: ATOMIC_EARLY_PERFORM on an atomic that sends its value, of the oldest instance, every memory
  instruction of which has resolved and passes its checks, and whose turn among the atomics of its instance it is: at PACKAGE
  scope, with no L1 copy of its line and no bytes of it in a coalescing buffer of the thread, no release of the thread being
  under way, it reads the element at its home, writes the new value there, sends the old value in every lane to its targets,
  raises the flags of the operation and counts; no other byte of memory changes. The instance keeps its release, if any, for
  the commit. Without these conditions nothing changes. -/
def Obligations.Atomics : Prop :=
  (∀ p ∈ atomics, ∀ (f : FmtA) (s : State) (c : Firing) (u : Thread), Fires f.pr s c → s.dev.thr c.x.thr = some u → f.ty.toNat ≤ 11 →
      let l := f.lsid.toNat
      let n := tyBits f.ty
      let a := amoAddr f c
      let b := elem n c.ops.vb 0
      let k := elem n c.ops.vc 0
      ∀ w w' cs, s.toW.storeCheck c u a (n / 8) (n / 8) (rR ||| rW) = .ok w → (∀ j < l, c.code.storeMask.testBit j = true → j ∈ c.x.lsids) →
        (w.deviceOrdered u a = false ∨ w.d.isOldest c.x = true) → c.x.owed c.code l (addrs a (n / 8)) = false → w.loadCells c.x u l (addrs a (n / 8)) = (.ok cs, w') →
        w'.d.youngLoads c.x.thr c.x.seq none (addrs a (n / 8)) = [] → l ∉ c.x.lsids →
        let new := newValue p.2 f.ty (BitVec.ofNat n (ofBytes (cs.map Prod.snd))) b k
        let x := if f.ord.getLsbD 0 then { c.x with acquires := l :: c.x.acquires } else c.x
        let eff := Eff.amo p.2 f.ty f.scope.toNat f.ord a (b.setWidth 64) (k.setWidth 64)
        let here := (List.range (n / 8)).map (fun j => ((a + j, new.extractLsb' (8 * j) 8) : Host.Cell))
        exec (p.1 f) s = .next { stored s w'.d { c with x := x } l [eff] [⟨l, c.idx, here, true, none⟩] [] with
          mem := s.mem.writeAll w'.ov.reverse }) ∧
  (∀ (s : State) (x : Inst) (b : Block) (u : Thread) (l : Nat) (q : AmoReq) (i : Instr) (key : Nat),
      let iid := s.dev.arg.a
      let idx := s.dev.arg.b
      let n := tyBits q.ty / 8
      let line := q.addr / 32
      s.dev.inst iid = some x → x.code = some b → s.dev.thr x.thr = some u → x.amoAt idx = some (l, q) → b.instr idx = some i →
      ((q.early i = false ∨ s.dev.isOldest x = false ∨ x.resolved b l = false ∨ x.storesBelow b l = false ∨ x.pend ≠ none ∨
          s.dev.stopped x.grid = true) → exec .atomicEarlyPerform s = .next s) ∧
      (q.early i = true → s.dev.isOldest x = true → x.resolved b l = true → x.storesBelow b l = true → x.pend = none →
        s.dev.stopped x.grid = false → s.mem.wf = true → (s.dev.ctx u.ctx).undoEn = false → q.ord = 0#2 → q.scope = 2 → q.ty.toNat ≤ 11 →
        q.addr % n = 0 → s.toW.loadFault x b u = none → x.amoTurn idx l q = (idx, l, q) → (∀ r ∈ s.dev.rels, r.thr ≠ x.thr) →
        (∀ p ∈ u.streams, ∀ e ∈ p.2.buffer, e.1 / 32 ≠ line) → s.toW.isLocal q.addr = true → s.dev.snooping line = false → line ∉ s.dev.hostHeld →
        (∀ p ∈ s.dev.poison, p < key ∨ key + 32 ≤ p) →
        (∀ a, a / 32 = line → s.toW.isLocal a = true ∧ s.dev.tcFind a ≠ none ∧
          ∃ w0, s.toW.translate u.ctx (s.dev.rnumOf u) a = .ok (key + a % 32) w0 ∧ entState w0 ≠ 7) →
        (s.dev.grid (u.accessGrid q.addr)).l1Find line ((s.dev.ctx u.ctx).ridOf (s.dev.rnumOf u) q.addr) = none →
        (∀ r ∈ x.accs, r.isStore = true → r.lsid < l → ∀ y ∈ r.bytes, y.1 < q.addr ∨ q.addr + n ≤ y.1) →
        (∀ y ∈ s.dev.insts, y.2.thr = x.thr → ∀ r ∈ y.2.accs, r.isStore = true ∨ ∀ e ∈ r.bytes, e.1 < q.addr ∨ q.addr + n ≤ e.1) →
        let at_ := key + q.addr % 32
        let old := memValue s.mem at_ n
        let r := amoNew q.op q.ty old q.b q.c
        ∃ t, exec .atomicEarlyPerform s = .next t ∧
          (∀ j < n, t.mem.read (at_ + j) = BitVec.ofNat 8 (r.1 / 2 ^ (8 * j))) ∧
          (∀ k, k < at_ ∨ at_ + n ≤ k → t.mem.read k = s.mem.read k) ∧
          (∃ v : Vec, (∀ k < 512 / (8 * n), elem (8 * n) v k = BitVec.ofNat (8 * n) old) ∧
            t.dev.flight = s.dev.flight ++ ((targets i).filter (fun g => tgtKind g != 0)).map (fun g => ⟨iid, some idx, g, .val v⟩)) ∧
          (∃ y, t.dev.inst iid = some y ∧ y.flags = x.flags ||| r.2 ∧ y.atomics = x.atomics + 1 ∧ y.fired = x.fired ∧
            y.amoAt idx = none ∧ y.st = x.st)))

/-- Matrix instructions as they fire, when their steps start and finish, and what those that touch memory do.
(1) 07 R198, R204, R210: a matrix instruction that operates leaves a step that waits for the array, and sends nothing yet.
  With a null operand it sends nulls and performs no step; so does one whose partner in a tagged pair has fired without
  operating, and a partner that waits is dropped with nulls.
(2) 07 R190-R192, R197, R201, R206, R207, R211-R213, R215-R217: what MATRIX_STEP_START does for `mcfg`, `mzero`, `mctr`,
  `mbound`, `mrow` and `mred`. A live tile keeps its shape unless it is dropped: TILE_LIVE; a tile of another width, a row or
  block outside the tile is MATRIX_SHAPE. Reductions of i32 cells wrap; those of f32 cells are the exact sum rounded once, the
  largest or the least.
(3) 07 R199-R203, R211, R214: a load step fills its tile from the bytes at its rows, and a store step holds the bytes of its
  cells for the commit; both hold the pages they read or write locked. `wbload` waits for its instance to be oldest with its
  other outputs done, then writes its records to the weight buffer of every grid of the core and marks their units. A step
  waits while the array performs another, while it is not eligible, or while one that stands before it can start. A step that
  finishes unlocks the pages of what it read and sends its tokens. -/
def Obligations.MatrixSteps : Prop :=
  (∀ i ∈ matrixInstrs, ∀ (f : FmtN) (s : State) (c : Firing), s.dev.firing = some c →
      let partner := c.code.partner c.idx
      let idle := partner = none
      let voided := ∃ p, partner = some p ∧ p.1 ∈ c.x.fired ∧ ∀ m ∈ c.x.msteps, m.idx ≠ p.1
      (c.ops.holds f.pr = true → c.ops.anyNull = false → ¬voided →
        exec (i f) s = .next (sent s { c with x := { c.x with
          msteps := c.x.msteps ++ [{ idx := c.idx, a := argA c, b := c.ops.vb.extractLsb' 0 64 }] } } [])) ∧
      (c.ops.holds f.pr = true → c.ops.anyNull = false → voided → exec (i f) s = .next (sent s c (nullsTo (i f)))) ∧
      (c.ops.holds f.pr = true → c.ops.anyNull = true → idle → exec (i f) s = .next (sent s c (nullsTo (i f)))) ∧
      (c.ops.holds f.pr = false → idle → exec (i f) s = .next (sent s c []))) ∧
  (∀ (f : FmtN) (s : State) (x : Inst) (b : Block) (u : Thread) (m : MStep),
      let k := f.tile.toNat
      let tl := tileOf u k
      let starts := fun (i : Instr) (tiles : Tbl Tile) (toks : List (Target × Tok)) (ctr : Option (Nat × Counter)) =>
        ∃ t, exec .matrixStepStart s = .next t ∧ StepStarted s t x tiles toks ctr ∧ b.instr s.dev.arg.b = some i
      let faults := fun (q : Cause) => ∃ t, exec .matrixStepStart s = .next t ∧ t.mem = s.mem ∧
        Pending t s.dev.arg.a { cause := q, loc := BitVec.ofNat 8 s.dev.arg.b, w3 := BitVec.ofNat 64 k }
      let rows := shareR tl.width * tl.m
      let cols := shareC tl.width * tl.n
      let cell := fun (r c : Nat) => tl.cells.getD (r * cols + c) 0#32
      let unit := (f.x.extractLsb' 17 3).toNat
      let now := x.counter u unit
      (StepReady s x b u m (.mcfg f) →
        let shape : Tile := { m := [16, 32].getD (f.x.extractLsb' 18 2).toNat 48, n := [32, 64].getD (f.x.extractLsb' 16 2).toNat 96,
                              i32 := decide (f.cf = 1#2), width := u.width, live := false, cells := [] }
        let same := tl.m = shape.m ∧ tl.n = shape.n ∧ tl.i32 = shape.i32 ∧ tl.width = shape.width
        (same → f.x.getLsbD 0 = false → starts (.mcfg f) u.tiles m.toks m.ctr) ∧
        (¬same → tl.live = true → f.x.getLsbD 0 = false → faults .tileLive) ∧
        ((¬same ∧ tl.live = false) ∨ f.x.getLsbD 0 = true → starts (.mcfg f) (u.tiles.set k shape) m.toks m.ctr)) ∧
      (StepReady s x b u m (.mzero f) →
        (tl.live = true → tl.width ≠ u.width → faults .matrixShape) ∧
        (tl.live = false ∨ tl.width = u.width →
          starts (.mzero f) (u.tiles.set k { tl with width := u.width, live := true, cells := [] }) m.toks m.ctr)) ∧
      (StepReady s x b u m (.mctr f) →
        starts (.mctr f) u.tiles m.toks (some (unit, ⟨(f.x.extractLsb' 10 7).toNat + 1, (f.x.extractLsb' 0 10).toNat, 0⟩))) ∧
      (StepReady s x b u m (.mbound f) →
        starts (.mbound f) u.tiles m.toks (some (unit,
          if f.x.getLsbD 16 then { now with rowtrip := max 1 (min 1023 m.a.toNat) } else { now with ktrip := max 1 (min 64 m.a.toNat) }))) ∧
      (StepReady s x b u m (.mrow f) →
        let r := if f.x.getLsbD 0 then (m.a.extractLsb' 0 8).toNat else (f.x.extractLsb' 12 8).toNat
        let g := if f.x.getLsbD 0 then (m.a.extractLsb' 8 5).toNat else (f.x.extractLsb' 7 5).toNat
        (rows ≤ r ∨ cols / 16 ≤ g → faults .matrixShape) ∧
        (r < rows → g < cols / 16 → ∃ tok, starts (.mrow f) u.tiles [(f.t0, tok)] m.ctr ∧ Lanes16 tok (fun j => cell r (16 * g + j)))) ∧
      (StepReady s x b u m (.mred f) →
        let blk := (f.x.extractLsb' 12 8).toNat
        let op := (f.x.extractLsb' 0 2).toNat
        let line := fun (j : Nat) => (List.range cols).map (cell (16 * blk + j))
        (rows / 16 ≤ blk → faults .matrixShape) ∧
        (blk < rows / 16 → ∃ tok, starts (.mred f) u.tiles [(f.t0, tok)] m.ctr ∧
          (tl.i32 = false → Lanes16 tok (fun j => BitVec.ofNat 32 (redRow false op (line j)).1)) ∧
          (tl.i32 = true → op = 0 → Lanes16 tok (fun j => BitVec.ofInt 32 ((line j).map BitVec.toInt).sum)) ∧
          (tl.i32 = true → op ≠ 0 → 0 < cols → ∃ v : Vec, tok = .val v ∧ ∀ j < 16, elem 32 v j ∈ line j ∧
            ∀ c ∈ line j, if op = 1 then c.toInt ≤ (elem 32 v j).toInt else (elem 32 v j).toInt ≤ c.toInt)))) ∧
  (∀ (f : FmtN) (s : State) (x : Inst) (b : Block) (u : Thread) (m : MStep),
      let iid := s.dev.arg.a
      let idx := s.dev.arg.b
      let k := f.tile.toNat
      let tl := tileOf u k
      let a := m.a.toNat
      let pitch := (f.x.extractLsb' 0 16).toNat
      let rows := shareR tl.width * tl.m
      let cols := shareC tl.width * tl.n
      let lines := (List.range rows).map (fun r => (a + 4 * pitch * r, 4 * cols))
      let placed := a % 64 = 0 ∧ a < 2 ^ 57 ∧ cols ≤ pitch ∧ pitch % 16 = 0 ∧ s.toW.isLocal a = true
      let one := fun (n : Nat) => [(f.t0, Tok.val (everyLane (BitVec.ofNat 64 n)))]
      let holds := fun (t : State) (toks : List (Target × Tok)) (locks : List Nat) => ∃ y, t.dev.inst iid = some y ∧
        ∃ m' ∈ y.msteps, m'.idx = idx ∧ m'.st = .started ∧ m'.toks = toks ∧ m'.locks = locks
      (StepReady s x b u m (.mld f) → tl.width = u.width → placed →
        ∀ w ls w' cs, s.toW.checkPages u.first u.ctx (s.dev.rnumOf u) rR lines = (.ok ls, w) →
          (w.lockAll ls).loadCells x u 32 (lines.flatMap (fun r => addrs r.1 r.2)) = (.ok cs, w') →
          ∃ t v, exec .matrixStepStart s = .next t ∧ t.mem = s.mem.writeAll w'.ov.reverse ∧ t.dev.thr x.thr = some v ∧ holds t (one 1) ls ∧
            (tileOf v k).live = true ∧ ∀ i < rows, ∀ j < cols, (tileOf v k).cells.getD (i * cols + j) 0#32 =
              BitVec.ofNat 32 (ofBytes ((List.range 4).map (fun q => (cs.getD (4 * (i * cols + j) + q) (0, 0#8)).2)))) ∧
      (StepReady s x b u m (.mst f) → placed →
        ∀ w ls, s.toW.checkPages u.first u.ctx (s.dev.rnumOf u) rW lines = (.ok ls, w) →
          (∀ y ∈ s.dev.insts, y.2.thr = x.thr → x.seq < y.2.seq → ∀ q ∈ y.2.accs, q.isStore = true) →
          ∃ t v, exec .matrixStepStart s = .next t ∧ t.mem = s.mem.writeAll (w.lockAll ls).ov.reverse ∧ t.dev.thr x.thr = some v ∧
            holds t (one 1) ls ∧ (tileOf v k).live = (tl.live && !f.x.getLsbD 16) ∧
            ∃ y, t.dev.inst iid = some y ∧ ∃ m' ∈ y.msteps, m'.idx = idx ∧ ∀ i < rows, ∀ j < cols, ∀ q < 4,
              cellAt m'.out (a + 4 * (pitch * i + j) + q) = some ((tl.cells.getD (i * cols + j) 0#32).extractLsb' (8 * q) 8)) ∧
      (StepReady s x b u m (.wbload f) → f.sparse = 0#2 → a % 256 = 0 → a < 2 ^ 57 → s.toW.isLocal a = true →
        let n := 256 * ((f.x.extractLsb' 0 8).toNat + 1)
        let off := m.b.toNat
        s.mem.wf = true → off + n ≤ 524288 → n % 96 = 0 → off % 96 = 0 → u.width = 1 →
        ∀ w ls w' cs, s.toW.checkPages u.first u.ctx (s.dev.rnumOf u) rR [(a, n)] = (.ok ls, w) →
          (w.lockAll ls).loadCells x u 32 (addrs a n) = (.ok cs, w') →
          ∃ t, exec .wbloadStepStart s = .next t ∧ holds t (one n) ls ∧
            (∀ j < n, t.mem.read (wbKey u.first (off + j)) = (cs.getD j (0, 0#8)).2) ∧
            (∀ j < n / 32, (t.dev.grid u.first).wtags.look (off / 32 + j) = some (.full (tyBits f.bf) 0))) ∧
      (s.dev.stepAt iid idx .waiting = none → exec .matrixStepStart s = .next s ∧ exec .wbloadStepStart s = .next s) ∧
      (∀ i, s.dev.stepAt iid idx .waiting = some (x, b, u, m, i) →
        (s.dev.arrayIdle u = false ∨ x.pend.isSome = true ∨ s.dev.eligible x b idx (matrixRes i) = false ∨
          (∃ p ∈ s.dev.instsOf x.thr, ∃ n ∈ p.2.msteps, s.dev.stepBefore p.2 n x m = true ∧ ∃ c j, p.2.code = some c ∧
            c.instr n.idx = some j ∧ s.dev.stepReady p.1 p.2 c u n j = true ∧ s.toW.stepHeld p.1 p.2 c u n j = false)) →
        pairTile i = none → exec .matrixStepStart s = .next s ∧ exec .wbloadStepStart s = .next s) ∧
      (∀ i, s.dev.stepAt iid idx .started = some (x, b, u, m, i) → x.dying = false → x.pend = none → m.late = none → m.locks = [] →
        ∃ t, exec .matrixStepFinish s = .next t ∧ t.mem = s.mem ∧
          t.dev.flight = s.dev.flight ++ (m.toks.filter (fun p => tgtKind p.1 != 0)).map (fun p => ⟨iid, some idx, p.1, p.2⟩) ∧
          ∃ y, t.dev.inst iid = some y ∧ (∀ m' ∈ y.msteps, m'.idx = idx → m'.st = .done) ∧ y.effs = x.effs ∧ y.fired = x.fired))

/-- Traverse sets and their records.
(1) 17 R456, R459, R464: `trvopen` ends with the first of the statuses 3 (the descriptor), 5 (a right), 3 (the stage table)
  and 4 (no set number); a fault or an absent page of the record area stops it; and else it locks the record area and keeps
  the set, whose seed of 0 is taken as 1, for its commit, with the handle that it will have.
(2) 17 R455, R459, R465-R470: `trvput` refuses a set that is stale or takes no more records with 2 and a bad header with 3,
  waits for a slot, and else reserves the lowest. `trvtake` in the oldest instance reserves the oldest record of a stage,
  acquires, and sends its first 64 bytes with the info token; 2 for a set that is not there or CLOSED, 3 for a stage that it
  does not have. `trvdone` gives the verdict on the taken record that its info token names, and 2 on any other; a drop at a
  stage that is no FILTER is TRAVERSE_CONFIG. `trvclose` closes at its commit. `trvstat` sends one item, and 0 for a stale
  handle. -/
def Obligations.TraverseSets : Prop :=
  (∀ (f : FmtQ) (s : State) (c : Firing) (u : Thread), Fires f.pr s c → s.dev.thr c.x.thr = some u → Live s u →
      let v := c.ops.va
      let l := fun (j : Nat) => (elem 64 v j).toNat
      let n := l 1 % 2 ^ 17
      let count := l 1 / 2 ^ 20 % 16 + 1
      let ends := fun (w : W) (st : Nat) => ∃ t, exec (.trvopen f) s = .next t ∧ Touched s t c (s.mem.writeAll w.ov.reverse) []
        [(f.t0, Tok.null), (f.t1, .val (everyLane (BitVec.ofNat 64 st)))]
      (¬ValidSet s.toW v → ends s.toW 3) ∧
      (ValidSet s.toW v →
        (∀ w, s.toW.rightsAll u.first u.ctx 2 (l 0) (256 * n) = (false, w) → ends w 5) ∧
        (∀ w1, s.toW.rightsAll u.first u.ctx 2 (l 0) (256 * n) = (true, w1) →
          (∀ w, w1.rightsAll u.first u.ctx 2 (l 2) (32 * count) = (false, w) → ends w 5) ∧
          (∀ w2, w1.rightsAll u.first u.ctx 2 (l 2) (32 * count) = (true, w2) →
            (∀ w, w2.stageTable c u (l 2) count = .ok (none, w) → ends w 3) ∧
            (∀ stages w3, w2.stageTable c u (l 2) count = .ok (some stages, w3) →
              (s.dev.freeSet u.ctx = none → ends w3 4) ∧
              (∀ num, s.dev.freeSet u.ctx = some num →
                (∀ q x w, w3.checkPages u.first u.ctx 0 rW [(l 0, 256 * n)] = (.fault q x, w) → c.x.pend = none →
                  ∃ t, exec (.trvopen f) s = .next t ∧ Pending t c.iid (pendAt c q x 1 0)) ∧
                (∀ leaves w4, w3.checkPages u.first u.ctx 0 rW [(l 0, 256 * n)] = (.ok leaves, w4) →
                  let seed := (elem 64 v 1).extractLsb' 32 32
                  let set : TSet := { st := .opened, tgen := (((s.dev.ctx u.ctx).tset num).tgen + 1) % 2 ^ 32, base := l 0, nslots := n,
                                      nwin := l 1 / 2 ^ 24 % 32, lfsr := if seed = 0#32 then 1#32 else seed, stages := stages,
                                      home := fieldOf u.first, gid := u.gid, locks := leaves }
                  ∃ t, exec (.trvopen f) s = .next t ∧ Touched s t c (s.mem.writeAll (w4.lockAll leaves).ov.reverse) [.trvopen num set]
                    [(f.t0, .val (everyLane (BitVec.ofNat 64 (num % 16 + set.tgen * 2 ^ 10)))), (f.t1, .val (everyLane 0#64))]))))))) ∧
  (∀ (f : FmtQ) (s : State) (c : Firing) (u : Thread), Fires f.pr s c → s.dev.thr c.x.thr = some u → Live s u →
      let a := argA c
      let b := c.ops.vb.extractLsb' 0 64
      let answers := fun (i : Instr) (es : List Eff) (toks : List (Target × Tok)) => ∃ t, exec i s = .next t ∧ Answered s t c es toks
      (s.dev.tsetFor u.ctx c.x b.toNat = none → answers (.trvput f) [] (statuses f 2)) ∧
      (∀ n q, s.dev.tsetFor u.ctx c.x b.toNat = some (n, q) →
        let rest := c.ops.vc.extractLsb' 0 64
        let len := (a.extractLsb' 9 2).toNat
        let late := timeoutAt c .queueTimeout b (s.dev.freeTslots u.ctx n q * 2 ^ 16)
        (q.st ≠ .opened → q.st ≠ .running → answers (.trvput f) [] (statuses f 2)) ∧
        (q.st = .opened ∨ q.st = .running →
          (¬ValidHead c a rest → answers (.trvput f) [] (statuses f 3)) ∧
          (ValidHead c a rest → len = 0 →
            (s.dev.freeTslot u.ctx n q = none → Waits (.trvput f) s c u f.limit (traps f) (0xE5, b) late (statuses f 1)) ∧
            (∀ i, s.dev.freeTslot u.ctx n q = some i → s.dev.waitBefore c u (0xE5, b) = false →
              answers (.trvput f) [.trvput n q.tgen i c.ops.va rest.toNat 0] (statuses f 0))) ∧
          (ValidHead c a rest → len ≠ 0 →
            (∀ e w, s.toW.check u rR rest.toNat (64 * len) 64 = (.fault e, w) → Stops (.trvput f) s c (pendAt c e rest.toNat 0 0)) ∧
            (∀ w k1 k2 w1 w2 w3 w4 i, s.toW.check u rR rest.toNat (64 * len) 64 = (.ok, w) → w.probe u rest.toNat = (.ok k1 w1, w2) →
              w.probe u (rest.toNat + 64 * len - 1) = (.ok k2 w3, w4) → s.dev.freeTslot u.ctx n q = some i →
              s.dev.waitBefore c u (0xE5, b) = false →
              ∃ t, exec (.trvput f) s = .next t ∧ Touched s t c s.mem [.trvput n q.tgen i c.ops.va rest.toNat len] (statuses f 0))))) ∧
      (s.dev.isOldest c.x = false → exec (.trvtake f) s = .next s) ∧
      (s.dev.isOldest c.x = true →
        let k := (f.imm.extractLsb' 1 3).toNat
        (s.dev.tsetFor u.ctx c.x a.toNat = none → answers (.trvtake f) [] (nothing f 2)) ∧
        (∀ n q, s.dev.tsetFor u.ctx c.x a.toNat = some (n, q) →
          let queued := (q.stage k).fifo.filter (fun i => !(s.dev.takenResv u.ctx n q.tgen k).contains i)
          (q.st = .closed → answers (.trvtake f) [] (nothing f 2)) ∧
          (q.st ≠ .closed → q.stages.length ≤ k → answers (.trvtake f) [] (nothing f 3)) ∧
          (q.st ≠ .closed → k < q.stages.length →
            (queued = [] → Waits (.trvtake f) s c u f.limit (traps f) (0xE600 + k, a)
              (timeoutAt c .queueTimeout a (k + s.dev.freeTslots u.ctx n q * 2 ^ 16)) (nothing f 1)) ∧
            (∀ i j r bs w, queued = i :: j → q.slots.look i = some r → s.dev.waitBefore c u (0xE600 + k, a) = false → NoYoungLoad s c →
              (s.toW.acquireFire c u 2).readHome u.ctx (s.dev.rnumOf u) (q.base + 256 * i) 64 = (.ok bs, w) →
              ∃ v : Vec, (∀ p < 64, byteAt v p = bs.getD p 0#8) ∧ ∃ t, exec (.trvtake f) s = .next t ∧
                Received s t c u (s.mem.writeAll w.ov.reverse) [.trvtake n q.tgen k i]
                  [(f.t0, .val v), (f.t1, .val (0#256 ++ BitVec.ofNat 64 (i % 2 ^ 16 + k % 8 * 2 ^ 16 + r.seq % 2 ^ 32 * 2 ^ 32) ++
                    BitVec.ofNat 64 (q.base + 256 * i) ++ a ++ 0#64))])))) ∧
      (s.dev.trvTaken u.ctx c.x c.ops.va = none →
        answers (.trvdonePass f) [] (statuses f 2) ∧ answers (.trvdoneDrop f) [] (statuses f 2)) ∧
      (∀ n q i m k, s.dev.trvTaken u.ctx c.x c.ops.va = some (n, q, i, m, k) →
        answers (.trvdonePass f) [.trvdone n q.tgen i m k false] (statuses f 0) ∧
        ((q.stage k).kind = 0 → answers (.trvdoneDrop f) [.trvdone n q.tgen i m k true] (statuses f 0)) ∧
        ((q.stage k).kind ≠ 0 → Stops (.trvdoneDrop f) s c
          (pendAt c .traverseConfig 0 (elem 64 c.ops.va 1).toNat (elem 64 c.ops.va 3).toNat))) ∧
      ((s.dev.tsetFor u.ctx c.x a.toNat = none ∨ ∃ n q, s.dev.tsetFor u.ctx c.x a.toNat = some (n, q) ∧ q.st = .closed) →
        answers (.trvcloseDrain f) [] (statuses f 2) ∧ answers (.trvcloseAbort f) [] (statuses f 2)) ∧
      (s.dev.tsetFor u.ctx c.x a.toNat = none → answers (.trvstat f) [] (statuses f 0)) ∧
      (∀ n q, s.dev.tsetFor u.ctx c.x a.toNat = some (n, q) →
        (q.st ≠ .closed → answers (.trvcloseDrain f) [.trvclose n q.tgen false] (statuses f 0) ∧
          answers (.trvcloseAbort f) [.trvclose n q.tgen true] (statuses f 0)) ∧
        (let item := fun (j v : Nat) => f.sub.toNat = j → answers (.trvstat f) [] (statuses f v)
         item 0 (tstateCode q.st + q.stages.length % 16 * 2 ^ 8 + q.slots.length * 2 ^ 16) ∧
         item 4 q.lfsr.toNat ∧ item 5 (q.done + q.dropped * 2 ^ 32) ∧
         (∀ g, q.stages[(f.imm.extractLsb' 0 3).toNat]? = some g →
           item 1 g.pass16 ∧ item 2 (g.fifo.length + g.taken.length) ∧
           item 3 (max 1 ((65536 - g.pass16) * 256 / (g.fifo.length + g.taken.length + 1)))))))

/-- Heat, current, clocks and power.
(1) 02 R43, R44, R51, 13 R376: a grid above THERM_THR is hot. A hot grid disables its highest occupied slot; a disabled slot's
  thread moves, at a block boundary outside every resident loop, to a set of its own width whose grids are not hot and that
  keeps every share of a live tile (R44), or waits in DISPLACED; under THERM_HA it waits for the set that the controller
  names. Enabled again where it is, it goes to FETCH (log 92, the model's choice). 5 degrees below the threshold the lowest
  disabled slot is enabled again. The ranking lists a field's grids that are not hot, the coolest first.
(2) 23 R513-R518: field current, clocks and power. A sample takes the limit written before it, keeps the peak, and counts
  over-limit microseconds: ten in a row throttle the field, and it goes on below 95 % of the limit. Above 1,300 A the field
  loses its power, and the contexts that hold a grid of it are FAULTED. A droop unlocks the field's PLL. A junction at 115
  degrees, or a power-down, leaves the state after reset; an orderly power-down stores the lifetime record, and the firmware
  minimum stays (log 39). -/
def Obligations.HeatAndPower : Prop :=
  (∀ (s : State),
      let a := s.dev.arg.a
      let b := s.dev.arg.b
      let gr := s.dev.grid a
      let others := fun (t : State) => t.mem = s.mem ∧ t.mgmt = s.mgmt ∧ t.dev.threads = s.dev.threads ∧ t.dev.insts = s.dev.insts ∧
        ∀ j, j ≠ a → t.dev.grid j = s.dev.grid j
      (∃ t, exec .thermalThreshold s = .next t ∧ others t ∧ (t.dev.grid a).temp = b ∧ (t.dev.grid a).slots = gr.slots ∧
        ((t.dev.grid a).hot = true ↔ gr.hot = true ∨ s.mgmt.thermThr < b)) ∧
      (gr.hot = false ∨ gr.hotSlot = none → exec .thermalSlotDisable s = .next s) ∧
      (∀ k tid u, gr.hot = true → gr.hotSlot = some k → (gr.slots.get k {}).thr = some tid → s.dev.thr tid = some u → (a, k) ∈ u.slots →
        ((gr.slots.get k {}).disabled = false ∧ ∀ j < 8, k < j → (gr.slots.get j {}).thr = none ∨ (gr.slots.get j {}).disabled = true) ∧
        (s.dev.atBoundary tid u = false →
          ∃ t, exec .thermalSlotDisable s = .next t ∧ others t ∧ ((t.dev.grid a).slots.get k {}).disabled = true ∧
            ∀ j, j ≠ k → (t.dev.grid a).slots.get j {} = gr.slots.get j {})) ∧
      (s.mgmt.thermThr < b + 5 → ∃ t, exec .thermalSlotEnable s = .next t ∧ others t ∧ (t.dev.grid a).slots = gr.slots ∧ (t.dev.grid a).hot = gr.hot) ∧
      (b + 5 ≤ s.mgmt.thermThr → ∃ t, exec .thermalSlotEnable s = .next t ∧ others t ∧
        (∀ k < 8, (gr.slots.get k {}).disabled = true → (∀ j < k, (gr.slots.get j {}).disabled = false) →
          ((t.dev.grid a).slots.get k {}).disabled = false ∧ (∀ j, j ≠ k → (t.dev.grid a).slots.get j {} = gr.slots.get j {})) ∧
        ((t.dev.grid a).hot = true ↔ ∃ k < 8, ((t.dev.grid a).slots.get k {}).disabled = true)) ∧
      (∀ u, s.dev.thr a = some u → s.dev.slotDisabled u = true →
        (s.dev.atBoundary a u = false → exec .displacedMove s = .next s) ∧
        (s.dev.atBoundary a u = true → (∀ q ∈ s.dev.insts, q.2.thr ≠ a) → (s.dev.bctl u.ctx).getLsbD 27 = false →
          (s.dev.displaceSets a u = [] → ∃ t v, exec .displacedMove s = .next t ∧ t.mem = s.mem ∧ t.dev.thr a = some v ∧ archOf v = archOf u ∧
            v.st = .displaced ∧ v.slots = u.slots ∧ t.dev.grids = s.dev.grids) ∧
          (∀ first slots rest, s.dev.displaceSets a u = (first, slots) :: rest →
            ((∀ q ∈ setGrids first u.width, (s.dev.grid q).hot = false) ∧ u.tileLost (setGrids first u.width) = none) ∧
            ∃ t v, exec .displacedMove s = .next t ∧ t.dev.thr a = some v ∧ v.regs = u.regs ∧ v.flags = u.flags ∧ v.st = .fetch ∧
              v.first = first ∧ v.width = u.width ∧ v.slots = slots)) ∧
        (s.dev.atBoundary a u = true → (∀ q ∈ s.dev.insts, q.2.thr ≠ a) → (s.dev.bctl u.ctx).getLsbD 27 = true → s.dev.displaceSets a u ≠ [] →
          (∀ p ∈ s.dev.displaceSets a u, p.1 + 1 ≠ b) → exec .displacedMove s = .next s)) ∧
      (∀ u, s.dev.thr a = some u → s.dev.slotDisabled u = false → u.st = .displaced →
        ∃ t v, exec .displacedMove s = .next t ∧ t.mem = s.mem ∧ t.dev.thr a = some v ∧ archOf v = archOf u ∧ v.st = .fetch ∧ v.slots = u.slots) ∧
      (s.dev.thr a = none → exec .displacedMove s = .next s) ∧
      (∃ t, exec .thermalRankingRefresh s = .next t ∧ t.mem = s.mem ∧ t.dev.threads = s.dev.threads ∧
        (let l := (t.dev.field a).ranking
         let at_ := fun (o : Nat) => t.dev.grid (a * 56 + o)
         (∀ o, o ∈ l ↔ o < 56 ∧ (at_ o).hot = false) ∧ l.Nodup ∧ l.Pairwise (fun x y => (at_ x).temp ≤ (at_ y).temp)) ∧
        (s.dev.arg.ns.length = 56 → ∀ o < 56, (t.dev.grid (a * 56 + o)).temp = s.dev.arg.ns.getD o 0) ∧
        (s.dev.arg.ns.length ≠ 56 → t.dev.grids = s.dev.grids))) ∧
  (∀ (s : State),
      let f := s.dev.arg.a % 8
      let b := s.dev.arg.b
      let quiet := fun (t : State) => t.mem = s.mem ∧ t.dev.threads = s.dev.threads ∧ t.dev.ctxs = s.dev.ctxs ∧ t.dev.insts = s.dev.insts
      (∃ t, exec .islIlimWrite s = .next t ∧ t.dev = s.dev ∧ t.mem = s.mem ∧ t.mgmt = { s.mgmt with ilimNext := t.mgmt.ilimNext } ∧
        t.mgmt.ilimNext.look f = some (max 100 (min 1200 (b % 2048))) ∧ ∀ g, g ≠ f → t.mgmt.ilimNext.look g = s.mgmt.ilimNext.look g) ∧
      (∃ t, exec .islImeasRead s = .next t ∧ t.dev = s.dev ∧ t.mem = s.mem ∧ t.mgmt = { s.mgmt with peak := t.mgmt.peak } ∧ t.mgmt.peak.get f 0 = 0 ∧
        ∀ g, g ≠ f → t.mgmt.peak.get g 0 = s.mgmt.peak.get g 0) ∧
      (∃ t, exec .imeasSample s = .next t ∧
        (let i := min b 2047
         let limit := (s.mgmt.ilimNext.look f).getD (s.mgmt.limit f)
         let q := s.dev.field f
         t.mgmt.limit f = limit ∧ t.mgmt.ilimNext.look f = none ∧ t.mgmt.imeas.get f 0 = i ∧ t.mgmt.peak.get f 0 = max i (s.mgmt.peak.get f 0) ∧
         (i ≤ 1300 → quiet t ∧ (t.dev.field f).powered = q.powered ∧
           (t.dev.field f).overCount = (if limit < i then min 10 (q.overCount + 1) else 0) ∧
           ((t.dev.field f).throttled = true ↔ (limit < i ∧ 9 ≤ q.overCount) ∨ (95 * limit ≤ 100 * i ∧ q.throttled = true))) ∧
         (1300 < i → (t.dev.field f).powered = false ∧ (t.dev.field f).pllLocked = false ∧ (t.dev.field f).cut = true ∧ t.dev.life.trips = s.dev.life.trips + 1 ∧
           ∀ c k, s.dev.ctxs.look c = some k → k.st ≠ .faulted → k.st ≠ .killed → (∃ g ∈ k.parcel, fieldOf g = f) → (t.dev.ctx c).st = .faulted))) ∧
      (∃ t, exec .voltageDroop s = .next t ∧ quiet t ∧ t.mgmt = s.mgmt ∧ (t.dev.field f).pllLocked = false ∧
        (let k := 8 * f + min 7 (b / 10)
         t.dev.life.droops.get k 0 = min (2 ^ 32 - 1) (s.dev.life.droops.get k 0 + 1) ∧
         ∀ j, j ≠ k → t.dev.life.droops.get j 0 = s.dev.life.droops.get j 0)) ∧
      ((s.dev.field f).powered = false → exec .pllLock s = .next s) ∧
      ((s.dev.field f).powered = true → ∃ t, exec .pllLock s = .next t ∧ quiet t ∧ t.mgmt = s.mgmt ∧
        t.dev.field f = { s.dev.field f with pllLocked := true, lockAt := s.dev.cycle }) ∧
      (b < 115 → exec .thermalTrip s = .next s) ∧
      (let off := fun (t : State) => t.mem = s.mem ∧ t.mgmt = { State.reset.mgmt with fwMin := s.mgmt.fwMin } ∧ t.dev.threads = [] ∧ t.dev.insts = [] ∧
         t.dev.ctxs = State.reset.dev.ctxs ∧ t.dev.grids = State.reset.dev.grids ∧ t.dev.fields = State.reset.dev.fields
       (115 ≤ b → ∃ t, exec .thermalTrip s = .next t ∧ off t ∧ t.dev.life = s.dev.lifeStored) ∧
       ∃ t, exec .powerDown s = .next t ∧ off t ∧ t.dev.life = s.dev.life ∧ t.dev.lifeStored = s.dev.life))

/-- The ports, and what the host does through CXL.
(1) 18 R473, R477-R480, R482, R484: the events of a port. A flit that is out of sequence or whose CRC is wrong is refused;
  eight refusals of one flit make the port retrain. A flit for another package goes on; an answer that nothing waits for is
  LATE and dropped; a write seen before is dropped. Training ends in UP with four lanes, DEGRADED with fewer, and FAILED at
  the third attempt without one. A port is enabled, disabled, isolated and released by the host. A request without an answer
  ends after LNK_TMO with LINK_LOST; one of a context in GATING makes it FAULTED (10 R296). What a flit carries beside its
  fields is told by the event (log 33).
(2) 09 R278, 11 R324, 16 R440, 18 R475, R476, 19 R499, 23 R517: the host. A snoop writes back and drops the lines of the
  window under it. A read or a write through CXL.mem before the L2 is ready is answered by all ones or dropped, and counted.
  The host may hold a line it has read. A write to a code page or a REVISED page is dropped and counted. A back-invalidate
  snoop that completes performs the writes that waited for its line. Addresses are the device's own (log 34). -/
def Obligations.LinksAndHost : Prop :=
  (∀ (s : State),
      let e := s.dev.arg
      let a := e.a
      let q := s.dev.port a
      let frame := fun (t : State) => t.mem = s.mem ∧ t.mgmt = s.mgmt ∧ t.dev.threads = s.dev.threads ∧ t.dev.ctxs = s.dev.ctxs ∧ t.dev.insts = s.dev.insts
      let others := fun (t : State) => ∀ p, p ≠ a → t.dev.port p = s.dev.port p
      let good := Config.flitCrc (e.v.extractLsb' 0 960) = e.v.extractLsb' 960 64 ∧ (e.v.extractLsb' 8 8).toNat = q.recvSeq
      let next := fun (r : Port) => r.recvSeq = (q.recvSeq + 1) % 256 ∧ r.refusals = 0 ∧ r.st = q.st ∧ r.acked = (e.v.extractLsb' 16 8).toNat
      (q.usable = false → q.st ≠ .isolated → exec .flitReceive s = .next s) ∧
      (q.usable = true → ¬good → ∃ t, exec .flitReceive s = .next t ∧ frame t ∧ others t ∧ (t.dev.port a).replays = q.replays + 1 ∧
        (q.refusals = 7 → (t.dev.port a).st = .training ∧ (t.dev.port a).retrains = q.retrains + 1 ∧ (t.dev.port a).refusals = 0 ∧
          t.dev.life.retrains.get a 0 = s.dev.life.retrains.get a 0 + 1) ∧
        (q.refusals ≠ 7 → (t.dev.port a).st = q.st ∧ (t.dev.port a).refusals = q.refusals + 1)) ∧
      (q.usable = true → good → (e.v.extractLsb' 24 8).toNat = s.mgmt.domId →
        let mine := fun (r : Remote) => r.tag % 2 ^ 24 = (e.v.extractLsb' 40 24).toNat ∧ r.member = (e.v.extractLsb' 32 8).toNat
        let key := ((e.v.extractLsb' 32 8).toNat, (e.v.extractLsb' 40 24).toNat)
        (e.b ≠ 1 → e.b ≠ 2 → ∃ t, exec .flitReceive s = .next t ∧ frame t ∧ others t ∧ next (t.dev.port a)) ∧
        (e.b = 1 → (∃ r ∈ s.dev.remotes, mine r) → ∃ t, exec .flitReceive s = .next t ∧ frame t ∧ others t ∧ next (t.dev.port a) ∧
          (t.dev.port a).late = q.late ∧ (∀ r, r ∈ t.dev.remotes ↔ r ∈ s.dev.remotes ∧ ¬mine r)) ∧
        (e.b = 1 → (∀ r ∈ s.dev.remotes, ¬mine r) → ∃ t, exec .flitReceive s = .next t ∧ frame t ∧ others t ∧ next (t.dev.port a) ∧
          (t.dev.port a).late = q.late + 1 ∧ t.dev.remotes = s.dev.remotes) ∧
        (e.b = 2 → key ∈ s.dev.seenTags → ∃ t, exec .flitReceive s = .next t ∧ frame t ∧ others t ∧ next (t.dev.port a)) ∧
        (e.b = 2 → key ∉ s.dev.seenTags → ∃ t, exec .flitReceive s = .next t ∧ others t ∧ next (t.dev.port a) ∧ t.dev.seenTags = key :: s.dev.seenTags ∧
          (let cs := cellsAt e.c e.bytes
           let d := ({ s.dev with seenTags := key :: s.dev.seenTags } : Dev).modPort a (fun r =>
             { r.acknowledge (e.v.extractLsb' 16 8).toNat with recvSeq := (r.recvSeq + 1) % 256, refusals := 0 })
           let w := (linesOf cs).foldl (fun (w : W) l => if (w.d.l2Find l).isSome then w else w.touchIn (18 + a) (32 * l)) { s.toW with d := d }
           t.mem = s.mem.writeAll (w.pkgWrite (w.d.regionCtx e.c) 0 cs).ov.reverse))) ∧
      (q.usable = true → good → (e.v.extractLsb' 24 8).toNat ≠ s.mgmt.domId →
        (s.dev.forward e.v = none → exec .flitReceive s = .next s) ∧
        (∀ d, s.dev.forward e.v = some d → ∃ t, exec .flitReceive s = .next t ∧ frame t ∧ (t.dev.port a).recvSeq = ((d.port a).recvSeq + 1) % 256)) ∧
      (q.st ≠ .training → exec .portTrainingDone s = .next s) ∧
      (q.st = .training → ∃ t, exec .portTrainingDone s = .next t ∧ others t ∧ t.mgmt = s.mgmt ∧ t.dev.threads = s.dev.threads ∧
        (let r := t.dev.port a
         (4 ≤ e.b → r.st = .up ∧ r.lanes = 4) ∧ (e.b = 2 ∨ e.b = 3 → r.st = .degraded ∧ r.lanes = 2) ∧ (e.b = 1 → r.st = .degraded ∧ r.lanes = 1) ∧
         (e.b ≠ 0 → r.peer = e.c % 256 ∧ r.attempts = 0 ∧ t.mem = s.mem) ∧
         (e.b = 0 → r.attempts = q.attempts + 1 ∧ (q.attempts < 2 → r.st = .training ∧ t.mem = s.mem) ∧
           (2 ≤ q.attempts → r.st = .failed ∧ t.dev.notifyIdx = s.dev.notifyIdx + 1)))) ∧
      (q.st ≠ .up → exec .laneErrorDegrade s = .next s) ∧
      (q.st = .up → ∃ t, exec .laneErrorDegrade s = .next t ∧ frame t ∧ others t ∧
        t.dev.port a = { q with st := .degraded, lanes := if e.b = 1 then 1 else 2 }) ∧
      (a < 48 → q.st = .down → ∃ t, exec .portEnable s = .next t ∧ frame t ∧ others t ∧
        t.dev.port a = { q with st := .training, attempts := 0, refusals := 0 }) ∧
      (q.st ≠ .down → exec .portEnable s = .next s) ∧
      (q.st = .isolated → ∃ t, exec .release s = .next t ∧ frame t ∧ others t ∧ t.dev.port a = { q with st := .training, attempts := 0, refusals := 0 }) ∧
      (q.st ≠ .isolated → exec .release s = .next s) ∧
      (a < 48 → ∃ t, exec .portDisable s = .next t ∧ frame t ∧ (t.dev.port a).st = .down ∧ (t.dev.port a).lanes = 0 ∧ (t.dev.port a).replay = [] ∧
        (q.replay = [] → others t)) ∧
      (q.usable = true ∨ q.st = .training → ∃ t, exec .isolate s = .next t ∧ frame t ∧ (t.dev.port a).st = .isolated ∧ (t.dev.port a).replay = [] ∧
        (q.replay = [] → others t)) ∧
      (q.usable = false → q.st ≠ .training → exec .isolate s = .next s) ∧
      ((∀ r ∈ s.dev.remotes, (∃ l cs, r.kind = .snoop l cs) ∨ s.dev.now < r.since + 1000 * s.mgmt.lnkTmo) → exec .linkTimeout s = .next s) ∧
      (∀ r, s.dev.remotes.find? s.toW.overdue = some r → ∃ t, exec .linkTimeout s = .next t ∧ t.dev.remotes = s.dev.remotes.erase r ∧
        (∀ j idx x, r.kind = .access j idx → (s.dev.ctx r.ctx).st ≠ .gating → s.dev.inst j = some x → x.pend = none → t.mem = s.mem ∧ ∃ y p, t.dev.inst j = some y ∧ y.pend = some p ∧
          p.cause = .linkLost ∧ p.loc = BitVec.ofNat 8 idx ∧ p.w2 = BitVec.ofNat 64 r.tag) ∧
        (∀ k, r.kind = .copy k → (s.dev.ctx r.ctx).st ≠ .gating → t.mem = s.mem ∧ ∀ c ∈ t.dev.copies, c.key = k → c.status = some 4) ∧
        ((s.dev.ctx r.ctx).st = .gating → (t.dev.ctx r.ctx).st = .faulted ∧ (t.dev.ctx r.ctx).owes = none ∧
          t.dev.notifyIdx = s.dev.notifyIdx + 1)) ∧
      (s.toW.grandmaster = s.mgmt.domId → exec .ptpSync s = .next { s with dev := { s.dev with ptpOff := 0, slew := 0 } }) ∧
      (s.toW.grandmaster ≠ s.mgmt.domId → s.mgmt.stat.getLsbD 7 = false →
        exec .ptpSync s = .next { s with dev := { s.dev with ptpOff := e.z, slew := 0, now := ((s.dev.now : Int) - e.z).toNat } }) ∧
      (s.toW.grandmaster ≠ s.mgmt.domId → s.mgmt.stat.getLsbD 7 = true → ∃ t, exec .ptpSync s = .next t ∧ frame t ∧ t.dev.now = s.dev.now ∧
        t.dev.ptpOff = e.z ∧ t.dev.slew.natAbs ≤ 100 ∧ (0 < e.z → t.dev.slew ≤ 0) ∧ (e.z < 0 → 0 ≤ t.dev.slew))) ∧
  (∀ (s : State),
      let e := s.dev.arg
      let w0 := s.toW
      let early := s.mgmt.stat.getLsbD 5 = false
      (s.dev.l2 = [] → exec .cxlSnoop s = .next s) ∧
      (∀ l, s.dev.l2 = [l] → w0.isHost (32 * l.line) = true → w0.writeKey 0 0 (32 * l.line) = some (hostKey (64 * (e.a / 64))) →
        (∀ g ∈ s.dev.grids, g.2.l1 = []) → ∃ t, exec .cxlSnoop s = .next t ∧ t.dev.l2 = [] ∧
          t.mem = s.mem.writeAll (w0.homeWrite 0 0 (maskCells l.line l.dirty l.data)).ov.reverse) ∧
      (early → ∃ t, exec .hostCxlMemRead s = .next t ∧ t.mem = s.mem ∧ t.dev.earlyCxl = s.dev.earlyCxl + 1 ∧
        t.dev.cxlReads = List.replicate e.b 0xFF#8 ∧ t.dev.threads = s.dev.threads ∧ t.dev.hostHeld = s.dev.hostHeld) ∧
      (∀ bs w, ¬early → w0.readHome (s.dev.regionCtx e.a) 0 e.a e.b = (.ok bs, w) → ∃ t, exec .hostCxlMemRead s = .next t ∧
        t.mem = s.mem.writeAll w.ov.reverse ∧ t.dev.cxlReads = bs ∧ (∀ i < e.b, (e.a + i) / 32 ∈ t.dev.hostHeld) ∧ ∀ l ∈ s.dev.hostHeld, l ∈ t.dev.hostHeld) ∧
      (∀ r w, ¬early → w0.readHome (s.dev.regionCtx e.a) 0 e.a e.b = (r, w) → (∀ bs, r ≠ .ok bs) → ∃ t, exec .hostCxlMemRead s = .next t ∧
        t.mem = s.mem.writeAll w.ov.reverse ∧ (r ≠ .waits → t.dev.cxlReads.length = e.b) ∧ (r = .waits → t.dev = w.d)) ∧
      (early → exec .hostCxlMemWrite s = .next { s with dev := { s.dev with earlyCxl := s.dev.earlyCxl + 1 } }) ∧
      (∀ r, ¬early → s.dev.wprot.find? (fun r => decide (e.a < r.2.2.1 + r.2.2.2) && decide (r.2.2.1 < e.a + e.bytes.length)) = some r →
        ∃ t, exec .hostCxlMemWrite s = .next t ∧ t.mem = s.mem ∧ t.dev.threads = s.dev.threads ∧
          (t.dev.ctx r.1).stale = ((s.dev.ctx r.1).stale + 1) % 2 ^ 32) ∧
      (¬early → (∀ r ∈ s.dev.wprot, ¬(e.a < r.2.2.1 + r.2.2.2 ∧ r.2.2.1 < e.a + e.bytes.length)) →
        (w0.revisedPage e.a = true → ∃ t, exec .hostCxlMemWrite s = .next t ∧ t.mem = s.mem ∧
          (t.dev.ctx (s.dev.regionCtx e.a)).stale = ((s.dev.ctx (s.dev.regionCtx e.a)).stale + 1) % 2 ^ 32) ∧
        (w0.revisedPage e.a = false → (∀ k ∈ s.dev.ctxs, k.2.logging = false) → ∃ t, exec .hostCxlMemWrite s = .next t ∧
          t.mem = s.mem.writeAll (w0.homeWrite 0 0 (cellsAt e.a e.bytes)).ov.reverse)) ∧
      ((∀ r ∈ s.dev.remotes, ∀ l cs, r.kind ≠ .snoop l cs) → exec .backInvalidateComplete s = .next s) ∧
      (∀ r l cs, s.dev.remotes = [r] → r.kind = .snoop l cs → ∃ t, exec .backInvalidateComplete s = .next t ∧ t.mem = s.mem.writeAll cs ∧
        t.dev.remotes = [] ∧ l ∉ t.dev.hostHeld ∧ ∀ n ∈ s.dev.hostHeld, n ≠ l → n ∈ t.dev.hostHeld))
end

