-- ==== Sys2Proof/Laws/Memory.lean ====
section
/-!
SUPPORT. Laws of memory: reading after writing, the canonical form, and what the ways of running a meaning keep.
-/

namespace Sys2Proof.Machine

@[simp] theorem Memory.read_nil (k : Nat) : Memory.read [] k = unlisted := rfl

/-- Every address of a canonical memory after its first cell lies above that cell. -/
theorem Memory.wf_cons {a : Nat} {b : Byte} {r : Memory} (h : Memory.wf ((a, b) :: r) = true) :
    b ≠ unlisted ∧ Memory.wf r = true ∧ ∀ p ∈ r, a < p.1 := by
  induction r generalizing a b with
  | nil => simpa [Memory.wf] using h
  | cons q r ih =>
    obtain ⟨a', b'⟩ := q
    simp only [Memory.wf, Bool.and_eq_true, bne_iff_ne, ne_eq, decide_eq_true_eq] at h
    obtain ⟨⟨hb, hlt⟩, hr⟩ := h
    refine ⟨hb, hr, ?_⟩
    intro p hp
    rcases List.mem_cons.1 hp with rfl | hp
    · exact hlt
    · exact Nat.lt_trans hlt ((ih hr).2.2 p hp)

/-- A canonical memory with a cell below all of it is canonical. -/
theorem Memory.wf_of_cons {a : Nat} {b : Byte} {r : Memory} (hb : b ≠ unlisted) (hr : Memory.wf r = true)
    (h : ∀ p ∈ r, a < p.1) : Memory.wf ((a, b) :: r) = true := by
  cases r with
  | nil => simp [Memory.wf, hb]
  | cons q r => simp [Memory.wf, hb, hr, h q (List.mem_cons_self ..)]

/-- An address that no cell has reads as an unlisted one. -/
theorem Memory.read_of_forall_ne {m : Memory} {k : Nat} (h : ∀ p ∈ m, p.1 ≠ k) : m.read k = unlisted := by
  induction m with
  | nil => rfl
  | cons q r ih =>
    simp [Memory.read, h q (List.mem_cons_self ..), ih (fun p hp => h p (List.mem_cons_of_mem _ hp))]

/-- The addresses of a memory after a write. -/
theorem Memory.mem_write {m : Memory} {k : Nat} {v : Byte} {p : Host.Cell} (h : p ∈ m.write k v) : p ∈ m ∨ p.1 = k := by
  induction m with
  | nil =>
    unfold Memory.write at h
    split at h
    · cases h
    · simp_all
  | cons q r ih =>
    obtain ⟨a, b⟩ := q
    unfold Memory.write at h
    split at h
    · split at h
      · exact .inl h
      · rcases List.mem_cons.1 h with rfl | h
        · exact .inr rfl
        · exact .inl h
    · split at h
      · split at h
        · exact .inl (List.mem_cons_of_mem _ h)
        · rcases List.mem_cons.1 h with rfl | h
          · exact .inr rfl
          · exact .inl (List.mem_cons_of_mem _ h)
      · rcases List.mem_cons.1 h with rfl | h
        · exact .inl (List.mem_cons_self ..)
        · rcases ih h with h | h
          · exact .inl (List.mem_cons_of_mem _ h)
          · exact .inr h

/-- A write keeps the canonical form. -/
theorem Memory.write_wf {m : Memory} (h : Memory.wf m = true) (k : Nat) (v : Byte) : Memory.wf (m.write k v) = true := by
  induction m with
  | nil =>
    unfold Memory.write
    split
    · rfl
    · simpa [Memory.wf] using ‹¬_›
  | cons q r ih =>
    obtain ⟨a, b⟩ := q
    obtain ⟨hb, hr, hlt⟩ := Memory.wf_cons h
    unfold Memory.write
    split
    · rename_i hk
      split
      · exact h
      · refine Memory.wf_of_cons ‹_› h ?_
        intro p hp
        rcases List.mem_cons.1 hp with rfl | hp
        · exact hk
        · exact Nat.lt_trans hk (hlt p hp)
    · split
      · rename_i hk
        split
        · exact hr
        · exact Memory.wf_of_cons ‹_› hr (hk ▸ hlt)
      · refine Memory.wf_of_cons hb (ih hr) ?_
        intro p hp
        rcases Memory.mem_write hp with hp | hp
        · exact hlt p hp
        · omega

/-- A byte read after a write to its address. -/
theorem Memory.read_write_self {m : Memory} (h : Memory.wf m = true) (k : Nat) (v : Byte) : (m.write k v).read k = v := by
  induction m with
  | nil =>
    unfold Memory.write
    split
    · rename_i hv; simp [hv]
    · simp [Memory.read]
  | cons q r ih =>
    obtain ⟨a, b⟩ := q
    obtain ⟨hb, hr, hlt⟩ := Memory.wf_cons h
    unfold Memory.write
    split
    · rename_i hk
      split
      · rename_i hv
        rw [hv]
        apply Memory.read_of_forall_ne
        intro p hp
        rcases List.mem_cons.1 hp with rfl | hp
        · exact Nat.ne_of_gt hk
        · exact Nat.ne_of_gt (Nat.lt_trans hk (hlt p hp))
      · simp [Memory.read]
    · split
      · rename_i hk
        split
        · rename_i hv
          rw [hv]
          exact Memory.read_of_forall_ne (fun p hp => Nat.ne_of_gt (hk ▸ hlt p hp))
        · simp [Memory.read]
      · simp [Memory.read, Ne.symm ‹¬k = a›, ih hr]

/-- A byte read after a write elsewhere. -/
theorem Memory.read_write_ne (m : Memory) {k j : Nat} (v : Byte) (h : j ≠ k) : (m.write k v).read j = m.read j := by
  induction m with
  | nil =>
    unfold Memory.write
    split
    · rfl
    · simp [Memory.read, Ne.symm h]
  | cons q r ih =>
    obtain ⟨a, b⟩ := q
    unfold Memory.write
    split
    · split
      · rfl
      · simp [Memory.read, Ne.symm h]
    · split
      · rename_i hk
        subst hk
        split <;> simp [Memory.read, Ne.symm h]
      · by_cases ha : a = j <;> simp [Memory.read, ha, ih]

/-- Writes one after the other keep the canonical form. -/
theorem Memory.writeAll_wf {m : Memory} (h : Memory.wf m = true) (cs : List Host.Cell) :
    Memory.wf (m.writeAll cs) = true := by
  induction cs generalizing m with
  | nil => exact h
  | cons c r ih => exact ih (Memory.write_wf h c.1 c.2)

/-- A byte that none of some writes names reads as before. -/
theorem Memory.read_writeAll_ne (m : Memory) (cs : List Host.Cell) {j : Nat} (h : ∀ c ∈ cs, c.1 ≠ j) :
    (m.writeAll cs).read j = m.read j := by
  induction cs generalizing m with
  | nil => rfl
  | cons c r ih =>
    have := ih (m.write c.1 c.2) (fun c hc => h c (List.mem_cons_of_mem _ hc))
    rw [show m.writeAll (c :: r) = (m.write c.1 c.2).writeAll r from rfl, this]
    exact Memory.read_write_ne m c.2 (Ne.symm (h c (List.mem_cons_self ..)))

/-- Writing no byte changes nothing. -/
@[simp] theorem Memory.writeAll_nil (m : Memory) : m.writeAll [] = m := rfl

/-! ### The overlay -/

/-- The byte a meaning reads at an address is the newest that it wrote there, else the one in memory. -/
theorem ovRead_eq (ov : List Host.Cell) (base : Memory) (k : Nat) :
    ovRead ov base k = ((ov.find? (fun c => c.1 == k)).map Prod.snd).getD (base.read k) := by
  induction ov with
  | nil => rfl
  | cons c r ih =>
    obtain ⟨a, b⟩ := c
    by_cases h : a = k <;> simp [ovRead, h, ih]

/-! ### The ways of running a meaning -/

/-- A meaning that changes the device alone answers a next state with memory, management and agenda as they were. -/
theorem runD_eq (f : Dev → Dev) (s : State) : runD f s = .next { s with dev := f s.dev } := rfl
theorem runR_eq (f : W → Dev) (s : State) : runR f s = .next { s with dev := f s.toW } := rfl
theorem run_eq (f : W → W) (s : State) :
    run f s = .next { s with dev := (f s.toW).d, mem := s.mem.writeAll (f s.toW).ov.reverse } := rfl
theorem runM_eq (f : W → Mgmt × W) (s : State) :
    runM f s = .next { s with mgmt := (f s.toW).1, dev := (f s.toW).2.d, mem := s.mem.writeAll (f s.toW).2.ov.reverse } := rfl

/-- What each way of running keeps: the canonical form, the agenda. -/
theorem runD_keeps {f : Dev → Dev} {s t : State} (h : runD f s = .next t) :
    t.mem = s.mem ∧ t.mgmt = s.mgmt ∧ t.agenda = s.agenda := by
  cases h; exact ⟨rfl, rfl, rfl⟩
theorem runR_keeps {f : W → Dev} {s t : State} (h : runR f s = .next t) :
    t.mem = s.mem ∧ t.mgmt = s.mgmt ∧ t.agenda = s.agenda := by
  cases h; exact ⟨rfl, rfl, rfl⟩
theorem run_keeps {f : W → W} {s t : State} (h : run f s = .next t) :
    t.mgmt = s.mgmt ∧ t.agenda = s.agenda ∧ (Memory.wf s.mem = true → Memory.wf t.mem = true) := by
  cases h; exact ⟨rfl, rfl, fun hm => Memory.writeAll_wf hm _⟩
theorem runM_keeps {f : W → Mgmt × W} {s t : State} (h : runM f s = .next t) :
    t.agenda = s.agenda ∧ (Memory.wf s.mem = true → Memory.wf t.mem = true) := by
  cases h; exact ⟨rfl, fun hm => Memory.writeAll_wf hm _⟩

end Sys2Proof.Machine
end

