-- ==== Sys2Proof/Laws/State.lean ====
section
/-!
SUPPORT. What each update of the device leaves alone: one lemma per field per update, true by unfolding.
-/

namespace Sys2Proof.Machine

/-! ### `setCtx` -/

@[simp] theorem Dev.setCtx_now (d : Dev) (c : Nat) (x : Ctx) : (d.setCtx c x).now = d.now := rfl
@[simp] theorem Dev.setCtx_cycle (d : Dev) (c : Nat) (x : Ctx) : (d.setCtx c x).cycle = d.cycle := rfl
@[simp] theorem Dev.setCtx_freeCtr (d : Dev) (c : Nat) (x : Ctx) : (d.setCtx c x).freeCtr = d.freeCtr := rfl
@[simp] theorem Dev.setCtx_nextId (d : Dev) (c : Nat) (x : Ctx) : (d.setCtx c x).nextId = d.nextId := rfl
@[simp] theorem Dev.setCtx_focus (d : Dev) (c : Nat) (x : Ctx) : (d.setCtx c x).focus = d.focus := rfl
@[simp] theorem Dev.setCtx_arg (d : Dev) (c : Nat) (x : Ctx) : (d.setCtx c x).arg = d.arg := rfl
@[simp] theorem Dev.setCtx_grids (d : Dev) (c : Nat) (x : Ctx) : (d.setCtx c x).grids = d.grids := rfl
@[simp] theorem Dev.setCtx_fields (d : Dev) (c : Nat) (x : Ctx) : (d.setCtx c x).fields = d.fields := rfl
@[simp] theorem Dev.setCtx_threads (d : Dev) (c : Nat) (x : Ctx) : (d.setCtx c x).threads = d.threads := rfl
@[simp] theorem Dev.setCtx_groups (d : Dev) (c : Nat) (x : Ctx) : (d.setCtx c x).groups = d.groups := rfl
@[simp] theorem Dev.setCtx_insts (d : Dev) (c : Nat) (x : Ctx) : (d.setCtx c x).insts = d.insts := rfl
@[simp] theorem Dev.setCtx_flight (d : Dev) (c : Nat) (x : Ctx) : (d.setCtx c x).flight = d.flight := rfl
@[simp] theorem Dev.setCtx_retained (d : Dev) (c : Nat) (x : Ctx) : (d.setCtx c x).retained = d.retained := rfl
@[simp] theorem Dev.setCtx_waits (d : Dev) (c : Nat) (x : Ctx) : (d.setCtx c x).waits = d.waits := rfl
@[simp] theorem Dev.setCtx_copies (d : Dev) (c : Nat) (x : Ctx) : (d.setCtx c x).copies = d.copies := rfl
@[simp] theorem Dev.setCtx_fwds (d : Dev) (c : Nat) (x : Ctx) : (d.setCtx c x).fwds = d.fwds := rfl
@[simp] theorem Dev.setCtx_rels (d : Dev) (c : Nat) (x : Ctx) : (d.setCtx c x).rels = d.rels := rfl
@[simp] theorem Dev.setCtx_spStores (d : Dev) (c : Nat) (x : Ctx) : (d.setCtx c x).spStores = d.spStores := rfl
@[simp] theorem Dev.setCtx_handovers (d : Dev) (c : Nat) (x : Ctx) : (d.setCtx c x).handovers = d.handovers := rfl
@[simp] theorem Dev.setCtx_arrWaits (d : Dev) (c : Nat) (x : Ctx) : (d.setCtx c x).arrWaits = d.arrWaits := rfl
@[simp] theorem Dev.setCtx_pool (d : Dev) (c : Nat) (x : Ctx) : (d.setCtx c x).pool = d.pool := rfl
@[simp] theorem Dev.setCtx_preqs (d : Dev) (c : Nat) (x : Ctx) : (d.setCtx c x).preqs = d.preqs := rfl
@[simp] theorem Dev.setCtx_preqNext (d : Dev) (c : Nat) (x : Ctx) : (d.setCtx c x).preqNext = d.preqNext := rfl
@[simp] theorem Dev.setCtx_pcmds (d : Dev) (c : Nat) (x : Ctx) : (d.setCtx c x).pcmds = d.pcmds := rfl
@[simp] theorem Dev.setCtx_pubs (d : Dev) (c : Nat) (x : Ctx) : (d.setCtx c x).pubs = d.pubs := rfl
@[simp] theorem Dev.setCtx_tcaches (d : Dev) (c : Nat) (x : Ctx) : (d.setCtx c x).tcaches = d.tcaches := rfl
@[simp] theorem Dev.setCtx_l2 (d : Dev) (c : Nat) (x : Ctx) : (d.setCtx c x).l2 = d.l2 := rfl
@[simp] theorem Dev.setCtx_poison (d : Dev) (c : Nat) (x : Ctx) : (d.setCtx c x).poison = d.poison := rfl
@[simp] theorem Dev.setCtx_verifs (d : Dev) (c : Nat) (x : Ctx) : (d.setCtx c x).verifs = d.verifs := rfl
@[simp] theorem Dev.setCtx_wprot (d : Dev) (c : Nat) (x : Ctx) : (d.setCtx c x).wprot = d.wprot := rfl
@[simp] theorem Dev.setCtx_gidNext (d : Dev) (c : Nat) (x : Ctx) : (d.setCtx c x).gidNext = d.gidNext := rfl
@[simp] theorem Dev.setCtx_ports (d : Dev) (c : Nat) (x : Ctx) : (d.setCtx c x).ports = d.ports := rfl
@[simp] theorem Dev.setCtx_routes (d : Dev) (c : Nat) (x : Ctx) : (d.setCtx c x).routes = d.routes := rfl
@[simp] theorem Dev.setCtx_cxl (d : Dev) (c : Nat) (x : Ctx) : (d.setCtx c x).cxl = d.cxl := rfl
@[simp] theorem Dev.setCtx_remotes (d : Dev) (c : Nat) (x : Ctx) : (d.setCtx c x).remotes = d.remotes := rfl
@[simp] theorem Dev.setCtx_colls (d : Dev) (c : Nat) (x : Ctx) : (d.setCtx c x).colls = d.colls := rfl
@[simp] theorem Dev.setCtx_ptpOff (d : Dev) (c : Nat) (x : Ctx) : (d.setCtx c x).ptpOff = d.ptpOff := rfl
@[simp] theorem Dev.setCtx_slew (d : Dev) (c : Nat) (x : Ctx) : (d.setCtx c x).slew = d.slew := rfl
@[simp] theorem Dev.setCtx_dumpQ (d : Dev) (c : Nat) (x : Ctx) : (d.setCtx c x).dumpQ = d.dumpQ := rfl
@[simp] theorem Dev.setCtx_dumping (d : Dev) (c : Nat) (x : Ctx) : (d.setCtx c x).dumping = d.dumping := rfl
@[simp] theorem Dev.setCtx_reqTail (d : Dev) (c : Nat) (x : Ctx) : (d.setCtx c x).reqTail = d.reqTail := rfl
@[simp] theorem Dev.setCtx_heldReqs (d : Dev) (c : Nat) (x : Ctx) : (d.setCtx c x).heldReqs = d.heldReqs := rfl
@[simp] theorem Dev.setCtx_notifyIdx (d : Dev) (c : Nat) (x : Ctx) : (d.setCtx c x).notifyIdx = d.notifyIdx := rfl
@[simp] theorem Dev.setCtx_images (d : Dev) (c : Nat) (x : Ctx) : (d.setCtx c x).images = d.images := rfl
@[simp] theorem Dev.setCtx_life (d : Dev) (c : Nat) (x : Ctx) : (d.setCtx c x).life = d.life := rfl
@[simp] theorem Dev.setCtx_lifeStored (d : Dev) (c : Nat) (x : Ctx) : (d.setCtx c x).lifeStored = d.lifeStored := rfl
@[simp] theorem Dev.setCtx_spdm (d : Dev) (c : Nat) (x : Ctx) : (d.setCtx c x).spdm = d.spdm := rfl
@[simp] theorem Dev.setCtx_seenTags (d : Dev) (c : Nat) (x : Ctx) : (d.setCtx c x).seenTags = d.seenTags := rfl
@[simp] theorem Dev.setCtx_earlyCxl (d : Dev) (c : Nat) (x : Ctx) : (d.setCtx c x).earlyCxl = d.earlyCxl := rfl
@[simp] theorem Dev.setCtx_cxlReads (d : Dev) (c : Nat) (x : Ctx) : (d.setCtx c x).cxlReads = d.cxlReads := rfl
@[simp] theorem Dev.setCtx_hostHeld (d : Dev) (c : Nat) (x : Ctx) : (d.setCtx c x).hostHeld = d.hostHeld := rfl
@[simp] theorem Dev.setCtx_unlocks (d : Dev) (c : Nat) (x : Ctx) : (d.setCtx c x).unlocks = d.unlocks := rfl
@[simp] theorem Dev.setCtx_io (d : Dev) (c : Nat) (x : Ctx) : (d.setCtx c x).io = d.io := rfl

/-! ### `modCtx` -/

@[simp] theorem Dev.modCtx_now (d : Dev) (c : Nat) (f : Ctx → Ctx) : (d.modCtx c f).now = d.now := rfl
@[simp] theorem Dev.modCtx_cycle (d : Dev) (c : Nat) (f : Ctx → Ctx) : (d.modCtx c f).cycle = d.cycle := rfl
@[simp] theorem Dev.modCtx_freeCtr (d : Dev) (c : Nat) (f : Ctx → Ctx) : (d.modCtx c f).freeCtr = d.freeCtr := rfl
@[simp] theorem Dev.modCtx_nextId (d : Dev) (c : Nat) (f : Ctx → Ctx) : (d.modCtx c f).nextId = d.nextId := rfl
@[simp] theorem Dev.modCtx_focus (d : Dev) (c : Nat) (f : Ctx → Ctx) : (d.modCtx c f).focus = d.focus := rfl
@[simp] theorem Dev.modCtx_arg (d : Dev) (c : Nat) (f : Ctx → Ctx) : (d.modCtx c f).arg = d.arg := rfl
@[simp] theorem Dev.modCtx_grids (d : Dev) (c : Nat) (f : Ctx → Ctx) : (d.modCtx c f).grids = d.grids := rfl
@[simp] theorem Dev.modCtx_fields (d : Dev) (c : Nat) (f : Ctx → Ctx) : (d.modCtx c f).fields = d.fields := rfl
@[simp] theorem Dev.modCtx_threads (d : Dev) (c : Nat) (f : Ctx → Ctx) : (d.modCtx c f).threads = d.threads := rfl
@[simp] theorem Dev.modCtx_groups (d : Dev) (c : Nat) (f : Ctx → Ctx) : (d.modCtx c f).groups = d.groups := rfl
@[simp] theorem Dev.modCtx_insts (d : Dev) (c : Nat) (f : Ctx → Ctx) : (d.modCtx c f).insts = d.insts := rfl
@[simp] theorem Dev.modCtx_flight (d : Dev) (c : Nat) (f : Ctx → Ctx) : (d.modCtx c f).flight = d.flight := rfl
@[simp] theorem Dev.modCtx_retained (d : Dev) (c : Nat) (f : Ctx → Ctx) : (d.modCtx c f).retained = d.retained := rfl
@[simp] theorem Dev.modCtx_waits (d : Dev) (c : Nat) (f : Ctx → Ctx) : (d.modCtx c f).waits = d.waits := rfl
@[simp] theorem Dev.modCtx_copies (d : Dev) (c : Nat) (f : Ctx → Ctx) : (d.modCtx c f).copies = d.copies := rfl
@[simp] theorem Dev.modCtx_fwds (d : Dev) (c : Nat) (f : Ctx → Ctx) : (d.modCtx c f).fwds = d.fwds := rfl
@[simp] theorem Dev.modCtx_rels (d : Dev) (c : Nat) (f : Ctx → Ctx) : (d.modCtx c f).rels = d.rels := rfl
@[simp] theorem Dev.modCtx_spStores (d : Dev) (c : Nat) (f : Ctx → Ctx) : (d.modCtx c f).spStores = d.spStores := rfl
@[simp] theorem Dev.modCtx_handovers (d : Dev) (c : Nat) (f : Ctx → Ctx) : (d.modCtx c f).handovers = d.handovers := rfl
@[simp] theorem Dev.modCtx_arrWaits (d : Dev) (c : Nat) (f : Ctx → Ctx) : (d.modCtx c f).arrWaits = d.arrWaits := rfl
@[simp] theorem Dev.modCtx_pool (d : Dev) (c : Nat) (f : Ctx → Ctx) : (d.modCtx c f).pool = d.pool := rfl
@[simp] theorem Dev.modCtx_preqs (d : Dev) (c : Nat) (f : Ctx → Ctx) : (d.modCtx c f).preqs = d.preqs := rfl
@[simp] theorem Dev.modCtx_preqNext (d : Dev) (c : Nat) (f : Ctx → Ctx) : (d.modCtx c f).preqNext = d.preqNext := rfl
@[simp] theorem Dev.modCtx_pcmds (d : Dev) (c : Nat) (f : Ctx → Ctx) : (d.modCtx c f).pcmds = d.pcmds := rfl
@[simp] theorem Dev.modCtx_pubs (d : Dev) (c : Nat) (f : Ctx → Ctx) : (d.modCtx c f).pubs = d.pubs := rfl
@[simp] theorem Dev.modCtx_tcaches (d : Dev) (c : Nat) (f : Ctx → Ctx) : (d.modCtx c f).tcaches = d.tcaches := rfl
@[simp] theorem Dev.modCtx_l2 (d : Dev) (c : Nat) (f : Ctx → Ctx) : (d.modCtx c f).l2 = d.l2 := rfl
@[simp] theorem Dev.modCtx_poison (d : Dev) (c : Nat) (f : Ctx → Ctx) : (d.modCtx c f).poison = d.poison := rfl
@[simp] theorem Dev.modCtx_verifs (d : Dev) (c : Nat) (f : Ctx → Ctx) : (d.modCtx c f).verifs = d.verifs := rfl
@[simp] theorem Dev.modCtx_wprot (d : Dev) (c : Nat) (f : Ctx → Ctx) : (d.modCtx c f).wprot = d.wprot := rfl
@[simp] theorem Dev.modCtx_gidNext (d : Dev) (c : Nat) (f : Ctx → Ctx) : (d.modCtx c f).gidNext = d.gidNext := rfl
@[simp] theorem Dev.modCtx_ports (d : Dev) (c : Nat) (f : Ctx → Ctx) : (d.modCtx c f).ports = d.ports := rfl
@[simp] theorem Dev.modCtx_routes (d : Dev) (c : Nat) (f : Ctx → Ctx) : (d.modCtx c f).routes = d.routes := rfl
@[simp] theorem Dev.modCtx_cxl (d : Dev) (c : Nat) (f : Ctx → Ctx) : (d.modCtx c f).cxl = d.cxl := rfl
@[simp] theorem Dev.modCtx_remotes (d : Dev) (c : Nat) (f : Ctx → Ctx) : (d.modCtx c f).remotes = d.remotes := rfl
@[simp] theorem Dev.modCtx_colls (d : Dev) (c : Nat) (f : Ctx → Ctx) : (d.modCtx c f).colls = d.colls := rfl
@[simp] theorem Dev.modCtx_ptpOff (d : Dev) (c : Nat) (f : Ctx → Ctx) : (d.modCtx c f).ptpOff = d.ptpOff := rfl
@[simp] theorem Dev.modCtx_slew (d : Dev) (c : Nat) (f : Ctx → Ctx) : (d.modCtx c f).slew = d.slew := rfl
@[simp] theorem Dev.modCtx_dumpQ (d : Dev) (c : Nat) (f : Ctx → Ctx) : (d.modCtx c f).dumpQ = d.dumpQ := rfl
@[simp] theorem Dev.modCtx_dumping (d : Dev) (c : Nat) (f : Ctx → Ctx) : (d.modCtx c f).dumping = d.dumping := rfl
@[simp] theorem Dev.modCtx_reqTail (d : Dev) (c : Nat) (f : Ctx → Ctx) : (d.modCtx c f).reqTail = d.reqTail := rfl
@[simp] theorem Dev.modCtx_heldReqs (d : Dev) (c : Nat) (f : Ctx → Ctx) : (d.modCtx c f).heldReqs = d.heldReqs := rfl
@[simp] theorem Dev.modCtx_notifyIdx (d : Dev) (c : Nat) (f : Ctx → Ctx) : (d.modCtx c f).notifyIdx = d.notifyIdx := rfl
@[simp] theorem Dev.modCtx_images (d : Dev) (c : Nat) (f : Ctx → Ctx) : (d.modCtx c f).images = d.images := rfl
@[simp] theorem Dev.modCtx_life (d : Dev) (c : Nat) (f : Ctx → Ctx) : (d.modCtx c f).life = d.life := rfl
@[simp] theorem Dev.modCtx_lifeStored (d : Dev) (c : Nat) (f : Ctx → Ctx) : (d.modCtx c f).lifeStored = d.lifeStored := rfl
@[simp] theorem Dev.modCtx_spdm (d : Dev) (c : Nat) (f : Ctx → Ctx) : (d.modCtx c f).spdm = d.spdm := rfl
@[simp] theorem Dev.modCtx_seenTags (d : Dev) (c : Nat) (f : Ctx → Ctx) : (d.modCtx c f).seenTags = d.seenTags := rfl
@[simp] theorem Dev.modCtx_earlyCxl (d : Dev) (c : Nat) (f : Ctx → Ctx) : (d.modCtx c f).earlyCxl = d.earlyCxl := rfl
@[simp] theorem Dev.modCtx_cxlReads (d : Dev) (c : Nat) (f : Ctx → Ctx) : (d.modCtx c f).cxlReads = d.cxlReads := rfl
@[simp] theorem Dev.modCtx_hostHeld (d : Dev) (c : Nat) (f : Ctx → Ctx) : (d.modCtx c f).hostHeld = d.hostHeld := rfl
@[simp] theorem Dev.modCtx_unlocks (d : Dev) (c : Nat) (f : Ctx → Ctx) : (d.modCtx c f).unlocks = d.unlocks := rfl
@[simp] theorem Dev.modCtx_io (d : Dev) (c : Nat) (f : Ctx → Ctx) : (d.modCtx c f).io = d.io := rfl

/-! ### `setThr` -/

@[simp] theorem Dev.setThr_now (d : Dev) (t : Nat) (x : Thread) : (d.setThr t x).now = d.now := rfl
@[simp] theorem Dev.setThr_cycle (d : Dev) (t : Nat) (x : Thread) : (d.setThr t x).cycle = d.cycle := rfl
@[simp] theorem Dev.setThr_freeCtr (d : Dev) (t : Nat) (x : Thread) : (d.setThr t x).freeCtr = d.freeCtr := rfl
@[simp] theorem Dev.setThr_nextId (d : Dev) (t : Nat) (x : Thread) : (d.setThr t x).nextId = d.nextId := rfl
@[simp] theorem Dev.setThr_focus (d : Dev) (t : Nat) (x : Thread) : (d.setThr t x).focus = d.focus := rfl
@[simp] theorem Dev.setThr_arg (d : Dev) (t : Nat) (x : Thread) : (d.setThr t x).arg = d.arg := rfl
@[simp] theorem Dev.setThr_grids (d : Dev) (t : Nat) (x : Thread) : (d.setThr t x).grids = d.grids := rfl
@[simp] theorem Dev.setThr_fields (d : Dev) (t : Nat) (x : Thread) : (d.setThr t x).fields = d.fields := rfl
@[simp] theorem Dev.setThr_ctxs (d : Dev) (t : Nat) (x : Thread) : (d.setThr t x).ctxs = d.ctxs := rfl
@[simp] theorem Dev.setThr_groups (d : Dev) (t : Nat) (x : Thread) : (d.setThr t x).groups = d.groups := rfl
@[simp] theorem Dev.setThr_insts (d : Dev) (t : Nat) (x : Thread) : (d.setThr t x).insts = d.insts := rfl
@[simp] theorem Dev.setThr_flight (d : Dev) (t : Nat) (x : Thread) : (d.setThr t x).flight = d.flight := rfl
@[simp] theorem Dev.setThr_retained (d : Dev) (t : Nat) (x : Thread) : (d.setThr t x).retained = d.retained := rfl
@[simp] theorem Dev.setThr_waits (d : Dev) (t : Nat) (x : Thread) : (d.setThr t x).waits = d.waits := rfl
@[simp] theorem Dev.setThr_copies (d : Dev) (t : Nat) (x : Thread) : (d.setThr t x).copies = d.copies := rfl
@[simp] theorem Dev.setThr_fwds (d : Dev) (t : Nat) (x : Thread) : (d.setThr t x).fwds = d.fwds := rfl
@[simp] theorem Dev.setThr_rels (d : Dev) (t : Nat) (x : Thread) : (d.setThr t x).rels = d.rels := rfl
@[simp] theorem Dev.setThr_spStores (d : Dev) (t : Nat) (x : Thread) : (d.setThr t x).spStores = d.spStores := rfl
@[simp] theorem Dev.setThr_handovers (d : Dev) (t : Nat) (x : Thread) : (d.setThr t x).handovers = d.handovers := rfl
@[simp] theorem Dev.setThr_arrWaits (d : Dev) (t : Nat) (x : Thread) : (d.setThr t x).arrWaits = d.arrWaits := rfl
@[simp] theorem Dev.setThr_pool (d : Dev) (t : Nat) (x : Thread) : (d.setThr t x).pool = d.pool := rfl
@[simp] theorem Dev.setThr_preqs (d : Dev) (t : Nat) (x : Thread) : (d.setThr t x).preqs = d.preqs := rfl
@[simp] theorem Dev.setThr_preqNext (d : Dev) (t : Nat) (x : Thread) : (d.setThr t x).preqNext = d.preqNext := rfl
@[simp] theorem Dev.setThr_pcmds (d : Dev) (t : Nat) (x : Thread) : (d.setThr t x).pcmds = d.pcmds := rfl
@[simp] theorem Dev.setThr_pubs (d : Dev) (t : Nat) (x : Thread) : (d.setThr t x).pubs = d.pubs := rfl
@[simp] theorem Dev.setThr_tcaches (d : Dev) (t : Nat) (x : Thread) : (d.setThr t x).tcaches = d.tcaches := rfl
@[simp] theorem Dev.setThr_l2 (d : Dev) (t : Nat) (x : Thread) : (d.setThr t x).l2 = d.l2 := rfl
@[simp] theorem Dev.setThr_poison (d : Dev) (t : Nat) (x : Thread) : (d.setThr t x).poison = d.poison := rfl
@[simp] theorem Dev.setThr_verifs (d : Dev) (t : Nat) (x : Thread) : (d.setThr t x).verifs = d.verifs := rfl
@[simp] theorem Dev.setThr_wprot (d : Dev) (t : Nat) (x : Thread) : (d.setThr t x).wprot = d.wprot := rfl
@[simp] theorem Dev.setThr_gidNext (d : Dev) (t : Nat) (x : Thread) : (d.setThr t x).gidNext = d.gidNext := rfl
@[simp] theorem Dev.setThr_ports (d : Dev) (t : Nat) (x : Thread) : (d.setThr t x).ports = d.ports := rfl
@[simp] theorem Dev.setThr_routes (d : Dev) (t : Nat) (x : Thread) : (d.setThr t x).routes = d.routes := rfl
@[simp] theorem Dev.setThr_cxl (d : Dev) (t : Nat) (x : Thread) : (d.setThr t x).cxl = d.cxl := rfl
@[simp] theorem Dev.setThr_remotes (d : Dev) (t : Nat) (x : Thread) : (d.setThr t x).remotes = d.remotes := rfl
@[simp] theorem Dev.setThr_colls (d : Dev) (t : Nat) (x : Thread) : (d.setThr t x).colls = d.colls := rfl
@[simp] theorem Dev.setThr_ptpOff (d : Dev) (t : Nat) (x : Thread) : (d.setThr t x).ptpOff = d.ptpOff := rfl
@[simp] theorem Dev.setThr_slew (d : Dev) (t : Nat) (x : Thread) : (d.setThr t x).slew = d.slew := rfl
@[simp] theorem Dev.setThr_dumpQ (d : Dev) (t : Nat) (x : Thread) : (d.setThr t x).dumpQ = d.dumpQ := rfl
@[simp] theorem Dev.setThr_dumping (d : Dev) (t : Nat) (x : Thread) : (d.setThr t x).dumping = d.dumping := rfl
@[simp] theorem Dev.setThr_reqTail (d : Dev) (t : Nat) (x : Thread) : (d.setThr t x).reqTail = d.reqTail := rfl
@[simp] theorem Dev.setThr_heldReqs (d : Dev) (t : Nat) (x : Thread) : (d.setThr t x).heldReqs = d.heldReqs := rfl
@[simp] theorem Dev.setThr_notifyIdx (d : Dev) (t : Nat) (x : Thread) : (d.setThr t x).notifyIdx = d.notifyIdx := rfl
@[simp] theorem Dev.setThr_images (d : Dev) (t : Nat) (x : Thread) : (d.setThr t x).images = d.images := rfl
@[simp] theorem Dev.setThr_life (d : Dev) (t : Nat) (x : Thread) : (d.setThr t x).life = d.life := rfl
@[simp] theorem Dev.setThr_lifeStored (d : Dev) (t : Nat) (x : Thread) : (d.setThr t x).lifeStored = d.lifeStored := rfl
@[simp] theorem Dev.setThr_spdm (d : Dev) (t : Nat) (x : Thread) : (d.setThr t x).spdm = d.spdm := rfl
@[simp] theorem Dev.setThr_seenTags (d : Dev) (t : Nat) (x : Thread) : (d.setThr t x).seenTags = d.seenTags := rfl
@[simp] theorem Dev.setThr_earlyCxl (d : Dev) (t : Nat) (x : Thread) : (d.setThr t x).earlyCxl = d.earlyCxl := rfl
@[simp] theorem Dev.setThr_cxlReads (d : Dev) (t : Nat) (x : Thread) : (d.setThr t x).cxlReads = d.cxlReads := rfl
@[simp] theorem Dev.setThr_hostHeld (d : Dev) (t : Nat) (x : Thread) : (d.setThr t x).hostHeld = d.hostHeld := rfl
@[simp] theorem Dev.setThr_unlocks (d : Dev) (t : Nat) (x : Thread) : (d.setThr t x).unlocks = d.unlocks := rfl
@[simp] theorem Dev.setThr_io (d : Dev) (t : Nat) (x : Thread) : (d.setThr t x).io = d.io := rfl

/-! ### `setInst` -/

@[simp] theorem Dev.setInst_now (d : Dev) (n : Nat) (x : Inst) : (d.setInst n x).now = d.now := rfl
@[simp] theorem Dev.setInst_cycle (d : Dev) (n : Nat) (x : Inst) : (d.setInst n x).cycle = d.cycle := rfl
@[simp] theorem Dev.setInst_freeCtr (d : Dev) (n : Nat) (x : Inst) : (d.setInst n x).freeCtr = d.freeCtr := rfl
@[simp] theorem Dev.setInst_nextId (d : Dev) (n : Nat) (x : Inst) : (d.setInst n x).nextId = d.nextId := rfl
@[simp] theorem Dev.setInst_focus (d : Dev) (n : Nat) (x : Inst) : (d.setInst n x).focus = d.focus := rfl
@[simp] theorem Dev.setInst_arg (d : Dev) (n : Nat) (x : Inst) : (d.setInst n x).arg = d.arg := rfl
@[simp] theorem Dev.setInst_grids (d : Dev) (n : Nat) (x : Inst) : (d.setInst n x).grids = d.grids := rfl
@[simp] theorem Dev.setInst_fields (d : Dev) (n : Nat) (x : Inst) : (d.setInst n x).fields = d.fields := rfl
@[simp] theorem Dev.setInst_ctxs (d : Dev) (n : Nat) (x : Inst) : (d.setInst n x).ctxs = d.ctxs := rfl
@[simp] theorem Dev.setInst_threads (d : Dev) (n : Nat) (x : Inst) : (d.setInst n x).threads = d.threads := rfl
@[simp] theorem Dev.setInst_groups (d : Dev) (n : Nat) (x : Inst) : (d.setInst n x).groups = d.groups := rfl
@[simp] theorem Dev.setInst_flight (d : Dev) (n : Nat) (x : Inst) : (d.setInst n x).flight = d.flight := rfl
@[simp] theorem Dev.setInst_retained (d : Dev) (n : Nat) (x : Inst) : (d.setInst n x).retained = d.retained := rfl
@[simp] theorem Dev.setInst_waits (d : Dev) (n : Nat) (x : Inst) : (d.setInst n x).waits = d.waits := rfl
@[simp] theorem Dev.setInst_copies (d : Dev) (n : Nat) (x : Inst) : (d.setInst n x).copies = d.copies := rfl
@[simp] theorem Dev.setInst_fwds (d : Dev) (n : Nat) (x : Inst) : (d.setInst n x).fwds = d.fwds := rfl
@[simp] theorem Dev.setInst_rels (d : Dev) (n : Nat) (x : Inst) : (d.setInst n x).rels = d.rels := rfl
@[simp] theorem Dev.setInst_spStores (d : Dev) (n : Nat) (x : Inst) : (d.setInst n x).spStores = d.spStores := rfl
@[simp] theorem Dev.setInst_handovers (d : Dev) (n : Nat) (x : Inst) : (d.setInst n x).handovers = d.handovers := rfl
@[simp] theorem Dev.setInst_arrWaits (d : Dev) (n : Nat) (x : Inst) : (d.setInst n x).arrWaits = d.arrWaits := rfl
@[simp] theorem Dev.setInst_pool (d : Dev) (n : Nat) (x : Inst) : (d.setInst n x).pool = d.pool := rfl
@[simp] theorem Dev.setInst_preqs (d : Dev) (n : Nat) (x : Inst) : (d.setInst n x).preqs = d.preqs := rfl
@[simp] theorem Dev.setInst_preqNext (d : Dev) (n : Nat) (x : Inst) : (d.setInst n x).preqNext = d.preqNext := rfl
@[simp] theorem Dev.setInst_pcmds (d : Dev) (n : Nat) (x : Inst) : (d.setInst n x).pcmds = d.pcmds := rfl
@[simp] theorem Dev.setInst_pubs (d : Dev) (n : Nat) (x : Inst) : (d.setInst n x).pubs = d.pubs := rfl
@[simp] theorem Dev.setInst_tcaches (d : Dev) (n : Nat) (x : Inst) : (d.setInst n x).tcaches = d.tcaches := rfl
@[simp] theorem Dev.setInst_l2 (d : Dev) (n : Nat) (x : Inst) : (d.setInst n x).l2 = d.l2 := rfl
@[simp] theorem Dev.setInst_poison (d : Dev) (n : Nat) (x : Inst) : (d.setInst n x).poison = d.poison := rfl
@[simp] theorem Dev.setInst_verifs (d : Dev) (n : Nat) (x : Inst) : (d.setInst n x).verifs = d.verifs := rfl
@[simp] theorem Dev.setInst_wprot (d : Dev) (n : Nat) (x : Inst) : (d.setInst n x).wprot = d.wprot := rfl
@[simp] theorem Dev.setInst_gidNext (d : Dev) (n : Nat) (x : Inst) : (d.setInst n x).gidNext = d.gidNext := rfl
@[simp] theorem Dev.setInst_ports (d : Dev) (n : Nat) (x : Inst) : (d.setInst n x).ports = d.ports := rfl
@[simp] theorem Dev.setInst_routes (d : Dev) (n : Nat) (x : Inst) : (d.setInst n x).routes = d.routes := rfl
@[simp] theorem Dev.setInst_cxl (d : Dev) (n : Nat) (x : Inst) : (d.setInst n x).cxl = d.cxl := rfl
@[simp] theorem Dev.setInst_remotes (d : Dev) (n : Nat) (x : Inst) : (d.setInst n x).remotes = d.remotes := rfl
@[simp] theorem Dev.setInst_colls (d : Dev) (n : Nat) (x : Inst) : (d.setInst n x).colls = d.colls := rfl
@[simp] theorem Dev.setInst_ptpOff (d : Dev) (n : Nat) (x : Inst) : (d.setInst n x).ptpOff = d.ptpOff := rfl
@[simp] theorem Dev.setInst_slew (d : Dev) (n : Nat) (x : Inst) : (d.setInst n x).slew = d.slew := rfl
@[simp] theorem Dev.setInst_dumpQ (d : Dev) (n : Nat) (x : Inst) : (d.setInst n x).dumpQ = d.dumpQ := rfl
@[simp] theorem Dev.setInst_dumping (d : Dev) (n : Nat) (x : Inst) : (d.setInst n x).dumping = d.dumping := rfl
@[simp] theorem Dev.setInst_reqTail (d : Dev) (n : Nat) (x : Inst) : (d.setInst n x).reqTail = d.reqTail := rfl
@[simp] theorem Dev.setInst_heldReqs (d : Dev) (n : Nat) (x : Inst) : (d.setInst n x).heldReqs = d.heldReqs := rfl
@[simp] theorem Dev.setInst_notifyIdx (d : Dev) (n : Nat) (x : Inst) : (d.setInst n x).notifyIdx = d.notifyIdx := rfl
@[simp] theorem Dev.setInst_images (d : Dev) (n : Nat) (x : Inst) : (d.setInst n x).images = d.images := rfl
@[simp] theorem Dev.setInst_life (d : Dev) (n : Nat) (x : Inst) : (d.setInst n x).life = d.life := rfl
@[simp] theorem Dev.setInst_lifeStored (d : Dev) (n : Nat) (x : Inst) : (d.setInst n x).lifeStored = d.lifeStored := rfl
@[simp] theorem Dev.setInst_spdm (d : Dev) (n : Nat) (x : Inst) : (d.setInst n x).spdm = d.spdm := rfl
@[simp] theorem Dev.setInst_seenTags (d : Dev) (n : Nat) (x : Inst) : (d.setInst n x).seenTags = d.seenTags := rfl
@[simp] theorem Dev.setInst_earlyCxl (d : Dev) (n : Nat) (x : Inst) : (d.setInst n x).earlyCxl = d.earlyCxl := rfl
@[simp] theorem Dev.setInst_cxlReads (d : Dev) (n : Nat) (x : Inst) : (d.setInst n x).cxlReads = d.cxlReads := rfl
@[simp] theorem Dev.setInst_hostHeld (d : Dev) (n : Nat) (x : Inst) : (d.setInst n x).hostHeld = d.hostHeld := rfl
@[simp] theorem Dev.setInst_unlocks (d : Dev) (n : Nat) (x : Inst) : (d.setInst n x).unlocks = d.unlocks := rfl
@[simp] theorem Dev.setInst_io (d : Dev) (n : Nat) (x : Inst) : (d.setInst n x).io = d.io := rfl

/-! ### `modGrid` -/

@[simp] theorem Dev.modGrid_now (d : Dev) (g : Nat) (f : Grid → Grid) : (d.modGrid g f).now = d.now := rfl
@[simp] theorem Dev.modGrid_cycle (d : Dev) (g : Nat) (f : Grid → Grid) : (d.modGrid g f).cycle = d.cycle := rfl
@[simp] theorem Dev.modGrid_freeCtr (d : Dev) (g : Nat) (f : Grid → Grid) : (d.modGrid g f).freeCtr = d.freeCtr := rfl
@[simp] theorem Dev.modGrid_nextId (d : Dev) (g : Nat) (f : Grid → Grid) : (d.modGrid g f).nextId = d.nextId := rfl
@[simp] theorem Dev.modGrid_focus (d : Dev) (g : Nat) (f : Grid → Grid) : (d.modGrid g f).focus = d.focus := rfl
@[simp] theorem Dev.modGrid_arg (d : Dev) (g : Nat) (f : Grid → Grid) : (d.modGrid g f).arg = d.arg := rfl
@[simp] theorem Dev.modGrid_fields (d : Dev) (g : Nat) (f : Grid → Grid) : (d.modGrid g f).fields = d.fields := rfl
@[simp] theorem Dev.modGrid_ctxs (d : Dev) (g : Nat) (f : Grid → Grid) : (d.modGrid g f).ctxs = d.ctxs := rfl
@[simp] theorem Dev.modGrid_threads (d : Dev) (g : Nat) (f : Grid → Grid) : (d.modGrid g f).threads = d.threads := rfl
@[simp] theorem Dev.modGrid_groups (d : Dev) (g : Nat) (f : Grid → Grid) : (d.modGrid g f).groups = d.groups := rfl
@[simp] theorem Dev.modGrid_insts (d : Dev) (g : Nat) (f : Grid → Grid) : (d.modGrid g f).insts = d.insts := rfl
@[simp] theorem Dev.modGrid_flight (d : Dev) (g : Nat) (f : Grid → Grid) : (d.modGrid g f).flight = d.flight := rfl
@[simp] theorem Dev.modGrid_retained (d : Dev) (g : Nat) (f : Grid → Grid) : (d.modGrid g f).retained = d.retained := rfl
@[simp] theorem Dev.modGrid_waits (d : Dev) (g : Nat) (f : Grid → Grid) : (d.modGrid g f).waits = d.waits := rfl
@[simp] theorem Dev.modGrid_copies (d : Dev) (g : Nat) (f : Grid → Grid) : (d.modGrid g f).copies = d.copies := rfl
@[simp] theorem Dev.modGrid_fwds (d : Dev) (g : Nat) (f : Grid → Grid) : (d.modGrid g f).fwds = d.fwds := rfl
@[simp] theorem Dev.modGrid_rels (d : Dev) (g : Nat) (f : Grid → Grid) : (d.modGrid g f).rels = d.rels := rfl
@[simp] theorem Dev.modGrid_spStores (d : Dev) (g : Nat) (f : Grid → Grid) : (d.modGrid g f).spStores = d.spStores := rfl
@[simp] theorem Dev.modGrid_handovers (d : Dev) (g : Nat) (f : Grid → Grid) : (d.modGrid g f).handovers = d.handovers := rfl
@[simp] theorem Dev.modGrid_arrWaits (d : Dev) (g : Nat) (f : Grid → Grid) : (d.modGrid g f).arrWaits = d.arrWaits := rfl
@[simp] theorem Dev.modGrid_pool (d : Dev) (g : Nat) (f : Grid → Grid) : (d.modGrid g f).pool = d.pool := rfl
@[simp] theorem Dev.modGrid_preqs (d : Dev) (g : Nat) (f : Grid → Grid) : (d.modGrid g f).preqs = d.preqs := rfl
@[simp] theorem Dev.modGrid_preqNext (d : Dev) (g : Nat) (f : Grid → Grid) : (d.modGrid g f).preqNext = d.preqNext := rfl
@[simp] theorem Dev.modGrid_pcmds (d : Dev) (g : Nat) (f : Grid → Grid) : (d.modGrid g f).pcmds = d.pcmds := rfl
@[simp] theorem Dev.modGrid_pubs (d : Dev) (g : Nat) (f : Grid → Grid) : (d.modGrid g f).pubs = d.pubs := rfl
@[simp] theorem Dev.modGrid_tcaches (d : Dev) (g : Nat) (f : Grid → Grid) : (d.modGrid g f).tcaches = d.tcaches := rfl
@[simp] theorem Dev.modGrid_l2 (d : Dev) (g : Nat) (f : Grid → Grid) : (d.modGrid g f).l2 = d.l2 := rfl
@[simp] theorem Dev.modGrid_poison (d : Dev) (g : Nat) (f : Grid → Grid) : (d.modGrid g f).poison = d.poison := rfl
@[simp] theorem Dev.modGrid_verifs (d : Dev) (g : Nat) (f : Grid → Grid) : (d.modGrid g f).verifs = d.verifs := rfl
@[simp] theorem Dev.modGrid_wprot (d : Dev) (g : Nat) (f : Grid → Grid) : (d.modGrid g f).wprot = d.wprot := rfl
@[simp] theorem Dev.modGrid_gidNext (d : Dev) (g : Nat) (f : Grid → Grid) : (d.modGrid g f).gidNext = d.gidNext := rfl
@[simp] theorem Dev.modGrid_ports (d : Dev) (g : Nat) (f : Grid → Grid) : (d.modGrid g f).ports = d.ports := rfl
@[simp] theorem Dev.modGrid_routes (d : Dev) (g : Nat) (f : Grid → Grid) : (d.modGrid g f).routes = d.routes := rfl
@[simp] theorem Dev.modGrid_cxl (d : Dev) (g : Nat) (f : Grid → Grid) : (d.modGrid g f).cxl = d.cxl := rfl
@[simp] theorem Dev.modGrid_remotes (d : Dev) (g : Nat) (f : Grid → Grid) : (d.modGrid g f).remotes = d.remotes := rfl
@[simp] theorem Dev.modGrid_colls (d : Dev) (g : Nat) (f : Grid → Grid) : (d.modGrid g f).colls = d.colls := rfl
@[simp] theorem Dev.modGrid_ptpOff (d : Dev) (g : Nat) (f : Grid → Grid) : (d.modGrid g f).ptpOff = d.ptpOff := rfl
@[simp] theorem Dev.modGrid_slew (d : Dev) (g : Nat) (f : Grid → Grid) : (d.modGrid g f).slew = d.slew := rfl
@[simp] theorem Dev.modGrid_dumpQ (d : Dev) (g : Nat) (f : Grid → Grid) : (d.modGrid g f).dumpQ = d.dumpQ := rfl
@[simp] theorem Dev.modGrid_dumping (d : Dev) (g : Nat) (f : Grid → Grid) : (d.modGrid g f).dumping = d.dumping := rfl
@[simp] theorem Dev.modGrid_reqTail (d : Dev) (g : Nat) (f : Grid → Grid) : (d.modGrid g f).reqTail = d.reqTail := rfl
@[simp] theorem Dev.modGrid_heldReqs (d : Dev) (g : Nat) (f : Grid → Grid) : (d.modGrid g f).heldReqs = d.heldReqs := rfl
@[simp] theorem Dev.modGrid_notifyIdx (d : Dev) (g : Nat) (f : Grid → Grid) : (d.modGrid g f).notifyIdx = d.notifyIdx := rfl
@[simp] theorem Dev.modGrid_images (d : Dev) (g : Nat) (f : Grid → Grid) : (d.modGrid g f).images = d.images := rfl
@[simp] theorem Dev.modGrid_life (d : Dev) (g : Nat) (f : Grid → Grid) : (d.modGrid g f).life = d.life := rfl
@[simp] theorem Dev.modGrid_lifeStored (d : Dev) (g : Nat) (f : Grid → Grid) : (d.modGrid g f).lifeStored = d.lifeStored := rfl
@[simp] theorem Dev.modGrid_spdm (d : Dev) (g : Nat) (f : Grid → Grid) : (d.modGrid g f).spdm = d.spdm := rfl
@[simp] theorem Dev.modGrid_seenTags (d : Dev) (g : Nat) (f : Grid → Grid) : (d.modGrid g f).seenTags = d.seenTags := rfl
@[simp] theorem Dev.modGrid_earlyCxl (d : Dev) (g : Nat) (f : Grid → Grid) : (d.modGrid g f).earlyCxl = d.earlyCxl := rfl
@[simp] theorem Dev.modGrid_cxlReads (d : Dev) (g : Nat) (f : Grid → Grid) : (d.modGrid g f).cxlReads = d.cxlReads := rfl
@[simp] theorem Dev.modGrid_hostHeld (d : Dev) (g : Nat) (f : Grid → Grid) : (d.modGrid g f).hostHeld = d.hostHeld := rfl
@[simp] theorem Dev.modGrid_unlocks (d : Dev) (g : Nat) (f : Grid → Grid) : (d.modGrid g f).unlocks = d.unlocks := rfl
@[simp] theorem Dev.modGrid_io (d : Dev) (g : Nat) (f : Grid → Grid) : (d.modGrid g f).io = d.io := rfl

/-! ### `modField` -/

@[simp] theorem Dev.modField_now (d : Dev) (k : Nat) (f : Field → Field) : (d.modField k f).now = d.now := rfl
@[simp] theorem Dev.modField_cycle (d : Dev) (k : Nat) (f : Field → Field) : (d.modField k f).cycle = d.cycle := rfl
@[simp] theorem Dev.modField_freeCtr (d : Dev) (k : Nat) (f : Field → Field) : (d.modField k f).freeCtr = d.freeCtr := rfl
@[simp] theorem Dev.modField_nextId (d : Dev) (k : Nat) (f : Field → Field) : (d.modField k f).nextId = d.nextId := rfl
@[simp] theorem Dev.modField_focus (d : Dev) (k : Nat) (f : Field → Field) : (d.modField k f).focus = d.focus := rfl
@[simp] theorem Dev.modField_arg (d : Dev) (k : Nat) (f : Field → Field) : (d.modField k f).arg = d.arg := rfl
@[simp] theorem Dev.modField_grids (d : Dev) (k : Nat) (f : Field → Field) : (d.modField k f).grids = d.grids := rfl
@[simp] theorem Dev.modField_ctxs (d : Dev) (k : Nat) (f : Field → Field) : (d.modField k f).ctxs = d.ctxs := rfl
@[simp] theorem Dev.modField_threads (d : Dev) (k : Nat) (f : Field → Field) : (d.modField k f).threads = d.threads := rfl
@[simp] theorem Dev.modField_groups (d : Dev) (k : Nat) (f : Field → Field) : (d.modField k f).groups = d.groups := rfl
@[simp] theorem Dev.modField_insts (d : Dev) (k : Nat) (f : Field → Field) : (d.modField k f).insts = d.insts := rfl
@[simp] theorem Dev.modField_flight (d : Dev) (k : Nat) (f : Field → Field) : (d.modField k f).flight = d.flight := rfl
@[simp] theorem Dev.modField_retained (d : Dev) (k : Nat) (f : Field → Field) : (d.modField k f).retained = d.retained := rfl
@[simp] theorem Dev.modField_waits (d : Dev) (k : Nat) (f : Field → Field) : (d.modField k f).waits = d.waits := rfl
@[simp] theorem Dev.modField_copies (d : Dev) (k : Nat) (f : Field → Field) : (d.modField k f).copies = d.copies := rfl
@[simp] theorem Dev.modField_fwds (d : Dev) (k : Nat) (f : Field → Field) : (d.modField k f).fwds = d.fwds := rfl
@[simp] theorem Dev.modField_rels (d : Dev) (k : Nat) (f : Field → Field) : (d.modField k f).rels = d.rels := rfl
@[simp] theorem Dev.modField_spStores (d : Dev) (k : Nat) (f : Field → Field) : (d.modField k f).spStores = d.spStores := rfl
@[simp] theorem Dev.modField_handovers (d : Dev) (k : Nat) (f : Field → Field) : (d.modField k f).handovers = d.handovers := rfl
@[simp] theorem Dev.modField_arrWaits (d : Dev) (k : Nat) (f : Field → Field) : (d.modField k f).arrWaits = d.arrWaits := rfl
@[simp] theorem Dev.modField_pool (d : Dev) (k : Nat) (f : Field → Field) : (d.modField k f).pool = d.pool := rfl
@[simp] theorem Dev.modField_preqs (d : Dev) (k : Nat) (f : Field → Field) : (d.modField k f).preqs = d.preqs := rfl
@[simp] theorem Dev.modField_preqNext (d : Dev) (k : Nat) (f : Field → Field) : (d.modField k f).preqNext = d.preqNext := rfl
@[simp] theorem Dev.modField_pcmds (d : Dev) (k : Nat) (f : Field → Field) : (d.modField k f).pcmds = d.pcmds := rfl
@[simp] theorem Dev.modField_pubs (d : Dev) (k : Nat) (f : Field → Field) : (d.modField k f).pubs = d.pubs := rfl
@[simp] theorem Dev.modField_tcaches (d : Dev) (k : Nat) (f : Field → Field) : (d.modField k f).tcaches = d.tcaches := rfl
@[simp] theorem Dev.modField_l2 (d : Dev) (k : Nat) (f : Field → Field) : (d.modField k f).l2 = d.l2 := rfl
@[simp] theorem Dev.modField_poison (d : Dev) (k : Nat) (f : Field → Field) : (d.modField k f).poison = d.poison := rfl
@[simp] theorem Dev.modField_verifs (d : Dev) (k : Nat) (f : Field → Field) : (d.modField k f).verifs = d.verifs := rfl
@[simp] theorem Dev.modField_wprot (d : Dev) (k : Nat) (f : Field → Field) : (d.modField k f).wprot = d.wprot := rfl
@[simp] theorem Dev.modField_gidNext (d : Dev) (k : Nat) (f : Field → Field) : (d.modField k f).gidNext = d.gidNext := rfl
@[simp] theorem Dev.modField_ports (d : Dev) (k : Nat) (f : Field → Field) : (d.modField k f).ports = d.ports := rfl
@[simp] theorem Dev.modField_routes (d : Dev) (k : Nat) (f : Field → Field) : (d.modField k f).routes = d.routes := rfl
@[simp] theorem Dev.modField_cxl (d : Dev) (k : Nat) (f : Field → Field) : (d.modField k f).cxl = d.cxl := rfl
@[simp] theorem Dev.modField_remotes (d : Dev) (k : Nat) (f : Field → Field) : (d.modField k f).remotes = d.remotes := rfl
@[simp] theorem Dev.modField_colls (d : Dev) (k : Nat) (f : Field → Field) : (d.modField k f).colls = d.colls := rfl
@[simp] theorem Dev.modField_ptpOff (d : Dev) (k : Nat) (f : Field → Field) : (d.modField k f).ptpOff = d.ptpOff := rfl
@[simp] theorem Dev.modField_slew (d : Dev) (k : Nat) (f : Field → Field) : (d.modField k f).slew = d.slew := rfl
@[simp] theorem Dev.modField_dumpQ (d : Dev) (k : Nat) (f : Field → Field) : (d.modField k f).dumpQ = d.dumpQ := rfl
@[simp] theorem Dev.modField_dumping (d : Dev) (k : Nat) (f : Field → Field) : (d.modField k f).dumping = d.dumping := rfl
@[simp] theorem Dev.modField_reqTail (d : Dev) (k : Nat) (f : Field → Field) : (d.modField k f).reqTail = d.reqTail := rfl
@[simp] theorem Dev.modField_heldReqs (d : Dev) (k : Nat) (f : Field → Field) : (d.modField k f).heldReqs = d.heldReqs := rfl
@[simp] theorem Dev.modField_notifyIdx (d : Dev) (k : Nat) (f : Field → Field) : (d.modField k f).notifyIdx = d.notifyIdx := rfl
@[simp] theorem Dev.modField_images (d : Dev) (k : Nat) (f : Field → Field) : (d.modField k f).images = d.images := rfl
@[simp] theorem Dev.modField_life (d : Dev) (k : Nat) (f : Field → Field) : (d.modField k f).life = d.life := rfl
@[simp] theorem Dev.modField_lifeStored (d : Dev) (k : Nat) (f : Field → Field) : (d.modField k f).lifeStored = d.lifeStored := rfl
@[simp] theorem Dev.modField_spdm (d : Dev) (k : Nat) (f : Field → Field) : (d.modField k f).spdm = d.spdm := rfl
@[simp] theorem Dev.modField_seenTags (d : Dev) (k : Nat) (f : Field → Field) : (d.modField k f).seenTags = d.seenTags := rfl
@[simp] theorem Dev.modField_earlyCxl (d : Dev) (k : Nat) (f : Field → Field) : (d.modField k f).earlyCxl = d.earlyCxl := rfl
@[simp] theorem Dev.modField_cxlReads (d : Dev) (k : Nat) (f : Field → Field) : (d.modField k f).cxlReads = d.cxlReads := rfl
@[simp] theorem Dev.modField_hostHeld (d : Dev) (k : Nat) (f : Field → Field) : (d.modField k f).hostHeld = d.hostHeld := rfl
@[simp] theorem Dev.modField_unlocks (d : Dev) (k : Nat) (f : Field → Field) : (d.modField k f).unlocks = d.unlocks := rfl
@[simp] theorem Dev.modField_io (d : Dev) (k : Nat) (f : Field → Field) : (d.modField k f).io = d.io := rfl

/-! ### `modGroup` -/

@[simp] theorem Dev.modGroup_now (d : Dev) (c g : Nat) (f : Group → Group) : (d.modGroup c g f).now = d.now := rfl
@[simp] theorem Dev.modGroup_cycle (d : Dev) (c g : Nat) (f : Group → Group) : (d.modGroup c g f).cycle = d.cycle := rfl
@[simp] theorem Dev.modGroup_freeCtr (d : Dev) (c g : Nat) (f : Group → Group) : (d.modGroup c g f).freeCtr = d.freeCtr := rfl
@[simp] theorem Dev.modGroup_nextId (d : Dev) (c g : Nat) (f : Group → Group) : (d.modGroup c g f).nextId = d.nextId := rfl
@[simp] theorem Dev.modGroup_focus (d : Dev) (c g : Nat) (f : Group → Group) : (d.modGroup c g f).focus = d.focus := rfl
@[simp] theorem Dev.modGroup_arg (d : Dev) (c g : Nat) (f : Group → Group) : (d.modGroup c g f).arg = d.arg := rfl
@[simp] theorem Dev.modGroup_grids (d : Dev) (c g : Nat) (f : Group → Group) : (d.modGroup c g f).grids = d.grids := rfl
@[simp] theorem Dev.modGroup_fields (d : Dev) (c g : Nat) (f : Group → Group) : (d.modGroup c g f).fields = d.fields := rfl
@[simp] theorem Dev.modGroup_ctxs (d : Dev) (c g : Nat) (f : Group → Group) : (d.modGroup c g f).ctxs = d.ctxs := rfl
@[simp] theorem Dev.modGroup_threads (d : Dev) (c g : Nat) (f : Group → Group) : (d.modGroup c g f).threads = d.threads := rfl
@[simp] theorem Dev.modGroup_insts (d : Dev) (c g : Nat) (f : Group → Group) : (d.modGroup c g f).insts = d.insts := rfl
@[simp] theorem Dev.modGroup_flight (d : Dev) (c g : Nat) (f : Group → Group) : (d.modGroup c g f).flight = d.flight := rfl
@[simp] theorem Dev.modGroup_retained (d : Dev) (c g : Nat) (f : Group → Group) : (d.modGroup c g f).retained = d.retained := rfl
@[simp] theorem Dev.modGroup_waits (d : Dev) (c g : Nat) (f : Group → Group) : (d.modGroup c g f).waits = d.waits := rfl
@[simp] theorem Dev.modGroup_copies (d : Dev) (c g : Nat) (f : Group → Group) : (d.modGroup c g f).copies = d.copies := rfl
@[simp] theorem Dev.modGroup_fwds (d : Dev) (c g : Nat) (f : Group → Group) : (d.modGroup c g f).fwds = d.fwds := rfl
@[simp] theorem Dev.modGroup_rels (d : Dev) (c g : Nat) (f : Group → Group) : (d.modGroup c g f).rels = d.rels := rfl
@[simp] theorem Dev.modGroup_spStores (d : Dev) (c g : Nat) (f : Group → Group) : (d.modGroup c g f).spStores = d.spStores := rfl
@[simp] theorem Dev.modGroup_handovers (d : Dev) (c g : Nat) (f : Group → Group) : (d.modGroup c g f).handovers = d.handovers := rfl
@[simp] theorem Dev.modGroup_arrWaits (d : Dev) (c g : Nat) (f : Group → Group) : (d.modGroup c g f).arrWaits = d.arrWaits := rfl
@[simp] theorem Dev.modGroup_pool (d : Dev) (c g : Nat) (f : Group → Group) : (d.modGroup c g f).pool = d.pool := rfl
@[simp] theorem Dev.modGroup_preqs (d : Dev) (c g : Nat) (f : Group → Group) : (d.modGroup c g f).preqs = d.preqs := rfl
@[simp] theorem Dev.modGroup_preqNext (d : Dev) (c g : Nat) (f : Group → Group) : (d.modGroup c g f).preqNext = d.preqNext := rfl
@[simp] theorem Dev.modGroup_pcmds (d : Dev) (c g : Nat) (f : Group → Group) : (d.modGroup c g f).pcmds = d.pcmds := rfl
@[simp] theorem Dev.modGroup_pubs (d : Dev) (c g : Nat) (f : Group → Group) : (d.modGroup c g f).pubs = d.pubs := rfl
@[simp] theorem Dev.modGroup_tcaches (d : Dev) (c g : Nat) (f : Group → Group) : (d.modGroup c g f).tcaches = d.tcaches := rfl
@[simp] theorem Dev.modGroup_l2 (d : Dev) (c g : Nat) (f : Group → Group) : (d.modGroup c g f).l2 = d.l2 := rfl
@[simp] theorem Dev.modGroup_poison (d : Dev) (c g : Nat) (f : Group → Group) : (d.modGroup c g f).poison = d.poison := rfl
@[simp] theorem Dev.modGroup_verifs (d : Dev) (c g : Nat) (f : Group → Group) : (d.modGroup c g f).verifs = d.verifs := rfl
@[simp] theorem Dev.modGroup_wprot (d : Dev) (c g : Nat) (f : Group → Group) : (d.modGroup c g f).wprot = d.wprot := rfl
@[simp] theorem Dev.modGroup_gidNext (d : Dev) (c g : Nat) (f : Group → Group) : (d.modGroup c g f).gidNext = d.gidNext := rfl
@[simp] theorem Dev.modGroup_ports (d : Dev) (c g : Nat) (f : Group → Group) : (d.modGroup c g f).ports = d.ports := rfl
@[simp] theorem Dev.modGroup_routes (d : Dev) (c g : Nat) (f : Group → Group) : (d.modGroup c g f).routes = d.routes := rfl
@[simp] theorem Dev.modGroup_cxl (d : Dev) (c g : Nat) (f : Group → Group) : (d.modGroup c g f).cxl = d.cxl := rfl
@[simp] theorem Dev.modGroup_remotes (d : Dev) (c g : Nat) (f : Group → Group) : (d.modGroup c g f).remotes = d.remotes := rfl
@[simp] theorem Dev.modGroup_colls (d : Dev) (c g : Nat) (f : Group → Group) : (d.modGroup c g f).colls = d.colls := rfl
@[simp] theorem Dev.modGroup_ptpOff (d : Dev) (c g : Nat) (f : Group → Group) : (d.modGroup c g f).ptpOff = d.ptpOff := rfl
@[simp] theorem Dev.modGroup_slew (d : Dev) (c g : Nat) (f : Group → Group) : (d.modGroup c g f).slew = d.slew := rfl
@[simp] theorem Dev.modGroup_dumpQ (d : Dev) (c g : Nat) (f : Group → Group) : (d.modGroup c g f).dumpQ = d.dumpQ := rfl
@[simp] theorem Dev.modGroup_dumping (d : Dev) (c g : Nat) (f : Group → Group) : (d.modGroup c g f).dumping = d.dumping := rfl
@[simp] theorem Dev.modGroup_reqTail (d : Dev) (c g : Nat) (f : Group → Group) : (d.modGroup c g f).reqTail = d.reqTail := rfl
@[simp] theorem Dev.modGroup_heldReqs (d : Dev) (c g : Nat) (f : Group → Group) : (d.modGroup c g f).heldReqs = d.heldReqs := rfl
@[simp] theorem Dev.modGroup_notifyIdx (d : Dev) (c g : Nat) (f : Group → Group) : (d.modGroup c g f).notifyIdx = d.notifyIdx := rfl
@[simp] theorem Dev.modGroup_images (d : Dev) (c g : Nat) (f : Group → Group) : (d.modGroup c g f).images = d.images := rfl
@[simp] theorem Dev.modGroup_life (d : Dev) (c g : Nat) (f : Group → Group) : (d.modGroup c g f).life = d.life := rfl
@[simp] theorem Dev.modGroup_lifeStored (d : Dev) (c g : Nat) (f : Group → Group) : (d.modGroup c g f).lifeStored = d.lifeStored := rfl
@[simp] theorem Dev.modGroup_spdm (d : Dev) (c g : Nat) (f : Group → Group) : (d.modGroup c g f).spdm = d.spdm := rfl
@[simp] theorem Dev.modGroup_seenTags (d : Dev) (c g : Nat) (f : Group → Group) : (d.modGroup c g f).seenTags = d.seenTags := rfl
@[simp] theorem Dev.modGroup_earlyCxl (d : Dev) (c g : Nat) (f : Group → Group) : (d.modGroup c g f).earlyCxl = d.earlyCxl := rfl
@[simp] theorem Dev.modGroup_cxlReads (d : Dev) (c g : Nat) (f : Group → Group) : (d.modGroup c g f).cxlReads = d.cxlReads := rfl
@[simp] theorem Dev.modGroup_hostHeld (d : Dev) (c g : Nat) (f : Group → Group) : (d.modGroup c g f).hostHeld = d.hostHeld := rfl
@[simp] theorem Dev.modGroup_unlocks (d : Dev) (c g : Nat) (f : Group → Group) : (d.modGroup c g f).unlocks = d.unlocks := rfl
@[simp] theorem Dev.modGroup_io (d : Dev) (c g : Nat) (f : Group → Group) : (d.modGroup c g f).io = d.io := rfl

/-! ### `emit` -/

@[simp] theorem Dev.emit_now (d : Dev) (c : Firing) (o : Out) : (d.emit c o).now = d.now := rfl
@[simp] theorem Dev.emit_cycle (d : Dev) (c : Firing) (o : Out) : (d.emit c o).cycle = d.cycle := rfl
@[simp] theorem Dev.emit_freeCtr (d : Dev) (c : Firing) (o : Out) : (d.emit c o).freeCtr = d.freeCtr := rfl
@[simp] theorem Dev.emit_nextId (d : Dev) (c : Firing) (o : Out) : (d.emit c o).nextId = d.nextId := rfl
@[simp] theorem Dev.emit_focus (d : Dev) (c : Firing) (o : Out) : (d.emit c o).focus = d.focus := rfl
@[simp] theorem Dev.emit_arg (d : Dev) (c : Firing) (o : Out) : (d.emit c o).arg = d.arg := rfl
@[simp] theorem Dev.emit_grids (d : Dev) (c : Firing) (o : Out) : (d.emit c o).grids = d.grids := rfl
@[simp] theorem Dev.emit_fields (d : Dev) (c : Firing) (o : Out) : (d.emit c o).fields = d.fields := rfl
@[simp] theorem Dev.emit_ctxs (d : Dev) (c : Firing) (o : Out) : (d.emit c o).ctxs = d.ctxs := rfl
@[simp] theorem Dev.emit_threads (d : Dev) (c : Firing) (o : Out) : (d.emit c o).threads = d.threads := rfl
@[simp] theorem Dev.emit_groups (d : Dev) (c : Firing) (o : Out) : (d.emit c o).groups = d.groups := rfl
@[simp] theorem Dev.emit_retained (d : Dev) (c : Firing) (o : Out) : (d.emit c o).retained = d.retained := rfl
@[simp] theorem Dev.emit_waits (d : Dev) (c : Firing) (o : Out) : (d.emit c o).waits = d.waits := rfl
@[simp] theorem Dev.emit_copies (d : Dev) (c : Firing) (o : Out) : (d.emit c o).copies = d.copies := rfl
@[simp] theorem Dev.emit_fwds (d : Dev) (c : Firing) (o : Out) : (d.emit c o).fwds = d.fwds := rfl
@[simp] theorem Dev.emit_rels (d : Dev) (c : Firing) (o : Out) : (d.emit c o).rels = d.rels := rfl
@[simp] theorem Dev.emit_spStores (d : Dev) (c : Firing) (o : Out) : (d.emit c o).spStores = d.spStores := rfl
@[simp] theorem Dev.emit_handovers (d : Dev) (c : Firing) (o : Out) : (d.emit c o).handovers = d.handovers := rfl
@[simp] theorem Dev.emit_arrWaits (d : Dev) (c : Firing) (o : Out) : (d.emit c o).arrWaits = d.arrWaits := rfl
@[simp] theorem Dev.emit_pool (d : Dev) (c : Firing) (o : Out) : (d.emit c o).pool = d.pool := rfl
@[simp] theorem Dev.emit_preqs (d : Dev) (c : Firing) (o : Out) : (d.emit c o).preqs = d.preqs := rfl
@[simp] theorem Dev.emit_preqNext (d : Dev) (c : Firing) (o : Out) : (d.emit c o).preqNext = d.preqNext := rfl
@[simp] theorem Dev.emit_pcmds (d : Dev) (c : Firing) (o : Out) : (d.emit c o).pcmds = d.pcmds := rfl
@[simp] theorem Dev.emit_pubs (d : Dev) (c : Firing) (o : Out) : (d.emit c o).pubs = d.pubs := rfl
@[simp] theorem Dev.emit_tcaches (d : Dev) (c : Firing) (o : Out) : (d.emit c o).tcaches = d.tcaches := rfl
@[simp] theorem Dev.emit_l2 (d : Dev) (c : Firing) (o : Out) : (d.emit c o).l2 = d.l2 := rfl
@[simp] theorem Dev.emit_poison (d : Dev) (c : Firing) (o : Out) : (d.emit c o).poison = d.poison := rfl
@[simp] theorem Dev.emit_verifs (d : Dev) (c : Firing) (o : Out) : (d.emit c o).verifs = d.verifs := rfl
@[simp] theorem Dev.emit_wprot (d : Dev) (c : Firing) (o : Out) : (d.emit c o).wprot = d.wprot := rfl
@[simp] theorem Dev.emit_gidNext (d : Dev) (c : Firing) (o : Out) : (d.emit c o).gidNext = d.gidNext := rfl
@[simp] theorem Dev.emit_ports (d : Dev) (c : Firing) (o : Out) : (d.emit c o).ports = d.ports := rfl
@[simp] theorem Dev.emit_routes (d : Dev) (c : Firing) (o : Out) : (d.emit c o).routes = d.routes := rfl
@[simp] theorem Dev.emit_cxl (d : Dev) (c : Firing) (o : Out) : (d.emit c o).cxl = d.cxl := rfl
@[simp] theorem Dev.emit_remotes (d : Dev) (c : Firing) (o : Out) : (d.emit c o).remotes = d.remotes := rfl
@[simp] theorem Dev.emit_colls (d : Dev) (c : Firing) (o : Out) : (d.emit c o).colls = d.colls := rfl
@[simp] theorem Dev.emit_ptpOff (d : Dev) (c : Firing) (o : Out) : (d.emit c o).ptpOff = d.ptpOff := rfl
@[simp] theorem Dev.emit_slew (d : Dev) (c : Firing) (o : Out) : (d.emit c o).slew = d.slew := rfl
@[simp] theorem Dev.emit_dumpQ (d : Dev) (c : Firing) (o : Out) : (d.emit c o).dumpQ = d.dumpQ := rfl
@[simp] theorem Dev.emit_dumping (d : Dev) (c : Firing) (o : Out) : (d.emit c o).dumping = d.dumping := rfl
@[simp] theorem Dev.emit_reqTail (d : Dev) (c : Firing) (o : Out) : (d.emit c o).reqTail = d.reqTail := rfl
@[simp] theorem Dev.emit_heldReqs (d : Dev) (c : Firing) (o : Out) : (d.emit c o).heldReqs = d.heldReqs := rfl
@[simp] theorem Dev.emit_notifyIdx (d : Dev) (c : Firing) (o : Out) : (d.emit c o).notifyIdx = d.notifyIdx := rfl
@[simp] theorem Dev.emit_images (d : Dev) (c : Firing) (o : Out) : (d.emit c o).images = d.images := rfl
@[simp] theorem Dev.emit_life (d : Dev) (c : Firing) (o : Out) : (d.emit c o).life = d.life := rfl
@[simp] theorem Dev.emit_lifeStored (d : Dev) (c : Firing) (o : Out) : (d.emit c o).lifeStored = d.lifeStored := rfl
@[simp] theorem Dev.emit_spdm (d : Dev) (c : Firing) (o : Out) : (d.emit c o).spdm = d.spdm := rfl
@[simp] theorem Dev.emit_seenTags (d : Dev) (c : Firing) (o : Out) : (d.emit c o).seenTags = d.seenTags := rfl
@[simp] theorem Dev.emit_earlyCxl (d : Dev) (c : Firing) (o : Out) : (d.emit c o).earlyCxl = d.earlyCxl := rfl
@[simp] theorem Dev.emit_cxlReads (d : Dev) (c : Firing) (o : Out) : (d.emit c o).cxlReads = d.cxlReads := rfl
@[simp] theorem Dev.emit_hostHeld (d : Dev) (c : Firing) (o : Out) : (d.emit c o).hostHeld = d.hostHeld := rfl
@[simp] theorem Dev.emit_unlocks (d : Dev) (c : Firing) (o : Out) : (d.emit c o).unlocks = d.unlocks := rfl
@[simp] theorem Dev.emit_io (d : Dev) (c : Firing) (o : Out) : (d.emit c o).io = d.io := rfl

/-! ### `modThr` and `modInst` -/

@[simp] theorem Dev.modThr_now (d : Dev) (t : Nat) (f : Thread → Thread) : (d.modThr t f).now = d.now := by unfold Dev.modThr; split <;> rfl
@[simp] theorem Dev.modThr_cycle (d : Dev) (t : Nat) (f : Thread → Thread) : (d.modThr t f).cycle = d.cycle := by unfold Dev.modThr; split <;> rfl
@[simp] theorem Dev.modThr_freeCtr (d : Dev) (t : Nat) (f : Thread → Thread) : (d.modThr t f).freeCtr = d.freeCtr := by unfold Dev.modThr; split <;> rfl
@[simp] theorem Dev.modThr_nextId (d : Dev) (t : Nat) (f : Thread → Thread) : (d.modThr t f).nextId = d.nextId := by unfold Dev.modThr; split <;> rfl
@[simp] theorem Dev.modThr_focus (d : Dev) (t : Nat) (f : Thread → Thread) : (d.modThr t f).focus = d.focus := by unfold Dev.modThr; split <;> rfl
@[simp] theorem Dev.modThr_arg (d : Dev) (t : Nat) (f : Thread → Thread) : (d.modThr t f).arg = d.arg := by unfold Dev.modThr; split <;> rfl
@[simp] theorem Dev.modThr_grids (d : Dev) (t : Nat) (f : Thread → Thread) : (d.modThr t f).grids = d.grids := by unfold Dev.modThr; split <;> rfl
@[simp] theorem Dev.modThr_fields (d : Dev) (t : Nat) (f : Thread → Thread) : (d.modThr t f).fields = d.fields := by unfold Dev.modThr; split <;> rfl
@[simp] theorem Dev.modThr_ctxs (d : Dev) (t : Nat) (f : Thread → Thread) : (d.modThr t f).ctxs = d.ctxs := by unfold Dev.modThr; split <;> rfl
@[simp] theorem Dev.modThr_groups (d : Dev) (t : Nat) (f : Thread → Thread) : (d.modThr t f).groups = d.groups := by unfold Dev.modThr; split <;> rfl
@[simp] theorem Dev.modThr_insts (d : Dev) (t : Nat) (f : Thread → Thread) : (d.modThr t f).insts = d.insts := by unfold Dev.modThr; split <;> rfl
@[simp] theorem Dev.modThr_flight (d : Dev) (t : Nat) (f : Thread → Thread) : (d.modThr t f).flight = d.flight := by unfold Dev.modThr; split <;> rfl
@[simp] theorem Dev.modThr_retained (d : Dev) (t : Nat) (f : Thread → Thread) : (d.modThr t f).retained = d.retained := by unfold Dev.modThr; split <;> rfl
@[simp] theorem Dev.modThr_waits (d : Dev) (t : Nat) (f : Thread → Thread) : (d.modThr t f).waits = d.waits := by unfold Dev.modThr; split <;> rfl
@[simp] theorem Dev.modThr_copies (d : Dev) (t : Nat) (f : Thread → Thread) : (d.modThr t f).copies = d.copies := by unfold Dev.modThr; split <;> rfl
@[simp] theorem Dev.modThr_fwds (d : Dev) (t : Nat) (f : Thread → Thread) : (d.modThr t f).fwds = d.fwds := by unfold Dev.modThr; split <;> rfl
@[simp] theorem Dev.modThr_rels (d : Dev) (t : Nat) (f : Thread → Thread) : (d.modThr t f).rels = d.rels := by unfold Dev.modThr; split <;> rfl
@[simp] theorem Dev.modThr_spStores (d : Dev) (t : Nat) (f : Thread → Thread) : (d.modThr t f).spStores = d.spStores := by unfold Dev.modThr; split <;> rfl
@[simp] theorem Dev.modThr_handovers (d : Dev) (t : Nat) (f : Thread → Thread) : (d.modThr t f).handovers = d.handovers := by unfold Dev.modThr; split <;> rfl
@[simp] theorem Dev.modThr_arrWaits (d : Dev) (t : Nat) (f : Thread → Thread) : (d.modThr t f).arrWaits = d.arrWaits := by unfold Dev.modThr; split <;> rfl
@[simp] theorem Dev.modThr_pool (d : Dev) (t : Nat) (f : Thread → Thread) : (d.modThr t f).pool = d.pool := by unfold Dev.modThr; split <;> rfl
@[simp] theorem Dev.modThr_preqs (d : Dev) (t : Nat) (f : Thread → Thread) : (d.modThr t f).preqs = d.preqs := by unfold Dev.modThr; split <;> rfl
@[simp] theorem Dev.modThr_preqNext (d : Dev) (t : Nat) (f : Thread → Thread) : (d.modThr t f).preqNext = d.preqNext := by unfold Dev.modThr; split <;> rfl
@[simp] theorem Dev.modThr_pcmds (d : Dev) (t : Nat) (f : Thread → Thread) : (d.modThr t f).pcmds = d.pcmds := by unfold Dev.modThr; split <;> rfl
@[simp] theorem Dev.modThr_pubs (d : Dev) (t : Nat) (f : Thread → Thread) : (d.modThr t f).pubs = d.pubs := by unfold Dev.modThr; split <;> rfl
@[simp] theorem Dev.modThr_tcaches (d : Dev) (t : Nat) (f : Thread → Thread) : (d.modThr t f).tcaches = d.tcaches := by unfold Dev.modThr; split <;> rfl
@[simp] theorem Dev.modThr_l2 (d : Dev) (t : Nat) (f : Thread → Thread) : (d.modThr t f).l2 = d.l2 := by unfold Dev.modThr; split <;> rfl
@[simp] theorem Dev.modThr_poison (d : Dev) (t : Nat) (f : Thread → Thread) : (d.modThr t f).poison = d.poison := by unfold Dev.modThr; split <;> rfl
@[simp] theorem Dev.modThr_verifs (d : Dev) (t : Nat) (f : Thread → Thread) : (d.modThr t f).verifs = d.verifs := by unfold Dev.modThr; split <;> rfl
@[simp] theorem Dev.modThr_wprot (d : Dev) (t : Nat) (f : Thread → Thread) : (d.modThr t f).wprot = d.wprot := by unfold Dev.modThr; split <;> rfl
@[simp] theorem Dev.modThr_gidNext (d : Dev) (t : Nat) (f : Thread → Thread) : (d.modThr t f).gidNext = d.gidNext := by unfold Dev.modThr; split <;> rfl
@[simp] theorem Dev.modThr_ports (d : Dev) (t : Nat) (f : Thread → Thread) : (d.modThr t f).ports = d.ports := by unfold Dev.modThr; split <;> rfl
@[simp] theorem Dev.modThr_routes (d : Dev) (t : Nat) (f : Thread → Thread) : (d.modThr t f).routes = d.routes := by unfold Dev.modThr; split <;> rfl
@[simp] theorem Dev.modThr_cxl (d : Dev) (t : Nat) (f : Thread → Thread) : (d.modThr t f).cxl = d.cxl := by unfold Dev.modThr; split <;> rfl
@[simp] theorem Dev.modThr_remotes (d : Dev) (t : Nat) (f : Thread → Thread) : (d.modThr t f).remotes = d.remotes := by unfold Dev.modThr; split <;> rfl
@[simp] theorem Dev.modThr_colls (d : Dev) (t : Nat) (f : Thread → Thread) : (d.modThr t f).colls = d.colls := by unfold Dev.modThr; split <;> rfl
@[simp] theorem Dev.modThr_ptpOff (d : Dev) (t : Nat) (f : Thread → Thread) : (d.modThr t f).ptpOff = d.ptpOff := by unfold Dev.modThr; split <;> rfl
@[simp] theorem Dev.modThr_slew (d : Dev) (t : Nat) (f : Thread → Thread) : (d.modThr t f).slew = d.slew := by unfold Dev.modThr; split <;> rfl
@[simp] theorem Dev.modThr_dumpQ (d : Dev) (t : Nat) (f : Thread → Thread) : (d.modThr t f).dumpQ = d.dumpQ := by unfold Dev.modThr; split <;> rfl
@[simp] theorem Dev.modThr_dumping (d : Dev) (t : Nat) (f : Thread → Thread) : (d.modThr t f).dumping = d.dumping := by unfold Dev.modThr; split <;> rfl
@[simp] theorem Dev.modThr_reqTail (d : Dev) (t : Nat) (f : Thread → Thread) : (d.modThr t f).reqTail = d.reqTail := by unfold Dev.modThr; split <;> rfl
@[simp] theorem Dev.modThr_heldReqs (d : Dev) (t : Nat) (f : Thread → Thread) : (d.modThr t f).heldReqs = d.heldReqs := by unfold Dev.modThr; split <;> rfl
@[simp] theorem Dev.modThr_notifyIdx (d : Dev) (t : Nat) (f : Thread → Thread) : (d.modThr t f).notifyIdx = d.notifyIdx := by unfold Dev.modThr; split <;> rfl
@[simp] theorem Dev.modThr_images (d : Dev) (t : Nat) (f : Thread → Thread) : (d.modThr t f).images = d.images := by unfold Dev.modThr; split <;> rfl
@[simp] theorem Dev.modThr_life (d : Dev) (t : Nat) (f : Thread → Thread) : (d.modThr t f).life = d.life := by unfold Dev.modThr; split <;> rfl
@[simp] theorem Dev.modThr_lifeStored (d : Dev) (t : Nat) (f : Thread → Thread) : (d.modThr t f).lifeStored = d.lifeStored := by unfold Dev.modThr; split <;> rfl
@[simp] theorem Dev.modThr_spdm (d : Dev) (t : Nat) (f : Thread → Thread) : (d.modThr t f).spdm = d.spdm := by unfold Dev.modThr; split <;> rfl
@[simp] theorem Dev.modThr_seenTags (d : Dev) (t : Nat) (f : Thread → Thread) : (d.modThr t f).seenTags = d.seenTags := by unfold Dev.modThr; split <;> rfl
@[simp] theorem Dev.modThr_earlyCxl (d : Dev) (t : Nat) (f : Thread → Thread) : (d.modThr t f).earlyCxl = d.earlyCxl := by unfold Dev.modThr; split <;> rfl
@[simp] theorem Dev.modThr_cxlReads (d : Dev) (t : Nat) (f : Thread → Thread) : (d.modThr t f).cxlReads = d.cxlReads := by unfold Dev.modThr; split <;> rfl
@[simp] theorem Dev.modThr_hostHeld (d : Dev) (t : Nat) (f : Thread → Thread) : (d.modThr t f).hostHeld = d.hostHeld := by unfold Dev.modThr; split <;> rfl
@[simp] theorem Dev.modThr_unlocks (d : Dev) (t : Nat) (f : Thread → Thread) : (d.modThr t f).unlocks = d.unlocks := by unfold Dev.modThr; split <;> rfl
@[simp] theorem Dev.modThr_io (d : Dev) (t : Nat) (f : Thread → Thread) : (d.modThr t f).io = d.io := by unfold Dev.modThr; split <;> rfl

@[simp] theorem Dev.modInst_now (d : Dev) (n : Nat) (f : Inst → Inst) : (d.modInst n f).now = d.now := by unfold Dev.modInst; split <;> rfl
@[simp] theorem Dev.modInst_cycle (d : Dev) (n : Nat) (f : Inst → Inst) : (d.modInst n f).cycle = d.cycle := by unfold Dev.modInst; split <;> rfl
@[simp] theorem Dev.modInst_freeCtr (d : Dev) (n : Nat) (f : Inst → Inst) : (d.modInst n f).freeCtr = d.freeCtr := by unfold Dev.modInst; split <;> rfl
@[simp] theorem Dev.modInst_nextId (d : Dev) (n : Nat) (f : Inst → Inst) : (d.modInst n f).nextId = d.nextId := by unfold Dev.modInst; split <;> rfl
@[simp] theorem Dev.modInst_focus (d : Dev) (n : Nat) (f : Inst → Inst) : (d.modInst n f).focus = d.focus := by unfold Dev.modInst; split <;> rfl
@[simp] theorem Dev.modInst_arg (d : Dev) (n : Nat) (f : Inst → Inst) : (d.modInst n f).arg = d.arg := by unfold Dev.modInst; split <;> rfl
@[simp] theorem Dev.modInst_grids (d : Dev) (n : Nat) (f : Inst → Inst) : (d.modInst n f).grids = d.grids := by unfold Dev.modInst; split <;> rfl
@[simp] theorem Dev.modInst_fields (d : Dev) (n : Nat) (f : Inst → Inst) : (d.modInst n f).fields = d.fields := by unfold Dev.modInst; split <;> rfl
@[simp] theorem Dev.modInst_ctxs (d : Dev) (n : Nat) (f : Inst → Inst) : (d.modInst n f).ctxs = d.ctxs := by unfold Dev.modInst; split <;> rfl
@[simp] theorem Dev.modInst_threads (d : Dev) (n : Nat) (f : Inst → Inst) : (d.modInst n f).threads = d.threads := by unfold Dev.modInst; split <;> rfl
@[simp] theorem Dev.modInst_groups (d : Dev) (n : Nat) (f : Inst → Inst) : (d.modInst n f).groups = d.groups := by unfold Dev.modInst; split <;> rfl
@[simp] theorem Dev.modInst_flight (d : Dev) (n : Nat) (f : Inst → Inst) : (d.modInst n f).flight = d.flight := by unfold Dev.modInst; split <;> rfl
@[simp] theorem Dev.modInst_retained (d : Dev) (n : Nat) (f : Inst → Inst) : (d.modInst n f).retained = d.retained := by unfold Dev.modInst; split <;> rfl
@[simp] theorem Dev.modInst_waits (d : Dev) (n : Nat) (f : Inst → Inst) : (d.modInst n f).waits = d.waits := by unfold Dev.modInst; split <;> rfl
@[simp] theorem Dev.modInst_copies (d : Dev) (n : Nat) (f : Inst → Inst) : (d.modInst n f).copies = d.copies := by unfold Dev.modInst; split <;> rfl
@[simp] theorem Dev.modInst_fwds (d : Dev) (n : Nat) (f : Inst → Inst) : (d.modInst n f).fwds = d.fwds := by unfold Dev.modInst; split <;> rfl
@[simp] theorem Dev.modInst_rels (d : Dev) (n : Nat) (f : Inst → Inst) : (d.modInst n f).rels = d.rels := by unfold Dev.modInst; split <;> rfl
@[simp] theorem Dev.modInst_spStores (d : Dev) (n : Nat) (f : Inst → Inst) : (d.modInst n f).spStores = d.spStores := by unfold Dev.modInst; split <;> rfl
@[simp] theorem Dev.modInst_handovers (d : Dev) (n : Nat) (f : Inst → Inst) : (d.modInst n f).handovers = d.handovers := by unfold Dev.modInst; split <;> rfl
@[simp] theorem Dev.modInst_arrWaits (d : Dev) (n : Nat) (f : Inst → Inst) : (d.modInst n f).arrWaits = d.arrWaits := by unfold Dev.modInst; split <;> rfl
@[simp] theorem Dev.modInst_pool (d : Dev) (n : Nat) (f : Inst → Inst) : (d.modInst n f).pool = d.pool := by unfold Dev.modInst; split <;> rfl
@[simp] theorem Dev.modInst_preqs (d : Dev) (n : Nat) (f : Inst → Inst) : (d.modInst n f).preqs = d.preqs := by unfold Dev.modInst; split <;> rfl
@[simp] theorem Dev.modInst_preqNext (d : Dev) (n : Nat) (f : Inst → Inst) : (d.modInst n f).preqNext = d.preqNext := by unfold Dev.modInst; split <;> rfl
@[simp] theorem Dev.modInst_pcmds (d : Dev) (n : Nat) (f : Inst → Inst) : (d.modInst n f).pcmds = d.pcmds := by unfold Dev.modInst; split <;> rfl
@[simp] theorem Dev.modInst_pubs (d : Dev) (n : Nat) (f : Inst → Inst) : (d.modInst n f).pubs = d.pubs := by unfold Dev.modInst; split <;> rfl
@[simp] theorem Dev.modInst_tcaches (d : Dev) (n : Nat) (f : Inst → Inst) : (d.modInst n f).tcaches = d.tcaches := by unfold Dev.modInst; split <;> rfl
@[simp] theorem Dev.modInst_l2 (d : Dev) (n : Nat) (f : Inst → Inst) : (d.modInst n f).l2 = d.l2 := by unfold Dev.modInst; split <;> rfl
@[simp] theorem Dev.modInst_poison (d : Dev) (n : Nat) (f : Inst → Inst) : (d.modInst n f).poison = d.poison := by unfold Dev.modInst; split <;> rfl
@[simp] theorem Dev.modInst_verifs (d : Dev) (n : Nat) (f : Inst → Inst) : (d.modInst n f).verifs = d.verifs := by unfold Dev.modInst; split <;> rfl
@[simp] theorem Dev.modInst_wprot (d : Dev) (n : Nat) (f : Inst → Inst) : (d.modInst n f).wprot = d.wprot := by unfold Dev.modInst; split <;> rfl
@[simp] theorem Dev.modInst_gidNext (d : Dev) (n : Nat) (f : Inst → Inst) : (d.modInst n f).gidNext = d.gidNext := by unfold Dev.modInst; split <;> rfl
@[simp] theorem Dev.modInst_ports (d : Dev) (n : Nat) (f : Inst → Inst) : (d.modInst n f).ports = d.ports := by unfold Dev.modInst; split <;> rfl
@[simp] theorem Dev.modInst_routes (d : Dev) (n : Nat) (f : Inst → Inst) : (d.modInst n f).routes = d.routes := by unfold Dev.modInst; split <;> rfl
@[simp] theorem Dev.modInst_cxl (d : Dev) (n : Nat) (f : Inst → Inst) : (d.modInst n f).cxl = d.cxl := by unfold Dev.modInst; split <;> rfl
@[simp] theorem Dev.modInst_remotes (d : Dev) (n : Nat) (f : Inst → Inst) : (d.modInst n f).remotes = d.remotes := by unfold Dev.modInst; split <;> rfl
@[simp] theorem Dev.modInst_colls (d : Dev) (n : Nat) (f : Inst → Inst) : (d.modInst n f).colls = d.colls := by unfold Dev.modInst; split <;> rfl
@[simp] theorem Dev.modInst_ptpOff (d : Dev) (n : Nat) (f : Inst → Inst) : (d.modInst n f).ptpOff = d.ptpOff := by unfold Dev.modInst; split <;> rfl
@[simp] theorem Dev.modInst_slew (d : Dev) (n : Nat) (f : Inst → Inst) : (d.modInst n f).slew = d.slew := by unfold Dev.modInst; split <;> rfl
@[simp] theorem Dev.modInst_dumpQ (d : Dev) (n : Nat) (f : Inst → Inst) : (d.modInst n f).dumpQ = d.dumpQ := by unfold Dev.modInst; split <;> rfl
@[simp] theorem Dev.modInst_dumping (d : Dev) (n : Nat) (f : Inst → Inst) : (d.modInst n f).dumping = d.dumping := by unfold Dev.modInst; split <;> rfl
@[simp] theorem Dev.modInst_reqTail (d : Dev) (n : Nat) (f : Inst → Inst) : (d.modInst n f).reqTail = d.reqTail := by unfold Dev.modInst; split <;> rfl
@[simp] theorem Dev.modInst_heldReqs (d : Dev) (n : Nat) (f : Inst → Inst) : (d.modInst n f).heldReqs = d.heldReqs := by unfold Dev.modInst; split <;> rfl
@[simp] theorem Dev.modInst_notifyIdx (d : Dev) (n : Nat) (f : Inst → Inst) : (d.modInst n f).notifyIdx = d.notifyIdx := by unfold Dev.modInst; split <;> rfl
@[simp] theorem Dev.modInst_images (d : Dev) (n : Nat) (f : Inst → Inst) : (d.modInst n f).images = d.images := by unfold Dev.modInst; split <;> rfl
@[simp] theorem Dev.modInst_life (d : Dev) (n : Nat) (f : Inst → Inst) : (d.modInst n f).life = d.life := by unfold Dev.modInst; split <;> rfl
@[simp] theorem Dev.modInst_lifeStored (d : Dev) (n : Nat) (f : Inst → Inst) : (d.modInst n f).lifeStored = d.lifeStored := by unfold Dev.modInst; split <;> rfl
@[simp] theorem Dev.modInst_spdm (d : Dev) (n : Nat) (f : Inst → Inst) : (d.modInst n f).spdm = d.spdm := by unfold Dev.modInst; split <;> rfl
@[simp] theorem Dev.modInst_seenTags (d : Dev) (n : Nat) (f : Inst → Inst) : (d.modInst n f).seenTags = d.seenTags := by unfold Dev.modInst; split <;> rfl
@[simp] theorem Dev.modInst_earlyCxl (d : Dev) (n : Nat) (f : Inst → Inst) : (d.modInst n f).earlyCxl = d.earlyCxl := by unfold Dev.modInst; split <;> rfl
@[simp] theorem Dev.modInst_cxlReads (d : Dev) (n : Nat) (f : Inst → Inst) : (d.modInst n f).cxlReads = d.cxlReads := by unfold Dev.modInst; split <;> rfl
@[simp] theorem Dev.modInst_hostHeld (d : Dev) (n : Nat) (f : Inst → Inst) : (d.modInst n f).hostHeld = d.hostHeld := by unfold Dev.modInst; split <;> rfl
@[simp] theorem Dev.modInst_unlocks (d : Dev) (n : Nat) (f : Inst → Inst) : (d.modInst n f).unlocks = d.unlocks := by unfold Dev.modInst; split <;> rfl
@[simp] theorem Dev.modInst_io (d : Dev) (n : Nat) (f : Inst → Inst) : (d.modInst n f).io = d.io := by unfold Dev.modInst; split <;> rfl

end Sys2Proof.Machine
end

