-- ==== Sys2Proof/Laws/Table.lean ====
section
/-!
SUPPORT. Small laws of the keyed tables: what a lookup sees after a replacement, an addition or a removal.
-/

namespace Sys2Proof

@[simp] theorem Tbl.look_set_self {α : Type} (t : Tbl α) (k : Nat) (a : α) : (t.set k a).look k = some a := by
  induction t with
  | nil => simp [Tbl.set, Tbl.look]
  | cons p r ih =>
    obtain ⟨k', b⟩ := p
    by_cases h : k' = k <;> simp [Tbl.set, Tbl.look, h, ih]

theorem Tbl.look_set_ne {α : Type} (t : Tbl α) {k j : Nat} (a : α) (h : j ≠ k) : (t.set k a).look j = t.look j := by
  induction t with
  | nil => simp [Tbl.set, Tbl.look, Ne.symm h]
  | cons p r ih =>
    obtain ⟨k', b⟩ := p
    by_cases hk : k' = k
    · subst hk; simp [Tbl.set, Tbl.look, Ne.symm h]
    · simp [Tbl.set, Tbl.look, hk, ih]

theorem Tbl.look_set {α : Type} (t : Tbl α) (k j : Nat) (a : α) : (t.set k a).look j = if j = k then some a else t.look j := by
  by_cases h : j = k
  · subst h; simp
  · simp [h, Tbl.look_set_ne t a h]

@[simp] theorem Tbl.get_set_self {α : Type} (t : Tbl α) (k : Nat) (a d : α) : (t.set k a).get k d = a := by
  simp [Tbl.get]

theorem Tbl.get_set_ne {α : Type} (t : Tbl α) {k j : Nat} (a d : α) (h : j ≠ k) : (t.set k a).get j d = t.get j d := by
  simp [Tbl.get, Tbl.look_set_ne t a h]

@[simp] theorem Tbl.look_erase_self {α : Type} (t : Tbl α) (k : Nat) : (t.erase k).look k = none := by
  induction t with
  | nil => rfl
  | cons p r ih =>
    obtain ⟨k', b⟩ := p
    by_cases h : k' = k
    · subst h; simpa [Tbl.erase] using ih
    · simp only [Tbl.erase, List.filter_cons, bne_iff_ne, ne_eq, h, not_false_eq_true, if_true, Tbl.look, if_false]
      exact ih

theorem Tbl.look_erase_ne {α : Type} (t : Tbl α) {k j : Nat} (h : j ≠ k) : (t.erase k).look j = t.look j := by
  induction t with
  | nil => rfl
  | cons p r ih =>
    obtain ⟨k', b⟩ := p
    have ih' : Tbl.look (List.filter (fun p => p.1 != k) r) j = Tbl.look r j := ih
    by_cases hk : k' = k
    · subst hk; simp [Tbl.erase, Tbl.look, Ne.symm h, ih']
    · have hb : (k' != k) = true := by simpa using hk
      simp only [Tbl.erase, List.filter_cons, hb, if_true, Tbl.look, ih']

namespace Machine

@[simp] theorem Dev.ctx_setCtx (d : Dev) (c : Nat) (x : Ctx) : (d.setCtx c x).ctx c = x := by simp [Dev.ctx, Dev.setCtx]
theorem Dev.ctx_setCtx_ne (d : Dev) {c j : Nat} (x : Ctx) (h : j ≠ c) : (d.setCtx c x).ctx j = d.ctx j := by
  simp [Dev.ctx, Dev.setCtx, Tbl.get_set_ne _ _ _ h]
@[simp] theorem Dev.ctx_modCtx (d : Dev) (c : Nat) (f : Ctx → Ctx) : (d.modCtx c f).ctx c = f (d.ctx c) := by
  simp [Dev.modCtx]
theorem Dev.ctx_modCtx_ne (d : Dev) {c j : Nat} (f : Ctx → Ctx) (h : j ≠ c) : (d.modCtx c f).ctx j = d.ctx j := by
  simp [Dev.modCtx, Dev.ctx_setCtx_ne _ _ h]
@[simp] theorem Dev.grid_modGrid (d : Dev) (g : Nat) (f : Grid → Grid) : (d.modGrid g f).grid g = f (d.grid g) := by
  simp [Dev.grid, Dev.modGrid]
theorem Dev.grid_modGrid_ne (d : Dev) {g j : Nat} (f : Grid → Grid) (h : j ≠ g) : (d.modGrid g f).grid j = d.grid j := by
  simp [Dev.grid, Dev.modGrid, Tbl.get_set_ne _ _ _ h]
@[simp] theorem Dev.field_modField (d : Dev) (k : Nat) (f : Field → Field) : (d.modField k f).field k = f (d.field k) := by
  simp [Dev.field, Dev.modField]
theorem Dev.field_modField_ne (d : Dev) {k j : Nat} (f : Field → Field) (h : j ≠ k) :
    (d.modField k f).field j = d.field j := by
  simp [Dev.field, Dev.modField, Tbl.get_set_ne _ _ _ h]
@[simp] theorem Dev.thr_setThr (d : Dev) (t : Nat) (x : Thread) : (d.setThr t x).thr t = some x := by
  simp [Dev.thr, Dev.setThr]
theorem Dev.thr_setThr_ne (d : Dev) {t j : Nat} (x : Thread) (h : j ≠ t) : (d.setThr t x).thr j = d.thr j := by
  simp [Dev.thr, Dev.setThr, Tbl.look_set_ne _ _ h]
@[simp] theorem Dev.inst_setInst (d : Dev) (iid : Nat) (x : Inst) : (d.setInst iid x).inst iid = some x := by
  simp [Dev.inst, Dev.setInst]
theorem Dev.inst_setInst_ne (d : Dev) {iid j : Nat} (x : Inst) (h : j ≠ iid) : (d.setInst iid x).inst j = d.inst j := by
  simp [Dev.inst, Dev.setInst, Tbl.look_set_ne _ _ h]

/-- What a change of a thread sees of it. -/
theorem Dev.thr_modThr (d : Dev) (t : Nat) (f : Thread → Thread) : (d.modThr t f).thr t = (d.thr t).map f := by
  unfold Dev.modThr
  cases h : d.thr t <;> simp [h]
/-- What a change of an instance sees of it. -/
theorem Dev.inst_modInst (d : Dev) (iid : Nat) (f : Inst → Inst) : (d.modInst iid f).inst iid = (d.inst iid).map f := by
  unfold Dev.modInst
  cases h : d.inst iid <;> simp [h]

end Machine
end Sys2Proof
end

