-- ==== Sys2Proof/Laws/Firing.lean ====
section
/-!
SUPPORT. Laws of firing (04 R91): what a slot that is ready holds, and everything that an instruction which only computes can do.
-/

namespace Sys2Proof.Machine

/-- A slot that can fire belongs to an instance of the device, and the tokens of the firing are those at its operands. -/
theorem Dev.awaits_spec {d : Dev} {iid idx : Nat} {c : Firing} (h : d.awaits iid idx = some c) :
    c.iid = iid ∧ c.idx = idx ∧ d.inst iid = some c.x ∧ c.x.code = some c.code ∧ c.ops = c.x.opnds idx ∧
      c.x.fired.contains idx = false ∧ d.stopped c.x.grid = false := by
  unfold Dev.awaits at h
  cases hx : d.inst iid with
  | none => simp [hx] at h
  | some x =>
    cases hb : x.code with
    | none => simp [hx, hb] at h
    | some b =>
      simp only [hx, hb] at h
      split at h
      · rename_i hc
        cases h
        simp only [Bool.and_eq_true, Bool.not_eq_true'] at hc
        obtain ⟨⟨⟨⟨⟨-, -⟩, hf⟩, -⟩, -⟩, hs⟩ := hc
        exact ⟨rfl, rfl, rfl, hb, rfl, hf, hs⟩
      · cases h

/-- A slot is ready when it can fire and a memory instruction finds a place in its queue (08 R232). -/
theorem Dev.ready_iff {d : Dev} {iid idx : Nat} {c : Firing} :
    d.ready iid idx = some c ↔ d.awaits iid idx = some c ∧
      ∀ i, c.code.instr idx = some i → d.queueRoom iid idx c.x.grid i = true := by
  unfold Dev.ready
  rw [Option.filter_eq_some_iff]
  cases c.code.instr idx <;> simp

/-- A slot that is ready belongs to an instance of the device, and the tokens of the firing are those at its operands. -/
theorem Dev.ready_spec {d : Dev} {iid idx : Nat} {c : Firing} (h : d.ready iid idx = some c) :
    c.iid = iid ∧ c.idx = idx ∧ d.inst iid = some c.x ∧ c.x.code = some c.code ∧ c.ops = c.x.opnds idx ∧
      c.x.fired.contains idx = false ∧ d.stopped c.x.grid = false :=
  Dev.awaits_spec (Dev.ready_iff.1 h).1

/-- The slot that fires belongs to an instance of the device. -/
theorem Dev.firing_spec {d : Dev} {c : Firing} (h : d.firing = some c) :
    d.focus = some (c.iid, c.idx) ∧ d.inst c.iid = some c.x ∧ c.x.code = some c.code ∧ c.ops = c.x.opnds c.idx := by
  unfold Dev.firing at h
  cases hf : d.focus with
  | none => simp [hf] at h
  | some p =>
    obtain ⟨iid, idx⟩ := p
    simp only [hf] at h
    obtain ⟨rfl, rfl, hx, hb, ho, -, -⟩ := Dev.ready_spec h
    exact ⟨rfl, hx, hb, ho⟩

/-- Everything that an instruction which only computes can do. -/
theorem fire_cases (i : Instr) (g : Opnds → Out) (d : Dev) :
    (d.firing = none ∧ fire i g d = d) ∨
    ∃ c, d.firing = some c ∧ fire i g d = d.emit c (outcome i c.ops g) := by
  unfold fire
  cases h : d.firing with
  | none => exact .inl ⟨rfl, rfl⟩
  | some c => exact .inr ⟨c, rfl, rfl⟩

theorem fire_none {d : Dev} (i : Instr) (g : Opnds → Out) (h : d.firing = none) : fire i g d = d := by
  simp [fire, h]
theorem fire_some {d : Dev} {c : Firing} (i : Instr) (g : Opnds → Out) (h : d.firing = some c) :
    fire i g d = d.emit c (outcome i c.ops g) := by
  simp [fire, h]

/-- An operation whose predicate holds and at whose operands no null stands sends what it computes. -/
theorem outcome_holds {i : Instr} {o : Opnds} {g : Opnds → Out} (hp : o.holds (prOf i) = true) (hn : o.anyNull = false) :
    outcome i o g = g o := by
  simp [outcome, hp, hn]
theorem outcome_not_holds {i : Instr} {o : Opnds} {g : Opnds → Out} (hp : o.holds (prOf i) = false) : outcome i o g = {} := by
  simp [outcome, hp]
theorem outcome_null {i : Instr} {o : Opnds} {g : Opnds → Out} (hp : o.holds (prOf i) = true) (hn : o.anyNull = true) :
    outcome i o g = { toks := nullsTo i } := by
  simp [outcome, hp, hn]

/-- What a firing that only computes changes: its own instance, and the tokens in flight. -/
theorem Dev.emit_inst (d : Dev) (c : Firing) (o : Out) :
    (d.emit c o).inst c.iid = some { c.x with fired := c.idx :: c.x.fired, flags := c.x.flags ||| o.flags } := by
  simp [Dev.emit, Dev.inst, Dev.setInst]
theorem Dev.emit_inst_ne (d : Dev) (c : Firing) (o : Out) {j : Nat} (h : j ≠ c.iid) : (d.emit c o).inst j = d.inst j := by
  simp [Dev.emit, Dev.inst, Dev.setInst, Tbl.look_set_ne _ _ h]
theorem Dev.emit_flight (d : Dev) (c : Firing) (o : Out) :
    (d.emit c o).flight = d.flight ++ sends c.iid c.idx o.toks := rfl

end Sys2Proof.Machine
end

