-- ==== Sys2Proof/Laws/Lanes.lean ====
section
/-!
SUPPORT. Laws of lanes (03 R54): a lane as a bit field of its token, and the lanes of a token that was built from lanes.
-/

namespace Sys2Proof.Machine

/-- A lane is the number in its bit field. -/
theorem lane_eq_toNat (w : Nat) (v : Vec) (k : Nat) : lane w v k = (v.extractLsb' (w * k) w).toNat := by
  simp [lane, BitVec.extractLsb'_toNat, Nat.shiftRight_eq_div_pow]
/-- A bit field of a token is its lane. -/
theorem extract_eq_lane (w : Nat) (v : Vec) (k : Nat) : v.extractLsb' (w * k) w = BitVec.ofNat w (lane w v k) := by
  rw [lane_eq_toNat, BitVec.ofNat_toNat, BitVec.setWidth_eq]
theorem lane_lt (w : Nat) (v : Vec) (k : Nat) : lane w v k < 2 ^ w := Nat.mod_lt _ (Nat.two_pow_pos w)

/-- The number whose base-2^w digits are a list. -/
theorem digit_fold (w : Nat) (l : List Nat) (k : Nat) :
    (l.foldr (fun x acc => x % 2 ^ w + 2 ^ w * acc) 0) / 2 ^ (w * k) % 2 ^ w = l.getD k 0 % 2 ^ w := by
  induction l generalizing k with
  | nil => simp
  | cons x r ih =>
    cases k with
    | zero => simp [Nat.add_mul_mod_self_left]
    | succ k =>
      have hpos : 0 < 2 ^ w := Nat.two_pow_pos w
      have : (x % 2 ^ w + 2 ^ w * List.foldr (fun x acc => x % 2 ^ w + 2 ^ w * acc) 0 r) / 2 ^ w =
          List.foldr (fun x acc => x % 2 ^ w + 2 ^ w * acc) 0 r := by
        rw [Nat.add_mul_div_left _ _ hpos, Nat.div_eq_of_lt (Nat.mod_lt _ hpos), Nat.zero_add]
      rw [List.foldr_cons, show w * (k + 1) = w + w * k by ring, Nat.pow_add, ← Nat.div_div_eq_div_mul, this, ih k]
      simp

/-- A lane of a 512-bit token is a digit of the number it was made from. -/
theorem lane_ofNat (w N k : Nat) (h : w * k + w ≤ 512) : lane w (BitVec.ofNat 512 N) k = N / 2 ^ (w * k) % 2 ^ w := by
  apply Nat.eq_of_testBit_eq
  intro i
  simp only [lane, BitVec.toNat_ofNat, Nat.testBit_mod_two_pow, Nat.testBit_div_two_pow]
  by_cases hi : i < w
  · simp only [hi, decide_true, Bool.true_and]
    have : i + w * k < 512 := by omega
    simp [this]
  · simp [hi]

/-- Lane k of a token made from a list is element k, modulo 2^w. -/
theorem lane_ofLanes (w : Nat) (l : List Nat) (k : Nat) (h : w * k + w ≤ 512) :
    lane w (ofLanes w l) k = l.getD k 0 % 2 ^ w := by
  rw [ofLanes, lane_ofNat _ _ _ h, digit_fold]
/-- Lane k of a token whose lanes a function gives. -/
theorem lane_ofLanes_map (w n : Nat) (g : Nat → Nat) (k : Nat) (hk : k < n) (h : w * k + w ≤ 512) :
    lane w (ofLanes w ((List.range n).map g)) k = g k % 2 ^ w := by
  rw [lane_ofLanes w _ k h]
  simp [List.getD, hk]
/-- The bit field of a lane that a function gives. -/
theorem extract_ofLanes_map (w n : Nat) (g : Nat → Nat) (k : Nat) (hk : k < n) (h : w * k + w ≤ 512) :
    (ofLanes w ((List.range n).map g)).extractLsb' (w * k) w = BitVec.ofNat w (g k) := by
  rw [extract_eq_lane, lane_ofLanes_map w n g k hk h]
  apply BitVec.eq_of_toNat_eq
  simp

/-- A lane of the list of lanes. -/
theorem lanes_map (w : Nat) (v : Vec) (g : Nat → Nat) :
    (lanes w v).map g = (List.range (512 / w)).map (fun k => g (lane w v k)) := by
  simp [lanes, List.map_map, Function.comp_def]

/-- Lane k lies within the token. -/
theorem lane_fits {w k : Nat} (hk : k < 512 / w) : w * k + w ≤ 512 := by
  rcases Nat.eq_zero_or_pos w with rfl | hw
  · simp
  · have h2 : w * (k + 1) ≤ w * (512 / w) := Nat.mul_le_mul_left w hk
    have := Nat.mul_div_le 512 w
    calc w * k + w = w * (k + 1) := by ring
      _ ≤ w * (512 / w) := h2
      _ ≤ 512 := this

/-- `wrap` is the number of the bit vector of an integer. -/
theorem wrap_eq (w : Nat) (z : Int) : wrap w z = (BitVec.ofInt w z).toNat := by
  simp [wrap, BitVec.toNat_ofInt]
/-- A lane read as two's complement. -/
theorem sgn_eq (w x : Nat) (h : x < 2 ^ w) : sgn w x = (BitVec.ofNat w x).toInt := by
  rcases Nat.eq_zero_or_pos w with rfl | hw
  · have : x = 0 := by simpa using h
    subst this; simp [sgn]
  · have e : 2 ^ w = 2 * 2 ^ (w - 1) := by
      rw [← Nat.pow_succ']; congr 1; omega
    unfold sgn
    rw [BitVec.toInt_eq_toNat_cond, BitVec.toNat_ofNat, Nat.mod_eq_of_lt h]
    by_cases hx : 2 ^ (w - 1) ≤ x
    · rw [if_pos hx, if_neg (by omega)]; norm_cast
    · rw [if_neg hx, if_pos (by omega)]

end Sys2Proof.Machine
end

