-- ==== Sys2Proof/Laws/Queues.lean ====
section
/-!
SUPPORT. Laws of the load-store queue: what is left of an instruction once its firing is known, and what filling an LSID and
ending a load change.
-/

namespace Sys2Proof.Machine

/-- A load-class instruction that operates runs its meaning. -/
theorem fireLoad_holds {i : Instr} {g : W → Firing → Thread → Dev} {w : W} {c : Firing} {t : Thread} (hf : w.d.firing = some c)
    (ht : w.d.thr c.x.thr = some t) (hp : c.ops.holds (prOf i) = true) (hn : c.ops.anyNull = false) :
    fireLoad i g w = g w c t := by simp [fireLoad, hf, ht, hp, hn]
/-- The same for one that reads lines. -/
theorem fireFill_holds {i : Instr} {g : W → Firing → Thread → W} {w : W} {c : Firing} {t : Thread} (hf : w.d.firing = some c)
    (ht : w.d.thr c.x.thr = some t) (hp : c.ops.holds (prOf i) = true) (hn : c.ops.anyNull = false) :
    fireFill i g w = g w c t := by simp [fireFill, hf, ht, hp, hn]
/-- A store-class instruction that operates runs its meaning. -/
theorem fireStore_holds {i : Instr} {l : Nat} {g : W → Firing → Thread → W} {w : W} {c : Firing} {t : Thread}
    (hf : w.d.firing = some c) (ht : w.d.thr c.x.thr = some t) (hp : c.ops.holds (prOf i) = true)
    (hn : c.ops.anyNull = false) : fireStore i l g w = g w c t := by simp [fireStore, hf, ht, hp, hn]
/-- One whose predicate keeps it from operating nullifies its LSID (08 R228). -/
theorem fireStore_not_holds {i : Instr} {l : Nat} {g : W → Firing → Thread → W} {w : W} {c : Firing} {t : Thread}
    (hf : w.d.firing = some c) (ht : w.d.thr c.x.thr = some t) (hp : c.ops.holds (prOf i) = false) :
    fireStore i l g w = { w with d := w.d.fillStore c l none none {} } := by simp [fireStore, hf, ht, hp]
/-- So does one with a null at an operand, which passes the null on. -/
theorem fireStore_null {i : Instr} {l : Nat} {g : W → Firing → Thread → W} {w : W} {c : Firing} {t : Thread}
    (hf : w.d.firing = some c) (ht : w.d.thr c.x.thr = some t) (hp : c.ops.holds (prOf i) = true)
    (hn : c.ops.anyNull = true) : fireStore i l g w = { w with d := w.d.fillStore c l none none { toks := nullsTo i } } := by
  simp [fireStore, hf, ht, hp, hn]

/-- Filling an LSID that is not filled: the firing is recorded with it. -/
theorem Dev.fillStore_eq (d : Dev) (c : Firing) (l : Nat) (eff : Option Eff) (acc : Option Access) (o : Out)
    (h : l ∉ c.x.lsids) : d.fillStore c l eff acc o =
      d.emit { c with x := { c.x with lsids := l :: c.x.lsids, effs := c.x.effs ++ (eff.map (fun e => (l, c.idx, e))).toList,
                                      accs := c.x.accs ++ acc.toList } } o := by
  simp [Dev.fillStore, h]
/-- A second fill is EXIT_CONFLICT (02 R26). -/
theorem Dev.fillStore_conflict (d : Dev) (c : Firing) (l : Nat) (eff : Option Eff) (acc : Option Access) (o : Out)
    (h : l ∈ c.x.lsids) : d.fillStore c l eff acc o = d.conflict c.iid 1 l 0 := by
  simp [Dev.fillStore, h]
/-- A load that contradicts no later load is recorded with the bytes it read. -/
theorem Dev.loadDone_eq (d : Dev) (c : Firing) (l : Nat) (scr : Option Nat) (cs : List Host.Cell) (o : Out)
    (h : d.incoherent c.x l scr cs = none) : d.loadDone c l scr cs o =
      d.emit { c with x := { c.x with accs := c.x.accs ++ [⟨l, c.idx, cs, false, scr⟩] } } o := by
  simp [Dev.loadDone, h]

end Sys2Proof.Machine
end

