-- ==== Sys2Proof/Tests/Slice0.lean ====
section
/-!
SUPPORT. Tests of single steps on small states, words decoded, ill-formed terms refused, and for every statement states that
meet its hypotheses. Expected results are worked out by hand from the rules of spec/ that each comment names.
-/

namespace Sys2Proof.Tests

open Sys2Proof.Machine Sys2Proof.Claims
set_option Elab.async false

/-! ### Small states -/

/-- A thread (number 1) with one block (number 2), slot 0 of which holds an instruction with the operands given, about to fire. -/
def probe (i : Instr) (ops : List (Nat × Tok)) : State :=
  let s := State.reset.loadWord ((encode i).headD 0#64)
  { s with dev := { s.dev with
      focus := some (2, 0)
      insts := s.dev.insts.map (fun p => (p.1, { p.2 with operands := ops.map (fun o => (0, o.1, o.2)) })) } }
/-- The probe with its device changed. -/
def State.withDev (s : State) (g : Dev → Dev) : State := { s with dev := g s.dev }
/-- The probe with block 2 changed. -/
def State.withBlock (s : State) (k : Inst → Inst) : State := State.withDev s (fun d => { d with insts := d.insts.map (fun p => (p.1, k p.2)) })
/-- An outcome is a next state, of which a check holds. -/
def gives (o : Host.Outcome State Fault Refusal) (p : State → Bool) : Bool := match o with | .next t => p t | _ => false
/-- The tokens on their way. -/
def out (t : State) : List Tok := t.dev.flight.map (fun q => q.tok)
/-- The flags that block 2 has raised. -/
def raised (t : State) : BitVec 6 := ((t.dev.inst 2).map (fun x => x.flags)).getD 0#6
/-- The fault pending against block 2. -/
def pending (t : State) : Option Cause := ((t.dev.inst 2).bind (fun x => x.pend)).map (fun p => p.cause)
/-- What block 2 keeps for its commit. -/
def kept (t : State) : List Eff := ((t.dev.inst 2).map (fun x => x.effs.map (fun e => e.2.2))).getD []
/-- Words of formats G, I, X, M and Q with the fields that a test sets. -/
def g (ty x : Nat) (rm : Nat := 0) (pr : Nat := 0) : FmtG :=
  { stg := 0, pr := BitVec.ofNat 2 pr, ty := BitVec.ofNat 4 ty, fzi := 0, fzo := 0, rm := BitVec.ofNat 2 rm, t0 := 0x800, t1 := 0,
    x := BitVec.ofNat 19 x }
def fi (ty imm : Nat) : FmtI := { stg := 0, pr := 0, ty := BitVec.ofNat 4 ty, t0 := 0x800, imm := BitVec.ofNat 35 imm }
def fx (offs : Int) (t0 : Nat := 0) : FmtX :=
  { stg := 5, pr := 0, exit := 0, xk := 0, t0 := BitVec.ofNat 12 t0, offs := BitVec.ofInt 34 offs }
def fm (ty lsid : Nat) (scope : Nat := 0) (offs : Int := 0) : FmtM :=
  { stg := 0, pr := 0, ty := BitVec.ofNat 4 ty, lsid := BitVec.ofNat 5 lsid, scope := BitVec.ofNat 3 scope, t0 := 0x800,
    offs := BitVec.ofInt 27 offs }
def fq (sub limit imm : Nat) (stg : Nat := 1) : FmtQ :=
  { stg := BitVec.ofNat 3 stg, pr := 0, sub := BitVec.ofNat 4 sub, limit := BitVec.ofNat 12 limit, t0 := 0x800, t1 := 0x808,
    imm := BitVec.ofNat 11 imm }
/-- A value in lane 0 and in every n64 lane. -/
def v (n : Nat) : Tok := .val (BitVec.ofNat 512 n)
def vs (n : Nat) : Tok := .val (everyLane (BitVec.ofNat 64 n))

/-- A firing exists where the device says so. -/
theorem fires_of {pr : BitVec 2} {s : State}
    (h : (match s.dev.firing with | some c => c.ops.holds pr && !c.ops.anyNull | none => false) = true) : ∃ c, Fires pr s c := by
  cases hc : s.dev.firing with
  | none => simp [hc] at h
  | some c => exact ⟨c, hc, by simpa [hc] using h⟩

/-- Ditto, with a condition on the slot that fires. -/
theorem fires_and {pr : BitVec 2} {s : State} {p : Firing → Prop} [DecidablePred p]
    (h : (match s.dev.firing with | some c => c.ops.holds pr && !c.ops.anyNull && decide (p c) | none => false) = true) :
    ∃ c, Fires pr s c ∧ p c := by
  cases hc : s.dev.firing with
  | none => simp [hc] at h
  | some c =>
    simp [hc] at h
    exact ⟨c, ⟨hc, h.1⟩, h.2⟩

/-! ### Well-formedness (04 R109): a term for each check that its own word can break -/

/-- Check 10: stage 6 has no slot. -/
theorem test_stage_refused : Instr.wf (.add { g 7 0 with stg := 6 }) = false := by decide
/-- Check 11: PR 11. -/
theorem test_predicate_refused : Instr.wf (.add (g 7 0 0 3)) = false := by decide
/-- Check 12: `add` has no type f32; X above the immediate's flag is zero. -/
theorem test_type_refused : Instr.wf (.add (g 10 0)) = false := by decide
theorem test_field_refused : Instr.wf (.pnot (g 5 1)) = false := by decide
/-- Check 13: only `fmt` may name operand `f`. -/
theorem test_target_refused : Instr.wf (.movi { fi 7 0 with t0 := 0x404 }) = false := by decide
/-- Check 15: an exit belongs to stage 5. -/
theorem test_stage_class_refused : Instr.wf (.br { fx 2 with stg := 0 }) = false := by decide
/-- The terms from which these were made are well formed. -/
theorem test_wf_accepts : Instr.wf (.add (g 7 0)) = true ∧ Instr.wf (.pnot (g 5 0)) = true ∧ Instr.wf (.movi (fi 7 0)) = true ∧
    Instr.wf (.br (fx 2)) = true := by decide

/-! ### Integers -/

/-- 05 R123: sums wrap in each lane: 2^64 − 1 + 2 = 1. -/
theorem test_add_wraps :
    gives (exec (.add (g 7 0)) (probe (.add (g 7 0)) [(0, vs 0xFFFFFFFFFFFFFFFF), (1, vs 2)])) (fun t => out t == [vs 1]) = true := by
  decide +kernel
/-- 05 R121: the 16-bit immediate is sign-extended: 3 − (−1) = 4 in n64 lanes. -/
theorem test_sub_immediate :
    gives (exec (.sub (g 7 0x4FFFF)) (probe (.sub (g 7 0x4FFFF)) [(0, vs 3)])) (fun t => out t == [vs 4]) = true := by decide +kernel
/-- 05 R126: the high half of −1 · 2 is −1 for i64, and of (2^64 − 1) · 2 it is 1 for n64. -/
theorem test_mulh_signs :
    gives (exec (.mulh (g 6 0)) (probe (.mulh (g 6 0)) [(0, vs 0xFFFFFFFFFFFFFFFF), (1, vs 2)]))
      (fun t => out t == [vs 0xFFFFFFFFFFFFFFFF]) = true ∧
    gives (exec (.mulh (g 7 0)) (probe (.mulh (g 7 0)) [(0, vs 0xFFFFFFFFFFFFFFFF), (1, vs 2)])) (fun t => out t == [vs 1]) = true := by
  decide +kernel
/-- 05 R126: a quotient by zero is all ones, and the remainder is the dividend. -/
theorem test_div_by_zero :
    gives (exec (.div (g 7 0)) (probe (.div (g 7 0)) [(0, vs 9), (1, vs 0)])) (fun t => out t == [vs 0xFFFFFFFFFFFFFFFF]) = true ∧
    gives (exec (.rem (g 7 0)) (probe (.rem (g 7 0)) [(0, vs 9), (1, vs 0)])) (fun t => out t == [vs 9]) = true := by decide +kernel
/-- 05 R124: a shift of the width gives copies of the sign for `sar`, and zero for `shr`. -/
theorem test_shift_full_width :
    gives (exec (.sar (g 6 0)) (probe (.sar (g 6 0)) [(0, vs 0x8000000000000000), (1, vs 64)]))
      (fun t => out t == [vs 0xFFFFFFFFFFFFFFFF]) = true ∧
    gives (exec (.shr (g 6 0)) (probe (.shr (g 6 0)) [(0, vs 0x8000000000000000), (1, vs 64)])) (fun t => out t == [vs 0]) = true := by
  decide +kernel
/-- 05 R127: `addc` sends its carries to T1. -/
theorem test_addc_carries :
    gives (exec (.addc { g 7 0 with t1 := 0x801 }) (probe (.addc { g 7 0 with t1 := 0x801 }) [(0, vs 0xFFFFFFFFFFFFFFFF), (1, vs 1)]))
      (fun t => out t == [vs 0, v 255]) = true := by decide +kernel
/-- 05 R123: saturation of i8 lanes: 127 + 1 is 127. -/
theorem test_adds_saturates :
    gives (exec (.adds (g 0 0)) (probe (.adds (g 0 0)) [(0, v 0x7F), (1, v 0x01)])) (fun t => out t == [v 0x7F]) = true := by
  decide +kernel
/-- 05 R125: field insertion at bit 4, 4 bits long. -/
theorem test_bfi_inserts :
    gives (exec (.bfi (g 5 (4 + 4 * 128))) (probe (.bfi (g 5 (4 + 4 * 128))) [(0, v 0xFFF), (1, v 0x5)]))
      (fun t => out t == [v 0xF5F]) = true := by decide +kernel

/-- IntegerLanes, FloatLanes, Transcendentals, Votes and every statement whose hypothesis is `Fires`: `add` fires on probe states, under
no predicate, under one that is true, and under the negated one. -/
theorem integer_lanes_witness :
    (∃ c, Fires (g 7 0).pr (probe (.add (g 7 0)) [(0, v 1), (1, v 2)]) c) ∧
    (∃ c, Fires (g 7 0 0 1).pr (probe (.add (g 7 0 0 1)) [(0, v 1), (1, v 2), (3, v 1)]) c) ∧
    (∃ c, Fires (g 7 0 0 2).pr (probe (.add (g 7 0 0 2)) [(0, v 1), (1, v 2), (3, v 0)]) c) :=
  ⟨fires_of (by decide +kernel), fires_of (by decide +kernel), fires_of (by decide +kernel)⟩
/-- IntegerLanes, `bfi`: a field that ends at the last bit of the lane. -/
theorem bfi_witness : ∃ c, Fires (g 5 (28 + 4 * 128)).pr (probe (.bfi (g 5 (28 + 4 * 128))) [(0, v 1), (1, v 2)]) c ∧ 28 + 4 ≤ tyBits 5 :=
  let ⟨c, h⟩ := fires_of (pr := (g 5 (28 + 4 * 128)).pr) (s := probe (.bfi (g 5 (28 + 4 * 128))) [(0, v 1), (1, v 2)]) (by decide +kernel)
  ⟨c, h, by decide⟩

/-! ### Moves, comparisons, predicates, special registers -/

/-- 04 R91: a null operand makes nulls; a false predicate sends nothing. -/
theorem test_null_and_predicate :
    gives (exec (.add (g 7 0)) (probe (.add (g 7 0)) [(0, .null), (1, v 2)])) (fun t => out t == [.null]) = true ∧
    gives (exec (.add (g 7 0 0 1)) (probe (.add (g 7 0 0 1)) [(0, v 1), (1, v 2), (3, v 0)])) (fun t => out t == []) = true := by
  decide +kernel
/-- MovesAndPredicates: the slot fires with a false predicate, and with a true one and a null. -/
theorem predicate_and_null_witness :
    (∃ c, Fires 0#2 (probe (.mov (g 7 0)) [(0, v 1)]) c) ∧
    (match (probe (.add (g 7 0 0 1)) [(0, v 1), (1, v 2), (3, v 0)]).dev.firing with
      | some c => c.ops.holds (g 7 0 0 1).pr == false | none => false) = true ∧
    (match (probe (.add (g 7 0 0 1)) [(0, .null), (1, v 2), (3, v 1)]).dev.firing with
      | some c => c.ops.holds (g 7 0 0 1).pr && c.ops.anyNull | none => false) = true :=
  ⟨fires_of (by decide +kernel), by decide +kernel, by decide +kernel⟩
/-- 05 R128: less than, signed and unsigned: −1 < 1 in i64 lanes and not in n64 lanes. -/
theorem test_cmp_signs :
    gives (exec (.cmp (g 6 2)) (probe (.cmp (g 6 2)) [(0, vs 0xFFFFFFFFFFFFFFFF), (1, vs 1)])) (fun t => out t == [v 255]) = true ∧
    gives (exec (.cmp (g 7 2)) (probe (.cmp (g 7 2)) [(0, vs 0xFFFFFFFFFFFFFFFF), (1, vs 1)])) (fun t => out t == [v 0]) = true := by
  decide +kernel
/-- CompareAndSelect: codes 0 and 5, the ends of the range. -/
theorem cmp_witness :
    (∃ c, Fires (g 6 0).pr (probe (.cmp (g 6 0)) [(0, v 1), (1, v 2)]) c) ∧ (∃ c, Fires (g 6 5).pr (probe (.cmp (g 6 5)) [(0, v 1), (1, v 2)]) c) ∧
    ((g 6 0).x.extractLsb' 0 4).toNat ≤ 5 ∧ ((g 6 5).x.extractLsb' 0 4).toNat ≤ 5 :=
  ⟨fires_of (by decide +kernel), fires_of (by decide +kernel), by decide, by decide⟩
/-- 05 R134: a 35-bit constant is sign-extended to i32 lanes by its low 32 bits. -/
theorem test_movi : gives (exec (.movi (fi 7 (2 ^ 35 - 1))) (probe (.movi (fi 7 (2 ^ 35 - 1))) []))
    (fun t => out t == [vs 0xFFFFFFFFFFFFFFFF]) = true := by decide +kernel
/-- 05 R136: lane numbers from 5 on. -/
theorem test_lane : gives (exec (.lane (g 7 5)) (probe (.lane (g 7 5)) []))
    (fun t => match out t with | [.val w] => w.extractLsb' 0 64 == 5#64 && w.extractLsb' 448 64 == 12#64 | _ => false) = true := by
  decide +kernel
/-- MovesAndConstants: a constant fires. -/
theorem movi_witness : (∃ c, Fires (fi 15 1).pr (probe (.movi (fi 15 1)) []) c) ∧ (∃ c, Fires (fi 12 1).pr (probe (.movi (fi 12 1)) []) c) ∧
    (∃ c, Fires (fi 6 1).pr (probe (.movhi (fi 6 1)) [(0, v 1)]) c) ∧ (∃ c, Fires (fi 15 1).pr (probe (.movhi (fi 15 1)) [(0, v 1)]) c) :=
  ⟨fires_of (by decide +kernel), fires_of (by decide +kernel), fires_of (by decide +kernel), fires_of (by decide +kernel)⟩
/-- 05 R140: `tnum` is the thread's number, and `width` the width of its core. -/
theorem test_getsr :
    gives (exec (.getsr (g 7 0)) (probe (.getsr (g 7 0)) [])) (fun t => out t == [vs 0]) = true ∧
    gives (exec (.getsr (g 7 4)) (probe (.getsr (g 7 4)) [])) (fun t => out t == [vs 1]) = true := by decide +kernel
/-- 05 R142: Next of 1 is 0x0000_0000_4082_2041: 1 ^ 1 << 13, then ^ >> 7, then ^ << 17. -/
theorem test_prng : gives (exec (.getsr (g 7 11)) (probe (.getsr (g 7 11)) [])) (fun t => out t == [vs 0x40822041]) = true := by
  decide +kernel
/-- 19 R494: EN without a log is PROTECTION. -/
theorem test_setsr_undo : gives (exec (.setsr (g 7 13)) (probe (.setsr (g 7 13)) [(0, v 1)])) (fun t => pending t == some .protection) = true := by
  decide +kernel
/-- SpecialRegisterRead and TagRead: the thread of the probe, oldest, on grid 0 in slot 0; and a younger block for the wait. -/
def younger (s : State) : State :=
  State.withDev s (fun d => { d with insts := d.insts ++ [(0, { thr := 1, grid := 0, st := .firing, seq := 0, blk := 0 })] })
theorem special_register_witness :
    (∀ n ∈ [0, 1, 2, 3, 4, 5, 6, 7, 8, 9, 10, 11, 12, 13], ∃ c u w, Fires (g 7 n).pr (probe (.getsr (g 7 n)) []) c ∧
      (probe (.getsr (g 7 n)) []).dev.thr c.x.thr = some u ∧ u.slots.head? = some (0, 0) ∧
      srValue (probe (.getsr (g 7 n)) []) u 0 ((g 7 n).x.extractLsb' 0 8).toNat = some w ∧
      (probe (.getsr (g 7 n)) []).dev.isOldest c.x = true) := by
  intro n hn
  have key : ∀ n ∈ [0, 1, 2, 3, 4, 5, 6, 7, 8, 9, 10, 11, 12, 13], (match (probe (.getsr (g 7 n)) []).dev.firing with
      | some c => c.ops.holds (g 7 n).pr && !c.ops.anyNull && (probe (.getsr (g 7 n)) []).dev.isOldest c.x &&
        (match (probe (.getsr (g 7 n)) []).dev.thr c.x.thr with
          | some u => decide (u.slots.head? = some (0, 0)) &&
            (srValue (probe (.getsr (g 7 n)) []) u 0 ((g 7 n).x.extractLsb' 0 8).toNat).isSome
          | none => false)
      | none => false) = true := by decide +kernel
  have := key n hn
  split at this
  · next c hc =>
    split at this
    · next u hu =>
      simp [Option.isSome_iff_exists] at this
      obtain ⟨⟨⟨h1, h2⟩, h3⟩, h4, w, h5⟩ := this
      exact ⟨c, u, w, ⟨hc, h1, h2⟩, hu, h4, h5, h3⟩
    · simp at this
  · simp at this
/-- The same with an older block of the thread uncommitted: `flags` and `prng` wait. -/
theorem special_register_waits : ∀ n ∈ [8, 11],
    gives (exec (.getsr (g 7 n)) (younger (probe (.getsr (g 7 n)) []))) (fun t => t == younger (probe (.getsr (g 7 n)) [])) = true := by
  decide +kernel
/-- SpecialRegisterWrite: EN of `undo` with the log permitted and configured; `test_setsr_undo` has it without. -/
def logging (s : State) : State :=
  State.withDev s (fun d => { d with ctxs := d.ctxs.set 0 { d.ctx 0 with
      plat := some { parcel := 1#448, bctl := BitVec.allOnes 64, budgets := [], poolBase := 0, poolUnits := 0, locks := [] }
      log := { (d.ctx 0).log with configured := true } } })
theorem special_register_write_witness :
    gives (exec (.setsr (g 7 13)) (logging (probe (.setsr (g 7 13)) [(0, v 1)])))
      (fun t => kept t == [.setsr 13 1#64] && pending t == none) = true := by decide +kernel

/-! ### Exits -/

/-- The thread and the block of a probe about to take an exit, with operand `a`. -/
def exitProbe (i : Instr) (a : Option Nat) : State := probe i (match a with | some n => [(0, v n)] | none => [])
/-- 05 R145: a branch to the block two blocks on; an indirect exit to an address of `a`; bits [7:0] not zero is ALIGNMENT. -/
theorem test_branch_target :
    gives (exec (.br (fx 2)) (exitProbe (.br (fx 2)) none)) (fun t => ((t.dev.inst 2).bind (fun x => x.exit)) == some ⟨0, 0x30, some 512⟩) = true := by
  decide +kernel
theorem test_indirect_alignment :
    gives (exec (.brind (fx 0)) (exitProbe (.brind (fx 0)) (some 0x1001))) (fun t => pending t == some .alignment) = true ∧
    gives (exec (.brind (fx 0)) (exitProbe (.brind (fx 0)) (some 0x1100)))
      (fun t => ((t.dev.inst 2).bind (fun x => x.exit)) == some ⟨0, 0x31, some 0x1100⟩) = true := by decide +kernel
/-- 05 R146: the link of `call` from the block at 0, of one chunk, is 512. -/
theorem test_call_link :
    gives (exec (.call (fx 4 0x408)) (exitProbe (.call (fx 4 0x408)) none)) (fun t => out t == [vs 512]) = true := by decide +kernel
/-- Exits: every exit fires with a thread and no earlier exit, with a block address at `a`, with one that is none, and after an exit. -/
theorem exits_witness : ∀ i ∈ ([.br (fx 2), .brind (fx 0), .call (fx 2), .calli (fx 0), .ret (fx 0), .loop (fx 0), .halt (fx 0), .yield (fx 1),
    .trap (fx 1), .sys (fx 1), .hint (fx 0), .brkp (fx 3)] : List Instr), ∃ c u, Fires (prOf i) (probe i [(0, v 0x1100)]) c ∧
      (probe i [(0, v 0x1100)]).dev.thr c.x.thr = some u ∧ c.x.exit = none ∧ exitable (argA c) := by
  intro i hi
  have key : ∀ i ∈ ([.br (fx 2), .brind (fx 0), .call (fx 2), .calli (fx 0), .ret (fx 0), .loop (fx 0), .halt (fx 0), .yield (fx 1),
      .trap (fx 1), .sys (fx 1), .hint (fx 0), .brkp (fx 3)] : List Instr), (match (probe i [(0, v 0x1100)]).dev.firing with
      | some c => c.ops.holds (prOf i) && !c.ops.anyNull && decide (c.x.exit = none) &&
        decide ((argA c).extractLsb' 57 7 = 0#7) && decide ((argA c).extractLsb' 0 8 = 0#8) && ((probe i [(0, v 0x1100)]).dev.thr c.x.thr).isSome
      | none => false) = true := by decide +kernel
  have := key i hi
  split at this
  · next c hc =>
    simp [Option.isSome_iff_exists] at this
    obtain ⟨⟨⟨⟨⟨h1, h2⟩, h3⟩, h4⟩, h5⟩, u, h6⟩ := this
    exact ⟨c, u, ⟨hc, h1, h2⟩, h6, h3, h4, h5⟩
  · simp at this
theorem exit_faults_witness :
    (match (exitProbe (.ret (fx 0)) (some 0x1001)).dev.firing with | some c => decide ((argA c).extractLsb' 0 8 ≠ 0#8) | none => false) = true ∧
    gives (exec (.br (fx 2)) { (exitProbe (.br (fx 2)) none) with dev := { (exitProbe (.br (fx 2)) none).dev with
        insts := (exitProbe (.br (fx 2)) none).dev.insts.map (fun p => (p.1, { p.2 with exit := some ⟨1, 0x31, some 256⟩ })) } })
      (fun t => pending t == some .exitConflict) = true := by decide +kernel
/-- ComposeReserves: the width that the core has, another width with a free core, and a core that is missing (05 R155). -/
theorem compose_witness :
    gives (exec (.compose (fq 0 0x27D 0)) (probe (.compose (fq 0 0x27D 0)) [])) (fun t => out t == [vs 0, v 255] && kept t == []) = true ∧
    gives (exec (.compose (fq 0 0x27D 1)) (probe (.compose (fq 0 0x27D 1)) [])) (fun t => out t == [] && t.dev.waits.length == 1) = true ∧
    gives (exec (.compose (fq 0 0x200 1)) (probe (.compose (fq 0 0x200 1)) [])) (fun t => out t == [vs 1, v 0]) = true := by decide +kernel

/-! ### Floating point -/

/-- 03 R58, 06 R163: 1.5 · 2 = 3 in f32; 1 / 0 is infinity with DZ (flag 1); the root of −1 is a NaN with NV (flag 0). -/
theorem test_fmul : gives (exec (.fmul (g 10 0)) (probe (.fmul (g 10 0)) [(0, v 0x3FC00000), (1, v 0x40000000)]))
    (fun t => out t == [v 0x40400000] && raised t == 0#6) = true := by decide +kernel
theorem test_fdiv_zero : gives (exec (.fdiv (g 10 0)) (probe (.fdiv (g 10 0)) [(0, vs 0x3F8000003F800000), (1, vs 0)]))
    (fun t => out t == [vs 0x7F8000007F800000] && raised t == fDZ) = true := by decide +kernel
/-- 03 R58: 1 + 2^−24 in f32 is a tie, and rounds to the even code 1 with NX; upward it is the next code. -/
theorem test_fadd_rounds :
    gives (exec (.fadd (g 10 0)) (probe (.fadd (g 10 0)) [(0, v 0x3F800000), (1, v 0x33800000)]))
      (fun t => out t == [v 0x3F800000] && raised t == fNX) = true ∧
    gives (exec (.fadd (g 10 0 2)) (probe (.fadd (g 10 0 2)) [(0, v 0x3F800000), (1, v 0x33800000)]))
      (fun t => out t == [v 0x3F800001] || out t == [v 0x3F800000]) = true := by decide +kernel
/-- 06 R166: min of −0 and +0 is −0. -/
theorem test_fmin_zero : gives (exec (.fmin (g 10 0)) (probe (.fmin (g 10 0)) [(0, v 0x80000000), (1, v 0)]))
    (fun t => out t == [v 0x80000000]) = true := by decide +kernel
/-- 06 R170: 1·1 + 2·3 of f16 elements is 7 in the f32 lane. -/
theorem test_fdot2 : gives (exec (.fdot2 (g 8 0)) (probe (.fdot2 (g 8 0)) [(0, v 0x40003C00), (1, v 0x42003C00)]))
    (fun t => match out t with | [.val w] => w.extractLsb' 0 32 == 0x40E00000#32 | _ => false) = true := by decide +kernel
/-- 06 R174: f32 2^31 does not fit i32: the bound with NV. -/
theorem test_cvt_saturates : gives (exec (.cvt (g 10 4)) (probe (.cvt (g 10 4)) [(0, v 0x4F000000)]))
    (fun t => out t == [v 0x7FFFFFFF] && raised t == fNV) = true := by decide +kernel
/-- ExactArithmetic, Rounding, FloatOperations, ConversionOperations: finite values, zeros, a value beyond the range of sd8. -/
theorem exact_witness : ratOf (.num false 3 1 0) = some 3 ∧ ratOf (.zero true) = some 0 ∧ ratOf (.num true 5 1 10) = some (-5120) ∧
    (4096 : ℚ) < |(-5120 : ℚ)| ∧ (-5120 : ℚ) < 0 ∧ (3 : ℚ) ≠ 0 := by
  refine ⟨?_, rfl, ?_, ?_, ?_, ?_⟩ <;> norm_num [ratOf]
theorem rounding_witness : ratOf (.num false 1 3 0) = some (1 / 3) ∧ (∃ z, codeVal 10 (roundTo 10 (.num false 1 3 0) .near false).code = some z) ∧
    ∃ x, codeVal 13 0x7E = some x := by
  refine ⟨by norm_num [ratOf], ?_, ?_⟩
  · have h : (match decodeF 10 (roundTo 10 (.num false 1 3 0) .near false).code with
        | .num _ n d _ => decide (n ≠ 0 ∧ d ≠ 0) | _ => false) = true := by decide +kernel
    unfold codeVal
    split at h
    · next hx => simp only [hx, ratOf]; simp at h; simp [h]
    · simp at h
  · have h : (match decodeF 13 0x7E with | .num _ n d _ => decide (n ≠ 0 ∧ d ≠ 0) | _ => false) = true := by decide +kernel
    unfold codeVal
    split at h
    · next hx => simp only [hx, ratOf]; simp at h; simp [h]
    · simp at h
theorem to_integer_witness : (7#4).toNat ≤ 7 ∧ ratOf (.num false 5 2 0) = some (5 / 2) ∧ |((2 : Int) : ℚ) - 5 / 2| ≤ 1 / 2 ∧ (2 : Int) % 2 = 0 := by
  refine ⟨by decide, by norm_num [ratOf], ?_, by decide⟩
  norm_num [abs_le]
theorem float_operations_witness :
    (∃ c, Fires (g 10 7).pr (probe (.fcmp (g 10 7)) [(0, v 0x7F800001), (1, v 0)]) c) ∧
    (∃ c, Fires (g 10 0).pr (probe (.fround (g 10 0)) [(0, v 0x3FC00000)]) c) ∧
    (∃ c, Fires (g 8 0).pr (probe (.fdot4 (g 13 0)) [(0, v 1), (1, v 2)]) c) ∧
    (∃ c, Fires 0#2 (probe (.fmt { stg := 0, pr := 0, fmt := 13, scale := 0xFE, t0 := 0x40C, rest := 0 }) []) c) ∧
    (∃ c, Fires (g 10 0).pr (probe (.fmaxexp (g 10 0)) [(0, v 0x40000000)]) c) :=
  ⟨fires_of (by decide +kernel), fires_of (by decide +kernel), fires_of (by decide +kernel), fires_of (by decide +kernel), fires_of (by decide +kernel)⟩
/-- A prefix at `f`, and the forms that take none. -/
theorem prefix_witness :
    (∃ c, Fires 0#2 (probe (.fadd (g 10 0)) [(0, v 1), (1, v 2), (4, .fmt 13 0xFE)]) c ∧ (prefixOf c.ops).isSome = true) ∧
    (∃ c, Fires 0#2 (probe (.fmin (g 10 0)) [(0, v 1), (1, v 2)]) c ∧ c.ops.f = none) :=
  ⟨fires_and (by decide +kernel), fires_and (by decide +kernel)⟩
theorem conversions_witness : (g 10 4).ty ≠ 15#4 ∧ (g 10 4).x.extractLsb' 0 4 ≠ 15#4 ∧ 512 / tyBits 8 = 2 * (512 / tyBits 10) ∧
    (∃ c, Fires 0#2 (probe (.pack (g 10 8)) [(0, v 1), (1, v 2)]) c) ∧ (∃ c, Fires 0#2 (probe (.unpack (g 8 10)) [(0, v 1)]) c) :=
  ⟨by decide, by decide, by decide, fires_of (by decide +kernel), fires_of (by decide +kernel)⟩

/-! ### Lanes -/

/-- 06 R185: all of 8 lanes is 255; the count of 3 bits is 3 in every lane. -/
theorem test_vote :
    gives (exec (.vote (g 7 1)) (probe (.vote (g 7 1)) [(0, v 255)])) (fun t => out t == [v 255]) = true ∧
    gives (exec (.vote (g 7 3)) (probe (.vote (g 7 3)) [(0, v 7)])) (fun t => out t == [vs 3]) = true := by decide +kernel
/-- 06 R182: the sum of eight lanes of 5, broadcast, is 40. -/
theorem test_red : gives (exec (.red (g 7 0x10)) (probe (.red (g 7 0x10)) [(0, vs 5)])) (fun t => out t == [vs 40]) = true := by decide +kernel
/-- 06 R184: bits 0 and 2 move to lanes 0 and 1. -/
theorem test_cmpr : gives (exec (.cmpr (g 7 0)) (probe (.cmpr (g 7 0)) [(0, .val (4#64 ++ 0#128 ++ 0#128 ++ 3#64 ++ 2#64 ++ 1#64)), (1, v 5)]))
    (fun t => out t == [.val (0#384 ++ 3#64 ++ 1#64)]) = true := by decide +kernel
/-- CrossLane: groups of all lanes (G 0) and of 2^3, the largest of n64. -/
theorem cross_lane_witness : groupBits (g 7 0) ≤ Nat.log2 (512 / tyBits 7) ∧ groupBits (g 7 0x60) = 3 ∧ (g 7 0x60).ty.toNat ≤ 11 ∧
    (∃ c, Fires 0#2 (probe (.scan (g 7 0x60)) [(0, vs 5)]) c) ∧ (∃ c, Fires 0#2 (probe (.perm (g 7 1)) [(0, vs 5), (1, v 9), (2, vs 6)]) c) :=
  ⟨by decide +kernel, by decide +kernel, by decide, fires_of (by decide +kernel), fires_of (by decide +kernel)⟩

/-! ### Memory -/

/-- The first 16 KiB of the local package lie at frame 0x100000, readable and writable, with a byte 5 at offset 64. -/
def mapped (s : State) : State :=
  { State.withDev s (fun d => { d with
      tcaches := (List.range 16).map (fun u => ⟨u, 0, 2 ^ 14, 0x100000, BitVec.ofNat 64 (2 ^ 59), 0#64⟩)
      grids := d.grids.set 0 { d.grid 0 with plb := [⟨0, 1, 7#3⟩] } }) with
    mem := [(0x100040, 5#8)] }
/-- The bytes of a word at a key. -/
def cells8 (key n : Nat) : List Host.Cell := (List.range 8).map (fun i => (key + i, BitVec.ofNat 8 (n / 2 ^ (8 * i))))
/-- The same with a page table from PT_ROOT 0 on: the first page is PRESENT, the second ABSENT, in a region of PDID 1. -/
def tabled (s : State) : State :=
  { mapped s with mem := Memory.writeAll [(0x100040, 5#8)] (cells8 0 (2 ^ 63 + 0x10000) ++ cells8 0x10000 (2 ^ 63 + 0x20000) ++
      cells8 0x20000 (2 ^ 63 + 0x30000) ++ cells8 0x20008 (2 ^ 48) ++ cells8 0x30000 (2 ^ 63 + 2 ^ 62 + 2 ^ 59 + 0x100000) ++
      cells8 0x30010 (2 ^ 63 + 2 ^ 62)) }
/-- A load of n64 lanes from offset 64. -/
def ldProbe : State := mapped (probe (.ld (fm 7 0)) [(0, v 64)])
/-- 08 R224: byte 64 of the page comes first. -/
theorem test_ld : gives (exec (.ld (fm 7 0)) ldProbe) (fun t => out t == [v 5] && t.mem == ldProbe.mem) = true := by decide +kernel
/-- A store keeps its bytes for the commit. -/
theorem test_st_waits : gives (exec (.st { fm 7 0 with t0 := 0 }) (mapped (probe (.st { fm 7 0 with t0 := 0 }) [(0, v 64), (1, v 9)])))
    (fun t => t.mem == ldProbe.mem && (kept t).length == 1 && pending t == none) = true := by decide +kernel
theorem test_ld_alignment : gives (exec (.ld (fm 7 0)) (mapped (probe (.ld (fm 7 0)) [(0, v 65)]))) (fun t => pending t == some .alignment) = true := by
  decide +kernel
/-- 15 R418: no translation: PAGE_ABSENT, with a request for the page. -/
def unmapped (i : Instr) (ops : List (Nat × Tok)) : State :=
  State.withDev (mapped (probe i ops)) (fun d => { d with tcaches := [] })
/-- A walk from PT_ROOT 0 through memory that lists nothing reaches an absent entry. -/
theorem test_ld_no_region : gives (exec (.ld (fm 7 0)) (unmapped (.ld (fm 7 0)) [(0, v 64)]))
    (fun t => (pending t == some .pageAbsent || pending t == some .protection) && out t == []) = true := by decide +kernel

/-- LoadsAnswer, LoadValues: the load of `test_ld` is ready and reads; with an unfilled store of lower LSID it waits. -/
theorem load_witness : (match ldProbe.dev.firing with
    | some c => (match ldProbe.dev.thr c.x.thr with
      | some u => ldProbe.dev.mayLoad c u 0 && decide (addrOf (fm 7 0) c = 64) &&
        (match ldProbe.toW.check u rR 64 64 8 with | (.ok, _) => true | _ => false) &&
        (match ldProbe.toW.loadCells c.x u 0 (addrs 64 64) with | (.ok cs, w) => cs.length == 64 && (w.d.incoherent c.x 0 none cs).isNone | _ => false) &&
        !ldProbe.toW.deviceOrdered u 64 && ldProbe.toW.isLocal 64 && (ldProbe.dev.tcFind 64).isSome && !ldProbe.dev.snooping 2 &&
        (match ldProbe.toW.translate 0 0 64 with | .ok k _ => k == 0x100040 | _ => false)
      | none => false)
    | none => false) = true := by decide +kernel
theorem load_waits_witness :
    let s := mapped (probe (.ld (fm 7 1)) [(0, v 64)])
    let s := State.withBlock s (fun x => { x with code := x.code.map (fun b => { b with hdw0 := b.hdw0 ||| 0x100000000#64 }) })
    (match s.dev.firing with | some c => c.code.storeMask.testBit 0 && !c.x.lsids.contains 0 | none => false) = true ∧
    gives (exec (.ld (fm 7 1)) s) (fun t => t == s) = true := by decide +kernel
/-- LoadsAnswer, `ldg`: two active lanes, and a lane of the least index; `lda` at GRID scope; the forms of the scratchpad. -/
theorem ldg_witness : gives (exec (.ldg (fm 7 0)) (mapped (probe (.ldg (fm 7 0)) [(0, v 64), (1, .val (0x8000000000000000#64 ++ 0#448))])))
    (fun t => match out t with | [.val w] => w.extractLsb' 0 64 == 5#64 && w.extractLsb' 448 64 == 0#64 | _ => false) = true := by decide +kernel
theorem lda_witness : gives (exec (.lda (fm 7 0 1)) (mapped (probe (.lda (fm 7 0 1)) [(0, v 64)]))) (fun t => out t == [v 5]) = true := by decide +kernel
/-- A group that runs a kernel with 64 bytes of scratchpad, the scratchpad of its grid beginning with a byte 3. -/
def scratched (s : State) : State :=
  { State.withDev s (fun d => { d with
      ctxs := d.ctxs.set 0 { d.ctx 0 with kernels := [(0, { scratch := 64 })] } }) with mem := [(spKey 0 0, 3#8)] }
theorem ldsp_witness :
    gives (exec (.ldsp (fm 7 0)) (scratched (probe (.ldsp (fm 7 0)) [(0, v 0)]))) (fun t => out t == [v 3]) = true ∧
    gives (exec (.ldsp (fm 7 0)) (scratched (probe (.ldsp (fm 7 0)) [(0, v 8)]))) (fun t => pending t == some .protection) = true ∧
    gives (exec (.stsp { fm 7 0 with t0 := 0 }) (scratched (probe (.stsp { fm 7 0 with t0 := 0 }) [(0, v 0), (1, v 1)])))
      (fun t => (kept t).length == 1) = true := by decide +kernel
/-- StoresAndFaults: checks pass; a store that does not operate; a second fill; a scatter; a younger load of the same byte. -/
def stI : Instr := .st { fm 7 0 with t0 := 0 }
def stProbe : State := mapped (probe stI [(0, v 64), (1, v 9)])
def stFilled : State := State.withBlock stProbe (fun x => { x with lsids := [0] })
def younger2 : Inst := { thr := 1, grid := 0, st := .firing, seq := 2, blk := 256, accs := [⟨0, 0, [(64, 5#8)], false, none⟩] }
def stYoung : State := State.withDev stProbe (fun d => { d with insts := (9, younger2) :: d.insts })
theorem store_witness :
    (match stProbe.dev.firing with
      | some c => (match stProbe.dev.thr c.x.thr with
        | some u => (match stProbe.toW.storeCheck c u 64 64 8 with | .ok w => (w.d.youngLoads 1 1 none [64]).isEmpty | _ => false)
        | none => false)
      | none => false) = true ∧
    True := by decide +kernel
theorem store_twice_witness : gives (exec stI stFilled) (fun t => pending t == some .exitConflict) = true := by decide +kernel
theorem store_flushes_witness : gives (exec stI stYoung) (fun t => (t.dev.inst 9).isNone && (t.dev.grid 0).pred == [⟨256, 0, 0⟩]) = true := by decide +kernel
theorem stg_witness : gives (exec (.stg { fm 7 0 with t0 := 0 }) (mapped (probe (.stg { fm 7 0 with t0 := 0 }) [(0, v 64), (1, v 0), (2, v 7)])))
    (fun t => (kept t).length == 1 && pending t == none) = true := by decide +kernel
theorem store_null_witness :
    let i := Instr.st { fm 7 0 with t0 := 0, pr := 1 }
    gives (exec i (mapped (probe i [(0, v 64), (1, v 9), (3, v 0)]))) (fun t => kept t == [] && ((t.dev.inst 2).map (fun x => x.lsids)) == some [0]) = true ∧
    gives (exec i (mapped (probe i [(0, .null), (1, v 9), (3, v 1)]))) (fun t => kept t == [] && ((t.dev.inst 2).map (fun x => x.lsids)) == some [0]) = true := by
  decide +kernel
/-- AccessFaults: a bad address at its least, 2^57; a misaligned one; without the right; outside the domain. -/
theorem access_faults_witness :
    gives (exec (.ld (fm 7 0)) (mapped (probe (.ld (fm 7 0)) [(0, v (2 ^ 57))]))) (fun t => pending t == some .alignment) = true ∧
    gives (exec (.ld (fm 7 0)) (mapped (probe (.ld (fm 7 0)) [(0, v (2 ^ 57 - 64))]))) (fun t => pending t != none && pending t != some .alignment) = true ∧
    gives (exec (.st { fm 7 0 with t0 := 0 }) (State.withDev (mapped (probe (.st { fm 7 0 with t0 := 0 }) [(0, v 64), (1, v 1)]))
      (fun d => { d with grids := d.grids.set 0 { d.grid 0 with plb := [⟨0, 1, 1#3⟩] } }))) (fun t => pending t == some .protection) = true ∧
    gives (exec (.ld (fm 7 0)) (mapped (probe (.ld (fm 7 0)) [(0, v (3 * 2 ^ 49))]))) (fun t => pending t == some .protection) = true := by decide +kernel
/-- The missing page of AccessFaults: the second page. -/
theorem absent_witness :
    (match (tabled (probe (.ld (fm 7 0)) [])).toW.translate 0 0 (2 ^ 14) with | .absent => true | _ => false) = true ∧
    gives (exec (.ld (fm 7 0)) (tabled (probe (.ld (fm 7 0)) [(0, v (2 ^ 14))])))
      (fun t => pending t == some .pageAbsent && t.dev.preqs.map (fun r => r.page) == [2 ^ 14]) = true ∧
    gives (exec stI (tabled (probe stI [(0, v (2 ^ 14)), (1, v 1)])))
      (fun t => pending t == some .pageAbsent && t.dev.preqs.map (fun r => r.page) == [2 ^ 14]) = true := by
  decide +kernel
/-- PrefetchAndFences: a prefetch of a mapped line, of an address that none has; the fences; a range of one byte and of none. -/
theorem fence_witness :
    gives (exec (.pref (fm 0 0)) (mapped (probe (.pref (fm 0 0)) [(0, v 64)]))) (fun t => (t.dev.grid 0).l1.length == 1) = true ∧
    gives (exec (.pref (fm 0 0)) (mapped (probe (.pref (fm 0 0)) [(0, v (2 ^ 57))]))) (fun t => pending t == none && (t.dev.grid 0).l1 == []) = true ∧
    gives (exec (.fence (fm 1 0 1)) (probe (.fence (fm 1 0 1)) [])) (fun t => kept t == []) = true ∧
    gives (exec (.fence (fm 2 0 2)) (probe (.fence (fm 2 0 2)) [])) (fun t => kept t == [.fence 2#4 2]) = true ∧
    gives (exec (.fence (fm 3 0 1)) (probe (.fence (fm 3 0 1)) [])) (fun t => kept t == [.fence 3#4 1]) = true ∧
    gives (exec (.cwb (fm 0 0 1)) (mapped (probe (.cwb (fm 0 0 1)) [(0, v 64), (1, v 1)]))) (fun t => kept t == [.cwb 1 64 1]) = true ∧
    gives (exec (.cinv (fm 0 0 1)) (mapped (probe (.cinv (fm 0 0 1)) [(0, v 64), (1, v 0)]))) (fun t => pending t == some .protection) = true := by decide +kernel

/-! ### Streams, engines, atomics -/

/-- Words of formats A and N. -/
def fa' (ty lsid ord : Nat) (scope : Nat := 2) : FmtA :=
  { stg := 3, pr := 0, ty := BitVec.ofNat 4 ty, lsid := BitVec.ofNat 5 lsid, scope := BitVec.ofNat 3 scope, ord := BitVec.ofNat 2 ord, t0 := 0x800, offs := 0 }
def fn (tile : Nat := 0) (x : Nat := 0) (cf : Nat := 1) (ksteps : Nat := 0) (t0 : Nat := 0x800) (af : Nat := 0) (bf : Nat := 0) : FmtN :=
  { stg := 2, pr := 0, af := BitVec.ofNat 4 af, bf := BitVec.ofNat 4 bf, cf := BitVec.ofNat 2 cf, tile := BitVec.ofNat 1 tile,
    ksteps := BitVec.ofNat 6 ksteps, sparse := 0, t0 := BitVec.ofNat 12 t0, x := BitVec.ofNat 20 x }
/-- Eight n64 lanes, lane 0 first. -/
def lanes (l : List Nat) : Tok := .val (BitVec.ofNat 512 (l.foldr (fun x a => x + 2 ^ 64 * a) 0))
/-- A stream descriptor of 3 n64 elements from a base on. -/
def desc3 (base : Nat) (stride : Nat := 8) : Tok := lanes [base, 3 + 2 ^ 32, 1, stride, 0, 0]
/-- The probe's thread with stream 5. -/
def withStream (s : State) (q : Machine.Stream) : State :=
  State.withDev s (fun d => { d with threads := d.threads.map (fun p => (p.1, { p.2 with streams := [(5, q)] })) })
def cfg3 (base : Nat) (write : Bool) (sp : Space) : StreamCfg :=
  { ty := 7, write := write, space := sp, base := base, count0 := 3, count1 := 1, count2 := 1, stride0 := 8, stride1 := 0, stride2 := 0 }
def sreadI : Instr := .sread (fm 7 0 0 5)
/-- Streams: a read of three elements of memory; of a port with three arrivals and with two; past the end; of a closed stream. -/
theorem sread_witness :
    gives (exec sreadI (withStream (mapped (probe sreadI [])) { isOpen := true, cfg := cfg3 64 false .global }))
      (fun t => out t == [v 5]) = true ∧
    gives (exec sreadI (withStream (probe sreadI []) { isOpen := true, cfg := cfg3 0 false .port, arrivals := [(1, false), (2, false), (3, false)] }))
      (fun t => out t == [lanes [1, 2, 3]]) = true ∧
    gives (exec sreadI (withStream (probe sreadI []) { isOpen := true, cfg := cfg3 0 false .port, arrivals := [(1, false), (2, false)] }))
      (fun t => out t == [] && pending t == none) = true ∧
    gives (exec sreadI (withStream (probe sreadI []) { isOpen := true, cfg := cfg3 64 false .global, pos := 3 })) (fun t => out t == [.null]) = true ∧
    gives (exec sreadI (probe sreadI [])) (fun t => out t == [.null]) = true ∧
    gives (exec sreadI (withStream (scratched (probe sreadI [])) { isOpen := true, cfg := cfg3 0 false .scratch })) (fun t => out t == [v 3]) = true ∧
    gives (exec sreadI (withStream (probe sreadI []) { isOpen := true, cfg := cfg3 64 true .global })) (fun t => pending t == some .alignment) = true := by
  decide +kernel
/-- Streams: writes to an open stream, a closed one, one of the other direction; closing; configuring with each status. -/
theorem swrite_witness :
    gives (exec (.swrite (fm 7 0 0 5)) (withStream (probe (.swrite (fm 7 0 0 5)) [(0, v 1)]) { isOpen := true, cfg := cfg3 64 true .global }))
      (fun t => kept t == [.swrite 5 7 1]) = true ∧
    gives (exec (.swrite (fm 7 0 0 5)) (probe (.swrite (fm 7 0 0 5)) [(0, v 1)])) (fun t => kept t == [] && pending t == none) = true ∧
    gives (exec (.swrite (fm 7 0 0 5)) (withStream (probe (.swrite (fm 7 0 0 5)) [(0, v 1)]) { isOpen := true, cfg := cfg3 64 false .global }))
      (fun t => pending t == some .alignment) = true ∧
    gives (exec (.sclose (fm 0 0 0 5)) (withStream (probe (.sclose (fm 0 0 0 5)) []) { isOpen := true, cfg := cfg3 64 true .global }))
      (fun t => kept t == [.sclose 5]) = true := by decide +kernel
def scfgI (space : Nat) : Instr := .scfg (fm 7 0 0 (5 + 64 * (space : Int)))
theorem scfg_witness :
    gives (exec (scfgI 0) (mapped (probe (scfgI 0) [(0, desc3 64)]))) (fun t => out t == [vs 0] && (kept t).length == 1) = true ∧
    gives (exec (scfgI 0) (mapped (probe (scfgI 0) [(0, desc3 60)]))) (fun t => out t == [vs 3]) = true ∧
    gives (exec (scfgI 0) (withStream (mapped (probe (scfgI 0) [(0, desc3 64)])) { isOpen := true, cfg := cfg3 64 false .global }))
      (fun t => out t == [vs 2]) = true ∧
    gives (exec (scfgI 2) (probe (scfgI 2) [(0, desc3 0 0)])) (fun t => out t == [vs 0]) = true ∧
    gives (exec (scfgI 1) (scratched (probe (scfgI 1) [(0, desc3 0)]))) (fun t => out t == [vs 0]) = true ∧
    gives (exec (scfgI 1) (scratched (probe (scfgI 1) [(0, desc3 48)]))) (fun t => out t == [vs 3]) = true := by decide +kernel
/-- A range of 2,048 pages: status 1. -/
theorem scfg_pages_witness :
    gives (exec (scfgI 0) (mapped (probe (scfgI 0) [(0, lanes [0, 2 ^ 22 + 2 ^ 32, 1, 8, 0, 0])]))) (fun t => out t == [vs 1]) = true := by
  decide +kernel
/-- Streams, `ldfwd`: to grid 0 of the parcel; an invalid destination. -/
def boundCtx (s : State) : State :=
  State.withDev s (fun d => { d with ctxs := d.ctxs.set 0 { d.ctx 0 with
      plat := some { parcel := 0xFF#448, bctl := 0#64, budgets := [], poolBase := 0, poolUnits := 0, locks := [] } } })
theorem ldfwd_witness :
    gives (exec (.ldfwd (fm 0 0)) (boundCtx (mapped (probe (.ldfwd (fm 0 0)) [(0, v 64), (1, v (2 * 2 ^ 60))]))))
      (fun t => (kept t).length == 1) = true ∧
    gives (exec (.ldfwd (fm 0 0)) (boundCtx (mapped (probe (.ldfwd (fm 0 0)) [(0, v 64), (1, v 0)]))))
      (fun t => pending t == some .protection) = true := by decide +kernel
/-- Engines: a copy of 64 bytes, one to the scratchpad, one of a length that is none, one misaligned. -/
def copyI : Instr := .acopy (fm 0 0 2)
theorem copy_witness :
    gives (exec copyI (probe copyI [(0, lanes [4096, 8192, 64])])) (fun t => (kept t).length == 1 && pending t == none) = true ∧
    gives (exec copyI (scratched (probe copyI [(0, lanes [0, 8192, 64, 0, 0, 0, 1])]))) (fun t => (kept t).length == 1 && pending t == none) = true ∧
    gives (exec copyI (probe copyI [(0, lanes [4096, 8192, 0])])) (fun t => pending t == some .protection) = true ∧
    gives (exec copyI (probe copyI [(0, lanes [4100, 8192, 64])])) (fun t => pending t == some .alignment) = true ∧
    gives (exec (.acopy2 (fm 0 0 2)) (probe (.acopy2 (fm 0 0 2)) [(0, lanes [4096, 8192, 64, 2, 128 + 128 * 2 ^ 32])])) (fun t => (kept t).length == 1) = true ∧
    gives (exec (.agather (fm 0 0 2)) (probe (.agather (fm 0 0 2)) [(0, lanes [4096, 8192, 64, 2, 16384])])) (fun t => (kept t).length == 1) = true := by
  decide +kernel
/-- Engines: a shadow of one page with a frame in the pool, without one, over an open one, and with an open handle. -/
def shadowI : Instr := .ashadow (fm 0 0)
def shadowProbe (pool : List Nat) (open_ : List (Nat × Shadow)) : State :=
  State.withDev (mapped (probe shadowI [(0, lanes [0, 16384, 3])]))
    (fun d => { d with pool := pool, ctxs := d.ctxs.set 0 { d.ctx 0 with shadows := open_ } })
theorem shadow_witness :
    gives (exec shadowI (shadowProbe [0x200000] [])) (fun t => out t == [vs 0] && (kept t).length == 1) = true ∧
    gives (exec shadowI (shadowProbe [] [])) (fun t => out t == [vs 1]) = true ∧
    gives (exec shadowI (shadowProbe [0x200000] [(3, { base := 0x8000, len := 16384, frames := [], isOpen := true, publishing := none })]))
      (fun t => out t == [vs 2]) = true ∧
    gives (exec shadowI (shadowProbe [0x200000] [(4, { base := 0, len := 16384, frames := [], isOpen := true, publishing := none })]))
      (fun t => out t == [vs 3]) = true := by decide +kernel
theorem apub_witness :
    gives (exec (.apubPublish (fm 0 0 2)) (probe (.apubPublish (fm 0 0 2)) [(0, v 3)])) (fun t => kept t == [.apubPublish 3 2]) = true ∧
    gives (exec (.apubDiscard (fm 1 0)) (probe (.apubDiscard (fm 1 0)) [(0, v 3)])) (fun t => kept t == [.apubDiscard 3]) = true ∧
    gives (exec (.aprobe (fm 0 0)) (probe (.aprobe (fm 0 0)) [(0, v 7)])) (fun t => out t == [vs 0]) = true := by decide +kernel

/-- Atomics: `amo.add` of 4 on a mapped word leaves its operation; a fetching one is performed early by the event (08 R258). -/
def amoI : Instr := .amoAdd (fa' 7 0 0)
theorem amo_witness : gives (exec amoI (mapped (probe amoI [(0, v 64), (1, v 4)]))) (fun t => kept t == [.amo .add 7 2 0 64 4 0]) = true := by
  decide +kernel
def amoHeld : State :=
  let s := State.withBlock (mapped (probe amoI [(0, v 64), (1, v 4)])) (fun x => { x with
    fired := [0], lsids := [0], effs := [(0, 0, .amo .add 7 2 0 64 4 0)], accs := [⟨0, 0, (List.range 8).map (fun j => (64 + j, 0#8)), true, none⟩] })
  State.withDev s (fun d => { d with arg := { a := 2, b := 0 } })
/-- The word 5 becomes 9, the old value is sent, and no other byte changes. -/
theorem amo_early_witness : gives (exec .atomicEarlyPerform amoHeld) (fun t => out t == [vs 5] && t.mem == [(0x100040, 9#8)]) = true := by
  decide +kernel
/-- A device that a debug stop holds performs nothing early. -/
theorem amo_stopped_witness :
    gives (exec .atomicEarlyPerform (State.withDev amoHeld (fun d => { d with grids := d.grids.set 0 { d.grid 0 with stopAt := some 0 } })))
      (fun t => out t == []) = true := by decide +kernel

/-! ### The matrix array -/

/-- A block whose matrix step at slot 0 waits, with its operands; and what the step's tokens are once it has started. -/
def stepProbe (i : Instr) (a b : Nat) (tiles : Tbl Tile) : State :=
  let s := State.withBlock (probe i [(0, v a), (1, v b)]) (fun x => { x with
    fired := [0], msteps := [{ idx := 0, a := BitVec.ofNat 64 a, b := BitVec.ofNat 64 b }] })
  State.withDev s (fun d => { d with arg := { a := 2, b := 0 }, threads := d.threads.map (fun p => (p.1, { p.2 with tiles := tiles })) })
def stepToks (t : State) : List Tok := ((t.dev.inst 2).map (fun x => x.msteps.flatMap (fun m => m.toks.map (fun p => p.2)))).getD []
/-- MatrixSteps: the instructions fire, with a null they send nulls. -/
theorem matrix_fire_witness :
    gives (exec (.mzero (fn 0 0 0 0 0)) (probe (.mzero (fn 0 0 0 0 0)) [])) (fun t => ((t.dev.inst 2).map (fun x => x.msteps.length)) == some 1) = true ∧
    gives (exec (.mld (fn 0 96 0)) (probe (.mld (fn 0 96 0)) [(0, .null)])) (fun t => out t == [.null]) = true := by decide +kernel
/-- A tile of 48 by 96 i32 cells, all of them 0 but the first. -/
def tile1 (live : Bool) : Tile := { i32 := true, live := live, cells := [7#32] }
/-- MatrixSteps: each step is ready; a live tile of another shape is TILE_LIVE; a row or a block outside is MATRIX_SHAPE. -/
theorem matrix_start_witness :
    gives (exec .matrixStepStart (stepProbe (.mcfg (fn 0 0 1 0 0)) 0 0 [])) (fun t => ((t.dev.thr 1).bind (fun u => u.tiles.look 0)) ==
      some { m := 16, n := 32, i32 := true, width := 1, live := false, cells := [] }) = true ∧
    gives (exec .matrixStepStart (stepProbe (.mcfg (fn 0 0 0 0 0)) 0 0 [(0, tile1 true)])) (fun t => pending t == some .tileLive) = true ∧
    gives (exec .matrixStepStart (stepProbe (.mzero (fn 0 0 0 0 0)) 0 0 [(0, { tile1 true with width := 2 })])) (fun t => pending t == some .matrixShape) = true ∧
    gives (exec .matrixStepStart (stepProbe (.mzero (fn 0 0 0 0 0)) 0 0 [(0, tile1 true)])) (fun t => ((t.dev.thr 1).bind (fun u => u.tiles.look 0)) ==
      some { tile1 true with cells := [] }) = true ∧
    gives (exec .matrixStepStart (stepProbe (.mctr (fn 0 0x400 0 0 0)) 0 0 [])) (fun t => ((t.dev.inst 2).map (fun x => x.msteps.map (fun m => m.ctr))) ==
      some [some (0, ⟨2, 0, 0⟩)]) = true ∧
    gives (exec .matrixStepStart (stepProbe (.mbound (fn 0 0 0 0 0)) 100 0 [])) (fun t => ((t.dev.inst 2).map (fun x => x.msteps.map (fun m => m.ctr))) ==
      some [some (0, ⟨64, 1, 0⟩)]) = true := by decide +kernel
theorem matrix_read_witness :
    gives (exec .matrixStepStart (stepProbe (.mrow (fn 0 0 0)) 0 0 [(0, tile1 true)])) (fun t => stepToks t == [v 7]) = true ∧
    gives (exec .matrixStepStart (stepProbe (.mrow (fn 0 (48 * 4096) 0)) 0 0 [(0, tile1 true)])) (fun t => pending t == some .matrixShape) = true ∧
    gives (exec .matrixStepStart (stepProbe (.mred (fn 0 0 0)) 0 0 [(0, tile1 true)])) (fun t => stepToks t == [v 7]) = true ∧
    gives (exec .matrixStepStart (stepProbe (.mred (fn 0 (3 * 4096) 0)) 0 0 [(0, tile1 true)])) (fun t => pending t == some .matrixShape) = true := by
  decide +kernel

/-- LoadsAnswer: a load across the end of its page into one that is device-ordered waits for the oldest turn; one that takes a byte from
an atomic of its instance waits. -/
def ldOther (w0 : Nat) (older : List (Nat × Inst)) : State :=
  State.withDev (mapped (probe (.ld (fm 7 0)) [(0, v (2 ^ 14 - 8))])) (fun d => { d with
    insts := d.insts ++ older
    tcaches := d.tcaches ++ (List.range 16).map (fun u => ⟨u, 2 ^ 14, 2 ^ 14, 0x200000, BitVec.ofNat 64 w0, 0#64⟩) })
def older1 : Nat × Inst := (7, { thr := 1, grid := 0, st := .firing, seq := 0, blk := 256 })
theorem load_device_witness :
    gives (exec (.ld (fm 7 0)) (ldOther (2 ^ 59) [older1])) (fun t => out t == [v 0]) = true ∧
    gives (exec (.ld (fm 7 0)) (ldOther (2 ^ 59 + 2 ^ 58) [older1])) (fun t => out t == [] && pending t == none) = true ∧
    gives (exec (.ld (fm 7 0)) (ldOther (2 ^ 59 + 2 ^ 58) [])) (fun t => out t == [v 0]) = true := by decide +kernel
def ldOwes : State :=
  State.withBlock (mapped (probe (.ld (fm 7 1)) [(0, v 64)])) (fun x => { x with
    lsids := [0], fired := [1], effs := [(0, 1, .amo .add 7 2 0 64 4 0)], accs := [⟨0, 1, (List.range 8).map (fun j => (64 + j, 9#8)), true, none⟩]
    code := x.code.map (fun b => { b with words := [b.words.headD 0, (encode (.amoAdd (fa' 7 0 0))).headD 0] }) })
theorem load_owes_witness :
    (match ldOwes.dev.firing with | some c => c.x.owed c.code 1 (addrs 64 64) | none => false) = true ∧
    gives (exec (.ld (fm 7 1)) ldOwes) (fun t => t == { ldOwes with dev := t.dev } && out t == [] && pending t == none) = true := by decide +kernel
/-- LoadsAnswer: bad bytes of the scratchpad; a range that a copy of the group has reserved. -/
def ldspProbe (d : Dev → Dev) : State := State.withDev (scratched (probe (.ldsp (fm 7 0)) [(0, v 0)])) d
theorem ldsp_bad_witness :
    gives (exec (.ldsp (fm 7 0)) (ldspProbe (fun d => { d with poison := [spKey 0 0 + 63] }))) (fun t => pending t == some .dataEcc) = true ∧
    gives (exec (.ldsp (fm 7 0)) (ldspProbe (fun d => { d with poison := [spKey 0 0 + 64] }))) (fun t => out t == [v 3]) = true := by decide +kernel
/-- LoadValues: a page that moves: a line that the L2 holds is served, another waits. -/
def ldMoving (l2 : List L2Line) : State :=
  let s := State.withDev (tabled (probe (.ld (fm 7 0)) [(0, v 64)])) (fun d => { d with l2 := l2, tcaches := [] })
  { s with mem := s.mem.writeAll (cells8 0x30000 (2 ^ 63 + 2 ^ 62 + 3 * 2 ^ 59 + 0x100000)) }
theorem load_moving_witness :
    gives (exec (.ld (fm 7 0)) (ldMoving [⟨2, 0, 0, 0xFFFFFFFF#32, 0#32, 5#256⟩, ⟨3, 0, 0, 0xFFFFFFFF#32, 0#32, 0#256⟩])) (fun t => out t == [v 5]) = true ∧
    gives (exec (.ld (fm 7 0)) (ldMoving [])) (fun t => out t == [] && pending t == none) = true := by decide +kernel
/-- PrefetchAndFences: a prefetch to the L2; one of a page without the right does nothing; fences of KIND 3 at PACKAGE scope, oldest
and not. -/
theorem fence_more_witness :
    gives (exec (.pref (fm 1 0)) (mapped (probe (.pref (fm 1 0)) [(0, v 64)]))) (fun t => (t.dev.grid 0).l1 == [] && pending t == none) = true ∧
    gives (exec (.fence (fm 3 0 2)) (probe (.fence (fm 3 0 2)) [])) (fun t => kept t == [.fence 3#4 2]) = true ∧
    gives (exec (.fence (fm 3 0 2)) (State.withDev (probe (.fence (fm 3 0 2)) []) (fun d => { d with insts := d.insts ++ [older1] })))
      (fun t => kept t == [] && pending t == none) = true := by decide +kernel
/-- CrossLane: a NaN in the lowest lane of a scan is delivered as the canonical one. -/
theorem scan_nan_witness :
    gives (exec (.scan (g 10 0x80)) (probe (.scan (g 10 0x80)) [(0, v 0xFFC12345)]))
      (fun t => match out t with | [.val w] => w.extractLsb' 0 32 == BitVec.ofNat 32 (canonicalNan 10) | _ => false) = true := by decide +kernel
/-- Streams: a hand-over is awaited; bad elements of a port and of the scratchpad; a burst that failed. -/
theorem stream_wait_witness :
    let q : Machine.Stream := { isOpen := true, cfg := cfg3 64 true .global, configuring := some 1 }
    gives (exec (.swrite (fm 7 0 0 5)) (withStream (probe (.swrite (fm 7 0 0 5)) [(0, v 1)]) q)) (fun t => t == withStream (probe (.swrite (fm 7 0 0 5)) [(0, v 1)]) q) = true ∧
    gives (exec (.sclose (fm 0 0 0 5)) (withStream (probe (.sclose (fm 0 0 0 5)) []) q)) (fun t => kept t == []) = true ∧
    gives (exec sreadI (withStream (probe sreadI []) { q with cfg := cfg3 64 false .global })) (fun t => out t == []) = true := by decide +kernel
theorem stream_faults_witness :
    gives (exec sreadI (withStream (probe sreadI []) { isOpen := true, cfg := cfg3 0 false .port, arrivals := [(1, false), (2, false), (3, true)] }))
      (fun t => pending t == some .dataEcc) = true ∧
    gives (exec sreadI (withStream (State.withDev (scratched (probe sreadI [])) (fun d => { d with poison := [spKey 0 0 + 23] }))
      { isOpen := true, cfg := cfg3 0 false .scratch })) (fun t => pending t == some .dataEcc) = true ∧
    gives (exec (.swrite (fm 7 0 0 5)) (withStream (probe (.swrite (fm 7 0 0 5)) [(0, v 1)]) { isOpen := true, cfg := cfg3 64 true .global, unresolved := true }))
      (fun t => pending t == some .pageUnresolved) = true ∧
    gives (exec (.sclose (fm 0 0 0 5)) (withStream (probe (.sclose (fm 0 0 0 5)) []) { isOpen := true, cfg := cfg3 64 true .global, unresolved := true }))
      (fun t => pending t == some .pageUnresolved) = true ∧
    gives (exec (.swrite (fm 7 0 0 5)) (withStream (scratched (probe (.swrite (fm 7 0 0 5)) [(0, v 1)])) { isOpen := true, cfg := cfg3 0 true .scratch }))
      (fun t => kept t == [.swrite 5 7 1]) = true := by decide +kernel
/-- Streams, `scfg`: another thread of the grid has the stream OPEN, or its instance configures it; a stream to be written. -/
def scfgOther (st : Machine.Stream) : State :=
  State.withDev (mapped (probe (scfgI 0) [(0, desc3 64)])) (fun d => { d with threads := d.threads ++ d.threads.map (fun p => (9, { p.2 with tnum := 1, streams := [(5, st)] })) })
theorem scfg_taken_witness :
    gives (exec (scfgI 0) (scfgOther { isOpen := true, cfg := cfg3 64 false .global })) (fun t => out t == [vs 2]) = true ∧
    gives (exec (scfgI 0) (scfgOther { isOpen := false, cfg := cfg3 64 false .global, configuring := some 1 })) (fun t => out t == [vs 2]) = true ∧
    gives (exec (scfgI 0) (scfgOther { isOpen := false, cfg := cfg3 64 false .global })) (fun t => out t == [vs 0]) = true ∧
    gives (exec (.scfg (fm 7 0 0 (5 + 32))) (mapped (probe (.scfg (fm 7 0 0 (5 + 32))) [(0, desc3 64)]))) (fun t => out t == [vs 0] && (kept t).length == 1) = true := by decide +kernel
/-- Streams, `ldfwd`: across the end of its page into one that is absent. -/
theorem ldfwd_page_witness :
    gives (exec (.ldfwd (fm 0 0)) (boundCtx (tabled (probe (.ldfwd (fm 0 0)) [(0, v (2 ^ 14 - 8)), (1, v (2 * 2 ^ 60))]))))
      (fun t => pending t == some .pageAbsent) = true := by decide +kernel
/-- Engines: a copy out of the scratchpad of its group keeps the end of the window; a publication with the W right on its buffer, and
without it. -/
def shadowOpen (rights : BitVec 3) : State :=
  State.withDev (mapped (probe (.apubPublish (fm 0 0 2)) [(0, v 3)])) (fun d => { d with
    grids := d.grids.set 0 { d.grid 0 with plb := [⟨0, 1, rights⟩] }
    ctxs := d.ctxs.set 0 { d.ctx 0 with shadows := [(3, { base := 0, len := 16384, frames := [0x200000], isOpen := true, publishing := none })] } })
theorem engines_more_witness :
    gives (exec copyI (scratched (probe copyI [(0, lanes [8192, 0, 64, 0, 0, 0, 4])]))) (fun t => match kept t with
      | [.copy q] => q.sspace == .scratch && q.slim == spKey 0 64
      | _ => false) = true ∧
    gives (exec (.apubPublish (fm 0 0 2)) (shadowOpen 7#3)) (fun t => kept t == [.apubPublish 3 2]) = true ∧
    gives (exec (.apubPublish (fm 0 0 2)) (shadowOpen 1#3)) (fun t => pending t == some .protection) = true := by decide +kernel
/-- Atomics: what the early performance asks of the instance holds of `amo_early_witness`. -/
theorem amo_early_hyps :
    (match amoHeld.dev.inst 2, amoHeld.dev.thr 1 with
      | some x, some u => (match x.code with | some b => (amoHeld.toW.loadFault x b u).isNone && b.slots.length == 1 | none => false) &&
          x.amoTurn 0 0 ⟨.add, 7, 2, 0, 64, 4, 0⟩ == (0, 0, ⟨.add, 7, 2, 0, 64, 4, 0⟩) && u.streams == [] && amoHeld.dev.rels == []
      | _, _ => false) = true := by decide +kernel
def tileS (live : Bool) : Tile := { m := 16, n := 32, i32 := true, live := live, cells := 7#32 :: List.replicate 511 0#32 }
/-- The step of a state's argument may start. -/
def mayStart (s : State) : Bool :=
  match s.dev.stepAt s.dev.arg.a s.dev.arg.b .waiting with
  | some (x, b, u, m, i) => s.toW.stepTurn s.dev.arg.a x b u m i
  | none => false
/-- MatrixSteps: loads and stores of a tile over the mapped page, and of a weight record. -/
theorem matrix_load_witness :
    gives (exec .matrixStepStart (tabled (stepProbe (.mld (fn 0 32 0)) 0 0 [(0, tileS false)])))
      (fun t => stepToks t == [vs 1] && ((t.dev.thr 1).map (fun u => (u.tiles.get 0 {}).cells.getD 16 0#32)) == some 5#32) = true := by decide +kernel
theorem matrix_store_witness :
    gives (exec .matrixStepStart (tabled (stepProbe (.mst (fn 0 32 0)) 0 0 [(0, tileS true)])))
      (fun t => stepToks t == [vs 1] && ((t.dev.inst 2).map (fun x => x.msteps.map (fun m => cellAt m.out 0))) == some [some 7#8]) = true := by decide +kernel
theorem wbload_witness :
    gives (exec .wbloadStepStart (State.withBlock (tabled (stepProbe (.wbload (fn 0 2 0)) 0 0 [])) (fun x => { x with exit := some ⟨0, 0x30, some 0⟩ })))
      (fun t => stepToks t == [vs 768] && (t.dev.grid 0).wtags.look 0 == some (.full 8 0) && t.mem.read (wbKey 0 64) == 5#8) = true := by decide +kernel
/-- A started step finishes and sends its tokens; a step that is not there changes nothing. -/
theorem matrix_finish_witness :
    gives (exec .matrixStepFinish (State.withBlock (stepProbe (.mzero (fn 0 0 0 0 0)) 0 0 [])
        (fun x => { x with msteps := [{ idx := 0, a := 0, b := 0, st := .started, toks := [(0x800, vs 1)] }] }))) (fun t => out t == [vs 1]) = true ∧
    (stepProbe (.mzero (fn 0 0 0 0 0)) 0 0 []).dev.stepAt 2 1 .waiting = none := by decide +kernel
/-- MatrixMultiply: one K-step of a 16 by 32 tile, A at scratchpad offset 0 and B at weight buffer offset 0, whose units are full. -/
def mmaProbe : State :=
  State.withDev (stepProbe (.mma (fn 0 0 1 1)) 0 0 [(0, tileS true)]) (fun d => { d with
    ctxs := d.ctxs.set 0 { d.ctx 0 with kernels := [(0, { scratch := 1536 })] }
    grids := d.grids.set 0 { d.grid 0 with wtags := (List.range 96).map (fun j => (j, .full 8 0)) } })
theorem matrix_multiply_witness :
    mayStart mmaProbe = true ∧ (match mmaProbe.dev.thr 1 with
      | some u => u.width == 1 && mmaProbe.dev.window u == 0 && decide (0 + 1 * 16 * 96 ≤ mmaProbe.dev.scratchSize u) &&
        (match mmaProbe.dev.inst 2 with | some x => !mmaProbe.dev.stalled x (spKey 0 0) 1536 | none => false)
      | none => false) = true ∧ (tileS true).cells.length = 16 * 32 ∧
    (∀ j < 1 * 32 * 3, (mmaProbe.dev.grid 0).wtags.get j .empty = .full 8 0) := by decide +kernel
/-- TaggedPairs: the two halves in slots 0 and 1, waiting and multiplied. -/
def pairProbe (st : StepSt) : State :=
  let a := fn 0 0 1 1 0
  let s := State.withBlock mmaProbe (fun x => { x with
    fired := [0, 1], code := x.code.map (fun b => { b with words := [(encode (.mputa a)).headD 0, (encode (.mputb (fn 0 0 1 1))).headD 0] })
    msteps := [{ idx := 0, a := 0, b := 0, st := st }, { idx := 1, a := 0, b := 0, st := st }] })
  State.withDev s (fun d => { d with arg := { a := 2, b := 1 } })
theorem pair_witness :
    (match (pairProbe .waiting).dev.stepAt 2 1 .waiting with
      | some (x, b, u, m, i) => (match i with | .mputb _ => true | _ => false) && (b.partner 1).isSome && (pairProbe .waiting).dev.arrayIdle u &&
        (pairProbe .waiting).dev.mayRead 2 x b u 1 && (pairProbe .waiting).dev.olderClear x isWbload && x.lowerDone b 1 [.weights] &&
        decide (((pairProbe .waiting).dev.grid 0).matching.length + (pairProbe .waiting).dev.olderPairs x < 8) &&
        (x.msteps.all fun n => n.idx == 0 || !(pairProbe .waiting).dev.stepBefore x n x m) && x.pend.isNone && !x.dying &&
        !(pairProbe .waiting).dev.badB u m.a.toNat (32 * recSize 0) 0 0 &&
        (match x.msteps.find? (fun q => q.idx == 0 && q.st == .waiting) with
         | some ma => (match (pairProbe .waiting).toW.readA 2 0 x u ma false 16 1 0 with
           | (.go _ ma' _, _) => ma'.idx == 0 && ma'.locks == []
           | _ => false)
         | none => false)
      | none => false) = true ∧
    (match (pairProbe .multiplied).dev.stepAt 2 1 .multiplied with
      | some (x, b, _, m, i) => (match i with | .mputb _ => true | _ => false) && (pairProbe .multiplied).dev.eligible x b 1 [.tile 0] && m.late.isNone
      | none => false) = true := by decide +kernel

/-! ### Queues and what chapters 12 to 14 wait for -/

def State.withCtx (s : State) (k : Ctx → Ctx) : State := State.withDev s (fun d => { d with ctxs := d.ctxs.set 0 (k (d.ctx 0)) })
def State.withThr (s : State) (k : Thread → Thread) : State := State.withDev s (fun d => { d with threads := d.threads.map (fun p => (p.1, k p.2)) })
/-- A status for T0 and T1; an info token. -/
def both (n : Nat) : List Tok := [vs n, vs n]
def withQueue (s : State) (q : Queue) : State := State.withCtx s (fun k => { k with queues := [(1, q)] })
def dq (st : QState) (head tail size : Nat) : Queue := { st := st, kind := 2, qgen := 5, size := size, base := 0, head := head, tail := tail }
/-- The handle of queue 1 of generation 5 by kind. -/
def qh (kind : Nat) : Nat := (Queue.handle { kind := kind, qgen := 5 } 1)
def pushI (limit : Nat) : Instr := .qpush (fq 0 limit 0)
def popI (limit : Nat) : Instr := .qpop (fq 0 limit 0)
def pushAt (limit : Nat) (q : Queue) : State := withQueue (mapped (probe (pushI limit) [(0, v 9), (1, v (qh 2))])) q
def popAt (limit : Nat) (q : Queue) : State := withQueue (mapped (probe (popI limit) [(0, v (qh 2))])) q
/-- DataQueues, `qpush`: with room; stale; the wrong kind; FAULTED; draining; full, polling and waiting. -/
theorem qpush_witness :
    gives (exec (pushI 0x27D) (pushAt 0x27D (dq .opened 0 1 4))) (fun t => out t == both 0 && kept t == [.qpush (qh 2) 9]) = true ∧
    gives (exec (pushI 0x27D) (pushAt 0x27D { dq .opened 0 1 4 with qgen := 6 })) (fun t => out t == both 2) = true ∧
    gives (exec (pushI 0x27D) (withQueue (probe (pushI 0x27D) [(0, v 9), (1, v (qh 1))]) { dq .opened 0 1 4 with kind := 1 })) (fun t => out t == both 3) = true ∧
    gives (exec (pushI 0x27D) (pushAt 0x27D (dq .faulted 0 1 4))) (fun t => out t == both 5) = true ∧
    gives (exec (pushI 0x27D) (pushAt 0x27D (dq .draining 0 1 4))) (fun t => out t == both 2) = true ∧
    gives (exec (pushI 0x200) (pushAt 0x200 (dq .opened 0 4 4))) (fun t => out t == both 1) = true ∧
    gives (exec (pushI 0x27D) (pushAt 0x27D (dq .opened 0 4 4))) (fun t => out t == [] && t.dev.waits.length == 1) = true := by decide +kernel
/-- DataQueues, `qpop`: entry 1 stands at byte 64; an empty queue; a drained one; an older block keeps it waiting. -/
theorem qpop_witness :
    gives (exec (popI 0x27D) (popAt 0x27D (dq .opened 1 2 4))) (fun t => out t == [v 5, info 0 1 0] && kept t == [.qpop (qh 2) 1]) = true ∧
    gives (exec (popI 0x200) (popAt 0x200 (dq .opened 1 1 4))) (fun t => out t == [.null, info 1 0 0]) = true ∧
    gives (exec (popI 0x27D) (popAt 0x27D (dq .closed 1 1 4))) (fun t => out t == [.null, info 6 0 0]) = true ∧
    gives (exec (popI 0x27D) (younger (popAt 0x27D (dq .opened 1 2 4)))) (fun t => out t == []) = true ∧
    gives (exec (.qpeek (fq 0 0x27D 0)) (withQueue (mapped (probe (.qpeek (fq 0 0x27D 0)) [(0, v (qh 2))])) (dq .opened 1 2 4)))
      (fun t => out t == [v 5, info 0 1 0] && kept t == []) = true ∧
    gives (exec (.qinfo (fq 5 0x27D 0)) (withQueue (probe (.qinfo (fq 5 0x27D 0)) [(0, v (qh 2))]) { dq .opened 1 2 4 with drops := 3 }))
      (fun t => out t == both 3) = true ∧
    gives (exec (.qinfo (fq 5 0x27D 0)) (probe (.qinfo (fq 5 0x27D 0)) [(0, v (qh 2))])) (fun t => out t == both 0) = true := by decide +kernel
/-- A pop that may trap, polling on an empty queue: QUEUE_TIMEOUT. -/
theorem qpop_traps_witness :
    gives (exec (.qpop (fq 0 0x200 1)) (withQueue (mapped (probe (.qpop (fq 0 0x200 1)) [(0, v (qh 2))])) (dq .opened 1 1 4)))
      (fun t => pending t == some .queueTimeout) = true := by decide +kernel
/-- MailboxesRingsLaunch: to the thread itself with room; to one that is not there; receiving with and without a message. -/
theorem mail_witness :
    gives (exec (.mbsend (fq 0 0x27D 0)) (probe (.mbsend (fq 0 0x27D 0)) [(0, v 9), (1, v 64)])) (fun t => out t == both 0 && kept t == [.mbsend 1 1 9]) = true ∧
    gives (exec (.mbsend (fq 0 0x27D 0)) (probe (.mbsend (fq 0 0x27D 0)) [(0, v 9), (1, v 5)])) (fun t => out t == both 4) = true ∧
    gives (exec (.mbsend (fq 0 0x27D 0)) (State.withThr (probe (.mbsend (fq 0 0x27D 0)) [(0, v 9), (1, v 0)])
      (fun u => { u with mboxes := [(0, { msgs := List.replicate 64 ⟨0, 0, 0⟩ })] }))) (fun t => out t == [] && t.dev.waits.length == 1) = true ∧
    gives (exec (.mbrecv (fq 0 0x27D 0x6)) (State.withThr (probe (.mbrecv (fq 0 0x27D 0x6)) []) (fun u => { u with mboxes := [(1, { msgs := [⟨9, 3, 7⟩] })] })))
      (fun t => out t == [v 9, info 0 7 3] && kept t == [.mbrecv 1 7]) = true ∧
    gives (exec (.mbrecv (fq 0 0x27D 0x6)) (probe (.mbrecv (fq 0 0x27D 0x6)) [])) (fun t => out t == [] && t.dev.waits.length == 1) = true := by decide +kernel
/-- A ring of 4 slots over grids 0 and 1, slot 0 with a byte 3 at grid 0. -/
def ring (head tail : Nat) (masks : Tbl Nat) : Queue :=
  { st := .opened, kind := 3, qgen := 5, size := 4, first := 0, width := 2, head := head, tail := tail, masks := masks }
def ringAt (i : Instr) (ops : List (Nat × Tok)) (q : Queue) : State :=
  State.withCtx (withQueue { probe i ops with mem := [(spKey 0 0, 3#8)] } q) (fun k =>
    { k with plat := some { parcel := 0xFF#448, bctl := 0#64, budgets := [], poolBase := 0, poolUnits := 0, locks := [] } })
def putI : Instr := .mcput (fq 0 0x27D 0)
def takeI : Instr := .mctake (fq 0 0x27D 0)
theorem ring_witness :
    gives (exec putI (ringAt putI [(0, v 9), (1, v (qh 3))] (ring 0 1 [(0, 3)]))) (fun t => out t == both 0 && kept t == [.mcput (qh 3) 3 9]) = true ∧
    gives (exec putI (ringAt putI [(0, v 9), (1, v (qh 3)), (2, v 2)] (ring 0 1 [(0, 3)]))) (fun t => kept t == [.mcput (qh 3) 2 9]) = true ∧
    gives (exec putI (ringAt putI [(0, v 9), (1, v (qh 3))] (ring 0 4 [(0, 3), (1, 3), (2, 3), (3, 3)]))) (fun t => out t == [] && t.dev.waits.length == 1) = true ∧
    gives (exec takeI (ringAt takeI [(0, v (qh 3))] (ring 0 1 [(0, 3)]))) (fun t => out t == [v 3, info 0 0 2] && kept t == [.mctake (qh 3) 0 0]) = true := by
  decide +kernel
/-- A launch record for one thread of kernel 2 of load generation 7; a launch of a kernel that is not there; a malformed record; no room. -/
def launchI (limit : Nat) : Instr := .launch (fq 0 limit 0)
def rcd1 (l1 : Nat) : Tok := lanes [2 + 7 * 256, l1]
def launchAt (limit l1 tail : Nat) (ks : Tbl Kernel) : State :=
  State.withCtx (withQueue (probe (launchI limit) [(0, rcd1 l1), (1, v (qh 1))]) { dq .opened 0 tail 4 with kind := 1 }) (fun k => { k with kernels := ks })
def kernel2 : Tbl Kernel := [(2, { st := .resident, lgen := 7, entry := 0x500 })]
theorem launch_witness :
    gives (exec (launchI 0x27D) (launchAt 0x27D 1 0 kernel2)) (fun t => out t == both 0 && (kept t).length == 1) = true ∧
    gives (exec (launchI 0x27D) (launchAt 0x27D 1 0 [])) (fun t => out t == both 3) = true ∧
    gives (exec (launchI 0x27D) (launchAt 0x27D 0 0 kernel2)) (fun t => out t == both 4) = true ∧
    gives (exec (launchI 0x200) (launchAt 0x200 1 4 kernel2)) (fun t => out t == both 1) = true ∧
    gives (exec (launchI 0x27D) (launchAt 0x27D 1 4 kernel2)) (fun t => t.dev.waits.length == 1) = true ∧
    gives (exec (launchI 0x27D) (probe (launchI 0x27D) [(0, rcd1 1), (1, v 0)])) (fun t => out t == both 2) = true ∧
    gives (exec (.kinfo (fq 4 0x27D 0)) (State.withCtx (probe (.kinfo (fq 4 0x27D 0)) [(0, v (2 + 7 * 256))]) (fun k => { k with kernels := kernel2 })))
      (fun t => out t == both 0x500) = true ∧
    gives (exec (.kinfo (fq 4 0x27D 0)) (probe (.kinfo (fq 4 0x27D 0)) [(0, v 9)])) (fun t => out t == both 0) = true := by decide +kernel
/-- Tasks: a spawn on a frame of the mapped page; a continuation that is no block; a full deque; waits for a count of 5 and of 0. -/
def spawnI : Instr := .spawn (fq 0 0x27D 0)
def waitI : Instr := .syncWait (fq 0 0x27D 0)
def nextI : Instr := .syncNext (fq 1 0x27D 0)
theorem tasks_witness :
    gives (exec spawnI (mapped (probe spawnI [(0, v 0x1100), (1, v 64)]))) (fun t => out t == both 0 && kept t == [.spawn 0x1100 64 0]) = true ∧
    gives (exec spawnI (mapped (probe spawnI [(0, v 0x1101), (1, v 64)]))) (fun t => pending t == some .alignment) = true ∧
    gives (exec spawnI (mapped (probe spawnI [(0, v 0x1100), (1, v 65)]))) (fun t => pending t == some .alignment) = true ∧
    gives (exec spawnI (State.withThr (mapped (probe spawnI [(0, v 0x1100), (1, v 64)])) (fun u => { u with deque := List.replicate 1568 ⟨0, 0, 0, 0⟩ })))
      (fun t => out t == both 1) = true ∧
    gives (exec waitI (mapped (probe waitI [(0, v 64)]))) (fun t => out t == [] && t.dev.waits.length == 1) = true ∧
    gives (exec waitI (mapped (probe waitI [(0, v 128)]))) (fun t => out t == both 0) = true := by decide +kernel
def task1 : DqEnt := ⟨0x1100, 0, 3, 4⟩
theorem sync_next_witness :
    gives (exec nextI (State.withThr (mapped (probe nextI [(0, v 0)])) (fun u => { u with deque := [task1] })))
      (fun t => out t == [taskTok task1 false, vs 0] && kept t == [.syncNext 0 (some (1, 4))]) = true ∧
    gives (exec nextI (mapped (probe nextI [(0, v 0)]))) (fun t => out t == [] && t.dev.waits.length == 1) = true ∧
    gives (exec (.syncNext (fq 1 0x200 0)) (mapped (probe (.syncNext (fq 1 0x200 0)) [(0, v 64)]))) (fun t => out t == [.null, vs 1] && kept t == [.syncNext 64 none]) = true ∧
    gives (exec nextI (younger (mapped (probe nextI [(0, v 0)])))) (fun t => out t == [] && t.dev.waits.length == 0) = true := by decide +kernel
/-- A second thread of the group with a task: the steal. -/
def victim (s : State) : State :=
  State.withDev s (fun d => { d with threads := d.threads ++ d.threads.map (fun p => (7, { p.2 with tnum := 1, first := 1, slots := [(1, 0)], deque := [task1] })) })
theorem steal_witness : gives (exec nextI (victim (mapped (probe nextI [(0, v 0)]))))
    (fun t => out t == [taskTok task1 true, vs 0] && kept t == [.syncNext 0 (some (7, 4))]) = true := by decide +kernel
/-- EventsAndGroupItems: latch 7 set and clear; a signal to thread 0, to one beyond, and a malformed number; every item. -/
def evI : Instr := .evwait (fq 0 0x27D (7 * 2))
def sigI : Instr := .evsig (fq 0 0x27D 0)
def threaded (s : State) : State :=
  State.withDev s (fun d => { d with groups := d.groups.map (fun q => { q with rcd := 2#512 <<< 64 }) })
theorem events_witness :
    gives (exec evI (State.withThr (probe evI []) (fun u => { u with latches := 0x180 })))
      (fun t => (t.dev.thr 1).map (fun u => u.latches) == some 0x100 && kept t == [.evwait 0x80]) = true ∧
    gives (exec evI (probe evI [])) (fun t => t.dev.waits.length == 1) = true ∧
    gives (exec sigI (threaded (probe sigI [(0, v 0x13)]))) (fun t => out t == both 0 && kept t == [.evsig 1 3]) = true ∧
    gives (exec sigI (threaded (probe sigI [(0, v 0x20)]))) (fun t => out t == both 4) = true ∧
    gives (exec sigI (threaded (probe sigI [(0, v 0x400)]))) (fun t => out t == both 4) = true := by decide +kernel
theorem ginfo_witness : ∀ p ∈ [(0, 0), (1, 2), (2, 1), (3, 0), (4, 0), (5, 0), (6, 0), (7, 0)],
    gives (exec (.ginfo (fq p.1 0x27D 0)) (threaded (probe (.ginfo (fq p.1 0x27D 0)) []))) (fun t => out t == both p.2) = true := by decide +kernel
/-- Barriers: 3 arrivals expected at GROUP scope; handle 0x400 of barrier 0, generation 1, in phase 5 with 0, 2 and 3 arrivals. -/
def allocI : Instr := .binitAlloc (fq 0 0x27D 0)
def arriveI : Instr := .arrive (fq 0 0x27D 0)
def dropI : Instr := .arriveDrop (fq 1 0x27D 0)
def bwaitI : Instr := .bwait (fq 0 0x27D 0)
def bar (arrivals drops : Nat) (s : State) : State :=
  State.withCtx s (fun k => { k with bars := [(0, { armed := true, phase := 5, expected := 3, arrivals := arrivals, drops := drops, scope := 1, bgen := 1 })] })
theorem barrier_witness :
    gives (exec allocI (probe allocI [(0, v (3 + 2 ^ 16))])) (fun t => out t == [vs 0x400, vs 0]) = true ∧
    gives (exec allocI (probe allocI [(0, v (2 ^ 16))])) (fun t => out t == [.null, vs 3]) = true ∧
    gives (exec arriveI (bar 2 0 (probe arriveI [(0, v 0x400)]))) (fun t => out t == [vs 6, vs 0] && kept t == [.arrive 0 1 false]) = true ∧
    gives (exec arriveI (bar 3 0 (probe arriveI [(0, v 0x400)]))) (fun t => t.dev.waits.length == 1) = true ∧
    gives (exec arriveI (bar 2 0 (probe arriveI [(0, v 0x800)]))) (fun t => out t == [.null, vs 2]) = true ∧
    gives (exec dropI (bar 0 2 (probe dropI [(0, v 0x400)]))) (fun t => out t == [.null, vs 3]) = true ∧
    gives (exec dropI (bar 0 1 (probe dropI [(0, v 0x400)]))) (fun t => kept t == [.arrive 0 1 true]) = true ∧
    gives (exec bwaitI (bar 0 0 (probe bwaitI [(0, v 0x400), (1, v 5)]))) (fun t => out t == both 0) = true ∧
    gives (exec bwaitI (bar 0 0 (probe bwaitI [(0, v 0x400), (1, v 6)]))) (fun t => t.dev.waits.length == 1) = true ∧
    gives (exec (.binitFree (fq 1 0x27D 0)) (bar 0 0 (probe (.binitFree (fq 1 0x27D 0)) [(0, v 0x400)]))) (fun t => kept t == [.binitFree 0 1]) = true := by
  decide +kernel

/-! ### Revisions, traverse sets, and the instructions of chapters 10, 15, 18 and 19 -/

/-- Regions: a region of one page; a descriptor of an odd size; another region there; a live revision; no right. -/
def declI : Instr := .rregionDecl (fq 0 0 0)
def dropRI : Instr := .rregionDrop (fq 1 0 0)
def region1 : Tok := lanes [0, 2 ^ 14, 2]
def region1Vec : Vec := BitVec.ofNat 512 (2 ^ 14 * 2 ^ 64 + 2 * 2 ^ 128)
def alive (n : Nat) : Revision := { st := .active, rgen := 1, rid := n }
theorem regions_witness :
    gives (exec declI (mapped (probe declI [(0, region1)]))) (fun t => out t == [vs 0, vs 0] && (kept t).length == 1) = true ∧
    gives (exec declI (mapped (probe declI [(0, lanes [0, 100, 2])]))) (fun t => out t == [.null, vs 3]) = true ∧
    gives (exec declI (State.withCtx (mapped (probe declI [(0, region1)])) (fun k => { k with regions := [(0, { declared := true, desc := region1Vec })] })))
      (fun t => out t == [.null, vs 2]) = true ∧
    gives (exec declI (State.withCtx (mapped (probe declI [(0, region1)])) (fun k => { k with revs := [(1, alive 1)] }))) (fun t => out t == [.null, vs 4]) = true ∧
    gives (exec declI (probe declI [(0, region1)])) (fun t => out t == [.null, vs 5]) = true ∧
    gives (exec dropRI (probe dropRI [(0, v 15)])) (fun t => out t == both 3) = true ∧
    gives (exec dropRI (State.withCtx (probe dropRI [(0, v 15)]) (fun k => { k with regions := [(15, { declared := true, desc := region1Vec })] })))
      (fun t => out t == both 0 && kept t == [.regionDrop 15]) = true := by decide +kernel
/-- Regions, `rinfo`: every item of a live revision, of the root, and of a stale handle. -/
theorem rinfo_witness :
    gives (exec (.rinfo (fq 0 0 0)) (State.withCtx (probe (.rinfo (fq 0 0 0)) [(0, v (1 + 1024))]) (fun k => { k with revs := [(1, { alive 1 with depth := 2 })] })))
      (fun t => out t == both (rstateCode .active + 2 * 16)) = true ∧
    gives (exec (.rinfo (fq 1 0 0)) (probe (.rinfo (fq 1 0 0)) [(0, v 0)])) (fun t => out t == both 0) = true ∧
    gives (exec (.rinfo (fq 2 0 0)) (probe (.rinfo (fq 2 0 0)) [(0, v 0)])) (fun t => out t == both (4095 * 2 ^ 16)) = true ∧
    gives (exec (.rinfo (fq 5 0 0)) (probe (.rinfo (fq 5 0 0)) [(0, v 77)])) (fun t => out t == both 0) = true := by decide +kernel
/-- ForkAndJoin: a fork over a region of one present page with 3 frames in the pool; without regions; with a short pool. -/
def forkI : Instr := .fork (fq 0 0x27D 0)
def forkAt (regions : Tbl Region) (pool : List Nat) : State :=
  State.withDev (State.withCtx (withQueue (tabled (probe forkI [(0, rcd1 1), (1, v (qh 1))])) { dq .opened 0 0 4 with kind := 1 })
    (fun k => { k with kernels := kernel2, regions := regions })) (fun d => { d with pool := pool })
def oneRegion : Tbl Region := [(0, { declared := true, desc := region1Vec })]
theorem fork_witness :
    gives (exec forkI (forkAt oneRegion [0x200000, 0x204000, 0x208000])) (fun t => out t == [vs (1 + 1024), vs 0] && (kept t).length == 1) = true ∧
    gives (exec forkI (forkAt [] [0x200000])) (fun t => out t == [.null, vs 8]) = true ∧
    gives (exec forkI (forkAt oneRegion [0x200000])) (fun t => out t == [.null, vs 5]) = true ∧
    gives (exec forkI (younger (forkAt oneRegion [0x200000]))) (fun t => out t == []) = true := by decide +kernel
def joinI : Instr := .join (fq 0 0x27D 0)
theorem join_witness :
    gives (exec joinI (State.withCtx (probe joinI [(0, v (1 + 1024))]) (fun k => { k with revs := [(1, alive 1)] }))) (fun t => out t == both 0 && kept t == [.join 1]) = true ∧
    gives (exec joinI (probe joinI [(0, v (1 + 1024))])) (fun t => out t == both 2) = true ∧
    gives (exec joinI (State.withDev (State.withCtx (probe joinI [(0, v (1 + 1024))]) (fun k => { k with revs := [(1, alive 1)] }))
      (fun d => { d with groups := d.groups ++ d.groups.map (fun q => { q with gid := 9, rev := 1 }) }))) (fun t => out t == [] && t.dev.waits.length == 1) = true := by
  decide +kernel
/-- TraverseSets: a set of 16 slots whose stage table at 128 has one SINK; a bad descriptor; a table without a SINK. -/
def openI : Instr := .trvopen (fq 0 0x27D 0)
def setDesc (slots table : Nat) : Tok := lanes [0, slots + 8 * 2 ^ 24, table]
def openAt (slots table : Nat) : State :=
  let s := tabled (probe openI [(0, setDesc slots table)])
  { s with mem := Memory.writeAll s.mem (cells8 0x100080 3) }
theorem trvopen_witness :
    gives (exec openI (openAt 16 128)) (fun t => out t == [vs 1024, vs 0] && (kept t).length == 1) = true ∧
    gives (exec openI (openAt 17 128)) (fun t => out t == [.null, vs 3]) = true ∧
    gives (exec openI (openAt 16 192)) (fun t => out t == [.null, vs 3]) = true ∧
    gives (exec openI (State.withDev (openAt 16 128) (fun d => { d with grids := d.grids.set 0 { d.grid 0 with plb := [⟨0, 1, 1#3⟩] } })))
      (fun t => out t == [.null, vs 5]) = true := by decide +kernel
/-- A set of generation 1 with a FILTER and a SINK, record 2 queued at stage 0, and taken. -/
def set1 (st : TState) (fifo taken : List Nat) : TSet :=
  { st := st, tgen := 1, base := 0, nslots := 16, stages := [{ kind := 0, template := none, queue := 0, fifo := fifo, taken := taken }, { kind := 3, template := none, queue := 0 }]
    slots := [(2, { seq := 6, len := 0, done := 0, drop := false })] }
def withSet (s : State) (q : TSet) : State := State.withCtx s (fun k => { k with sets := [(0, q)] })
def putRI : Instr := .trvput (fq 0 0x27D 0)
def takeRI : Instr := .trvtake (fq 0 0x27D 0)
def infoTok (slot k seq : Nat) : Tok := .val (0#256 ++ BitVec.ofNat 64 (slot + k * 2 ^ 16 + seq * 2 ^ 32) ++ BitVec.ofNat 64 (256 * slot) ++ 1024#64 ++ 0#64)
theorem traverse_witness :
    gives (exec putRI (withSet (probe putRI [(0, v 0), (1, v 1024)]) (set1 .opened [] []))) (fun t => out t == both 0 && (kept t).length == 1) = true ∧
    gives (exec putRI (withSet (probe putRI [(0, v 1), (1, v 1024)]) (set1 .opened [] []))) (fun t => out t == both 3) = true ∧
    gives (exec putRI (withSet (probe putRI [(0, v 0), (1, v 1024)]) (set1 .draining [] []))) (fun t => out t == both 2) = true ∧
    gives (exec putRI (probe putRI [(0, v 0), (1, v 1024)])) (fun t => out t == both 2) = true ∧
    gives (exec takeRI (withSet (mapped (probe takeRI [(0, v 1024)])) (set1 .running [2] []))) (fun t => out t == [v 0, infoTok 2 0 6]) = true ∧
    gives (exec takeRI (withSet (mapped (probe takeRI [(0, v 1024)])) (set1 .running [] []))) (fun t => out t == [] && t.dev.waits.length == 1) = true ∧
    gives (exec (.trvtake (fq 0 0x27D 4)) (withSet (mapped (probe (.trvtake (fq 0 0x27D 4)) [(0, v 1024)])) (set1 .running [] []))) (fun t => out t == [.null, info 3 0 0]) = true ∧
    gives (exec takeRI (withSet (mapped (probe takeRI [(0, v 1024)])) (set1 .closed [] []))) (fun t => out t == [.null, info 2 0 0]) = true := by decide +kernel
def passI : Instr := .trvdonePass (fq 0 0 0)
def dropTI : Instr := .trvdoneDrop (fq 1 0 0)
theorem trvdone_witness :
    gives (exec passI (withSet (probe passI [(0, infoTok 2 0 6)]) (set1 .running [] [2]))) (fun t => out t == both 0 && kept t == [.trvdone 0 1 2 6 0 false]) = true ∧
    gives (exec passI (withSet (probe passI [(0, infoTok 3 0 6)]) (set1 .running [] [2]))) (fun t => out t == both 2) = true ∧
    gives (exec dropTI (withSet (probe dropTI [(0, infoTok 2 0 6)]) (set1 .running [] [2]))) (fun t => kept t == [.trvdone 0 1 2 6 0 true]) = true ∧
    gives (exec (.trvcloseDrain (fq 0 0 0)) (withSet (probe (.trvcloseDrain (fq 0 0 0)) [(0, v 1024)]) (set1 .running [] []))) (fun t => kept t == [.trvclose 0 1 false]) = true ∧
    gives (exec (.trvcloseAbort (fq 1 0 0)) (withSet (probe (.trvcloseAbort (fq 1 0 0)) [(0, v 1024)]) (set1 .closed [] []))) (fun t => out t == both 2) = true ∧
    gives (exec (.trvstat (fq 2 0 0)) (withSet (probe (.trvstat (fq 2 0 0)) [(0, v 1024)]) (set1 .running [2] []))) (fun t => out t == both 1) = true ∧
    gives (exec (.trvstat (fq 2 0 0)) (probe (.trvstat (fq 2 0 0)) [(0, v 1024)])) (fun t => out t == both 0) = true := by decide +kernel
/-- A drop at a stage that is no FILTER. -/
theorem trvdone_drop_witness : gives (exec dropTI (withSet (probe dropTI [(0, infoTok 2 1 6)])
    { set1 .running [] [] with stages := [{ kind := 0, template := none, queue := 0 }, { kind := 3, template := none, queue := 0, taken := [2] }] }))
    (fun t => pending t == some .traverseConfig) = true := by decide +kernel

/-- ContextAndPageInstructions: items; outside and inside the handler kernel; a record that is live; a redirect off a block address. -/
def handlerAt (i : Instr) (ops : List (Nat × Tok)) : State :=
  let s := State.withCtx (probe i ops) (fun k => { k with
    cfg := [0xA0#64, 2#64], frecs := [(5, { lanes := BitVec.ofNat 512 (0x21 * 2 ^ 48), thr := 7, routed := true, cause := .pageUnresolved })] })
  State.withDev s (fun d => { d with groups := d.groups.map (fun q => { q with handle := 2#64 })
                                     threads := d.threads ++ d.threads.map (fun p => (7, { p.2 with tnum := 1, st := .stopped })) })
def frecI : Instr := .frec (fq 0 0 0)
def redirectI : Instr := .fresumeRedirect (fq 1 0 0)
theorem handler_witness :
    gives (exec frecI (probe frecI [(0, v 0x210005)])) (fun t => pending t == some .protection) = true ∧
    gives (exec frecI (handlerAt frecI [(0, v 0x210005)])) (fun t => out t == [v (0x21 * 2 ^ 48), v (0x21 * 2 ^ 48)]) = true ∧
    gives (exec frecI (handlerAt frecI [(0, v 0x220005)])) (fun t => out t == [v 0, v 0]) = true ∧
    gives (exec redirectI (handlerAt redirectI [(0, v 0x210005), (1, v 0x1100)])) (fun t => out t == both 0 && kept t == [.fresume 0x210005 1 0x1100]) = true ∧
    gives (exec redirectI (handlerAt redirectI [(0, v 0x210005), (1, v 0x1101)])) (fun t => pending t == some .alignment) = true ∧
    gives (exec redirectI (handlerAt redirectI [(0, v 0x220005), (1, v 0x1100)])) (fun t => out t == both 1) = true ∧
    gives (exec (.fresumeEnd (fq 2 0 0)) (State.withDev (handlerAt (.fresumeEnd (fq 2 0 0)) [(0, v 0x210005)])
      (fun d => { d with threads := d.threads.map (fun p => (p.1, { p.2 with st := .run })) }))) (fun t => out t == both 2) = true ∧
    gives (exec (.ctxq (fq 5 0 0)) (probe (.ctxq (fq 5 0 0)) [])) (fun t => out t == both 0x3F) = true := by decide +kernel
/-- The leaf of page 0: PRESENT, 16 KiB, PDID 1, rights 7; no right; an address that no walk resolves. -/
def pgqI : Instr := .pgq (fq 0 0 0)
def righted (s : State) : State := { s with mem := Memory.writeAll s.mem [(0x100001, 7#8)] }
theorem pgq_witness :
    gives (exec pgqI (righted (tabled (probe pgqI [(0, v 64)])))) (fun t => out t == [v (1 + 2 ^ 32 + 7 * 2 ^ 48), v (1 + 2 ^ 32 + 7 * 2 ^ 48)]) = true ∧
    gives (exec pgqI (tabled (probe pgqI [(0, v 64)]))) (fun t => out t == [v 24, v 24]) = true ∧
    gives (exec pgqI (righted (tabled (probe pgqI [(0, v (2 ^ 57))])))) (fun t => out t == [v 24, v 24]) = true := by decide +kernel
def adviseI : Instr := .pgadviseEvictbehind (fq 2 0 0)
theorem pgadvise_witness :
    gives (exec adviseI (mapped (probe adviseI [(0, v 0), (1, v (2 ^ 14))]))) (fun t => out t == both 0 && kept t == [.pgadvise 2 0 (2 ^ 14)]) = true ∧
    gives (exec adviseI (mapped (probe adviseI [(0, v 0), (1, v (2 ^ 13))]))) (fun t => out t == both 1) = true ∧
    gives (exec adviseI (probe adviseI [(0, v 0), (1, v (2 ^ 14))])) (fun t => out t == both 2) = true := by decide +kernel
/-- LinkAndDebugInstructions: a port's state and one above 47; a collective with the own bit set and without; marks; probes. -/
def collI : Instr := .acoll (fq 0 0x27D 0)
def collAt (mset : Nat) : State :=
  let s := mapped (probe collI [(0, lanes [4096, 8192, 1, 128])])
  { s with mem := Memory.writeAll s.mem [(0x100080, BitVec.ofNat 8 mset)] }
theorem link_witness :
    gives (exec (.lnkq (fq 0 0 0)) (State.withDev (probe (.lnkq (fq 0 0 0)) [(0, v 47)]) (fun d => { d with ports := [(47, { st := .up, lanes := 4, peer := 9 })] })))
      (fun t => out t == both (2 + 4 * 8 + 9 * 256)) = true ∧
    gives (exec (.lnkq (fq 0 0 0)) (probe (.lnkq (fq 0 0 0)) [(0, v 48)])) (fun t => out t == both 0) = true ∧
    gives (exec collI (collAt 3)) (fun t => out t == both 0 && (kept t).length == 1) = true ∧
    gives (exec collI (collAt 2)) (fun t => out t == both 2) = true ∧
    gives (exec collI (mapped (probe collI [(0, lanes [4096, 8192, 0, 128])]))) (fun t => out t == both 2) = true := by decide +kernel
def stationI : Instr := .station (fq 0 0 0)
theorem debug_witness :
    gives (exec stationI (probe stationI [(0, v 3)])) (fun t => out t == both 1) = true ∧
    gives (exec stationI (State.withCtx (probe stationI [(0, v 3)]) (fun k => { k with undoEn := true, log := { configured := true, station := 2 } })))
      (fun t => out t == both 0 && kept t == [.station 3]) = true ∧
    gives (exec stationI (State.withCtx (probe stationI [(0, v 3)]) (fun k => { k with undoEn := true, log := { configured := true, station := 3 } })))
      (fun t => out t == both 2) = true ∧
    gives (exec (.dmark (fq 0 0 42)) (probe (.dmark (fq 0 0 42)) [(0, v 3)])) (fun t => kept t == [.dmark 42 3]) = true ∧
    gives (exec (.probe (fq 1 0 0)) (State.withDev (Tests.probe (.probe (fq 1 0 0)) []) (fun d => { d with grids := d.grids.set 0 { d.grid 0 with blockCommits := 11 } })))
      (fun t => out t == both 11) = true := by decide +kernel

/-! ### Fetch, placement, delivery, commit, exceptions -/

/-- The subject of an event. -/
def about (s : State) (a : Nat) (b : Nat := 0) (c : Nat := 0) : State := State.withDev s (fun d => { d with arg := { a := a, b := b, c := c } })
/-- The thread without a block, its next block at 0x1100. -/
def idle (s : State) : State := State.withThr (State.withDev s (fun d => { d with insts := [] })) (fun u => { u with next := some 0x1100 })
def addP : State := mapped (probe (.add (g 7 0)) [(0, v 1), (1, v 2)])
/-- FetchAndFill: an opportunity with a ready slot and with none; a fetch that the placement cache answers, and one that starts a fill. -/
theorem fetch_witness :
    gives (exec .fetchOpportunity (about (idle addP) 0)) (fun t => t.dev.insts.map (fun p => (p.2.blk, p.2.st)) == [(0x1100, .fetching)]) = true ∧
    gives (exec .fetchOpportunity (about addP 0)) (fun t => t == about addP 0) = true ∧
    gives (exec .fetchOpportunity (about (State.withThr (idle addP) (fun u => { u with next := some (3 * 2 ^ 49) })) 0))
      (fun t => t.dev.insts.map (fun p => p.2.pend.map (fun q => q.cause)) == [some .protection]) = true := by decide +kernel
def fetching (cache : List CacheEnt) : State :=
  State.withDev (State.withBlock (about addP 2) (fun x => { x with st := .fetching, blk := 0x1100 })) (fun d => { d with
    grids := d.grids.set 0 { d.grid 0 with cache := cache } })
def blk1 : Block := { probeBlock 0x30A0000000000002#64 [] with hdw1 := 1#64 }
theorem fetch_complete_witness :
    gives (exec .fetchComplete (fetching [⟨0#64, 0x1100, 128, blk1, 0⟩])) (fun t => (t.dev.inst 2).map (fun x => (x.st, x.code)) == some (.placing, some blk1)) = true ∧
    gives (exec .fetchComplete (fetching [])) (fun t => ((t.dev.field 0).fills.map (fun f => (f.2.blk, f.2.joined))) == [(0x1100, [2])]) = true := by decide +kernel
/-- A fill of a block of zeros at the start of a loaded kernel's code, on a page that has been verified. -/
def filling : State :=
  let s := State.withCtx (fetching []) (fun k => { k with kernels := [(0, { st := .resident, base := 0, codeLen := 16384, verified := [0] })] })
  about (State.withDev { (State.withBlock s (fun x => { x with blk := 0 })) with mem := [] } (fun d => { d with
    fields := d.fields.set 0 { d.field 0 with fills := [(7, ⟨0, 0#64, 0, 128, [2], [], none⟩)] } })) 0 7
theorem fill_witness : (match (filling.dev.field 0).fills.look 7, filling.toW.readHome 0 0 0 256 with
    | some f, (.ok hdr, w) => f.waitPage.isNone && bodyLen hdr == 128 && (((filling.dev.ctx 0).kernel 0).pageIn 0 384).isNone &&
        (match w.readHome 0 0 256 128 with | (.ok body, _) => body.length == 128 | _ => false)
    | _, _ => false) = true := by decide +kernel
/-- A fill that waits for the verification of a page; the verification of a page that is not in progress. -/
theorem fill_waits_witness :
    gives (exec .fillDelivery (State.withDev filling (fun d => { d with
      fields := d.fields.set 0 { d.field 0 with fills := [(7, ⟨0, 0#64, 0, 128, [2], [], some 0⟩)] } }))) (fun t => (t.dev.field 0).fills.length == 1) = true ∧
    gives (exec .codePageVerification filling) (fun t => t.dev.verifs == [] && (t.dev.field 0).fills.length == 1) = true := by decide +kernel
/-- InstancesAndSlots: a block is placed and gets a plane; one without an exit is refused by the checks. -/
def placing (code : Block) : State := State.withBlock (about addP 2) (fun x => { x with st := .placing, code := some code, plane := none })
theorem place_witness :
    gives (exec .instancePlace (placing blk1)) (fun t => (t.dev.inst 2).map (fun x => (x.st, x.plane)) == some (.firing, some 0)) = true ∧
    gives (exec .instancePlace (placing { blk1 with words := [] })) (fun t => pending t == some .blockMalformed) = true := by decide +kernel
/-- Tokens: to an operand, to one that has a token, to a write entry, to the next iteration. -/
def flying (tgt : Nat) (x : Inst → Inst) : State :=
  State.withDev (State.withBlock (about addP 0) x) (fun d => { d with flight := [⟨2, some 0, BitVec.ofNat 12 tgt, v 9⟩] })
theorem delivery_witness :
    gives (exec .tokenDelivery (flying 0x400 (fun x => { x with operands := [] }))) (fun t => (t.dev.inst 2).map (fun x => x.operands) == some [(0, 0, v 9)]) = true ∧
    gives (exec .tokenDelivery (flying 0x400 id)) (fun t => pending t == some .exitConflict) = true ∧
    gives (exec .tokenDelivery (flying 0x805 id)) (fun t => (t.dev.inst 2).map (fun x => x.wr.look 5) == some (some (v 9))) = true ∧
    gives (exec .tokenDelivery (flying 0x805 (fun x => { x with wr := [(5, v 1)] }))) (fun t => pending t == some .exitConflict) = true ∧
    gives (exec .tokenDelivery (flying 0xC00 id)) (fun t => t.dev.flight == [] && t.dev.retained.length == 1) = true := by decide +kernel
/-- A mispredicted exit, a watchdog that runs out at its cycle, predictor entries, slot waits and retention, limits. -/
theorem mispredict_witness :
    gives (exec .exitMispredict (State.withBlock (about addP 2) (fun x => { x with exit := some ⟨0, 0x30, some 512⟩, predicted := some (1, 768) })))
      (fun t => (t.dev.inst 2).map (fun x => x.predicted) == some (some (0, 512)) && (t.dev.thr 1).map (fun u => u.next) == some (some 512)) = true ∧
    gives (exec .exitMispredict (about addP 2)) (fun t => t == about addP 2) = true := by decide +kernel
def aged (n : Nat) : State := State.withDev (about addP 2) (fun d => { d with cycle := n })
theorem watchdog_witness :
    gives (exec .watchdogExpiry (aged 1048576)) (fun t => pending t == some .blockIncomplete) = true ∧
    gives (exec .watchdogExpiry (aged 1048575)) (fun t => t == aged 1048575) = true := by decide +kernel
theorem predictor_witness :
    gives (exec .predictorEntryClear (State.withDev (about addP 0) (fun d => { d with grids := d.grids.set 0 { d.grid 0 with commits := 2 ^ 20 + 5, pred := [⟨256, 0, 5⟩, ⟨256, 1, 6⟩] } })))
      (fun t => (t.dev.grid 0).pred == [⟨256, 1, 6⟩]) = true := by decide +kernel
def waiting (since n : Nat) : State :=
  State.withDev (about addP 1) (fun d => { d with cycle := n, waits := [⟨2, 0, since, some 8, false, (0xD2, 1#64)⟩] })
theorem slot_wait_witness :
    gives (exec .slotWaitEntry (waiting 10 1034)) (fun t => (t.dev.thr 1).map (fun u => u.st) == some .wait) = true ∧
    gives (exec .slotWaitEntry (waiting 10 1033)) (fun t => (t.dev.thr 1).map (fun u => u.st) == some .run) = true ∧
    gives (exec .slotRetention (State.withThr (waiting 10 16394) (fun u => { u with st := .wait, stSince := 10 }))) (fun t => (t.dev.thr 1).map (fun u => u.st) == some .retention) = true ∧
    gives (exec .waitLimitExpiry (about (waiting 10 18) 2)) (fun t => t.dev.waits.map (fun q => q.expired) == [true]) = true ∧
    gives (exec .waitLimitExpiry (about (waiting 10 17) 2)) (fun t => t.dev.waits.map (fun q => q.expired) == [false]) = true := by decide +kernel
/-- A retained token comes back to a block of its tag. -/
theorem reinject_witness :
    gives (exec .overflowReinject (State.withDev (about addP 0) (fun d => { d with grids := d.grids.set 0 { d.grid 0 with
      overflow := [{ grid := 0, ctx := 0, placement := none, tag := 0#64, tgt := 0x400#12, tok := v 9, producer := none, acq := none }] } })))
      (fun t => t.dev.flight.length + (t.dev.grid 0).overflow.length == 1) = true := by decide +kernel

/-- BlockCommit: a block of no effects that has fired its exit; one that has not; a store of a byte; `halt`. -/
def firedBlk (op : Nat) (effs : List (Nat × Nat × Eff)) (x : Inst → Inst) : State :=
  State.withBlock (about (mapped (probe (.br (fx 2)) [])) 2) (fun y => x { y with fired := [0], exit := some ⟨0, op, if op = 0x36 then none else some 512⟩, effs := effs })
theorem commit_witness :
    gives (exec .blockCommit (firedBlk 0x30 [] id)) (fun t => (t.dev.inst 2).isNone && (t.dev.thr 1).map (fun u => u.commitSeq) == some 1) = true ∧
    gives (exec .blockCommit (about (mapped (probe (.br (fx 2)) [])) 2)) (fun t => (t.dev.inst 2).isSome) = true ∧
    gives (exec .blockCommit (firedBlk 0x30 [(0, 0, .store [(64, 9#8)] 0)] id)) (fun t => (t.dev.inst 2).isNone && t.mem == [(0x100040, 5#8)] &&
      ((t.dev.grid 0).l1Find 2 0).map (fun l => (l.owned, l.data.extractLsb' 0 8)) == some (1#32, 9#8)) = true ∧
    gives (exec .blockCommit (firedBlk 0x36 [] id)) (fun t => (t.dev.inst 2).isNone && t.dev.threads.all (fun u => u.2.ended && u.2.slots == [])) = true := by decide +kernel
/-- ExceptionsAndReturn: `sys` at its commit: the thread is STOPPED, with record 0, whose word 2 is the successor and word 3 the argument. -/
theorem sys_witness :
    gives (exec .blockCommit (firedBlk 0x3A [(32, 0, .trap true 77#64)] id)) (fun t =>
      (t.dev.thr 1).map (fun u => (u.st, u.rcd)) == some (.stopped, some 0) &&
      ((t.dev.ctx 0).frecs.look 0).map (fun r => (r.lanes.extractLsb' 0 8, r.lanes.extractLsb' 128 64, r.lanes.extractLsb' 192 64)) ==
        some (BitVec.ofNat 8 (fcause .sysCall), 512#64, 77#64)) = true := by decide +kernel
/-- A pending fault of the oldest block: with a handler it goes to the handler queue; without one it freezes the context. -/
def faulty (handler : Word) : W :=
  (State.withCtx (State.withBlock addP (fun x => { x with st := .flushed, pend := some { cause := .alignment, w2 := 65#64 } }))
    (fun k => { k with cfg := [0xA0#64, handler], kernels := [(2, { st := .resident })] })).toW
theorem raise_witness :
    ((faulty 2#64).raise 2).d.ctxs.map (fun k => (k.2.st, k.2.handlerQ.length, k.2.frecs.length)) = [(.running, 1, 1)] ∧
    ((faulty 0#64).raise 2).d.ctxs.map (fun k => (k.2.st, k.2.handlerQ.length, k.2.frecs.length)) = [(.frozen, 0, 1)] ∧
    ((faulty 2#64).raise 2).d.threads.map (fun u => (u.2.st, u.2.rcd)) = [(.stopped, some 0)] := by decide +kernel
/-- A page fault: the slot goes to PAGE, and the block is fetched again after the answer. -/
def absentFault : W :=
  (State.withDev (State.withBlock addP (fun x => { x with st := .flushed, pend := some { cause := .pageAbsent, w2 := 0x4000#64 }, page := some 0 }))
    (fun d => { d with preqs := [⟨0, 0, 0x4000, 0#5, [.thread 1 0 0x4000 0], true⟩] })).toW
theorem page_fault_witness : (absentFault.raise 2).d.threads.map (fun u => (u.2.st, u.2.pageReq, u.2.resumeAt)) = [(.page, some 0, some 0)] := by decide +kernel
/-- The return: a resume after `sys` goes to the resume block; a redirect to its address; an end ends the thread. -/
def stoppedThr : Dev :=
  (State.withCtx (State.withThr addP (fun u => { u with st := .stopped, rcd := some 5 })) (fun k => { k with
    frecs := [(5, { lanes := BitVec.ofNat 512 (0x300 * 2 ^ 64 + 0x500 * 2 ^ 128), thr := 1, routed := true, cause := .sysCall })] })).dev
theorem resume_witness :
    ((stoppedThr.resume 0 5 0 0).thr 1).map (fun u => (u.st, u.next, u.rcd)) = some (.run, some 0x500, none) ∧
    ((stoppedThr.resume 0 5 1 0x700).thr 1).map (fun u => (u.next, u.rcd)) = some (some 0x700, none) ∧
    ((stoppedThr.resume 0 5 2 0).thr 1).map (fun u => (u.ended, u.failed)) = some (true, true) ∧
    ((stoppedThr.resume 0 5 0 0).ctx 0).frecs = [] := by decide +kernel

/-! ### Engines and what runs on after a commit -/

/-- ReleasesAndArrivals: a release at GRID scope with a scratchpad store in flight; a store that arrives; a hand-over; mail; an arrival. -/
def relS : State := State.withDev addP (fun d => { d with rels := [⟨0, 1, 1, [0], 0⟩], spStores := [⟨0, 1, 0, [(spKey 0 0, 4#8)], 0⟩] })
theorem release_witness :
    gives (exec .releasePerform relS) (fun t => t.dev.rels == [] && t.dev.spStores == []) = true ∧
    gives (exec .releasePerform { relS with dev := { relS.dev with rels := [⟨0, 1, 2, [0], 0⟩] } }) (fun t => t.dev.rels == []) = true ∧
    gives (exec .scratchpadStoreArrival relS) (fun t => t.dev.spStores == [] && t.mem.read (spKey 0 0) == 4#8) = true := by decide +kernel
def handing : State :=
  State.withDev (State.withThr addP (fun u => { u with streams := [(1, { isOpen := true, cfg := cfg3 64 true .global }),
    (2, { isOpen := false, cfg := cfg3 64 true .global, configuring := some 1 })] })) (fun d => { d with handovers := [⟨1, 1, 1, 2⟩] })
theorem handover_witness : gives (exec .streamHandover handing) (fun t => t.dev.handovers == [] &&
    (t.dev.thr 1).map (fun u => ((u.stream 1).isOpen, (u.stream 2).isOpen)) == some (false, true)) = true := by decide +kernel
theorem mail_delivery_witness :
    gives (exec .mailboxDelivery (State.withThr (about addP 1 3) (fun u => { u with mboxes := [(3, { waiting := [(0, ⟨9, 3, 0⟩)] })] })))
      (fun t => (t.dev.thr 1).map (fun u => ((u.mbox 3).msgs.length, (u.mbox 3).waiting.length)) == some (1, 0)) = true ∧
    gives (exec .barrierEngineArrival (State.withDev (bar 2 0 addP) (fun d => { d with arrWaits := [⟨0, 0x400#32, 1⟩] })))
      (fun t => t.dev.arrWaits == [] && ((t.dev.ctx 0).bar 0).phase == 6 && ((t.dev.ctx 0).bar 0).arrivals == 0) = true ∧
    gives (exec .barrierEngineArrival (State.withDev (bar 2 0 addP) (fun d => { d with arrWaits := [⟨0, 0x800#32, 1⟩] })))
      (fun t => t.dev.arrWaits == [] && (t.dev.ctx 0).fwderr == 1) = true := by decide +kernel
/-- CopiesAndCollectives: a forwarded load into mailbox 1 of thread 0, and to a stream that is not open; a copy that is done. -/
def forwarded (dest : Nat) : State := State.withDev addP (fun d => { d with fwds := [⟨0, 0, 1, 0, 0, 64, BitVec.ofNat 64 dest, 0, 0, 0⟩] })
theorem forwarded_witness :
    gives (exec .ldfwdReplyDelivery (forwarded (2 ^ 60 + 64))) (fun t => t.dev.fwds == [] && (t.dev.thr 1).map (fun u => ((u.mbox 1).msgs.map (fun m => m.data))) == some [5#512]) = true ∧
    gives (exec .ldfwdReplyDelivery (forwarded (2 * 2 ^ 60))) (fun t => t.dev.fwds == [] && (t.dev.ctx 0).fwderr == 1) = true := by decide +kernel
def copyD (n : Nat) : CopyDesc :=
  { kind := .straight, dst := 256, src := 64, rowLen := n, rows := 1, dpitch := n, spitch := n, list := 0, sspace := .global, dspace := .global,
    shadow := 0, tagen := true, ctag := 7, compl := { kind := 2#4, arg := 3#32 }, scope := 2 }
def copying (status : Option Nat) (cursor : Nat) : State :=
  State.withDev (State.withCtx addP (fun k => { k with tagLast := [(7, 9)] })) (fun d => { d with
    copies := [{ ctx := 0, gid := 0, thr := 1, grid := 0, rnum := 0, d := copyD 64, cursor := cursor, status := status, waitPage := none, key := 9, seq := 0, first := 0, width := 1 }] })
theorem copy_events_witness :
    gives (exec .copyCompletion (State.withDev (copying none 64) (fun d => { d with groups := d.groups.map (fun q => { q with rcd := 1#512 <<< 64 }) })))
      (fun t => t.dev.copies == [] && (t.dev.thr 1).map (fun u => u.latches) == some 8) = true ∧
    gives (exec .enginePageWait addP) (fun t => t == addP) = true := by decide +kernel
/-- A copy whose destination page is absent asks for it. -/
theorem copy_page_witness :
    gives (exec .enginePageWait (State.withDev (tabled (copying none 0)) (fun d => { d with copies := d.copies.map (fun c => { c with d := { copyD 64 with dst := 2 ^ 14 } }) })))
      (fun t => t.dev.preqs.map (fun r => r.page) == [2 ^ 14] && t.dev.copies.map (fun c => c.waitPage) == [some 0]) = true := by decide +kernel
/-- A shadow of one page is published: the frame that it had goes to the pool. -/
theorem publication_witness :
    gives (exec .shadowPublication (State.withDev (State.withCtx (tabled addP) (fun k => { k with
        shadows := [(3, { base := 0, len := 2 ^ 14, frames := [0x200000], isOpen := true, publishing := some 2 })] }))
        (fun d => { d with pubs := [⟨0, 3, 2, [], 1⟩] })))
      (fun t => t.dev.pubs == [] && (t.dev.ctx 0).shadows == [] && t.dev.pool == [0x100000]) = true := by decide +kernel
/-- A broadcast in a set of the package alone: the source stands at the destination. -/
def bcast : Coll :=
  { ctx := 0, gid := 0, who := 0, grid := 0, desc := BitVec.ofNat 512 (64 + 256 * 2 ^ 64 + 1 * 2 ^ 128 + 128 * 2 ^ 192), members := 1, kind := 3, rop := 0, typ := 0,
    since := 0, rnum := 0, seq := 0, key := 4, status := none, waitPage := none }
theorem collective_witness :
    gives (exec .collectiveCompletion (State.withDev addP (fun d => { d with colls := [bcast] }))) (fun t => t.dev.colls == [] && t.mem.read 0x100100 == 5#8) = true := by
  decide +kernel

/-! ### The dispatcher, heat, contexts, pages, debug -/

/-- DispatcherEvents: a record of kernel 2 at the head of a launch queue; a QUEUED group on an idle parcel; a DRAINING one. -/
def launchQ : State :=
  let s := State.withCtx (mapped (probe (.add (g 7 0)) [(0, v 1), (1, v 2)])) (fun k => { k with kernels := kernel2, queues := [(1, { dq .opened 0 1 4 with kind := 1 })] })
  { s with mem := Memory.writeAll [] (cells8 0x100000 (2 + 7 * 256) ++ cells8 0x100008 1) }
theorem dispatch_remove_witness :
    gives (exec .dispatchRemove (about launchQ 0 1)) (fun t => t.dev.groups.length == 2 && ((t.dev.ctx 0).queue 1).live == [] &&
      t.dev.groups.any (fun q => q.st == .queued && q.queue == some 1)) = true ∧
    gives (exec .dispatchRemove (about addP 0 1)) (fun t => t == about addP 0 1) = true := by decide +kernel
def queued (parcel : Nat) : State :=
  let s := State.withCtx (mapped (probe (.add (g 7 0)) [])) (fun k => { k with kernels := kernel2
                                                                               plat := some { parcel := BitVec.ofNat 448 parcel, bctl := 0#64, budgets := [8, 8, 8, 8, 8, 8, 8, 8], poolBase := 0, poolUnits := 0, locks := [] } })
  State.withDev s (fun d => { d with threads := [], insts := [], groups := d.groups.map (fun q => { q with st := .queued, rcd := BitVec.ofNat 512 (2 + 7 * 256 + 2 ^ 64), queue := some 1, handle := 2 + 7 * 256 }) })
theorem dispatch_witness :
    gives (exec .groupLevelRise (about (State.withDev (queued 1) (fun d => { d with cycle := 65536 })) 0 0)) (fun t => t.dev.groups.length == 1) = true ∧
    gives (exec .groupDispatch (about (State.withDev (queued 1) (fun d => { d with groups := [] })) 0)) (fun t => t.dev.threads == []) = true := by decide +kernel
theorem group_retire_witness :
    gives (exec .groupRetire (about (State.withDev (queued 1) (fun d => { d with groups := d.groups.map (fun q => { q with st := .draining }) })) 0 0)) (fun t => t.dev.groups == []) = true ∧
    gives (exec .groupRetire (about (queued 1) 0 0)) (fun t => t.dev.groups.length == 1) = true := by decide +kernel
/-- HeatAndPower: 96 degrees is above the threshold of 95, 95 is not; 90 enables a slot again, 91 does not. -/
def hotGrid (st : Bool) : State :=
  State.withDev (State.withThr (about addP 0 96) (fun u => { u with slots := [(0, 0)] })) (fun d => { d with
    grids := d.grids.set 0 { d.grid 0 with hot := st, slots := [(0, { thr := some 1 })] } })
theorem heat_witness :
    gives (exec .thermalThreshold (hotGrid false)) (fun t => (t.dev.grid 0).hot) = true ∧
    gives (exec .thermalThreshold (about (hotGrid false) 0 95)) (fun t => !(t.dev.grid 0).hot) = true ∧
    gives (exec .thermalSlotDisable (hotGrid true)) (fun t => ((t.dev.grid 0).slots.get 0 {}).disabled) = true ∧
    gives (exec .thermalSlotDisable (hotGrid false)) (fun t => !((t.dev.grid 0).slots.get 0 {}).disabled) = true := by decide +kernel
def disabled0 (n : Nat) : State :=
  State.withDev (about addP 0 n) (fun d => { d with grids := d.grids.set 0 { d.grid 0 with hot := true, slots := [(0, { thr := some 1, disabled := true })] } })
theorem heat_enable_witness :
    gives (exec .thermalSlotEnable (disabled0 90)) (fun t => !((t.dev.grid 0).slots.get 0 {}).disabled && !(t.dev.grid 0).hot) = true ∧
    gives (exec .thermalSlotEnable (disabled0 91)) (fun t => ((t.dev.grid 0).slots.get 0 {}).disabled) = true ∧
    gives (exec .displacedMove (idle (about (disabled0 96) 1))) (fun t => (t.dev.thr 1).map (fun u => u.st) == some .displaced) = true ∧
    gives (exec .thermalRankingRefresh (about addP 0)) (fun t => (t.dev.field 0).ranking.length == 56) = true := by decide +kernel
/-- ContextEvents: the end of the window at its cycle and one before; sweeps; a dump; a teardown; checks of a kernel that fail. -/
def gating (phase at_ zs : Nat) : State :=
  State.withDev (State.withCtx (about addP 0) (fun k => { k with st := .gating, gatePhase := phase, gateAt := at_, zeroSweeps := zs }))
    (fun d => { d with threads := [], insts := [], groups := [], cycle := 5000 })
theorem gating_witness :
    gives (exec .gatingWindowEnd (gating 1 904 0)) (fun t => (t.dev.ctx 0).gatePhase == 2) = true ∧
    gives (exec .gatingWindowEnd (gating 1 905 0)) (fun t => (t.dev.ctx 0).gatePhase == 1) = true ∧
    gives (exec .quiescenceSweep (gating 2 0 0)) (fun t => (t.dev.ctx 0).st == .gating && (t.dev.ctx 0).zeroSweeps == 1) = true ∧
    gives (exec .quiescenceSweep (gating 2 0 1)) (fun t => (t.dev.ctx 0).st == .quiescent) = true := by decide +kernel
theorem dump_witness :
    gives (exec .dumpStart (State.withDev (State.withCtx addP (fun k => { k with st := .frozen })) (fun d => { d with dumpQ := [0] })))
      (fun t => t.dev.dumping == some 0 && (t.dev.ctx 0).st == .dumping) = true ∧
    gives (exec .dumpComplete (State.withDev (State.withCtx addP (fun k => { k with st := .dumping })) (fun d => { d with dumping := some 0 })))
      (fun t => t.dev.dumping == none && (t.dev.ctx 0).st == .frozen) = true ∧
    gives (exec .teardownComplete (State.withDev (State.withCtx (about addP 0) (fun k => { k with st := .killed, gen := 4#32 })) (fun d => { d with insts := [] })))
      (fun t => t.dev.ctx 0 == { gen := 4#32 } && t.dev.threads == []) = true ∧
    gives (exec .loadChecksComplete (State.withCtx (about addP 0 2) (fun k => { k with kernels := [(2, { st := .loading, lgen := 7 })] })))
      (fun t => ((t.dev.ctx 0).kernel 2).st == .unloaded) = true := by decide +kernel
/-- QueueAndRevisionEvents: an append of 64 bytes, one of 32; an error; a launch; a merge that is done; a number that is free. -/
def appended (n : Nat) (st : QState) : State :=
  State.withDev (withQueue (about addP 64 1) (dq st 0 1 4)) (fun d => { d with arg := { d.arg with c := n, v := 6#1024 } })
theorem queue_events_witness :
    gives (exec .hostAppend (appended 64 .opened)) (fun t => ((t.dev.ctx 0).queue 1).tail == 2 && t.mem.read 0x100040 == 6#8) = true ∧
    gives (exec .hostAppend (appended 32 .opened)) (fun t => ((t.dev.ctx 0).queue 1).drops == 1) = true ∧
    gives (exec .queueStorageEcc (State.withDev (appended 0 .draining) (fun d => { d with arg := { a := 0, b := 1 } }))) (fun t => ((t.dev.ctx 0).queue 1).st == .faulted) = true ∧
    gives (exec .queueStorageEcc (State.withDev (appended 0 .closed) (fun d => { d with arg := { a := 0, b := 1 } }))) (fun t => ((t.dev.ctx 0).queue 1).st == .closed) = true := by decide +kernel
def stageLaunch (q : List (Nat × Queue)) : State :=
  State.withCtx (withSet (about addP 0 0) { set1 .running [] [] with stages := [{ kind := 0, template := some 77#512, queue := BitVec.ofNat 64 (qh 1), launches := [2] }] })
    (fun k => { k with queues := q })
theorem stage_launch_witness :
    gives (exec .stageLaunchAppend (stageLaunch [(1, { dq .opened 0 1 4 with kind := 1 })])) (fun t => ((t.dev.ctx 0).queue 1).tail == 2) = true ∧
    gives (exec .stageLaunchAppend (stageLaunch [])) (fun t => (t.dev.ctx 0).fwderr == 1) = true := by decide +kernel
theorem revision_events_witness :
    gives (exec .mergeComplete (State.withCtx (State.withThr (about addP 0) (fun u => { u with joinWait := some 3 })) (fun k => { k with
        revs := [(1, { alive 1 with st := .joining, owned := [(0, 0x200000)] })], merges := [⟨1, 0, false, [], 3, 1⟩] })))
      (fun t => ((t.dev.ctx 0).rev 1).st == .joined && t.dev.pool == [0x200000] && (t.dev.thr 1).map (fun u => u.joinWait) == some none) = true ∧
    gives (exec .ridFree (State.withCtx (about addP 0 1) (fun k => { k with revs := [(1, { alive 1 with st := .joined })] })))
      (fun t => (t.dev.ctx 0).rev 1 == { rgen := 1 }) = true := by decide +kernel
/-- 16 R439, R440: a write of revision 1 to a REVISED page copies it into its reserved frame, and its entry stands in the first record of
the map frame, which MAP of the leaf names. -/
def revised : State :=
  let s := State.withCtx (tabled (about addP 0)) (fun k => { k with revs := [(1, { alive 1 with reserve := [0x200000] })], mapFrames := [0x300000] })
  { State.withDev s (fun d => { d with tcaches := [] }) with mem := s.mem.writeAll (cells8 0x30000 (2 ^ 63 + 2 ^ 62 + 7 * 2 ^ 59 + 0x100000)) }
theorem test_cow_map :
    (let w := revised.toW.cow 0 1 64
     ((w.d.ctx 0).rev 1).owned == [(0, 0x200000)] && w.rd64 0x300000 == 2 ^ 63 + 2 ^ 48 + 0x200000 / 2 ^ 14 && w.rd64 0x300038 == 0 &&
       w.rd64 0x30008 == 0x300000 / 64 && w.rd 0x200040 == 5#8) = true := by decide +kernel
/-- PageEvents: a token that emerges; a migration, an unmapping and a split with every token out. -/
def changing (kind : PcKind) (gens : List Nat) : State :=
  State.withDev (tabled (about addP 0 3)) (fun d => { d with pcmds := [⟨kind, 0, 0x200000, 2 ^ 14, 0x100000, false, gens, [], none⟩] })
theorem page_events_witness :
    gives (exec .drainTokenEmerge (changing .migrate [3, 4])) (fun t => t.dev.pcmds.map (fun p => p.gens) == [[4]]) = true ∧
    gives (exec .migrationComplete (changing .migrate [])) (fun t => t.dev.pcmds == [] && t.mem.read 0x200040 == 5#8) = true ∧
    gives (exec .evictionComplete (changing .unmap [])) (fun t => t.dev.pcmds == [] && t.dev.tcaches == []) = true ∧
    gives (exec .splitComplete (changing .split [])) (fun t => t.dev.pcmds == []) = true := by decide +kernel
/-- DebugEvents: a station is taken; an hour; a packet that is due and one that is not. -/
theorem debug_events_witness :
    gives (exec .stationMarker (State.withCtx (about addP 0) (fun k => { k with log := { configured := true, marking := some 6 } })))
      (fun t => (t.dev.ctx 0).log.station == 6 && (t.dev.ctx 0).log.marking == none) = true ∧
    gives (exec .logDrain (about addP 0)) (fun t => t == about addP 0) = true ∧
    gives (exec .timePacket (about addP 9)) (fun t => t == about addP 9) = true ∧
    gives (exec .lifetimeRecordWrite addP) (fun t => t.dev.lifeStored == t.dev.life && t.dev.life.hours.length == 8) = true := by decide +kernel


/-! ### Links, the host, power, management -/

/-- Port 2 of the probe in a state. -/
def portS (st : PState) (b : Nat := 0) (refusals : Nat := 0) (attempts : Nat := 0) : State :=
  State.withDev (about addP 2 b) (fun d => { d with ports := [(2, { st := st, lanes := 4, refusals := refusals, attempts := attempts })] })
/-- A flit whose CRC is right, in order on a port that expects number 0. -/
def flit (dst : Nat) : BitVec 1024 := Config.flitCrc (BitVec.ofNat 960 (dst * 2 ^ 24)) ++ BitVec.ofNat 960 (dst * 2 ^ 24)
/-- Two words side by side: a range of the lower one, and the upper one. -/
theorem low_of_append {w v : Nat} (c : BitVec w) (lo : BitVec v) (k n : Nat) (h : k + n ≤ v) : (c ++ lo).extractLsb' k n = lo.extractLsb' k n := by
  apply BitVec.eq_of_getLsbD_eq
  intro i hi
  simp [BitVec.getLsbD_append, hi, show k + i < v by omega]
theorem high_of_append {w v : Nat} (c : BitVec w) (lo : BitVec v) : (c ++ lo).extractLsb' v w = c := by
  apply BitVec.eq_of_getLsbD_eq
  intro i hi
  simp [BitVec.getLsbD_append, hi]
theorem flit_good (dst : Nat) : Config.flitCrc ((flit dst).extractLsb' 0 960) = (flit dst).extractLsb' 960 64 :=
  ((congrArg Config.flitCrc ((low_of_append _ _ 0 960 (by omega)).trans (by simp))).trans (high_of_append _ _).symm)
theorem flit_fields (dst k n : Nat) (h : k + n ≤ 960) : (flit dst).extractLsb' k n = (BitVec.ofNat 960 (dst * 2 ^ 24)).extractLsb' k n :=
  low_of_append _ _ k n h
/-- PortEvents: such a flit for this package (domain 0) and for another; a flit out of sequence at the first and at the eighth refusal. -/
theorem flit_witness :
    ((portS .up).dev.port 2).usable = true ∧ ((flit 0).extractLsb' 8 8).toNat = ((portS .up).dev.port 2).recvSeq ∧
    ((flit 0).extractLsb' 24 8).toNat = (portS .up).mgmt.domId ∧ ((flit 3).extractLsb' 8 8).toNat = ((portS .up).dev.port 2).recvSeq ∧
    ((flit 3).extractLsb' 24 8).toNat ≠ (portS .up).mgmt.domId ∧
    ((0x500#1024 : BitVec 1024).extractLsb' 8 8).toNat ≠ ((portS .up 0 7).dev.port 2).recvSeq ∧ ((portS .up 0 7).dev.port 2).refusals = 7 := by
  rw [flit_fields _ 8 8 (by omega), flit_fields _ 24 8 (by omega), flit_fields _ 8 8 (by omega), flit_fields _ 24 8 (by omega)]
  decide +kernel
/-- PortEvents: training with 4, 2, 1 and 0 lanes; the third attempt; narrowing; enabling, disabling, isolating and releasing. -/
theorem port_witness :
    gives (exec .portTrainingDone (portS .training 4)) (fun t => ((t.dev.port 2).st, (t.dev.port 2).lanes) == (.up, 4)) = true ∧
    gives (exec .portTrainingDone (portS .training 2)) (fun t => ((t.dev.port 2).st, (t.dev.port 2).lanes) == (.degraded, 2)) = true ∧
    gives (exec .portTrainingDone (portS .training 1)) (fun t => ((t.dev.port 2).st, (t.dev.port 2).lanes) == (.degraded, 1)) = true ∧
    gives (exec .portTrainingDone (portS .training 0)) (fun t => ((t.dev.port 2).st, (t.dev.port 2).attempts) == (.training, 1)) = true ∧
    gives (exec .portTrainingDone (portS .training 0 0 2)) (fun t => (t.dev.port 2).st == .failed && t.dev.notifyIdx == 1) = true := by decide +kernel
theorem port_host_witness :
    gives (exec .laneErrorDegrade (portS .up)) (fun t => ((t.dev.port 2).st, (t.dev.port 2).lanes) == (.degraded, 2)) = true ∧
    gives (exec .laneErrorDegrade (portS .up 1)) (fun t => ((t.dev.port 2).st, (t.dev.port 2).lanes) == (.degraded, 1)) = true ∧
    gives (exec .portEnable (portS .down)) (fun t => (t.dev.port 2).st == .training) = true ∧
    gives (exec .portEnable (portS .up)) (fun t => t == portS .up) = true ∧
    gives (exec .portDisable (portS .up)) (fun t => (t.dev.port 2).st == .down) = true ∧
    gives (exec .isolate (portS .degraded)) (fun t => (t.dev.port 2).st == .isolated) = true ∧
    gives (exec .release (portS .isolated)) (fun t => (t.dev.port 2).st == .training) = true := by decide +kernel
/-- PortEvents: requests that are overdue at LNK_TMO (200 µs), and not one nanosecond before. -/
def asked (k : RKind) (n : Nat) : State := State.withDev addP (fun d => { d with now := n, remotes := [⟨k, 0, 3, 2, 9, 0⟩] })
theorem timeout_witness :
    gives (exec .linkTimeout (asked (.access 2 0) 200000)) (fun t => t.dev.remotes == [] && pending t == some .linkLost) = true ∧
    gives (exec .linkTimeout (asked (.access 2 0) 199999)) (fun t => t == asked (.access 2 0) 199999) = true ∧
    gives (exec .linkTimeout (State.withDev (asked (.copy 9) 200000) (fun d => { d with copies := (copying none 0).dev.copies })))
      (fun t => t.dev.copies.map (fun c => c.status) == [some 4]) = true ∧
    gives (exec .linkTimeout (State.withCtx (asked (.ack 0) 200000) (fun k => { k with st := .gating }))) (fun t => (t.dev.ctx 0).st == .faulted) = true := by
  decide +kernel
/-- PortEvents: a package that is the grandmaster; one that takes the counter of domain 3 before step 8 and one that slews after it. -/
def ptp (z : Int) (stat : BitVec 10) (gm : Word) : State :=
  let s := State.withDev addP (fun d => { d with now := 100, arg := { d.arg with z := z } })
  { s with mgmt := { s.mgmt with stat := stat, ptpGm := gm } }
theorem ptp_witness :
    gives (exec .ptpSync (ptp 7 0#10 0#64)) (fun t => t.dev.ptpOff == 0 && t.dev.now == 100) = true ∧
    gives (exec .ptpSync (ptp 7 0#10 0x103#64)) (fun t => t.dev.ptpOff == 7 && t.dev.now == 93) = true ∧
    (ptp 7 0x80#10 0x103#64).toW.grandmaster ≠ 0 ∧ (ptp 7 0x80#10 0x103#64).mgmt.stat.getLsbD 7 = true := by decide +kernel
/-- HostEvents: a snoop without lines; a line of the window under the snoop; reads and writes before the L2 and after it; write
protection; a snoop of the device that completes. -/
def ready (s : State) : State := { s with mgmt := { s.mgmt with stat := 0x20#10 } }
def snooped : State :=
  State.withDev (about addP 64) (fun d => { d with
    l2 := [⟨2 ^ 54 / 32 + 2, 0, 0, 1#32, 1#32, 7#256⟩], tcaches := [⟨16, 2 ^ 54, 2 ^ 14, 0, BitVec.ofNat 64 (2 ^ 59), 0#64⟩],
    cxl := [(0, ⟨true⟩), (1, ⟨true⟩)] })
theorem host_witness :
    gives (exec .cxlSnoop (about addP 64)) (fun t => t == about addP 64) = true ∧
    gives (exec .hostCxlMemRead (about addP 64 2)) (fun t => t.dev.cxlReads == [0xFF#8, 0xFF#8] && t.dev.earlyCxl == 1) = true ∧
    gives (exec .hostCxlMemRead (ready (tabled (about addP 64 2)))) (fun t => t.dev.cxlReads == [5#8, 0#8] && t.dev.hostHeld == [2]) = true ∧
    gives (exec .hostCxlMemRead (ready (tabled (about addP (2 ^ 14) 2)))) (fun t => t.dev.cxlReads.length == 2) = true ∧
    gives (exec .backInvalidateComplete (asked (.snoop 2 [(0x100040, 9#8)]) 0)) (fun t => t.dev.remotes == [] && t.mem.read 0x100040 == 9#8) = true := by
  decide +kernel
def hostWrite (s : State) : State := State.withDev s (fun d => { d with arg := { d.arg with a := 64, bytes := [9#8] } })
theorem host_write_witness :
    gives (exec .hostCxlMemWrite (hostWrite addP)) (fun t => t.dev.earlyCxl == 1 && t.mem == addP.mem) = true ∧
    gives (exec .hostCxlMemWrite (hostWrite (ready (tabled addP)))) (fun t => t.mem.read 0x100040 == 9#8) = true ∧
    gives (exec .hostCxlMemWrite (State.withDev (hostWrite (ready (tabled addP))) (fun d => { d with wprot := [(0, 0, 0, 16384)] })))
      (fun t => t.mem.read 0x100040 == 5#8 && (t.dev.ctx 0).stale == 1) = true := by decide +kernel
/-- PowerEvents. -/
theorem power_witness :
    gives (exec .islIlimWrite (about addP 1 50)) (fun t => t.mgmt.ilimNext.look 1 == some 100) = true ∧
    gives (exec .islImeasRead (about addP 1)) (fun t => t.mgmt.peak.get 1 0 == 0) = true ∧
    gives (exec .imeasSample (about addP 0 1300)) (fun t => (t.dev.field 0).overCount == 1 && (t.dev.ctx 0).st == (addP.dev.ctx 0).st) = true ∧
    gives (exec .imeasSample (State.withCtx (boundCtx (about addP 0 1301)) (fun k => { k with st := .bound })))
      (fun t => !(t.dev.field 0).powered && (t.dev.ctx 0).st == .faulted) = true ∧
    gives (exec .voltageDroop (about addP 0 25)) (fun t => t.dev.life.droops.get 2 0 == 1 && !(t.dev.field 0).pllLocked) = true ∧
    gives (exec .pllLock (State.withDev (about addP 1) (fun d => d.modField 1 (fun q => { q with powered := true })))) (fun t => (t.dev.field 1).pllLocked) = true ∧
    gives (exec .thermalTrip (about addP 0 114)) (fun t => t == about addP 0 114) = true ∧
    gives (exec .thermalTrip (about addP 0 115)) (fun t => t.dev.threads == [] && t.mgmt.bstep == 0) = true ∧
    gives (exec .powerDown addP) (fun t => t.dev.threads == [] && t.dev.lifeStored == addP.dev.life) = true := by decide +kernel
/-- ManagementEvents: each step of the bring-up at its state, those that are not ready, timeouts. -/
def step_ (n : Nat) (s : State) : State := { s with mgmt := { s.mgmt with bstep := n } }
def imaged (b v : Nat) : State := State.withDev (step_ 2 addP) (fun d => { d with arg := { d.arg with b := b, ns := [v, v] } })
theorem bringup_witness :
    gives (exec .powerOn State.reset) (fun t => t.mgmt.bstep == 1) = true ∧
    gives (exec .bringupStepComplete (step_ 1 addP)) (fun t => t.mgmt.bstep == 2 && t.mgmt.stat == 1#10) = true ∧
    gives (exec .bringupStepComplete (imaged 3 4)) (fun t => t.mgmt.bstep == 3 && t.mgmt.fwVersion == [(0, 4), (1, 4)]) = true ∧
    gives (exec .bringupStepComplete (imaged 1 4)) (fun t => t == imaged 1 4) = true ∧
    gives (exec .bringupStepComplete (step_ 4 State.reset)) (fun t => t == step_ 4 State.reset) = true ∧
    gives (exec .bringupStepComplete (step_ 7 (about addP 3))) (fun t => t.mgmt.bstep == 8 && (t.dev.port 47).st == .training) = true ∧
    gives (exec .bringupStepComplete (step_ 10 addP)) (fun t => t.mgmt.bstep == 11 && t.mgmt.stat == 0x200#10) = true := by decide +kernel
theorem bringup_timeout_witness :
    gives (exec .bringupTimeout (step_ 6 addP)) (fun t => t.mgmt.fatal && t.mgmt.failStep == 6) = true ∧
    gives (exec .bringupTimeout (step_ 7 (about addP 0))) (fun t => t.mgmt.fatal) = true ∧
    gives (exec .bringupTimeout (step_ 7 (about addP 2))) (fun t => t.mgmt.bstep == 8) = true ∧
    gives (exec .bringupTimeout (step_ 8 (portS .training))) (fun t => t.mgmt.bstep == 9 && (t.dev.port 2).st == .failed) = true ∧
    gives (exec .bringupTimeout (step_ 11 addP)) (fun t => t == step_ 11 addP) = true := by decide +kernel
theorem spdm_witness :
    gives (exec .getVersion (step_ 10 addP)) (fun t => t.dev.spdm == [⟨0x04, [0x13]⟩]) = true ∧
    gives (exec .getVersion (step_ 9 addP)) (fun t => t.dev.spdm == []) = true ∧
    gives (exec .negotiateAlgorithms (step_ 11 addP)) (fun t => t.dev.spdm == [⟨0x63, [0x80, 0x02]⟩]) = true ∧
    gives (exec .getDigests (step_ 11 addP)) (fun t => t.dev.spdm.map (fun r => (r.code, r.words.length)) == [(0x01, 6)]) = true ∧
    gives (exec .getMeasurements (step_ 11 (about addP 2))) (fun t => t.dev.spdm.map (fun r => (r.code, r.words.length)) == [(0x60, 8)]) = true ∧
    gives (exec .getMeasurements (step_ 11 (about addP 6))) (fun t => t.dev.spdm == [⟨0x7F, [0x01]⟩]) = true ∧
    gives (exec .spdmUnsupportedRequest (step_ 11 addP)) (fun t => t.dev.spdm == [⟨0x7F, [0x07]⟩]) = true := by decide +kernel
def mgmtWrite (n a v : Nat) : State := State.withDev (step_ n addP) (fun d => { d with arg := { d.arg with a := a, v := BitVec.ofNat 1024 v } })
theorem register_witness :
    gives (exec .mgmtRegisterWrite (mgmtWrite 11 0x10 200)) (fun t => t.mgmt.thermThr == 100) = true ∧
    gives (exec .mgmtRegisterWrite (mgmtWrite 10 0x30 0x7FFF)) (fun t => t.mgmt.ptRoot == 0x4000#64) = true ∧
    gives (exec .mgmtRegisterWrite (mgmtWrite 11 0x30 0x7FFF)) (fun t => t.mgmt.ptRoot == 0#64 && t.dev.life.ignored == 1) = true ∧
    gives (exec .mgmtRegisterWrite (mgmtWrite 0 0x10 80)) (fun t => t.mgmt.thermThr == 95) = true ∧
    gives (exec .reqHeadWrite (step_ 11 (about addP 0 3))) (fun t => t.mgmt.reqHead == 3) = true := by decide +kernel
/-! ### More clauses -/

/-- DataQueues: FAULTED goes before the kind. MailboxesRingsLaunch: a thread on no member grid; a ring outside the parcel. -/
theorem queue_status_witness :
    gives (exec (pushI 0x27D) (withQueue (probe (pushI 0x27D) [(0, v 9), (1, v (qh 1))]) { dq .faulted 0 1 4 with kind := 1 })) (fun t => out t == both 5) = true ∧
    gives (exec (popI 0x27D) (withQueue (probe (popI 0x27D) [(0, v (qh 1))]) { dq .faulted 0 1 4 with kind := 1 })) (fun t => out t == [.null, info 5 0 0]) = true ∧
    gives (exec putI (ringAt putI [(0, v 9), (1, v (qh 3))] { ring 0 1 [(0, 3)] with first := 1 })) (fun t => out t == both 4) = true ∧
    gives (exec takeI (ringAt takeI [(0, v (qh 3))] { ring 0 1 [(0, 3)] with first := 1 })) (fun t => out t == [.null, info 4 0 0]) = true ∧
    gives (exec takeI (ringAt takeI [(0, v (qh 3))] { ring 0 1 [(0, 3)] with first := 7 })) (fun t => out t == [.null, info 2 0 0]) = true := by decide +kernel
/-- Regions: a map past the end of the address space; item 0 of the root. ContextAndPageInstructions: a handler kernel that may get a
group, and a handle that names none. -/
theorem regions_more_witness :
    gives (exec (.rinfo (fq 0 0 0)) (probe (.rinfo (fq 0 0 0)) [(0, v 0)])) (fun t => out t == both 1) = true ∧
    gives (exec (.ctxq (fq 2 0 0)) (State.withCtx (probe (.ctxq (fq 2 0 0)) []) (fun k => { k with cfg := [0#64, BitVec.ofNat 64 (2 + 7 * 256)], kernels := kernel2 })))
      (fun t => out t == both 0x100) = true ∧
    gives (exec (.ctxq (fq 2 0 0)) (State.withCtx (probe (.ctxq (fq 2 0 0)) []) (fun k => { k with cfg := [0#64, BitVec.ofNat 64 (2 + 8 * 256)], kernels := kernel2 })))
      (fun t => out t == both 0) = true := by decide +kernel
/-- MatrixSteps: while another step of the array is performed, and while a lower one that may start waits, a step waits. -/
def twoSteps (st : StepSt) : State :=
  let i : Instr := .mzero (fn 0 0 0 0 0)
  let s := State.withBlock (stepProbe i 0 0 [(0, tile1 true)]) (fun x => { x with
    fired := [0, 1], code := x.code.map (fun b => { b with words := [(encode i).headD 0, (encode i).headD 0] })
    msteps := [{ idx := 0, a := 0, b := 0, st := st }, { idx := 1, a := 0, b := 0 }] })
  about s 2 1
theorem step_turn_witness :
    gives (exec .matrixStepStart (twoSteps .waiting)) (fun t => t == twoSteps .waiting) = true ∧
    gives (exec .matrixStepStart (twoSteps .started)) (fun t => t == twoSteps .started) = true ∧
    gives (exec .matrixStepStart (twoSteps .done)) (fun t => ((t.dev.inst 2).map (fun x => x.msteps.map (fun m => m.st))) == some [.done, .started]) = true := by
  decide +kernel
/-- FetchAndFill: an exit off the package is PROTECTION. InstancesAndSlots: the retained token of the lowest tag goes to its operand. -/
def retained (tags : List Nat) : State :=
  let toks := tags.map (fun n => ({ grid := 0, ctx := 0, placement := some 0, tag := BitVec.ofNat 64 n, tgt := 0x400#12, tok := v 9, producer := none, acq := none } : FarTok))
  State.withDev (State.withBlock (about addP 0) (fun x => { x with operands := [], resident := true, placement := 0, tag := 5#64 }))
    (fun d => { d with grids := d.grids.set 0 { d.grid 0 with overflow := toks }, retained := toks })
theorem reinject_lowest_witness :
    gives (exec .fetchOpportunity (about (State.withThr (idle addP) (fun u => { u with next := some (2 ^ 49 + 256) })) 0))
      (fun t => t.dev.insts.map (fun p => p.2.pend.map (fun q => q.cause)) == [some .protection]) = true ∧
    gives (exec .overflowReinject (retained [5])) (fun t => (t.dev.grid 0).overflow == [] && (t.dev.inst 2).map (fun x => x.operands) == some [(0, 0, v 9)]) = true ∧
    gives (exec .overflowReinject (retained [6])) (fun t => t == retained [6]) = true := by decide +kernel

/-! ### Host commands -/

/-- A command of context 0, generation 1, with completion address 0 if not said otherwise. -/
def cmd (a2 a3 a4 : Nat) (compl : Nat := 0) (gen : Nat := 1) : CmdRec :=
  { ctx := 0, gen := BitVec.ofNat 32 gen, compl := BitVec.ofNat 64 compl, a2 := BitVec.ofNat 64 a2, a3 := BitVec.ofNat 64 a3,
    a4 := BitVec.ofNat 64 a4, a5 := 0, a6 := 0, a7 := 0 }
/-- Context 0 in a state, of generation 1, bound where asked. -/
def inState (st : CState) (s : State) (k : Ctx → Ctx := id) : State := State.withCtx (boundCtx s) (fun c => k { c with st := st, gen := 1#32 })
/-- Words in memory at an address of page 0. -/
def recordAt (x : Nat) (ws : List Nat) (s : State) : State :=
  { s with mem := s.mem.writeAll (ws.zipIdx.flatMap (fun p => cells8 (0x100000 + x + 8 * p.2) p.1)) }
/-- No block and no thread. -/
def bare (s : State) : State := State.withDev s (fun d => { d with insts := [], threads := [], groups := [] })

/-- CommandAnswers: a generation that differs, a FREE and a KILLED context: STALE; a state that does not accept it: BAD_STATE, with the
state code beside the status. -/
theorem answers_witness :
    gives (exec (.run (cmd 0 0 0 64 2)) (inState .bound (tabled addP)))
      (fun t => t.mem.read 0x100040 == 4#8 && (t.dev.ctx 0).stale == 1 && (t.dev.ctx 0).st == .bound) = true ∧
    gives (exec (.run (cmd 0 0 0 64)) (inState .free (tabled addP))) (fun t => t.mem.read 0x100040 == 4#8) = true ∧
    gives (exec (.run (cmd 0 0 0 64)) (inState .opened (tabled addP)))
      (fun t => t.mem.read 0x100040 == 1#8 && t.mem.read 0x100041 == BitVec.ofNat 8 (stateCode .opened)) = true ∧
    gives (exec (.create (cmd 0 0 0 64)) (inState .opened (tabled addP))) (fun t => t.mem.read 0x100040 == 1#8) = true ∧
    gives (exec (.create (cmd 0 0 0 64)) (inState .killed (tabled addP))) (fun t => t.mem.read 0x100040 == 4#8) = true ∧
    gives (exec (.rsync (cmd 0 0 0 64 2)) (inState .bound (tabled addP))) (fun t => t.mem.read 0x100040 == 4#8) = true := by decide +kernel
/-- CommandAnswers: for every list of states a state that it accepts; one that is STALE; and, where the list does not hold every state of
a live context, one that is not accepted. -/
theorem states_witness : ∀ l ∈ stateChecked.map Prod.fst, (∃ st ∈ l, Takes (inState st addP) (cmd 0 0 0) l) ∧
    (l.length < 9 → ∃ st ∈ [CState.opened, .running, .frozen, .faulted], st ∉ l ∧ ((inState st addP).dev.ctx 0).st ∉ l ∧
      ¬StaleCmd (inState st addP) (cmd 0 0 0)) ∧ StaleCmd (inState .free addP) (cmd 0 0 0) := by
  simp only [Takes, StaleCmd]
  decide +kernel

/-- ContextCommands: a configuration record with WDOG 12, one with WDOG 9; a bind record of grid 0; the other commands in their states. -/
def cfgRec (wdog : Nat) : List Nat := [wdog * 8, 0, 0, 0, 0, 64, 0, 0]
def bindRec (grids : Nat) : List Nat := [grids, 0, 0, 0, 0, 0, 0, 2 ^ 40 + 2 ^ 32 + 2 ^ 16 + 2 ^ 8, 0, 0, 0, 1, 0, 0, 0, 0]
theorem create_witness :
    gives (exec (.create (cmd 128 0 0 0 0)) (recordAt 128 (cfgRec 12) (inState .free (tabled (bare addP)))))
      (fun t => ((t.dev.ctx 0).st, (t.dev.ctx 0).gen, (t.dev.ctx 0).wdog) == (.opened, 2#32, 4096)) = true ∧
    gives (exec (.create (cmd 128 0 0 64 0)) (recordAt 128 (cfgRec 9) (inState .free (tabled (bare addP))))) (fun t => t.mem.read 0x100040 == 2#8) = true ∧
    gives (exec (.configure (cmd 128 0 0)) (recordAt 128 (cfgRec 12) (inState .saved (tabled (bare addP)))))
      (fun t => ((t.dev.ctx 0).st, (t.dev.ctx 0).wdog) == (.saved, 4096)) = true := by decide +kernel
theorem bind_witness :
    gives (exec (.bind (cmd 128 0 0)) (recordAt 128 (bindRec 2) (inState .opened (tabled (bare addP)) (fun k => { k with plat := none }))))
      (fun t => (t.dev.ctx 0).st == .bound && (t.dev.ctx 0).plat.map (fun p => p.parcel) == some 2#448) = true ∧
    gives (exec (.bind (cmd 128 0 0 64)) (recordAt 128 (bindRec 0) (inState .opened (tabled (bare addP))))) (fun t => t.mem.read 0x100040 == 2#8) = true ∧
    gives (exec (.bind (cmd 128 0 0 64)) (State.withDev (recordAt 128 (bindRec 1) (inState .opened (tabled (bare addP))))
      (fun d => { d with ctxs := d.ctxs.set 3 ((boundCtx addP).dev.ctx 0) }))) (fun t => t.mem.read 0x100040 == 3#8) = true := by decide +kernel
theorem life_witness :
    gives (exec (.run (cmd 0 0 0)) (inState .bound addP)) (fun t => (t.dev.ctx 0).st == .running) = true ∧
    gives (exec (.unbind (cmd 0 0 0)) (inState .bound (bare addP))) (fun t => (t.dev.ctx 0).st == .opened && (t.dev.ctx 0).plat == none) = true ∧
    gives (exec (.freeze (cmd 0 0 0)) (inState .running (bare addP))) (fun t => (t.dev.ctx 0).st == .frozen && t.dev.stopped 7) = true ∧
    gives (exec (.freeze (cmd 0 0 0)) (inState .dumping (bare addP))) (fun t => (t.dev.ctx 0).st == .dumping && (t.dev.ctx 0).heldCmds.length == 1) = true ∧
    gives (exec (.dump (cmd 0 0 0)) (inState .frozen (bare addP))) (fun t => (t.dev.ctx 0).st == .dumping && t.dev.dumping == some 0) = true ∧
    gives (exec (.dump (cmd 0 0 0)) (State.withDev (inState .frozen (bare addP)) (fun d => { d with dumping := some 5 }))) (fun t => t.dev.dumpQ == [0]) = true ∧
    gives (exec (.dump (cmd 0 0 0 64)) (State.withDev (inState .frozen (tabled (bare addP))) (fun d => { d with dumping := some 5, dumpQ := List.replicate 8 6 })))
      (fun t => t.mem.read 0x100040 == 3#8) = true ∧
    gives (exec (.kill (cmd 0 0 0)) (inState .running (bare addP))) (fun t => (t.dev.ctx 0).st == .killed) = true ∧
    gives (exec (.kill (cmd 0 0 0)) (inState .killed (bare addP))) (fun t => (t.dev.ctx 0).st == .killed) = true := by decide +kernel
theorem preempt_witness :
    gives (exec (.preempt (cmd 0 4096 0)) (inState .running addP)) (fun t => ((t.dev.ctx 0).st, (t.dev.ctx 0).gatePhase) == (.gating, 1)) = true ∧
    gives (exec (.preempt (cmd 0 4096 0)) (inState .frozen (bare addP))) (fun t => ((t.dev.ctx 0).st, (t.dev.ctx 0).gatePhase) == (.gating, 2)) = true ∧
    gives (exec (.preempt (cmd (2 ^ 57) 1 0 64)) (inState .running (tabled addP))) (fun t => t.mem.read 0x100040 == 2#8) = true := by decide +kernel
/-- A record of thread 1 in entry 3, sequence 9: resumed, redirected, ended; a handle that names none. -/
def recorded_ (st : CState) : State :=
  inState st (tabled (State.withThr (State.withDev addP (fun d => { d with insts := [] })) (fun u => { u with st := .stopped, rcd := some 3, next := none })))
    (fun k => { k with frecs := [(3, { lanes := BitVec.ofNat 512 (9 * 2 ^ 48), thr := 1, routed := false, cause := .sysCall })] })
theorem resume_command_witness :
    gives (exec (.resume (cmd (3 + 9 * 2 ^ 16) 0 0)) (recorded_ .frozen)) (fun t => (t.dev.ctx 0).st == .running && (t.dev.ctx 0).frecs == []) = true ∧
    gives (exec (.resume (cmd (3 + 9 * 2 ^ 16) 1 0x1200)) (recorded_ .frozen)) (fun t => (t.dev.thr 1).map (fun u => u.next) == some (some 0x1200)) = true ∧
    gives (exec (.resume (cmd (3 + 9 * 2 ^ 16) 2 0)) (recorded_ .frozen)) (fun t => (t.dev.thr 1).map (fun u => u.ended) != some false) = true ∧
    gives (exec (.resume (cmd (3 + 9 * 2 ^ 16) 1 0x1201 64)) (recorded_ .frozen)) (fun t => t.mem.read 0x100040 == 2#8) = true ∧
    gives (exec (.resume (cmd (3 + 8 * 2 ^ 16) 0 0 64)) (recorded_ .frozen)) (fun t => t.mem.read 0x100040 == 2#8) = true := by decide +kernel
/-- RESTORE from a bind record that is none. -/
theorem restore_witness :
    gives (exec (.restore (cmd 0 128 0 64)) (recordAt 128 (bindRec 0) (inState .opened (tabled (bare addP))))) (fun t => t.mem.read 0x100040 == 2#8) = true ∧
    gives (exec (.restore (cmd 0 128 0 64)) (recordAt 128 (bindRec 2) (inState .opened (tabled (bare addP))))) (fun t => t.mem.read 0x100040 == 0x61#8) = true := by
  decide +kernel

/-- ObjectCommands: loading into slot 2, unloading, a queue's life, barriers, an answer to a dispatch request. -/
def obj (k : Ctx → Ctx := id) : State := inState .bound (tabled addP) k
theorem load_command_witness :
    gives (exec (.load (cmd 1 0 0 64)) (obj)) (fun t => t.mem.read 0x100040 == 2#8) = true ∧
    gives (exec (.load (cmd 0 0 4)) (obj (fun k => { k with kernels := [(0, { st := .resident }), (1, { st := .resident })] })))
      (fun t => (((t.dev.ctx 0).kernel 2).st, ((t.dev.ctx 0).kernel 2).lgen) == (.loading, 1)) = true ∧
    gives (exec (.load (cmd 0 0 4 64)) (obj (fun k => { k with kernels := (List.range 256).map (fun n => (n, { st := .resident })) }))) (fun t => t.mem.read 0x100040 == 3#8) = true := by
  decide +kernel
theorem unload_witness :
    gives (exec (.unload (cmd (2 + 7 * 256) 0 0)) (obj (fun k => { k with kernels := kernel2 }))) (fun t => ((t.dev.ctx 0).kernel 2).st == .unloaded) = true ∧
    gives (exec (.unload (cmd (2 + 6 * 256) 0 0 64)) (obj (fun k => { k with kernels := kernel2 }))) (fun t => t.mem.read 0x100040 == 4#8) = true ∧
    gives (exec (.unload (cmd (2 + 7 * 256) 0 0 64)) (obj (fun k => { k with kernels := [(2, { st := .loading, lgen := 7 })] }))) (fun t => t.mem.read 0x100040 == 1#8) = true ∧
    gives (exec (.unload (cmd (2 + 7 * 256) 0 0)) (State.withDev (obj (fun k => { k with kernels := [(2, { st := .active, lgen := 7 })] }))
      (fun d => { d with groups := d.groups.map (fun q => { q with handle := BitVec.ofNat 64 (2 + 7 * 256) }) }))) (fun t => ((t.dev.ctx 0).kernel 2).draining) = true := by
  decide +kernel
theorem queue_command_witness :
    gives (exec (.qcreate (cmd 128 0 0 64)) (recordAt 128 [2, 16, 0, 0, 0, 0, 0, 0] (obj)))
      (fun t => ((t.dev.ctx 0).queue 0).st == .unbound && t.mem.read 0x100040 == 0#8) = true ∧
    gives (exec (.qcreate (cmd 128 0 0 64)) (recordAt 128 [2, 15, 0, 0, 0, 0, 0, 0] (obj))) (fun t => t.mem.read 0x100040 == 2#8) = true ∧
    gives (exec (.qopen (cmd (qh 2) 0 0)) (withQueue obj { dq .unbound 0 0 16 with base := 0 })) (fun t => ((t.dev.ctx 0).queue 1).st == .opened) = true ∧
    gives (exec (.qopen (cmd (qh 2) 0 0 64)) (withQueue obj { dq .unbound 0 0 16 with base := 2 ^ 14 })) (fun t => t.mem.read 0x100040 == 3#8) = true ∧
    gives (exec (.qopen (cmd (qh 2) 0 0)) (withQueue obj (dq .closed 4 4 16))) (fun t => (((t.dev.ctx 0).queue 1).st, ((t.dev.ctx 0).queue 1).qgen) == (.opened, 6)) = true ∧
    gives (exec (.qopen (cmd (qh 2) 0 0 64)) (withQueue obj (dq .opened 0 0 16))) (fun t => t.mem.read 0x100040 == 1#8) = true := by decide +kernel
theorem queue_life_witness :
    gives (exec (.qdrain (cmd (qh 2) 0 0)) (withQueue obj (dq .opened 0 1 16))) (fun t => ((t.dev.ctx 0).queue 1).st == .draining) = true ∧
    gives (exec (.qdrain (cmd (qh 2) 0 0)) (withQueue obj (dq .opened 1 1 16))) (fun t => ((t.dev.ctx 0).queue 1).st == .closed) = true ∧
    gives (exec (.qclose (cmd (qh 2) 0 0)) (withQueue obj (dq .faulted 1 3 16))) (fun t => (((t.dev.ctx 0).queue 1).st, ((t.dev.ctx 0).queue 1).head) == (.closed, 3)) = true ∧
    gives (exec (.qdestroy (cmd (qh 2) 0 0)) (withQueue obj (dq .closed 1 1 16))) (fun t => ((t.dev.ctx 0).queue 1).st == .none) = true ∧
    gives (exec (.qquery (cmd (qh 2) 0 0 64)) (withQueue obj (dq .opened 1 3 16))) (fun t => t.mem.read 0x100048 == 1#8 && t.mem.read 0x10004C == 3#8) = true ∧
    gives (exec (.qquery (cmd (qh 2) 0 0 64)) obj) (fun t => t.mem.read 0x100040 == 4#8) = true := by decide +kernel
theorem barrier_command_witness :
    gives (exec (.balloc (cmd (3 + 2 ^ 16) 0 0 64)) obj) (fun t => ((t.dev.ctx 0).bar 0).armed && ((t.dev.ctx 0).bar 0).expected == 3 && t.mem.read 0x100049 == 4#8) = true ∧
    gives (exec (.balloc (cmd (3 + 5 * 2 ^ 16) 0 0 64)) obj) (fun t => t.mem.read 0x100040 == 2#8) = true ∧
    gives (exec (.bfree (cmd 0x400 0 0)) (bar 2 0 obj)) (fun t => !((t.dev.ctx 0).bar 0).armed) = true ∧
    gives (exec (.bfree (cmd 0x800 0 0 64)) (bar 2 0 obj)) (fun t => t.mem.read 0x100040 == 4#8) = true ∧
    gives (exec (.bquery (cmd 0x400 0 0 64)) (bar 2 0 obj)) (fun t => t.mem.read 0x100048 == 5#8 && t.mem.read 0x10004C == 2#8) = true := by decide +kernel
def askedGroup (st : GState) : State :=
  State.withDev (inState .running (tabled addP)) (fun d => { d with groups := d.groups.map (fun q => { q with st := st, asked := true, gid := 6, rcd := q.rcd }) })
theorem danswer_witness :
    gives (exec (.danswer (cmd 6 128 0)) (askedGroup .queued)) (fun t => t.dev.groups.map (fun q => q.answered.isSome) == [true]) = true ∧
    gives (exec (.danswer (cmd 6 129 0 64)) (askedGroup .queued)) (fun t => t.mem.read 0x100040 == 2#8) = true ∧
    gives (exec (.danswer (cmd 6 128 0 64)) (askedGroup .running)) (fun t => t.mem.read 0x100040 == 4#8) = true := by decide +kernel

/-- PageCommands: page 0 PRESENT, page 2^14 ABSENT; page 0 with LOCKS 1, with PIN, MIGRATING; a page of 2 MiB at 2^21. -/
def pageState (s : Nat) : State :=
  let t := inState .bound (tabled (bare addP))
  { t with mem := t.mem.writeAll (cells8 0x30000 (2 ^ 63 + 2 ^ 62 + s + 0x100000) ++ cells8 0x20010 (2 ^ 63 + 2 ^ 62 + 2 ^ 59 + 0x400000) ++ cells8 0x20018 (2 ^ 48)) }
def pageIs (t : State) (st : Nat) : Bool := (t.toW.namedLeaf 0).map (fun l => l.state) == some st
theorem page_change_witness :
    gives (exec (.punmap (cmd 0 0 0)) (pageState (2 ^ 59))) (fun t => pageIs t stEvicting && t.dev.pcmds.length == 1) = true ∧
    gives (exec (.punmap (cmd 0 0 0)) (pageState (2 ^ 60 + 1))) (fun t => t.dev.pcmds.map (fun p => p.waitLocks) == [true]) = true ∧
    gives (exec (.punmap (cmd 0 0 0 64)) (pageState (2 ^ 60 + 2 ^ 55))) (fun t => t.mem.read 0x100040 == 0x40#8) = true ∧
    gives (exec (.punmap (cmd (2 ^ 14) 0 0 64)) (pageState (2 ^ 59))) (fun t => t.mem.read 0x100040 == 0#8 && t.mem.read 0x100041 == 2#8) = true ∧
    gives (exec (.punmap (cmd 1 0 0 64)) (pageState (2 ^ 59))) (fun t => t.mem.read 0x100040 == 2#8) = true ∧
    gives (exec (.pmigrate (cmd 0 0x200000 0)) (pageState (2 ^ 59))) (fun t => pageIs t stMigrating) = true ∧
    gives (exec (.pmigrate (cmd 0 0x200001 0 64)) (pageState (2 ^ 59))) (fun t => t.mem.read 0x100040 == 2#8) = true := by decide +kernel
theorem page_evict_witness :
    gives (exec (.pevict (cmd 0 0xFF8000000000 0 64)) (pageState (2 ^ 59))) (fun t => t.dev.pcmds == [] && t.mem.read 0x100040 == 2#8) = true ∧
    gives (exec (.pevict (cmd 0 (0xFF * 2 ^ 49) 0)) (pageState (2 ^ 59))) (fun t => pageIs t stEvicting && t.dev.pcmds.length == 1) = true ∧
    gives (exec (.pevict (cmd 0 0 0 64)) (pageState (2 ^ 59))) (fun t => t.mem.read 0x100040 == 2#8) = true ∧
    gives (exec (.psplit (cmd 0 0 0 64)) (pageState (2 ^ 59))) (fun t => t.mem.read 0x100040 == 2#8) = true ∧
    gives (exec (.psplit (cmd (2 ^ 21) 0 0 64)) (pageState (2 ^ 59))) (fun t => t.mem.read 0x100040 == 3#8) = true ∧
    ((pageState (2 ^ 59)).toW.namedLeaf (2 ^ 21)).map (fun l => (l.level, l.state, l.fixed, entLocks l.w0)) = some (2, stPresent, false, 0) ∧
    (State.withDev (pageState (2 ^ 59)) (fun d => { d with pool := [0x800000] })).dev.poolFree = [0x800000] := by decide +kernel
theorem page_pin_witness :
    gives (exec (.ppin (cmd 0 0 0)) (pageState (2 ^ 59))) (fun t => pageIs t stLocked) = true ∧
    gives (exec (.punpin (cmd 0 0 0)) (pageState (2 ^ 60 + 2 ^ 55))) (fun t => pageIs t stPresent) = true ∧
    gives (exec (.ppin (cmd 0 0 0 64)) (pageState (3 * 2 ^ 59))) (fun t => t.mem.read 0x100040 == 0x40#8 && pageIs t stMigrating) = true ∧
    gives (exec (.ppin (cmd (2 ^ 14) 0 0 64)) (pageState (2 ^ 59))) (fun t => t.mem.read 0x100040 == 2#8) = true ∧
    gives (exec (.ppin (cmd 0 0 0)) (State.withDev (pageState (2 ^ 60 + 1)) (fun d => { d with pcmds := [⟨.unmap, 0, 0, 2 ^ 14, 0x100000, true, [], [], none⟩] })))
      (fun t => (t.dev.ctx 0).posted.length == 1) = true ∧
    gives (exec (.pdomain (cmd 0 65536 0 64)) (pageState (2 ^ 59))) (fun t => t.mem.read 0x100040 == 2#8) = true ∧
    gives (exec (.pdomain (cmd 0 7 0)) (pageState (2 ^ 59))) (fun t => t.mem.read 0x2000E == 7#8 && (t.dev.grid 0).plb == []) = true ∧
    gives (exec (.rsync (cmd 0 0 0)) (pageState (2 ^ 59))) (fun t => (t.dev.grid 0).plb == []) = true := by decide +kernel
/-- A thread that waits for page `x`. -/
def pageWaiting (x : Nat) : State :=
  State.withDev (State.withThr (inState .running (tabled (idle addP))) (fun u => { u with st := .page, pageReq := some 7, resumeAt := some 0x1100, next := none }))
    (fun d => { d with preqs := [⟨7, 0, x, 1#5, [.thread 1 0x1100 (x + 8) 0], true⟩], preqNext := 8 })
theorem panswer_witness :
    gives (exec (.panswer (cmd 7 0 0)) (pageWaiting 0)) (fun t => t.dev.preqs == [] && (t.dev.thr 1).map (fun u => (u.st, u.next)) == some (.run, some 0x1100)) = true ∧
    gives (exec (.panswer (cmd 7 0 0)) (pageWaiting (2 ^ 14))) (fun t => t.dev.preqs.map (fun r => r.page) == [2 ^ 14] && t.dev.heldReqs.length == 1) = true ∧
    gives (exec (.panswer (cmd 7 1 0)) (pageWaiting (2 ^ 14)))
      (fun t => t.dev.preqs == [] && (t.dev.thr 1).map (fun u => u.st) == some .stopped && ((t.dev.ctx 0).frecs.look 0).map (fun r => r.cause) == some .pageUnresolved) = true ∧
    gives (exec (.panswer (cmd 7 2 0 64)) (pageWaiting 0)) (fun t => t.mem.read 0x100040 == 2#8) = true ∧
    gives (exec (.panswer (cmd 6 0 0 64)) (pageWaiting 0)) (fun t => t.mem.read 0x100040 == 4#8) = true := by decide +kernel
theorem pstock_witness :
    gives (exec (.pstock (cmd 128 2 0 64)) (recordAt 128 [0x200000, 0x204000] (tabled (bare addP))))
      (fun t => t.dev.pool == [0x200000, 0x204000] && t.mem.read 0x100048 == 2#8) = true ∧
    gives (exec (.pstock (cmd 128 1 0 64)) (recordAt 128 [0x200001] (tabled (bare addP)))) (fun t => t.dev.pool == [] && t.mem.read 0x100040 == 2#8) = true ∧
    gives (exec (.pstock (cmd 128 0 0 64)) (tabled (bare addP))) (fun t => t.mem.read 0x100040 == 2#8) = true := by decide +kernel
def merging : State :=
  inState .running (tabled addP) (fun k => { k with revs := [(1, { alive 1 with st := .joining })], merges := [⟨1, 0, true, [64], 3, 1⟩], regions := [(0, { declared := true, desc := region1Vec })] })
theorem manswer_witness :
    gives (exec (.manswer (cmd (1 + 2 ^ 10) 0 0)) merging) (fun t => (t.dev.ctx 0).merges == [⟨1, 1, false, [], 3, 1⟩]) = true ∧
    gives (exec (.manswer (cmd (1 + 2 * 2 ^ 10) 0 0 64)) merging) (fun t => t.mem.read 0x100040 == 4#8) = true ∧
    gives (exec (.manswer (cmd (1 + 2 ^ 10) 0 (2 ^ 25) 64)) merging) (fun t => t.mem.read 0x100040 == 2#8) = true := by decide +kernel

/-- DebugCommands. -/
def dbg (st : CState) (k : Ctx → Ctx := id) : State := inState st (tabled (bare addP)) k
theorem gresume_witness :
    gives (exec (.gresume (cmd 3 0 0)) (State.withDev (dbg .running) (fun d => { d with grids := d.grids.set 3 { d.grid 3 with stopAt := some 0 } }))) (fun t => !t.dev.stopped 3) = true ∧
    gives (exec (.gresume (cmd 0x1FF 0 0)) (dbg .running)) (fun t => (t.dev.ctx 0).st == .running) = true ∧
    gives (exec (.gresume (cmd 0x1FF 0 0)) (dbg .frozen)) (fun t => (t.dev.ctx 0).st == .running) = true ∧
    gives (exec (.gresume (cmd 0x1FF 0 0)) (dbg .frozen (fun k => { k with frecs := [(0, { lanes := 0, thr := 1, routed := false, cause := .sysCall })] })))
      (fun t => (t.dev.ctx 0).st == .frozen) = true ∧
    gives (exec (.gresume (cmd 3 0 0 64)) (dbg .frozen)) (fun t => t.mem.read 0x100040 == 1#8) = true ∧
    gives (exec (.gresume (cmd 8 0 0 64)) (dbg .running)) (fun t => t.mem.read 0x100040 == 2#8) = true := by decide +kernel
/-- The first 64 KiB are LOCKED. -/
def dbgLocked : State :=
  let s := dbg .bound
  { s with mem := s.mem.writeAll ((List.range 4).flatMap (fun i => cells8 (0x30000 + 16 * i) (2 ^ 63 + 2 ^ 62 + 2 * 2 ^ 59 + 0x100000 + 0x4000 * i))) }
theorem debug_setting_witness :
    gives (exec (.dbgmatch (cmd 3 5 77)) (dbg .bound)) (fun t => (t.dev.ctx 0).comps == [(3, { kind := 1, gang := true, addr := 77, mask := 0 })]) = true ∧
    gives (exec (.dbgmatch (cmd 4 5 77 64)) (dbg .bound)) (fun t => t.mem.read 0x100040 == 2#8) = true ∧
    gives (exec (.trcfg (cmd 0 65536 31)) dbgLocked) (fun t => (t.dev.ctx 0).trace == { base := 0, len := 65536, enables := 31#5 }) = true ∧
    gives (exec (.trcfg (cmd 0 65536 32 64)) dbgLocked) (fun t => t.mem.read 0x100040 == 2#8) = true ∧
    gives (exec (.record (cmd 1 4096 512)) (dbg .saved)) (fun t => (t.dev.ctx 0).recd == { mode := 1, base := 4096, len := 512 }) = true ∧
    gives (exec (.record (cmd 3 0 0)) (dbg .saved)) (fun t => (t.dev.ctx 0).recd.mode == 3) = true ∧
    gives (exec (.record (cmd 4 0 0 64)) (dbg .saved)) (fun t => t.mem.read 0x100040 == 2#8) = true ∧
    gives (exec (.cutread (cmd 128 0 0)) (dbg .frozen (fun k => { k with cuts := [(9, [1, 2, 3, 4, 5])] }))) (fun t => t.mem.read 0x100080 == 9#8 && t.mem.read 0x100088 == 1#8) = true ∧
    gives (exec (.cutread (cmd (2 ^ 14) 0 0 64)) (dbg .frozen (fun k => { k with cuts := [(9, [])] }))) (fun t => t.mem.read 0x100040 == 2#8) = true := by decide +kernel
/-- The log: a length that is none; a log in use; stations that are known and not; a register taken back by a station and by a block. -/
def logged (ents : List (Nat × LogEnt)) : State :=
  State.withDev (inState .frozen (tabled addP) (fun k => { k with log := { configured := true, begun := true, taken := [6, 0], station := 6, segs := [(0, { ents := ents })] } }))
    (fun d => { d with insts := [] })
theorem log_witness :
    gives (exec (.logcfg (cmd 65536 4096 0 64)) (dbg .opened)) (fun t => t.mem.read 0x100040 == 2#8) = true ∧
    gives (exec (.logcfg (cmd 65536 (2 ^ 21) 0 64)) (dbg .opened (fun k => { k with undoEn := true }))) (fun t => t.mem.read 0x100040 == 1#8) = true ∧
    gives (exec (.logtrim (cmd 6 0 0)) (logged [])) (fun t => (t.dev.ctx 0).log.oldest == 6) = true ∧
    gives (exec (.logtrim (cmd 5 0 0 64)) (logged [])) (fun t => t.mem.read 0x100040 == 0x82#8) = true ∧
    gives (exec (.reverseToStation (cmd 6 0 0)) (logged [(0, .marker 6 0), (0, .reg 3 0 0 77#512)])) (fun t => (t.dev.thr 1).map (fun u => u.regs.get 3 0#512) == some 77#512) = true ∧
    gives (exec (.reverseToStation (cmd 6 0 0 64)) (logged [(0, .marker 6 0), (0, .monument 4 6 0 0 0)])) (fun t => t.mem.read 0x100040 == 0x81#8) = true ∧
    gives (exec (.reverseToStation (cmd 5 0 0 64)) (logged [])) (fun t => t.mem.read 0x100040 == 0x82#8) = true := by decide +kernel
theorem reverse_block_witness :
    gives (exec (.reverseBlock (cmd 0 0 0)) (logged [(0, .reg 3 1 0 77#512), (0, .commit 0x1200 1 0 0#64 9#64 0 1 0 0#64 0 [])]))
      (fun t => (t.dev.thr 1).map (fun u => (u.regs.get 3 0#512, u.prng, u.next)) == some (77#512, 9#64, some 0x1200)) = true ∧
    gives (exec (.reverseBlock (cmd (2 ^ 38) 0 0 64)) (logged [])) (fun t => t.mem.read 0x100040 == 2#8) = true ∧
    gives (exec (.reverseBlock (cmd 0 0 0 64)) (logged [])) (fun t => t.mem.read 0x100040 == 0x83#8) = true := by decide +kernel
/-! ### More clauses of events and commands -/

/-- ReleasesAndArrivals: the 17th message also goes to the spill area; no release is under way at the hand-over of `handover_witness`. -/
theorem mail_spill_witness :
    let s := State.withThr (about addP 1 3) (fun u => { u with mboxes := [(3, { msgs := List.replicate 16 ⟨0, 0, 0⟩, waiting := [(0, ⟨9, 3, 0⟩)] })] })
    gives (exec .mailboxDelivery s) (fun t => (t.dev.thr 1).map (fun u => ((u.mbox 3).msgs.length, (u.mbox 3).waiting.length)) == some (17, 0)) = true ∧
    (match handing.dev.handovers.head? with | some h => handing.dev.rels.all (fun r => r.thr != h.oldThr) | none => false) = true := by decide +kernel
/-- CopiesAndCollectives: a forwarded load into a port stream that is open; a copy of a killed context. -/
theorem forwarded_port_witness :
    let s := State.withDev (forwarded (2 * 2 ^ 60 + 5)) (fun d => { d with
      threads := d.threads.map (fun p => (p.1, { p.2 with streams := [(5, { isOpen := true, cfg := cfg3 0 false .port })] })) })
    (s.dev.portStream 0 0 5).isSome = true → gives (exec .ldfwdReplyDelivery s) (fun t =>
      t.dev.fwds == [] && (t.dev.thr 1).map (fun u => (u.stream 5).arrivals.length) == some 3) = true := by decide +kernel
theorem killed_copy_witness :
    gives (exec .copyCompletion (State.withCtx (copying none 64) (fun k => { k with st := .killed })))
      (fun t => t.dev.copies == [] && (t.dev.thr 1).map (fun u => u.latches) == some 0) = true := by decide +kernel
/-- DispatcherEvents: a QUEUED group of one thread on an idle parcel of grid 0 is placed there. -/
theorem group_dispatch_witness :
    let s := State.withCtx (about (queued 1) 0) (fun k => { k with plat := k.plat.map (fun p => { p with poolUnits := 4 }) })
    s.dev.arg.ns = [] ∧ s.dev.candidates 0 = s.dev.groups ∧ (s.dev.groups.map (fun q => (s.toW.placement q, (s.dev.groupKernel q).spills q.regCnt))) = [(some [0], false)] ∧
    gives (exec .groupDispatch s) (fun t => t.dev.groups.map (fun q => (q.st, q.live)) == [(.dispatched, 1)] &&
      t.dev.threads.map (fun p => (p.2.first, p.2.next, p.2.st)) == [(0, some 0x500, .fetch)]) = true := by decide +kernel
/-- HeatAndPower: a thread in DISPLACED whose slot is enabled again; under THERM_HA, one that no set is named for. -/
theorem displaced_witness :
    gives (exec .displacedMove (State.withThr (idle (about addP 1)) (fun u => { u with st := .displaced, slots := [(0, 0)] })))
      (fun t => (t.dev.thr 1).map (fun u => (u.st, u.slots)) == some (.fetch, [(0, 0)])) = true ∧
    (let s := State.withThr (idle (about (State.withCtx (disabled0 96) (fun k => { k with plat := some { parcel := 0xFF#448, bctl := 0x8000000#64, budgets := [8, 8, 8, 8, 8, 8, 8, 8], poolBase := 0, poolUnits := 0, locks := [] } })) 1))
        (fun u => { u with slots := [(0, 0)] })
     (match s.dev.thr 1 with | some u => s.dev.slotDisabled u && s.dev.atBoundary 1 u && !(s.dev.displaceSets 1 u).isEmpty | none => false) = true ∧
     gives (exec .displacedMove s) (fun t => t == s) = true) := by decide +kernel
/-- QueueAndRevisionEvents: an append outside the aperture; one to a place that is no append address. -/
theorem append_more_witness :
    gives (exec .hostAppend (State.withDev (appended 64 .opened) (fun d => { d with arg := { d.arg with a := 2 ^ 28 } }))) (fun t => ((t.dev.ctx 0).queue 1).tail == 1) = true ∧
    gives (exec .hostAppend (State.withDev (appended 64 .opened) (fun d => { d with arg := { d.arg with a := 65 } }))) (fun t => ((t.dev.ctx 0).queue 1).drops == 1) = true := by
  decide +kernel
/-- PortEvents: a request of a context in GATING. HostEvents: a read of a page that moves. PowerEvents: the island is cut. -/
theorem gating_timeout_witness :
    gives (exec .linkTimeout (State.withCtx (asked (.access 2 0) 200000) (fun k => { k with st := .gating }))) (fun t => (t.dev.ctx 0).st == .faulted) = true ∧
    gives (exec .imeasSample (about addP 0 1301)) (fun t => (t.dev.field 0).cut && !(t.dev.field 0).pllLocked) = true := by decide +kernel
/-- ManagementEvents: the ends of steps 4 and 6; two registers. -/
theorem bringup_more_witness :
    gives (exec .bringupStepComplete (step_ 4 (State.withDev addP (fun d => { d with fields := (List.range 8).map (fun f => (f, { d.field f with powered := true, pllLocked := true })) }))))
      (fun t => t.mgmt.bstep == 5 && (t.dev.field 7).phy) = true ∧
    gives (exec .bringupStepComplete (step_ 6 addP)) (fun t => t.mgmt.bstep == 7 && t.dev.io) = true ∧
    gives (exec .mgmtRegisterWrite (mgmtWrite 10 0x40 (2 ^ 28 + 5))) (fun t => t.mgmt.appendBase == BitVec.ofNat 64 (2 ^ 28)) = true ∧
    gives (exec .mgmtRegisterWrite (mgmtWrite 10 0xB0 (2 ^ 18 + 5))) (fun t => t.mgmt.cmdBase == BitVec.ofNat 64 (2 ^ 18)) = true := by decide +kernel
/-- DebugCommands, `TRCFG`: pages that are not LOCKED. -/
theorem trcfg_locked_witness : gives (exec (.trcfg (cmd 0 65536 31 64)) (dbg .bound)) (fun t => t.mem.read 0x100040 == 2#8) = true := by decide +kernel
/-- StepRuns: a KILL passes the commands that a dump holds; another command stands in line. -/
theorem step_held_witness :
    let s : Instr → State := fun i =>
      { inState .dumping (bare addP) (fun k => { k with heldCmds := [(0x0B#8, cmd 0 0 0)] }) with agenda := [⟨0, .ev i {}⟩], mgmt := { addP.mgmt with bstep := 11 } }
    gives (step (s (.kill (cmd 0 0 0)))) (fun t => (t.dev.ctx 0).st == .killed) = true ∧
    gives (step (s (.run (cmd 0 0 0)))) (fun t => (t.dev.ctx 0).st == .dumping && (t.dev.ctx 0).posted.length == 1) = true := by decide +kernel
/-- QueueAndRevisionEvents: a merge waits while a page that its child has copied is absent for the parent. -/
theorem merge_waits_witness :
    let s := State.withCtx (tabled (about addP 0)) (fun k => { k with
      revs := [(1, { alive 1 with st := .joining, owned := [(2 ^ 14, 0x200000)] })], merges := [⟨1, 0, false, [], 3, 1⟩] })
    (match (s.dev.ctx 0).merge with | some j => !s.toW.mergeReady 0 j [] | none => false) = true ∧
    gives (exec .mergeComplete s) (fun t => t == s) = true := by decide +kernel

/-! ### Decoding: words written out in the spec, field by field (04 R92-R107 and the example words of each chapter) -/

def qf (stg sub limit t0 t1 imm : Nat) : FmtQ :=
  { stg := BitVec.ofNat 3 stg, pr := 0, sub := BitVec.ofNat 4 sub, limit := BitVec.ofNat 12 limit, t0 := BitVec.ofNat 12 t0, t1 := BitVec.ofNat 12 t1,
    imm := BitVec.ofNat 11 imm }
/-- Integer, float, memory and exit words. -/
theorem test_decode_words :
    decodeWord 0x1C03840020500000#64 = .ok (.addc { stg := 0, pr := 0, ty := 7, fzi := 0, fzo := 0, rm := 0, t0 := 0x800, t1 := 0x40A, x := 0 }) ∧
    decodeWord 0x8E618D0000000000#64 = .ok (.fence { stg := 3, pr := 0, ty := 3, lsid := 3, scope := 2, t0 := 0, offs := 0 }) ∧
    decodeWord 0x658402340000002A#64 = .ok (.unpack { stg := 4, pr := 0, ty := 8, fzi := 0, fzo := 0, rm := 0, t0 := 0x468, t1 := 0, x := 0x2A }) ∧
    decodeWord 0x8003802080000000#64 = .ok (.ld { stg := 0, pr := 0, ty := 7, lsid := 0, scope := 0, t0 := 0x410, offs := 0 }) := by decide +kernel
/-- Queue, event, system words of format Q. -/
theorem test_decode_queue_words :
    decodeWord 0xC8200FD214000000#64 = .ok (.launch (qf 1 0 0x1FA 0x428 0 0)) ∧
    decodeWord 0xC1400FD20C210001#64 = .ok (.qpop (qf 2 0 0x1FA 0x418 0x420 1)) ∧
    decodeWord 0xD2400FD218000007#64 = .ok (.evwait (qf 2 0 0x1FA 0x430 0 7)) ∧
    decodeWord 0xD6200FD210800001#64 = .ok (.arrive (qf 1 0 0x1FA 0x421 0 1)) ∧
    decodeWord 0xF32000020C000000#64 = .ok (.pgq (qf 1 0 0 0x418 0 0)) ∧
    decodeWord 0xF441000214000000#64 = .ok (.pgadviseEvictbehind (qf 2 2 0 0x428 0 0)) := by decide +kernel
theorem test_decode_more_queue_words :
    decodeWord 0xE1400FD214000000#64 = .ok (.join (qf 2 0 0x1FA 0x428 0 0)) ∧
    decodeWord 0xE6200FD20C210005#64 = .ok (.trvtake (qf 1 0 0x1FA 0x418 0x420 5)) ∧
    decodeWord 0xF5400FD214000000#64 = .ok (.acoll (qf 2 0 0x1FA 0x428 0 0)) ∧
    decodeWord 0xF720000214000000#64 = .ok (.station (qf 1 0 0 0x428 0 0)) ∧
    decodeWord 0xF84000000000002A#64 = .ok (.dmark (qf 2 0 0 0 0 42)) ∧
    decodeWord 0xC5202A040020400B#64 = .ok (.mbrecv (qf 1 0 0x540 0x800 0x408 11)) ∧
    decodeWord 0xD24022F214000020#64 = .ok (.evwait (qf 2 0 0x45E 0x428 0 0x20)) := by decide +kernel
/-- 04 R92: words that are none: an opcode without an instruction, a reserved field that is not zero. -/
theorem test_decode_refuses : (decodeWord 0x0000000000000001#64).toOption = none ∧ (decodeWord 0xFF00000000000000#64).toOption = none ∧
    decodeTableWord 64 0 = none := by decide +kernel
/-- A command record: opcode, context and generation, completion address, lanes (10 R284, R285). -/
theorem test_decode_record : (decode (encode (.run (cmd 5 6 7 64 3)))).toOption = some (.run (cmd 5 6 7 64 3)) := by decide +kernel
/-- DecodeEncode: a well-formed instruction of one word and a command of eight. -/
theorem decode_encode_witness : (Instr.add (g 7 0)).wf = true ∧ (encode (.add (g 7 0))).length = 1 ∧ (encode (.run (cmd 5 6 7))).length = 8 ∧
    (decodeWord 0x8005002040000000#64).toOption.isSome = true := by decide +kernel

/-! ### Steps -/

/-- StepRuns: a word loaded is the first that runs; a slot without an instruction is the fault; an event with its subject; a command that
the device does not take yet; a cycle before the plat is open. -/
theorem step_witness :
    gives (step (State.reset.withFetchWord 64 0x30A0000000000002)) (fun t => t.agenda == [] && t.dev.insts.length == 1) = true ∧
    (match step { probe (.add (g 7 0)) [] with agenda := [⟨0, .fire 2 77⟩] } with | .fault f => f == .undecodable | _ => false) = true ∧
    gives (step { addP with agenda := [⟨4, .ev .islIlimWrite { a := 1, b := 500 }⟩] }) (fun t => t.mgmt.ilimNext == [(1, 500)] && t.dev.cycle == 4) = true ∧
    gives (step { inState .bound addP with agenda := [⟨0, .ev (.run (cmd 0 0 0)) {}⟩], mgmt := { addP.mgmt with bstep := 11 } })
      (fun t => (t.dev.ctx 0).st == .running) = true ∧
    gives (step { inState .bound addP with agenda := [⟨0, .ev (.run (cmd 0 0 0)) {}⟩] }) (fun t => (t.dev.ctx 0).posted.length == 1 && (t.dev.ctx 0).st == .bound) = true ∧
    gives (step State.reset) (fun t => t.dev.cycle == 1) = true := by decide +kernel
/-- StepRuns, time: six cycles are five nanoseconds. -/
theorem test_time : (State.reset.dev.pass 2 6).now = 5 ∧ (State.reset.dev.pass 1 6).now = 0 ∧ State.reset.dev.slew = 0 := by decide +kernel
/-- MemoryStaysCanonical, WholeMachine: a state of canonical memory whose step stores a byte. -/
theorem step_stores_witness : Safety.MemOk (State.withDev relS id) ∧
    gives (step { relS with agenda := [⟨0, .ev .scratchpadStoreArrival {}⟩] }) (fun t => t.mem.read (spKey 0 0) == 4#8 && t.agenda == []) = true := by
  simp only [Safety.MemOk]
  decide +kernel
/-- SignsPredicatesAndLaneNumbers: a code of each sign. -/
theorem signs_witness : value 6#4 0x7F#8 = 127 ∧ value 0#4 0xFF#8 = -1 ∧ value 1#4 0xFF#8 = 255 := by decide +kernel
/-- KillReachesKilled: a FREE context of the generation named. -/
theorem kill_free_witness : gives (exec (.kill (cmd 0 0 0)) (inState .free (bare addP))) (fun t => (t.dev.ctx 0).st == .free) = true := by decide +kernel
/-- PhasesReached: the phase itself, the farthest, one past it; a gate on a barrier. -/
theorem phases_witness : reached 5 5 = true ∧ reached 5 6 = false ∧ reached (2 ^ 29 + 4) 5 = true ∧ reached (2 ^ 29 + 5) 5 = false ∧
    (BitVec.ofNat 64 (2 ^ 62 + 5 * 2 ^ 32 + 0x400)).extractLsb' 62 2 = 1#2 ∧ ((bar 2 0 addP).dev.ctx 0).barOf 0x400 = some 0 := by decide +kernel
/-- ResetLeaves: memory at reset has its form. -/
theorem reset_witness : Safety.MemOk State.reset ∧ State.reset.mgmt.thermThr = 95 := by
  simp only [Safety.MemOk]
  decide +kernel
end Sys2Proof.Tests
end

section
/-!
PROOFS, 00 scope. What every meaning of the opcode table leaves of the state, and from it that every step keeps the memory canonical; what
reset leaves.
-/

namespace Sys2Proof.Machine

/-! ### What a meaning can do -/

/-- An outcome that goes on from a state: the device and the management registers are replaced, bytes are written to memory, and the agenda
stays. -/
def GoesOn (s : State) (o : Host.Outcome State Fault Refusal) : Prop :=
  ∃ (d : Dev) (g : Mgmt) (cs : List Host.Cell), o = .next { s with dev := d, mgmt := g, mem := s.mem.writeAll cs }

theorem runD_goesOn (f : Dev → Dev) (s : State) : GoesOn s (runD f s) := ⟨_, _, [], runD_eq f s⟩
theorem runR_goesOn (f : W → Dev) (s : State) : GoesOn s (runR f s) := ⟨_, _, [], runR_eq f s⟩
theorem run_goesOn (f : W → W) (s : State) : GoesOn s (run f s) := ⟨_, _, _, run_eq f s⟩
theorem runM_goesOn (f : W → Mgmt × W) (s : State) : GoesOn s (runM f s) := ⟨_, _, _, runM_eq f s⟩

/-- A steal makes the thief wait as its `sync.next` would, or finds no such instruction. -/
theorem execSteal_goesOn (s : State) : GoesOn s (execSteal s) := by
  unfold execSteal
  dsimp only
  split
  next f => exact run_goesOn _ _
  next => exact ⟨_, _, [], rfl⟩

/-- Every row of the opcode table goes on: its meaning is a change of the device alone (`runD`, and `runR` where it reads memory), one that
writes memory too (`run`), or one that sets management registers (`runM`). -/
theorem exec_goesOn (i : Instr) (s : State) : GoesOn s (exec i s) := by
  cases i with simp only [exec]
  | add | sub | mul | mulh | mad | div | rem | min | max | abs | neg | and | or | xor | andn | not | shl | shr | sar | rotl
    | clz | popc | brev | bfx | bfi | adds | subs | addc | lea | sad | avg | cmp | fcmp | sel | mov | movi | movhi | null | pand
    | por | pnot | tagrd | lane | bcast | extl | insl | br | brind | call | calli | ret | loop | halt | yield | trap | sys
    | brkp | fadd | fsub | fmul | fma | fms | fnma | fmin | fmax | fabs | fneg | fdiv | fsqrt | frcp | frsqrt | fexp2 | flog2
    | ftanh | fsig | fround | fclass | fscale | fdot2 | fdot4 | fclamp | fcopysign | cvt | cvti | cvtf | fmt | pack | unpack
    | fmaxexp | perm | shfl | red | scan | cmpr | expd | vote | zip | unzip | mcfg | mzero | mma | mld | mst | mctr | mbound
    | wbload | mputa | mputb | mred | mrow | fetchComplete | tokenDelivery | exitMispredict | predictorEntryClear
    | watchdogExpiry | slotWaitEntry | slotRetention | waitLimitExpiry | thermalRankingRefresh | groupLevelRise
    | barrierEngineArrival | quiescenceSweep | dumpStart | lifetimeRecordWrite | laneErrorDegrade | portEnable | portDisable
    | isolate | release | voltageDroop | pllLock => exact runD_goesOn _ _
  | getsr | compose | setsr | hint | st | stl | stg | ldsp | stsp | swrite | scfg | sclose | ldfwd | cwb | cinv | acopy | acopy2
    | ashadow | apubPublish | apubDiscard | aprobe | agather | qpush | qinfo | mbsend | mbrecv | mcput | launch | kinfo | evwait
    | evsig | ginfo | binitAlloc | binitFree | arrive | arriveDrop | bwait | fork | join | rregionDecl | rregionDrop | rinfo
    | trvput | trvdonePass | trvdoneDrop | trvcloseDrain | trvcloseAbort | trvstat | ctxq | frec | fresumeResume
    | fresumeRedirect | fresumeEnd | pgq | pgadviseWillneed | pgadviseTranslate | pgadviseEvictbehind | pgadviseKeep | lnkq
    | station | dmark | probe | fetchOpportunity | instancePlace | overflowReinject | thermalThreshold | thermalSlotEnable
    | ptpSync | getVersion | getCapabilities | negotiateAlgorithms | getDigests | getCertificate | challenge | getMeasurements
    | spdmUnsupportedRequest => exact runR_goesOn _ _
  | ld | lda | ldg | sread | pref | fence | amoAdd | amoFadd | amoMin | amoMax | amoAnd | amoOr | amoXor | amoSwap | amoCas
    | amoInc | amoDec | qpop | qpeek | mctake | spawn | syncWait | syncNext | trvopen | trvtake | acoll | create | configure
    | bind | run | unbind | preempt | restore | freeze | resume | dump | kill | danswer | load | unload | qcreate | qopen
    | qdrain | qclose | qdestroy | qquery | balloc | bfree | bquery | punmap | pmigrate | pevict | psplit | ppin | punpin
    | pdomain | rsync | panswer | pstock | manswer | gresume | logcfg | logtrim | reverseToStation | reverseBlock | trcfg
    | record | dbgmatch | cutread | fillDelivery | codePageVerification | blockCommit | thermalSlotDisable | displacedMove
    | matrixStepStart | matrixStepFinish | wbloadStepStart | pairMultiplyPhase | pairAccumulatePhase | atomicEarlyPerform
    | releasePerform | scratchpadStoreArrival | streamHandover | ldfwdReplyDelivery | mailboxDelivery | copyCompletion
    | shadowPublication | collectiveCompletion | dispatchRemove | groupDispatch | groupRetire | gatingWindowEnd
    | saveImageWritten | dumpComplete | teardownComplete | loadChecksComplete | hostAppend | queueStorageEcc | stageLaunchAppend
    | mergeComplete | ridFree | drainTokenEmerge | migrationComplete | evictionComplete | splitComplete | stationMarker
    | logDrain | timePacket | flitReceive | portTrainingDone | linkTimeout | cxlSnoop | hostCxlMemWrite | hostCxlMemRead
    | backInvalidateComplete | enginePageWait => exact run_goesOn _ _
  | imeasSample | thermalTrip | powerOn | bringupStepComplete | bringupTimeout | powerDown | islIlimWrite | islImeasRead
    | reqHeadWrite | mgmtRegisterWrite => exact runM_goesOn _ _
  | steal => exact execSteal_goesOn s
  | partialApertureWrite => exact ⟨_, _, [], rfl⟩

/-! ### The canonical form is kept -/

/-- A way to take a step that leaves a canonical memory canonical wherever it gives a next state. -/
def KeepsMemOk (f : State → Host.Outcome State Fault Refusal) : Prop :=
  ∀ s t : State, f s = .next t → Safety.MemOk s → Safety.MemOk t

/-- The bytes that an outcome writes as it goes on leave the memory canonical. -/
theorem GoesOn.memOk {s t : State} {o : Host.Outcome State Fault Refusal} (h : GoesOn s o) (ht : o = .next t) (hs : Safety.MemOk s) :
    Safety.MemOk t := by
  obtain ⟨d, g, cs, rfl⟩ := h
  cases ht
  exact Memory.writeAll_wf hs cs

theorem exec_keepsMemOk (i : Instr) : KeepsMemOk (exec i) := fun s _ => (exec_goesOn i s).memOk

theorem fireAt_keepsMemOk (iid idx : Nat) : KeepsMemOk (fun s => s.fireAt iid idx) := by
  intro s t ht hs
  dsimp only [State.fireAt] at ht
  split at ht
  next => cases ht; exact hs
  next x _ =>
    split at ht
    next => cases ht; exact hs
    next b _ =>
      split at ht
      next i _ => exact exec_keepsMemOk i _ t ht hs
      next => cases ht

theorem happen_keepsMemOk (i : Instr) (arg : EvArg) : KeepsMemOk (fun s => s.happen i arg) := by
  intro s t ht hs
  dsimp only [State.happen] at ht
  split at ht
  next => exact exec_keepsMemOk i _ t ht hs
  next r _ =>
    split at ht
    next => exact exec_keepsMemOk i _ t ht hs
    next => cases ht; exact hs

theorem perform_keepsMemOk (a : Act) : KeepsMemOk (fun s => s.perform a) := by
  cases a with
  | fire iid idx => exact fireAt_keepsMemOk iid idx
  | ev i arg => exact happen_keepsMemOk i arg

theorem takePosted_keepsMemOk (c : Nat) : KeepsMemOk (fun s => s.takePosted c) := by
  intro s t ht hs
  dsimp only [State.takePosted] at ht
  split at ht
  next => cases ht; exact hs
  next r rest _ =>
    split at ht
    next => cases ht; exact hs
    next =>
      split at ht
      next i _ => exact exec_keepsMemOk i _ t ht hs
      next => cases ht; exact hs

/-- The first of some steps that changes the machine is one of them, or none is and the state stays. -/
theorem firstChange_keepsMemOk {l : List (State → Host.Outcome State Fault Refusal)} (h : ∀ f ∈ l, KeepsMemOk f) :
    KeepsMemOk (fun s => firstChange s l) := by
  induction l with
  | nil => intro s t ht hs; cases ht; exact hs
  | cons f r ih =>
    obtain ⟨hf, hr⟩ := List.forall_mem_cons.1 h
    intro s t ht hs
    dsimp only [firstChange] at ht
    split at ht
    next u hu =>
      split at ht
      next => exact ih hr s t ht hs
      next => exact hf s t (hu.trans ht) hs
    next => exact hf s t ht hs

theorem mem_of_mem_rotate {α : Type} {a : α} {l : List α} {k : Nat} (h : a ∈ rotate l k) : a ∈ l :=
  (List.mem_append.1 h).elim List.mem_of_mem_drop List.mem_of_mem_take

/-- A cycle without the outside world settles what follows at once, then takes the first change among the device's own acts and the
records that wait. -/
theorem goOn_keepsMemOk : KeepsMemOk State.goOn := by
  intro s t ht hs
  dsimp only [State.goOn] at ht
  split at ht
  next => cases ht; exact hs
  next =>
    split at ht
    next u hu =>
      have hacts : ∀ f ∈ u.dev.acts.map (fun a s => State.perform s a) ++ u.dev.ctxs.map (fun c s => State.takePosted s c.1),
          KeepsMemOk f := by
        intro f hf
        rcases List.mem_append.1 hf with hf | hf
        · obtain ⟨a, -, rfl⟩ := List.mem_map.1 hf
          exact perform_keepsMemOk a
        · obtain ⟨c, -, rfl⟩ := List.mem_map.1 hf
          exact takePosted_keepsMemOk c.1
      have hsettled : Safety.MemOk u := (run_goesOn W.settleAll _).memOk hu hs
      exact firstChange_keepsMemOk (fun f hf => hacts f (mem_of_mem_rotate hf)) u t ht hsettled
    next => exact (run_goesOn W.settleAll _).memOk ht hs

theorem step_keepsMemOk : KeepsMemOk step := by
  intro s t ht hs
  dsimp only [step, State.advance] at ht
  split at ht
  next => exact goOn_keepsMemOk s t ht hs
  next a rest _ => exact perform_keepsMemOk a.act _ t ht hs

/-- Settles O40: every row of the table goes on by writing bytes (`exec_goesOn`), and a step performs rows or none. -/
theorem memoryStaysCanonical : Obligations.MemoryStaysCanonical :=
  fun s t hs ht => step_keepsMemOk s t ht hs

/-! ### Reset -/

theorem reset_memOk : Safety.MemOk State.reset := rfl

/-- No context has a record of its own at reset. -/
theorem reset_ctx (c : Nat) : State.reset.dev.ctx c = {} := rfl

/-- Settles O42, field by field: nothing is listed in memory or in any table of the device, so every lookup gives its default. -/
theorem resetLeaves : Obligations.ResetLeaves := by
  have hctx : ∀ c, (State.reset.dev.ctx c).st = .free ∧ (State.reset.dev.ctx c).gen = 0#32 ∧ (State.reset.dev.ctx c).wdog = 2 ^ 20 := by
    intro c
    rw [reset_ctx]
    exact ⟨rfl, rfl, rfl⟩
  have hlimit : ∀ f, State.reset.mgmt.limit f = 1000 := fun _ => rfl
  exact ⟨reset_memOk, Memory.read_nil, rfl, rfl, rfl, rfl, rfl, hlimit, hctx, rfl, rfl, rfl, rfl, rfl, rfl⟩

end Sys2Proof.Machine
end

section
/-!
PROOFS, 02 blocks and threads: what moving bytes changes. A read or a write of memory changes caches, maps and logs of the device, and
nothing of its threads, instances or tokens.
-/

namespace Sys2Proof.Machine

/-! ### What a read or a write of memory changes of the device -/

/-- Nothing of a grid differs but the lines and the rights that it caches. -/
def Grid.SameButCaches (g g' : Grid) : Prop := ∃ l1 plb, g' = { g with l1 := l1, plb := plb }

/-- Nothing of a context differs but its revisions with their maps, its undo log and its trace. -/
def Ctx.SameButMaps (k k' : Ctx) : Prop :=
  ∃ revs mapFrames mapRecs log trace, k' = { k with revs := revs, mapFrames := mapFrames, mapRecs := mapRecs, log := log, trace := trace }

/-- Between two devices bytes have moved: caches, maps and logs may differ, and what is under way to memory; threads, instances,
tokens, groups, fields and all the rest are the same. -/
structure Dev.Moves (d d' : Dev) : Prop where
  rest : ∃ freeCtr grids ctxs rels spStores pool tcaches l2 remotes heldReqs, d' = { d with
    freeCtr := freeCtr, grids := grids, ctxs := ctxs, rels := rels, spStores := spStores, pool := pool, tcaches := tcaches,
    l2 := l2, remotes := remotes, heldReqs := heldReqs }
  grid : ∀ g, (d.grid g).SameButCaches (d'.grid g)
  ctx : ∀ c, (d.ctx c).SameButMaps (d'.ctx c)

/-- The same of two work areas: neither the management registers nor the memory below differ. -/
structure W.Moves (w w' : W) : Prop where
  dev : w.d.Moves w'.d
  g : w'.g = w.g
  base : w'.base = w.base

theorem Grid.SameButCaches.refl (g : Grid) : g.SameButCaches g := ⟨_, _, rfl⟩
theorem Ctx.SameButMaps.refl (k : Ctx) : k.SameButMaps k := ⟨_, _, _, _, _, rfl⟩

theorem Grid.SameButCaches.trans {a b c : Grid} (h : a.SameButCaches b) (h' : b.SameButCaches c) : a.SameButCaches c := by
  obtain ⟨_, _, rfl⟩ := h
  obtain ⟨_, _, rfl⟩ := h'
  exact ⟨_, _, rfl⟩
theorem Ctx.SameButMaps.trans {a b c : Ctx} (h : a.SameButMaps b) (h' : b.SameButMaps c) : a.SameButMaps c := by
  obtain ⟨_, _, _, _, _, rfl⟩ := h
  obtain ⟨_, _, _, _, _, rfl⟩ := h'
  exact ⟨_, _, _, _, _, rfl⟩

theorem Dev.Moves.refl (d : Dev) : d.Moves d := ⟨⟨_, _, _, _, _, _, _, _, _, _, rfl⟩, fun _ => .refl _, fun _ => .refl _⟩
theorem Dev.Moves.trans {a b c : Dev} (h : a.Moves b) (h' : b.Moves c) : a.Moves c := by
  refine ⟨?_, fun g => (h.grid g).trans (h'.grid g), fun k => (h.ctx k).trans (h'.ctx k)⟩
  obtain ⟨_, _, _, _, _, _, _, _, _, _, hb⟩ := h.rest
  obtain ⟨_, _, _, _, _, _, _, _, _, _, hc⟩ := h'.rest
  subst hb
  exact ⟨_, _, _, _, _, _, _, _, _, _, hc⟩
theorem W.Moves.refl (w : W) : w.Moves w := ⟨.refl _, rfl, rfl⟩
theorem W.Moves.trans {a b c : W} (h : a.Moves b) (h' : b.Moves c) : a.Moves c :=
  ⟨h.dev.trans h'.dev, h'.g.trans h.g, h'.base.trans h.base⟩

/-! What stays. -/

section
variable {d d' : Dev} (h : d.Moves d')
include h
theorem Dev.Moves.threads : d'.threads = d.threads := by obtain ⟨_, _, _, _, _, _, _, _, _, _, rfl⟩ := h.rest; rfl
theorem Dev.Moves.insts : d'.insts = d.insts := by obtain ⟨_, _, _, _, _, _, _, _, _, _, rfl⟩ := h.rest; rfl
theorem Dev.Moves.flight : d'.flight = d.flight := by obtain ⟨_, _, _, _, _, _, _, _, _, _, rfl⟩ := h.rest; rfl
theorem Dev.Moves.groups : d'.groups = d.groups := by obtain ⟨_, _, _, _, _, _, _, _, _, _, rfl⟩ := h.rest; rfl
theorem Dev.Moves.fields : d'.fields = d.fields := by obtain ⟨_, _, _, _, _, _, _, _, _, _, rfl⟩ := h.rest; rfl
theorem Dev.Moves.focus : d'.focus = d.focus := by obtain ⟨_, _, _, _, _, _, _, _, _, _, rfl⟩ := h.rest; rfl
theorem Dev.Moves.waits : d'.waits = d.waits := by obtain ⟨_, _, _, _, _, _, _, _, _, _, rfl⟩ := h.rest; rfl
theorem Dev.Moves.thr (t : Nat) : d'.thr t = d.thr t := by simp [Dev.thr, h.threads]
theorem Dev.Moves.inst (n : Nat) : d'.inst n = d.inst n := by simp [Dev.inst, h.insts]
end

/-! The steps that moving bytes is made of. -/

/-- An update of what is neither a grid nor a context. -/
theorem Dev.Moves.of_rest (d : Dev) (freeCtr : Nat) (rels : List Rel) (spStores : List SpStore) (pool : List Nat)
    (tcaches : List TcEnt) (l2 : List L2Line) (remotes : List Remote) (heldReqs : List HeldReq) :
    d.Moves { d with freeCtr := freeCtr, rels := rels, spStores := spStores, pool := pool, tcaches := tcaches, l2 := l2,
                     remotes := remotes, heldReqs := heldReqs } :=
  ⟨⟨_, _, _, _, _, _, _, _, _, _, rfl⟩, fun _ => .refl _, fun _ => .refl _⟩

theorem Dev.Moves.modGrid (d : Dev) (g : Nat) {f : Grid → Grid} (h : ∀ x : Grid, x.SameButCaches (f x)) : d.Moves (d.modGrid g f) := by
  refine ⟨⟨_, _, _, _, _, _, _, _, _, _, rfl⟩, fun n => ?_, fun _ => .refl _⟩
  by_cases hn : n = g
  · subst hn; simpa using h _
  · rw [Dev.grid_modGrid_ne _ _ hn]; exact .refl _

theorem Dev.Moves.setCtx (d : Dev) (c : Nat) {k : Ctx} (h : (d.ctx c).SameButMaps k) : d.Moves (d.setCtx c k) := by
  refine ⟨⟨_, _, _, _, _, _, _, _, _, _, rfl⟩, fun _ => .refl _, fun n => ?_⟩
  by_cases hn : n = c
  · subst hn; simpa using h
  · rw [Dev.ctx_setCtx_ne _ _ hn]; exact .refl _

theorem Dev.Moves.modCtx (d : Dev) (c : Nat) {f : Ctx → Ctx} (h : ∀ k : Ctx, k.SameButMaps (f k)) : d.Moves (d.modCtx c f) :=
  .setCtx d c (h _)

/-- A table whose records are changed in place is read through the change. -/
theorem Tbl.look_map {α : Type} (t : Tbl α) (f : α → α) (k : Nat) :
    Tbl.look (t.map fun p => (p.1, f p.2)) k = (t.look k).map f := by
  induction t with
  | nil => rfl
  | cons p r ih =>
    obtain ⟨k', a⟩ := p
    by_cases h : k' = k <;> simp [Tbl.look, h, ih]

theorem Dev.Moves.mapGrids (d : Dev) {f : Grid → Grid} (h : ∀ x : Grid, x.SameButCaches (f x)) :
    d.Moves { d with grids := d.grids.map fun p => (p.1, f p.2) } := by
  refine ⟨⟨_, _, _, _, _, _, _, _, _, _, rfl⟩, fun n => ?_, fun _ => .refl _⟩
  simp only [Dev.grid, Tbl.get, Tbl.look_map]
  cases Tbl.look d.grids n with
  | none => exact .refl _
  | some x => exact h x

/-- A list of steps, each of which only moves bytes. -/
theorem W.Moves.foldl {α : Type} {f : W → α → W} (h : ∀ (w : W) (a : α), w.Moves (f w a)) (l : List α) (w : W) : w.Moves (l.foldl f w) := by
  induction l generalizing w with
  | nil => exact .refl _
  | cons a r ih => exact (h w a).trans (ih _)
theorem Dev.Moves.foldl {α : Type} {f : Dev → α → Dev} (h : ∀ (d : Dev) (a : α), d.Moves (f d a)) (l : List α) (d : Dev) : d.Moves (l.foldl f d) := by
  induction l generalizing d with
  | nil => exact .refl _
  | cons a r ih => exact (h d a).trans (ih _)

/-- A change of the device inside a work area. -/
theorem W.Moves.ofDev {w : W} {d : Dev} (h : w.d.Moves d) : w.Moves { w with d := d } := ⟨h, rfl, rfl⟩
/-- Bytes written change nothing of the device. -/
theorem W.Moves.wr (w : W) (k : Nat) (v : Byte) : w.Moves (w.wr k v) := ⟨.refl _, rfl, rfl⟩
theorem W.Moves.wrs (w : W) (cs : List Host.Cell) : w.Moves (w.wrs cs) := .foldl (fun w (c : Host.Cell) => W.Moves.wr w c.1 c.2) cs w
theorem W.Moves.wr64 (w : W) (k v : Nat) : w.Moves (w.wr64 k v) := .wrs w _
theorem W.Moves.copyKeys (w : W) (a b n : Nat) : w.Moves (w.copyKeys a b n) := .wrs w _

theorem W.Moves.setLeaf (w : W) (x : Nat) (l : Leaf) (a b : Nat) : w.Moves (w.setLeaf x l a b) :=
  ((W.Moves.wr64 w _ _).trans (.wr64 _ _ _)).trans (.ofDev (.of_rest ..))

theorem Ctx.growMap_same (k : Ctx) (page n : Nat) : k.SameButMaps (k.growMap page n) := by
  induction n generalizing k with
  | zero => exact .refl _
  | succ n ih =>
    rw [Ctx.growMap]
    split
    · exact Ctx.SameButMaps.trans ⟨_, _, _, _, _, rfl⟩ (ih _)
    · exact .refl _

theorem W.Moves.writeMap (w : W) (c page : Nat) (more : Bool) : w.Moves (w.writeMap c page more) := by
  have hpool : ∀ (o : Option Nat) (k : Ctx) (n : Nat), (w.d.ctx c).SameButMaps k →
      let r : Ctx × Dev := match o with
        | some f => ({ k with mapFrames := k.mapFrames ++ [f] }, { w.d with pool := w.d.pool.erase f })
        | none => (k, w.d)
      w.d.Moves (r.2.setCtx c (r.1.growMap page n)) := by
    intro o k n hk
    cases o with
    | none => exact .setCtx _ _ (hk.trans (Ctx.growMap_same _ _ _))
    | some f =>
      have hk' := (hk.trans (c := { k with mapFrames := k.mapFrames ++ [f] }) ⟨_, _, _, _, _, rfl⟩).trans (Ctx.growMap_same _ page n)
      exact (Dev.Moves.of_rest ..).trans (.setCtx _ _ hk')
  unfold W.writeMap
  extract_lets k es need kept k1 short d r k2 chain w1
  have hset := hpool (if short = true then w.d.poolFree.head? else none) k1 (need - kept.length) ⟨_, _, _, _, _, rfl⟩
  have hw1 : w.Moves w1 := (W.Moves.ofDev hset).trans (.foldl (fun w p => .wr64 w _ _) _ _)
  split
  next l _ =>
    split
    · exact hw1.trans (.setLeaf ..)
    · exact hw1
  next => exact hw1

theorem W.Moves.cow (w : W) (c rnum x : Nat) : w.Moves (w.cow c rnum x) := by
  unfold W.cow
  split
  next =>
    split
    next key w0 _ =>
      split
      next =>
        dsimp only
        split
        · exact .refl _
        · split
          · exact .refl _
          · exact ((W.Moves.copyKeys ..).trans (.ofDev (.modCtx _ _ fun _ => ⟨_, _, _, _, _, rfl⟩))).trans (.writeMap ..)
      next => exact .refl _
    next => exact .refl _
  next => exact .refl _

theorem W.Moves.homeWrite (w : W) (c rnum : Nat) (cs : List Host.Cell) : w.Moves (w.homeWrite c rnum cs) := by
  induction cs generalizing w with
  | nil => rw [W.homeWrite]; exact .refl _
  | cons p r ih =>
    obtain ⟨x, b⟩ := p
    rw [W.homeWrite]
    refine ((W.Moves.cow w c rnum x).trans ?_).trans (ih _)
    split
    · exact .wr ..
    · exact .refl _

theorem Dev.Moves.tcFillIn (d : Dev) (u x : Nat) (l : Leaf) : d.Moves (d.tcFillIn u x l) := .of_rest ..
theorem Dev.Moves.l2Set (d : Dev) (l : L2Line) : d.Moves (d.l2Set l) := .of_rest ..
theorem Dev.Moves.l2Drop (d : Dev) (q rid : Nat) : d.Moves (d.l2Drop q rid) := .of_rest ..
theorem Dev.Moves.fresh (d : Dev) : d.Moves d.fresh.2 := .of_rest ..

theorem W.Moves.touchIn (w : W) (u x : Nat) : w.Moves (w.touchIn u x) := by
  unfold W.touchIn
  split
  next => exact .refl _
  next =>
    split
    next => exact .refl _
    next =>
      split
      next l _ =>
        split
        · exact .refl _
        · exact .ofDev (.tcFillIn ..)
      next => exact .refl _
theorem W.Moves.touch (w : W) (x : Nat) : w.Moves (w.touch x) := .touchIn ..

theorem W.Moves.rights (w : W) (g c x : Nat) : w.Moves (w.rights g c x).2 := by
  unfold W.rights
  split
  next => exact .refl _
  next =>
    split
    next => exact .refl _
    next pd _ => exact .ofDev (.modGrid _ _ fun _ => ⟨_, _, rfl⟩)

/-- A list of steps that carry an answer along, each of which only moves bytes. -/
theorem W.Moves.foldlPair {α β : Type} {f : β × W → α → β × W} (h : ∀ (p : β × W) (a : α), p.2.Moves (f p a).2) (l : List α)
    (p : β × W) : p.2.Moves (l.foldl f p).2 := by
  induction l generalizing p with
  | nil => exact .refl _
  | cons a r ih => exact (h p a).trans (ih _)

theorem W.Moves.rightsAll (w : W) (g c need base len : Nat) : w.Moves (w.rightsAll g c need base len).2 :=
  W.Moves.foldlPair (β := Bool) (fun p _ => W.Moves.rights p.2 ..) _ (true, w)

theorem Dev.Moves.l2Fill (d : Dev) (c : Nat) (l : L2Line) : d.Moves (d.l2Fill c l) := by
  unfold Dev.l2Fill
  dsimp only
  split
  next => exact .l2Set ..
  next =>
    split
    · exact .refl _
    · exact ((Dev.Moves.fresh d).trans (.l2Drop ..)).trans (.l2Set ..)

theorem W.Moves.dropHost (w : W) (line : Nat) : w.Moves (w.dropHost line) := by
  unfold W.dropHost
  extract_lets at2 w1 at1 w2
  have h1 : w.Moves w1 := .foldl (fun w l => .homeWrite w ..) _ _
  have h2 : w.Moves w2 := h1.trans (.foldl (fun w l => .homeWrite w ..) _ _)
  refine h2.trans (.ofDev ((Dev.Moves.mapGrids w2.d (f := fun x => { x with l1 := x.l1.filter (fun l => l.line / 8 != line) })
    fun _ => ⟨_, _, rfl⟩).trans (Dev.Moves.of_rest _ _ _ _ _ _ (w2.d.l2.filter (fun l => l.line / 8 != line)) _ _)))

theorem W.Moves.filterRoom (w : W) (line : Nat) : w.Moves (w.filterRoom line) := by
  unfold W.filterRoom
  split
  next => exact .refl _
  next =>
    dsimp only
    split
    · exact .refl _
    · split
      · exact (W.Moves.ofDev (.fresh _)).trans (.dropHost ..)
      · exact .refl _

theorem W.Moves.l2Use (w : W) (c rid line : Nat) : w.Moves (w.l2Use c rid line) := by
  unfold W.l2Use
  split
  next => exact .refl _
  next => exact (W.Moves.touch ..).trans (.ofDev (.l2Fill ..))

theorem W.Moves.l2Room (w : W) (c line : Nat) : w.Moves (w.l2Room c line) := by
  unfold W.l2Room
  dsimp only
  split
  next => exact .refl _
  next => exact ((W.Moves.ofDev (.fresh _)).trans (.foldl (fun w m => .homeWrite w ..) _ _)).trans (.ofDev (.l2Drop ..))

theorem W.Moves.home (w : W) (c rnum line : Nat) : w.Moves (w.home c rnum line).2 := by
  unfold W.home
  dsimp only
  split
  · exact .refl _
  · split
    next => exact .refl _
    next => exact .refl _
    next => exact .refl _
    next key _ _ =>
      split
      · exact .l2Use ..
      · split
        next l _ =>
          split
          · exact .refl _
          · split
            · exact .refl _
            · split
              · exact .refl _
              · exact (W.Moves.touch ..).trans (.ofDev (.l2Set ..))
        next =>
          split
          · exact .refl _
          · split
            · exact .refl _
            · exact ((W.Moves.touch ..).trans (.filterRoom ..)).trans (.ofDev (.l2Fill ..))

theorem W.Moves.pkgWriteLine (w : W) (c rnum line : Nat) (cs : List Host.Cell) : w.Moves (w.pkgWriteLine c rnum line cs) := by
  unfold W.pkgWriteLine
  split
  next => exact .refl _
  next x _ _ =>
    split
    next =>
      split
      next =>
        dsimp only
        split
        · exact (W.Moves.cow ..).trans (.ofDev (.of_rest ..))
        · exact .cow ..
      next => exact (W.Moves.l2Use ..).trans (.homeWrite ..)
    next => exact ((W.Moves.filterRoom ..).trans (.l2Room ..)).trans (.ofDev (.l2Set ..))

theorem Dev.Moves.noteWrite (d : Dev) (c rnum x : Nat) : d.Moves (d.noteWrite c rnum x) := by
  unfold Dev.noteWrite
  split
  · exact .modCtx _ _ fun _ => ⟨_, _, _, _, _, rfl⟩
  · exact .refl _

theorem W.Moves.pkgWrite (w : W) (c rnum : Nat) (cs : List Host.Cell) : w.Moves (w.pkgWrite c rnum cs) :=
  .foldl (fun w _ => (W.Moves.pkgWriteLine w ..).trans (.ofDev (.noteWrite ..))) _ _

theorem W.Moves.l2Flush (w : W) (c : Nat) (host : Bool) (only : Nat → Bool) : w.Moves (w.l2Flush c host only) := by
  refine .foldl (fun w l => ?_) _ _
  dsimp only
  split
  · exact (W.Moves.homeWrite ..).trans (.ofDev (.l2Set ..))
  · exact .refl _

theorem W.Moves.writeBack (w : W) (g : Nat) (l : L1Line) : w.Moves (w.writeBack g l) := by
  unfold W.writeBack
  split
  · exact .refl _
  · exact (W.Moves.pkgWrite ..).trans (.ofDev (.modGrid _ _ fun _ => ⟨_, _, rfl⟩))

theorem W.Moves.writeBackAll (w : W) (gs : List Nat) (pick : L1Line → Bool) : w.Moves (w.writeBackAll gs pick) :=
  .foldl (fun _ _ => .foldl (fun w _ => .writeBack w ..) _ _) _ _

theorem Dev.Moves.dropUnowned (d : Dev) (gs : List Nat) (pick : L1Line → Bool) : d.Moves (d.dropUnowned gs pick) :=
  .foldl (fun d _ => .modGrid d _ fun _ => ⟨_, _, rfl⟩) _ _

theorem W.Moves.landSp (w : W) (t : Nat) : w.Moves (w.landSp t) :=
  (W.Moves.foldl (fun w (s : SpStore) => .wrs w s.bytes) _ _).trans (.ofDev (.of_rest ..))

theorem W.Moves.ite {p : Prop} [Decidable p] {w a b : W} (ha : w.Moves a) (hb : w.Moves b) : w.Moves (if p then a else b) := by
  split
  · exact ha
  · exact hb

theorem W.Moves.releaseStep (w : W) (t c scope : Nat) (gs : List Nat) : w.Moves (w.releaseStep t c scope gs) := by
  have h1 : w.Moves (if 1 ≤ scope then w.landSp t else w) := .ite (.landSp ..) (.refl _)
  have h2 := h1.trans (.ite (p := 2 ≤ scope) (.writeBackAll _ gs fun _ => true) (.refl _))
  exact h2.trans (.ite (.l2Flush ..) (.refl _))

theorem W.Moves.performRel (w : W) (r : Rel) : w.Moves (w.performRel r) := by
  unfold W.performRel
  refine .ite (.refl _) ?_
  exact (W.Moves.releaseStep ..).trans (.ite (.refl _) (.ofDev (.of_rest ..)))

theorem W.Moves.performRels (w : W) (g : Nat) : w.Moves (w.performRels g) := .foldl (fun w _ => .performRel w _) _ _
theorem W.Moves.performRelsOf (w : W) (t : Nat) : w.Moves (w.performRelsOf t) := .foldl (fun w _ => .performRel w _) _ _

theorem Dev.Moves.ite {p : Prop} [Decidable p] {d a b : Dev} (ha : d.Moves a) (hb : d.Moves b) : d.Moves (if p then a else b) := by
  split
  · exact ha
  · exact hb

theorem Dev.Moves.acquire (d : Dev) (scope : Nat) (gs : List Nat) (remote : Nat → Bool) : d.Moves (d.acquire scope gs remote) := by
  have h1 : d.Moves (if 2 ≤ scope then d.dropUnowned gs (fun _ => true) else d) := .ite (.dropUnowned ..) (.refl _)
  exact .ite (h1.trans (.of_rest ..)) h1
theorem W.Moves.acquireBy (w : W) (scope : Nat) (gs : List Nat) : w.Moves (w.acquireBy scope gs) := .ofDev (.acquire ..)

theorem Dev.Moves.patchLines (d : Dev) (gs : List Nat) (cs : List Host.Cell) : d.Moves (d.patchLines gs cs) :=
  .foldl (fun d _ => .modGrid d _ fun _ => ⟨_, _, rfl⟩) _ _

theorem Dev.Moves.l1Fill (d : Dev) (g sets : Nat) (l : L1Line) : d.Moves (d.l1Fill g sets l) := by
  have hset : ∀ x : Grid, x.SameButCaches (x.l1Set l) := fun _ => ⟨_, _, rfl⟩
  unfold Dev.l1Fill
  dsimp only
  split
  · exact .modGrid _ _ hset
  · split
    · exact .modGrid _ _ hset
    · split
      · exact .refl _
      · exact (Dev.Moves.fresh d).trans (.modGrid _ _ fun _ => ⟨_, _, rfl⟩)

theorem W.Moves.l1Read (w : W) (c rnum g line : Nat) : w.Moves (w.l1Read c rnum g line).2 := by
  have hhome := W.Moves.home w c rnum line
  unfold W.l1Read
  dsimp only
  split
  next l _ =>
    split
    · exact .refl _
    · split
      next e => rw [e] at hhome; exact hhome.trans (.ofDev (.l1Fill ..))
      next => exact hhome
  next =>
    split
    next e => rw [e] at hhome; exact hhome.trans (.ofDev (.l1Fill ..))
    next => exact hhome

theorem W.Moves.l1Room (w : W) (c g line rid : Nat) : w.Moves (w.l1Room c g line rid) := by
  unfold W.l1Room
  refine .ite (.refl _) (.ite (.refl _) ?_)
  dsimp only
  split
  · exact .performRels ..
  · exact (((W.Moves.performRels ..).trans (.ofDev (.fresh _))).trans (.writeBack ..)).trans
      (.ofDev (.modGrid _ _ fun _ => ⟨_, _, rfl⟩))

theorem W.Moves.l1Write (w : W) (c rnum g : Nat) (cs : List Host.Cell) : w.Moves (w.l1Write c rnum g cs) :=
  .foldl (fun w _ => (W.Moves.l1Room w ..).trans (.ofDev (.modGrid _ _ fun _ => ⟨_, _, rfl⟩))) _ _

theorem W.Moves.readLines (w : W) (t : Thread) (rnum : Nat) (ls : List Nat) : w.Moves (w.readLines t rnum ls).2 := by
  induction ls generalizing w with
  | nil => rw [W.readLines]; exact .refl _
  | cons l r ih =>
    have h1 := W.Moves.l1Read w t.ctx rnum (t.accessGrid (32 * l)) l
    rw [W.readLines]
    split
    next bs w1 e =>
      rw [e] at h1
      have h2 := ih w1
      dsimp only
      split
      next e2 => rw [e2] at h2; exact h1.trans h2
      next => exact h1.trans h2
    all_goals (next e => rw [e] at h1; exact h1)

theorem W.Moves.loadCells (w : W) (x : Inst) (t : Thread) (l : Nat) (as : List Nat) : w.Moves (w.loadCells x t l as).2 := by
  have h := W.Moves.readLines w t (w.d.rnumOf t) ((as.map lineOf).eraseDups)
  unfold W.loadCells
  split
  all_goals (next e => rw [e] at h; exact h)

theorem W.Moves.check (w : W) (t : Thread) (need : BitVec 3) (a n align : Nat) : w.Moves (w.check t need a n align).2 := by
  unfold W.check
  split
  · exact .refl _
  · split
    · exact .refl _
    · dsimp only
      split
      · exact .rights ..
      · split
        · exact .rights ..
        · exact (W.Moves.rights ..).trans (.rights ..)

theorem W.Moves.probe (w : W) (t : Thread) (a : Nat) : w.Moves (w.probe t a).2 := by
  unfold W.probe
  dsimp only
  split
  · exact .refl _
  · exact .ite (.refl _) (.touch ..)

theorem W.Moves.acquireLines (w : W) (t : Thread) (scope a n : Nat) : w.Moves (w.acquireLines t scope a n) := by
  unfold W.acquireLines
  extract_lets hit w1 far w2
  have h1 : w.Moves w1 := .ite (.ofDev (.dropUnowned ..)) (.refl _)
  exact .ite ((h1.trans (.l2Flush ..)).trans (.ofDev (.of_rest ..))) h1

theorem W.Moves.logWrite (w : W) (c : Nat) (es : List (Nat × LogEnt)) : w.Moves (w.logWrite c es) := by
  unfold W.logWrite
  dsimp only
  split
  · exact .refl _
  · split
    · exact .refl _
    · next l at_ _ =>
      refine (W.Moves.foldl (fun w p => .pkgWrite w ..) at_ w).trans (.ofDev ?_)
      have hlog := fun (b : Bool) => Dev.Moves.modCtx (W.d (at_.foldl (fun w p =>
        w.pkgWrite c 0 (cellsAt ((w.d.ctx c).log.base + 65536 * p.1 + 64 * p.2.1) (p.2.2.words.flatMap (leBytes 8)))) w)) c
        (f := fun q => { q with log := { l with asked75 := b } }) fun _ => ⟨_, _, _, _, _, rfl⟩
      split
      · exact (Dev.Moves.modCtx _ c fun _ => ⟨_, _, _, _, _, rfl⟩).trans (.of_rest ..)
      · exact .modCtx _ c fun _ => ⟨_, _, _, _, _, rfl⟩

theorem W.Moves.loggedWrite (w : W) (c rnum seq who : Nat) (cs : List Host.Cell) : w.Moves (w.loggedWrite c rnum seq who cs) :=
  (W.Moves.ite (.logWrite ..) (.refl _)).trans (.pkgWrite ..)

theorem W.Moves.homeLines (w : W) (c rnum : Nat) (ls : List Nat) : w.Moves (w.homeLines c rnum ls).2 := by
  refine W.Moves.foldlPair (fun p l => ?_) _ (Rd.ok [], w)
  obtain ⟨q, w⟩ := p
  cases q with
  | ok q =>
    have h := W.Moves.home w c rnum l
    dsimp only
    split
    all_goals (next e => rw [e] at h; exact h)
  | _ => exact .refl _

theorem W.Moves.readHome (w : W) (c rnum x n : Nat) : w.Moves (w.readHome c rnum x n).2 := by
  have h := W.Moves.homeLines w c rnum (((span x n).map lineOf).eraseDups)
  unfold W.readHome
  split
  all_goals (next e => rw [e] at h; exact h)

theorem W.Moves.readRec (w : W) (c x : Nat) : w.Moves (w.readRec c x).2 := by
  have h := W.Moves.readHome w c 0 x 64
  unfold W.readRec
  split
  · exact .refl _
  · split
    all_goals (next e => rw [e] at h; exact h)

theorem W.Moves.frameCount (w : W) (c rnum a : Nat) : w.Moves (w.frameCount c rnum a).2 := by
  have h := W.Moves.readHome w c rnum a 4
  unfold W.frameCount
  split
  all_goals (next e => rw [e] at h; exact h)

theorem W.Moves.lock (w : W) (x : Nat) : w.Moves (w.lock x) := by
  unfold W.lock
  split
  · exact .refl _
  · exact .setLeaf ..
theorem W.Moves.lockAll (w : W) (l : List Nat) : w.Moves (w.lockAll l) := .foldl (fun w x => .lock w x) _ _

theorem W.Moves.checkPages (w : W) (g c rnum : Nat) (need : BitVec 3) (l : List (Nat × Nat)) :
    w.Moves (w.checkPages g c rnum need l).2 := by
  refine W.Moves.foldlPair (fun p x => ?_) _ (Pages.ok [], w)
  obtain ⟨q, w⟩ := p
  dsimp only
  split
  next =>
    have h := W.Moves.rights w g c x
    split
    · exact h
    · split
      · split
        · split
          · exact h
          · exact h
        · exact h
      all_goals exact h
  next => exact .refl _

end Sys2Proof.Machine
end

section
/-!
PROOFS, 02 blocks and threads: what no instruction of a block changes, and that no step is refused.
-/

namespace Sys2Proof.Machine

/-! ### What no instruction of a block changes of a thread -/

/-- What a block can write of its thread, with its core: registers, flags, generator, core and the count of commits. -/
def Thread.written (u : Thread) : Tbl Vec × Word × Word × Nat × Nat × Nat := (u.regs, u.flags, u.prng, u.first, u.width, u.commitSeq)

/-- The same threads are there, and what a block can write of them is the same. -/
structure Dev.SameRegs (d d' : Dev) : Prop where
  thr (n : Nat) : (d'.thr n).map Thread.written = (d.thr n).map Thread.written

theorem Dev.SameRegs.refl (d : Dev) : d.SameRegs d := ⟨fun _ => rfl⟩
theorem Dev.SameRegs.trans {a b c : Dev} (h : a.SameRegs b) (h' : b.SameRegs c) : a.SameRegs c :=
  ⟨fun n => (h'.thr n).trans (h.thr n)⟩
theorem Dev.SameRegs.of_threads {d d' : Dev} (h : d'.threads = d.threads) : d.SameRegs d' :=
  ⟨fun n => by simp [Dev.thr, h]⟩
theorem Dev.Moves.sameRegs {d d' : Dev} (h : d.Moves d') : d.SameRegs d' := .of_threads h.threads
theorem W.Moves.sameRegs {w w' : W} (h : w.Moves w') : w.d.SameRegs w'.d := h.dev.sameRegs

theorem Dev.SameRegs.ite {p : Prop} [Decidable p] {d a b : Dev} (ha : d.SameRegs a) (hb : d.SameRegs b) :
    d.SameRegs (if p then a else b) := by
  split
  · exact ha
  · exact hb

theorem Dev.SameRegs.foldl {α : Type} {f : Dev → α → Dev} (h : ∀ (d : Dev) (a : α), d.SameRegs (f d a)) (l : List α) (d : Dev) :
    d.SameRegs (l.foldl f d) := by
  induction l generalizing d with
  | nil => exact .refl _
  | cons a r ih => exact (h d a).trans (ih _)
theorem W.sameRegs_foldl {α : Type} {f : W → α → W} (h : ∀ (w : W) (a : α), w.d.SameRegs (f w a).d) (l : List α) (w : W) :
    w.d.SameRegs (l.foldl f w).d := by
  induction l generalizing w with
  | nil => exact .refl _
  | cons a r ih => exact (h w a).trans (ih _)

/-- A thread changed in what no block writes. -/
theorem Dev.SameRegs.modThr (d : Dev) (t : Nat) {f : Thread → Thread} (h : ∀ u : Thread, (f u).written = u.written) :
    d.SameRegs (d.modThr t f) := by
  refine ⟨fun n => ?_⟩
  unfold Dev.modThr
  cases hx : d.thr t with
  | none => rfl
  | some x =>
    by_cases hn : n = t
    · subst hn; simp [hx, h]
    · simp [Dev.thr_setThr_ne _ _ hn]

/-! The frame of each operation on instances. -/

theorem Dev.SameRegs.modInst (d : Dev) (iid : Nat) (f : Inst → Inst) : d.SameRegs (d.modInst iid f) := by
  unfold Dev.modInst
  split
  · exact .of_threads rfl
  · exact .refl _
theorem Dev.SameRegs.emit (d : Dev) (c : Firing) (o : Out) : d.SameRegs (d.emit c o) := .of_threads rfl
theorem Dev.SameRegs.answer (d : Dev) (c : Firing) (es : List Eff) (o : Out) : d.SameRegs (d.answer c es o) := .of_threads rfl
theorem Dev.SameRegs.addEffs (d : Dev) (iid : Nat) (es : List (Nat × Nat × Eff)) : d.SameRegs (d.addEffs iid es) := .modInst ..
theorem Dev.SameRegs.dropTokens (d : Dev) (iid : Nat) : d.SameRegs (d.dropTokens iid) := .of_threads rfl
theorem Dev.SameRegs.gcPlanes (d : Dev) (g : Nat) : d.SameRegs (d.gcPlanes g) := .of_threads rfl
theorem Dev.SameRegs.gcThread (d : Dev) (t : Nat) : d.SameRegs (d.gcThread t) := by
  unfold Dev.gcThread
  split
  · exact .foldl (fun d _ => .gcPlanes d _) _ _
  · exact .refl _
theorem Dev.SameRegs.restoreTiles (d : Dev) (x : Inst) : d.SameRegs (d.restoreTiles x) := by
  refine .foldl (fun d p => ?_) _ _
  exact .modThr _ _ fun _ => rfl
theorem Dev.SameRegs.undoMatrix (d : Dev) (x : Inst) : d.SameRegs (d.undoMatrix x) := by
  have hunits : (d.restoreTiles x).SameRegs (d.undoMatrix x) := by
    refine .trans (.foldl (f := fun d (m : MStep) => m.units.foldl (fun d u =>
      d.modGrid u.1 (fun g => { g with wtags := g.wtags.set u.2 .empty })) d) ?_ x.msteps _) (.of_threads rfl)
    intro d m
    refine .foldl (fun d u => ?_) _ _
    exact .of_threads rfl
  exact (Dev.SameRegs.restoreTiles d x).trans hunits
theorem Dev.SameRegs.setAgain (d : Dev) (x : Inst) : d.SameRegs (d.setAgain x) := by
  refine .foldl (fun d e => ?_) _ _
  split
  · exact .modThr _ _ fun _ => rfl
  · exact .of_threads rfl
  · exact .refl _
theorem Dev.SameRegs.unbind (d : Dev) (x : Inst) : d.SameRegs (d.unbind x) := .ite (.of_threads rfl) (.refl _)

theorem Dev.SameRegs.dropInst (d : Dev) (iid : Nat) : d.SameRegs (d.dropInst iid) := by
  unfold Dev.dropInst
  split
  next => exact .refl _
  next x _ =>
    have hleave := ((Dev.SameRegs.dropTokens d iid).trans (.setAgain _ x)).trans (.unbind _ x)
    refine .ite (hleave.trans (.of_threads rfl)) ((hleave.trans (.undoMatrix _ x)).trans ?_)
    exact .of_threads rfl
theorem Dev.SameRegs.dropFrom (d : Dev) (t seq iid : Nat) : d.SameRegs (d.dropFrom t seq iid) := by
  unfold Dev.dropFrom
  split
  · exact .ite (.dropInst ..) (.refl _)
  · exact .refl _
theorem Dev.SameRegs.flushFrom (d : Dev) (t seq : Nat) : d.SameRegs (d.flushFrom t seq) := by
  unfold Dev.flushFrom
  dsimp only
  split
  · exact .refl _
  · refine .trans (.trans (.foldl (fun d p => ?_) _ d) (.modThr _ _ fun u => ?_)) (.gcThread ..)
    · exact .dropFrom ..
    · rfl
theorem Dev.SameRegs.redirect (d : Dev) (t : Nat) (b : Option Nat) : d.SameRegs (d.redirect t b) := .modThr _ _ fun _ => rfl

theorem Dev.SameRegs.hold (d : Dev) (iid : Nat) (p : Pend) (page : Option Nat) : d.SameRegs (d.hold iid p page) := by
  unfold Dev.hold
  split
  next => exact .refl _
  next x _ =>
    refine .ite (.refl _) ?_
    have hflush := (((Dev.SameRegs.flushFrom d x.thr (x.seq + 1)).trans (.dropTokens _ iid)).trans (.setAgain _ x)).trans (.unbind _ x)
    have hundo := hflush.trans (.ite (p := x.running) (.refl _) (.undoMatrix _ x))
    refine (hundo.trans (.trans ?_ (.redirect _ x.thr none))).trans (.gcPlanes ..)
    exact .of_threads rfl
theorem Dev.SameRegs.holdAt (d : Dev) (c : Firing) (q : Cause) (a b e : Nat) : d.SameRegs (d.holdAt c q a b e) := .hold ..
theorem Dev.SameRegs.conflict (d : Dev) (iid k e o : Nat) : d.SameRegs (d.conflict iid k e o) := .hold ..

theorem Dev.SameRegs.followExit (d : Dev) (iid : Nat) (e : ExitFired) : d.SameRegs (d.followExit iid e) := by
  unfold Dev.followExit
  split
  · exact .refl _
  · refine .trans ?_ (.modThr _ _ fun u => ?_)
    · exact .of_threads rfl
    · rfl
theorem Dev.SameRegs.exitFired (d : Dev) (c : Firing) (e : ExitFired) (es : List Eff) (o : Out) : d.SameRegs (d.exitFired c e es o) := by
  unfold Dev.exitFired
  refine .ite (.conflict ..) ?_
  extract_lets _ d1
  have h1 : d.SameRegs d1 := .answer ..
  split
  · exact .ite (h1.trans (.followExit ..)) h1
  · exact h1

theorem Dev.SameRegs.waitDone (d : Dev) (iid idx : Nat) : d.SameRegs (d.waitDone iid idx) := by
  unfold Dev.waitDone
  extract_lets e
  have he : d.SameRegs e := .of_threads rfl
  split
  · exact he
  · exact he.trans (.modThr _ _ fun u => by unfold Thread.awake; split <;> rfl)
theorem Dev.SameRegs.fillStore (d : Dev) (c : Firing) (l : Nat) (e : Option Eff) (a : Option Access) (o : Out) :
    d.SameRegs (d.fillStore c l e a o) := .ite (.conflict ..) (.emit ..)
theorem Dev.SameRegs.loadDone (d : Dev) (c : Firing) (l : Nat) (scr : Option Nat) (cs : List Host.Cell) (o : Out) :
    d.SameRegs (d.loadDone c l scr cs o) := by
  unfold Dev.loadDone
  split
  · exact .ite (.flushFrom ..) ((Dev.SameRegs.flushFrom ..).trans (.emit ..))
  · exact .emit ..
theorem Dev.SameRegs.violate (d : Dev) (x : Inst) (scr : Option Nat) (as : List Nat) : d.SameRegs (d.violate x scr as) := by
  unfold Dev.violate
  split
  · exact .refl _
  · exact (Dev.SameRegs.flushFrom ..).trans (.of_threads rfl)
theorem Dev.SameRegs.acquireFlush (d : Dev) (x : Inst) : d.SameRegs (d.acquireFlush x) := by
  unfold Dev.acquireFlush
  split
  · exact .flushFrom ..
  · exact .refl _
theorem Dev.SameRegs.refill (d : Dev) (t : Nat) : d.SameRegs (d.refill t) := .modThr _ _ fun u => by split <;> rfl
theorem Dev.SameRegs.pairDropped (d : Dev) (c : Firing) : d.SameRegs (d.pairDropped c) := by
  unfold Dev.pairDropped
  split
  · exact .refl _
  · split
    · exact .refl _
    · exact .ite (.of_threads rfl) (.refl _)
theorem Dev.sameRegs_joinFill {d d' : Dev} {field c blk n : Nat} {k : Word} {j h : List Nat}
    (e : d.joinFill field c k blk n j h = some d') : d.SameRegs d' := by
  unfold Dev.joinFill at e
  dsimp only at e
  split at e
  · cases e; exact .of_threads rfl
  · split at e
    · cases e
    · cases e; exact .of_threads rfl

/-! The frame of each operation that reads or writes memory. -/

theorem W.raisePage_threads (w : W) (c x how origin : Nat) (who : Option Requester) :
    (w.raisePage c x how origin who).2.threads = w.d.threads := by
  unfold W.raisePage
  dsimp only
  split
  · rfl
  · split
    · rfl
    · dsimp only
      split <;> rfl
theorem W.sameRegs_pageFault (w : W) (iid x how : Nat) : w.d.SameRegs (w.pageFault iid x how) := by
  unfold W.pageFault
  split
  · exact .refl _
  · dsimp only
    split
    · exact .refl _
    · exact .trans (.of_threads (w.raisePage_threads ..)) (.hold ..)
theorem Rd.sameRegs_fail {α : Type} (r : Rd α) (w : W) (c : Firing) (a write : Nat) : w.d.SameRegs (r.fail w c a write) := by
  cases r with
  | ok _ => exact .refl _
  | absent => exact w.sameRegs_pageFault ..
  | waits => exact .ite (.of_threads rfl) (.refl _)
  | ecc => exact .holdAt ..
  | lost => exact .holdAt ..
  | noRegion => exact .holdAt ..
theorem Rd.sameRegs_withFail {α : Type} (r : Rd α) (w : W) (c : Firing) (a write : Nat) :
    w.d.SameRegs ({ w with d := r.fail w c a write } : W).d := r.sameRegs_fail w c a write
theorem W.sameRegs_acquireFire (w : W) (c : Firing) (t : Thread) (scope : Nat) : w.d.SameRegs (w.acquireFire c t scope).d :=
  (W.Moves.acquireBy w scope t.grids).sameRegs.trans (.acquireFlush ..)
theorem W.sameRegs_notify (w : W) (c st q : Nat) : w.d.SameRegs (w.notify c st q).d := by
  unfold W.notify
  exact .trans (W.Moves.sameRegs (.wrs ..)) (.of_threads rfl)
theorem W.sameRegs_queueFault (w : W) (c n : Nat) : w.d.SameRegs (w.queueFault c n).d := by
  unfold W.queueFault
  dsimp only
  split
  · refine .trans ?_ (W.sameRegs_notify ..)
    exact .of_threads rfl
  · exact .refl _
theorem W.sameRegs_qRead (w : W) (c n i : Nat) : w.d.SameRegs (w.qRead c n i).2.d := by
  have h := (W.Moves.readHome w c 0 (((w.d.ctx c).queue n).entry i) 64).sameRegs
  unfold W.qRead
  dsimp only
  split
  · next e => rw [e] at h; exact h
  · next e => rw [e] at h; exact h.trans (W.sameRegs_queueFault ..)
  · next e => rw [e] at h; exact h

theorem W.sameRegs_flushBytes (w : W) (t s : Nat) (pick : Host.Cell → Bool) : w.d.SameRegs (w.flushBytes t s pick).d := by
  unfold W.flushBytes
  split
  · exact .refl _
  next u _ =>
    extract_lets w1 rnum st there out stuck w2 w3
    have h1 : w.d.SameRegs w1.d := (W.Moves.performRelsOf w t).sameRegs
    have h2 : w.d.SameRegs w2.d := h1.trans (W.Moves.loggedWrite w1 ..).sameRegs
    have h3 : w.d.SameRegs w3.d := (h2.trans (Dev.Moves.patchLines w2.d ..).sameRegs).trans (.modThr _ _ fun _ => rfl)
    clear_value stuck
    split
    · exact h1
    · cases stuck with
      | none => exact h3
      | some b =>
        dsimp only
        split
        · exact h3
        · exact h3.trans (.of_threads (w3.raisePage_threads ..))
theorem W.sameRegs_flushPicked (w : W) (t : Nat) (pick : Host.Cell → Bool) : w.d.SameRegs (w.flushPicked t pick).d := by
  unfold W.flushPicked
  split
  · exact .refl _
  · refine W.sameRegs_foldl (fun w p => ?_) _ w
    split
    · exact W.sameRegs_flushBytes ..
    · exact .refl _
theorem W.sameRegs_releaseNow (w : W) (t c scope : Nat) (gs : List Nat) : w.d.SameRegs (w.releaseNow t c scope gs).d := by
  have hflush : w.d.SameRegs (if 2 ≤ scope then w.flushStreams t else w).d := by
    split
    · exact W.sameRegs_flushPicked ..
    · exact .refl _
  refine hflush.trans (W.Moves.sameRegs ?_)
  exact ((W.Moves.performRelsOf _ t).trans (.foldl (fun w g => .performRels w g) gs _)).trans (.releaseStep ..)

/-! ### Instructions by the shape of their firing -/

theorem fire_sameRegs (i : Instr) (g : Opnds → Out) (d : Dev) : d.SameRegs (fire i g d) := by
  unfold fire
  split
  · exact .refl _
  · exact .emit ..

theorem fireMatrix_sameRegs (i : Instr) (d : Dev) : d.SameRegs (fireMatrix i d) := by
  unfold fireMatrix
  split
  · exact .refl _
  · exact .ite ((Dev.SameRegs.emit ..).trans (.pairDropped ..))
      (.ite ((Dev.SameRegs.emit ..).trans (.pairDropped ..)) (.ite (.emit ..) (.emit ..)))

theorem fireExit_sameRegs (i : Instr) (num : Nat) (ind : Bool) (target : Firing → Option Nat) (effs : Firing → List Eff)
    (toks : Firing → List (Target × Tok)) (d : Dev) : d.SameRegs (fireExit i num ind target effs toks d) := by
  unfold fireExit
  split
  · exact .refl _
  · exact .ite (.emit ..) (.ite (.emit ..) (.ite (.holdAt ..) (.exitFired ..)))

theorem fireLoad_sameRegs {g : W → Firing → Thread → Dev} (h : ∀ (w : W) c t, w.d.SameRegs (g w c t)) (i : Instr) (w : W) :
    w.d.SameRegs (fireLoad i g w) := by
  unfold fireLoad
  split
  · exact .refl _
  · split
    · exact .refl _
    · exact .ite (.emit ..) (.ite (.emit ..) (h ..))

theorem W.sameRegs_ite {p : Prop} [Decidable p] {w a b : W} (ha : w.d.SameRegs a.d) (hb : w.d.SameRegs b.d) :
    w.d.SameRegs (if p then a else b).d := by
  split
  · exact ha
  · exact hb

section
variable {g : W → Firing → Thread → W} (h : ∀ (w : W) c t, w.d.SameRegs (g w c t).d)
include h
theorem fireFill_sameRegs (i : Instr) (w : W) : w.d.SameRegs (fireFill i g w).d := by
  unfold fireFill
  split
  · exact .refl _
  · split
    · exact .refl _
    · exact W.sameRegs_ite (.emit ..) (W.sameRegs_ite (.emit ..) (h ..))
theorem fireQW_sameRegs (i : Instr) (w : W) : w.d.SameRegs (fireQW i g w).d := by
  unfold fireQW
  split
  · exact .refl _
  · split
    · exact .refl _
    · exact W.sameRegs_ite (.emit ..) (W.sameRegs_ite (.emit ..) (h ..))
theorem fireStore_sameRegs (i : Instr) (l : Nat) (w : W) : w.d.SameRegs (fireStore i l g w).d := by
  unfold fireStore
  split
  · exact .refl _
  · split
    · exact .refl _
    · exact W.sameRegs_ite (.fillStore ..) (W.sameRegs_ite (.fillStore ..) (h ..))
end

/-- The work area of a test, if it has one, holds the same registers. -/
def Test.SameRegs (d : Dev) : Test → Prop
  | .notYet => True
  | .wait => True
  | .sat w => d.SameRegs w.d
  | .stop w => d.SameRegs w.d

theorem waitFire_sameRegs {test : W → Firing → Thread → Test} {expire : W → Firing → Thread → W}
    (ht : ∀ (w : W) c t, (test w c t).SameRegs w.d) (he : ∀ (w : W) c t, w.d.SameRegs (expire w c t).d)
    (i : Instr) (limit : BitVec 12) (key : Firing → Thread → Nat × Word) (w : W) :
    w.d.SameRegs (waitFire i limit key test expire w).d := by
  have hended : ∀ (w : W) (c : Firing) (es : List (Nat × Nat × Eff)),
      w.d.SameRegs ((w.d.waitDone c.iid c.idx).addEffs c.iid es) := fun w c es => (Dev.SameRegs.waitDone ..).trans (.addEffs ..)
  unfold waitFire
  split
  · exact .refl _
  next c _ =>
    split
    · exact .refl _
    next t _ =>
      refine W.sameRegs_ite (.emit ..) (W.sameRegs_ite (.emit ..) ?_)
      extract_lets k told ended expiry
      have hexpiry : w.d.SameRegs (expiry w).d := (he w c t).trans (hended ..)
      have htest := ht w c t
      split
      next => exact .refl _
      next w' e =>
        rw [e] at htest
        exact W.sameRegs_ite hexpiry (W.sameRegs_ite (htest.trans (.waitDone ..)) htest)
      next w' e =>
        rw [e] at htest
        exact W.sameRegs_ite hexpiry (htest.trans (hended ..))
      next =>
        refine W.sameRegs_ite hexpiry ?_
        split
        · exact W.sameRegs_ite hexpiry (.refl _)
        · refine W.sameRegs_ite hexpiry (.ite (.trans ?_ (.modThr _ _ fun _ => rfl)) ?_)
          · exact .of_threads rfl
          · exact .of_threads rfl

/-! ### Loads and stores -/

/-- What ends, or goes on, does so with the registers of a device. -/
def EndsSameRegs {ε α : Type} (d : Dev) (ended : ε → Dev) (on : α → Dev) : Except ε α → Prop
  | .error e => d.SameRegs (ended e)
  | .ok a => d.SameRegs (on a)

theorem EndsSameRegs.trans {ε α : Type} {d e : Dev} {ended : ε → Dev} {on : α → Dev} {r : Except ε α} (h : d.SameRegs e)
    (h' : EndsSameRegs e ended on r) : EndsSameRegs d ended on r := by
  cases r with
  | error _ => exact Dev.SameRegs.trans h h'
  | ok _ => exact Dev.SameRegs.trans h h'

theorem presence_sameRegs (w : W) (c : Firing) (t : Thread) (a n wr : Nat) : EndsSameRegs w.d id W.d (w.presence c t a n wr) := by
  have h := (W.Moves.probe w t a).sameRegs
  unfold W.presence
  generalize w.probe t a = r at h ⊢
  obtain ⟨_ | _ | _ | _, w1⟩ := r
  · have h' := h.trans (W.Moves.probe w1 t (a + n - 1)).sameRegs
    dsimp only
    generalize w1.probe t (a + n - 1) = r at h' ⊢
    obtain ⟨_ | _ | _ | _, w2⟩ := r
    · exact h'
    · exact h'.trans (W.sameRegs_pageFault ..)
    · exact h'
    · exact h'.trans (.holdAt ..)
  · exact h.trans (W.sameRegs_pageFault ..)
  · exact h
  · exact h.trans (.holdAt ..)

theorem storeCheck_sameRegs (w : W) (c : Firing) (t : Thread) (a n al : Nat) (need : BitVec 3) :
    EndsSameRegs w.d id W.d (w.storeCheck c t a n al need) := by
  have h := (W.Moves.check w t need a n al).sameRegs
  unfold W.storeCheck
  generalize w.check t need a n al = r at h ⊢
  obtain ⟨_ | _, w1⟩ := r
  · exact .trans h (presence_sameRegs w1 ..)
  · exact h.trans (.holdAt ..)

theorem loadVec_sameRegs (f : FmtM) (acq : Option Nat) (w : W) (c : Firing) (t : Thread) : w.d.SameRegs (loadVec f acq w c t).d := by
  unfold loadVec
  extract_lets l a
  refine W.sameRegs_ite (.refl _) ?_
  have h := (W.Moves.check w t rR a 64 (elBytes f.ty)).sameRegs
  generalize w.check t rR a 64 (elBytes f.ty) = r at h ⊢
  obtain ⟨_ | _, w1⟩ := r
  · refine h.trans (W.sameRegs_ite (.refl _) ?_)
    extract_lets w2
    have h2 : w1.d.SameRegs w2.d := by
      cases acq with
      | none => exact .refl _
      | some s => exact (W.Moves.acquireLines ..).sameRegs
    have h3 := h2.trans (W.Moves.loadCells w2 c.x t l (span a 64)).sameRegs
    generalize w2.loadCells c.x t l (span a 64) = r at h3 ⊢
    obtain ⟨cs | _, w3⟩ := r
    · cases acq with
      | none => exact h3.trans (.loadDone ..)
      | some s =>
        exact ((Dev.SameRegs.trans h3 (.loadDone ..)).trans (W.Moves.acquireBy { w3 with d := _ } s t.grids).sameRegs).trans
          (.acquireFlush ..)
    all_goals
      refine h3.trans ?_
      dsimp only
      exact Rd.sameRegs_fail ..
  · exact h.trans (.holdAt ..)

theorem storeVec_sameRegs (f : FmtM) (rel : Nat) (w : W) (c : Firing) (t : Thread) : w.d.SameRegs (storeVec f rel w c t).d := by
  have h := storeCheck_sameRegs w c t (memAddr c.ops.a0 (mOff f)) 64 (elBytes f.ty) rW
  unfold storeVec
  dsimp only
  generalize w.storeCheck c t (memAddr c.ops.a0 (mOff f)) 64 (elBytes f.ty) = r at h ⊢
  cases r with
  | error d => exact h
  | ok w1 => exact (Dev.SameRegs.trans h (.violate ..)).trans (.fillStore ..)

theorem cacheRange_sameRegs (f : FmtM) (eff : Nat → Nat → Eff) (w : W) (c : Firing) (t : Thread) :
    w.d.SameRegs (cacheRange f eff w c t).d := by
  have h := (W.Moves.rightsAll w t.first t.ctx 2 (memAddr c.ops.a0 (mOff f)) c.ops.b0.toNat).sameRegs
  unfold cacheRange
  refine W.sameRegs_ite (.holdAt ..) (W.sameRegs_ite (.holdAt ..) (W.sameRegs_ite (.holdAt ..) (W.sameRegs_ite ?_ ?_)))
  · exact h.trans (.holdAt ..)
  · exact h.trans (.fillStore ..)

theorem amoFire_sameRegs (op : AmoOp) (f : FmtA) (w : W) (c : Firing) (t : Thread) : w.d.SameRegs (amoFire op f w c t).d := by
  have h := storeCheck_sameRegs w c t (memAddr c.ops.a0 f.offs.toInt) (elBytes f.ty) (elBytes f.ty) (rR ||| rW)
  unfold amoFire
  dsimp only
  generalize w.storeCheck c t (memAddr c.ops.a0 f.offs.toInt) (elBytes f.ty) (elBytes f.ty) (rR ||| rW) = r at h ⊢
  cases r with
  | error d => exact h
  | ok w1 =>
    refine Dev.SameRegs.trans h (W.sameRegs_ite (.refl _) ?_)
    have h1 := (W.Moves.loadCells w1 c.x t f.lsid.toNat (span (memAddr c.ops.a0 f.offs.toInt) (elBytes f.ty))).sameRegs
    generalize w1.loadCells c.x t f.lsid.toNat (span (memAddr c.ops.a0 f.offs.toInt) (elBytes f.ty)) = r at h1 ⊢
    obtain ⟨cs | _, w2⟩ := r
    · exact (Dev.SameRegs.trans h1 (.violate ..)).trans (.fillStore ..)
    all_goals
      refine h1.trans ?_
      dsimp only
      exact Rd.sameRegs_fail ..

theorem engineFire_sameRegs (k : CopyKind) (f : FmtM) (w : W) (c : Firing) (t : Thread) : w.d.SameRegs (engineFire k f w c t).d := by
  unfold engineFire
  extract_lets v q fault ds sk
  have hfault : ∀ k, w.d.SameRegs (fault k).d := fun k => .holdAt ..
  refine W.sameRegs_ite (hfault _) (W.sameRegs_ite (hfault _) ?_)
  clear_value ds sk
  split
  · exact W.sameRegs_ite (.refl _) (.fillStore ..)
  · exact hfault _

/-! ### Instructions one by one -/

/-- The outcome leaves the registers of every thread. -/
def RegsStay (s : State) (o : Host.Outcome State Fault Refusal) : Prop := ∀ t, o = .next t → s.dev.SameRegs t.dev

theorem runD_regsStay {f : Dev → Dev} {s : State} (h : s.dev.SameRegs (f s.dev)) : RegsStay s (runD f s) := by
  rintro t ⟨⟩; exact h
theorem runR_regsStay {f : W → Dev} {s : State} (h : s.toW.d.SameRegs (f s.toW)) : RegsStay s (runR f s) := by
  rintro t ⟨⟩; exact h
theorem run_regsStay {f : W → W} {s : State} (h : s.toW.d.SameRegs (f s.toW).d) : RegsStay s (run f s) := by
  rintro t ⟨⟩; exact h

/-! Lane, tag and register instructions, exits that are no exits. -/

theorem execTagrd_regsStay (f : FmtG) (s : State) : RegsStay s (execTagrd f s) := by
  refine runD_regsStay ?_
  split
  · exact .refl _
  · exact .emit ..
theorem execGetsr_regsStay (f : FmtG) (s : State) : RegsStay s (execGetsr f s) := by
  refine runR_regsStay ?_
  split
  · exact .refl _
  · split
    · exact .refl _
    · exact .ite (.refl _) (.emit ..)
theorem execSetsr_regsStay (f : FmtG) (s : State) : RegsStay s (execSetsr f s) :=
  runR_regsStay (fireLoad_sameRegs (fun _ _ _ => .ite (.holdAt ..) (.answer ..)) _ _)
theorem execHint_regsStay (f : FmtX) (s : State) : RegsStay s (execHint f s) := by
  refine runR_regsStay (fireLoad_sameRegs (fun w c t => ?_) _ _)
  extract_lets a d r
  have hd : w.d.SameRegs d := .emit ..
  refine .ite hd ?_
  split
  · cases hj : d.joinFill (fieldOf c.x.grid) t.ctx (d.kernelOf t) a t.regCnt [] [c.x.grid] with
    | none => exact hd
    | some e => exact hd.trans (Dev.sameRegs_joinFill hj)
  · exact hd
theorem execBrkp_regsStay (f : FmtX) (s : State) : RegsStay s (execBrkp f s) := by
  refine runD_regsStay ?_
  split
  · exact .refl _
  · exact .ite (.emit ..) (.emit ..)

/-! Memory. -/

theorem execLdg_regsStay (f : FmtM) (s : State) : RegsStay s (execLdg f s) := by
  refine run_regsStay (fireFill_sameRegs (fun w c t => ?_) _ _)
  extract_lets l n as r
  refine W.sameRegs_ite (.refl _) ?_
  have hr : EndsSameRegs w.d W.d (fun p : List (List Host.Cell) × W => p.2.d) r := by
    refine List.foldlRecOn as _ (motive := EndsSameRegs w.d W.d (fun p : List (List Host.Cell) × W => p.2.d))
      (Dev.SameRegs.refl w.d) fun acc hacc a _ => ?_
    obtain _ | ⟨q, w1⟩ := acc
    · exact hacc
    · cases a with
      | none => exact hacc
      | some a =>
        have h1 := Dev.SameRegs.trans hacc (W.Moves.check w1 t rR a n n).sameRegs
        dsimp only
        generalize w1.check t rR a n n = r1 at h1 ⊢
        obtain ⟨_ | _, w2⟩ := r1
        · dsimp only
          split
          · exact h1
          · have h2 := h1.trans (W.Moves.loadCells w2 c.x t l (span a n)).sameRegs
            generalize w2.loadCells c.x t l (span a n) = r2 at h2 ⊢
            obtain ⟨_ | _, w3⟩ := r2
            · exact h2
            all_goals exact Dev.SameRegs.trans h2 (Rd.sameRegs_withFail _ w3 ..)
        · exact Dev.SameRegs.trans h1 (.holdAt ..)
  clear_value r
  obtain _ | ⟨q, w1⟩ := r
  · exact hr
  · exact Dev.SameRegs.trans hr (.loadDone ..)

theorem execStg_regsStay (f : FmtM) (s : State) : RegsStay s (execStg f s) := by
  refine runR_regsStay (fireStore_sameRegs (fun w c t => ?_) _ _ _)
  extract_lets l n vs r
  have hr : EndsSameRegs w.d id (fun p : List Host.Cell × W => p.2.d) r := by
    refine List.foldlRecOn _ _ (motive := EndsSameRegs w.d id (fun p : List Host.Cell × W => p.2.d))
      (Dev.SameRegs.refl w.d) fun acc hacc p _ => ?_
    obtain ⟨_ | a, k⟩ := p
    · obtain _ | ⟨q, w1⟩ := acc
      · exact hacc
      · exact hacc
    · obtain _ | ⟨q, w1⟩ := acc
      · exact hacc
      · have h1 := storeCheck_sameRegs w1 c t a n n rW
        dsimp only
        generalize w1.storeCheck c t a n n = r1 at h1 ⊢
        cases r1 with
        | error d => exact Dev.SameRegs.trans hacc h1
        | ok w2 => exact Dev.SameRegs.trans hacc h1
  clear_value r
  obtain _ | ⟨q, w1⟩ := r
  · exact hr
  · exact (Dev.SameRegs.trans hr (.violate ..)).trans (.fillStore ..)

theorem execLdsp_regsStay (f : FmtM) (s : State) : RegsStay s (execLdsp f s) := by
  refine runR_regsStay (fireLoad_sameRegs (fun w c t => ?_) _ _)
  extract_lets l a
  refine .ite (.refl _) (.ite (.holdAt ..) ?_)
  split
  · exact .holdAt ..
  · exact .ite (.refl _) (.ite (.holdAt ..) (.loadDone ..))

theorem execStsp_regsStay (f : FmtM) (s : State) : RegsStay s (execStsp f s) := by
  refine runR_regsStay (fireStore_sameRegs (fun w c t => ?_) _ _ _)
  extract_lets l a
  refine W.sameRegs_ite (.holdAt ..) ?_
  split
  · exact .holdAt ..
  · exact W.sameRegs_ite (.refl _) ((Dev.SameRegs.violate ..).trans (.fillStore ..))

theorem execPref_regsStay (f : FmtM) (s : State) : RegsStay s (execPref f s) := by
  refine run_regsStay (fireFill_sameRegs (fun w c t => ?_) _ _)
  extract_lets a done
  have hdone : ∀ w : W, w.d.SameRegs (done w).d := fun w => .emit ..
  refine W.sameRegs_ite (hdone w) ?_
  have h := (W.Moves.check w t rR a 1 1).sameRegs
  generalize w.check t rR a 1 1 = r at h ⊢
  obtain ⟨_ | _, w1⟩ := r
  · refine h.trans (W.sameRegs_ite (hdone _) (W.sameRegs_ite ?_ ?_))
    · exact (W.Moves.l1Read ..).sameRegs.trans (hdone _)
    · exact (W.Moves.home ..).sameRegs.trans (hdone _)
  · exact h.trans (hdone _)

theorem execFence_regsStay (f : FmtM) (s : State) : RegsStay s (execFence f s) := by
  refine run_regsStay ?_
  extract_lets l sc loadsDone
  refine W.sameRegs_ite ?_ (fireStore_sameRegs (fun w c t => ?_) _ _ _)
  · dsimp only
    refine fireLoad_sameRegs (fun w c t => ?_) _ _
    exact .ite (.refl _) (((W.Moves.acquireBy w sc t.grids).sameRegs.trans (.acquireFlush ..)).trans (.emit ..))
  · refine W.sameRegs_ite (.fillStore ..) (W.sameRegs_ite (.refl _) ?_)
    exact (((W.sameRegs_releaseNow w ..).trans (W.Moves.acquireBy _ sc t.grids).sameRegs).trans (.acquireFlush ..)).trans
      (.fillStore ..)

/-! Streams. -/

theorem execSread_regsStay (f : FmtM) (s : State) : RegsStay s (execSread f s) := by
  refine run_regsStay (fireFill_sameRegs (fun w c t => ?_) _ _)
  extract_lets at_ sn l st n pos k _ c' out es ks as
  refine W.sameRegs_ite (.refl _) (W.sameRegs_ite (.emit ..) (W.sameRegs_ite (.holdAt ..) (W.sameRegs_ite (.emit ..) ?_)))
  cases st.cfg.space with
  | port => exact W.sameRegs_ite (.refl _) (W.sameRegs_ite (.holdAt ..) (.emit ..))
  | scratch => exact W.sameRegs_ite (.refl _) (W.sameRegs_ite (.holdAt ..) (.emit ..))
  | _ =>
    refine W.sameRegs_ite (.refl _) ?_
    have h := (W.Moves.readLines w t (w.d.rnumOf t) ((as.map lineOf).eraseDups)).sameRegs
    generalize w.readLines t (w.d.rnumOf t) ((as.map lineOf).eraseDups) = r at h ⊢
    obtain ⟨_ | _, w1⟩ := r
    · exact h.trans (.emit ..)
    all_goals exact Dev.SameRegs.trans h (Rd.sameRegs_withFail _ w1 ..)
theorem execSwrite_regsStay (f : FmtM) (s : State) : RegsStay s (execSwrite f s) :=
  runR_regsStay (fireStore_sameRegs (fun _ _ _ => W.sameRegs_ite (.refl _) (W.sameRegs_ite (.holdAt ..)
    (W.sameRegs_ite (.holdAt ..) (W.sameRegs_ite (.refl _) (.fillStore ..))))) _ _ _)
theorem execSclose_regsStay (f : FmtM) (s : State) : RegsStay s (execSclose f s) :=
  runR_regsStay (fireStore_sameRegs (fun _ _ _ => W.sameRegs_ite (.refl _) (W.sameRegs_ite (.holdAt ..) (.fillStore ..))) _ _ _)

theorem execLdfwd_regsStay (f : FmtM) (s : State) : RegsStay s (execLdfwd f s) := by
  refine runR_regsStay (fireStore_sameRegs (fun w c t => ?_) _ _ _)
  extract_lets a
  have h := (W.Moves.check w t rR a 64 1).sameRegs
  generalize w.check t rR a 64 1 = r at h ⊢
  obtain ⟨_ | _, w1⟩ := r
  · refine h.trans (W.sameRegs_ite (.holdAt ..) ?_)
    have h1 := presence_sameRegs w1 c t a 64 0
    generalize w1.presence c t a 64 0 = r at h1 ⊢
    cases r with
    | error d => exact h1
    | ok w2 => exact Dev.SameRegs.trans h1 (.fillStore ..)
  · exact h.trans (.holdAt ..)


theorem latch_sameRegs (w : W) (c : Firing) (t : Thread) (need : BitVec 3) (wr : Nat) (ps : List Nat) (acc : List (Nat × Nat)) :
    EndsSameRegs w.d id (fun p => p.2.d) (w.latch c t need wr ps acc) := by
  induction ps generalizing w acc with
  | nil => exact Dev.SameRegs.refl _
  | cons p r ih =>
    have h := (W.Moves.rights w t.first t.ctx p).sameRegs
    rw [W.latch]
    split
    · exact Dev.SameRegs.holdAt ..
    · split
      · exact Dev.SameRegs.holdAt ..
      · dsimp only
        split
        · exact h.trans (.holdAt ..)
        · split
          · have h1 := h.trans (W.Moves.touch (w.rights t.first t.ctx p).2 p).sameRegs
            exact .trans h1 (ih ..)
          · exact h.trans (W.sameRegs_pageFault ..)
          · exact h
          · exact h.trans (.holdAt ..)

theorem execScfg_regsStay (f : FmtM) (s : State) : RegsStay s (execScfg f s) := by
  refine runR_regsStay (fireStore_sameRegs (fun w c t => ?_) _ _ _)
  extract_lets sn l cfg status taken
  have hs : ∀ (w : W) n e, w.d.SameRegs (status w n e).d := fun w n e => .fillStore ..
  refine W.sameRegs_ite (hs ..) ?_
  clear_value status
  split
  · exact W.sameRegs_ite (hs ..) (hs ..)
  · exact W.sameRegs_ite (hs ..) (W.sameRegs_ite (hs ..) (hs ..))
  · exact hs ..
  · exact W.sameRegs_ite (hs ..) (hs ..)
  · refine W.sameRegs_ite (hs ..) (W.sameRegs_ite (.holdAt ..) ?_)
    split
    next => exact hs ..
    next ps _ =>
      refine W.sameRegs_ite (hs ..) (W.sameRegs_ite (.holdAt ..) ?_)
      have h := latch_sameRegs w c t (if cfg.write then rW else rR) (if cfg.write then 1 else 0) ps []
      generalize w.latch c t (if cfg.write then rW else rR) (if cfg.write then 1 else 0) ps [] = r at h ⊢
      obtain _ | ⟨fr, w1⟩ := r
      · exact h
      · exact Dev.SameRegs.trans h (hs w1 ..)

/-! Copies and shadows. -/

theorem execAshadow_regsStay (f : FmtM) (s : State) : RegsStay s (execAshadow f s) := by
  refine runR_regsStay (fireStore_sameRegs (fun w c t => ?_) _ _ _)
  extract_lets base len h status r w1 inRegion open_ n
  have hs : ∀ (w : W) n e, w.d.SameRegs (status w n e).d := fun w n e => .fillStore ..
  clear_value status
  refine W.sameRegs_ite (.holdAt ..) (W.sameRegs_ite (.holdAt ..) ?_)
  have h1 : w.d.SameRegs w1.d := (W.Moves.rightsAll ..).sameRegs
  refine h1.trans (W.sameRegs_ite (.holdAt ..) ?_)
  exact W.sameRegs_ite (hs ..) (W.sameRegs_ite (hs ..) (W.sameRegs_ite (hs ..) (hs ..)))

theorem execApubPublish_regsStay (f : FmtM) (s : State) : RegsStay s (execApubPublish f s) := by
  refine runR_regsStay (fireStore_sameRegs (fun w c t => ?_) _ _ _)
  extract_lets h go
  have hgo : ∀ w : W, w.d.SameRegs (go w).d := fun w => .fillStore ..
  split
  · exact hgo w
  next base len _ =>
    have hr := (W.Moves.rightsAll w t.first t.ctx 2 base len).sameRegs
    exact W.sameRegs_ite (hr.trans (hgo _)) (hr.trans (.holdAt ..))
theorem execApubDiscard_regsStay (f : FmtM) (s : State) : RegsStay s (execApubDiscard f s) :=
  runR_regsStay (fireStore_sameRegs (fun _ _ _ => .fillStore ..) _ _ _)
theorem execAprobe_regsStay (f : FmtM) (s : State) : RegsStay s (execAprobe f s) :=
  runR_regsStay (fireLoad_sameRegs (fun _ _ _ => .ite (.refl _) (.emit ..)) _ _)

/-! Queues, mailboxes, rings, kernels. -/

/-- The end of a wait: a fault where bit 10 of the word asks for it, else a status. -/
theorem timeoutOr_sameRegs {p : Prop} [Decidable p] (w : W) (c : Firing) (q : Cause) (id : Word) (w4 : Nat) (es : List Eff) (o : Out) :
    w.d.SameRegs (if p then w.timeout c q id w4 else { w with d := w.d.answer c es o }).d :=
  W.sameRegs_ite (.holdAt ..) (.answer ..)

theorem takeExpire_sameRegs (f : FmtQ) (q : Cause) (id : Word) (w4 : Nat) (w : W) (c : Firing) :
    w.d.SameRegs (takeExpire f q id w4 w c).d := timeoutOr_sameRegs ..
theorem trapOr_sameRegs (f : FmtQ) (q : Cause) (id : Word) (o : Out) (w : W) (c : Firing) :
    w.d.SameRegs (trapOr f q id o w c).d := timeoutOr_sameRegs ..
theorem barExpire_sameRegs (f : FmtQ) (o : Out) (w : W) (c : Firing) (t : Thread) : w.d.SameRegs (barExpire f o w c t).d := timeoutOr_sameRegs ..

theorem Test.sameRegs_ite {p : Prop} [Decidable p] {d : Dev} {a b : Test} (ha : a.SameRegs d) (hb : b.SameRegs d) :
    Test.SameRegs d (if p then a else b) := by
  split
  · exact ha
  · exact hb
theorem Test.SameRegs.trans {d e : Dev} {r : Test} (h : d.SameRegs e) (h' : r.SameRegs e) : r.SameRegs d := by
  cases r with
  | notYet => trivial
  | wait => trivial
  | sat w => exact Dev.SameRegs.trans h h'
  | stop w => exact Dev.SameRegs.trans h h'
/-- A wait that is over with an answer. -/
theorem Test.sameRegs_answer (w : W) (c : Firing) (es : List Eff) (o : Out) : Test.SameRegs w.d (.sat { w with d := w.d.answer c es o }) :=
  Dev.SameRegs.answer ..
theorem Test.sameRegs_wait (d : Dev) : Test.SameRegs d .wait := trivial
theorem Test.sameRegs_notYet (d : Dev) : Test.SameRegs d .notYet := trivial
/-- A wait that is over with the data of an acquire. -/
theorem Test.sameRegs_acquired (w : W) (c : Firing) (t : Thread) (n : Nat) (es : List Eff) (o : Out) :
    Test.SameRegs w.d (.sat { w.acquireFire c t n with d := (w.acquireFire c t n).d.answer c es o }) :=
  (W.sameRegs_acquireFire ..).trans (.answer ..)

theorem execCompose_regsStay (f : FmtQ) (s : State) : RegsStay s (execCompose f s) := by
  refine runR_regsStay (waitFire_sameRegs (fun w c t => Test.sameRegs_ite (Test.sameRegs_answer ..) ?_) (fun _ _ _ => .answer ..) ..)
  split
  · exact Test.sameRegs_answer ..
  · exact Test.sameRegs_wait _

theorem execQpush_regsStay (f : FmtQ) (s : State) : RegsStay s (execQpush f s) := by
  refine runR_regsStay (waitFire_sameRegs (fun w c t => ?_) (fun _ _ _ => timeoutOr_sameRegs ..) ..)
  dsimp only
  split
  · exact Test.sameRegs_answer ..
  · exact Test.sameRegs_ite (Test.sameRegs_wait _) (Test.sameRegs_answer ..)

theorem queueTake_sameRegs (f : FmtQ) (pop : Bool) (w : W) (c : Firing) (t : Thread) : (queueTake f pop w c t).SameRegs w.d := by
  unfold queueTake
  refine Test.sameRegs_ite (Test.sameRegs_notYet _) ?_
  split
  · exact Test.sameRegs_answer ..
  · extract_lets n q taken avail value choice
    clear_value choice
    split
    · exact Test.sameRegs_wait _
    next i =>
      refine Test.sameRegs_ite (Test.sameRegs_wait _) ?_
      have h := w.sameRegs_qRead t.ctx n i
      generalize w.qRead t.ctx n i = r at h ⊢
      obtain ⟨_ | v, w1⟩ := r
      · exact .trans h (Test.sameRegs_ite (Test.sameRegs_answer w1 ..) (Test.sameRegs_wait _))
      · exact Test.sameRegs_ite (Dev.SameRegs.trans (h.trans (W.sameRegs_acquireFire w1 ..)) (.answer ..)) (h.trans (.answer ..))
theorem execQpop_regsStay (f : FmtQ) (s : State) : RegsStay s (execQpop f s) :=
  run_regsStay (waitFire_sameRegs (queueTake_sameRegs f true) (fun _ _ _ => takeExpire_sameRegs ..) ..)
theorem execQpeek_regsStay (f : FmtQ) (s : State) : RegsStay s (execQpeek f s) :=
  run_regsStay (waitFire_sameRegs (queueTake_sameRegs f false) (fun _ _ _ => takeExpire_sameRegs ..) ..)

theorem execMbsend_regsStay (f : FmtQ) (s : State) : RegsStay s (execMbsend f s) := by
  refine runR_regsStay (waitFire_sameRegs (fun w c t => ?_) (fun _ _ _ => timeoutOr_sameRegs ..) ..)
  dsimp only
  split
  · exact Test.sameRegs_answer ..
  · exact Test.sameRegs_ite (Test.sameRegs_wait _) (Test.sameRegs_answer ..)
theorem execMbrecv_regsStay (f : FmtQ) (s : State) : RegsStay s (execMbrecv f s) := by
  refine runR_regsStay (waitFire_sameRegs (fun w c t => ?_) (fun _ _ _ => takeExpire_sameRegs ..) ..)
  refine Test.sameRegs_ite (Test.sameRegs_notYet _) ?_
  extract_lets mine avail event told
  split
  · exact Test.sameRegs_wait _
  · exact Test.sameRegs_ite (Test.sameRegs_wait _) (Test.sameRegs_acquired ..)
theorem execMcput_regsStay (f : FmtQ) (s : State) : RegsStay s (execMcput f s) := by
  refine runR_regsStay (waitFire_sameRegs (fun w c t => ?_) (fun _ _ _ => timeoutOr_sameRegs ..) ..)
  dsimp only
  split
  · exact Test.sameRegs_answer ..
  · exact Test.sameRegs_ite (Test.sameRegs_wait _) (Test.sameRegs_answer ..)
theorem execMctake_regsStay (f : FmtQ) (s : State) : RegsStay s (execMctake f s) := by
  refine run_regsStay (waitFire_sameRegs (fun w c t => ?_) (fun _ _ _ => takeExpire_sameRegs ..) ..)
  extract_lets h k q
  refine Test.sameRegs_ite (Test.sameRegs_notYet _) ?_
  split
  · exact Test.sameRegs_answer ..
  · exact Test.sameRegs_answer ..
  · extract_lets taken avail entry
    split
    · exact Test.sameRegs_wait _
    · refine Test.sameRegs_ite (Test.sameRegs_wait _) (Test.sameRegs_ite ?_ (Test.sameRegs_acquired ..))
      exact Dev.SameRegs.trans (W.sameRegs_queueFault ..) (.answer ..)
theorem execLaunch_regsStay (f : FmtQ) (s : State) : RegsStay s (execLaunch f s) := by
  refine runR_regsStay (waitFire_sameRegs (fun w c t => ?_) (fun _ _ _ => .answer ..) ..)
  extract_lets h k st
  have hst : ∀ n es, (st n es).SameRegs w.d := fun n es => Test.sameRegs_answer ..
  clear_value st
  refine Test.sameRegs_ite (hst ..) ?_
  split
  · exact hst ..
  · exact Test.sameRegs_ite (hst ..) (Test.sameRegs_ite (hst ..) (Test.sameRegs_ite (Test.sameRegs_wait _) (hst ..)))

/-! Tasks, events, barriers, revisions. -/

/-- A frame that a task instruction checks: it ends with a fault or waits, or the frame is read. -/
theorem frameCheck_sameRegs (w : W) (c : Firing) (t : Thread) (a : Nat) : EndsSameRegs w.d W.d (fun p => p.2.d) (w.frameCheck c t a) := by
  have h := (W.Moves.check w t (rR ||| rW) a 64 64).sameRegs
  unfold W.frameCheck
  generalize w.check t (rR ||| rW) a 64 64 = r at h ⊢
  obtain ⟨_ | _, w1⟩ := r
  · have h1 := h.trans (W.Moves.frameCount w1 t.ctx (w1.d.rnumOf t) a).sameRegs
    dsimp only
    generalize w1.frameCount t.ctx (w1.d.rnumOf t) a = r at h1 ⊢
    obtain ⟨_ | _, w2⟩ := r
    · exact h1
    all_goals exact Dev.SameRegs.trans h1 (Rd.sameRegs_withFail _ w2 ..)
  · exact h.trans (.holdAt ..)

theorem execSpawn_regsStay (f : FmtQ) (s : State) : RegsStay s (execSpawn f s) := by
  refine run_regsStay (fireFill_sameRegs (fun w c t => W.sameRegs_ite (.holdAt ..) ?_) _ _)
  have h := frameCheck_sameRegs w c t c.ops.b0.toNat
  generalize w.frameCheck c t c.ops.b0.toNat = r at h ⊢
  obtain w1 | ⟨n, w1⟩ := r
  · exact h
  · exact Dev.SameRegs.trans h (W.sameRegs_ite (.answer ..) (.answer ..))
theorem execSyncWait_regsStay (f : FmtQ) (s : State) : RegsStay s (execSyncWait f s) := by
  refine run_regsStay (waitFire_sameRegs (fun w c t => ?_) (fun _ _ _ => trapOr_sameRegs ..) ..)
  have h := frameCheck_sameRegs w c t c.ops.a0.toNat
  generalize w.frameCheck c t c.ops.a0.toNat = r at h ⊢
  obtain w1 | ⟨n, w1⟩ := r
  · exact h
  · exact Test.sameRegs_ite (Dev.SameRegs.trans h (Test.sameRegs_acquired ..)) (Test.sameRegs_wait _)
theorem execSyncNext_regsStay (f : FmtQ) (s : State) : RegsStay s (execSyncNext f s) := by
  refine run_regsStay (waitFire_sameRegs (fun w c t => ?_) (fun w c t => W.sameRegs_ite (.holdAt ..) (.answer ..)) ..)
  extract_lets a
  refine Test.sameRegs_ite (Test.sameRegs_notYet _) ?_
  have h : EndsSameRegs w.d W.d (fun p => p.2.d) (if a = 0 then .ok (0, w) else w.frameCheck c t a) := by
    split
    · exact Dev.SameRegs.refl _
    · exact frameCheck_sameRegs ..
  generalize (if a = 0 then Except.ok (0, w) else w.frameCheck c t a) = r at h ⊢
  obtain w1 | ⟨n, w1⟩ := r
  · exact h
  · dsimp only
    split
    · exact Test.sameRegs_wait _
    · refine Dev.SameRegs.trans h (.trans ?_ (.answer ..))
      exact W.sameRegs_ite (W.sameRegs_acquireFire ..) (.refill ..)
theorem execEvwait_regsStay (f : FmtQ) (s : State) : RegsStay s (execEvwait f s) := by
  refine runR_regsStay (waitFire_sameRegs (fun w c t => ?_) (fun _ _ _ => trapOr_sameRegs ..) ..)
  refine Test.sameRegs_ite (Test.sameRegs_notYet _) (Test.sameRegs_ite (Test.sameRegs_wait _) ?_)
  refine Dev.SameRegs.trans ((W.sameRegs_acquireFire w c t 2).trans (.modThr _ _ fun u => ?_)) (.answer ..)
  rfl
theorem execEvsig_regsStay (f : FmtQ) (s : State) : RegsStay s (execEvsig f s) :=
  runR_regsStay (fireLoad_sameRegs (fun _ _ _ => .ite (.answer ..) (.answer ..)) _ _)
theorem execBinitAlloc_regsStay (f : FmtQ) (s : State) : RegsStay s (execBinitAlloc f s) := by
  refine runR_regsStay (fireLoad_sameRegs (fun w c t => .ite (.answer ..) ?_) _ _)
  split
  · exact .answer ..
  · exact .answer ..
theorem execBinitFree_regsStay (f : FmtQ) (s : State) : RegsStay s (execBinitFree f s) := by
  refine runR_regsStay (fireLoad_sameRegs (fun w c t => ?_) _ _)
  split
  · exact .answer ..
  · exact .answer ..
theorem arriveFire_sameRegs (i : Instr) (f : FmtQ) (drop : Bool) (w : W) : w.d.SameRegs (arriveFire i f drop w).d := by
  refine waitFire_sameRegs (fun w c t => ?_) (barExpire_sameRegs f _) ..
  refine Test.sameRegs_ite (Test.sameRegs_notYet _) ?_
  split
  · exact Test.sameRegs_answer ..
  · exact Test.sameRegs_ite (Test.sameRegs_answer ..) (Test.sameRegs_ite (Test.sameRegs_wait _) (Test.sameRegs_answer ..))
theorem execBwait_regsStay (f : FmtQ) (s : State) : RegsStay s (execBwait f s) := by
  refine runR_regsStay (waitFire_sameRegs (fun w c t => ?_) (barExpire_sameRegs f _) ..)
  refine Test.sameRegs_ite (Test.sameRegs_notYet _) ?_
  split
  · exact Test.sameRegs_answer ..
  · exact Test.sameRegs_ite (Test.sameRegs_acquired ..) (Test.sameRegs_wait _)
theorem execFork_regsStay (f : FmtQ) (s : State) : RegsStay s (execFork f s) := by
  refine runR_regsStay (waitFire_sameRegs (fun w c t => ?_) (fun _ _ _ => .answer ..) ..)
  extract_lets ev out
  refine Test.sameRegs_ite (Test.sameRegs_notYet _) ?_
  split
  · exact Test.sameRegs_wait _
  · exact Test.sameRegs_answer ..
  · exact Test.sameRegs_answer ..
theorem execJoin_regsStay (f : FmtQ) (s : State) : RegsStay s (execJoin f s) := by
  refine runR_regsStay (waitFire_sameRegs (fun w c t => ?_) (fun _ _ _ => .answer ..) ..)
  extract_lets k st
  have hst : ∀ n es, (st n es).SameRegs w.d := fun n es => Test.sameRegs_answer ..
  clear_value st
  refine Test.sameRegs_ite (Test.sameRegs_notYet _) ?_
  split
  · exact hst ..
  · exact Test.sameRegs_ite (hst ..) (Test.sameRegs_ite (hst ..) (Test.sameRegs_ite (Test.sameRegs_wait _) (hst ..)))
theorem execRregionDecl_regsStay (f : FmtQ) (s : State) : RegsStay s (execRregionDecl f s) := by
  refine runR_regsStay (fireLoad_sameRegs (fun w c t => ?_) _ _)
  extract_lets v st rs base size shadows r q u outside
  have hst : ∀ (w : W) n, w.d.SameRegs (st w n) := fun w n => .answer ..
  clear_value st
  refine .ite (hst ..) (.ite (hst ..) ?_)
  split
  · exact hst ..
  · have hu : w.d.SameRegs u.2.d :=
      (((W.Moves.rightsAll w ..).trans (.rightsAll r.2 ..)).trans (.rightsAll q.2 ..)).sameRegs
    exact .ite (hst ..) (.ite (hu.trans (hst ..)) (hu.trans (.answer ..)))
theorem execRregionDrop_regsStay (f : FmtQ) (s : State) : RegsStay s (execRregionDrop f s) :=
  runR_regsStay (fireLoad_sameRegs (fun _ _ _ => .ite (.answer ..) (.ite (.answer ..) (.answer ..))) _ _)

/-! Sets of traversal. -/

theorem fireRead_sameRegs (w : W) (c : Firing) (t : Thread) (rnum x n : Nat) :
    EndsSameRegs w.d W.d (fun p => p.2.d) (w.fireRead c t rnum x n) := by
  have h := (W.Moves.readHome w t.ctx rnum x n).sameRegs
  unfold W.fireRead
  generalize w.readHome t.ctx rnum x n = r at h ⊢
  obtain ⟨_ | _, w1⟩ := r
  · exact h
  · exact h.trans (W.sameRegs_pageFault ..)
  · exact h
  all_goals exact h.trans (.holdAt ..)

theorem stageEntry_sameRegs (w : W) (c : Firing) (t : Thread) (bs : List Byte) :
    EndsSameRegs w.d W.d (fun p => p.2.d) (w.stageEntry c t bs) := by
  unfold W.stageEntry
  extract_lets word kind
  split
  · exact Dev.SameRegs.refl _
  · split
    · exact Dev.SameRegs.refl _
    · split
      · exact Dev.SameRegs.refl _
      · have h := (W.Moves.rightsAll w t.first t.ctx 1 (word 1) 64).sameRegs
        generalize w.rightsAll t.first t.ctx 1 (word 1) 64 = r at h ⊢
        obtain ⟨_ | _, w1⟩ := r
        · exact h.trans (.holdAt ..)
        · refine .trans h ?_
          have h1 := fireRead_sameRegs w1 c t (w1.d.rnumOf t) (word 1) 64
          dsimp only
          generalize w1.fireRead c t (w1.d.rnumOf t) (word 1) 64 = r at h1 ⊢
          obtain w2 | ⟨ts, w2⟩ := r
          · exact h1
          · dsimp only
            split
            · exact h1
            · split
              · exact h1
              · exact h1

theorem stageTable_sameRegs (w : W) (c : Firing) (t : Thread) (tab n : Nat) :
    EndsSameRegs w.d W.d (fun p => p.2.d) (w.stageTable c t tab n) := by
  have h := fireRead_sameRegs w c t (w.d.rnumOf t) tab (32 * n)
  unfold W.stageTable
  generalize w.fireRead c t (w.d.rnumOf t) tab (32 * n) = r at h ⊢
  obtain w1 | ⟨bs, w1⟩ := r
  · exact h
  · refine .trans h ?_
    dsimp -zeta only
    extract_lets r
    have hr : EndsSameRegs w1.d W.d (fun p => p.2.d) r := by
      refine List.foldlRecOn _ _ (motive := EndsSameRegs w1.d W.d (fun p : Option (List Stage) × W => p.2.d))
        (Dev.SameRegs.refl w1.d) fun acc hacc k _ => ?_
      obtain w2 | ⟨_ | l, w2⟩ := acc
      · exact hacc
      · exact hacc
      · refine .trans hacc ?_
        have h2 := stageEntry_sameRegs w2 c t ((bs.drop (32 * k)).take 32)
        dsimp only
        generalize w2.stageEntry c t ((bs.drop (32 * k)).take 32) = q at h2 ⊢
        obtain w3 | ⟨_ | g, w3⟩ := q
        all_goals exact h2
    clear_value r
    obtain w2 | ⟨_ | l, w2⟩ := r
    all_goals exact hr

theorem execTrvopen_regsStay (f : FmtQ) (s : State) : RegsStay s (execTrvopen f s) := by
  refine run_regsStay (fireQW_sameRegs (fun w c t => ?_) _ _)
  extract_lets v base l1 n count no
  have hno : ∀ (w : W) k, w.d.SameRegs (no w k).d := fun w k => .answer ..
  clear_value no
  refine W.sameRegs_ite (hno ..) ?_
  have h1 := (W.Moves.rightsAll w t.first t.ctx 2 base (256 * n)).sameRegs
  generalize w.rightsAll t.first t.ctx 2 base (256 * n) = r at h1 ⊢
  obtain ⟨_ | _, w1⟩ := r
  · exact h1.trans (hno ..)
  refine h1.trans ?_
  have h2 := (W.Moves.rightsAll w1 t.first t.ctx 2 (vlane v 2).toNat (32 * count)).sameRegs
  dsimp only
  generalize w1.rightsAll t.first t.ctx 2 (vlane v 2).toNat (32 * count) = r at h2 ⊢
  obtain ⟨_ | _, w2⟩ := r
  · exact h2.trans (hno ..)
  refine h2.trans ?_
  have h3 := stageTable_sameRegs w2 c t (vlane v 2).toNat count
  dsimp only
  generalize w2.stageTable c t (vlane v 2).toNat count = r at h3 ⊢
  obtain w3 | ⟨_ | stages, w3⟩ := r
  · exact h3
  · exact Dev.SameRegs.trans h3 (hno ..)
  refine Dev.SameRegs.trans h3 ?_
  dsimp only
  split
  · exact hno ..
  · have h4 := (W.Moves.checkPages w3 t.first t.ctx 0 rW [(base, 256 * n)]).sameRegs
    generalize w3.checkPages t.first t.ctx 0 rW [(base, 256 * n)] = r at h4 ⊢
    obtain ⟨leaves | _ | _ | _, w4⟩ := r
    · exact (h4.trans (W.Moves.lockAll w4 leaves).sameRegs).trans (.answer ..)
    · exact h4.trans (.holdAt ..)
    · exact h4.trans (W.sameRegs_pageFault ..)
    · exact h4

theorem execTrvput_regsStay (f : FmtQ) (s : State) : RegsStay s (execTrvput f s) := by
  refine runR_regsStay (waitFire_sameRegs (fun w c t => ?_) (fun _ _ _ => timeoutOr_sameRegs ..) ..)
  extract_lets st head len rest
  have hst : ∀ (w : W) k, (st w k).SameRegs w.d := fun w k => Test.sameRegs_answer ..
  clear_value st
  split
  · exact hst ..
  next n q _ =>
    extract_lets go
    have hgo : ∀ w : W, (go w).SameRegs w.d := by
      intro w
      dsimp only [go]
      split
      · exact Test.sameRegs_wait _
      · exact Test.sameRegs_ite (Test.sameRegs_wait _) (Test.sameRegs_answer ..)
    clear_value go
    refine Test.sameRegs_ite (hst ..) (Test.sameRegs_ite (hst ..) (Test.sameRegs_ite (hgo w) ?_))
    have h := (W.Moves.check w t rR rest (64 * len) 64).sameRegs
    generalize w.check t rR rest (64 * len) 64 = r at h ⊢
    obtain ⟨_ | _, w1⟩ := r
    · refine .trans h ?_
      have h1 := (W.Moves.probe w1 t rest).sameRegs
      have h2 := (W.Moves.probe w1 t (rest + 64 * len - 1)).sameRegs
      dsimp only
      generalize w1.probe t rest = r at h1 ⊢
      generalize w1.probe t (rest + 64 * len - 1) = r' at h2 ⊢
      obtain ⟨_ | _ | _ | _, w2⟩ := r
      · obtain ⟨_ | _ | _ | _, w3⟩ := r'
        · exact .trans h2 (hgo w3)
        · exact h2.trans (W.sameRegs_pageFault ..)
        · trivial
        · trivial
      · exact h1.trans (W.sameRegs_pageFault ..)
      all_goals
        obtain ⟨_ | _ | _ | _, w3⟩ := r'
        · trivial
        · exact h2.trans (W.sameRegs_pageFault ..)
        · trivial
        · trivial
    · exact h.trans (.holdAt ..)

theorem execTrvtake_regsStay (f : FmtQ) (s : State) : RegsStay s (execTrvtake f s) := by
  refine run_regsStay (waitFire_sameRegs (fun w c t => ?_) (fun _ _ _ => takeExpire_sameRegs ..) ..)
  extract_lets k st w1
  have hst : ∀ (w : W) n, (st w n).SameRegs w.d := fun w n => Test.sameRegs_answer ..
  clear_value st
  refine Test.sameRegs_ite (Test.sameRegs_notYet _) ?_
  split
  · exact hst ..
  next n q _ =>
    refine Test.sameRegs_ite (hst ..) (Test.sameRegs_ite (hst ..) ?_)
    extract_lets held seqOf value
    split
    · exact Test.sameRegs_wait _
    next slot _ =>
      refine Test.sameRegs_ite (Test.sameRegs_wait _) ?_
      refine .trans (W.sameRegs_acquireFire w c t 2) ?_
      have h := fireRead_sameRegs w1 c t (w1.d.rnumOf t) (q.slotAt slot) 64
      generalize w1.fireRead c t (w1.d.rnumOf t) (q.slotAt slot) 64 = r at h ⊢
      obtain w2 | ⟨bs, w2⟩ := r
      · exact h
      · exact Dev.SameRegs.trans h (.answer ..)

theorem trvVerdict_sameRegs (f : FmtQ) (drop : Bool) (w : W) (c : Firing) (t : Thread) : w.d.SameRegs (trvVerdict f drop w c t) := by
  unfold trvVerdict
  split
  · exact .answer ..
  · exact .ite (.holdAt ..) (.answer ..)
theorem trvClose_sameRegs (f : FmtQ) (abort : Bool) (w : W) (c : Firing) (t : Thread) : w.d.SameRegs (trvClose f abort w c t) := by
  unfold trvClose
  split
  · exact .answer ..
  · exact .ite (.answer ..) (.answer ..)

/-! Handlers, pages, collectives, stations. -/

theorem resumeFire_sameRegs (f : FmtQ) (action : Nat) (w : W) (c : Firing) (t : Thread) : w.d.SameRegs (resumeFire f action w c t) := by
  unfold resumeFire
  refine .ite (.refl _) (.ite (.holdAt ..) (.ite (.holdAt ..) ?_))
  dsimp only
  split
  · exact .answer ..
  · exact .ite (.answer ..) (.ite (.answer ..) (.answer ..))
theorem execFrec_regsStay (f : FmtQ) (s : State) : RegsStay s (execFrec f s) :=
  runR_regsStay (fireLoad_sameRegs (fun _ _ _ => .ite (.holdAt ..) (.answer ..)) _ _)
theorem pgq_sameRegs (w : W) (c x : Nat) : w.d.SameRegs (w.pgq c x).2 := by
  refine .of_threads ?_
  unfold W.pgq
  dsimp only
  split
  · rfl
  · split
    · rfl
    · split
      · rfl
      · split
        · rfl
        · split
          · rfl
          · rfl
theorem execPgq_regsStay (f : FmtQ) (s : State) : RegsStay s (execPgq f s) :=
  runR_regsStay (fireLoad_sameRegs (fun w _ _ => (pgq_sameRegs w ..).trans (.answer ..)) _ _)
theorem adviseFire_sameRegs (f : FmtQ) (sub : Nat) (w : W) (c : Firing) (t : Thread) : w.d.SameRegs (adviseFire f sub w c t) := by
  unfold adviseFire
  extract_lets base len r
  have hr : w.d.SameRegs r.2.d := (W.Moves.rightsAll ..).sameRegs
  exact .ite (.answer ..) (.ite (hr.trans (.answer ..)) (hr.trans (.answer ..)))

theorem execAcoll_regsStay (f : FmtQ) (s : State) : RegsStay s (execAcoll f s) := by
  refine run_regsStay (waitFire_sameRegs (fun w c t => ?_) (fun _ _ _ => .answer ..) ..)
  extract_lets v st at_
  have hst : ∀ (w : W) n es, (st w n es).SameRegs w.d := fun w n es => Test.sameRegs_answer ..
  clear_value st
  refine Test.sameRegs_ite (hst ..) ?_
  have h := (W.Moves.check w t rR at_ 32 1).sameRegs
  generalize w.check t rR at_ 32 1 = r at h ⊢
  obtain ⟨_ | _, w1⟩ := r
  · have h1 := h.trans (W.Moves.readHome w1 t.ctx (w1.d.rnumOf t) at_ 32).sameRegs
    dsimp only
    generalize w1.readHome t.ctx (w1.d.rnumOf t) at_ 32 = r at h1 ⊢
    obtain ⟨_ | _, w2⟩ := r
    · exact .trans h1 (Test.sameRegs_ite (hst ..) (Test.sameRegs_ite (Test.sameRegs_wait _) (hst ..)))
    · exact h1.trans (W.sameRegs_pageFault ..)
    · trivial
    all_goals exact h1.trans (.holdAt ..)
  · exact h.trans (.holdAt ..)
theorem execStation_regsStay (f : FmtQ) (s : State) : RegsStay s (execStation f s) :=
  runR_regsStay (fireLoad_sameRegs (fun _ _ _ =>
    .ite (.refl _) (.ite (.answer ..) (.ite (.answer ..) (.ite (.answer ..) (.answer ..))))) _ _)

/-- No instruction of a block changes, as it fires, a register of a thread. The instructions fall in groups by the way they fire; events
have no word, and commands have eight. -/
theorem exec_regsStay {i : Instr} {w : Word} (h : encode i = [w]) (s : State) : RegsStay s (exec i s) := by
  cases i with simp only [exec]
  | add | sub | mul | mulh | mad | div | rem | min | max | abs | neg | and | or | xor | andn | not | shl | shr | sar | rotl | clz
    | popc | brev | bfx | bfi | adds | subs | addc | lea | sad | avg | cmp | fcmp | sel | mov | movi | movhi | null | pand | por
    | pnot | lane | bcast | extl | insl | fadd | fsub | fmul | fma | fms | fnma | fmin | fmax | fabs | fneg | fdiv | fsqrt | frcp
    | frsqrt | fexp2 | flog2 | ftanh | fsig | fround | fclass | fscale | fdot2 | fdot4 | fclamp | fcopysign | cvt | cvti | cvtf
    | fmt | pack | unpack | fmaxexp | perm | shfl | red | scan | cmpr | expd | vote | zip | unzip => exact runD_regsStay (fire_sameRegs ..)
  | br | brind | call | calli | ret | loop | halt | yield | trap | sys => exact runD_regsStay (fireExit_sameRegs ..)
  | mcfg | mzero | mma | mld | mst | mctr | mbound | wbload | mputa | mputb | mred | mrow => exact runD_regsStay (fireMatrix_sameRegs ..)
  | ld | lda => exact run_regsStay (fireFill_sameRegs (loadVec_sameRegs _ _) ..)
  | st | stl => exact runR_regsStay (fireStore_sameRegs (storeVec_sameRegs _ _) ..)
  | cwb | cinv => exact runR_regsStay (fireStore_sameRegs (cacheRange_sameRegs _ _) ..)
  | acopy | acopy2 | agather => exact runR_regsStay (fireStore_sameRegs (engineFire_sameRegs _ _) ..)
  | amoAdd | amoFadd | amoMin | amoMax | amoAnd | amoOr | amoXor | amoSwap | amoCas | amoInc | amoDec =>
    exact run_regsStay (fireStore_sameRegs (amoFire_sameRegs _ _) ..)
  | arrive | arriveDrop => exact runR_regsStay (arriveFire_sameRegs ..)
  | qinfo | kinfo | ginfo | rinfo | trvstat | ctxq | lnkq | dmark | probe =>
    exact runR_regsStay (fireLoad_sameRegs (fun _ _ _ => .answer ..) ..)
  | trvdonePass | trvdoneDrop => exact runR_regsStay (fireLoad_sameRegs (trvVerdict_sameRegs _ _) ..)
  | trvcloseDrain | trvcloseAbort => exact runR_regsStay (fireLoad_sameRegs (trvClose_sameRegs _ _) ..)
  | fresumeResume | fresumeRedirect | fresumeEnd =>
    exact runR_regsStay (fireLoad_sameRegs (resumeFire_sameRegs _ _) ..)
  | pgadviseWillneed | pgadviseTranslate | pgadviseEvictbehind | pgadviseKeep =>
    exact runR_regsStay (fireLoad_sameRegs (adviseFire_sameRegs _ _) ..)
  | tagrd f => exact execTagrd_regsStay f s
  | getsr f => exact execGetsr_regsStay f s
  | setsr f => exact execSetsr_regsStay f s
  | hint f => exact execHint_regsStay f s
  | brkp f => exact execBrkp_regsStay f s
  | ldg f => exact execLdg_regsStay f s
  | stg f => exact execStg_regsStay f s
  | ldsp f => exact execLdsp_regsStay f s
  | stsp f => exact execStsp_regsStay f s
  | pref f => exact execPref_regsStay f s
  | fence f => exact execFence_regsStay f s
  | sread f => exact execSread_regsStay f s
  | swrite f => exact execSwrite_regsStay f s
  | scfg f => exact execScfg_regsStay f s
  | sclose f => exact execSclose_regsStay f s
  | ldfwd f => exact execLdfwd_regsStay f s
  | ashadow f => exact execAshadow_regsStay f s
  | apubPublish f => exact execApubPublish_regsStay f s
  | apubDiscard f => exact execApubDiscard_regsStay f s
  | aprobe f => exact execAprobe_regsStay f s
  | compose f => exact execCompose_regsStay f s
  | qpush f => exact execQpush_regsStay f s
  | qpop f => exact execQpop_regsStay f s
  | qpeek f => exact execQpeek_regsStay f s
  | mbsend f => exact execMbsend_regsStay f s
  | mbrecv f => exact execMbrecv_regsStay f s
  | mcput f => exact execMcput_regsStay f s
  | mctake f => exact execMctake_regsStay f s
  | launch f => exact execLaunch_regsStay f s
  | spawn f => exact execSpawn_regsStay f s
  | syncWait f => exact execSyncWait_regsStay f s
  | syncNext f => exact execSyncNext_regsStay f s
  | evwait f => exact execEvwait_regsStay f s
  | evsig f => exact execEvsig_regsStay f s
  | binitAlloc f => exact execBinitAlloc_regsStay f s
  | binitFree f => exact execBinitFree_regsStay f s
  | bwait f => exact execBwait_regsStay f s
  | fork f => exact execFork_regsStay f s
  | join f => exact execJoin_regsStay f s
  | rregionDecl f => exact execRregionDecl_regsStay f s
  | rregionDrop f => exact execRregionDrop_regsStay f s
  | trvopen f => exact execTrvopen_regsStay f s
  | trvput f => exact execTrvput_regsStay f s
  | trvtake f => exact execTrvtake_regsStay f s
  | frec f => exact execFrec_regsStay f s
  | pgq f => exact execPgq_regsStay f s
  | acoll f => exact execAcoll_regsStay f s
  | station f => exact execStation_regsStay f s
  | create | configure | bind | run | unbind | preempt | restore | freeze | resume | dump | kill | danswer | load | unload
    | qcreate | qopen | qdrain | qclose | qdestroy | qquery | balloc | bfree | bquery | punmap | pmigrate | pevict | psplit | ppin
    | punpin | pdomain | rsync | panswer | pstock | manswer | gresume | logcfg | logtrim | reverseToStation | reverseBlock | trcfg
    | record | dbgmatch | cutread | fetchOpportunity | fetchComplete | fillDelivery | codePageVerification | instancePlace
    | tokenDelivery | blockCommit | exitMispredict | predictorEntryClear | watchdogExpiry | slotWaitEntry | slotRetention
    | waitLimitExpiry | overflowReinject | thermalThreshold | thermalSlotDisable | thermalSlotEnable | displacedMove
    | thermalRankingRefresh | steal | matrixStepStart | matrixStepFinish | wbloadStepStart | pairMultiplyPhase
    | pairAccumulatePhase | atomicEarlyPerform | releasePerform | scratchpadStoreArrival | streamHandover | ldfwdReplyDelivery
    | mailboxDelivery | copyCompletion | shadowPublication | collectiveCompletion | dispatchRemove | groupLevelRise
    | groupDispatch | groupRetire | barrierEngineArrival | gatingWindowEnd | quiescenceSweep | saveImageWritten | dumpStart
    | dumpComplete | teardownComplete | loadChecksComplete | hostAppend | queueStorageEcc | stageLaunchAppend | mergeComplete
    | ridFree | drainTokenEmerge | migrationComplete | evictionComplete | splitComplete | stationMarker | logDrain | timePacket
    | lifetimeRecordWrite | flitReceive | portTrainingDone | laneErrorDegrade | portEnable | portDisable | isolate | release
    | linkTimeout | ptpSync | cxlSnoop | hostCxlMemWrite | hostCxlMemRead | backInvalidateComplete | imeasSample | voltageDroop
    | pllLock | thermalTrip | powerOn | bringupStepComplete | bringupTimeout | powerDown | getVersion | getCapabilities
    | negotiateAlgorithms | getDigests | getCertificate | challenge | getMeasurements | spdmUnsupportedRequest | islIlimWrite
    | islImeasRead | reqHeadWrite | mgmtRegisterWrite | partialApertureWrite | enginePageWait => simp [encode, lanesOf] at h

/-! ### No step is refused, and one fault -/

/-- The outcome is no refusal, and a fault only where a slot holds no instruction. -/
def OnlyUndecodable : Host.Outcome State Fault Refusal → Prop
  | .next _ => True
  | .fault f => f = .undecodable
  | .refused _ => False

theorem GoesOn.onlyUndecodable {s : State} {o : Host.Outcome State Fault Refusal} (h : GoesOn s o) : OnlyUndecodable o := by
  obtain ⟨d, g, cs, rfl⟩ := h
  trivial

theorem exec_onlyUndecodable (i : Instr) (s : State) : OnlyUndecodable (exec i s) := (exec_goesOn i s).onlyUndecodable

theorem fireAt_onlyUndecodable (iid idx : Nat) (s : State) : OnlyUndecodable (s.fireAt iid idx) := by
  dsimp only [State.fireAt]
  split
  next => trivial
  next =>
    split
    next => trivial
    next =>
      split
      next i _ => exact exec_onlyUndecodable i _
      next => rfl

theorem happen_onlyUndecodable (i : Instr) (arg : EvArg) (s : State) : OnlyUndecodable (s.happen i arg) := by
  dsimp only [State.happen]
  split
  next => exact exec_onlyUndecodable i _
  next =>
    split
    next => exact exec_onlyUndecodable i _
    next => trivial

theorem perform_onlyUndecodable (a : Act) (s : State) : OnlyUndecodable (s.perform a) := by
  cases a with
  | fire iid idx => exact fireAt_onlyUndecodable iid idx s
  | ev i arg => exact happen_onlyUndecodable i arg s

theorem takePosted_onlyUndecodable (c : Nat) (s : State) : OnlyUndecodable (s.takePosted c) := by
  dsimp only [State.takePosted]
  split
  next => trivial
  next =>
    split
    next => trivial
    next =>
      split
      next i _ => exact exec_onlyUndecodable i _
      next => trivial

theorem firstChange_onlyUndecodable {l : List (State → Host.Outcome State Fault Refusal)} (h : ∀ f ∈ l, ∀ s, OnlyUndecodable (f s))
    (s : State) : OnlyUndecodable (firstChange s l) := by
  induction l with
  | nil => trivial
  | cons f r ih =>
    obtain ⟨hf, hr⟩ := List.forall_mem_cons.1 h
    dsimp only [firstChange]
    split
    next =>
      split
      next => exact ih hr
      next => trivial
    next => exact hf s

theorem goOn_onlyUndecodable (s : State) : OnlyUndecodable s.goOn := by
  dsimp only [State.goOn]
  split
  next => trivial
  next =>
    split
    next u _ =>
      refine firstChange_onlyUndecodable (fun f hf => ?_) u
      rcases List.mem_append.1 (mem_of_mem_rotate hf) with hf | hf
      · obtain ⟨a, -, rfl⟩ := List.mem_map.1 hf
        exact perform_onlyUndecodable a
      · obtain ⟨c, -, rfl⟩ := List.mem_map.1 hf
        exact takePosted_onlyUndecodable c.1
    next => exact (run_goesOn W.settleAll _).onlyUndecodable

theorem step_onlyUndecodable (s : State) : OnlyUndecodable (step s) := by
  dsimp only [step, State.advance]
  split
  next => exact goOn_onlyUndecodable s
  next => exact perform_onlyUndecodable _ _

/-! ### What changes the management registers -/

/-- The events of bring-up, power and field current, and the writes and reads of the management aperture. -/
def managementEvents : List Instr :=
  [.islIlimWrite, .islImeasRead, .imeasSample, .thermalTrip, .powerDown, .powerOn, .bringupStepComplete, .bringupTimeout, .reqHeadWrite,
    .mgmtRegisterWrite]

/-- A meaning that is not run on the management registers leaves them. -/
theorem exec_keepsMgmt {i : Instr} (hi : i ∉ managementEvents) {s t : State} (h : exec i s = .next t) : t.mgmt = s.mgmt := by
  cases i with
  | islIlimWrite | islImeasRead | imeasSample | thermalTrip | powerDown | powerOn | bringupStepComplete | bringupTimeout | reqHeadWrite
    | mgmtRegisterWrite => exact absurd (by decide) hi
  | steal =>
    simp only [exec, execSteal] at h
    split at h
    · cases h; rfl
    · cases h; rfl
  | _ => cases h; rfl

/-- Settles O41: a step performs rows of the table or none, each row goes on (`exec_goesOn`), and a firing leaves what a commit writes
(`exec_regsStay`). -/
theorem wholeMachine : Obligations.WholeMachine := by
  unfold Obligations.WholeMachine
  refine ⟨fun s r h => ?_, fun s f h => ?_, fun i s => ?_⟩
  · exact (h ▸ step_onlyUndecodable s : OnlyUndecodable (.refused r))
  · exact (h ▸ step_onlyUndecodable s : OnlyUndecodable (.fault f))
  · obtain ⟨d, g, cs, h⟩ := exec_goesOn i s
    exact ⟨_, h, fun hi => exec_keepsMgmt hi h, rfl, fun w hw n => (exec_regsStay hw s _ h).thr n⟩

end Sys2Proof.Machine
end

section
/-!
PROOFS, 02 blocks and threads: tags, special registers and exits as they fire.
-/

namespace Sys2Proof.Machine
open Claims

/-! ### What a firing, and a pending fault, leave -/

/-- A firing that sends tokens is the state that the rules describe. -/
theorem next_emit (s : State) (c : Firing) (toks : List (Target × Tok)) (fl : BitVec 6) :
    (.next { s with dev := s.dev.emit c ⟨toks, fl⟩ } : Host.Outcome State Fault Refusal) = .next (sent s c toks fl) := rfl

/-- An instruction that fires and leaves effects for the commit. -/
theorem next_answer (s : State) (c : Firing) (es : List Eff) (toks : List (Target × Tok)) :
    (.next { s with dev := s.dev.answer c es ⟨toks, 0#6⟩ } : Host.Outcome State Fault Refusal) = .next (sent s (withEffects c es) toks) := rfl

@[simp] theorem Dev.inst_gcPlanes (d : Dev) (g n : Nat) : (d.gcPlanes g).inst n = d.inst n := rfl
@[simp] theorem Dev.inst_modThr (d : Dev) (t n : Nat) (f : Thread → Thread) : (d.modThr t f).inst n = d.inst n := by
  unfold Dev.modThr
  split <;> rfl
@[simp] theorem Dev.inst_redirect (d : Dev) (t n : Nat) (b : Option Nat) : (d.redirect t b).inst n = d.inst n := Dev.inst_modThr ..

/-- What is pending against an instance against which nothing was. -/
theorem Dev.hold_inst {d : Dev} {iid : Nat} {x : Inst} (hx : d.inst iid = some x) (hp : x.pend = none) (p : Pend) (page : Option Nat) :
    (d.hold iid p page).inst iid = some { x with
      st := .flushed, pend := some p, page := page, effs := [], operands := [], wr := [], plane := none,
      starts := if x.running then x.starts else [], msteps := if x.running then x.msteps else [] } := by
  simp [Dev.hold, hx, hp]

/-- A fault that the slot that fires raises is pending; what has no meaning yet of its own changes neither memory nor the registers of
management. -/
theorem pending_hold {s : State} {c : Firing} (hc : s.dev.firing = some c) (hp : c.x.pend = none) (p : Pend) (page : Option Nat) :
    Pending { s with dev := s.dev.hold c.iid p page } c.iid p := by
  obtain ⟨-, hx, -, -⟩ := Dev.firing_spec hc
  exact ⟨_, Dev.hold_inst hx hp p page, rfl, rfl, rfl, rfl⟩

/-! ### Tags -/

/-- A field of a tag stands above the fields before it (02 R46). -/
theorem tagField_eq (ws : List Nat) (tag k : Nat) : tagField ws tag k = tag / 2 ^ (ws.take k).sum % 2 ^ ws.getD k 0 := by
  induction ws generalizing tag k with
  | nil => simp [tagField, Nat.mod_one]
  | cons w r ih =>
    cases k with
    | zero => simp [tagField]
    | succ k => simp [tagField, ih, Nat.pow_add, Nat.div_div_eq_div_mul]

/-- A field of a word by its lowest bit and its width. -/
theorem bits_eq_toNat {n : Nat} (x : BitVec n) (hi lo : Nat) : bits x hi lo = (x.extractLsb' lo (hi + 1 - lo)).toNat := by
  rw [BitVec.extractLsb'_toNat, Nat.shiftRight_eq_div_pow]
  rfl

/-- One bit of a word as a field. -/
theorem bits_eq_one {n : Nat} (x : BitVec n) (k : Nat) : bits x k k = 1 ↔ x.getLsbD k = true := by
  rw [BitVec.getLsbD, Nat.testBit_eq_decide_div_mod_eq]
  simp [bits]

/-- Every lane of a token that one value fills. -/
theorem extract_ofLanes_replicate (ty : BitVec 4) (v k : Nat) (hk : k < 512 / tyBits ty) :
    (ofLanes (tyBits ty) (List.replicate (laneCount ty) v)).extractLsb' (tyBits ty * k) (tyBits ty) = BitVec.ofNat (tyBits ty) v := by
  have hmap : List.replicate (laneCount ty) v = (List.range (512 / tyBits ty)).map (fun _ => v) := by simp [laneCount]
  rw [hmap, extract_ofLanes_map _ _ _ _ hk (lane_fits hk)]

theorem exec_tagrd (f : FmtG) {s : State} {c : Firing} {u : Thread} (h : Fires f.pr s c) (hu : s.dev.thr c.x.thr = some u) :
    exec (.tagrd f) s = .next (sent s c (toBoth f (ofLanes (tyBits f.ty) (List.replicate (laneCount f.ty)
      (if bits f.x 3 3 = 1 then c.x.tag.toNat else tagField (s.dev.tagWidths u) c.x.tag.toNat (bits f.x 2 0)))))) := by
  obtain ⟨hc, hp, hn⟩ := h
  simp only [exec, execTagrd, runD_eq, hc, hu, outcome_holds (i := .tagrd f) hp hn]
  rfl

/-! ### Special registers -/

/-- The registers that the table names (05 R140). -/
theorem specialReg_eq {s : State} {u : Thread} {g k n : Nat} {v : Word} (hu : u.slots.head? = some (g, k))
    (hv : srValue s u k n = some v) : specialReg s.dev s.mgmt u n = v := by
  have hslot : (match u.slots with | (_, k) :: _ => k | [] => 0) = k := by
    cases hs : u.slots with
    | nil => simp [hs] at hu
    | cons p r => simp [hs] at hu; simp [hu]
  unfold srValue at hv
  split at hv
  case h_6 => cases hv; exact congrArg (BitVec.ofNat 64) hslot
  case h_15 => cases hv
  all_goals cases hv; rfl

/-- `getsr` that fires sends the register in every lane; `prng` is kept for the commit. -/
theorem exec_getsr (f : FmtG) {s : State} {c : Firing} {u : Thread} (h : Fires f.pr s c) (hu : s.dev.thr c.x.thr = some u) :
    let n := (f.x.extractLsb' 0 8).toNat
    let v := specialReg s.dev s.mgmt u n
    exec (.getsr f) s = .next (if (n == 8 || n == 0x0B) && !s.dev.isOldest c.x then s
      else sent s (if n == 0x0B then { c with x := { c.x with prngNew := some v } } else c) (toBoth f (splat64 v))) := by
  obtain ⟨hc, hp, hn⟩ := h
  have hnum : bits f.x 7 0 = (f.x.extractLsb' 0 8).toNat := bits_eq_toNat ..
  intro n v
  have hout := fun o => outcome_holds (i := .getsr f) (g := fun _ => both f.t0 f.t1 o) hp hn
  simp only [exec, execGetsr, runR_eq, State.toW, hc, hu, hnum, hout, hp, Bool.and_true]
  split
  · rfl
  · rfl

theorem exec_setsr (f : FmtG) {s : State} {c : Firing} {u : Thread} (h : Fires f.pr s c) (hu : s.dev.thr c.x.thr = some u) :
    let n := (f.x.extractLsb' 0 8).toNat
    exec (.setsr f) s = .next { s with dev := (
      if n = 0x0D ∧ c.ops.a0.getLsbD 0 = true ∧
          ((s.dev.bctl u.ctx).getLsbD 31 = false ∨ (s.dev.ctx u.ctx).log.configured = false) then
        s.dev.holdAt c .protection 0 (0x0D * 2 ^ 8) 0
      else s.dev.answer c [.setsr n c.ops.a0] {}) } := by
  obtain ⟨hc, hp, hn⟩ := h
  have hnum : bits f.x 7 0 = (f.x.extractLsb' 0 8).toNat := bits_eq_toNat ..
  intro n
  simp only [exec, execSetsr, runR_eq, fireLoad_holds (i := .setsr f) (w := s.toW) hc hu hp hn, hnum]
  rfl

/-- The lowest bit of an operand stands in its lane 0. -/
theorem Opnds.a0_getLsbD_zero (o : Opnds) : o.a0.getLsbD 0 = o.va.getLsbD 0 := by simp [Opnds.a0, vlane]

/-- Settles O48: the three instructions by what their firing is (`exec_tagrd`, `exec_getsr`, `exec_setsr`). -/
theorem tagsAndSpecialRegisters : Obligations.TagsAndSpecialRegisters := by
  unfold Obligations.TagsAndSpecialRegisters
  refine ⟨fun f s c u h hu => ⟨_, exec_tagrd f h hu, fun k hk => ?_⟩, fun f s c u g k v h hu hslot hv => ?_, fun f s c u h hu => ?_⟩
  · have hfield : bits f.x 2 0 = (f.x.extractLsb' 0 3).toNat := bits_eq_toNat ..
    rw [elem, extract_ofLanes_replicate _ _ _ hk, tagField_eq, hfield]
    by_cases hb : f.x.getLsbD 3
    · rw [if_pos ((bits_eq_one _ _).2 hb), if_pos hb, BitVec.ofNat_toNat]
    · rw [if_neg (mt (bits_eq_one _ _).1 hb), if_neg hb]
  · have hx := exec_getsr f h hu
    dsimp only at hx
    rw [specialReg_eq hslot hv] at hx
    rw [hx]
    generalize (f.x.extractLsb' 0 8).toNat = n
    refine ⟨fun hn ho => ?_, fun hn => ?_, fun hn ho => ?_⟩
    · rcases hn with rfl | rfl
      · simp [ho]
      · simp [ho]
    · rcases hn with ⟨h8, hB⟩ | ⟨rfl, ho⟩
      · simp [h8, hB, splat64]
      · simp [ho, splat64]
    · subst hn
      simp [ho, splat64]
  · have hx := exec_setsr f h hu
    rw [Opnds.a0_getLsbD_zero] at hx
    refine ⟨fun hn => ?_, fun hn h0 hper hpend => ⟨_, hx, rfl, rfl, ?_⟩⟩
    · rw [hx, if_neg]
      · rfl
      · rintro ⟨h1, h2, h3⟩
        rcases hn with hn | hn | ⟨hl, hc⟩
        · exact hn h1
        · exact Bool.noConfusion (hn.symm.trans h2)
        · rcases h3 with h3 | h3
          · exact Bool.noConfusion (h3.symm.trans hl)
          · exact Bool.noConfusion (h3.symm.trans hc)
    · have hlog := (not_and_or.1 hper).imp Bool.eq_false_of_not_eq_true Bool.eq_false_of_not_eq_true
      rw [if_pos ⟨hn, h0, hlog⟩]
      exact pending_hold h.1 hpend _ _
open Claims

/-! ### The youngest instance of a thread -/

theorem map_isortInsert {α β : Type} {key : α → β} {le : α → α → Bool} {le' : β → β → Bool}
    (h : ∀ a b, le a b = le' (key a) (key b)) (a : α) (l : List α) :
    (List.isortInsert le a l).map key = List.isortInsert le' (key a) (l.map key) := by
  induction l with
  | nil => rfl
  | cons b r ih =>
    simp only [List.isortInsert, List.map_cons, ← h]
    split
    · rfl
    · simp [ih]
/-- A list sorted by a key, seen through the key. -/
theorem map_isort {α β : Type} {key : α → β} {le : α → α → Bool} {le' : β → β → Bool}
    (h : ∀ a b, le a b = le' (key a) (key b)) (l : List α) : (l.isort le).map key = (l.map key).isort le' := by
  induction l with
  | nil => rfl
  | cons a r ih =>
    change (List.isortInsert le a (r.isort le)).map key = List.isortInsert le' (key a) ((r.map key).isort le')
    rw [map_isortInsert h, ih]

/-- What the order of the instances of a thread rests on. -/
def instKey (p : Nat × Inst) : Nat × Nat × Nat × Bool := (p.1, p.2.thr, p.2.seq, p.2.dying)

theorem Dev.map_instsOf (d : Dev) (t : Nat) : (d.instsOf t).map instKey =
    ((d.insts.map instKey).filter (fun k => k.2.1 == t && !k.2.2.2)).isort (fun a b => decide (a.2.2.1 ≤ b.2.2.1)) := by
  rw [List.filter_map]
  refine map_isort (fun a b => ?_) _
  rfl

/-- The number of the youngest instance rests on the keys alone. -/
theorem Dev.youngest_fst {d d' : Dev} (h : d'.insts.map instKey = d.insts.map instKey) (t : Nat) :
    (d'.youngest t).map Prod.fst = (d.youngest t).map Prod.fst := by
  have hlist : (d'.instsOf t).map instKey = (d.instsOf t).map instKey := by rw [Dev.map_instsOf, Dev.map_instsOf, h]
  have hlast := congrArg List.getLast? hlist
  simp only [List.getLast?_map] at hlast
  have := congrArg (Option.map Prod.fst) hlast
  simpa [Dev.youngest, Function.comp_def, instKey] using this

/-- A record replaced by one of the same key. -/
theorem Tbl.map_set {α β : Type} {key : Nat × α → β} {t : Tbl α} {k : Nat} {a b : α} (hb : t.look k = some b)
    (hk : key (k, a) = key (k, b)) : (t.set k a).map key = t.map key := by
  induction t with
  | nil => cases hb
  | cons p r ih =>
    obtain ⟨j, x⟩ := p
    by_cases hj : j = k
    · subst hj
      have hx : x = b := by simpa [Tbl.look] using hb
      subst hx
      simp [Tbl.set, hk]
    · have hb' : Tbl.look r k = some b := by simpa [Tbl.look, hj] using hb
      simp [Tbl.set, hj, ih hb']

/-! ### Following an exit -/

theorem Dev.thr_modThr_ne (d : Dev) {t n : Nat} (f : Thread → Thread) (h : n ≠ t) : (d.modThr t f).thr n = d.thr n := by
  unfold Dev.modThr
  split
  · exact Dev.thr_setThr_ne _ _ h
  · rfl

/-- Something of a thread that a change does not touch. -/
theorem Dev.map_thr_modThr {α : Type} (d : Dev) (t n : Nat) {f : Thread → Thread} (π : Thread → α) (h : ∀ u, π (f u) = π u) :
    ((d.modThr t f).thr n).map π = (d.thr n).map π := by
  by_cases hn : n = t
  · subst hn
    rw [Dev.thr_modThr]
    cases d.thr n with
    | none => rfl
    | some u => exact congrArg some (h u)
  · rw [Dev.thr_modThr_ne _ _ hn]

/-- What an exit that fired leaves where fetch had predicted none: its own instance remembers the prediction, its thread goes on at the
successor. -/
structure Dev.Followed (d d' : Dev) (iid : Nat) (x : Inst) (e : ExitFired) : Prop where
  ctxs : d'.ctxs = d.ctxs
  grids : d'.grids = d.grids
  flight : d'.flight = d.flight
  inst : d'.inst iid = some { x with predicted := e.target.map (fun a => (e.num, a)) }
  inst_ne : ∀ j, j ≠ iid → d'.inst j = d.inst j
  arch : ∀ n, (d'.thr n).map archOf = (d.thr n).map archOf
  next : ∀ u, d.thr x.thr = some u → ∃ u', d'.thr x.thr = some u' ∧
    u'.next = if e.opcode = 0x39 ∨ e.opcode = 0x3A then none else e.target

theorem Dev.followExit_followed {d : Dev} {iid : Nat} {x : Inst} (hx : d.inst iid = some x) (e : ExitFired) :
    d.Followed (d.followExit iid e) iid x e := by
  unfold Dev.followExit
  simp only [hx]
  refine ⟨by simp, by simp, by simp, by simp, fun j hj => ?_, fun n => ?_, fun u hu => ?_⟩
  · rw [Dev.inst_modThr, Dev.inst_setInst_ne _ _ hj]
  · exact Dev.map_thr_modThr _ _ n archOf fun _ => rfl
  · refine ⟨_, (Dev.thr_modThr _ _ _).trans (congrArg (Option.map _) hu), rfl⟩

/-- An exit fires and is the first of its instance. -/
theorem Dev.exitFired_of_none {d : Dev} {c : Firing} (hc : d.firing = some c) (hexit : c.x.exit = none) (e : ExitFired) (es : List Eff)
    (o : Out) :
    let d1 := d.answer { c with x := { c.x with exit := some e, exitAt := d.cycle } } es o
    d.exitFired c e es o =
      if (d.youngest c.x.thr).map Prod.fst = some c.iid ∧ c.x.predicted.isNone then d1.followExit c.iid e else d1 := by
  intro d1
  obtain ⟨-, hx, -, -⟩ := Dev.firing_spec hc
  have hkeys : d1.insts.map instKey = d.insts.map instKey := by
    refine Tbl.map_set hx ?_
    rfl
  have hyoung := Dev.youngest_fst hkeys c.x.thr
  have hfired : d.exitFired c e es o = (match d1.youngest c.x.thr with
    | some (y, _) => if y = c.iid ∧ c.x.predicted.isNone then d1.followExit c.iid e else d1
    | none => d1) := by
    simp only [Dev.exitFired, hexit, Option.isSome_none, Bool.false_eq_true, if_false]
    rfl
  rw [hfired, ← hyoung]
  cases d1.youngest c.x.thr with
  | none => simp
  | some p => simp

/-- The first exit of an instance is taken. -/
theorem exitTaken_exitFired {s : State} {c : Firing} (hc : s.dev.firing = some c) (hexit : c.x.exit = none) (e : ExitFired)
    (es : List Eff) (toks : List (Target × Tok)) :
    ExitTaken s { s with dev := s.dev.exitFired c e es ⟨toks, 0#6⟩ } c e es toks
      (if e.opcode = 0x39 ∨ e.opcode = 0x3A then none else e.target) := by
  have hfired := Dev.exitFired_of_none hc hexit e es ⟨toks, 0#6⟩
  dsimp only at hfired
  rw [hfired]
  have hne : ∀ (y : Inst) j, j ≠ c.iid → (s.dev.insts.set c.iid y).look j = s.dev.inst j := fun y j hj => Tbl.look_set_ne _ _ hj
  split
  next hyes =>
    obtain ⟨hctxs, hgrids, hflight, hinst, hother, harch, hnext⟩ := Dev.followExit_followed (Dev.emit_inst s.dev
      { c with x := { c.x with exit := some e, exitAt := s.dev.cycle, effs := c.x.effs ++ es.map (fun f => (effKey c, c.idx, f)) } }
      ⟨toks, 0#6⟩) e
    refine ⟨⟨rfl, rfl, rfl, hctxs, hgrids, fun j hj => (hother j hj).trans (hne _ j hj), harch⟩, hflight, ?_, fun _ _ u hu => hnext u hu⟩
    refine ⟨_, hinst, ?_⟩
    simp [withEffects, effKey]
  next hno =>
    refine ⟨⟨rfl, rfl, rfl, rfl, rfl, fun j hj => hne _ j hj, fun n => rfl⟩, rfl, ?_, fun hy hp => absurd ⟨hy, by simp [hp]⟩ hno⟩
    refine ⟨_, Dev.emit_inst s.dev _ _, ?_⟩
    simp [withEffects, effKey]

/-! ### The exits of the table -/

/-- An exit that operates, and whose address, where it has one, is that of a block. -/
theorem fireExit_fires {i : Instr} {num : Nat} {ind : Bool} {target : Firing → Option Nat} {effs : Firing → List Eff}
    {toks : Firing → List (Target × Tok)} {d : Dev} {c : Firing} (hc : d.firing = some c) (hp : c.ops.holds (prOf i) = true)
    (hn : c.ops.anyNull = false) (hind : (ind && badTarget c.ops.a0) = false) :
    fireExit i num ind target effs toks d = d.exitFired c ⟨num, opcode i, target c⟩ (effs c) { toks := toks c } := by
  simp [fireExit, hc, hp, hn, hind]
/-- One whose address is none of a block. -/
theorem fireExit_bad {i : Instr} {num : Nat} {target : Firing → Option Nat} {effs : Firing → List Eff}
    {toks : Firing → List (Target × Tok)} {d : Dev} {c : Firing} (hc : d.firing = some c) (hp : c.ops.holds (prOf i) = true)
    (hn : c.ops.anyNull = false) (hbad : badTarget c.ops.a0 = true) :
    fireExit i num true target effs toks d = d.holdAt c .alignment c.ops.a0.toNat 0 0 := by
  simp [fireExit, hc, hp, hn, hbad]

theorem badTarget_eq_false {a : Word} : badTarget a = false ↔ exitable a := by
  simp only [badTarget, bits_eq_toNat, exitable, Bool.or_eq_false_iff, bne_eq_false_iff_eq]
  rw [← BitVec.toNat_inj, ← BitVec.toNat_inj]
  rfl

/-- An exit of the table that fires first in its instance is taken. -/
theorem exitTaken_fireExit {i : Instr} {num : Nat} {ind : Bool} {target : Firing → Option Nat} {effs : Firing → List Eff}
    {toks : Firing → List (Target × Tok)} {s : State} {c : Firing} (h : Fires (prOf i) s c) (hexit : c.x.exit = none)
    (hind : ind = true → exitable (argA c)) :
    ∃ t, runD (fireExit i num ind target effs toks) s = .next t ∧ ExitTaken s t c ⟨num, opcode i, target c⟩ (effs c) (toks c)
      (if opcode i = 0x39 ∨ opcode i = 0x3A then none else target c) := by
  obtain ⟨hc, hp, hn⟩ := h
  have hb : (ind && badTarget c.ops.a0) = false := by
    cases ind with
    | false => rfl
    | true => exact badTarget_eq_false.2 (hind rfl)
  refine ⟨_, runD_eq _ _, ?_⟩
  rw [fireExit_fires hc hp hn hb]
  exact exitTaken_exitFired hc hexit _ _ _

/-- The faults of an indirect exit: an address that no block has, and an exit after another. -/
theorem pending_fireExit {i : Instr} {num : Nat} {target : Firing → Option Nat} {effs : Firing → List Eff}
    {toks : Firing → List (Target × Tok)} {s : State} {c : Firing} (h : Fires (prOf i) s c) (hpend : c.x.pend = none) :
    (¬exitable (argA c) → ∃ t, runD (fireExit i num true target effs toks) s = .next t ∧ t.mem = s.mem ∧ t.mgmt = s.mgmt ∧
      Pending t c.iid (pendAt c .alignment (argA c).toNat 0 0)) ∧
    (exitable (argA c) → c.x.exit ≠ none → ∃ t, runD (fireExit i num true target effs toks) s = .next t ∧ t.mem = s.mem ∧
      t.mgmt = s.mgmt ∧ Pending t c.iid { cause := .exitConflict, w3 := BitVec.ofNat 64 (2 + c.idx * 2 ^ 8) }) := by
  obtain ⟨hc, hp, hn⟩ := h
  refine ⟨fun hbad => ⟨_, runD_eq _ _, rfl, rfl, ?_⟩, fun hok hexit => ⟨_, runD_eq _ _, rfl, rfl, ?_⟩⟩
  · rw [fireExit_bad hc hp hn (by rw [← Bool.not_eq_false, badTarget_eq_false]; exact hbad)]
    exact pending_hold hc hpend _ _
  · have hind : (true && badTarget c.ops.a0) = false := badTarget_eq_false.2 hok
    rw [fireExit_fires hc hp hn hind]
    simp only [Dev.exitFired, Option.isSome_iff_ne_none.2 hexit, if_true]
    exact pending_hold hc hpend _ _

/-! ### Hints and breakpoints -/

theorem joinFill_frame {d e : Dev} {field c blk n : Nat} {k : Word} {j h : List Nat} (hj : d.joinFill field c k blk n j h = some e) :
    e.threads = d.threads ∧ e.insts = d.insts ∧ e.flight = d.flight := by
  unfold Dev.joinFill at hj
  dsimp only at hj
  split at hj
  · cases hj; exact ⟨rfl, rfl, rfl⟩
  · split at hj
    · cases hj
    · cases hj; exact ⟨rfl, rfl, rfl⟩

theorem exec_hint (f : FmtX) {s : State} {c : Firing} {u : Thread} (h : Fires f.pr s c) (hu : s.dev.thr c.x.thr = some u) :
    ∃ t, exec (.hint f) s = .next t ∧ t.mem = s.mem ∧ t.mgmt = s.mgmt ∧ t.dev.threads = s.dev.threads ∧
      t.dev.insts = s.dev.insts.set c.iid { c.x with fired := c.idx :: c.x.fired } ∧ t.dev.flight = s.dev.flight := by
  obtain ⟨hc, hp, hn⟩ := h
  refine ⟨_, runR_eq _ _, rfl, rfl, ?_⟩
  rw [fireLoad_holds (i := .hint f) (w := s.toW) hc hu hp hn]
  extract_lets a d r
  have hd : d.threads = s.dev.threads ∧ d.insts = s.dev.insts.set c.iid { c.x with fired := c.idx :: c.x.fired } ∧
      d.flight = s.dev.flight := by
    refine ⟨rfl, ?_, List.append_nil _⟩
    simp [d, Dev.emit, Dev.setInst]
    rfl
  split
  · exact hd
  · split
    · cases hj : d.joinFill (fieldOf c.x.grid) u.ctx (d.kernelOf u) a u.regCnt [] [c.x.grid] with
      | none => exact hd
      | some e =>
        obtain ⟨h1, h2, h3⟩ := joinFill_frame hj
        exact ⟨h1.trans hd.1, h2.trans hd.2.1, h3.trans hd.2.2⟩
    · exact hd

theorem exec_brkp (f : FmtX) {s : State} {c : Firing} (h : Fires f.pr s c) : exec (.brkp f) s =
    .next (sent s { c with x := { c.x with brkp := some (f.offs.extractLsb' 0 16).toNat } } []) := by
  obtain ⟨hc, hp, -⟩ := h
  have hnum : bits f.offs 15 0 = (f.offs.extractLsb' 0 16).toNat := bits_eq_toNat ..
  simp only [exec, execBrkp, runD_eq, hc, hp, hnum]
  rfl

/-- Settles O49: every exit is one firing (`exitTaken_fireExit`, `pending_fireExit`). -/
theorem exits : Obligations.Exits := by
  unfold Obligations.Exits
  refine ⟨fun f s c u h hu hexit => ?_, fun i hi f s c u h hu hpend => ?_, fun f s c u h hu => ⟨exec_hint f h hu, exec_brkp f h⟩⟩
  · refine ⟨?_, fun ha => ?_, ?_, fun ha => ?_, fun ha => ?_, ?_, ?_, ?_, ?_, ?_⟩
    · exact exitTaken_fireExit (i := .br f) h hexit nofun
    · exact exitTaken_fireExit (i := .brind f) h hexit fun _ => ha
    · exact exitTaken_fireExit (i := .call f) h hexit nofun
    · exact exitTaken_fireExit (i := .calli f) h hexit fun _ => ha
    · exact exitTaken_fireExit (i := .ret f) h hexit fun _ => ha
    · exact exitTaken_fireExit (i := .loop f) h hexit nofun
    · exact exitTaken_fireExit (i := .halt f) h hexit nofun
    · exact exitTaken_fireExit (i := .yield f) h hexit nofun
    · exact exitTaken_fireExit (i := .trap f) h hexit nofun
    · exact exitTaken_fireExit (i := .sys f) h hexit nofun
  · simp only [List.mem_cons, List.not_mem_nil, or_false] at hi
    rcases hi with rfl | rfl | rfl
    · exact pending_fireExit (i := .brind f) h hpend
    · exact pending_fireExit (i := .calli f) h hpend
    · exact pending_fireExit (i := .ret f) h hpend

end Sys2Proof.Machine
end

section
/-!
PROOFS, 02 blocks and threads: a step runs the head of its agenda, and time.
-/

namespace Sys2Proof.Machine

/-! ### Time -/

/-- No instance comes or goes with time. -/
theorem Dev.pass_insts_length (d : Dev) (bstep dt : Nat) : (d.pass bstep dt).insts.length = d.insts.length := by
  simp [Dev.pass, Dev.markSteps]

theorem Dev.pass_now (d : Dev) (bstep dt : Nat) : (d.pass bstep dt).now =
    d.now + if bstep ≤ 1 then 0 else d.nsRate * (d.cycle + dt) / 6000000 - d.nsRate * d.cycle / 6000000 := rfl

/-- Without a slew six cycles are five nanoseconds. -/
theorem Dev.pass_now_of_no_slew {d : Dev} (hs : d.slew = 0) {bstep : Nat} (hb : 2 ≤ bstep) (dt : Nat) :
    (d.pass bstep dt).now = d.now + (5 * (d.cycle + dt) / 6 - 5 * d.cycle / 6) := by
  have hrate : d.nsRate = 5000000 := by simp [Dev.nsRate, hs]
  have hns : ∀ x, 5000000 * x / 6000000 = 5 * x / 6 := fun x => by omega
  rw [Dev.pass_now, if_neg (by omega), hrate, hns, hns]

/-! ### One step -/

theorem step_cons {s : State} {dt : Nat} {a : Act} {rest : List Sched} (h : s.agenda = ⟨dt, a⟩ :: rest) :
    step s = State.perform { s with dev := s.dev.pass s.mgmt.bstep dt, agenda := rest } a := by
  rw [step, State.advance, h]

theorem step_nil {s : State} (h : s.agenda = []) : step s = s.goOn := by
  simp [step, State.advance, h]

theorem fireAt_ok {s : State} {iid idx : Nat} {x : Inst} {b : Block} {i : Instr} (hx : s.dev.inst iid = some x) (hb : x.code = some b)
    (hi : decodeWord (b.word idx) = .ok i) : s.fireAt iid idx = exec i { s with dev := { s.dev with focus := some (iid, idx) } } := by
  simp [State.fireAt, hx, hb, hi]
theorem fireAt_err {s : State} {iid idx : Nat} {x : Inst} {b : Block} {e : DecErr} (hx : s.dev.inst iid = some x) (hb : x.code = some b)
    (he : decodeWord (b.word idx) = .err e) : s.fireAt iid idx = .fault .undecodable := by
  simp [State.fireAt, hx, hb, he]

theorem happen_event {i : Instr} (h : encode i = []) (s : State) (arg : EvArg) :
    s.happen i arg = exec i { s with dev := { s.dev with arg := arg } } := by
  simp [State.happen, recordFor, h]
/-- A command goes, or stands in line (10 R284, R285). -/
theorem happen_command {i : Instr} {a b c d e f g h : Word} (hi : encode i = [a, b, c, d, e, f, g, h]) (s : State) (arg : EvArg) :
    let r := recordOf a b c d e f g h
    let k := s.dev.ctx (recordCtx r)
    s.happen i arg = if s.mgmt.bstep = 11 ∧ k.takes r = true ∧ (k.posted = [] ∨ k.heldCmds ≠ []) then
        exec i { s with dev := { s.dev with arg := arg } }
      else .next { s with dev := s.dev.modCtx (recordCtx r) (fun k => { k with posted := k.posted ++ [r] }) } := by
  simp only [State.happen, recordFor, hi]

/-- What lets a command go. -/
theorem takes_iff (k : Ctx) (r : BitVec 512) : (k.takes r = true ∧ (k.posted = [] ∨ k.heldCmds ≠ [])) ↔
    (k.heldCmds = [] ∧ k.posted = []) ∨ (k.heldCmds ≠ [] ∧ k.st = .dumping ∧ r.extractLsb' 0 8 = 0x0B#8) := by
  by_cases h : k.heldCmds = []
  · simp [Ctx.takes, h]
  · simp [Ctx.takes, h]

/-- The instance that a program of one instruction places is there after any time. -/
theorem loadWord_inst (s : State) (w : Word) (bstep : Nat) : ∃ x b, ((s.loadWord w).dev.pass bstep 0).inst (s.dev.nextId + 1) = some x ∧
    x.code = some b ∧ b.word 0 = w := by
  simp [State.loadWord, Dev.pass, Dev.markSteps, Dev.inst, Tbl.look, Inst.running, probeBlock, Block.word]

/-- Settles O39: a step by the head of its agenda (`step_cons`), and time (`Dev.pass`). -/
theorem stepRuns : Obligations.StepRuns := by
  unfold Obligations.StepRuns
  refine ⟨?_, ?_, fun s w i hi => ?_, fun d bstep dt => ?_, fun s hs hb => ?_⟩
  · intro s dt iid idx rest x b hs s' hx hb
    rw [step_cons hs]
    exact ⟨fun i hi => fireAt_ok hx hb hi, fun e he => fireAt_err hx hb he⟩
  · intro s dt i arg rest hs s'
    refine ⟨fun hi => ?_, ?_⟩
    · rw [step_cons hs]
      exact happen_event hi _ _
    intro a b c d e f g h hi r n k goes
    have hgoes := takes_iff k r
    have hstep : step s = _ := (step_cons hs).trans (happen_command hi _ _)
    refine ⟨fun hb hg => ?_, fun hno => ?_⟩
    · rw [hstep]
      exact if_pos ⟨hb, hgoes.2 hg⟩
    · rw [hstep]
      refine if_neg fun hyes => ?_
      obtain ⟨hb, hg⟩ := hyes
      exact hno.elim (fun h => h hb) (fun h => h (hgoes.1 hg))
  · obtain ⟨x, b, hx, hb, hw⟩ := loadWord_inst s (BitVec.ofNat 64 w) s.mgmt.bstep
    have hload : s.withFetchWord 64 w = s.loadWord (BitVec.ofNat 64 w) := rfl
    rw [hload, step_cons (s := s.loadWord (BitVec.ofNat 64 w)) rfl]
    refine ⟨_, s.dev.nextId + 1, fireAt_ok hx hb (by rw [hw]; exact hi), rfl, rfl, rfl, x, b, hx, hb, hw⟩
  · refine ⟨rfl, Nat.le_add_right _ _, rfl, rfl, d.pass_insts_length bstep dt, fun hb => ?_, fun hs hb => Dev.pass_now_of_no_slew hs hb dt⟩
    rw [Dev.pass_now, if_pos hb]
    rfl
  · rw [step_nil hs]
    exact if_pos hb

end Sys2Proof.Machine
end

section
/-!
PROOFS, 02 blocks and threads: loads, what they wait for and what they send.
-/

namespace Sys2Proof.Machine
open Claims

/-! ### What leaves the bytes of memory alone -/

@[simp] theorem W.touchIn_ov (w : W) (u x : Nat) : (w.touchIn u x).ov = w.ov := by
  unfold W.touchIn
  split
  · rfl
  · split
    · rfl
    · split
      · split <;> rfl
      · rfl
@[simp] theorem W.touch_ov (w : W) (x : Nat) : (w.touch x).ov = w.ov := W.touchIn_ov ..

@[simp] theorem W.rights_ov (w : W) (g c x : Nat) : (w.rights g c x).2.ov = w.ov := by
  unfold W.rights
  split
  · rfl
  · split <;> rfl

@[simp] theorem W.check_ov (w : W) (t : Thread) (need : BitVec 3) (a n align : Nat) : (w.check t need a n align).2.ov = w.ov := by
  unfold W.check
  split
  · rfl
  · split
    · rfl
    · dsimp only
      split
      · simp
      · split
        · simp
        · simp

@[simp] theorem W.probe_ov (w : W) (t : Thread) (a : Nat) : (w.probe t a).2.ov = w.ov := by
  unfold W.probe
  dsimp only
  split
  · rfl
  · dsimp only
    split
    · rfl
    · simp

/-! ### Addresses and bytes of tokens -/

theorem memAddr_eq (f : FmtM) (c : Firing) : memAddr c.ops.a0 (mOff f) = addrOf f c := rfl

/-- The bytes of a number in base 256. -/
theorem ofBytes_eq (bs : List Byte) : ofBytes bs = (bs.map BitVec.toNat).foldr (fun x acc => x % 2 ^ 8 + 2 ^ 8 * acc) 0 := by
  induction bs with
  | nil => rfl
  | cons b r ih =>
    have hb : b.toNat % 2 ^ 8 = b.toNat := Nat.mod_eq_of_lt b.isLt
    rw [List.map_cons, List.foldr_cons, ← ih, hb]
    rfl

/-- A byte of a token that was made from bytes. -/
theorem byteAt_vecOfBytes (bs : List Byte) {i : Nat} (hi : i < 64) : byteAt (vecOfBytes bs) i = bs.getD i 0#8 := by
  have hv : vecOfBytes bs = ofLanes 8 (bs.map BitVec.toNat) := congrArg (BitVec.ofNat 512) (ofBytes_eq bs)
  have hget : (bs.map BitVec.toNat).getD i 0 = (bs.getD i 0#8).toNat := by
    simp only [List.getD, List.getElem?_map]
    cases bs[i]? <;> rfl
  rw [byteAt, hv, extract_eq_lane, lane_ofLanes _ _ _ (by omega), hget, Nat.mod_eq_of_lt (BitVec.isLt _), BitVec.ofNat_toNat,
    BitVec.setWidth_eq]

/-! ### What a load waits for -/

theorem Inst.storesBelow_iff (x : Inst) (b : Block) (l : Nat) :
    x.storesBelow b l = true ↔ ∀ k < l, b.storeMask.testBit k = true → k ∈ x.lsids := by
  simp [Inst.storesBelow, or_iff_not_imp_left]

theorem Inst.acquiresBelow_iff (x : Inst) (b : Block) (l : Nat) : x.acquiresBelow b l = true ↔
    ∀ q ∈ b.slots, ∀ k < l, lsidOf q.2 = some k → isAcquire q.2 = true → q.1 ∈ x.fired ∧ k ∉ x.acquires := by
  rw [Inst.acquiresBelow, List.all_eq_true]
  refine forall₂_congr fun q _ => ?_
  cases hl : lsidOf q.2 with
  | none => simp
  | some k =>
    simp only [Option.some.injEq]
    constructor
    · rintro h j hj rfl ha
      simpa [ha, hj] using h
    · intro h
      by_cases hk : k < l
      · cases ha : isAcquire q.2 with
        | false => simp
        | true => simpa [hk] using h k hk rfl ha
      · simp [hk]

/-- A load may be performed: 02 R33, R34, 09 R269, 16 R449. -/
theorem mayLoad_iff (s : State) (c : Firing) (u : Thread) (l : Nat) : s.dev.mayLoad c u l = true ↔ LoadReady s c u l := by
  have hpred : (!s.dev.predicted c.x l || (s.dev.olderOf c.x).all (fun p => p.2.storesDone)) = true ↔
      ((∃ e ∈ (s.dev.grid c.x.grid).pred, e.blk = c.x.blk ∧ e.lsid = l) → ∀ p ∈ s.dev.olderOf c.x, p.2.storesDone = true) := by
    rw [Bool.or_eq_true, Bool.not_eq_true', List.all_eq_true, or_iff_not_imp_left, Bool.not_eq_false, Dev.predicted, List.any_eq_true]
    simp
  unfold Dev.mayLoad LoadReady
  rw [Bool.and_eq_true, Bool.and_eq_true, Bool.and_eq_true, Inst.storesBelow_iff, Inst.acquiresBelow_iff, hpred, and_assoc, and_assoc]
  cases u.joinWait <;> simp

/-! ### The instances of a thread in order -/

/-- The order of a list is that of Mathlib's insertion sort. -/
theorem isort_eq {α : Type} (le : α → α → Bool) (l : List α) : l.isort le = l.insertionSort (fun a b => le a b = true) := by
  have hins : ∀ (a : α) (r : List α), List.isortInsert le a r = r.orderedInsert (fun a b => le a b = true) a := by
    intro a r
    induction r with
    | nil => rfl
    | cons b r ih => rw [List.isortInsert, List.orderedInsert_cons, ih]
  induction l with
  | nil => rfl
  | cons a r ih =>
    rw [List.insertionSort_cons, ← ih, ← hins]
    rfl

theorem Dev.mem_instsOf {d : Dev} {t : Nat} {p : Nat × Inst} : p ∈ d.instsOf t ↔ p ∈ d.insts ∧ p.2.thr = t ∧ p.2.dying = false := by
  simp [Dev.instsOf, isort_eq]

theorem Dev.instsOf_pairwise (d : Dev) (t : Nat) : (d.instsOf t).Pairwise (fun a b => a.2.seq ≤ b.2.seq) := by
  rw [Dev.instsOf, isort_eq]
  have : Std.Total (fun a b : Nat × Inst => decide (a.2.seq ≤ b.2.seq) = true) := ⟨fun a b => by simpa using Nat.le_total _ _⟩
  have : IsTrans (Nat × Inst) (fun a b => decide (a.2.seq ≤ b.2.seq) = true) := ⟨fun a b c => by simpa using Nat.le_trans⟩
  exact (List.pairwise_insertionSort _ _).imp of_decide_eq_true

/-! ### A load that is performed -/

theorem Dev.mem_set {α : Type} {t : Tbl α} {k : Nat} {a : α} {q : Nat × α} (h : q ∈ t.set k a) : q = (k, a) ∨ q ∈ t := by
  induction t with
  | nil => exact .inl (by simpa [Tbl.set] using h)
  | cons p r ih =>
    rw [Tbl.set] at h
    split at h
    · rcases List.mem_cons.1 h with h | h
      · exact .inl h
      · exact .inr (List.mem_cons_of_mem _ h)
    · rcases List.mem_cons.1 h with h | h
      · exact .inr (h ▸ List.mem_cons_self)
      · exact (ih h).imp_right (List.mem_cons_of_mem _)

/-- What a load that contradicts no later one leaves. -/
theorem loadDone_performed {w : W} {c : Firing} {l : Nat} {scr : Option Nat} {cs : List Host.Cell} (s : State)
    (toks : List (Target × Tok)) (h : w.d.incoherent c.x l scr cs = none) :
    { s with dev := w.d.loadDone c l scr cs ⟨toks, 0#6⟩, mem := s.mem.writeAll w.ov.reverse } = performed s w c l scr cs toks := by
  rw [Dev.loadDone_eq _ _ _ _ _ _ h]
  simp [performed, Dev.emit, Dev.setInst, inFlight, sends]
open Claims

/-! ### Acquires -/

/-- A write-back that takes no line writes nothing. -/
theorem l2Flush_none (w : W) (c : Nat) (host : Bool) : w.l2Flush c host (fun _ => false) = w := by
  simp [W.l2Flush]

/-- Where no line of the access is one of another package, an acquire reads past the unowned copies of its grids alone. -/
theorem acquireLines_of_not_remote {w : W} {u : Thread} {sc a : Nat}
    (h : ∀ q, a / 32 ≤ q → q ≤ (a + 63) / 32 → w.isRemote (32 * q) = false) : w.acquireLines u sc a 64 = pastUnowned sc a u w := by
  have hit_eq : ∀ line, (decide (lineOf a ≤ line) && decide (line ≤ lineOf (a + 64 - 1))) = decide (a / 32 ≤ line ∧ line ≤ (a + 63) / 32) :=
    fun line => (Bool.decide_and _ _).symm
  have hfar : ∀ (d : Dev) line, (decide (a / 32 ≤ line ∧ line ≤ (a + 63) / 32) && ({ w with d := d } : W).isRemote (32 * line)) = false := by
    intro d line
    by_cases hl : a / 32 ≤ line ∧ line ≤ (a + 63) / 32
    · have : ({ w with d := d } : W).isRemote (32 * line) = false := h line hl.1 hl.2
      simp [this]
    · simp [hl]
  have hflush : ∀ d : Dev, ({ w with d := d } : W).l2Flush u.ctx false (fun _ => false) = { w with d := d } := fun d =>
    l2Flush_none _ _ _
  unfold W.acquireLines pastUnowned
  simp only [hit_eq]
  by_cases h3 : 3 ≤ sc
  · have h2 : 2 ≤ sc := by omega
    simp only [if_pos h3, if_pos h2, hfar, hflush]
    simp
  · simp only [if_neg h3]
    split <;> rfl

/-- An acquire that no younger load precedes flushes nothing. -/
theorem acquireFlush_of_noYoungLoad {d : Dev} {x : Inst}
    (h : ∀ q ∈ d.insts, q.2.thr = x.thr → x.seq < q.2.seq → ∀ a ∈ q.2.accs, a.isStore = true) : d.acquireFlush x = d := by
  have hfind : ((d.instsOf x.thr).filter (fun p => decide (x.seq < p.2.seq))).find? (fun p => p.2.accs.any (fun a => !a.isStore)) = none := by
    rw [List.find?_eq_none]
    intro p hp
    obtain ⟨hin, hseq⟩ := List.mem_filter.1 hp
    obtain ⟨hmem, hthr, -⟩ := Dev.mem_instsOf.1 hin
    simpa using h p hmem hthr (of_decide_eq_true hseq)
  rw [Dev.acquireFlush, hfind]

/-! ### What `ld` and `lda` come to -/

/-- A load that is not ready waits. -/
theorem loadVec_of_not_mayLoad {f : FmtM} {acq : Option Nat} {w : W} {c : Firing} {u : Thread}
    (h : w.d.mayLoad c u f.lsid.toNat = false) : loadVec f acq w c u = w := by
  unfold loadVec
  simp [h]

/-- One that takes a byte from an atomic still to be performed waits. -/
theorem loadVec_of_owed {f : FmtM} {acq : Option Nat} {w w1 : W} {c : Firing} {u : Thread}
    (h : w.d.mayLoad c u f.lsid.toNat = true) (hc : w.check u rR (addrOf f c) 64 (tyBits f.ty / 8) = (.ok, w1))
    (ho : c.x.owed c.code f.lsid.toNat (addrs (addrOf f c) 64) = true) : loadVec f acq w c u = w1 := by
  have ho' : c.x.owed c.code f.lsid.toNat (span (addrOf f c) 64) = true := ho
  unfold loadVec
  simp [h, memAddr_eq, elBytes, hc, ho']

theorem mayDevice_of_may {w : W} {c : Firing} {u : Thread} {a : Nat}
    (h : w.deviceOrdered u a = false ∨ w.d.isOldest c.x = true) : w.mayDevice c u a = true := by
  simpa [W.mayDevice] using h

/-- A load whose access is allowed, served and contradicted by none. -/
theorem loadVec_ok {f : FmtM} {w w1 w2 : W} {c : Firing} {u : Thread} {cs : List Host.Cell}
    (h : w.d.mayLoad c u f.lsid.toNat = true) (hc : w.check u rR (addrOf f c) 64 (tyBits f.ty / 8) = (.ok, w1))
    (hd : (w1.deviceOrdered u (addrOf f c) = false ∧ w1.deviceOrdered u (addrOf f c + 63) = false) ∨ w1.d.isOldest c.x = true)
    (ho : c.x.owed c.code f.lsid.toNat (addrs (addrOf f c) 64) = false)
    (hl : w1.loadCells c.x u f.lsid.toNat (addrs (addrOf f c) 64) = (.ok cs, w2)) :
    loadVec f none w c u = { w2 with
      d := w2.d.loadDone c f.lsid.toNat none cs ⟨[(f.t0, .val (vecOfBytes (cs.map Prod.snd)))], 0#6⟩ } := by
  have h1 := mayDevice_of_may (hd.imp_left And.left)
  have h2 := mayDevice_of_may (hd.imp_left And.right)
  have ho' : c.x.owed c.code f.lsid.toNat (span (addrOf f c) 64) = false := ho
  have hl' : w1.loadCells c.x u f.lsid.toNat (span (addrOf f c) 64) = (.ok cs, w2) := hl
  unfold loadVec
  simp [h, memAddr_eq, elBytes, hc, h1, h2, ho', hl']

/-- One that acquires: it flushes what is younger and has performed a load, and drops what its scope makes stale. -/
theorem loadVec_acquire {f : FmtM} {w w1 w2 : W} {c : Firing} {u : Thread} {cs : List Host.Cell} {sc : Nat}
    (h : w.d.mayLoad c u f.lsid.toNat = true) (hc : w.check u rR (addrOf f c) 64 (tyBits f.ty / 8) = (.ok, w1))
    (hd : (w1.deviceOrdered u (addrOf f c) = false ∧ w1.deviceOrdered u (addrOf f c + 63) = false) ∨ w1.d.isOldest c.x = true)
    (ho : c.x.owed c.code f.lsid.toNat (addrs (addrOf f c) 64) = false)
    (hl : (w1.acquireLines u sc (addrOf f c) 64).loadCells c.x u f.lsid.toNat (addrs (addrOf f c) 64) = (.ok cs, w2)) :
    loadVec f (some sc) w c u = { w2 with
      d := ((w2.d.loadDone c f.lsid.toNat none cs ⟨[(f.t0, .val (vecOfBytes (cs.map Prod.snd)))], 0#6⟩).acquire
        sc u.grids (fun q => w2.isRemote (32 * q))).acquireFlush c.x } := by
  have h1 := mayDevice_of_may (hd.imp_left And.left)
  have h2 := mayDevice_of_may (hd.imp_left And.right)
  have ho' : c.x.owed c.code f.lsid.toNat (span (addrOf f c) 64) = false := ho
  have hl' : (w1.acquireLines u sc (addrOf f c) 64).loadCells c.x u f.lsid.toNat (span (addrOf f c) 64) = (.ok cs, w2) := hl
  unfold loadVec
  simp [h, memAddr_eq, elBytes, hc, h1, h2, ho', hl', W.acquireBy, W.isRemote, W.isLocal, W.isHost]

/-- An instruction that reads lines, in a slot that fires. -/
theorem run_fireFill {i : Instr} {g : W → Firing → Thread → W} {s : State} {c : Firing} {u : Thread} (h : Fires (prOf i) s c)
    (hu : s.dev.thr c.x.thr = some u) : run (fireFill i g) s =
      .next { s with dev := (g s.toW c u).d, mem := s.mem.writeAll (g s.toW c u).ov.reverse } := by
  rw [run_eq, fireFill_holds (w := s.toW) h.1 hu h.2.1 h.2.2]

/-- A meaning that ends with the bytes of memory as they were. -/
theorem next_of_ov {s : State} {w : W} (h : w.ov = []) :
    ({ s with dev := w.d, mem := s.mem.writeAll w.ov.reverse } : State) = { s with dev := w.d } := by
  rw [h]
  rfl

/-- `ld` whose access is allowed, served and contradicted by none. -/
theorem exec_ld {f : FmtM} {s : State} {c : Firing} {u : Thread} {w1 w2 : W} {cs : List Host.Cell} (h : Fires f.pr s c)
    (hu : s.dev.thr c.x.thr = some u) (hr : s.dev.mayLoad c u f.lsid.toNat = true)
    (hc : s.toW.check u rR (addrOf f c) 64 (tyBits f.ty / 8) = (.ok, w1))
    (hd : (w1.deviceOrdered u (addrOf f c) = false ∧ w1.deviceOrdered u (addrOf f c + 63) = false) ∨ w1.d.isOldest c.x = true)
    (ho : c.x.owed c.code f.lsid.toNat (addrs (addrOf f c) 64) = false)
    (hl : w1.loadCells c.x u f.lsid.toNat (addrs (addrOf f c) 64) = (.ok cs, w2))
    (hi : w2.d.incoherent c.x f.lsid.toNat none cs = none) :
    exec (.ld f) s = .next (performed s w2 c f.lsid.toNat none cs [(f.t0, .val (vecOfBytes (cs.map Prod.snd)))]) := by
  rw [exec, execLd, run_fireFill (i := .ld f) h hu, loadVec_ok hr hc hd ho hl]
  exact congrArg _ (loadDone_performed s _ hi)

theorem exec_ld_wait {s : State} {c : Firing} {u : Thread} {f : FmtM} {w : W} (h : Fires f.pr s c) (hu : s.dev.thr c.x.thr = some u)
    (hov : w.ov = []) (hw : ∀ acq, loadVec f acq s.toW c u = w) :
    exec (.ld f) s = .next { s with dev := w.d } ∧ exec (.lda f) s = .next { s with dev := w.d } := by
  constructor
  · rw [exec, execLd, run_fireFill (i := .ld f) h hu, hw, next_of_ov hov]
  · rw [exec, execLda, run_fireFill (i := .lda f) h hu, hw, next_of_ov hov]

/-! ### Gathers -/

/-- The reads of a gather, lane after lane, by what the next lane does to what the lanes before it have read. -/
theorem foldl_gathers {c : Firing} {u : Thread} {l n : Nat}
    {F : Except W (List (List Host.Cell) × W) → Option Nat → Except W (List (List Host.Cell) × W)}
    (hnone : ∀ q w, F (.ok (q, w)) none = .ok (q ++ [[]], w))
    (hsome : ∀ q w w1 w2 a cs, w.check u rR a n n = (.ok, w1) → w1.mayDevice c u a = true → c.x.owed c.code l (addrs a n) = false →
      w1.loadCells c.x u l (addrs a n) = (.ok cs, w2) → F (.ok (q, w)) (some a) = .ok (q ++ [cs], w2))
    {as : List (Option Nat)} {q r : List (List Host.Cell)} {w w' : W} (h : gathers c u l n w as = some (r, w')) :
    as.foldl F (.ok (q, w)) = .ok (q ++ r, w') := by
  induction as generalizing q r w with
  | nil =>
    cases h
    simp
  | cons o as ih =>
    rw [List.foldl_cons]
    cases o with
    | none =>
      obtain ⟨⟨r1, w1⟩, hr, hq⟩ := Option.map_eq_some_iff.1 h
      cases hq
      rw [hnone, ih hr, List.append_assoc, List.singleton_append]
    | some a =>
      rw [gathers] at h
      split at h
      next w1 hc =>
        split at h
        · cases h
        next hno =>
          simp only [Bool.or_eq_true, not_or, Bool.not_eq_true] at hno
          split at h
          next cs w2 hl =>
            obtain ⟨⟨r1, w3⟩, hr, hq⟩ := Option.map_eq_some_iff.1 h
            cases hq
            have hmay : w1.mayDevice c u a = true := by
              rw [← Bool.not_not (w1.mayDevice c u a), W.mayDevice, Bool.not_or, Bool.not_not, hno.1]
              rfl
            rw [hsome _ _ _ _ _ _ hc hmay hno.2 hl, ih hr, List.append_assoc, List.singleton_append]
          · cases h
      · cases h

/-- The least number of a type of n bits, as a lane and as a signed number. -/
theorem sgn_eq_least_iff {n x : Nat} (hn : 0 < n) : sgn n x = -2 ^ (n - 1) ↔ x = 2 ^ (n - 1) := by
  have e : (2 : Int) ^ n = 2 * 2 ^ (n - 1) := by
    rw [← pow_succ']
    congr 1
    omega
  have hpos : (0 : Int) < 2 ^ (n - 1) := by positivity
  have hcast : ((2 ^ (n - 1) : Nat) : Int) = 2 ^ (n - 1) := by norm_cast
  unfold sgn
  rw [e]
  generalize (2 : Nat) ^ (n - 1) = p at hcast ⊢
  rw [← hcast] at hpos ⊢
  split <;> omega

theorem tyBits_pos (ty : BitVec 4) : 0 < tyBits ty := by
  unfold tyBits
  split <;> decide

/-- The addresses of the lanes of a gather or a scatter. -/
theorem gatherAddrs_eq (f : FmtM) (c : Firing) :
    gatherAddrs f c.ops.a0 c.ops.vb = (List.range (512 / tyBits f.ty)).map (laneAddr f c) := by
  rw [gatherAddrs, lanes, List.map_map]
  refine List.map_congr_left fun k _ => ?_
  have hval : (elem (tyBits f.ty) c.ops.vb k).toInt = sgn (tyBits f.ty) (lane (tyBits f.ty) c.ops.vb k) := by
    rw [sgn_eq _ _ (lane_lt ..), elem, extract_eq_lane]
  have hleast := sgn_eq_least_iff (x := lane (tyBits f.ty) c.ops.vb k) (tyBits_pos f.ty)
  simp only [laneAddr, hval, hleast, Function.comp_apply]
  rfl

/-- A gather whose lanes are allowed and served, contradicted by none. -/
theorem exec_ldg {f : FmtM} {s : State} {c : Firing} {u : Thread} {q : List (List Host.Cell)} {w' : W} (h : Fires f.pr s c)
    (hu : s.dev.thr c.x.thr = some u) (hr : s.dev.mayLoad c u f.lsid.toNat = true)
    (hq : gathers c u f.lsid.toNat (tyBits f.ty / 8) s.toW ((List.range (512 / tyBits f.ty)).map (laneAddr f c)) = some (q, w')) :
    exec (.ldg f) s = .next { s with
      dev := w'.d.loadDone c f.lsid.toNat none q.flatten
        ⟨[(f.t0, .val (ofLanes (8 * (tyBits f.ty / 8)) (q.map (fun cs => ofBytes (cs.map Prod.snd)))))], 0#6⟩
      mem := s.mem.writeAll w'.ov.reverse } := by
  have hr' : s.toW.d.mayLoad c u f.lsid.toNat = true := hr
  rw [exec, execLdg, run_fireFill (i := .ldg f) h hu]
  simp only [hr', gatherAddrs_eq, Bool.not_true, elBytes]
  rw [foldl_gathers _ _ hq]
  · rfl
  · intros; rfl
  · intro q w w1 w2 a cs hc hm ho hl
    have ho' : c.x.owed c.code f.lsid.toNat (span a (tyBits f.ty / 8)) = false := ho
    have hl' : w1.loadCells c.x u f.lsid.toNat (span a (tyBits f.ty / 8)) = (.ok cs, w2) := hl
    simp only [hc, hm, ho', hl', Bool.not_true, Bool.or_self]
    rfl

/-! ### Scratchpad -/

/-- An address in the window of its thread has a grid and a key (08 R220). -/
theorem spAddr_of_inWindow {s : State} {u : Thread} {a n : Nat} (h : InWindow s u a n) :
    s.dev.spAddr u a n = some (spGridOf u a, spKeyOf s u a) := by
  obtain ⟨h28, h21, hcg, hsz⟩ := h
  have hno : ¬(2 ^ 28 ≤ a ∨ a / 2 ^ 21 % 8 ≠ 0 ∨ u.width ≤ a / 2 ^ 24 % 16 ∨ s.dev.scratchSize u < a % 2 ^ 21 + n) := by
    rintro (h | h | h | h)
    · exact absurd h28 (Nat.not_lt.2 h)
    · exact h h21
    · exact absurd hcg (Nat.not_lt.2 h)
    · exact absurd hsz (Nat.not_le.2 h)
  exact if_neg hno

theorem spPoison_iff (w : W) (k n : Nat) : w.spPoison k n = true ↔ ∃ p ∈ w.d.poison, k ≤ p ∧ p < k + n := by
  simp [W.spPoison]

theorem exec_ldg_wait {f : FmtM} {s : State} {c : Firing} {u : Thread} (h : Fires f.pr s c) (hu : s.dev.thr c.x.thr = some u)
    (hr : s.toW.d.mayLoad c u f.lsid.toNat = false) : exec (.ldg f) s = .next s := by
  rw [exec, execLdg, run_fireFill (i := .ldg f) h hu]
  simp only [hr, Bool.not_false, if_true]
  rfl
theorem exec_ldsp_wait {f : FmtM} {s : State} {c : Firing} {u : Thread} (h : Fires f.pr s c) (hu : s.dev.thr c.x.thr = some u)
    (hr : s.toW.d.mayLoad c u f.lsid.toNat = false) : exec (.ldsp f) s = .next s := by
  rw [exec, execLdsp, runR_eq, fireLoad_holds (i := .ldsp f) (w := s.toW) h.1 hu h.2.1 h.2.2]
  simp only [hr, Bool.not_false, if_true]
  rfl

/-- What `ldsp` comes to at an aligned address in the window. -/
theorem exec_ldsp {f : FmtM} {s : State} {c : Firing} {u : Thread} (h : Fires f.pr s c) (hu : s.dev.thr c.x.thr = some u)
    (hr : s.dev.mayLoad c u f.lsid.toNat = true) (ha : addrOf f c % (tyBits f.ty / 8) = 0)
    (hw : InWindow s u (addrOf f c) 64) :
    exec (.ldsp f) s = .next { s with dev := (
      if s.dev.stalled c.x (spKeyOf s u (addrOf f c)) 64 then s.dev
      else if s.toW.spPoison (spKeyOf s u (addrOf f c)) 64 then s.dev.holdAt c .dataEcc (addrOf f c) 0 0
      else
        let cs := (List.range 64).map (fun i => ((spKeyOf s u (addrOf f c) + i, spByte s c u f.lsid.toNat (addrOf f c) i) : Host.Cell))
        s.dev.loadDone c f.lsid.toNat (some (spGridOf u (addrOf f c))) cs ⟨[(f.t0, .val (vecOfBytes (cs.map Prod.snd)))], 0#6⟩) } := by
  have hr' : s.toW.d.mayLoad c u f.lsid.toNat = true := hr
  have haddr : s.toW.d.spAddr u (addrOf f c) 64 = _ := spAddr_of_inWindow hw
  have hcells : s.toW.loadSp c.x (spGridOf u (addrOf f c)) f.lsid.toNat (span (spKeyOf s u (addrOf f c)) 64) =
      (List.range 64).map (fun i => ((spKeyOf s u (addrOf f c) + i, spByte s c u f.lsid.toNat (addrOf f c) i) : Host.Cell)) := by
    rw [W.loadSp, span, List.map_map]
    rfl
  rw [exec, execLdsp, runR_eq, fireLoad_holds (i := .ldsp f) (w := s.toW) h.1 hu h.2.1 h.2.2]
  simp only [hr', memAddr_eq, elBytes, ha, haddr, hcells]
  rfl

/-- The cells of 64 consecutive bytes, as a token. -/
theorem byteAt_cells (k : Nat) (b : Nat → Byte) {i : Nat} (hi : i < 64) :
    byteAt (vecOfBytes (((List.range 64).map (fun i => ((k + i, b i) : Host.Cell))).map Prod.snd)) i = b i := by
  rw [byteAt_vecOfBytes _ hi]
  simp [List.getD, hi]

/-- A byte of a token made from the bytes of cells. -/
theorem byteAt_vecOfCells (cs : List Host.Cell) {i : Nat} (hi : i < 64) :
    byteAt (vecOfBytes (cs.map Prod.snd)) i = (cs.getD i (0, 0#8)).2 := by
  rw [byteAt_vecOfBytes _ hi]
  simp only [List.getD, List.getElem?_map]
  cases cs[i]? <;> rfl

/-- Lane k of a gather. -/
theorem elem_gathered {ty : BitVec 4} (hty : ty.toNat ≤ 11) (q : List (List Host.Cell)) {k : Nat} (hk : k < 512 / tyBits ty) :
    elem (tyBits ty) (ofLanes (8 * (tyBits ty / 8)) (q.map (fun cs => ofBytes (cs.map Prod.snd)))) k =
      BitVec.ofNat _ (ofBytes ((q.getD k []).map Prod.snd)) := by
  have hbytes : ∀ ty : BitVec 4, ty.toNat ≤ 11 → 8 * (tyBits ty / 8) = tyBits ty := by decide
  have hget : (q.map (fun cs => ofBytes (cs.map Prod.snd))).getD k 0 = ofBytes ((q.getD k []).map Prod.snd) := by
    simp only [List.getD, List.getElem?_map]
    cases q[k]? <;> rfl
  rw [hbytes ty hty, elem, extract_eq_lane, lane_ofLanes _ _ _ (lane_fits hk), hget]
  apply BitVec.eq_of_toNat_eq
  simp

/-- What an acquiring load leaves of a thread none of whose younger instances has performed a load. -/
theorem acquireFlush_performed {s : State} {w : W} {c : Firing} {l : Nat} {scr : Option Nat} {cs : List Host.Cell} {toks : List (Target × Tok)}
    {d : Dev} (hy : NoYoungLoad s c) (hw : w.d.insts = s.dev.insts) (hd : d.insts = (performed s w c l scr cs toks).dev.insts) :
    d.acquireFlush c.x = d := by
  refine acquireFlush_of_noYoungLoad fun q hq hthr hseq => ?_
  rw [hd] at hq
  rcases Dev.mem_set hq with rfl | hq
  · exact absurd hseq (Nat.lt_irrefl _)
  · exact hy q (hw ▸ hq) hthr hseq

/-- Settles O5: each load by what its firing comes to. -/
theorem loadsAnswer : Obligations.LoadsAnswer := by
  unfold Obligations.LoadsAnswer
  intro f s c u h hu l a n may owed
  refine ⟨fun hr => ?_, fun hr => ?_⟩
  · have hno : s.toW.d.mayLoad c u l = false := Bool.eq_false_of_not_eq_true (mt (mayLoad_iff s c u l).1 hr)
    obtain ⟨hld, hlda⟩ := exec_ld_wait (w := s.toW) h hu rfl fun acq => loadVec_of_not_mayLoad hno
    simp only [List.forall_mem_cons]
    exact ⟨hld, hlda, exec_ldg_wait h hu hno, exec_ldsp_wait h hu hno, fun _ hi => nomatch hi⟩
  have hready : s.toW.d.mayLoad c u l = true := (mayLoad_iff s c u l).2 hr
  refine ⟨fun w w' cs hc hm ho hl hi => ⟨_, exec_ld h hu hready hc hm ho hl hi, fun i hi => byteAt_vecOfCells cs hi⟩, fun w hc ho => ?_,
    fun w w' cs hc hm ho => ⟨acquireLines_of_not_remote, fun hl hi hy => ⟨vecOfBytes (cs.map Prod.snd), fun i hi => byteAt_vecOfCells cs hi, ?_⟩⟩,
    fun w' q hty hq hi => ⟨_, ?_, fun k hk => elem_gathered hty q hk⟩, fun ha hw hs => ?_, fun ha hw hs hp hpend => ?_, fun ha hw hs hp hi => ?_⟩
  · have hov : w.ov = [] := by
      have := s.toW.check_ov u rR a 64 n
      rwa [hc] at this
    obtain ⟨hld, hlda⟩ := exec_ld_wait h hu hov fun acq => loadVec_of_owed hready hc ho
    simp only [List.forall_mem_cons]
    exact ⟨hld, hlda, fun _ hi => nomatch hi⟩
  · rw [exec, execLda, run_fireFill (i := .lda f) h hu, loadVec_acquire hready hc hm ho hl]
    have hp := loadDone_performed s [(f.t0, .val (vecOfBytes (cs.map Prod.snd)))] hi
    have hw : w'.d.insts = s.dev.insts := by
      have hcheck := W.Moves.check s.toW u rR a 64 n
      have hload := W.Moves.loadCells (w.acquireLines u f.scope.toNat a 64) c.x u l (addrs a 64)
      rw [hc] at hcheck
      rw [hl] at hload
      exact ((hcheck.trans (.acquireLines ..)).trans hload).dev.insts
    have hdone : w'.d.loadDone c l none cs ⟨[(f.t0, .val (vecOfBytes (cs.map Prod.snd)))], 0#6⟩ =
        (performed s w' c l none cs [(f.t0, .val (vecOfBytes (cs.map Prod.snd)))]).dev := congrArg State.dev hp
    rw [acquireFlush_performed hy hw ((Dev.Moves.acquire ..).insts.trans (congrArg Dev.insts hdone)), hdone]
    rfl
  · rw [exec_ldg h hu hready hq]
    exact congrArg _ (loadDone_performed s _ hi)
  · rw [exec_ldsp h hu hready ha hw, if_pos hs]
  · refine ⟨_, exec_ldsp h hu hready ha hw, rfl, ?_⟩
    rw [if_neg (Bool.not_eq_true _ ▸ hs), if_pos ((spPoison_iff _ _ _).2 hp)]
    exact pending_hold h.1 hpend _ _
  · refine ⟨_, ?_, fun i hi => byteAt_cells (spKeyOf s u a) _ hi⟩
    have hno : s.toW.spPoison (spKeyOf s u a) 64 ≠ true := by
      rw [Ne, spPoison_iff]
      rintro ⟨p, hp', h1, h2⟩
      rcases hp p hp' with h | h <;> omega
    rw [exec_ldsp h hu hready ha hw, if_neg (Bool.not_eq_true _ ▸ hs), if_neg hno]
    exact congrArg Host.Outcome.next (loadDone_performed (w := s.toW) s _ hi)

end Sys2Proof.Machine
end

section
/-!
PROOFS, 02 blocks and threads: where the bytes of a load come from.
-/

namespace Sys2Proof.Machine
open Claims

/-! ### A line through an L1 -/

/-- The bytes of a line under those of the write streams of a grid. -/
def Dev.shown (d : Dev) (g line : Nat) (bs : List Byte) : List Byte :=
  (List.range 32).map (fun i => (cellAt (d.coalesced g) (32 * line + i)).getD (bs.getD i 0#8))

theorem Dev.shown_length (d : Dev) (g line : Nat) (bs : List Byte) : (d.shown g line bs).length = 32 := by simp [Dev.shown]

theorem getD_map_range {α : Type} (f : Nat → α) (a : α) {n i : Nat} (h : i < n) : ((List.range n).map f).getD i a = f i := by
  simp [List.getD, h]

theorem Dev.shown_getD (d : Dev) (g line : Nat) (bs : List Byte) {i : Nat} (h : i < 32) :
    (d.shown g line bs).getD i 0#8 = (cellAt (d.coalesced g) (32 * line + i)).getD (bs.getD i 0#8) := getD_map_range _ _ h

theorem lineBytes_getD (v : BitVec 256) {i : Nat} (h : i < 32) : (lineBytes v).getD i 0#8 = v.extractLsb' (8 * i) 8 :=
  getD_map_range _ _ h
theorem W.rds_getD (w : W) (k n : Nat) {i : Nat} (h : i < n) : (w.rds k n).getD i 0#8 = w.rd (k + i) := getD_map_range _ _ h
theorem mergeLine_getD (m : BitVec 32) (new old : List Byte) {i : Nat} (h : i < 32) :
    (mergeLine m new old).getD i 0#8 = if m.getLsbD i then new.getD i 0#8 else old.getD i 0#8 := getD_map_range _ _ h

section
variable {w : W} {c rnum g line : Nat}

/-- A line that the L1 holds whole. -/
theorem l1Read_hit {l : L1Line} (h : (w.d.grid g).l1Find line ((w.d.ctx c).ridOf rnum (32 * line)) = some l) (hv : l.valid = allMask) :
    w.l1Read c rnum g line = (.ok (w.d.shown g line (lineBytes l.data)), w) := by
  unfold W.l1Read
  simp only [h, hv, if_true]
  rfl

/-- A line that the L1 does not hold. -/
theorem l1Read_miss {bs : List Byte} {w' : W} (h : (w.d.grid g).l1Find line ((w.d.ctx c).ridOf rnum (32 * line)) = none)
    (hh : w.home c rnum line = (.ok bs, w')) : w.l1Read c rnum g line =
      (.ok (w.d.shown g line bs),
        { w' with d := w'.d.l1Fill g (w.d.ctx c).l1Sets ⟨line, (w.d.ctx c).ridOf rnum (32 * line), allMask, 0#32, packLine bs⟩ }) := by
  unfold W.l1Read
  simp only [h, hh]
  rfl

/-- A line of which the L1 holds some bytes. -/
theorem l1Read_part {l : L1Line} {bs : List Byte} {w' : W}
    (h : (w.d.grid g).l1Find line ((w.d.ctx c).ridOf rnum (32 * line)) = some l) (hv : l.valid ≠ allMask)
    (hh : w.home c rnum line = (.ok bs, w')) : ∃ w1, w1.ov = w'.ov ∧
      w.l1Read c rnum g line = (.ok (w.d.shown g line (mergeLine l.valid (lineBytes l.data) bs)), w1) := by
  let full : L1Line := { l with valid := allMask, data := packLine (mergeLine l.valid (lineBytes l.data) bs) }
  refine ⟨{ w' with d := w'.d.l1Fill g (w.d.ctx c).l1Sets full }, rfl, ?_⟩
  unfold W.l1Read
  simp only [h, hh, if_neg hv]
  rfl

/-- A line that is not answered. -/
theorem l1Read_fail {r : Rd (List Byte)} {w' : W} (h : (w.d.grid g).l1Find line ((w.d.ctx c).ridOf rnum (32 * line)) = none)
    (hh : w.home c rnum line = (r, w')) (hr : ∀ bs, r ≠ .ok bs) : w.l1Read c rnum g line = (r, w') := by
  unfold W.l1Read
  simp only [h, hh]
  cases r with
  | ok bs => exact absurd rfl (hr bs)
  | _ => rfl

theorem poison_any {k : Nat} {ps : List Nat} (h : ∀ p ∈ ps, p < k ∨ k + 32 ≤ p) :
    ps.any (fun p => decide (k ≤ p) && decide (p < k + 32)) = false := by
  rw [List.any_eq_false]
  intro p hp
  have := h p hp
  simp
  omega

/-- The home of a local line. -/
theorem home_local {key w0 : Nat} (hs : w.d.snooping line = false) (ht : w.translate c rnum (32 * line) = .ok key w0)
    (hl : w.isLocal (32 * line) = true) (hp : ∀ p ∈ w.d.poison, p < key ∨ key + 32 ≤ p) :
    w.home c rnum line = (.ok (w.rds key 32), w.l2Use c ((w.d.ctx c).ridOf rnum (32 * line)) line) := by
  unfold W.home
  simp [hs, ht, hl, poison_any hp]

/-- The home of a line of another package that the L2 holds whole. -/
theorem home_l2 {key w0 : Nat} {l : L2Line} (hs : w.d.snooping line = false) (ht : w.translate c rnum (32 * line) = .ok key w0)
    (hl : w.isLocal (32 * line) = false) (hf : w.d.l2Find line = some l) (hv : l.valid = allMask) :
    w.home c rnum line = (.ok (lineBytes l.data), w) := by
  unfold W.home
  simp [hs, ht, hl, hf, hv]

theorem home_absent (hs : w.d.snooping line = false) (ht : w.translate c rnum (32 * line) = .absent) :
    w.home c rnum line = (.absent, w) := by
  unfold W.home
  simp [hs, ht]

theorem home_waits (hs : w.d.snooping line = false) (ht : w.translate c rnum (32 * line) = .waits) :
    w.home c rnum line = (w.heldLine c rnum line, w) := by
  unfold W.home
  simp [hs, ht]

end

@[simp] theorem W.l2Use_ov (w : W) (c rid line : Nat) : (w.l2Use c rid line).ov = w.ov := by
  unfold W.l2Use
  split
  · rfl
  · simp

/-! ### Bytes forwarded to a load -/

/-- A store of LSID below one that gives a byte. -/
def Access.gives (scr : Option Nat) (below a : Nat) (q : Access) : Prop :=
  q.isStore = true ∧ q.scratch = scr ∧ q.lsid < below ∧ (cellAt q.bytes a).isSome

/-- The byte that stores seen so far give, with the LSID of the one that gives it, and one store more. -/
def givesMore (scr : Option Nat) (below a : Nat) (acc : Option (Nat × Byte)) (s : Access) : Option (Nat × Byte) :=
  if s.isStore && s.scratch == scr && decide (s.lsid < below) then
    match cellAt s.bytes a with
    | some b => (match acc with | some (l, _) => if l < s.lsid then some (s.lsid, b) else acc | none => some (s.lsid, b))
    | none => acc
  else acc

theorem storeByte_eq (x : Inst) (below : Nat) (scr : Option Nat) (a : Nat) :
    storeByte x below scr a = (x.accs.foldl (givesMore scr below a) none).map Prod.snd := rfl

theorem givesMore_of_not {scr : Option Nat} {below a : Nat} {q : Access} (h : ¬q.gives scr below a) (acc : Option (Nat × Byte)) :
    givesMore scr below a acc q = acc := by
  unfold givesMore
  split
  next hc =>
    simp only [Bool.and_eq_true, beq_iff_eq, decide_eq_true_eq] at hc
    obtain ⟨⟨h1, h2⟩, h3⟩ := hc
    split
    next b hb => exact absurd ⟨h1, h2, h3, by simp [hb]⟩ h
    next => rfl
  next => rfl

theorem givesMore_of_gives {scr : Option Nat} {below a : Nat} {q : Access} {b : Byte} (h : q.gives scr below a)
    (hb : cellAt q.bytes a = some b) (acc : Option (Nat × Byte)) : givesMore scr below a acc q =
      match acc with | some (l, _) => if l < q.lsid then some (q.lsid, b) else acc | none => some (q.lsid, b) := by
  obtain ⟨h1, h2, h3, -⟩ := h
  unfold givesMore
  simp [h1, h2, h3, hb]

theorem storeByte_none {x : Inst} {below a : Nat} {scr : Option Nat} (h : ∀ q ∈ x.accs, ¬q.gives scr below a) :
    storeByte x below scr a = none := by
  have hfold := List.foldlRecOn x.accs (givesMore scr below a) (motive := fun acc => acc = none) (b := none) rfl
    fun acc hacc q hq => (givesMore_of_not (h q hq) acc).trans hacc
  rw [storeByte_eq, hfold]
  rfl

/-- Nothing above LSID k gives the byte yet, or that of LSID k has. -/
def NoneAbove (k : Nat) (b : Byte) : Option (Nat × Byte) → Prop
  | none => True
  | some (j, v) => j < k ∨ (j, v) = (k, b)

/-- The store of the highest LSID, among some that are seen after others. -/
theorem foldl_givesMore {scr : Option Nat} {below a : Nat} {q : Access} {b : Byte} (hg : q.gives scr below a) (hb : cellAt q.bytes a = some b)
    {l : List Access} {acc : Option (Nat × Byte)} (hl : ∀ q' ∈ l, q'.gives scr below a → q' = q ∨ q'.lsid < q.lsid)
    (hacc : NoneAbove q.lsid b acc) (hin : q ∈ l ∨ acc = some (q.lsid, b)) :
    l.foldl (givesMore scr below a) acc = some (q.lsid, b) := by
  induction l generalizing acc with
  | nil => exact hin.resolve_left List.not_mem_nil
  | cons p r ih =>
    rw [List.foldl_cons]
    have hr : ∀ q' ∈ r, q'.gives scr below a → q' = q ∨ q'.lsid < q.lsid := fun q' hq' => hl q' (List.mem_cons_of_mem _ hq')
    by_cases hp : p.gives scr below a
    · obtain ⟨v, hv⟩ := Option.isSome_iff_exists.1 hp.2.2.2
      rw [givesMore_of_gives hp hv]
      rcases hl p List.mem_cons_self hp with rfl | hlt
      · obtain rfl : v = b := Option.some.inj (hv.symm.trans hb)
        rcases acc with _ | ⟨j, y⟩
        · exact ih hr (.inr rfl) (.inr rfl)
        · dsimp only
          split
          · exact ih hr (.inr rfl) (.inr rfl)
          · exact ih hr hacc (.inr (congrArg some (hacc.resolve_left ‹_›)))
      · have hne : q ≠ p := fun h => Nat.lt_irrefl _ (h ▸ hlt)
        have hin' := hin.imp_left fun h => (List.mem_cons.1 h).resolve_left hne
        rcases acc with _ | ⟨j, y⟩
        · exact ih hr (.inl hlt) (.inl (hin'.resolve_right (by simp)))
        · dsimp only
          split
          · refine ih hr (.inl hlt) (.inl (hin'.resolve_right ?_))
            simp
            omega
          · exact ih hr hacc hin'
    · have hne : q ≠ p := fun h => hp (h ▸ hg)
      rw [givesMore_of_not hp]
      exact ih hr hacc (hin.imp_left fun h => (List.mem_cons.1 h).resolve_left hne)

/-- The store of the highest LSID gives the byte. -/
theorem storeByte_highest {x : Inst} {below a : Nat} {scr : Option Nat} {q : Access} (hq : q ∈ x.accs) (hg : q.gives scr below a)
    (hmax : ∀ q' ∈ x.accs, q'.gives scr below a → q' = q ∨ q'.lsid < q.lsid) : storeByte x below scr a = cellAt q.bytes a := by
  obtain ⟨b, hb⟩ := Option.isSome_iff_exists.1 hg.2.2.2
  rw [storeByte_eq, foldl_givesMore hg hb hmax (acc := none) trivial (.inl hq), hb]
  rfl

/-- A byte that the load's own instance stores. -/
theorem fwdByte_own {d : Dev} {x : Inst} {l a : Nat} {scr : Option Nat} {b : Byte} (h : storeByte x l scr a = some b) :
    d.fwdByte x l scr a = some b := by
  unfold Dev.fwdByte
  simp [h]

/-- The byte that older instances give, the youngest one winning. -/
def olderByte (scr : Option Nat) (a : Nat) (acc : Option Byte) (p : Nat × Inst) : Option Byte :=
  match storeByte p.2 256 scr a with
  | some b => some b
  | none => acc

theorem fwdByte_older {d : Dev} {x : Inst} {l a : Nat} {scr : Option Nat} (h : storeByte x l scr a = none) : d.fwdByte x l scr a =
    ((d.instsOf x.thr).filter (fun p => decide (p.2.seq < x.seq))).foldl (olderByte scr a) none := by
  unfold Dev.fwdByte
  simp only [h]
  rfl

theorem foldl_olderByte {scr : Option Nat} {a : Nat} {l : List (Nat × Inst)} (h : ∀ p ∈ l, storeByte p.2 256 scr a = none) (acc : Option Byte) :
    l.foldl (olderByte scr a) acc = acc :=
  List.foldlRecOn l (olderByte scr a) (motive := fun r => r = acc) rfl fun r hr p hp => by simp [olderByte, h p hp, hr]

theorem fwdByte_none {d : Dev} {x : Inst} {l a : Nat} {scr : Option Nat} (hx : ∀ q ∈ x.accs, ¬q.gives scr l a)
    (ho : ∀ y ∈ d.instsOf x.thr, y.2.seq < x.seq → ∀ q ∈ y.2.accs, ¬q.gives scr 256 a) : d.fwdByte x l scr a = none := by
  rw [fwdByte_older (storeByte_none hx)]
  refine foldl_olderByte (fun p hp => ?_) _
  obtain ⟨hin, hseq⟩ := List.mem_filter.1 hp
  exact storeByte_none (ho p hin (of_decide_eq_true hseq))

/-- The youngest older instance that stores the byte gives it. -/
theorem fwdByte_youngest {d : Dev} {x : Inst} {l a : Nat} {scr : Option Nat} {y : Nat × Inst} {b : Byte} (hx : ∀ q ∈ x.accs, ¬q.gives scr l a)
    (hy : y ∈ d.instsOf x.thr) (hlt : y.2.seq < x.seq) (hb : storeByte y.2 256 scr a = some b)
    (ho : ∀ z ∈ d.instsOf x.thr, z.2.seq < x.seq → z = y ∨ z.2.seq < y.2.seq ∨ ∀ q ∈ z.2.accs, ¬q.gives scr 256 a) :
    d.fwdByte x l scr a = some b := by
  rw [fwdByte_older (storeByte_none hx)]
  have hsorted := (d.instsOf_pairwise x.thr).filter (fun p => decide (p.2.seq < x.seq))
  have hmem : y ∈ (d.instsOf x.thr).filter (fun p => decide (p.2.seq < x.seq)) := List.mem_filter.2 ⟨hy, decide_eq_true hlt⟩
  have hall : ∀ z ∈ (d.instsOf x.thr).filter (fun p => decide (p.2.seq < x.seq)), z = y ∨ z.2.seq < y.2.seq ∨ storeByte z.2 256 scr a = none := by
    intro z hz
    obtain ⟨hin, hseq⟩ := List.mem_filter.1 hz
    exact (ho z hin (of_decide_eq_true hseq)).imp_right (Or.imp_right storeByte_none)
  generalize (d.instsOf x.thr).filter (fun p => decide (p.2.seq < x.seq)) = L at hsorted hmem hall
  obtain ⟨l1, l2, rfl⟩ := List.append_of_mem hmem
  have hlater : ∀ (acc : Option Byte), acc = some b → l2.foldl (olderByte scr a) acc = some b := by
    intro acc hacc
    refine List.foldlRecOn l2 (olderByte scr a) (motive := fun r => r = some b) hacc fun r hr z hz => ?_
    have hyz : y.2.seq ≤ z.2.seq := (List.pairwise_cons.1 (List.pairwise_append.1 hsorted).2.1).1 z hz
    rcases hall z (by simp [hz]) with rfl | hz | hz
    · simp [olderByte, hb]
    · exact absurd hz (Nat.not_lt.2 hyz)
    · simp [olderByte, hz, hr]
  rw [List.foldl_append, List.foldl_cons]
  exact hlater _ (by simp [olderByte, hb])
open Claims

/-! ### Reading lines one after another -/

/-- What reading lines and filling a PLB leave: the grids, the L2 and the counter of free choices may differ. -/
structure W.SameButLines (w w' : W) : Prop where
  rest : ∃ grids l2 free, w' = { w with d := { w.d with grids := grids, l2 := l2, freeCtr := free } }

theorem W.SameButLines.refl (w : W) : w.SameButLines w := ⟨⟨_, _, _, rfl⟩⟩
theorem W.SameButLines.trans {a b c : W} (h : a.SameButLines b) (h' : b.SameButLines c) : a.SameButLines c := by
  obtain ⟨_, _, _, rfl⟩ := h.rest
  obtain ⟨_, _, _, rfl⟩ := h'.rest
  exact ⟨⟨_, _, _, rfl⟩⟩

section
variable {w w' : W} (h : w.SameButLines w')
include h

theorem W.SameButLines.ov : w'.ov = w.ov := by obtain ⟨_, _, _, rfl⟩ := h.rest; rfl
theorem W.SameButLines.g : w'.g = w.g := by obtain ⟨_, _, _, rfl⟩ := h.rest; rfl
theorem W.SameButLines.insts : w'.d.insts = w.d.insts := by obtain ⟨_, _, _, rfl⟩ := h.rest; rfl
theorem W.SameButLines.flight : w'.d.flight = w.d.flight := by obtain ⟨_, _, _, rfl⟩ := h.rest; rfl
theorem W.SameButLines.threads : w'.d.threads = w.d.threads := by obtain ⟨_, _, _, rfl⟩ := h.rest; rfl
theorem W.SameButLines.ctxs : w'.d.ctxs = w.d.ctxs := by obtain ⟨_, _, _, rfl⟩ := h.rest; rfl
theorem W.SameButLines.ctx (c : Nat) : w'.d.ctx c = w.d.ctx c := by obtain ⟨_, _, _, rfl⟩ := h.rest; rfl
theorem W.SameButLines.poison : w'.d.poison = w.d.poison := by obtain ⟨_, _, _, rfl⟩ := h.rest; rfl
theorem W.SameButLines.coalesced (g : Nat) : w'.d.coalesced g = w.d.coalesced g := by obtain ⟨_, _, _, rfl⟩ := h.rest; rfl
theorem W.SameButLines.rd (k : Nat) : w'.rd k = w.rd k := by obtain ⟨_, _, _, rfl⟩ := h.rest; rfl
theorem W.SameButLines.isLocal (x : Nat) : w'.isLocal x = w.isLocal x := by obtain ⟨_, _, _, rfl⟩ := h.rest; rfl
theorem W.SameButLines.rnumOf (u : Thread) : w'.d.rnumOf u = w.d.rnumOf u := by obtain ⟨_, _, _, rfl⟩ := h.rest; rfl
theorem W.SameButLines.snooping (line : Nat) : w'.d.snooping line = w.d.snooping line := by obtain ⟨_, _, _, rfl⟩ := h.rest; rfl
theorem W.SameButLines.tcFind (x : Nat) : w'.d.tcFind x = w.d.tcFind x := by obtain ⟨_, _, _, rfl⟩ := h.rest; rfl
theorem W.SameButLines.translate (c rnum x : Nat) : w'.translate c rnum x = w.translate c rnum x := by
  have hwalk : w'.walk x = w.walk x := by
    have hfrom : ∀ n l table pdid, walkFrom w' x n l table pdid = walkFrom w x n l table pdid := by
      intro n
      induction n with
      | zero => exact fun _ _ _ => rfl
      | succ n ih =>
        intro l table pdid
        have hrd : ∀ k, w'.rd64 k = w.rd64 k := fun k => by simp [W.rd64, W.rds, h.rd]
        simp only [walkFrom, hrd, ih]
    obtain ⟨_, _, _, rfl⟩ := h.rest
    exact hfrom ..
  obtain ⟨_, _, _, rfl⟩ := h.rest
  unfold W.translate W.mapped
  rw [hwalk]
  rfl

end

theorem W.sameButLines_l2Fill (w : W) (c : Nat) (l : L2Line) : w.SameButLines { w with d := w.d.l2Fill c l } := by
  unfold Dev.l2Fill
  dsimp only
  split
  · exact ⟨⟨_, _, _, rfl⟩⟩
  · split
    · exact .refl _
    · exact ⟨⟨_, _, _, rfl⟩⟩

theorem W.sameButLines_l1Fill (w : W) (g sets : Nat) (l : L1Line) : w.SameButLines { w with d := w.d.l1Fill g sets l } := by
  unfold Dev.l1Fill
  dsimp only
  split
  · exact ⟨⟨_, _, _, rfl⟩⟩
  · split
    · exact ⟨⟨_, _, _, rfl⟩⟩
    · split
      · exact .refl _
      · exact ⟨⟨_, _, _, rfl⟩⟩

/-- A line that an L1 takes is the only one that comes. -/
theorem mem_l1Fill {d : Dev} {g sets n : Nat} {l m : L1Line} (h : m ∈ ((d.l1Fill g sets l).grid n).l1) : m = l ∨ m ∈ (d.grid n).l1 := by
  have hset : ∀ (e : Dev) (f : Grid → Grid), (∀ gr, ∀ k ∈ (f gr).l1, k = l ∨ k ∈ gr.l1) → m ∈ ((e.modGrid g f).grid n).l1 →
      m = l ∨ m ∈ (e.grid n).l1 := by
    intro e f hf hm
    by_cases hn : n = g
    · subst hn
      rw [Dev.grid_modGrid] at hm
      exact hf _ _ hm
    · rw [Dev.grid_modGrid_ne _ _ hn] at hm
      exact .inr hm
  have hadd : ∀ gr : Grid, ∀ k ∈ (gr.l1Set l).l1, k = l ∨ k ∈ gr.l1 := fun gr k hk =>
    (List.mem_cons.1 hk).imp_right fun hk => (List.mem_filter.1 hk).1
  unfold Dev.l1Fill at h
  dsimp only at h
  split at h
  · exact hset _ _ hadd h
  · split at h
    · exact hset _ _ hadd h
    · split at h
      · exact .inr h
      · exact hset d.fresh.2 _ (fun gr k hk => (hadd _ k hk).imp_right fun hk => (List.mem_filter.1 hk).1) h

theorem Grid.l1Find_eq_none {gr : Grid} {line rid : Nat} : gr.l1Find line rid = none ↔ ∀ m ∈ gr.l1, ¬(m.line = line ∧ m.rid = rid) := by
  simp [Grid.l1Find, List.find?_eq_none]

/-- A local line that no L1 holds and whose address the translation cache holds, at its frame. -/
structure ReadsFrame (w : W) (u : Thread) (key : Nat → Nat) (q : Nat) : Prop where
  cached : w.d.tcFind (32 * q) ≠ none
  mapped : ∃ w0, w.translate u.ctx (w.d.rnumOf u) (32 * q) = .ok (key q) w0
  here : w.isLocal (32 * q) = true
  quiet : w.d.snooping q = false
  sound : ∀ p ∈ w.d.poison, p < key q ∨ key q + 32 ≤ p
  miss : (w.d.grid (u.accessGrid (32 * q))).l1Find q ((w.d.ctx u.ctx).ridOf (w.d.rnumOf u) (32 * q)) = none

/-- The bytes of such a line under those of write streams. -/
def seenLine (w : W) (u : Thread) (key : Nat → Nat) (q : Nat) : List Byte :=
  let bs := w.d.shown (u.accessGrid (32 * q)) q (w.rds (key q) 32)
  let own := cellsIn q u.coalesced
  if own.isEmpty then bs else (List.range 32).map (fun i => (cellAt own (32 * q + i)).getD (bs.getD i 0#8))

theorem cellAt_eq_none {cs : List Host.Cell} {x : Nat} (h : ∀ b ∈ cs, b.1 ≠ x) : cellAt cs x = none := by
  have : cs.reverse.find? (fun c => c.1 == x) = none := by
    rw [List.find?_eq_none]
    intro b hb
    simpa using h b (List.mem_reverse.1 hb)
  rw [cellAt, this]
  rfl

theorem seenLine_getD {w : W} {u : Thread} {key : Nat → Nat} {q i : Nat} (hi : i < 32)
    (hs : ∀ b ∈ w.d.coalesced (u.accessGrid (32 * q)), b.1 ≠ 32 * q + i) (hu : ∀ b ∈ u.coalesced, b.1 ≠ 32 * q + i) :
    (seenLine w u key q).getD i 0#8 = w.rd (key q + i) := by
  have hshown : (w.d.shown (u.accessGrid (32 * q)) q (w.rds (key q) 32)).getD i 0#8 = w.rd (key q + i) := by
    rw [Dev.shown_getD _ _ _ _ hi, cellAt_eq_none hs, Option.getD_none, W.rds_getD _ _ _ hi]
  unfold seenLine
  dsimp only
  split
  · exact hshown
  · have hown : cellAt (cellsIn q u.coalesced) (32 * q + i) = none := cellAt_eq_none fun b hb => hu b (List.mem_filter.1 hb).1
    rw [getD_map_range _ _ hi, hown]
    exact hshown

theorem ReadsFrame.mono {w w' : W} {u : Thread} {key : Nat → Nat} {q : Nat} (h : ReadsFrame w u key q) (hw : w.SameButLines w')
    (hm : ∀ m ∈ (w'.d.grid (u.accessGrid (32 * q))).l1, m.line = q → m ∈ (w.d.grid (u.accessGrid (32 * q))).l1) :
    ReadsFrame w' u key q := by
  obtain ⟨hc, ht, hl, hs, hp, hmiss⟩ := h
  refine ⟨by rwa [hw.tcFind], by rwa [hw.rnumOf, hw.translate], by rwa [hw.isLocal], by rwa [hw.snooping], by rwa [hw.poison], ?_⟩
  rw [hw.ctx, hw.rnumOf, Grid.l1Find_eq_none]
  exact fun m hm' hline => Grid.l1Find_eq_none.1 hmiss m (hm m hm' hline.1) hline

theorem seenLine_mono {w w' : W} {u : Thread} {key : Nat → Nat} {q : Nat} (hw : w.SameButLines w') : seenLine w' u key q = seenLine w u key q := by
  simp [seenLine, Dev.shown, hw.coalesced, W.rds, hw.rd]

@[simp] theorem Dev.l2Fill_grids (d : Dev) (c : Nat) (l : L2Line) : (d.l2Fill c l).grids = d.grids := by
  unfold Dev.l2Fill
  dsimp only
  split
  · rfl
  · split <;> rfl

/-- An address that the translation cache holds is looked up there. -/
theorem touch_of_cached {w : W} {x : Nat} (h : w.d.tcFind x ≠ none) : w.touch x = w := by
  obtain ⟨e, he⟩ := Option.ne_none_iff_exists'.1 h
  have he' : w.d.tcFindIn (tcUnit x) x = some e := he
  unfold W.touch W.touchIn
  simp [he']

theorem l2Use_of_cached {w : W} {c rid line : Nat} (h : w.d.tcFind (32 * line) ≠ none) :
    w.SameButLines (w.l2Use c rid line) ∧ (w.l2Use c rid line).d.grids = w.d.grids := by
  unfold W.l2Use
  rw [touch_of_cached h]
  split
  · exact ⟨.refl _, rfl⟩
  · exact ⟨W.sameButLines_l2Fill .., Dev.l2Fill_grids ..⟩

/-- One such line read. -/
theorem l1Read_frame {w : W} {u : Thread} {key : Nat → Nat} {q : Nat} (h : ReadsFrame w u key q) :
    ∃ w', w.l1Read u.ctx (w.d.rnumOf u) (u.accessGrid (32 * q)) q =
        (.ok (w.d.shown (u.accessGrid (32 * q)) q (w.rds (key q) 32)), w') ∧ w.SameButLines w' ∧
      ∀ n, ∀ m ∈ (w'.d.grid n).l1, m.line ≠ q → m ∈ (w.d.grid n).l1 := by
  obtain ⟨hc, ⟨w0, ht⟩, hl, hs, hp, hmiss⟩ := h
  obtain ⟨huse, hgrids⟩ := l2Use_of_cached (c := u.ctx) (rid := (w.d.ctx u.ctx).ridOf (w.d.rnumOf u) (32 * q)) hc
  refine ⟨_, l1Read_miss hmiss (home_local hs ht hl hp), huse.trans (W.sameButLines_l1Fill ..), fun n m hm hne => ?_⟩
  rcases mem_l1Fill hm with rfl | hm
  · exact absurd rfl hne
  · simpa [Dev.grid, hgrids] using hm

/-- Such lines read one after another. -/
theorem readLines_frames {u : Thread} {key : Nat → Nat} {ls : List Nat} (hnd : ls.Nodup) {w : W} (h : ∀ q ∈ ls, ReadsFrame w u key q) :
    ∃ w', w.readLines u (w.d.rnumOf u) ls = (.ok (ls.map (fun q => (q, seenLine w u key q))), w') ∧ w.SameButLines w' := by
  induction ls generalizing w with
  | nil => exact ⟨w, rfl, .refl _⟩
  | cons q r ih =>
    obtain ⟨hq, hr⟩ := List.nodup_cons.1 hnd
    obtain ⟨w1, h1, hs1, hm1⟩ := l1Read_frame (h q List.mem_cons_self)
    obtain ⟨w2, h2, hs2⟩ := ih hr (w := w1) fun k hk => (h k (List.mem_cons_of_mem _ hk)).mono hs1 fun m hm hline =>
      hm1 _ m hm fun he => hq (he ▸ hline ▸ hk)
    rw [hs1.rnumOf] at h2
    refine ⟨w2, ?_, hs1.trans hs2⟩
    rw [W.readLines]
    simp only [h1, h2, seenLine_mono hs1]
    rfl

/-! ### A load of 64 bytes that reads frames -/

/-- Bytes that no store of the thread gives are those of the lines. -/
theorem fwdByte_of_no_store {d : Dev} {iid : Nat} {x : Inst} {l a : Nat} {scr : Option Nat} (hx : (iid, x) ∈ d.insts)
    (h : ∀ y ∈ d.insts, y.2.thr = x.thr → ∀ q ∈ y.2.accs, q.isStore = true → ∀ b ∈ q.bytes, b.1 ≠ a) : d.fwdByte x l scr a = none := by
  have hno : ∀ y ∈ d.insts, y.2.thr = x.thr → ∀ below, ∀ q ∈ y.2.accs, ¬q.gives scr below a := by
    rintro y hy hthr below q hq ⟨hst, -, -, hc⟩
    rw [cellAt_eq_none (h y hy hthr q hq hst)] at hc
    cases hc
  refine fwdByte_none (hno _ hx rfl l) fun y hy _ => ?_
  obtain ⟨hin, hthr, -⟩ := Dev.mem_instsOf.1 hy
  exact hno y hin hthr 256

theorem owed_of_no_store {x : Inst} {b : Block} {l : Nat} {as : List Nat}
    (h : ∀ a ∈ as, ∀ q ∈ x.accs, q.isStore = true → ∀ b ∈ q.bytes, b.1 ≠ a) : x.owed b l as = false := by
  rw [Inst.owed, List.any_eq_false]
  intro a ha
  have hsrc : x.source l a = none := by
    rw [Inst.source, List.max?_eq_none_iff, List.map_eq_nil_iff, List.filter_eq_nil_iff]
    intro q hq hg
    simp only [Bool.and_eq_true] at hg
    rw [cellAt_eq_none (h a ha q hq hg.1.1.1)] at hg
    cases hg.2
  simp [hsrc]

/-- A load that follows every load of its instance, and that no younger load precedes, contradicts none. -/
theorem incoherent_of_none_later {d : Dev} {x : Inst} {l : Nat} {scr : Option Nat} {cs : List Host.Cell}
    (hx : ∀ q ∈ x.accs, q.isStore = true ∨ q.lsid ≤ l)
    (hy : ∀ q ∈ d.insts, q.2.thr = x.thr → x.seq < q.2.seq → ∀ a ∈ q.2.accs, a.isStore = true) : d.incoherent x l scr cs = none := by
  unfold Dev.incoherent
  dsimp only
  rw [if_neg]
  · rw [Option.map_eq_none_iff, List.find?_eq_none]
    intro p hp
    obtain ⟨hin, hseq⟩ := List.mem_filter.1 hp
    obtain ⟨hmem, hthr, -⟩ := Dev.mem_instsOf.1 hin
    rw [List.any_eq_true]
    rintro ⟨a, ha, hbad⟩
    simp [hy p hmem hthr (of_decide_eq_true hseq) a ha] at hbad
  · rw [List.any_eq_true]
    rintro ⟨a, ha, hbad⟩
    rw [Bool.and_eq_true, decide_eq_true_eq] at hbad
    rcases hx a ha with h | h
    · simp [h] at hbad
    · omega

theorem nodup_eraseDups (l : List Nat) : l.eraseDups.Nodup := by
  induction hn : l.length using Nat.strong_induction_on generalizing l with
  | _ n ih =>
    cases l with
    | nil => simp
    | cons a r =>
      rw [List.eraseDups_cons, List.nodup_cons]
      refine ⟨fun h => ?_, ih _ ?_ _ rfl⟩
      · simpa using List.mem_eraseDups.1 h
      · exact hn ▸ Nat.lt_succ_of_le (List.length_filter_le ..)

/-- The entry of a key, in a table of a function's values. -/
theorem find?_map_pair {α : Type} (f : Nat → α) {ls : List Nat} {k : Nat} (h : k ∈ ls) :
    (ls.map (fun q => (q, f q))).find? (fun p => p.1 == k) = some (k, f k) := by
  rw [List.find?_map]
  cases hf : ls.find? ((fun p : Nat × α => p.1 == k) ∘ fun q => (q, f q)) with
  | none => exact absurd h fun hk => by simpa using List.find?_eq_none.1 hf k hk
  | some j =>
    have hj : j = k := by simpa using List.find?_some hf
    rw [hj]
    rfl

/-- The cells of addresses whose lines stand in frames, with no store of the thread and no write stream on them. -/
theorem loadCells_frames {w : W} {x : Inst} {u : Thread} {key : Nat → Nat} {l iid : Nat} {as : List Nat} (hx : (iid, x) ∈ w.d.insts)
    (hf : ∀ a ∈ as, ReadsFrame w u key (a / 32))
    (hs : ∀ a ∈ as, ∀ b ∈ w.d.coalesced (u.accessGrid (32 * (a / 32))), b.1 ≠ a) (hu : ∀ a ∈ as, ∀ b ∈ u.coalesced, b.1 ≠ a)
    (hst : ∀ a ∈ as, ∀ y ∈ w.d.insts, y.2.thr = x.thr → ∀ q ∈ y.2.accs, q.isStore = true → ∀ b ∈ q.bytes, b.1 ≠ a) :
    ∃ w', w.loadCells x u l as = (.ok (as.map (fun a => (a, w.rd (key (a / 32) + a % 32)))), w') ∧ w.SameButLines w' := by
  have hlines : ∀ q ∈ (as.map lineOf).eraseDups, ReadsFrame w u key q := by
    intro q hq
    obtain ⟨a, ha, rfl⟩ := List.mem_map.1 (List.mem_eraseDups.1 hq)
    exact hf a ha
  obtain ⟨w', hr, hw⟩ := readLines_frames (nodup_eraseDups _) hlines
  refine ⟨w', ?_, hw⟩
  unfold W.loadCells
  simp only [hr]
  refine congrArg (fun cs => (Rd.ok cs, w')) (List.map_congr_left fun a ha => ?_)
  have hfwd : w'.d.fwdByte x l none a = none := fwdByte_of_no_store (hw.insts ▸ hx) (hw.insts ▸ hst a ha)
  have hmem : lineOf a ∈ (as.map lineOf).eraseDups := List.mem_eraseDups.2 (List.mem_map_of_mem ha)
  have hadd : 32 * (a / 32) + a % 32 = a := Nat.div_add_mod a 32
  have hbyte : (seenLine w u key (lineOf a)).getD (a % 32) 0#8 = w.rd (key (a / 32) + a % 32) :=
    seenLine_getD (Nat.mod_lt _ (by decide)) (by rw [lineOf, hadd]; exact hs a ha) (by rw [lineOf, hadd]; exact hu a ha)
  rw [hfwd, find?_map_pair _ hmem]
  exact congrArg (Prod.mk a) hbyte
open Claims

/-! ### Where the bytes of a load come from -/

theorem heldLine_local {w : W} {c rnum line key : Nat} {l : L2Line} (hcut : w.cutOff (32 * line) = false)
    (hf : w.d.l2Find line ((w.d.ctx c).ridOf rnum (32 * line)) = some l) (hl : w.isLocal (32 * line) = true)
    (hk : w.writeKey c rnum (32 * line) = some key) (hp : ∀ p ∈ w.d.poison, p < key ∨ key + 32 ≤ p) :
    w.heldLine c rnum line = .ok (w.rds key 32) := by
  unfold W.heldLine
  simp [hcut, hf, hl, hk, poison_any hp]

theorem heldLine_waits {w : W} {c rnum line : Nat}
    (h : w.cutOff (32 * line) = true ∨ w.d.l2Find line ((w.d.ctx c).ridOf rnum (32 * line)) = none) : w.heldLine c rnum line = .waits := by
  unfold W.heldLine
  rcases h with h | h <;> simp [h]

theorem hasRights_read (r : BitVec 3) : hasRights r rR = r.getLsbD 0 := by revert r; decide
theorem hasRights_write (r : BitVec 3) : hasRights r rW = r.getLsbD 1 := by revert r; decide

/-- Rights that every entry of the PLB for a region gives. -/
theorem rights_of_plb {w : W} {g c x : Nat} {P : BitVec 3 → Prop} (he : ∃ e ∈ (w.d.grid g).plb, e.region = x / 2 ^ 21 ∧
      ∀ e' ∈ (w.d.grid g).plb, e'.region = x / 2 ^ 21 → P e'.rights) : ∃ r, w.rights g c x = (r, w) ∧ P r := by
  obtain ⟨e, he, hr, hall⟩ := he
  cases hf : (w.d.grid g).plb.find? (fun e => e.region == regionNo x) with
  | none => exact absurd hr (by simpa [regionNo] using List.find?_eq_none.1 hf e he)
  | some e' =>
    refine ⟨e'.rights, ?_, hall e' (List.mem_of_find?_eq_some hf) (by simpa [regionNo] using List.find?_some hf)⟩
    unfold W.rights
    simp [hf]

/-- A read that the PLB of its grids allows. -/
theorem check_of_plb {w : W} {u : Thread} {a n : Nat} (h57 : a < 2 ^ 57) (hal : a % n = 0) (hl : w.isLocal a = true)
    (hp : ∀ x ∈ [a, a + 63], ∃ e ∈ (w.d.grid (u.accessGrid x)).plb, e.region = x / 2 ^ 21 ∧
      ∀ e' ∈ (w.d.grid (u.accessGrid x)).plb, e'.region = x / 2 ^ 21 → e'.rights.getLsbD 0 = true) :
    w.check u rR a 64 n = (.ok, w) := by
  obtain ⟨r, h1, hr⟩ := rights_of_plb (c := u.ctx) (P := fun r => r.getLsbD 0 = true) (hp a (by simp))
  obtain ⟨q, h2, hq⟩ := rights_of_plb (c := u.ctx) (P := fun r => r.getLsbD 0 = true) (hp (a + 63) (by simp))
  have hbad : ¬(2 ^ 57 ≤ a ∨ a % n ≠ 0) := by omega
  have hneed : (rR &&& rW != 0#3) = false := by decide
  unfold W.check
  rw [if_neg hbad]
  simp [W.inDomain, hl, hneed, h1, h2, hasRights_read, hr, hq]

theorem Tbl.mem_of_look {α : Type} {t : Tbl α} {k : Nat} {a : α} (h : t.look k = some a) : (k, a) ∈ t := by
  induction t with
  | nil => cases h
  | cons p r ih =>
    obtain ⟨j, b⟩ := p
    by_cases hj : j = k
    · subst hj
      have hb : b = a := by simpa [Tbl.look] using h
      exact hb ▸ List.mem_cons_self
    · exact List.mem_cons_of_mem _ (ih (by simpa [Tbl.look, hj] using h))

/-- Settles O54: a line through an L1 by its cases, the forwarded byte by the stores that give it, and a load of 64 bytes by its
lines, each of which is read at its frame. -/
theorem loadValues : Obligations.LoadValues := by
  unfold Obligations.LoadValues
  refine ⟨⟨fun w c rnum g line => ?_, fun d x l scr a => ?_⟩, ?_⟩
  · intro rid shown
    have hshown : ∀ (bs : List Byte) (mem : Nat → Byte), (∀ i < 32, bs.getD i 0#8 = mem i) → shown (w.d.shown g line bs) mem :=
      fun bs mem h => ⟨Dev.shown_length .., fun i hi => by rw [Dev.shown_getD _ _ _ _ hi, h i hi]⟩
    refine ⟨fun l hl hv => ⟨_, l1Read_hit hl hv, hshown _ _ fun i hi => lineBytes_getD _ hi⟩,
      fun key w0 hs ht hl hp => ⟨fun hmiss => ?_, fun l hf hv => ?_⟩, fun key w0 l2 hs ht hl hmiss hf hv => ?_,
      fun hmiss hs => ⟨fun ht => ?_, fun ht => ⟨fun hw => ?_, fun key l2 hcut hf hl hk hp => ?_⟩⟩⟩
    · exact ⟨_, _, l1Read_miss hmiss (home_local hs ht hl hp), W.l2Use_ov .., hshown _ _ fun i hi => W.rds_getD _ _ _ hi⟩
    · obtain ⟨w1, hov, hr⟩ := l1Read_part hf hv (home_local hs ht hl hp)
      refine ⟨_, _, hr, hov.trans (W.l2Use_ov ..), hshown _ _ fun i hi => ?_⟩
      rw [mergeLine_getD _ _ _ hi, lineBytes_getD _ hi, W.rds_getD _ _ _ hi]
    · exact ⟨_, _, l1Read_miss hmiss (home_l2 hs ht hl hf hv), rfl, hshown _ _ fun i hi => lineBytes_getD _ hi⟩
    · exact l1Read_fail hmiss (home_absent hs ht) fun _ => nofun
    · exact l1Read_fail hmiss ((home_waits hs ht).trans (by rw [heldLine_waits hw])) fun _ => nofun
    · have hh := (home_waits hs ht).trans (congrArg (fun r => (r, w)) (heldLine_local hcut hf hl hk hp))
      exact ⟨_, _, l1Read_miss hmiss hh, rfl, hshown _ _ fun i hi => W.rds_getD _ _ _ hi⟩
  · intro writes
    refine ⟨fun q hq hg hmax => ?_, fwdByte_none, fun y hy hlt hx ho q hq hg hmax => ?_⟩
    · obtain ⟨b, hb⟩ := Option.isSome_iff_exists.1 hg.2.2.2
      rw [hb]
      exact fwdByte_own ((storeByte_highest hq hg hmax).trans hb)
    · obtain ⟨b, hb⟩ := Option.isSome_iff_exists.1 hg.2.2.2
      rw [hb]
      exact fwdByte_youngest hx hy hlt ((storeByte_highest hq hg hmax).trans hb) ho
  · intro f s c u key h hu l a hr h57 hal hloc hplb hx hlater hy hd1 hd2
    obtain ⟨-, hinst, -, -⟩ := Dev.firing_spec h.1
    have hin : (c.iid, c.x) ∈ s.dev.insts := Tbl.mem_of_look hinst
    have hall : ∀ x ∈ addrs a 64, ReadsFrame s.toW u key (x / 32) ∧
        (∀ b ∈ s.toW.d.coalesced (u.accessGrid (32 * (x / 32))), b.1 ≠ x) ∧ (∀ b ∈ u.coalesced, b.1 ≠ x) ∧
        ∀ y ∈ s.toW.d.insts, y.2.thr = c.x.thr → ∀ q ∈ y.2.accs, q.isStore = true → ∀ b ∈ q.bytes, b.1 ≠ x := by
      intro x hmem
      obtain ⟨i, hi, rfl⟩ := List.mem_map.1 hmem
      obtain ⟨h1, h2, h3, h4, h5, h6, hco, hown, hst⟩ := hx (a + i) (Nat.le_add_right ..) (Nat.add_lt_add_left (List.mem_range.1 hi) _)
      rw [List.all_eq_true] at hco hown
      exact ⟨⟨h1, h2, h3, h4, h5, h6⟩, fun b hb => bne_iff_ne.1 (hco b hb), fun b hb => bne_iff_ne.1 (hown b hb), hst⟩
    simp only [imp_and, forall_and] at hall
    obtain ⟨hframe, hco, hown, hst⟩ := hall
    have hmay : s.toW.d.mayLoad c u l = true := (mayLoad_iff s c u l).2 hr
    have hcheck := check_of_plb (w := s.toW) (u := u) h57 hal hloc hplb
    have howed : c.x.owed c.code l (addrs a 64) = false := owed_of_no_store fun x hmem => hst x hmem _ hin rfl
    obtain ⟨w', hcells, hw'⟩ := loadCells_frames (w := s.toW) (l := l) hin hframe hco hown hst
    have hinc : ∀ cs, w'.d.incoherent c.x l none cs = none := fun _ => incoherent_of_none_later hlater (hw'.insts ▸ hy)
    refine ⟨vecOfBytes (((addrs a 64).map (fun a => (a, s.toW.rd (key (a / 32) + a % 32)))).map Prod.snd), _,
      exec_ld h hu hmay hcheck (.inl ⟨hd1, hd2⟩) howed hcells (hinc _),
      congrArg (fun ov : List Host.Cell => s.mem.writeAll ov.reverse) hw'.ov, rfl, hw'.threads, hw'.ctxs,
      congrArg (· ++ inFlight c _) hw'.flight, fun j hj => ?_, ⟨_, Tbl.look_set_self .., rfl, rfl⟩, fun i hi => ?_⟩
    · exact (Tbl.look_set_ne _ _ hj).trans (congrArg (fun t : Tbl Inst => t.look j) hw'.insts)
    · rw [byteAt_vecOfCells _ hi, addrs, List.map_map, getD_map_range _ _ hi]
      rfl

end Sys2Proof.Machine
end

section
/-!
PROOFS, 02 blocks and threads: what a flush leaves.
-/

namespace Sys2Proof.Machine

/-! ### What a flush leaves alone -/

/-- A thread but for what fetch knows, its tiles and its latches. -/
def Thread.kept (u : Thread) : Thread := { u with seq := 0, fTag := 0#64, fDepth := 0, loops := [], next := none, tiles := [], latches := 0#16 }
/-- A grid but for what its instances hold of it. -/
def Grid.kept (g : Grid) : Grid := { g with overflow := [], planes := [], phases := [], matching := [], wtags := [] }

/-- Flushing instances changes these parts of the device, and of its threads and grids. -/
structure Dev.Flushes (d d' : Dev) : Prop where
  rest : ∃ grids threads insts flight retained waits unlocks, d' = { d with
    grids := grids, threads := threads, insts := insts, flight := flight, retained := retained, waits := waits, unlocks := unlocks }
  thr : ∀ n, (d'.thr n).map Thread.kept = (d.thr n).map Thread.kept
  grid : ∀ n, (d'.grid n).kept = (d.grid n).kept

namespace Dev.Flushes

theorem refl (d : Dev) : d.Flushes d := ⟨⟨_, _, _, _, _, _, _, rfl⟩, fun _ => rfl, fun _ => rfl⟩
theorem trans {a b c : Dev} (h : a.Flushes b) (h' : b.Flushes c) : a.Flushes c := by
  obtain ⟨hr, ht, hg⟩ := h
  obtain ⟨hr', ht', hg'⟩ := h'
  refine ⟨?_, fun n => (ht' n).trans (ht n), fun n => (hg' n).trans (hg n)⟩
  obtain ⟨_, _, _, _, _, _, _, rfl⟩ := hr
  obtain ⟨_, _, _, _, _, _, _, rfl⟩ := hr'
  exact ⟨_, _, _, _, _, _, _, rfl⟩

section
variable {d d' : Dev} (h : d.Flushes d')
include h
theorem preqs : d'.preqs = d.preqs := by obtain ⟨_, _, _, _, _, _, _, rfl⟩ := h.rest; rfl
theorem ctxs : d'.ctxs = d.ctxs := by obtain ⟨_, _, _, _, _, _, _, rfl⟩ := h.rest; rfl
theorem ctx (c : Nat) : d'.ctx c = d.ctx c := by obtain ⟨_, _, _, _, _, _, _, rfl⟩ := h.rest; rfl
theorem groups : d'.groups = d.groups := by obtain ⟨_, _, _, _, _, _, _, rfl⟩ := h.rest; rfl
theorem fields : d'.fields = d.fields := by obtain ⟨_, _, _, _, _, _, _, rfl⟩ := h.rest; rfl
theorem now : d'.now = d.now := by obtain ⟨_, _, _, _, _, _, _, rfl⟩ := h.rest; rfl
theorem cycle : d'.cycle = d.cycle := by obtain ⟨_, _, _, _, _, _, _, rfl⟩ := h.rest; rfl
theorem life : d'.life = d.life := by obtain ⟨_, _, _, _, _, _, _, rfl⟩ := h.rest; rfl
theorem thr_some {n : Nat} {u : Thread} (hu : d.thr n = some u) : ∃ v, d'.thr n = some v ∧ v.kept = u.kept := by
  have := h.thr n
  rw [hu] at this
  obtain ⟨v, hv, hk⟩ := Option.map_eq_some_iff.1 this
  exact ⟨v, hv, hk⟩
end

theorem modThr (d : Dev) (t : Nat) {f : Thread → Thread} (hf : ∀ u, (f u).kept = u.kept) : d.Flushes (d.modThr t f) := by
  refine ⟨?_, fun n => Dev.map_thr_modThr d t n Thread.kept hf, fun n => ?_⟩
  · unfold Dev.modThr
    split
    · exact ⟨_, _, _, _, _, _, _, rfl⟩
    · exact ⟨_, _, _, _, _, _, _, rfl⟩
  · rw [Dev.grid, Dev.grid, Dev.modThr_grids]

theorem modGrid (d : Dev) (g : Nat) {f : Grid → Grid} (hf : ∀ x, (f x).kept = x.kept) : d.Flushes (d.modGrid g f) := by
  refine ⟨⟨_, _, _, _, _, _, _, rfl⟩, fun n => rfl, fun n => ?_⟩
  by_cases hn : n = g
  · subst hn
    rw [Dev.grid_modGrid, hf]
  · rw [Dev.grid_modGrid_ne _ _ hn]

theorem mapGrids (d : Dev) {f : Grid → Grid} (hf : ∀ x, (f x).kept = x.kept) :
    d.Flushes { d with grids := d.grids.map fun p => (p.1, f p.2) } := by
  refine ⟨⟨_, _, _, _, _, _, _, rfl⟩, fun _ => rfl, fun n => ?_⟩
  simp only [Dev.grid, Tbl.get, Tbl.look_map]
  cases Tbl.look d.grids n with
  | none => rfl
  | some x => exact hf x

/-- What else of the device a flush may change. -/
theorem of_parts (d : Dev) (insts : Tbl Inst) (flight : List Flight) (retained : List FarTok) (waits : List Wait) (unlocks : List Nat) :
    d.Flushes { d with insts := insts, flight := flight, retained := retained, waits := waits, unlocks := unlocks } :=
  ⟨⟨_, _, _, _, _, _, _, rfl⟩, fun _ => rfl, fun _ => rfl⟩

theorem foldl {α : Type} {f : Dev → α → Dev} (h : ∀ (d : Dev) (a : α), d.Flushes (f d a)) (l : List α) (d : Dev) : d.Flushes (l.foldl f d) :=
  List.foldlRecOn l f (motive := d.Flushes) (.refl d) fun _ hb a _ => hb.trans (h _ a)

theorem ite {p : Prop} [Decidable p] {d a b : Dev} (ha : d.Flushes a) (hb : d.Flushes b) : d.Flushes (if p then a else b) := by
  split
  · exact ha
  · exact hb

theorem setInst (d : Dev) (n : Nat) (x : Inst) : d.Flushes (d.setInst n x) := .of_parts ..
theorem dropTokens (d : Dev) (iid : Nat) : d.Flushes (d.dropTokens iid) := by
  refine (of_parts d d.insts (d.flight.filter (fun f => f.iid != iid)) (d.retained.filter (fun f => f.producer != some iid))
    (d.waits.filter (fun q => q.iid != iid)) d.unlocks).trans (mapGrids _ (f := fun g => { g with
      overflow := g.overflow.filter (fun f => f.producer != some iid) }) ?_)
  exact fun _ => rfl
theorem gcPlanes (d : Dev) (g : Nat) : d.Flushes (d.gcPlanes g) := by
  unfold Dev.gcPlanes
  exact modGrid _ _ fun _ => rfl
theorem gcThread (d : Dev) (t : Nat) : d.Flushes (d.gcThread t) := by
  unfold Dev.gcThread
  split
  · exact .foldl (fun d _ => .gcPlanes d _) _ _
  · exact .refl _
theorem restoreTiles (d : Dev) (x : Inst) : d.Flushes (d.restoreTiles x) := by
  refine .foldl (fun d p => ?_) _ _
  exact .modThr _ _ fun _ => rfl
theorem undoMatrix (d : Dev) (x : Inst) : d.Flushes (d.undoMatrix x) := by
  have hunits : (d.restoreTiles x).Flushes (d.undoMatrix x) := by
    refine .trans (.foldl (f := fun d (m : MStep) => m.units.foldl (fun d u =>
      d.modGrid u.1 (fun g => { g with wtags := g.wtags.set u.2 .empty })) d) (fun d m => ?_) x.msteps _) (.of_parts _ _ _ _ _ _)
    refine .foldl (fun d u => ?_) _ _
    exact .modGrid _ _ fun _ => rfl
  exact (restoreTiles d x).trans hunits
theorem setAgain (d : Dev) (x : Inst) : d.Flushes (d.setAgain x) := by
  refine .foldl (fun d e => ?_) _ _
  split
  · exact .modThr _ _ fun _ => rfl
  · exact .of_parts ..
  · exact .refl _
theorem unbind (d : Dev) (x : Inst) : d.Flushes (d.unbind x) := by
  unfold Dev.unbind
  dsimp only
  split
  · refine (of_parts d d.insts d.flight _ d.waits d.unlocks).trans (.modGrid _ _ ?_)
    exact fun _ => rfl
  · exact .refl _
theorem dropInst (d : Dev) (iid : Nat) : d.Flushes (d.dropInst iid) := by
  unfold Dev.dropInst
  split
  next => exact .refl _
  next x _ =>
    have hleave := ((dropTokens d iid).trans (.setAgain _ x)).trans (.unbind _ x)
    refine .ite (hleave.trans (.setInst ..)) ((hleave.trans (.undoMatrix _ x)).trans ?_)
    exact (of_parts ..).trans (.gcPlanes ..)
theorem dropFrom (d : Dev) (t seq iid : Nat) : d.Flushes (d.dropFrom t seq iid) := by
  unfold Dev.dropFrom
  split
  · exact .ite (.dropInst ..) (.refl _)
  · exact .refl _
theorem flushFrom (d : Dev) (t seq : Nat) : d.Flushes (d.flushFrom t seq) := by
  unfold Dev.flushFrom
  dsimp only
  split
  · exact .refl _
  · refine .trans (.trans (.foldl (fun d p => ?_) _ d) (.modThr _ _ ?_)) (.gcThread ..)
    · exact .dropFrom ..
    · exact fun _ => rfl
theorem redirect (d : Dev) (t : Nat) (b : Option Nat) : d.Flushes (d.redirect t b) := .modThr _ _ fun _ => rfl
theorem hold (d : Dev) (iid : Nat) (p : Pend) (page : Option Nat) : d.Flushes (d.hold iid p page) := by
  unfold Dev.hold
  split
  next => exact .refl _
  next x _ =>
    refine .ite (.refl _) ?_
    have hleave := (((flushFrom d x.thr (x.seq + 1)).trans (.dropTokens _ iid)).trans (.setAgain _ x)).trans (.unbind _ x)
    have hmatrix : ∀ e : Dev, e.Flushes (if x.running then e else e.undoMatrix x) := fun e => .ite (.refl _) (.undoMatrix _ x)
    have hset : ∀ (e : Dev) (y : Inst), e.Flushes (((e.setInst iid y).redirect x.thr none).gcPlanes x.grid) := fun e y =>
      ((setInst e iid y).trans (.redirect ..)).trans (.gcPlanes ..)
    exact (hleave.trans (hmatrix _)).trans (hset _ _)

end Dev.Flushes

/-! ### Which instances a flush leaves -/

@[simp] theorem Dev.insts_modThr (d : Dev) (t : Nat) (f : Thread → Thread) : (d.modThr t f).insts = d.insts := by
  unfold Dev.modThr
  split <;> rfl
theorem Dev.insts_foldl {α : Type} {f : Dev → α → Dev} (h : ∀ (d : Dev) (a : α), (f d a).insts = d.insts) (l : List α) (d : Dev) :
    (l.foldl f d).insts = d.insts :=
  List.foldlRecOn l f (motive := fun e => e.insts = d.insts) rfl fun _ hb a _ => (h _ a).trans hb
@[simp] theorem Dev.insts_dropTokens (d : Dev) (iid : Nat) : (d.dropTokens iid).insts = d.insts := rfl
@[simp] theorem Dev.insts_gcPlanes (d : Dev) (g : Nat) : (d.gcPlanes g).insts = d.insts := rfl
@[simp] theorem Dev.insts_gcThread (d : Dev) (t : Nat) : (d.gcThread t).insts = d.insts := by
  unfold Dev.gcThread
  split
  · exact Dev.insts_foldl (fun d g => Dev.insts_gcPlanes d g) _ _
  · rfl
@[simp] theorem Dev.insts_restoreTiles (d : Dev) (x : Inst) : (d.restoreTiles x).insts = d.insts :=
  Dev.insts_foldl (fun _ _ => Dev.insts_modThr ..) _ _
@[simp] theorem Dev.insts_undoMatrix (d : Dev) (x : Inst) : (d.undoMatrix x).insts = d.insts := by
  have hunits : (d.undoMatrix x).insts = (d.restoreTiles x).insts := by
    refine Dev.insts_foldl (f := fun d (m : MStep) => m.units.foldl (fun d u =>
      d.modGrid u.1 (fun g => { g with wtags := g.wtags.set u.2 .empty })) d) (fun d m => ?_) x.msteps _
    refine Dev.insts_foldl (fun d u => ?_) _ _
    rfl
  exact hunits.trans (Dev.insts_restoreTiles ..)
@[simp] theorem Dev.insts_setAgain (d : Dev) (x : Inst) : (d.setAgain x).insts = d.insts := by
  refine Dev.insts_foldl (fun d e => ?_) _ _
  split
  · exact Dev.insts_modThr ..
  · rfl
  · rfl
@[simp] theorem Dev.insts_unbind (d : Dev) (x : Inst) : (d.unbind x).insts = d.insts := by
  unfold Dev.unbind
  split <;> rfl

/-- An instance dropped is gone, or goes when its matrix step ends. -/
theorem Dev.dropInst_inst (d : Dev) (iid j : Nat) : (d.dropInst iid).inst j =
    if j = iid then (d.inst iid).bind (fun x => if x.running then some { x with
      st := .flushed, dying := true, pend := none, effs := [], operands := [], wr := [] } else none) else d.inst j := by
  unfold Dev.dropInst
  cases hx : d.inst iid with
  | none =>
    dsimp only
    split
    next h => rw [h, hx]; rfl
    next => rfl
  | some x =>
    dsimp only
    by_cases hr : x.running = true
    · by_cases hj : j = iid
      · subst hj
        simp [hr]
      · rw [if_pos hr, if_neg hj, Dev.inst_setInst_ne _ _ hj]
        simp [Dev.inst]
    · rw [if_neg hr]
      by_cases hj : j = iid
      · subst hj
        simp [hr, Dev.inst]
      · rw [if_neg hj]
        simp [Dev.inst, Tbl.look_erase_ne _ hj]

/-- No instance of a thread from a sequence number on is left but to go. -/
def Dev.Gone (d : Dev) (t seq j : Nat) : Prop := ∀ z, d.inst j = some z → z.thr = t → seq ≤ z.seq → z.dying = true

theorem Dev.dropFrom_inst_ne (d : Dev) {t seq iid j : Nat} (h : j ≠ iid) : (d.dropFrom t seq iid).inst j = d.inst j := by
  unfold Dev.dropFrom
  split
  · split
    · rw [Dev.dropInst_inst, if_neg h]
    · rfl
  · rfl

theorem Dev.gone_dropFrom (d : Dev) (t seq iid : Nat) : (d.dropFrom t seq iid).Gone t seq iid := by
  intro z hz hthr hseq
  unfold Dev.dropFrom at hz
  cases hx : d.inst iid with
  | none => simp [hx] at hz
  | some x =>
    simp only [hx] at hz
    split at hz
    · rw [Dev.dropInst_inst, if_pos rfl, hx, Option.bind_some] at hz
      split at hz
      · cases hz
        rfl
      · cases hz
    next hno =>
      obtain rfl : x = z := Option.some.inj (hx.symm.trans hz)
      exact absurd ⟨hthr, hseq⟩ hno

theorem Dev.Gone.dropFrom {d : Dev} {t seq j : Nat} (h : d.Gone t seq j) (iid : Nat) : (d.dropFrom t seq iid).Gone t seq j := by
  by_cases hj : j = iid
  · exact hj ▸ d.gone_dropFrom t seq iid
  · unfold Dev.Gone
    rw [Dev.dropFrom_inst_ne _ hj]
    exact h

theorem Dev.Gone.of_insts {d d' : Dev} {t seq j : Nat} (h : d.Gone t seq j) (he : d'.insts = d.insts) : d'.Gone t seq j := by
  unfold Dev.Gone Dev.inst
  rw [he]
  exact h

/-- A flush leaves no instance of the thread from the sequence number on but to go. -/
theorem Dev.gone_flushFrom (d : Dev) (t seq j : Nat) : (d.flushFrom t seq).Gone t seq j := by
  have hfold : ∀ (l : List (Nat × Inst)) (e : Dev), (e.Gone t seq j ∨ ∃ p ∈ l, p.1 = j) →
      (l.foldl (fun d p => d.dropFrom t seq p.1) e).Gone t seq j := by
    intro l
    induction l with
    | nil => exact fun e h => h.resolve_right fun ⟨_, hp, _⟩ => nomatch hp
    | cons p r ih =>
      intro e h
      refine ih _ ?_
      rcases h with h | ⟨q, hq, hj⟩
      · exact .inl (h.dropFrom _)
      · rcases List.mem_cons.1 hq with rfl | hq
        · exact .inl (hj ▸ e.gone_dropFrom t seq q.1)
        · exact .inr ⟨q, hq, hj⟩
  have hstart : d.Gone t seq j ∨ ∃ p ∈ (d.instsOf t).filter (fun p => decide (seq ≤ p.2.seq)), p.1 = j := by
    by_cases hg : d.Gone t seq j
    · exact .inl hg
    · unfold Dev.Gone at hg
      push Not at hg
      obtain ⟨z, hz, hthr, hseq, hdy⟩ := hg
      exact .inr ⟨(j, z), List.mem_filter.2 ⟨Dev.mem_instsOf.2 ⟨Tbl.mem_of_look hz, hthr, Bool.eq_false_of_not_eq_true hdy⟩, decide_eq_true hseq⟩, rfl⟩
  unfold Dev.flushFrom
  dsimp only
  split
  next hl =>
    rw [hl] at hstart
    exact hstart.resolve_right fun ⟨_, hp, _⟩ => nomatch hp
  next hl =>
    refine Dev.Gone.of_insts (hfold _ d (hstart.imp_right ?_)) ((Dev.insts_gcThread ..).trans (Dev.insts_modThr ..))
    rintro ⟨p, hp, hj⟩
    exact ⟨p, List.mem_reverse.2 (hl ▸ hp), hj⟩

/-- Instances of other threads, and older ones, stay. -/
theorem Dev.flushFrom_inst {d : Dev} {t seq j : Nat} (h : ∀ z, d.inst j = some z → z.thr = t → z.seq < seq) :
    (d.flushFrom t seq).inst j = d.inst j := by
  have hdrop : ∀ (e : Dev) (i : Nat), e.inst j = d.inst j → (e.dropFrom t seq i).inst j = d.inst j := by
    intro e i he
    by_cases hj : j = i
    · subst hj
      unfold Dev.dropFrom
      cases hx : e.inst j with
      | none => exact he
      | some x =>
        dsimp only
        rw [if_neg, he]
        rintro ⟨hthr, hseq⟩
        exact absurd (h x (he.symm.trans hx) hthr) (Nat.not_lt.2 hseq)
    · rw [Dev.dropFrom_inst_ne _ hj, he]
  unfold Dev.flushFrom
  dsimp only
  split
  · rfl
  · have hfold := List.foldlRecOn (motive := fun e : Dev => e.inst j = d.inst j)
      ((d.instsOf t).filter (fun p => decide (seq ≤ p.2.seq))).reverse (fun (d : Dev) p => d.dropFrom t seq p.1) rfl
      fun e he p _ => hdrop e p.1 he
    simpa [Dev.inst] using hfold

end Sys2Proof.Machine
end

section
/-!
PROOFS, 02 blocks and threads: stores, and the faults of an access.
-/

namespace Sys2Proof.Machine
open Claims

/-! ### Stores as they fire -/

/-- A store-class instruction, in a slot that fires. -/
theorem runR_fireStore {i : Instr} {l : Nat} {g : W → Firing → Thread → W} {s : State} {c : Firing} {u : Thread} (h : Fires (prOf i) s c)
    (hu : s.dev.thr c.x.thr = some u) : runR (fun w => (fireStore i l g w).d) s = .next { s with dev := (g s.toW c u).d } := by
  rw [runR_eq, fireStore_holds (w := s.toW) h.1 hu h.2.1 h.2.2]

/-- An LSID filled with an effect for the commit and the bytes that loads of the thread see. -/
theorem next_fillStore {d : Dev} {c : Firing} {l : Nat} (s : State) (e : Eff) (acc : Access) (h : l ∉ c.x.lsids) :
    ({ s with dev := d.fillStore c l (some e) (some acc) {} } : State) = stored s d c l [e] [acc] [] := by
  rw [Dev.fillStore_eq _ _ _ _ _ _ h]
  simp [stored, Dev.emit, Dev.setInst, inFlight, sends]

/-- An LSID filled with nothing. -/
theorem next_fillNull {d : Dev} {c : Firing} {l : Nat} (s : State) (toks : List (Target × Tok)) (h : l ∉ c.x.lsids) :
    ({ s with dev := d.fillStore c l none none { toks := toks } } : State) = stored s d c l [] [] toks := by
  rw [Dev.fillStore_eq _ _ _ _ _ _ h]
  simp [stored, Dev.emit, Dev.setInst, inFlight, sends]

/-- The lanes that a store writes. -/
theorem storeCells_eq (f : FmtM) (c : Firing) (a : Nat) : storeCells f.ty c.ops a = laneCells f c a := by
  unfold storeCells laneCells
  refine List.map_congr_left fun i hi => ?_
  have hi : i < 64 := List.mem_range.1 (List.mem_filter.1 hi).1
  exact congrArg (Prod.mk (a + i)) (getD_map_range _ _ hi)

/-- A store of a token whose checks pass. -/
theorem storeVec_ok {f : FmtM} {rel : Nat} {w w1 : W} {c : Firing} {u : Thread}
    (h : w.storeCheck c u (addrOf f c) 64 (tyBits f.ty / 8) = .ok w1) :
    let cs := laneCells f c (addrOf f c)
    (storeVec f rel w c u).d = (w1.d.violate c.x none (cs.map Prod.fst)).fillStore c f.lsid.toNat (some (.store cs rel))
      (some ⟨f.lsid.toNat, c.idx, cs, true, none⟩) {} := by
  unfold storeVec
  simp only [memAddr_eq, elBytes, h, storeCells_eq]

theorem storeVec_error {f : FmtM} {rel : Nat} {w : W} {d : Dev} {c : Firing} {u : Thread}
    (h : w.storeCheck c u (addrOf f c) 64 (tyBits f.ty / 8) = .error d) : (storeVec f rel w c u).d = d := by
  unfold storeVec
  simp only [memAddr_eq, elBytes, h]

theorem violate_none {d : Dev} {x : Inst} {scr : Option Nat} {as : List Nat} (h : d.youngLoads x.thr x.seq scr as = []) :
    d.violate x scr as = d := by
  rw [Dev.violate, h]

theorem violate_some {d : Dev} {x y : Inst} {scr : Option Nat} {as : List Nat} {k : Nat} {r : List (Inst × Nat)}
    (h : d.youngLoads x.thr x.seq scr as = (y, k) :: r) :
    d.violate x scr as = (d.flushFrom x.thr y.seq).modGrid y.grid (fun g => g.predict y.blk k) := by
  rw [Dev.violate, h]

/-- The predictor learns a load. -/
theorem mem_predict (g : Grid) (blk k : Nat) : ∃ e ∈ (g.predict blk k).pred, e.blk = blk ∧ e.lsid = k := by
  refine ⟨⟨blk, k, g.commits⟩, ?_, rfl, rfl⟩
  unfold Grid.predict
  dsimp only
  generalize g.pred.filter (fun e => !(e.blk == blk && e.lsid == k)) = rest
  have hle : rest.length + 1 - Config.predEntries ≤ rest.length := by
    rw [Config.predEntries]
    omega
  rw [List.drop_append_of_le_length hle]
  exact List.mem_append_right _ List.mem_cons_self

/-- The checks of a scatter, lane after lane, by what the next lane adds. -/
theorem foldl_scatters {f : FmtM} {c : Firing} {u : Thread} {F : Except Dev (List Host.Cell × W) → Option Nat × Nat → Except Dev (List Host.Cell × W)}
    (hnone : ∀ q w k, F (.ok (q, w)) (none, k) = .ok (q, w))
    (hsome : ∀ q w w1 a k, k < 512 / tyBits f.ty → w.storeCheck c u a (tyBits f.ty / 8) (tyBits f.ty / 8) = .ok w1 →
      F (.ok (q, w)) (some a, k) =
        .ok (q ++ (List.range (tyBits f.ty / 8)).map (fun i => (a + i, byteAt c.ops.vc (tyBits f.ty / 8 * k + i))), w1))
    {ks : List Nat} (hk : ∀ k ∈ ks, k < 512 / tyBits f.ty) {q r : List Host.Cell} {w w' : W} (h : scatters f c u w ks = some (r, w')) :
    (ks.map (fun k => (laneAddr f c k, k))).foldl F (.ok (q, w)) = .ok (q ++ r, w') := by
  induction ks generalizing q r w with
  | nil =>
    cases h
    simp
  | cons k ks ih =>
    have hks : ∀ k ∈ ks, k < 512 / tyBits f.ty := fun j hj => hk j (List.mem_cons_of_mem _ hj)
    rw [List.map_cons, List.foldl_cons]
    rw [scatters] at h
    cases ha : laneAddr f c k with
    | none =>
      rw [ha] at h
      rw [hnone]
      exact ih hks h
    | some a =>
      rw [ha] at h
      dsimp only at h
      split at h
      next w1 hc =>
        obtain ⟨⟨r1, w2⟩, hr, hq⟩ := Option.map_eq_some_iff.1 h
        cases hq
        rw [hsome _ _ _ _ _ (hk k List.mem_cons_self) hc, ih hks hr, List.append_assoc]
      · cases h

/-- Consecutive cells of bytes that a function gives. -/
theorem cellsAt_map (a n : Nat) (g : Nat → Byte) : cellsAt a ((List.range n).map g) = (List.range n).map (fun i => (a + i, g i)) := by
  unfold cellsAt
  apply List.ext_getElem
  · simp
  · intro i h1 h2
    simp

/-- The cells of the bytes of a lane. -/
theorem cellsAt_lane (v : Vec) (a n k : Nat) :
    cellsAt a (leBytes n (lane (8 * n) v k)) = (List.range n).map (fun i => (a + i, byteAt v (n * k + i))) := by
  rw [leBytes, cellsAt_map]
  refine List.map_congr_left fun i hi => congrArg (Prod.mk (a + i)) (BitVec.eq_of_getLsbD_eq fun j hj => ?_)
  have hlt : j + 8 * i < 8 * n := by
    have := List.mem_range.1 hi
    omega
  have hadd : 8 * (n * k + i) + j = j + 8 * i + 8 * n * k := by ring
  rw [byteAt, BitVec.getLsbD_extractLsb', hadd, BitVec.getLsbD_ofNat, lane, Nat.testBit_div_two_pow, Nat.testBit_mod_two_pow,
    Nat.testBit_div_two_pow]
  simp [hj, hlt, BitVec.getLsbD]

/-- A scatter whose lanes pass their checks. -/
theorem exec_stg {f : FmtM} {s : State} {c : Firing} {u : Thread} {cs : List Host.Cell} {w : W} (h : Fires f.pr s c)
    (hu : s.dev.thr c.x.thr = some u) (hty : f.ty.toNat ≤ 11)
    (hs : scatters f c u s.toW (List.range (512 / tyBits f.ty)) = some (cs, w)) :
    exec (.stg f) s = .next { s with
      dev := (w.d.violate c.x none (cs.map Prod.fst)).fillStore c f.lsid.toNat (some (.store cs 0))
        (some ⟨f.lsid.toNat, c.idx, cs, true, none⟩) {} } := by
  have hbytes : ∀ ty : BitVec 4, ty.toNat ≤ 11 → 8 * (tyBits ty / 8) = tyBits ty := by decide
  have h8 := hbytes f.ty hty
  have hzip : ((List.range (512 / tyBits f.ty)).map (laneAddr f c)).zipIdx =
      (List.range (512 / tyBits f.ty)).map (fun k => (laneAddr f c k, k)) := by
    apply List.ext_getElem
    · simp
    · intro i h1 h2
      simp
  have hlane : ∀ k < 512 / tyBits f.ty, (lanes (8 * (tyBits f.ty / 8)) c.ops.vc).getD k 0 = lane (8 * (tyBits f.ty / 8)) c.ops.vc k := by
    intro k hk
    rw [lanes, getD_map_range _ _ (by rwa [h8])]
  rw [exec, execStg, runR_fireStore (i := .stg f) h hu]
  simp only [gatherAddrs_eq, elBytes, hzip]
  rw [foldl_scatters _ _ (fun k hk => List.mem_range.1 hk) hs]
  · rfl
  · intros; rfl
  · intro q w w1 a k hk hc
    simp only [hc, hlane k hk, cellsAt_lane]

/-- What `stsp` comes to at an aligned address in the window. -/
theorem exec_stsp {f : FmtM} {s : State} {c : Firing} {u : Thread} (h : Fires f.pr s c) (hu : s.dev.thr c.x.thr = some u)
    (ha : addrOf f c % (tyBits f.ty / 8) = 0) (hw : InWindow s u (addrOf f c) 64)
    (hs : s.dev.stalled c.x (spKeyOf s u (addrOf f c)) 64 = false) :
    let cs := laneCells f c (spKeyOf s u (addrOf f c))
    let g := spGridOf u (addrOf f c)
    exec (.stsp f) s = .next { s with
      dev := (s.dev.violate c.x (some g) (cs.map Prod.fst)).fillStore c f.lsid.toNat
        (some (.spStore g cs)) (some ⟨f.lsid.toNat, c.idx, cs, true, some g⟩) {} } := by
  have haddr : s.toW.d.spAddr u (addrOf f c) 64 = _ := spAddr_of_inWindow hw
  have hs' : s.toW.d.stalled c.x (spKeyOf s u (addrOf f c)) 64 = false := hs
  rw [exec, execStsp, runR_fireStore (i := .stsp f) h hu]
  simp only [memAddr_eq, elBytes, ha, haddr, hs', storeCells_eq]
  rfl

/-- The store class of format M fills its LSID in one way. -/
theorem storesM_shape {i : FmtM → Instr} (hi : i ∈ storesM) (f : FmtM) :
    prOf (i f) = f.pr ∧ ∃ g, ∀ s, exec (i f) s = runR (fun w => (fireStore (i f) f.lsid.toNat g w).d) s := by
  simp only [storesM, List.mem_cons, List.not_mem_nil, or_false] at hi
  rcases hi with rfl | rfl | rfl | rfl | rfl | rfl | rfl | rfl | rfl | rfl | rfl | rfl | rfl
  all_goals exact ⟨rfl, _, fun _ => rfl⟩

theorem Dev.fillStore_inst_ne {d : Dev} {c : Firing} {l j : Nat} {e : Option Eff} {acc : Option Access} {o : Out} (hl : l ∉ c.x.lsids)
    (hj : j ≠ c.iid) : (d.fillStore c l e acc o).inst j = d.inst j := by
  rw [Dev.fillStore_eq _ _ _ _ _ _ hl]
  exact Dev.emit_inst_ne _ _ _ hj

/-- A store whose bytes a younger load of its thread has read: the load is flushed with everything after it, and predicted. -/
theorem violate_fillStore {d : Dev} {x y : Inst} {c : Firing} {scr : Option Nat} {as : List Nat} {k l : Nat} {r : List (Inst × Nat)} {e : Eff}
    {acc : Access} (h : d.youngLoads x.thr x.seq scr as = (y, k) :: r) (hl : l ∉ c.x.lsids) :
    let t := (d.violate x scr as).fillStore c l (some e) (some acc) {}
    (∃ z, t.inst c.iid = some z ∧ z.lsids = l :: c.x.lsids ∧ z.effs = c.x.effs ++ [(l, c.idx, e)]) ∧
      (∀ j, j ≠ c.iid → t.Gone x.thr y.seq j) ∧ ∃ e ∈ (t.grid y.grid).pred, e.blk = y.blk ∧ e.lsid = k := by
  intro t
  refine ⟨?_, fun j hj z hz => ?_, ?_⟩
  · refine ⟨_, (congrArg (Dev.inst · c.iid) (Dev.fillStore_eq _ c l _ _ _ hl)).trans (Dev.emit_inst ..), rfl, rfl⟩
  · rw [Dev.fillStore_inst_ne hl hj, violate_some h] at hz
    exact d.gone_flushFrom x.thr y.seq j z hz
  · have hgrid : ((d.flushFrom x.thr y.seq).modGrid y.grid (fun g => g.predict y.blk k)).grid y.grid =
        ((d.flushFrom x.thr y.seq).grid y.grid).predict y.blk k := Dev.grid_modGrid ..
    have ht : t = _ := (Dev.fillStore_eq _ c l (some e) (some acc) {} hl).trans (by rw [violate_some h])
    rw [ht]
    exact hgrid ▸ mem_predict _ y.blk k
open Claims

/-! ### Faults of an access -/

theorem Dev.Moves.preqs {d d' : Dev} (h : d.Moves d') : d'.preqs = d.preqs := by obtain ⟨_, _, _, _, _, _, _, _, _, _, rfl⟩ := h.rest; rfl

section
variable {w : W} {u : Thread} {need : BitVec 3} {a n al : Nat}

theorem check_alignment (h : 2 ^ 57 ≤ a ∨ a % al ≠ 0) : w.check u need a n al = (.fault .alignment, w) := if_pos h

theorem check_protection (hok : ¬(2 ^ 57 ≤ a ∨ a % al ≠ 0)) (h : w.inDomain a = false ∨ ((need &&& rW != 0#3) = true ∧ w.d.wprotected a n = true) ∨
    hasRights (w.rights (u.accessGrid a) u.ctx a).1 need = false) : ∃ w1, w.check u need a n al = (.fault .protection, w1) := by
  unfold W.check
  rw [if_neg hok]
  split
  · exact ⟨_, rfl⟩
  next hdom =>
    have hright : hasRights (w.rights (u.accessGrid a) u.ctx a).1 need = false := by
      simp only [Bool.or_eq_true, Bool.and_eq_true, not_or] at hdom
      rcases h with h | h | h
      · simp [h] at hdom
      · exact absurd h hdom.2
      · exact h
    simp [hright]

/-- An access within one region that passes its checks. -/
theorem check_ok (hok : ¬(2 ^ 57 ≤ a ∨ a % al ≠ 0)) (hl : w.isLocal a = true) (hp : (need &&& rW != 0#3) = false ∨ w.d.wprotected a n = false)
    (hr : hasRights (w.rights (u.accessGrid a) u.ctx a).1 need = true) (hreg : a / 2 ^ 21 = (a + n - 1) / 2 ^ 21) :
    w.check u need a n al = (.ok, (w.rights (u.accessGrid a) u.ctx a).2) := by
  have hreg' : regionNo a = regionNo (a + n - 1) := hreg
  have hprot : (need &&& rW != 0#3 && w.d.wprotected a n) = false := by
    rcases hp with h | h <;> simp [h]
  unfold W.check
  rw [if_neg hok, hprot]
  simp [W.inDomain, hl, hr, hreg']

end

/-- A fault pending against the instance whose slot fires, where bytes have been moved before. -/
theorem pending_holdAt {s : State} {c : Firing} {w : W} (hc : s.dev.firing = some c) (hp : c.x.pend = none) (hw : s.toW.Moves w)
    (q : Cause) (a b e : Nat) : Pending { s with dev := w.d.holdAt c q a b e } c.iid (pendAt c q a b e) := by
  obtain ⟨-, hx, -, -⟩ := Dev.firing_spec hc
  exact ⟨_, Dev.hold_inst ((hw.dev.inst c.iid).trans hx) hp _ _, rfl, rfl, rfl, rfl⟩

/-- A page request is raised, or joined. -/
theorem raisePage_some {w : W} {c x how origin : Nat} {who : Option Requester} (h : w.d.preqs.length < 4096) :
    ∃ n d, w.raisePage c x how origin who = (some n, d) ∧ d.insts = w.d.insts ∧ ∃ r ∈ d.preqs, r.ctx = c ∧ r.page = pageOf x := by
  unfold W.raisePage
  dsimp only
  split
  next r hr =>
    have hmem := List.mem_of_find?_eq_some hr
    have hkey : r.ctx = c ∧ r.page = pageOf x := by simpa using List.find?_some hr
    refine ⟨_, _, rfl, rfl, _, List.mem_map_of_mem hmem, ?_⟩
    split <;> exact hkey
  · have hlt : ¬Config.pageRequests ≤ w.d.preqs.length := by
      rw [Config.pageRequests]
      omega
    rw [if_neg hlt]
    refine ⟨_, _, rfl, ?_, ?_⟩
    · split <;> rfl
    · refine ⟨⟨w.d.requestNum Config.pageRequests w.d.preqNext, c, pageOf x,
        BitVec.ofNat 5 (how + if w.absentDz (pageOf x) = true then 16 else 0), who.toList, !w.selfServed c (pageOf x)⟩, ?_, rfl, rfl⟩
      split <;> exact List.mem_append_right _ List.mem_cons_self

/-- A page fault is pending against the instance, and its page has a request. -/
theorem pageFault_asks {w : W} {iid : Nat} {x : Inst} {u : Thread} (hx : w.d.inst iid = some x) (hp : x.pend = none)
    (hu : w.d.thr x.thr = some u) (h : w.d.preqs.length < 4096) (a how : Nat) :
    (∃ y, (w.pageFault iid a how).inst iid = some y ∧
      y.pend = some { cause := .pageAbsent, w2 := BitVec.ofNat 64 a, w3 := BitVec.ofNat 64 (how % 4) } ∧ y.st = .flushed ∧ y.effs = [] ∧
      y.wr = []) ∧ ∃ r ∈ (w.pageFault iid a how).preqs, r.ctx = u.ctx ∧ r.page = pageOf a := by
  have hctx : w.d.ctxOf x = u.ctx := by simp [Dev.ctxOf, hu]
  obtain ⟨n, d, hr, hinsts, r, hmem, hkey⟩ := raisePage_some (w := w) (c := w.d.ctxOf x) (x := a) (how := how) (origin := originOf a)
    (who := some (.thread x.thr x.blk a (how % 4))) h
  have hfault : w.pageFault iid a how =
      d.hold iid { cause := .pageAbsent, w2 := BitVec.ofNat 64 a, w3 := BitVec.ofNat 64 (how % 4) } (some n) := by
    unfold W.pageFault
    simp only [hx, hr]
  have hinst : d.inst iid = some x := by
    rw [← hx, Dev.inst, hinsts]
    rfl
  rw [hfault]
  refine ⟨⟨_, Dev.hold_inst hinst hp _ _, rfl, rfl, rfl, rfl⟩, r, ?_, hctx ▸ hkey⟩
  rw [(Dev.Flushes.hold ..).preqs]
  exact hmem

/-! ### Loads that fault -/

/-- A load whose check fails. -/
theorem exec_ld_fault {f : FmtM} {s : State} {c : Firing} {u : Thread} {q : Cause} {w : W} (h : Fires f.pr s c) (hu : s.dev.thr c.x.thr = some u)
    (hr : s.dev.mayLoad c u f.lsid.toNat = true) (hc : s.toW.check u rR (addrOf f c) 64 (tyBits f.ty / 8) = (.fault q, w)) :
    exec (.ld f) s = .next { s with dev := w.d.holdAt c q (addrOf f c) 0 0 } ∧
      exec (.lda f) s = .next { s with dev := w.d.holdAt c q (addrOf f c) 0 0 } := by
  have hov : w.ov = [] := by
    have := s.toW.check_ov u rR (addrOf f c) 64 (tyBits f.ty / 8)
    rwa [hc] at this
  have hr' : s.toW.d.mayLoad c u f.lsid.toNat = true := hr
  refine exec_ld_wait (w := { w with d := w.d.holdAt c q (addrOf f c) 0 0 }) h hu hov fun acq => ?_
  unfold loadVec
  simp [hr', memAddr_eq, elBytes, hc]

/-- `ldsp` at an address that is not aligned, or outside the window. -/
theorem exec_ldsp_fault {f : FmtM} {s : State} {c : Firing} {u : Thread} (h : Fires f.pr s c) (hu : s.dev.thr c.x.thr = some u)
    (hr : s.dev.mayLoad c u f.lsid.toNat = true) {q : Cause}
    (hq : (addrOf f c % (tyBits f.ty / 8) ≠ 0 ∧ q = .alignment) ∨
      (addrOf f c % (tyBits f.ty / 8) = 0 ∧ s.dev.spAddr u (addrOf f c) 64 = none ∧ q = .protection)) :
    exec (.ldsp f) s = .next { s with dev := s.dev.holdAt c q (addrOf f c) 0 0 } := by
  have hr' : s.toW.d.mayLoad c u f.lsid.toNat = true := hr
  rw [exec, execLdsp, runR_eq, fireLoad_holds (i := .ldsp f) (w := s.toW) h.1 hu h.2.1 h.2.2]
  rcases hq with ⟨ha, rfl⟩ | ⟨ha, hw, rfl⟩
  · simp only [hr', memAddr_eq, elBytes, Bool.not_true, Bool.false_eq_true, if_false]
    exact congrArg (fun d => Host.Outcome.next { s with dev := d }) (if_pos ha)
  · have hw' : s.toW.d.spAddr u (addrOf f c) 64 = none := hw
    simp only [hr', memAddr_eq, elBytes, ha, hw']
    rfl

theorem spAddr_eq_none {s : State} {u : Thread} {a n : Nat} (h : ¬InWindow s u a n) : s.dev.spAddr u a n = none := by
  have hout : 2 ^ 28 ≤ a ∨ a / 2 ^ 21 % 8 ≠ 0 ∨ u.width ≤ a / 2 ^ 24 % 16 ∨ s.dev.scratchSize u < a % 2 ^ 21 + n := by
    unfold InWindow at h
    by_contra hno
    simp only [not_or, Nat.not_le, Nat.not_lt, not_not] at hno
    exact h hno
  exact if_pos hout

/-- The page of a line that no L1 holds is not there. -/
structure LineAbsent (w : W) (u : Thread) (q : Nat) : Prop where
  absent : w.translate u.ctx (w.d.rnumOf u) (32 * q) = .absent
  quiet : w.d.snooping q = false
  miss : (w.d.grid (u.accessGrid (32 * q))).l1Find q ((w.d.ctx u.ctx).ridOf (w.d.rnumOf u) (32 * q)) = none

theorem loadCells_absent {w : W} {x : Inst} {u : Thread} {l a : Nat} (h : LineAbsent w u (a / 32)) :
    w.loadCells x u l (addrs a 64) = (.absent, w) := by
  obtain ⟨ht, hs, hmiss⟩ := h
  obtain ⟨r, hr⟩ : ∃ r, ((addrs a 64).map lineOf).eraseDups = a / 32 :: r := by
    rw [addrs, List.range_succ_eq_map, List.map_cons, List.map_cons, List.eraseDups_cons]
    exact ⟨_, rfl⟩
  have hline := l1Read_fail hmiss (home_absent hs ht) fun _ => nofun
  unfold W.loadCells
  rw [hr, W.readLines]
  simp only [hline]

theorem failAt_absent {w : W} {u : Thread} {a : Nat} (h : w.translate u.ctx (w.d.rnumOf u) a = .absent) : w.failAt u (span a 64) = a := by
  unfold W.failAt
  rw [span, List.range_succ_eq_map, List.map_cons, List.find?_cons_of_pos]
  · rfl
  · simp [h]

/-- A load whose page is not there. -/
theorem exec_ld_absent {f : FmtM} {s : State} {c : Firing} {u : Thread} {w : W} (h : Fires f.pr s c) (hu : s.dev.thr c.x.thr = some u)
    (hr : s.dev.mayLoad c u f.lsid.toNat = true) (hc : s.toW.check u rR (addrOf f c) 64 (tyBits f.ty / 8) = (.ok, w))
    (ho : c.x.owed c.code f.lsid.toNat (addrs (addrOf f c) 64) = false)
    (ht : w.translate u.ctx (w.d.rnumOf u) (addrOf f c) = .absent) (hd : w.deviceOrdered u (addrOf f c + 63) = false)
    (hl : LineAbsent w u (addrOf f c / 32)) :
    exec (.ld f) s = .next { s with dev := w.pageFault c.iid (addrOf f c) 0 } := by
  have hov : w.ov = [] := by
    have := s.toW.check_ov u rR (addrOf f c) 64 (tyBits f.ty / 8)
    rwa [hc] at this
  have hr' : s.toW.d.mayLoad c u f.lsid.toNat = true := hr
  have h1 : w.mayDevice c u (addrOf f c) = true := mayDevice_of_may (.inl (by simp [W.deviceOrdered, ht]))
  have h2 : w.mayDevice c u (addrOf f c + 63) = true := mayDevice_of_may (.inl hd)
  have ho' : c.x.owed c.code f.lsid.toNat (span (addrOf f c) 64) = false := ho
  have hcells : w.loadCells c.x u f.lsid.toNat (span (addrOf f c) 64) = (.absent, w) := loadCells_absent hl
  have hvec : loadVec f none s.toW c u = { w with d := w.pageFault c.iid (addrOf f c) 0 } := by
    unfold loadVec
    simp [hr', memAddr_eq, elBytes, hc, h1, h2, ho', hcells, failAt_absent ht, Rd.fail]
  rw [exec, execLd, run_fireFill (i := .ld f) h hu, hvec]
  exact congrArg _ (next_of_ov (w := { w with d := w.pageFault c.iid (addrOf f c) 0 }) hov)

/-! ### Stores that fault -/

/-- A store of a token whose checks fail. -/
theorem exec_st_error {f : FmtM} {s : State} {c : Firing} {u : Thread} {d : Dev} (h : Fires f.pr s c) (hu : s.dev.thr c.x.thr = some u)
    (hc : s.toW.storeCheck c u (addrOf f c) 64 (tyBits f.ty / 8) = .error d) :
    exec (.st f) s = .next { s with dev := d } ∧ exec (.stl f) s = .next { s with dev := d } := by
  constructor
  · rw [exec, execSt, runR_fireStore (i := .st f) h hu, storeVec_error hc]
  · rw [exec, execStl, runR_fireStore (i := .stl f) h hu, storeVec_error hc]

theorem storeCheck_fault {w w1 : W} {c : Firing} {u : Thread} {a n al : Nat} {q : Cause} (h : w.check u rW a n al = (.fault q, w1)) :
    w.storeCheck c u a n al = .error (w1.d.holdAt c q a 1 0) := by
  unfold W.storeCheck
  simp [h]

/-- A store whose page is not there. -/
theorem storeCheck_absent {w w1 : W} {c : Firing} {u : Thread} {a n al : Nat} (h : w.check u rW a n al = (.ok, w1))
    (ht : w1.translate u.ctx (w1.d.rnumOf u) a = .absent)
    (hmiss : (w1.d.grid (u.accessGrid a)).l1Find (a / 32) ((w1.d.ctx u.ctx).ridOf (w1.d.rnumOf u) a) = none) :
    ∃ w2, w.storeCheck c u a n al = .error (w2.pageFault c.iid a 1) ∧ w1.Moves w2 := by
  have hmiss' : (w1.d.grid (u.accessGrid a)).l1Find (lineOf a) ((w1.d.ctx u.ctx).ridOf (w1.d.rnumOf u) a) = none := hmiss
  refine ⟨(w1.probe u a).2, ?_, W.Moves.probe w1 u a⟩
  have hfst : (w1.probe u a).1 = .absent := by
    unfold W.probe
    simp [hmiss', ht]
  unfold W.storeCheck W.presence
  simp only [h]
  generalize w1.probe u a = p at hfst
  obtain ⟨_, w2⟩ := p
  cases hfst
  rfl

/-- `stsp` at an address that is not aligned, or outside the window. -/
theorem exec_stsp_fault {f : FmtM} {s : State} {c : Firing} {u : Thread} (h : Fires f.pr s c) (hu : s.dev.thr c.x.thr = some u) {q : Cause}
    (hq : (addrOf f c % (tyBits f.ty / 8) ≠ 0 ∧ q = .alignment) ∨
      (addrOf f c % (tyBits f.ty / 8) = 0 ∧ s.dev.spAddr u (addrOf f c) 64 = none ∧ q = .protection)) :
    exec (.stsp f) s = .next { s with dev := s.dev.holdAt c q (addrOf f c) 1 0 } := by
  rw [exec, execStsp, runR_fireStore (i := .stsp f) h hu]
  rcases hq with ⟨ha, rfl⟩ | ⟨ha, hw, rfl⟩
  · simp only [memAddr_eq, elBytes, if_pos ha]
    rfl
  · have hw' : s.toW.d.spAddr u (addrOf f c) 64 = none := hw
    simp only [memAddr_eq, elBytes, ha, hw']
    rfl

/-! ### The store class, and the faults of an access -/

/-- What rights leave that a translation and an L1 rest on. -/
theorem sameOutsideCaches_rights (w : W) (g c x : Nat) : w.SameButLines (w.rights g c x).2 ∧
    ∀ n, ((w.rights g c x).2.d.grid n).l1 = (w.d.grid n).l1 := by
  unfold W.rights
  split
  · exact ⟨.refl _, fun _ => rfl⟩
  · split
    · exact ⟨.refl _, fun _ => rfl⟩
    · refine ⟨⟨⟨_, _, _, rfl⟩⟩, fun n => ?_⟩
      by_cases hn : n = g
      · subst hn
        rw [Dev.grid_modGrid]
      · rw [Dev.grid_modGrid_ne _ _ hn]

theorem LineAbsent.mono {w w' : W} {u : Thread} {q : Nat} (h : LineAbsent w u q) (hw : w.SameButLines w')
    (hl : ∀ n, (w'.d.grid n).l1 = (w.d.grid n).l1) : LineAbsent w' u q := by
  obtain ⟨ht, hs, hmiss⟩ := h
  refine ⟨by rwa [hw.rnumOf, hw.translate], by rwa [hw.snooping], ?_⟩
  rw [hw.ctx, hw.rnumOf, Grid.l1Find, hl]
  exact hmiss

theorem wprotected_iff (d : Dev) (a n : Nat) : d.wprotected a n = true ↔ ∃ r ∈ d.wprot, a < r.2.2.1 + r.2.2.2 ∧ r.2.2.1 < a + n := by
  simp [Dev.wprotected]

/-- Settles O55: a store by what its check gives, the store class by its common shape, and the faults by what a check, a translation and
a page request come to. -/
theorem storesAndFaults : Obligations.StoresAndFaults := by
  unfold Obligations.StoresAndFaults
  refine ⟨⟨fun f s c u h hu hl => ?_, fun i hi f s c u hc hu => ?_⟩, fun f s c u h hu hp => ?_⟩
  · intro l a cs
    refine ⟨fun w hw => ⟨fun hy => ⟨?_, ?_⟩, fun y k r hy => ?_⟩, fun w cs hty hs hy => ?_, fun ha hin hst hy => ?_⟩
    · rw [exec, execSt, runR_fireStore (i := .st f) h hu, storeVec_ok hw, violate_none hy]
      exact congrArg _ (next_fillStore s _ _ hl)
    · rw [exec, execStl, runR_fireStore (i := .stl f) h hu, storeVec_ok hw, violate_none hy]
      exact congrArg _ (next_fillStore s _ _ hl)
    · obtain ⟨hinst, hgone, hpred⟩ := violate_fillStore (c := c) (e := .store cs 0) (acc := ⟨l, c.idx, cs, true, none⟩) hy hl
      have hexec : exec (.st f) s = .next { s with dev := (storeVec f 0 s.toW c u).d } := by
        rw [exec, execSt, runR_fireStore (i := .st f) h hu]
      rw [storeVec_ok hw] at hexec
      exact ⟨_, hexec, rfl, hinst, fun j z hj hz => hgone j hj z hz, hpred⟩
    · rw [exec_stg h hu hty hs, violate_none hy]
      exact congrArg _ (next_fillStore s _ _ hl)
    · refine (exec_stsp h hu ha hin hst).trans ?_
      rw [violate_none hy]
      exact congrArg _ (next_fillStore s _ _ hl)
  · obtain ⟨hpr, g, hexec⟩ := storesM_shape hi f
    intro l
    refine ⟨fun hl hno => ?_, fun hl hyes hn => ?_, fun hl hno hp => ?_⟩
    · rw [hexec, runR_eq, fireStore_not_holds (w := s.toW) hc hu (hpr ▸ hno)]
      exact congrArg _ (next_fillNull s [] hl)
    · rw [hexec, runR_eq, fireStore_null (w := s.toW) hc hu (hpr ▸ hyes) hn]
      exact congrArg _ (next_fillNull s _ hl)
    · have hnull := hexec s
      rw [runR_eq, fireStore_not_holds (w := s.toW) hc hu (hpr ▸ hno), Dev.fillStore_conflict _ _ _ _ _ _ hl] at hnull
      exact ⟨_, hnull, rfl, pending_hold hc hp _ _⟩
  · intro a n right ends bad asks missing
    obtain ⟨-, hx, -, -⟩ := Dev.firing_spec h.1
    have hrefl : s.toW.Moves s.toW := .refl _
    have hst : ∀ q w1, s.toW.check u rW a 64 n = (.fault q, w1) → ends (.st f) q 1 ∧ ends (.stl f) q 1 := by
      intro q w1 hc
      have hmoves : s.toW.Moves w1 := by
        have := W.Moves.check s.toW u rW a 64 n
        rwa [hc] at this
      obtain ⟨h1, h2⟩ := exec_st_error h hu (storeCheck_fault hc)
      have hpend := pending_holdAt h.1 hp hmoves q a 1 0
      exact ⟨⟨_, h1, rfl, rfl, hpend⟩, _, h2, rfl, rfl, hpend⟩
    refine ⟨fun hr => ?_, fun hb => hst _ _ (check_alignment hb), fun hb hno => ?_, fun hm hright hw => ?_,
      fun ha => ⟨_, exec_stsp_fault h hu (.inl ⟨ha, rfl⟩), rfl, rfl, pending_holdAt h.1 hp hrefl _ _ _ _⟩,
      fun ha hw => ⟨_, exec_stsp_fault h hu (.inr ⟨ha, spAddr_eq_none hw, rfl⟩), rfl, rfl, pending_holdAt h.1 hp hrefl _ _ _ _⟩⟩
    · have hmay : s.dev.mayLoad c u f.lsid.toNat = true := (mayLoad_iff s c u _).2 hr
      have hld : ∀ q w1, s.toW.check u rR a 64 n = (.fault q, w1) → ends (.ld f) q 0 ∧ ends (.lda f) q 0 := by
        intro q w1 hc
        have hmoves : s.toW.Moves w1 := by
          have := W.Moves.check s.toW u rR a 64 n
          rwa [hc] at this
        obtain ⟨h1, h2⟩ := exec_ld_fault h hu hmay hc
        have hpend := pending_holdAt h.1 hp hmoves q a 0 0
        exact ⟨⟨_, h1, rfl, rfl, hpend⟩, _, h2, rfl, rfl, hpend⟩
      refine ⟨fun hb => hld _ _ (check_alignment hb), fun hb hno => ?_, fun hm hright ho => ?_,
        fun ha => ⟨_, exec_ldsp_fault h hu hmay (.inl ⟨ha, rfl⟩), rfl, rfl, pending_holdAt h.1 hp hrefl _ _ _ _⟩,
        fun ha hw => ⟨_, exec_ldsp_fault h hu hmay (.inr ⟨ha, spAddr_eq_none hw, rfl⟩), rfl, rfl, pending_holdAt h.1 hp hrefl _ _ _ _⟩⟩
      · obtain ⟨w1, hc⟩ := check_protection (w := s.toW) (u := u) (need := rR) (n := 64) hb
          (hno.imp_right fun h => .inr ((hasRights_read _).trans h))
        exact hld _ _ hc
      · obtain ⟨hb, hl, hd, hreg, ht, ht', hs, hmiss, hmiss', hlen⟩ := hm
        have hc := check_ok (w := s.toW) (u := u) (need := rR) (n := 64) hb hl (.inl (by decide)) ((hasRights_read _).trans hright) hreg
        obtain ⟨hsame, hl1⟩ := sameOutsideCaches_rights s.toW (u.accessGrid a) u.ctx a
        have hmoves := W.Moves.rights s.toW (u.accessGrid a) u.ctx a
        have hline : LineAbsent s.toW u (a / 32) := ⟨ht', hs, hmiss'⟩
        have hexec := exec_ld_absent h hu hmay hc ho (by rwa [hsame.rnumOf, hsame.translate])
          (by simpa [W.deviceOrdered, hsame.rnumOf, hsame.translate] using hd) (hline.mono hsame hl1)
        obtain ⟨hpend, hreq⟩ := pageFault_asks ((hmoves.dev.inst _).trans hx) hp ((hmoves.dev.thr _).trans hu)
          (lt_of_eq_of_lt (congrArg List.length hmoves.dev.preqs) hlen) a 0
        exact ⟨_, hexec, rfl, hpend, hreq⟩
    · obtain ⟨w1, hc⟩ := check_protection (w := s.toW) (u := u) (need := rW) (n := 64) hb (by
        rcases hno with hno | hno | hno
        · exact .inl hno
        · exact .inr (.inr ((hasRights_write _).trans hno))
        · exact .inr (.inl ⟨by decide, (wprotected_iff _ _ _).2 hno⟩))
      exact hst _ _ hc
    · obtain ⟨hb, hl, hd, hreg, ht, ht', hs, hmiss, hmiss', hlen⟩ := hm
      have hc := check_ok (w := s.toW) (u := u) (need := rW) (n := 64) hb hl
        (.inr (by simp [Dev.wprotected, State.toW, hw])) ((hasRights_write _).trans hright) hreg
      obtain ⟨hsame, hl1⟩ := sameOutsideCaches_rights s.toW (u.accessGrid a) u.ctx a
      obtain ⟨w2, hcheck, hmoves2⟩ := storeCheck_absent (c := c) hc (by rwa [hsame.rnumOf, hsame.translate])
        (by rw [hsame.ctx, hsame.rnumOf, Grid.l1Find, hl1]; exact hmiss)
      have hmoves := (W.Moves.rights s.toW (u.accessGrid a) u.ctx a).trans hmoves2
      obtain ⟨hpend, hreq⟩ := pageFault_asks ((hmoves.dev.inst _).trans hx) hp ((hmoves.dev.thr _).trans hu)
        (lt_of_eq_of_lt (congrArg List.length hmoves.dev.preqs) hlen) a 1
      obtain ⟨h1, h2⟩ := exec_st_error h hu hcheck
      exact ⟨⟨_, h1, rfl, hpend, hreq⟩, _, h2, rfl, hpend, hreq⟩

end Sys2Proof.Machine
end

section
/-!
PROOFS, 02 blocks and threads: a fetch in a table that lists two instances under one number.
-/

namespace Sys2Proof.Machine

/-! `FetchAndFill` asks that a fetch raises the sequence number of its thread by one when every instance that the table *returns* is
no younger than the thread. A table that lists two instances under one number returns only the first of them, while a flush passes
over all: fetching a block off the package then flushes the hidden instance, and its thread goes back to that instance's number.
No run reaches such a table; the statement ranges over it. -/

/-- A thread on slot 0 of grid 0 whose next block lies off the package. -/
def strayThread : Thread :=
  { ctx := 0, gid := 0, tnum := 0, st := .run, first := 0, width := 1, slots := [(0, 0)], regCnt := 0, next := some (2 ^ 49) }

/-- An instance of another thread, which the table returns under number 0. -/
def shownInst : Inst := { thr := 1, grid := 0, st := .firing, seq := 0, blk := 0 }

/-- An instance of the thread, listed under number 0 behind `shownInst`. -/
def hiddenInst : Inst := { thr := 0, grid := 0, st := .firing, seq := 9, blk := 0, plane := some 0 }

/-- A state whose table lists two instances under number 0. -/
def twoUnderOneNumber : State :=
  { State.reset with
    dev := { Dev.reset with
      ctxs := [(0, { st := .running })]
      threads := [(0, strayThread)]
      insts := [(0, shownInst), (0, hiddenInst)] } }

theorem twoUnderOneNumber_choose :
    twoUnderOneNumber.dev.chooseSlot 0 (twoUnderOneNumber.dev.readyOn 0) = some (0, 0) := by
  decide

/-- The sequence number of thread 0 in the state that an outcome goes to. -/
def seqAfter : Host.Outcome State Fault Refusal → Option Nat
  | .next t => (t.dev.thr 0).map Thread.seq
  | _ => none

theorem twoUnderOneNumber_seqAfter : seqAfter (exec .fetchOpportunity twoUnderOneNumber) = some 8 := by
  decide

theorem twoUnderOneNumber_inst {j : Nat} {z : Inst} (h : twoUnderOneNumber.dev.inst j = some z) : z = shownInst := by
  change (if 0 = j then some shownInst else if 0 = j then some hiddenInst else none) = some z at h
  split at h
  · exact (Option.some.inj h).symm
  · cases h

/-- Refutes O20: where a table lists two instances under one number, a fetch can take the thread back to the number of the one that
the table does not return. -/
theorem not_fetchAndFill : ¬ Obligations.FetchAndFill := by
  unfold Obligations.FetchAndFill
  intro h
  obtain ⟨-, hfetch, -⟩ := h twoUnderOneNumber
  obtain ⟨-, t, n, y, hexec, -, -, -, -, -, -, -, hthr, -⟩ :=
    hfetch 0 0 strayThread (2 ^ 49) rfl twoUnderOneNumber_choose rfl rfl
  obtain ⟨v, hv, hseq, -⟩ := hthr fun j z hj hz => by
    cases twoUnderOneNumber_inst hj
    exact absurd hz (by decide)
  have hafter := twoUnderOneNumber_seqAfter
  rw [hexec] at hafter
  simp only [seqAfter, hv, Option.map_some, hseq, strayThread] at hafter
  exact absurd hafter (by decide)

end Sys2Proof.Machine
end

section
/-!
PROOFS, 02 blocks and threads: placement, tokens, mispredicted exits, the watchdog and the times of a slot.
-/

namespace Sys2Proof.Machine
open Claims

/-! ### Injecting the reads of a block -/

/-- An instance but for the read entries that wait. -/
def Inst.injected (x : Inst) : Inst := { x with pendReads := [] }

/-- Injecting reads puts tokens on their way; of the instances it changes which reads wait. -/
structure Dev.Injects (d d' : Dev) : Prop where
  rest : ∃ insts flight, d' = { d with insts := insts, flight := flight }
  inst : ∀ n, (d'.inst n).map Inst.injected = (d.inst n).map Inst.injected

namespace Dev.Injects

theorem refl (d : Dev) : d.Injects d := ⟨⟨_, _, rfl⟩, fun _ => rfl⟩
theorem trans {a b c : Dev} (h : a.Injects b) (h' : b.Injects c) : a.Injects c := by
  refine ⟨?_, fun n => (h'.inst n).trans (h.inst n)⟩
  obtain ⟨_, _, rfl⟩ := h.rest
  obtain ⟨_, _, rfl⟩ := h'.rest
  exact ⟨_, _, rfl⟩
theorem foldl {α : Type} {f : Dev → α → Dev} (h : ∀ (d : Dev) (a : α), d.Injects (f d a)) (l : List α) (d : Dev) : d.Injects (l.foldl f d) :=
  List.foldlRecOn l f (motive := d.Injects) (.refl d) fun _ hb a _ => hb.trans (h _ a)

section
variable {d d' : Dev} (h : d.Injects d')
include h
theorem threads : d'.threads = d.threads := by obtain ⟨_, _, rfl⟩ := h.rest; rfl
theorem grids : d'.grids = d.grids := by obtain ⟨_, _, rfl⟩ := h.rest; rfl
theorem inst_some {n : Nat} {x : Inst} (hx : d.inst n = some x) : ∃ y, d'.inst n = some y ∧ y.injected = x.injected := by
  have hn := h.inst n
  rw [hx] at hn
  exact Option.map_eq_some_iff.1 hn
end

/-- A read taken from those that wait. -/
theorem modInst (d : Dev) (n : Nat) (fl : List Flight) {f : Inst → Inst} (hf : ∀ x, (f x).injected = x.injected) :
    d.Injects { d.modInst n f with flight := fl } := by
  unfold Dev.modInst
  cases hx : d.inst n with
  | none => exact ⟨⟨_, _, rfl⟩, fun _ => rfl⟩
  | some x =>
    refine ⟨⟨_, _, rfl⟩, fun j => ?_⟩
    change (((d.setInst n (f x)).inst j).map Inst.injected) = _
    by_cases hj : j = n
    · subst hj
      rw [Dev.inst_setInst, hx, Option.map_some, Option.map_some, hf]
    · rw [Dev.inst_setInst_ne _ _ hj]

theorem inject (d : Dev) (n : Nat) : d.Injects (d.inject n) := by
  unfold Dev.inject
  split
  · exact .refl d
  · split
    · exact .refl d
    · refine .foldl (fun d k => ?_) _ _
      dsimp only
      split
      · exact .refl d
      · refine modInst d n _ ?_
        exact fun _ => rfl
theorem injectAll (d : Dev) (t : Nat) : d.Injects (d.injectAll t) := .foldl (f := fun d (p : Nat × Inst) => d.inject p.1) (fun d p => .inject d p.1) _ _

end Dev.Injects

theorem Dev.modInst_inst_ne (d : Dev) {n j : Nat} (f : Inst → Inst) (h : j ≠ n) : (d.modInst n f).inst j = d.inst j := by
  unfold Dev.modInst
  split
  · rw [Dev.inst_setInst_ne _ _ h]
  · rfl

/-- Other instances keep their reads. -/
theorem Dev.inject_inst_ne (d : Dev) {n j : Nat} (h : j ≠ n) : (d.inject n).inst j = d.inst j := by
  unfold Dev.inject
  split
  · rfl
  · split
    · rfl
    · refine List.foldlRecOn _ _ (motive := fun e : Dev => e.inst j = d.inst j) rfl fun e he k _ => ?_
      dsimp only
      split
      · exact he
      · exact (Dev.modInst_inst_ne e _ h).trans he

/-! ### An instance enters its plane (02 R27) -/

/-- A plane as the instances of a placement enter FIRING. -/
def Plane.entered (p : Plane) (cycle placement : Nat) : Plane :=
  if p.placement = placement ∧ p.firingAt = none then { p with firingAt := some cycle } else p

/-- The planes of a grid as the instances of a placement enter FIRING. -/
def Grid.entered (gr : Grid) (cycle placement : Nat) : Grid :=
  { gr with planes := gr.planes.map (fun p =>
      if p.2.placement = placement ∧ p.2.firingAt = none then (p.1, { p.2 with firingAt := some cycle }) else p) }

/-- What an instance is as it enters FIRING in a plane of a placement. -/
structure Entered (x y : Inst) (b : Block) (k cycle wdog : Nat) : Prop where
  st : y.st = .firing
  plane : y.plane = some k
  code : y.code = some b
  thr : y.thr = x.thr
  seq : y.seq = x.seq
  blk : y.blk = x.blk
  since : y.since = cycle
  wdog : y.wdog = wdog
  fired : y.fired = x.fired
  effs : y.effs = x.effs

/-- The instance as it enters: in its plane, with the tag of its loop nest, every read entry waiting. -/
def Dev.entering (d : Dev) (x : Inst) (t : Thread) (b : Block) (k n : Nat) : Inst :=
  let ws := d.tagWidths t
  let x := { x with plane := some k, placement := n, resident := b.isResident, code := some b }
  let nest := x.post ws
  { x with
    st := .firing, tag := BitVec.ofNat 64 nest.tag, since := d.cycle, wdog := (d.ctx t.ctx).wdog, pendReads := List.range b.nread
    iter := match nest.loops with | l :: _ => l.iter | [] => 0
    rot := match nest.loops with | l :: _ => tagField ws nest.tag l.fieldNo | [] => 0 }

/-- Entering writes the instance and its planes, and injects its reads. -/
theorem Dev.enter_eq (d : Dev) (iid : Nat) (x : Inst) (t : Thread) (b : Block) (k n : Nat) :
    ∃ (e : Dev) (y : Inst), d.enter iid x t b k n = e.inject iid ∧ e.insts = d.insts.set iid y ∧ Entered x y b k d.cycle (d.ctx t.ctx).wdog ∧
      e.grids = (d.modGrid x.grid (Grid.entered · d.cycle n)).grids := by
  refine ⟨_, d.entering x t b k n, rfl, ?_, ?_, ?_⟩
  · simp only [modGroup_insts, modThr_insts, modGrid_insts]
    rfl
  · constructor <;> rfl
  · simp only [modGroup_grids, modThr_grids]
    rfl

theorem Entered.of_injected {x y z : Inst} {b : Block} {k cycle wdog : Nat} (h : Entered x y b k cycle wdog)
    (hz : z.injected = y.injected) : Entered x z b k cycle wdog := by
  obtain ⟨h1, h2, h3, h4, h5, h6, h7, h8, h9, h10⟩ := h
  exact ⟨(congrArg Inst.st hz :).trans h1, (congrArg Inst.plane hz :).trans h2, (congrArg Inst.code hz :).trans h3,
    (congrArg Inst.thr hz :).trans h4, (congrArg Inst.seq hz :).trans h5, (congrArg Inst.blk hz :).trans h6,
    (congrArg Inst.since hz :).trans h7, (congrArg Inst.wdog hz :).trans h8, (congrArg Inst.fired hz :).trans h9,
    (congrArg Inst.effs hz :).trans h10⟩

theorem Dev.enter_inst (d : Dev) (iid : Nat) (x : Inst) (t : Thread) (b : Block) (k n : Nat) :
    ∃ y, (d.enter iid x t b k n).inst iid = some y ∧ Entered x y b k d.cycle (d.ctx t.ctx).wdog := by
  obtain ⟨e, y, he, hi, hy, -⟩ := d.enter_eq iid x t b k n
  obtain ⟨z, hz, hk⟩ := (Dev.Injects.inject e iid).inst_some (n := iid) (x := y) (by simp [Dev.inst, hi])
  exact ⟨z, he ▸ hz, hy.of_injected hk⟩

theorem Dev.enter_inst_ne (d : Dev) {iid j : Nat} (x : Inst) (t : Thread) (b : Block) (k n : Nat) (h : j ≠ iid) :
    (d.enter iid x t b k n).inst j = d.inst j := by
  obtain ⟨e, y, he, hi, -, -⟩ := d.enter_eq iid x t b k n
  rw [he, Dev.inject_inst_ne _ h, Dev.inst, hi, Tbl.look_set_ne _ _ h]
  rfl

theorem Dev.enter_grid (d : Dev) (iid : Nat) (x : Inst) (t : Thread) (b : Block) (k n : Nat) :
    (d.enter iid x t b k n).grid x.grid = (d.grid x.grid).entered d.cycle n := by
  obtain ⟨e, y, he, -, -, hg⟩ := d.enter_eq iid x t b k n
  rw [he, Dev.grid, (Dev.Injects.inject e iid).grids, hg]
  exact Dev.grid_modGrid ..

/-- The plane of the instance that enters is the one that it is given. -/
theorem Grid.entered_plane (gr : Grid) {p : Plane} {k cycle n : Nat} (hk : gr.planes.look k = some p) (hn : p.placement = n)
    (hf : p.firingAt = none) : (gr.entered cycle n).planes.look k = some { p with firingAt := some cycle } := by
  have hmap : (gr.entered cycle n).planes = gr.planes.map fun q => (q.1, q.2.entered cycle n) :=
    List.map_congr_left fun q _ => by
      unfold Plane.entered
      split <;> rfl
  rw [hmap, Tbl.look_map gr.planes fun q => q.entered cycle n, hk]
  exact congrArg some (if_pos ⟨hn, hf⟩)
open Claims

/-- What an agent holds against an instance is pending. -/
theorem pending_of_hold {s : State} {d : Dev} {n : Nat} {x : Inst} (hx : d.inst n = some x) (hp : x.pend = none) (p : Pend)
    (page : Option Nat) : Pending { s with dev := d.hold n p page } n p :=
  ⟨_, Dev.hold_inst hx hp p page, rfl, rfl, rfl, rfl⟩

/-! ### Placing (02 R27, 04 R109) -/

section
variable {s : State} {x : Inst} {u : Thread} {blk : Block} (hx : s.dev.inst s.dev.arg.a = some x) (hu : s.dev.thr x.thr = some u)
  (hb : x.code = some blk)
include hx hu hb

theorem exec_instancePlace_stays (h : x.st ≠ .placing ∨ s.dev.stopped x.grid = true) : exec .instancePlace s = .next s := by
  simp only [exec, execInstancePlace, runR_eq, State.toW, hx, hu, hb]
  exact congrArg (fun d => Host.Outcome.next { s with dev := d }) (if_pos h)

theorem exec_instancePlace_faults {e : Bad} (hst : x.st = .placing) (hs : s.dev.stopped x.grid = false) (hpl : blk.placed = true)
    (he : s.dev.placeCheck u x blk ⟨0, []⟩ = some e) :
    exec .instancePlace s = .next { s with dev := s.dev.hold s.dev.arg.a (e.pend x.blk) } := by
  simp only [exec, execInstancePlace, runR_eq, State.toW, hx, hu, hb, hpl, he, hst, hs, ne_eq, not_true_eq_false, Bool.false_eq_true,
    or_self, if_true, if_false]

/-- A plane as it is taken. -/
def Inst.newPlane (x : Inst) (blk : Block) (n : Nat) : Plane :=
  { placement := n, blk := x.blk, resident := blk.isResident, thr := x.thr, fetchAt := x.since, firingAt := none, commitAt := none,
    leaveAt := none }

theorem exec_instancePlace_enters {k : Nat} (hst : x.st = .placing) (hs : s.dev.stopped x.grid = false) (hpl : blk.placed = true)
    (he : s.dev.placeCheck u x blk ⟨0, []⟩ = none) (hl : x.preLoops = []) (hk : s.dev.freePlane x.grid = some k)
    (hno : ∀ p ∈ (s.dev.grid x.grid).planes, p.2.placement ≠ s.dev.nextId) :
    exec .instancePlace s = .next { s with
      dev := (s.dev.newId.2.modGrid x.grid (fun gr => { gr with planes := gr.planes.set k (x.newPlane blk s.dev.nextId) })).enter
        s.dev.arg.a x u blk k s.dev.nextId } := by
  have hfind : (s.dev.grid x.grid).planes.find? (fun p => p.2.placement == s.dev.nextId) = none :=
    List.find?_eq_none.2 fun p hp => by simpa using hno p hp
  simp only [exec, execInstancePlace, runR_eq, State.toW, hx, hu, hb, hpl, he, hst, hs, hl, hk, Dev.newId, hfind, ne_eq,
    not_true_eq_false, Bool.false_eq_true, or_self, if_true, if_false]
  rfl
end

/-! ### Tokens -/

theorem exec_tokenDelivery {s : State} {f : Flight} {x : Inst} (hf : s.dev.flight[s.dev.arg.a]? = some f)
    (hx : s.dev.inst f.iid = some x) : exec .tokenDelivery s = .next { s with
      dev := (if s.dev.stopped x.grid then s.dev else { s.dev with flight := s.dev.flight.eraseIdx s.dev.arg.a }.receive f) } := by
  simp only [exec, execTokenDelivery, runD_eq, hf, hx]

section
variable {d : Dev} {f : Flight} {x : Inst} {u : Thread} {blk : Block} (hx : d.inst f.iid = some x) (hb : x.code = some blk)
  (hu : d.thr x.thr = some u) (hst : x.st = .firing ∨ x.st = .complete)
include hx hb hu hst

/-- A token that is not for a write entry nor for the next instance reaches its operand. -/
theorem Dev.receive_operand (h2 : tgtKind f.tgt ≠ 2) (h3 : tgtKind f.tgt = 3 → f.src = none) : d.receive f =
    if tgtKind f.tgt = 1 ∧ blk.carried (tgtIdx f.tgt) (tgtOp f.tgt) = true ∧ x.iter ≠ 0 then d
    else if (x.operand (tgtIdx f.tgt) (tgtOp f.tgt)).isSome then d.conflict f.iid 3 (tgtIdx f.tgt) (tgtOp f.tgt)
    else d.setInst f.iid { x with operands := (tgtIdx f.tgt, tgtOp f.tgt, f.tok) :: x.operands } := by
  have h3' : ¬(tgtKind f.tgt = 3 ∧ f.src.isSome = true) := fun ⟨hk, hs⟩ => by simp [h3 hk] at hs
  unfold Dev.receive
  simp only [hx, hb, hu, h2, h3', if_false]
  rw [if_neg (by rcases hst with h | h <;> simp [h])]

theorem Dev.receive_write (h2 : tgtKind f.tgt = 2) : d.receive f =
    let e := (f.tgt.extractLsb' 0 5).toNat
    if (x.wr.look e).isSome then d.conflict f.iid 0 e 0 else (d.setInst f.iid { x with wr := x.wr.set e f.tok }).injectAll x.thr := by
  have he : bits f.tgt 4 0 = (f.tgt.extractLsb' 0 5).toNat := bits_eq_toNat ..
  unfold Dev.receive
  simp only [hx, hb, hu, h2, he, if_true]
  rw [if_neg (by rcases hst with h | h <;> simp [h])]

theorem Dev.receive_next (h3 : tgtKind f.tgt = 3) (hs : f.src ≠ none) : ∃ tok : FarTok, d.receive f =
      { d with retained := d.retained ++ [tok] }.modGrid x.grid (fun gr => { gr with overflow := gr.overflow ++ [tok] }) ∧
    tok.tgt = f.tgt ∧ tok.tok = f.tok ∧ tok.producer = some f.iid ∧ tok.placement = some x.placement ∧ tok.grid = x.grid := by
  have hs' : f.src.isSome = true := Option.isSome_iff_ne_none.2 hs
  unfold Dev.receive
  simp only [hx, hb, hu, h3, hs']
  rw [if_neg (by rcases hst with h | h <;> simp [h])]
  exact ⟨_, rfl, rfl, rfl, rfl, rfl, rfl⟩
end

theorem isort_pairwise {α : Type} (key : α → Nat) (l : List α) :
    (l.isort (fun a b => decide (key a ≤ key b))).Pairwise (fun a b => key a ≤ key b) := by
  rw [isort_eq]
  have : Std.Total (fun a b : α => decide (key a ≤ key b) = true) := ⟨fun a b => by simpa using Nat.le_total _ _⟩
  have : IsTrans α (fun a b => decide (key a ≤ key b) = true) := ⟨fun a b c => by simpa using Nat.le_trans⟩
  exact (List.pairwise_insertionSort _ _).imp of_decide_eq_true
theorem mem_isort {α : Type} {le : α → α → Bool} {l : List α} {a : α} : a ∈ l.isort le ↔ a ∈ l := by
  rw [isort_eq, List.mem_insertionSort]

/-- The token reinjected has the lowest tag of those that an instance waits for (R47). -/
theorem Dev.reinjectable_lowest {d : Dev} {g : Nat} {f : FarTok} {iid : Nat} (h : d.reinjectable g = some (f, iid)) :
    ∀ q ∈ (d.grid g).overflow, (∃ p ∈ d.insts, q.isFor (d.ctxOf p.2) p.2 = true ∧ p.2.st = .firing) → f.tag.toNat ≤ q.tag.toNat := by
  rintro q hq ⟨p, hp, hfor, hfiring⟩
  unfold Dev.reinjectable at h
  obtain ⟨pre, y, post, hl, hy, hpre⟩ := List.findSome?_eq_some_iff.1 h
  have hfy : f = y := by
    obtain ⟨z, -, hz⟩ := Option.map_eq_some_iff.1 hy
    exact (congrArg Prod.fst hz).symm
  subst hfy
  have hsorted := hl ▸ isort_pairwise (fun q : FarTok => q.tag.toNat) (d.grid g).overflow
  have hmem : q ∈ pre ++ f :: post := hl ▸ mem_isort.2 hq
  rcases List.mem_append.1 hmem with hin | hin
  · have := hpre q hin
    rw [Option.map_eq_none_iff, List.find?_eq_none] at this
    exact absurd (this p hp) (by simp [hfor, hfiring])
  · rcases List.mem_cons.1 hin with rfl | hin
    · exact le_rfl
    · exact (List.pairwise_cons.1 (List.pairwise_append.1 hsorted).2.1).1 q hin

/-- The state once the token is taken from its grid, and, where it is a completion, bound to the placement. -/
def Dev.reinjected (d : Dev) (g : Nat) (f : FarTok) (x : Inst) : Dev :=
  { d.modGrid g (fun gr => { gr with overflow := gr.overflow.erase f }) with
    retained := match f.placement with
      | some _ => d.retained
      | none => d.retained.map (fun q => if q == f then { f with bound := some x.placement } else q) }

theorem exec_overflowReinject {s : State} {f : FarTok} {iid : Nat} {x : Inst} (hr : s.dev.reinjectable s.dev.arg.a = some (f, iid))
    (hx : s.dev.inst iid = some x) (hacq : f.acq = none) : exec .overflowReinject s = .next { s with
      dev := (if s.dev.stopped s.dev.arg.a then s.dev else
        (s.dev.reinjected s.dev.arg.a f x).receive { iid := iid, src := none, tgt := f.tgt, tok := f.tok }) } := by
  have hx' : (s.dev.modGrid s.dev.arg.a (fun gr => { gr with overflow := gr.overflow.erase f })).inst iid = some x := hx
  refine congrArg (fun d => Host.Outcome.next { s with dev := d }) ?_
  simp only [State.toW, hr, hx', hacq]
  split
  · rfl
  · cases hp : f.placement with
    | none =>
      simp only [Dev.reinjected, hp, hacq]
      split
      · contradiction
      · rfl
    | some p =>
      simp only [Dev.reinjected, hp]
      split
      · contradiction
      · rfl

theorem exec_overflowReinject_stopped {s : State} (h : s.dev.stopped s.dev.arg.a = true) : exec .overflowReinject s = .next s := by
  simp only [exec, execOverflowReinject, runR_eq, State.toW, h, if_true]
  split <;> rfl

/-! ### Exits, the watchdog, the times of a slot -/

theorem exec_exitMispredict {s : State} {x : Inst} {e : ExitFired} (hx : s.dev.inst s.dev.arg.a = some x) (he : x.exit = some e) :
    ∃ d : Dev, exec .exitMispredict s = .next { s with dev := (if x.mispredicted then d else s.dev) } ∧
      d.insts = ((s.dev.flushFrom x.thr (x.seq + 1)).followExit s.dev.arg.a e).insts ∧
      d.threads = ((s.dev.flushFrom x.thr (x.seq + 1)).followExit s.dev.arg.a e).threads := by
  simp only [exec, execExitMispredict, runD_eq, hx, he]
  refine ⟨_, rfl, ?_, ?_⟩
  · split <;> rfl
  · split <;> rfl

theorem exec_watchdogExpiry {s : State} {x : Inst} {blk : Block} (hx : s.dev.inst s.dev.arg.a = some x) (hb : x.code = some blk) :
    exec .watchdogExpiry s = .next { s with dev := (
      if x.st = .firing ∧ x.wdog ≤ s.dev.cycle - x.since ∧ x.running = false ∧ s.dev.stopped x.grid = false ∧ x.pend.isNone = true ∧
          (x.complete && x.msteps.all (fun m => m.st == .done)) = false then
        Dev.hold { s.dev with life := { s.dev.life with watchdog := s.dev.life.watchdog + 1 } } s.dev.arg.a {
          cause := .blockIncomplete, w3 := BitVec.ofNat 64 (x.missingWrites blk)
          w4 := BitVec.ofNat 64 (x.missingLsids blk + if x.exit.isNone then 2 ^ 32 else 0) }
      else s.dev) } := by
  simp only [exec, execWatchdogExpiry, runD_eq, hx, hb]

theorem exec_slotWaitEntry {s : State} {u : Thread} {q : Wait} {x : Inst} (hu : s.dev.thr s.dev.arg.a = some u)
    (hq : s.dev.oldestWait s.dev.arg.a = some q) (hx : s.dev.inst q.iid = some x) : exec .slotWaitEntry s = .next { s with dev := (
      if u.st = .run ∧ q.since + 1024 ≤ s.dev.cycle then
        ((s.dev.flushFrom s.dev.arg.a (x.seq + 1)).modThr s.dev.arg.a (fun t => { t with st := .wait, stSince := s.dev.cycle })).gcThread
          s.dev.arg.a
      else s.dev) } := by
  simp only [exec, execSlotWaitEntry, runD_eq, hu, hq, hx]

theorem Dev.modThr_of_some {d : Dev} {t : Nat} {u : Thread} (hu : d.thr t = some u) (f : Thread → Thread) :
    d.modThr t f = { d with threads := d.threads.set t (f u) } := by
  unfold Dev.modThr
  rw [hu]
  rfl

/-- Settles O21: each event by the equation of its agent; what a flush leaves is the flush layer's. -/
theorem instancesAndSlots : Obligations.InstancesAndSlots := by
  unfold Obligations.InstancesAndSlots
  intro s
  dsimp only
  refine ⟨fun x u blk hx hu hb => ⟨exec_instancePlace_stays hx hu hb, ?_, ?_⟩, ?_, ?_, ?_, ?_, ?_, ?_, ?_, ?_⟩
  · intro e hst hs hpl hp he
    exact ⟨_, exec_instancePlace_faults hx hu hb hst hs hpl he, rfl, pending_of_hold hx hp _ _⟩
  · intro k hst hs hpl he hl hk hno
    have hexec := exec_instancePlace_enters hx hu hb hst hs hpl he hl hk hno
    obtain ⟨y, hy, h⟩ := Dev.enter_inst (s.dev.newId.2.modGrid x.grid fun gr => { gr with
      planes := gr.planes.set k (x.newPlane blk s.dev.nextId) }) s.dev.arg.a x u blk k s.dev.nextId
    refine ⟨_, y, { x.newPlane blk s.dev.nextId with firingAt := some s.dev.cycle }, hexec, rfl, hy, h.st, h.plane, h.code, h.thr, h.seq,
      h.blk, h.since, h.wdog, h.fired, h.effs, fun j hj => Dev.enter_inst_ne _ _ _ _ _ _ hj, ?_, rfl, rfl, rfl⟩
    rw [Dev.enter_grid]
    refine Grid.entered_plane _ ?_ rfl rfl
    rw [Dev.grid_modGrid]
    exact Tbl.look_set_self ..
  · intro f x blk u hf hx hb hu
    have hexec := exec_tokenDelivery hf hx
    refine ⟨fun hs => by rw [hexec, if_pos hs], fun hs hst => ?_⟩
    rw [if_neg (Bool.not_eq_true _ ▸ hs)] at hexec
    have hx0 : Dev.inst { s.dev with flight := s.dev.flight.eraseIdx s.dev.arg.a } f.iid = some x := hx
    have hoperand := Dev.receive_operand hx0 hb hu hst
    refine ⟨fun h1 hns hop => ?_, fun h1 hsk => ?_, fun h1 hns hop hp => ?_, ⟨fun h2 hop => ?_, fun h2 hop hp => ?_⟩, fun h3 hsrc => ?_⟩
    · rw [hexec, hoperand (by omega) (by omega), if_neg fun h => hns h.2, if_neg (by simp [hop])]
      rfl
    · rw [hexec, hoperand (by omega) (by omega), if_pos ⟨h1, hsk⟩]
    · rw [hoperand (by omega) (by omega), if_neg fun h => hns h.2, if_pos (Option.isSome_iff_ne_none.2 hop)] at hexec
      exact ⟨_, hexec, rfl, pending_of_hold hx0 hp _ _⟩
    · rw [Dev.receive_write hx0 hb hu hst h2] at hexec
      dsimp only at hexec
      rw [hop, Option.isSome_none, if_neg Bool.false_ne_true] at hexec
      have hinj := Dev.Injects.injectAll (Dev.setInst { s.dev with flight := s.dev.flight.eraseIdx s.dev.arg.a } f.iid
        { x with wr := x.wr.set (f.tgt.extractLsb' 0 5).toNat f.tok }) x.thr
      obtain ⟨y, hy, hk⟩ := hinj.inst_some (Dev.inst_setInst ..)
      exact ⟨_, y, hexec, rfl, hy, (congrArg Inst.wr hk :), (congrArg Inst.fired hk :), (congrArg Inst.operands hk :),
        (congrArg Inst.st hk :), hinj.threads⟩
    · rw [Dev.receive_write hx0 hb hu hst h2] at hexec
      dsimp only at hexec
      rw [if_pos (Option.isSome_iff_ne_none.2 hop)] at hexec
      refine ⟨_, hexec, rfl, ?_⟩
      have hw3 : 0 + (f.tgt.extractLsb' 0 5).toNat * 2 ^ 8 + 0 * 2 ^ 16 = (f.tgt.extractLsb' 0 5).toNat * 2 ^ 8 := by omega
      exact hw3 ▸ pending_of_hold hx0 hp { cause := .exitConflict, w3 := BitVec.ofNat 64 _ } none
    · obtain ⟨tok, heq, htok⟩ := Dev.receive_next hx0 hb hu hst h3 hsrc
      rw [heq] at hexec
      exact ⟨_, tok, hexec, rfl, rfl, rfl, rfl, htok⟩
  · intro f iid x blk u hr hx hb hu
    refine ⟨Dev.reinjectable_lowest hr, exec_overflowReinject_stopped, fun hs hacq hst hk hop => ?_⟩
    have hexec := exec_overflowReinject hr hx hacq
    have hx0 : (s.dev.reinjected s.dev.arg.a f x).inst iid = some x := hx
    have hrec := Dev.receive_operand (f := { iid := iid, src := none, tgt := f.tgt, tok := f.tok }) hx0 hb hu hst (by dsimp only; omega)
      fun _ => rfl
    rw [if_neg (Bool.not_eq_true _ ▸ hs), hrec, if_neg ?_, if_neg (by simp [hop])] at hexec
    refine ⟨_, hexec, rfl, rfl, rfl, ?_, rfl⟩
    · exact congrArg Grid.overflow (Dev.grid_modGrid s.dev s.dev.arg.a fun gr => { gr with overflow := gr.overflow.erase f })
    · rintro ⟨h1, hc, -⟩
      rcases hk with h3 | ⟨-, hno⟩
      · exact absurd (h1.symm.trans h3) (by decide)
      · exact absurd hc (Bool.not_eq_true _ ▸ hno)
  · intro x e hx he
    obtain ⟨d, hexec, hinsts, hthreads⟩ := exec_exitMispredict hx he
    refine ⟨fun hm => by rw [hexec, hm]; rfl, fun hm => ?_⟩
    rw [if_pos hm] at hexec
    have hkeep : (s.dev.flushFrom x.thr (x.seq + 1)).inst s.dev.arg.a = some x :=
      (Dev.flushFrom_inst fun z hz _ => by rw [hx] at hz; cases hz; exact Nat.lt_succ_self _).trans hx
    have hfol := Dev.followExit_followed hkeep e
    have hinst : ∀ j, d.inst j = ((s.dev.flushFrom x.thr (x.seq + 1)).followExit s.dev.arg.a e).inst j := fun j => by
      rw [Dev.inst, hinsts, Dev.inst]
    refine ⟨_, _, hexec, rfl, (hinst _).trans hfol.inst, rfl, he, rfl, fun j z hj hz hthr hseq => ?_, fun u hu hne hne' => ?_⟩
    · exact Dev.gone_flushFrom s.dev x.thr (x.seq + 1) j z ((hfol.inst_ne j hj).symm.trans ((hinst j).symm.trans hz)) hthr hseq
    · obtain ⟨v, hv, -⟩ := (Dev.Flushes.flushFrom s.dev x.thr (x.seq + 1)).thr_some hu
      obtain ⟨v', hv', hnext⟩ := hfol.next v hv
      rw [if_neg (by simp [hne, hne'])] at hnext
      refine ⟨v', ?_, hnext⟩
      change d.thr x.thr = some v'
      rw [Dev.thr, hthreads]
      exact hv'
  · intro x blk hx hb
    have hexec := exec_watchdogExpiry hx hb
    refine ⟨fun hlt => ?_, fun hst hw hrun hs hp hdone => ?_⟩
    · rw [hexec, if_neg fun h => absurd h.2.1 (Nat.not_le.2 hlt)]
    · rw [if_pos ⟨hst, hw, hrun, hs, by simp [hp], Bool.eq_false_of_not_eq_true hdone⟩] at hexec
      refine ⟨_, hexec, rfl, ?_, ?_⟩
      · exact congrArg Life.watchdog (Dev.Flushes.hold ..).life
      · have hpend := pending_of_hold (s := s) (d := { s.dev with life := { s.dev.life with watchdog := s.dev.life.watchdog + 1 } }) hx hp
          { cause := .blockIncomplete, w3 := BitVec.ofNat 64 (x.missingWrites blk)
            w4 := BitVec.ofNat 64 (x.missingLsids blk + if x.exit.isNone then 2 ^ 32 else 0) } none
        simpa only [Option.isNone_iff_eq_none] using hpend
  · exact ⟨_, rfl, rfl, rfl, fun g hg => Dev.grid_modGrid_ne _ _ hg, Dev.grid_modGrid ..⟩
  · intro u q x hu hrun hq hx
    have hexec := exec_slotWaitEntry hu hq hx
    refine ⟨fun hlt => by rw [hexec, if_neg fun h => absurd h.2 (Nat.not_le.2 hlt)], fun hle => ?_⟩
    rw [if_pos ⟨hrun, hle⟩] at hexec
    obtain ⟨v, hv, hk⟩ := (Dev.Flushes.flushFrom s.dev s.dev.arg.a (x.seq + 1)).thr_some hu
    obtain ⟨w, hw, hwk⟩ := (Dev.Flushes.gcThread ((s.dev.flushFrom s.dev.arg.a (x.seq + 1)).modThr s.dev.arg.a fun t =>
      { t with st := .wait, stSince := s.dev.cycle }) s.dev.arg.a).thr_some (n := s.dev.arg.a) (by rw [Dev.thr_modThr, hv]; rfl)
    refine ⟨_, w, hexec, rfl, hw, (congrArg Thread.st hwk :), (congrArg Thread.stSince hwk :),
      (congrArg Thread.regs hwk :).trans (congrArg Thread.regs hk :), fun j z hz hthr hseq => ?_⟩
    refine Dev.gone_flushFrom s.dev s.dev.arg.a (x.seq + 1) j z ?_ hthr hseq
    simpa [Dev.inst] using hz
  · intro u hu
    simp only [exec, execSlotRetention, runD_eq, Dev.modThr_of_some hu]
  · refine ⟨_, rfl, rfl, rfl, List.length_map .., fun q hq => ⟨fun n x hi hidx hlim hdue hx hs => ?_, fun hno => ?_⟩⟩
    · refine List.mem_map.2 ⟨q, hq, ?_⟩
      simp [hi, hidx, hlim, hdue, hi ▸ hx, hs]
    · refine List.mem_map.2 ⟨q, hq, ?_⟩
      rcases hno with h | h | h
      · simp [h]
      · simp [h]
      · simp [h]

end Sys2Proof.Machine
end

section
/-!
PROOFS, 02 blocks and threads: what settling buffers leaves, and what a stop leaves.
-/

namespace Sys2Proof.Machine

/-! ### What settling the buffers of threads leaves (08 R240, 09 R268) -/

/-- A thread but for its streams. -/
def Thread.noStreams (u : Thread) : Thread := { u with streams := [] }

/-- Buffers have been written back and pages asked for: instances are the same, threads but for their streams, contexts but for their
maps. -/
structure Dev.Settles (d d' : Dev) : Prop where
  insts : d'.insts = d.insts
  thr : ∀ n, (d'.thr n).map Thread.noStreams = (d.thr n).map Thread.noStreams
  ctx : ∀ c, (d.ctx c).SameButMaps (d'.ctx c)

namespace Dev.Settles

theorem refl (d : Dev) : d.Settles d := ⟨rfl, fun _ => rfl, fun _ => .refl _⟩
theorem trans {a b c : Dev} (h : a.Settles b) (h' : b.Settles c) : a.Settles c :=
  ⟨h'.insts.trans h.insts, fun n => (h'.thr n).trans (h.thr n), fun k => (h.ctx k).trans (h'.ctx k)⟩
theorem of_moves {d d' : Dev} (h : d.Moves d') : d.Settles d' := ⟨h.insts, fun n => by rw [h.thr], h.ctx⟩
theorem of_eq {d d' : Dev} (hi : d'.insts = d.insts) (ht : d'.threads = d.threads) (hc : d'.ctxs = d.ctxs) : d.Settles d' :=
  ⟨hi, fun n => by rw [Dev.thr, Dev.thr, ht], fun c => by rw [Dev.ctx, Dev.ctx, hc]; exact .refl _⟩
theorem modThr (d : Dev) (t : Nat) {f : Thread → Thread} (hf : ∀ u, (f u).noStreams = u.noStreams) : d.Settles (d.modThr t f) := by
  refine ⟨Dev.insts_modThr .., fun n => Dev.map_thr_modThr d t n Thread.noStreams hf, fun c => ?_⟩
  rw [Dev.ctx, Dev.ctx, Dev.modThr_ctxs]
  exact .refl _
theorem modStream (d : Dev) (t s : Nat) (f : Stream → Stream) : d.Settles (d.modStream t s f) := .modThr _ _ fun _ => rfl
theorem foldl {α : Type} {f : W → α → W} (h : ∀ (w : W) (a : α), w.d.Settles (f w a).d) (l : List α) (w : W) :
    w.d.Settles (l.foldl f w).d :=
  List.foldlRecOn l f (motive := fun e : W => w.d.Settles e.d) (.refl _) fun _ hb a _ => hb.trans (h _ a)
theorem ite {p : Prop} [Decidable p] {d : Dev} {a b : W} (ha : d.Settles a.d) (hb : d.Settles b.d) : d.Settles (if p then a else b).d := by
  split
  · exact ha
  · exact hb
theorem thr_some {d d' : Dev} (h : d.Settles d') {n : Nat} {u : Thread} (hu : d.thr n = some u) :
    ∃ v, d'.thr n = some v ∧ v.noStreams = u.noStreams := by
  have hn := h.thr n
  rw [hu] at hn
  exact Option.map_eq_some_iff.1 hn

theorem raisePage (w : W) (c x how origin : Nat) (who : Option Requester) : w.d.Settles (w.raisePage c x how origin who).2 := by
  unfold W.raisePage
  dsimp only
  split
  · exact .of_eq rfl rfl rfl
  · split
    · exact .refl _
    · split
      · exact .of_eq rfl rfl rfl
      · exact .of_eq rfl rfl rfl

theorem flushBytes (w : W) (t s : Nat) (pick : Host.Cell → Bool) : w.d.Settles (w.flushBytes t s pick).d := by
  unfold W.flushBytes
  split
  next => exact .refl _
  next u _ =>
    have hrels := of_moves (W.Moves.performRelsOf w t).dev
    refine .ite hrels ?_
    generalize w.performRelsOf t = w1 at hrels ⊢
    have hwrite : ∀ (cs : List Host.Cell) (gs : List Nat) (f : Stream → Stream),
        w1.d.Settles ((((w1.loggedWrite u.ctx (w1.d.rnumOf u) u.commitSeq u.who cs).d.patchLines gs cs).modStream t s f)) :=
      fun cs gs f => ((of_moves (W.Moves.loggedWrite ..).dev).trans (of_moves (.patchLines ..))).trans (.modStream ..)
    dsimp only
    split
    · dsimp only
      exact hrels.trans (hwrite _ _ _)
    · split
      · dsimp only
        exact hrels.trans (hwrite _ _ _)
      · dsimp only
        refine .trans ?_ (.raisePage ..)
        dsimp only
        exact hrels.trans (hwrite _ _ _)

theorem flushPicked (w : W) (t : Nat) (pick : Host.Cell → Bool) : w.d.Settles (w.flushPicked t pick).d := by
  unfold W.flushPicked
  split
  · exact .refl _
  · refine .foldl (fun w p => ?_) _ w
    exact .ite (.flushBytes ..) (.refl _)

theorem releaseNow (w : W) (t c scope : Nat) (gs : List Nat) : w.d.Settles (w.releaseNow t c scope gs).d := by
  unfold W.releaseNow
  have hflush : w.d.Settles (if 2 ≤ scope then w.flushStreams t else w).d := .ite (.flushPicked ..) (.refl _)
  refine hflush.trans (of_moves ?_)
  exact (((W.Moves.performRelsOf _ t).trans (.foldl (fun w g => .performRels w g) gs _)).trans (.releaseStep ..)).dev

theorem boundary (w : W) (t : Nat) (old new : List Nat) : w.d.Settles (w.boundary t old new).d := by
  unfold W.boundary
  split
  · exact .refl _
  · exact (releaseNow ..).trans (of_moves (W.Moves.acquireBy ..).dev)

end Dev.Settles

/-! ### What a stop leaves (19 R492, R493) -/

/-- Grids and threads may have been stopped: a grid that stands goes on standing. -/
structure Dev.Stops (d d' : Dev) : Prop where
  rest : ∃ grids threads, d' = { d with grids := grids, threads := threads }
  thr : ∀ n, d'.thr n = d.thr n ∨ d'.thr n = (d.thr n).map Thread.stop
  stopped : ∀ g, d.stopped g = true → d'.stopped g = true

theorem Thread.stop_stop (u : Thread) : u.stop.stop = u.stop := by
  unfold Thread.stop
  by_cases h : u.st = .stopped
  · rw [if_pos h, if_pos h]
  · rw [if_neg h, if_pos rfl]
theorem Thread.stop_of_stopped {u : Thread} (h : u.st = .stopped) : u.stop = u := if_pos h

namespace Dev.Stops

theorem refl (d : Dev) : d.Stops d := ⟨⟨_, _, rfl⟩, fun _ => .inl rfl, fun _ h => h⟩
theorem trans {a b c : Dev} (h : a.Stops b) (h' : b.Stops c) : a.Stops c := by
  refine ⟨?_, fun n => ?_, fun g hg => h'.stopped g (h.stopped g hg)⟩
  · obtain ⟨_, _, rfl⟩ := h.rest
    obtain ⟨_, _, rfl⟩ := h'.rest
    exact ⟨_, _, rfl⟩
  · rcases h.thr n with h1 | h1
    · exact h1 ▸ h'.thr n
    · rcases h'.thr n with h2 | h2
      · exact .inr (h2.trans h1)
      · refine .inr (h2.trans ?_)
        rw [h1, Option.map_map]
        exact congrArg (Option.map · _) (funext Thread.stop_stop)
theorem foldl {α : Type} {f : Dev → α → Dev} (h : ∀ (d : Dev) (a : α), d.Stops (f d a)) (l : List α) (d : Dev) : d.Stops (l.foldl f d) :=
  List.foldlRecOn l f (motive := d.Stops) (.refl d) fun _ hb a _ => hb.trans (h _ a)

section
variable {d d' : Dev} (h : d.Stops d')
include h
theorem insts : d'.insts = d.insts := by obtain ⟨_, _, rfl⟩ := h.rest; rfl
theorem ctxs : d'.ctxs = d.ctxs := by obtain ⟨_, _, rfl⟩ := h.rest; rfl
theorem fields : d'.fields = d.fields := by obtain ⟨_, _, rfl⟩ := h.rest; rfl
theorem life : d'.life = d.life := by obtain ⟨_, _, rfl⟩ := h.rest; rfl
/-- A thread that has stopped is left as it is. -/
theorem thr_stopped {n : Nat} {u : Thread} (hu : d.thr n = some u) (hst : u.st = .stopped) : d'.thr n = some u := by
  rcases h.thr n with h1 | h1
  · rw [h1, hu]
  · rw [h1, hu, Option.map_some, Thread.stop_of_stopped hst]
end

theorem modGrid (d : Dev) (g : Nat) {f : Grid → Grid} (hf : ∀ x : Grid, x.stopAt.isSome = true → (f x).stopAt.isSome = true) :
    d.Stops (d.modGrid g f) := by
  refine ⟨⟨_, _, rfl⟩, fun n => .inl rfl, fun n hn => ?_⟩
  by_cases h : n = g
  · subst h
    rw [Dev.stopped, Dev.grid_modGrid]
    exact hf _ hn
  · rw [Dev.stopped, Dev.grid_modGrid_ne _ _ h]
    exact hn
theorem gcPlanes (d : Dev) (g : Nat) : d.Stops (d.gcPlanes g) := by
  unfold Dev.gcPlanes
  exact modGrid _ _ fun _ h => h
theorem gcThread (d : Dev) (t : Nat) : d.Stops (d.gcThread t) := by
  unfold Dev.gcThread
  split
  · exact .foldl (fun d _ => .gcPlanes d _) _ _
  · exact .refl _
theorem stopThread (d : Dev) (t : Nat) : d.Stops (d.modThr t Thread.stop) := by
  refine ⟨?_, fun n => ?_, fun g hg => ?_⟩
  · unfold Dev.modThr
    split
    · exact ⟨_, _, rfl⟩
    · exact ⟨_, _, rfl⟩
  · by_cases h : n = t
    · subst h
      exact .inr (Dev.thr_modThr ..)
    · exact .inl (Dev.thr_modThr_ne _ _ h)
  · rw [Dev.stopped, Dev.grid, Dev.modThr_grids]
    exact hg
theorem stopGrid (d : Dev) (g : Nat) (gang : Bool) : d.Stops (d.stopGrid g gang) := by
  unfold Dev.stopGrid
  split
  · exact modGrid _ _ fun _ h => h
  · refine (modGrid d g ?_).trans (.foldl (fun d t => (stopThread d t).trans (.gcThread ..)) _ _)
    exact fun _ _ => rfl

end Dev.Stops

theorem Dev.stopped_stopGrid (d : Dev) (g : Nat) (gang : Bool) : (d.stopGrid g gang).stopped g = true := by
  unfold Dev.stopGrid
  split
  next h =>
    refine (Dev.Stops.modGrid d g ?_).stopped g h
    exact fun _ h => h
  next =>
    refine (Dev.Stops.foldl (fun d t => (Dev.Stops.stopThread d t).trans (.gcThread ..)) _ _).stopped g ?_
    rw [Dev.stopped, Dev.grid_modGrid]
    rfl

/-- The gang stop of a context stops every grid of its parcel; of the contexts it changes the cut records alone. -/
theorem Dev.gangStop_spec (d : Dev) (c : Nat) : ∃ (e : Dev) (cuts : List (Nat × List Nat)), d.Stops e ∧
    d.gangStop c = e.modCtx c (fun k => { k with cuts := cuts }) ∧ ∀ g ∈ (d.ctx c).parcel, e.stopped g = true := by
  refine ⟨_, _, .foldl (fun d g => .stopGrid d g true) (d.ctx c).parcel d, rfl, fun g hg => ?_⟩
  have hfold : ∀ (l : List Nat) (e : Dev), g ∈ l → (l.foldl (fun d g => d.stopGrid g true) e).stopped g = true := by
    intro l
    induction l with
    | nil => exact fun e h => nomatch h
    | cons q r ih =>
      intro e h
      rcases List.mem_cons.1 h with rfl | h
      · exact (Dev.Stops.foldl (fun d g => .stopGrid d g true) r _).stopped g (e.stopped_stopGrid g true)
      · exact ih _ h
  exact hfold _ d hg

end Sys2Proof.Machine
end

section
/-!
PROOFS, 02 blocks and threads: heat, field current and power.
-/

namespace Sys2Proof.Machine
open Claims

/-! ### Heat (02 R51, 13 R376) -/

theorem Grid.hotSlot_highest {g : Grid} {k : Nat} (h : g.hotSlot = some k) : (g.slots.get k {}).disabled = false ∧
    ∀ j < 8, k < j → (g.slots.get j {}).thr = none ∨ (g.slots.get j {}).disabled = true := by
  unfold Grid.hotSlot at h
  obtain ⟨hk, pre, post, hl, hpre⟩ := List.find?_eq_some_iff_append.1 h
  refine ⟨by simpa using (Bool.and_eq_true_iff.1 hk).2, fun j hj hlt => ?_⟩
  have hdown : (pre ++ k :: post).Pairwise (fun a b => b < a) := hl ▸ List.pairwise_reverse.2 List.pairwise_lt_range
  have hmem : j ∈ pre ++ k :: post := hl ▸ List.mem_reverse.2 (List.mem_range.2 hj)
  have hin : j ∈ pre := by
    rcases List.mem_append.1 hmem with h1 | h1
    · exact h1
    · rcases List.mem_cons.1 h1 with rfl | h1
      · omega
      · have := (List.pairwise_cons.1 (List.pairwise_append.1 hdown).2.1).1 j h1
        omega
  have hno := hpre j hin
  cases ht : (g.slots.get j {}).thr with
  | none => exact .inl rfl
  | some t => exact .inr (by simpa [ht] using hno)

theorem W.displace_boundary {w : W} {t target : Nat} {u : Thread} (hu : w.d.thr t = some u) (hs : w.d.slotDisabled u = true)
    (hb : w.d.atBoundary t u = false) : w.displace t target = w := by
  unfold W.displace
  simp only [hu, hs, hb, Bool.not_true, Bool.false_eq_true, if_false, Bool.not_false, if_true]

/-- A slot of a grid disabled. -/
def Dev.disableSlot (d : Dev) (g k : Nat) : Dev :=
  d.modGrid g fun gr => { gr with slots := gr.slots.set k { (d.grid g).slots.get k {} with disabled := true } }

theorem Dev.disableSlot_slot (d : Dev) (g k j : Nat) : ((d.disableSlot g k).grid g).slots.get j {} =
    if j = k then { (d.grid g).slots.get k {} with disabled := true } else (d.grid g).slots.get j {} := by
  rw [Dev.disableSlot, Dev.grid_modGrid]
  split
  next h => rw [h, Tbl.get_set_self]
  next h => rw [Tbl.get_set_ne _ _ _ h]

theorem exec_thermalSlotDisable {s : State} {k tid : Nat} {u : Thread} (hhot : (s.dev.grid s.dev.arg.a).hot = true)
    (hk : (s.dev.grid s.dev.arg.a).hotSlot = some k) (ht : ((s.dev.grid s.dev.arg.a).slots.get k {}).thr = some tid)
    (hu : s.dev.thr tid = some u) (hmem : (s.dev.arg.a, k) ∈ u.slots) (hb : s.dev.atBoundary tid u = false) :
    exec .thermalSlotDisable s = .next { s with dev := s.dev.disableSlot s.dev.arg.a k } := by
  have hs : (s.dev.disableSlot s.dev.arg.a k).slotDisabled u = true := by
    refine List.any_eq_true.2 ⟨(s.dev.arg.a, k), hmem, ?_⟩
    rw [Dev.disableSlot_slot, if_pos rfl]
  have hdis := W.displace_boundary (w := { s.toW with d := s.dev.disableSlot s.dev.arg.a k }) (target := s.dev.arg.b) hu hs hb
  simp only [exec, execThermalSlotDisable, run_eq, State.toW, hhot, hk]
  split
  next t h =>
    obtain rfl : tid = t := Option.some.inj (ht.symm.trans h)
    exact congrArg (fun w : W => (.next { s with dev := w.d, mem := s.mem.writeAll w.ov.reverse } : Host.Outcome State Fault Refusal)) hdis
  next h => rw [ht] at h; cases h

/-- Slot `k` is the lowest disabled one of a grid. -/
theorem find?_disabled {slots : Tbl Slot} {k : Nat} (hk : k < 8) (hd : (slots.get k {}).disabled = true)
    (hlow : ∀ j < k, (slots.get j {}).disabled = false) :
    (List.range Config.slots).find? (fun k => (slots.get k {}).disabled) = some k :=
  List.find?_range_eq_some.2 ⟨hd, List.mem_range.2 hk, fun j hj => by simp [hlow j hj]⟩

theorem exec_displacedMove_stays {s : State} (h : s.toW.displace s.dev.arg.a s.dev.arg.b = s.toW) : exec .displacedMove s = .next s := by
  simp only [exec, execDisplacedMove, run_eq]
  exact congrArg (fun w : W => (.next { s with dev := w.d, mem := s.mem.writeAll w.ov.reverse } : Host.Outcome State Fault Refusal)) h

theorem Dev.instsOf_eq_nil {d : Dev} {t : Nat} (h : ∀ q ∈ d.insts, q.2.thr ≠ t) : d.instsOf t = [] :=
  List.eq_nil_iff_forall_not_mem.2 fun p hp =>
    let hq := Dev.mem_instsOf.1 hp
    h p hq.1 hq.2.1

theorem Dev.flushFrom_of_none {d : Dev} {t seq : Nat} (h : ∀ q ∈ d.insts, q.2.thr ≠ t) : d.flushFrom t seq = d := by
  unfold Dev.flushFrom
  rw [Dev.instsOf_eq_nil h]
  rfl

/-- A thread without instances, at a boundary, with a disabled slot: where it goes. -/
theorem W.displace_idle {w : W} {t target : Nat} {u : Thread} (hu : w.d.thr t = some u) (hs : w.d.slotDisabled u = true)
    (hb : w.d.atBoundary t u = true) (hi : ∀ q ∈ w.d.insts, q.2.thr ≠ t) : w.displace t target =
    match w.d.displaceSets t u, (if (w.d.bctl u.ctx).getLsbD 27 then (w.d.displaceSets t u).filter (fun p => p.1 + 1 == target)
        else w.d.displaceSets t u) with
    | [], _ => { w with d := w.d.modThr t (fun t => { t with st := .displaced, stSince := w.d.cycle }) }
    | _, [] => w
    | _, (first, slots) :: _ =>
      let w := w.boundary t u.grids (setGrids first u.width)
      { w with d := (w.d.moveThread t first u.width slots).modThr t (fun t => { t with st := .fetch, stSince := w.d.cycle }) } := by
  have hkept : w.d.committable t = [] := by rw [Dev.committable, Dev.instsOf_eq_nil hi]; rfl
  unfold W.displace
  simp only [hu, hs, hb, hkept, Dev.flushFrom_of_none hi, Bool.not_true, Bool.false_eq_true, if_false, List.isEmpty_nil] <;> rfl

theorem Dev.displaceSets_cool {d : Dev} {t : Nat} {u : Thread} {p : Nat × List (Nat × Nat)} (h : p ∈ d.displaceSets t u) :
    (∀ q ∈ setGrids p.1 u.width, (d.grid q).hot = false) ∧ u.tileLost (setGrids p.1 u.width) = none := by
  unfold Dev.displaceSets at h
  obtain ⟨f, hf, hq⟩ := List.mem_filterMap.1 h
  obtain ⟨l, -, rfl⟩ := Option.map_eq_some_iff.1 hq
  have hset := (List.mem_filter.1 (mem_isort.1 hf)).2
  simp only [Bool.and_eq_true, List.all_eq_true, Bool.not_eq_true', Option.isNone_iff_eq_none] at hset
  exact ⟨fun q hq => (hset.1 q hq).1, hset.2⟩

theorem Dev.threads_releaseSlots (d : Dev) (t : Nat) : (d.releaseSlots t).threads = d.threads := by
  unfold Dev.releaseSlots
  split
  · rfl
  · exact List.foldlRecOn _ _ (motive := fun e : Dev => e.threads = d.threads) rfl fun _ he _ _ => he

theorem Dev.moveThread_thr {d : Dev} {t : Nat} {u : Thread} (hu : d.thr t = some u) (first width : Nat) (slots : List (Nat × Nat)) :
    (d.moveThread t first width slots).thr t = some { u with first := first, width := width, slots := slots } := by
  unfold Dev.moveThread
  simp only [hu]
  have hthreads : ∀ (f : Dev → Nat × Nat → Grid → Grid),
      (slots.foldl (fun (d : Dev) s => d.modGrid s.1 (f d s)) (d.releaseSlots t)).threads = d.threads := fun f =>
    List.foldlRecOn slots _ (motive := fun e : Dev => e.threads = d.threads) (d.threads_releaseSlots t) fun _ he _ _ => he
  rw [Dev.thr_modThr, Dev.thr, hthreads]
  exact congrArg (Option.map _) hu

/-! ### The ranking (13 R376) -/

/-- The order of the ranking: by temperature, then by number. -/
theorem isort_lex_pairwise (temp : Nat → Nat) (l : List Nat) :
    (l.isort (fun a b => decide (temp a < temp b) || (temp a == temp b && decide (a ≤ b)))).Pairwise (fun a b => temp a ≤ temp b) := by
  rw [isort_eq]
  have : Std.Total (fun a b : Nat => (decide (temp a < temp b) || (temp a == temp b && decide (a ≤ b))) = true) :=
    ⟨fun a b => by simp only [Bool.or_eq_true, Bool.and_eq_true, decide_eq_true_eq, beq_iff_eq]; omega⟩
  have : IsTrans Nat (fun a b => (decide (temp a < temp b) || (temp a == temp b && decide (a ≤ b))) = true) :=
    ⟨fun a b c => by simp only [Bool.or_eq_true, Bool.and_eq_true, decide_eq_true_eq, beq_iff_eq]; omega⟩
  refine (List.pairwise_insertionSort _ _).imp fun h => ?_
  simp only [Bool.or_eq_true, Bool.and_eq_true, decide_eq_true_eq, beq_iff_eq] at h
  omega

/-- Temperatures noted one after another, grid by grid from a base. -/
theorem Dev.foldl_temp (base : Nat) (ns : List Nat) (n : Nat) (d : Dev) (g : Nat) :
    (((ns.zipIdx n).foldl (fun (d : Dev) p => d.modGrid (base + p.2) (fun g => { g with temp := p.1 })) d).grid g) =
      if base + n ≤ g ∧ g < base + n + ns.length then { d.grid g with temp := ns.getD (g - base - n) 0 } else d.grid g := by
  induction ns generalizing n d with
  | nil => rw [if_neg (by simp)]; rfl
  | cons t r ih =>
    rw [List.zipIdx_cons, List.foldl_cons, ih]
    by_cases hg : g = base + n
    · subst hg
      rw [if_neg (by omega), Dev.grid_modGrid, if_pos (by simp)]
      simp
    · rw [Dev.grid_modGrid_ne _ _ hg]
      by_cases hin : base + (n + 1) ≤ g ∧ g < base + (n + 1) + r.length
      · rw [if_pos hin, if_pos (by simp; omega), show g - base - n = g - base - (n + 1) + 1 by omega]
        rfl
      · rw [if_neg hin, if_neg (by simp; omega)]

theorem exec_thermalRankingRefresh (s : State) : ∃ d : Dev, exec .thermalRankingRefresh s = .next { s with
      dev := d.modField s.dev.arg.a fun x => { x with
        ranking := ((List.range 56).filter (fun o => !(d.grid (s.dev.arg.a * 56 + o)).hot)).isort (fun a b =>
          decide ((d.grid (s.dev.arg.a * 56 + a)).temp < (d.grid (s.dev.arg.a * 56 + b)).temp) ||
            ((d.grid (s.dev.arg.a * 56 + a)).temp == (d.grid (s.dev.arg.a * 56 + b)).temp && decide (a ≤ b))) } } ∧
    d.threads = s.dev.threads ∧
    (s.dev.arg.ns.length = 56 → ∀ o < 56, (d.grid (s.dev.arg.a * 56 + o)).temp = s.dev.arg.ns.getD o 0) ∧
    (s.dev.arg.ns.length ≠ 56 → d.grids = s.dev.grids) := by
  simp only [exec, execThermalRankingRefresh, runD_eq]
  refine ⟨_, rfl, ?_, fun h o ho => ?_, fun h => ?_⟩
  · split
    · exact List.foldlRecOn _ _ (motive := fun e : Dev => e.threads = s.dev.threads) rfl fun _ he _ _ => he
    · rfl
  · rw [if_pos (show s.dev.arg.ns.length = Config.gridsPerField from h), Dev.foldl_temp, if_pos ⟨by simp [Config.gridsPerField], by simp [Config.gridsPerField]; omega⟩]
    simp [Config.gridsPerField]
  · rw [if_neg (show ¬s.dev.arg.ns.length = Config.gridsPerField from h)]

/-! ### Field current and power (23 R513-R518) -/

theorem W.wrs_d (w : W) (cs : List Host.Cell) : (w.wrs cs).d = w.d :=
  List.foldlRecOn cs _ (motive := fun e : W => e.d = w.d) rfl fun _ he _ _ => he
theorem W.notify_d (w : W) (c state cause : Nat) : (w.notify c state cause).d = { w.d with notifyIdx := w.d.notifyIdx + 1 } := by
  unfold W.notify
  dsimp only
  rw [W.wrs_d]
theorem W.notify_ctx (w : W) (c state cause j : Nat) : (w.notify c state cause).d.ctx j = w.d.ctx j := by
  rw [W.notify_d]
  rfl

/-- A context that a trip faults: no other context, no field and no count changes. -/
theorem W.ctxFaulted_spec (w : W) (c : Nat) (cause : Cause) :
    ((w.ctxFaulted c cause).d.ctx c).st = .faulted ∧ (∀ j, j ≠ c → (w.ctxFaulted c cause).d.ctx j = w.d.ctx j) ∧
      (w.ctxFaulted c cause).d.fields = w.d.fields ∧ (w.ctxFaulted c cause).d.life = w.d.life := by
  obtain ⟨e, cuts, hstops, heq, -⟩ := Dev.gangStop_spec (w.d.modCtx c (fun k => { k with
    st := .faulted, frozenCause := BitVec.ofNat 8 (fcause cause), owes := none })) c
  unfold W.ctxFaulted
  dsimp only
  have hctx : ∀ j, e.ctx j = (w.d.modCtx c (fun k => { k with
      st := .faulted, frozenCause := BitVec.ofNat 8 (fcause cause), owes := none })).ctx j := fun j => by rw [Dev.ctx, hstops.ctxs]; rfl
  refine ⟨?_, fun j hj => ?_, ?_, ?_⟩
  · rw [W.notify_ctx, heq, Dev.ctx_modCtx, hctx, Dev.ctx_modCtx]
  · rw [W.notify_ctx, heq, Dev.ctx_modCtx_ne _ _ hj, hctx, Dev.ctx_modCtx_ne _ _ hj]
  · rw [W.notify_d, heq]
    exact hstops.fields
  · rw [W.notify_d, heq]
    exact hstops.life

/-- Every context of a list is faulted in the end. -/
theorem W.foldl_ctxFaulted (l : List Nat) (cause : Cause) (w : W) :
    let w' := l.foldl (fun (w : W) c => w.ctxFaulted c cause) w
    (∀ c, c ∈ l ∨ (w.d.ctx c).st = .faulted → (w'.d.ctx c).st = .faulted) ∧ w'.d.fields = w.d.fields ∧ w'.d.life = w.d.life := by
  induction l generalizing w with
  | nil => intro _; exact ⟨fun c h => h.resolve_left (List.not_mem_nil), rfl, rfl⟩
  | cons q r ih =>
    intro _
    obtain ⟨hq, hne, hf, hl⟩ := w.ctxFaulted_spec q cause
    obtain ⟨h1, h2, h3⟩ := ih (w.ctxFaulted q cause)
    refine ⟨fun c h => h1 c ?_, h2.trans hf, h3.trans hl⟩
    by_cases hc : c = q
    · exact .inr (hc ▸ hq)
    · rw [hne c hc]
      exact h.imp_left fun h => (List.mem_cons.1 h).resolve_left hc

/-- A field whose regulator has tripped: it has no power, and the contexts that hold a grid of it are faulted. -/
theorem W.regulatorTrip_spec (w : W) (f : Nat) :
    let d := (w.regulatorTrip f).d
    (d.field f).powered = false ∧ (d.field f).pllLocked = false ∧ (d.field f).cut = true ∧ d.life.trips = w.d.life.trips + 1 ∧
      ∀ c k, w.d.ctxs.look c = some k → k.st ≠ .faulted → k.st ≠ .killed → (∃ g ∈ k.parcel, fieldOf g = f) → (d.ctx c).st = .faulted := by
  intro d
  obtain ⟨hst, hfields, hlife⟩ := W.foldl_ctxFaulted ((w.d.ctxs.filter (fun p =>
    p.2.st != .faulted && p.2.st != .killed && p.2.parcel.any (fun g => fieldOf g == f))).map Prod.fst) .dataEcc
    { w with d := { w.d.modField f (fun q => { q with powered := false, pllLocked := false, overCount := 0, throttled := false, cut := true }) with
      life := { w.d.life with trips := w.d.life.trips + 1 } } }
  have hfield : d.field f = { w.d.field f with powered := false, pllLocked := false, overCount := 0, throttled := false, cut := true } := by
    rw [Dev.field, show d.fields = _ from hfields]
    exact Dev.field_modField w.d f fun q => { q with powered := false, pllLocked := false, overCount := 0, throttled := false, cut := true }
  refine ⟨by rw [hfield], by rw [hfield], by rw [hfield], congrArg Life.trips hlife, fun c k hk hne hne' hg => hst c (.inl ?_)⟩
  refine List.mem_map.2 ⟨(c, k), List.mem_filter.2 ⟨Tbl.mem_of_look hk, ?_⟩, rfl⟩
  obtain ⟨g, hg, hf⟩ := hg
  simp only [Bool.and_eq_true, bne_iff_ne, List.any_eq_true, beq_iff_eq]
  exact ⟨⟨hne, hne'⟩, g, hg, hf⟩

theorem exec_thermalThreshold (s : State) : exec .thermalThreshold s = .next { s with
    dev := s.dev.modGrid s.dev.arg.a fun g => { g with
      temp := s.dev.arg.b, hot := g.hot || decide (s.mgmt.thermThr < s.dev.arg.b) } } := rfl

theorem exec_thermalSlotEnable_warm {s : State} (h : s.mgmt.thermThr < s.dev.arg.b + 5) : exec .thermalSlotEnable s = .next { s with
    dev := s.dev.modGrid s.dev.arg.a fun g => { g with temp := s.dev.arg.b } } := by
  simp only [exec, execThermalSlotEnable, runR_eq, State.toW, h, if_true]

/-- A cool grid has its lowest disabled slot enabled, and is hot while another one is disabled. -/
theorem exec_thermalSlotEnable_cool {s : State} (h : s.dev.arg.b + 5 ≤ s.mgmt.thermThr) :
    ∃ slots hot, exec .thermalSlotEnable s = .next { s with
        dev := s.dev.modGrid s.dev.arg.a fun g => { g with temp := s.dev.arg.b, slots := slots, hot := hot } } ∧
      (∀ k < 8, ((s.dev.grid s.dev.arg.a).slots.get k {}).disabled = true →
        (∀ j < k, ((s.dev.grid s.dev.arg.a).slots.get j {}).disabled = false) →
        (slots.get k {}).disabled = false ∧ ∀ j, j ≠ k → slots.get j {} = (s.dev.grid s.dev.arg.a).slots.get j {}) ∧
      (hot = true ↔ ∃ k < 8, (slots.get k {}).disabled = true) := by
  simp only [exec, execThermalSlotEnable, runR_eq, State.toW, Nat.not_lt.2 h, if_false]
  split
  next hnone =>
    have hall := List.find?_eq_none.1 hnone
    refine ⟨(s.dev.grid s.dev.arg.a).slots, false, ?_, fun k hk hd => absurd hd (hall k (List.mem_range.2 hk)), ?_⟩
    · rfl
    · simp only [Bool.false_eq_true, false_iff, not_exists, not_and]
      exact fun k hk => hall k (List.mem_range.2 hk)
  next k hk =>
    refine ⟨_, _, rfl, fun j hj hd hlow => ?_, ?_⟩
    · obtain rfl : k = j := Option.some.inj (hk.symm.trans (find?_disabled hj hd hlow))
      exact ⟨by rw [Tbl.get_set_self], fun i hi => Tbl.get_set_ne _ _ _ hi⟩
    · simp only [List.any_eq_true, List.mem_range]
      rfl

theorem exec_displacedMove (s : State) : exec .displacedMove s = .next { s with
    dev := (s.toW.displace s.dev.arg.a s.dev.arg.b).d
    mem := s.mem.writeAll (s.toW.displace s.dev.arg.a s.dev.arg.b).ov.reverse } := rfl

theorem W.displace_enabled {w : W} {t target : Nat} {u : Thread} (hu : w.d.thr t = some u) (hs : w.d.slotDisabled u = false) :
    w.displace t target = { w with
      d := w.d.modThr t fun t => if t.st = .displaced then { t with st := .fetch, stSince := w.d.cycle } else t } := by
  simp only [W.displace, hu, hs, Bool.not_false, if_true]

section
variable {w : W} {t target : Nat} {u : Thread} (hu : w.d.thr t = some u) (hs : w.d.slotDisabled u = true)
  (hb : w.d.atBoundary t u = true) (hi : ∀ q ∈ w.d.insts, q.2.thr ≠ t)
include hu hs hb hi

theorem W.displace_waits (hnone : w.d.displaceSets t u = []) : w.displace t target = { w with
    d := w.d.modThr t fun t => { t with st := .displaced, stSince := w.d.cycle } } := by
  rw [W.displace_idle hu hs hb hi, hnone]

theorem W.displace_moves {first : Nat} {slots : List (Nat × Nat)} {rest : List (Nat × List (Nat × Nat))}
    (hha : (w.d.bctl u.ctx).getLsbD 27 = false) (hsets : w.d.displaceSets t u = (first, slots) :: rest) :
    ∃ v, (w.displace t target).d.thr t = some v ∧ v.regs = u.regs ∧ v.flags = u.flags ∧ v.st = .fetch ∧ v.first = first ∧
      v.width = u.width ∧ v.slots = slots := by
  rw [W.displace_idle hu hs hb hi, hsets, hha, if_neg Bool.false_ne_true]
  obtain ⟨v, hv, hk⟩ := (Dev.Settles.boundary w t u.grids (setGrids first u.width)).thr_some hu
  refine ⟨_, (Dev.thr_modThr _ _ _).trans (congrArg (Option.map _) (Dev.moveThread_thr hv first u.width slots)), ?_, ?_, rfl, rfl, rfl, rfl⟩
  · exact (congrArg Thread.regs hk :)
  · exact (congrArg Thread.flags hk :)

theorem W.displace_unnamed (hha : (w.d.bctl u.ctx).getLsbD 27 = true) (hsome : w.d.displaceSets t u ≠ [])
    (hno : ∀ p ∈ w.d.displaceSets t u, p.1 + 1 ≠ target) : w.displace t target = w := by
  have hfilter : (w.d.displaceSets t u).filter (fun p => p.1 + 1 == target) = [] :=
    List.filter_eq_nil_iff.2 fun p hp => by simpa using hno p hp
  rw [W.displace_idle hu hs hb hi, hha, if_pos rfl, hfilter]
  cases hl : w.d.displaceSets t u with
  | nil => exact absurd hl hsome
  | cons p r => rfl
end

/-- The registers of field current after a sample of `i` A in field `f`. -/
def Mgmt.sampled (g : Mgmt) (f i : Nat) : Mgmt :=
  { g with
    ilim := g.ilim.set f ((g.ilimNext.look f).getD (g.limit f)), ilimNext := g.ilimNext.erase f, imeas := g.imeas.set f i
    peak := g.peak.set f (max i (g.peak.get f 0)) }

/-- What a sample of `i` A leaves of a field with a limit. -/
def Field.sampled (q : Field) (limit i : Nat) : Field :=
  let n := if limit < i then min 10 (q.overCount + 1) else 0
  { q with
    overCount := n
    throttled := if decide (10 ≤ n) then true else if decide (100 * i < 95 * limit) then false else q.throttled }

theorem Field.sampled_throttled (q : Field) (limit i : Nat) : (q.sampled limit i).throttled = true ↔
    (limit < i ∧ 9 ≤ q.overCount) ∨ (95 * limit ≤ 100 * i ∧ q.throttled = true) := by
  unfold Field.sampled
  dsimp only
  by_cases hover : limit < i ∧ 9 ≤ q.overCount
  · rw [if_pos hover.1, if_pos (decide_eq_true (by omega))]
    exact iff_of_true rfl (.inl hover)
  · have hn : ¬10 ≤ if limit < i then min 10 (q.overCount + 1) else 0 := by split <;> omega
    rw [if_neg (by simpa using hn)]
    by_cases hlow : 100 * i < 95 * limit
    · rw [if_pos (decide_eq_true hlow)]
      exact iff_of_false Bool.false_ne_true fun h => h.elim hover fun h => by omega
    · rw [if_neg (by simpa using hlow)]
      exact ⟨fun h => .inr ⟨Nat.not_lt.1 hlow, h⟩, fun h => (h.resolve_left hover).2⟩

/-- A sample: the registers, the field, and the regulator where the current is too high. -/
theorem exec_imeasSample (s : State) :
    let f := s.dev.arg.a % 8
    let i := min s.dev.arg.b 2047
    let limit := (s.mgmt.ilimNext.look f).getD (s.mgmt.limit f)
    let w : W := { s.toW with d := s.dev.modField f fun q => q.sampled limit i }
    let w' := if 1300 < i then w.regulatorTrip f else w
    exec .imeasSample s = .next { s with mgmt := s.mgmt.sampled f i, dev := w'.d, mem := s.mem.writeAll w'.ov.reverse } := rfl

/-- Settles O59: heat by what `displace` does with a thread at a boundary; power by what a trip leaves. -/
theorem heatAndPower : Obligations.HeatAndPower := by
  unfold Obligations.HeatAndPower
  refine ⟨fun s => ⟨?_, ?_, ?_, ?_, ?_, ?_, ?_, ?_, ?_⟩, fun s => ⟨?_, ?_, ?_, ?_, ?_, ?_, ?_, ?_, ?_⟩⟩
  · refine ⟨_, exec_thermalThreshold s, ⟨rfl, rfl, rfl, rfl, fun j hj => Dev.grid_modGrid_ne _ _ hj⟩, ?_⟩
    simp only [Dev.grid_modGrid, Bool.or_eq_true, decide_eq_true_eq, and_self]
  · intro h
    simp only [exec, execThermalSlotDisable, run_eq, State.toW]
    rcases h with h | h
    · simp only [h]
      rfl
    · split
      next k _ hk => rw [h] at hk; cases hk
      next => rfl
  · intro k tid u hhot hk ht hu hmem
    refine ⟨Grid.hotSlot_highest hk, fun hb => ⟨_, exec_thermalSlotDisable hhot hk ht hu hmem hb, ⟨rfl, rfl, rfl, rfl, fun j hj => ?_⟩, ?_, fun j hj => ?_⟩⟩
    · exact Dev.grid_modGrid_ne _ _ hj
    · rw [Dev.disableSlot_slot, if_pos rfl]
    · rw [Dev.disableSlot_slot, if_neg hj]
  · intro h
    refine ⟨_, exec_thermalSlotEnable_warm h, ⟨rfl, rfl, rfl, rfl, fun j hj => Dev.grid_modGrid_ne _ _ hj⟩, ?_⟩
    simp only [Dev.grid_modGrid, and_self]
  · intro h
    obtain ⟨slots, hot, hexec, hslots, hhot⟩ := exec_thermalSlotEnable_cool h
    refine ⟨_, hexec, ⟨rfl, rfl, rfl, rfl, fun j hj => Dev.grid_modGrid_ne _ _ hj⟩, ?_⟩
    simp only [Dev.grid_modGrid]
    exact ⟨hslots, hhot⟩
  · intro u hu hs
    refine ⟨fun hb => exec_displacedMove_stays (W.displace_boundary hu hs hb), fun hb hi hha => ⟨fun hnone => ?_, fun first slots rest hsets => ?_⟩,
      fun hb hi hha hsome hno => exec_displacedMove_stays ?_⟩
    · have hexec := exec_displacedMove s
      rw [W.displace_waits (w := s.toW) hu hs hb hi hnone] at hexec
      exact ⟨_, _, hexec, rfl, (Dev.thr_modThr ..).trans (congrArg (Option.map _) hu), rfl, rfl, rfl, Dev.modThr_grids ..⟩
    · refine ⟨Dev.displaceSets_cool (hsets ▸ List.mem_cons_self : (first, slots) ∈ _), ?_⟩
      obtain ⟨v, hv⟩ := W.displace_moves (w := s.toW) (target := s.dev.arg.b) hu hs hb hi hha hsets
      exact ⟨_, v, exec_displacedMove s, hv⟩
    · exact W.displace_unnamed (w := s.toW) hu hs hb hi hha hsome hno
  · intro u hu hs hst
    have hexec := exec_displacedMove s
    rw [W.displace_enabled (w := s.toW) hu hs] at hexec
    refine ⟨_, { u with st := .fetch, stSince := s.dev.cycle }, hexec, rfl, ?_, rfl, rfl, rfl⟩
    refine (Dev.thr_modThr ..).trans ((congrArg (Option.map _) hu).trans ?_)
    exact congrArg some (if_pos hst)
  · intro h
    refine exec_displacedMove_stays ?_
    simp only [W.displace, State.toW, h]
  · obtain ⟨d, hexec, hthr, htemp, hsame⟩ := exec_thermalRankingRefresh s
    refine ⟨_, hexec, rfl, hthr, ?_, htemp, hsame⟩
    simp only [Dev.field_modField]
    refine ⟨fun o => ?_, ?_, isort_lex_pairwise (fun o => (d.grid (s.dev.arg.a * 56 + o)).temp) _⟩
    · rw [mem_isort, List.mem_filter, List.mem_range, Bool.not_eq_true']
      rfl
    · rw [isort_eq]
      exact (List.perm_insertionSort _ _).nodup_iff.2 (List.nodup_range.filter _)
  · refine ⟨_, rfl, rfl, rfl, rfl, ?_, fun g hg => ?_⟩
    · exact Tbl.look_set_self ..
    · exact Tbl.look_set_ne _ _ hg
  · refine ⟨_, rfl, rfl, rfl, rfl, ?_, fun g hg => ?_⟩
    · exact Tbl.get_set_self ..
    · exact Tbl.get_set_ne _ _ _ hg
  · refine ⟨_, exec_imeasSample s, ?_⟩
    refine ⟨Tbl.get_set_self .., Tbl.look_erase_self .., Tbl.get_set_self .., Tbl.get_set_self .., fun hle => ?_, fun hlt => ?_⟩
    · rw [if_neg (Nat.not_lt.2 hle)]
      have hfield := Dev.field_modField s.dev (s.dev.arg.a % 8) fun q =>
        q.sampled ((s.mgmt.ilimNext.look (s.dev.arg.a % 8)).getD (s.mgmt.limit (s.dev.arg.a % 8))) (min s.dev.arg.b 2047)
      exact ⟨⟨rfl, rfl, rfl, rfl⟩, (congrArg Field.powered hfield :), (congrArg Field.overCount hfield :),
        (iff_of_eq (congrArg (Field.throttled · = true) hfield :)).trans (Field.sampled_throttled ..)⟩
    · rw [if_pos hlt]
      exact W.regulatorTrip_spec _ _
  · refine ⟨_, rfl, ⟨rfl, rfl, rfl, rfl⟩, rfl, ?_, ?_, fun j hj => ?_⟩
    · exact congrArg Field.pllLocked (Dev.field_modField s.dev (s.dev.arg.a % 8) fun q => { q with pllLocked := false })
    · exact Tbl.get_set_self ..
    · exact Tbl.get_set_ne _ _ _ hj
  · intro h
    simp only [exec, execPllLock, runD_eq, h]
    rfl
  · intro h
    have hexec : exec .pllLock s = .next { s with
        dev := s.dev.modField (s.dev.arg.a % 8) fun q => { q with pllLocked := true, lockAt := s.dev.cycle } } := by
      simp only [exec, execPllLock, runD_eq]
      rw [if_pos h]
    exact ⟨_, hexec, ⟨rfl, rfl, rfl, rfl⟩, rfl, Dev.field_modField s.dev (s.dev.arg.a % 8) fun q => { q with
      pllLocked := true, lockAt := s.dev.cycle }⟩
  · intro h
    simp only [exec, execThermalTrip, runM_eq, State.toW, Nat.not_le.2 h, if_false]
    rfl
  · intro h
    simp only [exec, execThermalTrip, runM_eq, State.toW, h, if_true]
    exact ⟨_, rfl, ⟨rfl, rfl, rfl, rfl, rfl, rfl, rfl⟩, rfl⟩
  · exact ⟨_, rfl, ⟨rfl, rfl, rfl, rfl, rfl, rfl, rfl⟩, rfl, rfl⟩

end Sys2Proof.Machine
end

section
/-!
PROOFS, 02 blocks and threads: fault records, taking an exception and ending a thread.
-/

namespace Sys2Proof.Machine
open Claims

/-! ### Fault records (10 R302) -/

/-- A word of a record. -/
theorem elem_vecOf (l : List Word) {k : Nat} (hk : k < 8) : elem 64 (vecOf l) k = l.getD k 0#64 := by
  unfold elem vecOf
  induction l generalizing k with
  | nil => simp
  | cons w r ih =>
    rw [List.foldr_cons]
    cases k with
    | zero =>
      refine BitVec.eq_of_getLsbD_eq fun i hi => ?_
      simp [hi, show i < 512 by omega]
    | succ k =>
      have hk' : k < 8 := by omega
      have hr := ih hk'
      refine Eq.trans (BitVec.eq_of_getLsbD_eq fun i hi => ?_) hr
      have h1 : w.getLsbD (64 * (k + 1) + i) = false := BitVec.getLsbD_of_ge _ _ (by omega)
      simp [hi, h1, show 64 * (k + 1) + i < 512 by omega, show ¬64 * (k + 1) + i < 64 by omega,
        show 64 * (k + 1) + i - 64 = 64 * k + i by omega]
      exact (BitVec.getLsbD_eq_getElem _).symm

/-- The same stopped threads, the same instances, and in every context the same records and comparators. -/
structure Dev.KeepsRecords (d d' : Dev) : Prop where
  insts : d'.insts = d.insts
  thr : ∀ n u, d.thr n = some u → u.st = .stopped → d'.thr n = some u
  ctx : ∀ c, (d'.ctx c).frecs = (d.ctx c).frecs ∧ (d'.ctx c).rseq = (d.ctx c).rseq ∧ (d'.ctx c).comps = (d.ctx c).comps

namespace Dev.KeepsRecords

theorem refl (d : Dev) : d.KeepsRecords d := ⟨rfl, fun _ _ h _ => h, fun _ => ⟨rfl, rfl, rfl⟩⟩
theorem trans {a b c : Dev} (h : a.KeepsRecords b) (h' : b.KeepsRecords c) : a.KeepsRecords c :=
  ⟨h'.insts.trans h.insts, fun n u hu hst => h'.thr n u (h.thr n u hu hst) hst,
    fun k => ⟨(h'.ctx k).1.trans (h.ctx k).1, (h'.ctx k).2.1.trans (h.ctx k).2.1, (h'.ctx k).2.2.trans (h.ctx k).2.2⟩⟩
theorem of_stops {d d' : Dev} (h : d.Stops d') : d.KeepsRecords d' :=
  ⟨h.insts, fun _ _ hu hst => h.thr_stopped hu hst, fun c => by rw [Dev.ctx, h.ctxs]; exact ⟨rfl, rfl, rfl⟩⟩
theorem of_eq {d d' : Dev} (hi : d'.insts = d.insts) (ht : d'.threads = d.threads) (hc : d'.ctxs = d.ctxs) : d.KeepsRecords d' :=
  ⟨hi, fun n u hu _ => by rw [Dev.thr, ht]; exact hu, fun c => by rw [Dev.ctx, hc]; exact ⟨rfl, rfl, rfl⟩⟩
theorem modCtx (d : Dev) (c : Nat) {f : Ctx → Ctx} (hf : ∀ k, (f k).frecs = k.frecs ∧ (f k).rseq = k.rseq ∧ (f k).comps = k.comps) : d.KeepsRecords (d.modCtx c f) := by
  refine ⟨rfl, fun _ _ h _ => h, fun j => ?_⟩
  by_cases h : j = c
  · subst h
    rw [Dev.ctx_modCtx]
    exact hf _
  · rw [Dev.ctx_modCtx_ne _ _ h]
    exact ⟨rfl, rfl, rfl⟩
theorem gangStop (d : Dev) (c : Nat) : d.KeepsRecords (d.gangStop c) := by
  obtain ⟨e, cuts, hstops, heq, -⟩ := d.gangStop_spec c
  rw [heq]
  refine (of_stops hstops).trans (.modCtx _ _ ?_)
  exact fun _ => ⟨rfl, rfl, rfl⟩
theorem notify (w : W) (c state cause : Nat) : w.d.KeepsRecords (w.notify c state cause).d := by
  rw [W.notify_d]
  exact .of_eq rfl rfl rfl
theorem askDump (w : W) (c : Nat) : w.d.KeepsRecords (w.askDump c).2.d := by
  unfold W.askDump
  dsimp only
  split
  · exact .of_eq rfl rfl rfl
  · split
    · refine (modCtx w.d c (f := fun k => { k with st := .dumping }) ?_).trans (.of_eq rfl rfl rfl)
      exact fun _ => ⟨rfl, rfl, rfl⟩
    · split
      · exact .refl _
      · split
        · exact .of_eq rfl rfl rfl
        · exact .refl _
theorem freeze (w : W) (c cause : Nat) (handle : Option Word) : w.d.KeepsRecords (w.freeze c cause handle).d := by
  unfold W.freeze
  dsimp only
  split
  · have hfrozen : w.d.KeepsRecords (w.d.modCtx c fun k => { k with
        st := .frozen, frozenCause := BitVec.ofNat 8 cause, frozenRec := handle, secondary := 0, secRecs := [] }) := by
      refine .modCtx _ _ ?_
      exact fun _ => ⟨rfl, rfl, rfl⟩
    have hnote := (hfrozen.trans (.gangStop _ c)).trans (.notify { w with d := _ } c (stateCode .frozen) cause)
    split
    · exact hnote.trans (.askDump ..)
    · exact hnote
  · split
    · dsimp only
      refine .modCtx _ _ ?_
      exact fun _ => ⟨rfl, rfl, rfl⟩
    · exact .refl _

end Dev.KeepsRecords

/-- A running context that asks for no dump goes to FROZEN, with every grid of its parcel stopped. -/
theorem W.freeze_running {w : W} {c cause : Nat} {handle : Option Word} (hst : (w.d.ctx c).st = .running)
    (hdump : ((w.d.ctx c).cfg.headD 0#64).getLsbD 10 = false) :
    let d := (w.freeze c cause handle).d
    (d.ctx c).st = .frozen ∧ (d.ctx c).frozenCause = BitVec.ofNat 8 cause ∧ (d.ctx c).frozenRec = handle ∧
      ∀ g ∈ (w.d.ctx c).parcel, d.stopped g = true := by
  obtain ⟨e, cuts, hstops, heq, hall⟩ := Dev.gangStop_spec (w.d.modCtx c fun k => { k with
    st := .frozen, frozenCause := BitVec.ofNat 8 cause, frozenRec := handle, secondary := 0, secRecs := [] }) c
  unfold W.freeze
  dsimp only
  rw [if_pos hst, hdump, Bool.false_and, if_neg Bool.false_ne_true, heq]
  have hctx : e.ctx c = { w.d.ctx c with
      st := .frozen, frozenCause := BitVec.ofNat 8 cause, frozenRec := handle, secondary := 0, secRecs := [] } := by
    rw [Dev.ctx, hstops.ctxs]
    exact Dev.ctx_modCtx ..
  simp only [W.notify_ctx, Dev.ctx_modCtx, hctx]
  refine ⟨trivial, trivial, trivial, fun g hg => ?_⟩
  rw [W.notify_d]
  refine hall g ?_
  rw [Dev.ctx_modCtx]
  exact hg

/-- A trace that nothing enables. -/
theorem W.trace_off {w : W} {c : Nat} (h : (w.d.ctx c).trace.enables = 0#_) (enable kind g slot exit hi w1 : Nat) :
    w.trace c enable kind g slot exit hi w1 = w := by
  unfold W.trace
  rw [h, if_neg (by simp)]

theorem Dev.countEcc_eq (d : Dev) (cause : Cause) (addr : Nat) : ∃ life, d.countEcc cause addr = { d with life := life } := by
  unfold Dev.countEcc
  split
  · exact ⟨_, rfl⟩
  · exact ⟨d.life, rfl⟩

/-- A fault written down: its record in the lowest free entry, its thread stopped. -/
def W.noteFault (w : W) (tid e : Nat) (t : Thread) (p : Pend) (blk atomics : Nat) : W :=
  let k := w.d.ctx t.ctx
  let w := { w with d := w.d.countEcc p.cause p.w2.toNat }
  let lanes := recLanes w.d t p blk k.rseq atomics
  let w := w.pkgWrite t.ctx 0 (cellsAt ((k.cfg.getD 2 0#64).toNat + 64 * e) (lanes.flatMap (fun l => leBytes 8 l.toNat)))
  let d := w.d.modCtx t.ctx (fun k' => { k' with frecs := k'.frecs.set e ⟨vecOf lanes, tid, false, p.cause⟩, rseq := (k.rseq + 1) % 2 ^ 16 })
  { w with d := (d.modThr tid (fun th => { th.stop with rcd := some e })).gcThread tid }

/-- Where a fault written down is routed (10 R303, R304). -/
theorem W.threadFault_eq {w : W} {tid e : Nat} {t : Thread} (ht : w.d.thr tid = some t) (htrace : (w.d.ctx t.ctx).trace.enables = 0#_)
    (hfree : (w.d.ctx t.ctx).freeRec = some e) (p : Pend) (blk atomics : Nat) : w.threadFault tid p blk atomics =
    let k := w.d.ctx t.ctx
    let w' := w.noteFault tid e t p blk atomics
    if p.cause = .breakpoint then w'
    else if k.handlerOn && !w'.d.isHandler t then
      { w' with d := w'.d.modCtx t.ctx (fun k => { k with
          handlerQ := k.handlerQ ++ [(recHandle e (w.d.ctx t.ctx).rseq, w'.d.cycle)],
          frecs := k.frecs.map (fun f => if f.1 == e then (f.1, { f.2 with routed := true }) else f) }) }
    else w'.freeze t.ctx (fcause p.cause) (some (recHandle e (w.d.ctx t.ctx).rseq)) := by
  obtain ⟨life, hlife⟩ := w.d.countEcc_eq p.cause p.w2.toNat
  have htrace' : (({ w with d := { w.d with life := life } } : W).d.ctx t.ctx).trace.enables = 0#_ := htrace
  unfold W.threadFault
  simp only [ht, hfree, hlife, W.trace_off htrace', W.noteFault, Option.getD_some, Option.isSome_some, Bool.and_true, Bool.false_eq_true,
    or_false, Option.map_some]

@[simp] theorem Dev.threads_gcThread (d : Dev) (t : Nat) : (d.gcThread t).threads = d.threads := by
  unfold Dev.gcThread
  split
  · exact List.foldlRecOn _ _ (motive := fun e : Dev => e.threads = d.threads) rfl fun _ he _ _ => he
  · rfl

/-- What a fault written down leaves. -/
structure W.Notes (w w' : W) (tid e : Nat) (t : Thread) (p : Pend) (blk atomics : Nat) : Prop where
  insts : w'.d.insts = w.d.insts
  groups : w'.d.groups = w.d.groups
  cycle : w'.d.cycle = w.d.cycle
  thr : w'.d.thr tid = some { t.stop with rcd := some e }
  ctx : ∃ k, (w.d.ctx t.ctx).SameButMaps k ∧ w'.d.ctx t.ctx = { k with
    frecs := k.frecs.set e ⟨vecOf (recLanes w.d t p blk (w.d.ctx t.ctx).rseq atomics), tid, false, p.cause⟩
    rseq := ((w.d.ctx t.ctx).rseq + 1) % 2 ^ 16 }

theorem Dev.Moves.cycle {d d' : Dev} (h : d.Moves d') : d'.cycle = d.cycle := by
  obtain ⟨_, _, _, _, _, _, _, _, _, _, rfl⟩ := h.rest
  rfl

theorem W.noteFault_notes {w : W} {tid : Nat} {t : Thread} (ht : w.d.thr tid = some t) (e : Nat) (p : Pend) (blk atomics : Nat) :
    w.Notes (w.noteFault tid e t p blk atomics) tid e t p blk atomics := by
  obtain ⟨life, hlife⟩ := w.d.countEcc_eq p.cause p.w2.toNat
  unfold W.noteFault
  simp only [hlife]
  have hmoves := fun cs => (W.Moves.pkgWrite { w with d := { w.d with life := life } } t.ctx 0 cs).dev
  refine ⟨?_, ?_, ?_, ?_, ?_⟩
  · rw [Dev.insts_gcThread, Dev.insts_modThr]
    exact (hmoves _).insts
  · refine (Dev.Flushes.gcThread _ tid).groups.trans ?_
    rw [Dev.modThr_groups]
    exact (hmoves _).groups
  · refine (Dev.Flushes.gcThread _ tid).cycle.trans ?_
    rw [Dev.modThr_cycle]
    exact (hmoves _).cycle
  · rw [Dev.thr, Dev.threads_gcThread]
    refine (Dev.thr_modThr ..).trans ?_
    refine congrArg (Option.map _) (?_ : _ = some t)
    exact ((hmoves _).thr tid).trans ht
  · refine ⟨_, (hmoves (cellsAt (((w.d.ctx t.ctx).cfg.getD 2 0#64).toNat + 64 * e)
      ((recLanes w.d t p blk (w.d.ctx t.ctx).rseq atomics).flatMap (fun l => leBytes 8 l.toNat)))).ctx t.ctx, ?_⟩
    rw [Dev.ctx, (Dev.Flushes.gcThread _ tid).ctxs, Dev.modThr_ctxs]
    exact Dev.ctx_modCtx ..

theorem Dev.isHandler_congr {d d' : Dev} (t : Thread) (hg : d'.groups = d.groups) (hc : (d'.ctx t.ctx).cfg = (d.ctx t.ctx).cfg) :
    d'.isHandler t = d.isHandler t := by
  unfold Dev.isHandler Dev.group
  rw [hg, hc]

theorem Thread.stop_st (t : Thread) : t.stop.st = .stopped := by
  unfold Thread.stop
  by_cases h : t.st = .stopped
  · rw [if_pos h, h]
  · rw [if_neg h]

/-- A record names the thread's first slot, or 0. -/
theorem recLanes_eq (d : Dev) (t : Thread) (p : Pend) (blk rseq atomics : Nat) : recLanes d t p blk rseq atomics =
    [BitVec.ofNat 64 (fcause p.cause + p.loc.toNat * 2 ^ 8 + p.check.toNat * 2 ^ 16 + t.tnum * 2 ^ 24 + t.first * 2 ^ 32 +
      (t.slots.map Prod.snd).headD 0 * 2 ^ 41 + rseq % 2 ^ 16 * 2 ^ 48),
     BitVec.ofNat 64 blk, p.w2, p.w3, p.w4, BitVec.ofNat 64 d.now, BitVec.ofNat 64 t.commitSeq,
     BitVec.ofNat 64 (t.gid % 2 ^ 32 + min atomics 255 * 2 ^ 32)] := by
  unfold recLanes
  cases ht : t.slots with
  | nil => rfl
  | cons s r => rfl

/-- A record stands in a fault queue, where the context holds it, routed or not. -/
theorem recorded_of_look {d : Dev} {t : Thread} {tid e : Nat} {p : Pend} {blk rseq atomics : Nat} {d0 : Dev} {r : FRec}
    (hr : (d.ctx t.ctx).frecs.look e = some r) (hthr : r.thr = tid) (hcause : r.cause = p.cause)
    (hlanes : r.lanes = vecOf (recLanes d0 t p blk rseq atomics)) :
    Recorded d t tid e p blk rseq d0.now atomics t.commitSeq := by
  refine ⟨r, hr, hthr, hcause, ?_⟩
  rw [hlanes, recLanes_eq, elem_vecOf _ (show 0 < 8 by decide), elem_vecOf _ (show 1 < 8 by decide), elem_vecOf _ (show 2 < 8 by decide),
    elem_vecOf _ (show 3 < 8 by decide), elem_vecOf _ (show 4 < 8 by decide), elem_vecOf _ (show 5 < 8 by decide),
    elem_vecOf _ (show 6 < 8 by decide), elem_vecOf _ (show 7 < 8 by decide)]
  exact ⟨rfl, rfl, rfl, rfl, rfl, rfl, rfl, rfl⟩

/-- What taking an exception leaves of its thread and of its context. -/
structure W.Faults (w w' : W) (tid e : Nat) (t : Thread) (p : Pend) (blk atomics : Nat) : Prop where
  insts : w'.d.insts = w.d.insts
  thr : w'.d.thr tid = some { t.stop with rcd := some e }
  rseq : (w'.d.ctx t.ctx).rseq = ((w.d.ctx t.ctx).rseq + 1) % 2 ^ 16
  comps : (w'.d.ctx t.ctx).comps = (w.d.ctx t.ctx).comps
  recorded : Recorded w'.d t tid e p blk (w.d.ctx t.ctx).rseq w.d.now atomics t.commitSeq

/-- Routing a record marks it, and no other. -/
theorem look_map_routed {recs : Tbl FRec} {e : Nat} {r : FRec} (h : recs.look e = some r) :
    Tbl.look (recs.map fun f => if f.1 == e then (f.1, { f.2 with routed := true }) else f) e = some { r with routed := true } := by
  induction recs with
  | nil => cases h
  | cons f l ih =>
    rw [List.map_cons]
    by_cases hf : f.1 = e
    · simp only [Tbl.look, hf, if_true] at h
      cases h
      simp [Tbl.look, hf]
    · simp only [Tbl.look, hf, if_false] at h
      simpa [Tbl.look, hf] using ih h

section
variable {w : W} {tid e : Nat} {t : Thread} (ht : w.d.thr tid = some t) (htrace : (w.d.ctx t.ctx).trace.enables = 0#_)
  (hfree : (w.d.ctx t.ctx).freeRec = some e) (p : Pend) (blk atomics : Nat)

theorem W.Notes.faults {w' : W} (h : w.Notes w' tid e t p blk atomics) : w.Faults w' tid e t p blk atomics := by
  obtain ⟨k, ⟨_, _, _, _, _, rfl⟩, hk⟩ := h.ctx
  refine ⟨h.insts, h.thr, by rw [hk], by rw [hk], ?_⟩
  exact recorded_of_look (by rw [hk]; exact Tbl.look_set_self ..) rfl rfl rfl

theorem W.Faults.keeps {w1 w2 : W} (h : w.Faults w1 tid e t p blk atomics) (hk : w1.d.KeepsRecords w2.d) :
    w.Faults w2 tid e t p blk atomics := by
  refine ⟨hk.insts.trans h.insts, hk.thr _ _ h.thr t.stop_st, (hk.ctx _).2.1.trans h.rseq, (hk.ctx _).2.2.trans h.comps, ?_⟩
  obtain ⟨r, hr, hrec⟩ := h.recorded
  exact ⟨r, by rw [(hk.ctx _).1]; exact hr, hrec⟩

include ht htrace hfree

/-- A fault is written down and its thread stops, wherever the fault is routed. -/
theorem W.threadFault_faults : w.Faults (w.threadFault tid p blk atomics) tid e t p blk atomics := by
  have hnotes := W.noteFault_notes ht e p blk atomics
  rw [W.threadFault_eq ht htrace hfree]
  dsimp only
  generalize w.noteFault tid e t p blk atomics = w1 at hnotes ⊢
  split
  · exact hnotes.faults
  · split
    · obtain ⟨k, ⟨_, _, _, _, _, rfl⟩, hk⟩ := hnotes.ctx
      refine ⟨hnotes.insts, hnotes.thr, ?_, ?_, ?_⟩
      · dsimp only
        rw [Dev.ctx_modCtx, hk]
      · dsimp only
        rw [Dev.ctx_modCtx, hk]
      · refine recorded_of_look (d0 := w.d) (r := ⟨_, tid, true, p.cause⟩) ?_ rfl rfl rfl
        dsimp only
        rw [Dev.ctx_modCtx, hk]
        exact look_map_routed (Tbl.look_set_self ..)
    · exact hnotes.faults.keeps _ _ _ (.freeze ..)
/-- A breakpoint goes nowhere. -/
theorem W.threadFault_breakpoint (hp : p.cause = .breakpoint) : let d := (w.threadFault tid p blk atomics).d
    (d.ctx t.ctx).st = (w.d.ctx t.ctx).st ∧ (d.ctx t.ctx).handlerQ = (w.d.ctx t.ctx).handlerQ := by
  obtain ⟨k, ⟨_, _, _, _, _, rfl⟩, hk⟩ := (W.noteFault_notes ht e p blk atomics).ctx
  rw [W.threadFault_eq ht htrace hfree]
  dsimp only
  rw [if_pos hp, hk]
  exact ⟨rfl, rfl⟩

/-- A fault that the handler kernel gets. -/
theorem W.threadFault_handled (hp : p.cause ≠ .breakpoint) (hon : (w.d.ctx t.ctx).handlerOn = true) (hno : w.d.isHandler t = false) :
    let d := (w.threadFault tid p blk atomics).d
    (d.ctx t.ctx).handlerQ = (w.d.ctx t.ctx).handlerQ ++ [(recHandle e (w.d.ctx t.ctx).rseq, w.d.cycle)] ∧
      (d.ctx t.ctx).st = (w.d.ctx t.ctx).st := by
  have hnotes := W.noteFault_notes ht e p blk atomics
  rw [W.threadFault_eq ht htrace hfree]
  dsimp only
  generalize w.noteFault tid e t p blk atomics = w1 at hnotes ⊢
  obtain ⟨k, ⟨_, _, _, _, _, rfl⟩, hk⟩ := hnotes.ctx
  have hhandler : w1.d.isHandler t = false := (Dev.isHandler_congr t hnotes.groups (by rw [hk])).trans hno
  rw [if_neg hp, hon, hhandler, if_pos (show (true && !false) = true from rfl)]
  dsimp only
  rw [Dev.ctx_modCtx, hk, hnotes.cycle]
  exact ⟨rfl, rfl⟩

/-- A fault that no handler kernel gets freezes a running context. -/
theorem W.threadFault_freezes (hp : p.cause ≠ .breakpoint) (hoff : (w.d.ctx t.ctx).handlerOn = false ∨ w.d.isHandler t = true)
    (hst : (w.d.ctx t.ctx).st = .running) (hdump : ((w.d.ctx t.ctx).cfg.headD 0#64).getLsbD 10 = false) :
    let d := (w.threadFault tid p blk atomics).d
    (d.ctx t.ctx).st = .frozen ∧ (d.ctx t.ctx).frozenCause = BitVec.ofNat 8 (fcause p.cause) ∧
      (d.ctx t.ctx).frozenRec = some (recHandle e (w.d.ctx t.ctx).rseq) ∧ ∀ g ∈ (w.d.ctx t.ctx).parcel, d.stopped g = true := by
  have hnotes := W.noteFault_notes ht e p blk atomics
  rw [W.threadFault_eq ht htrace hfree]
  dsimp only
  generalize w.noteFault tid e t p blk atomics = w1 at hnotes ⊢
  obtain ⟨k, ⟨_, _, _, _, _, rfl⟩, hk⟩ := hnotes.ctx
  have hhandler : w1.d.isHandler t = w.d.isHandler t := Dev.isHandler_congr t hnotes.groups (by rw [hk])
  have hno : ((w.d.ctx t.ctx).handlerOn && !w1.d.isHandler t) = false := by
    rw [hhandler]
    rcases hoff with h | h
    · rw [h]; rfl
    · rw [h, Bool.not_true, Bool.and_false]
  rw [if_neg hp, hno, if_neg Bool.false_ne_true]
  have hparcel : (w1.d.ctx t.ctx).parcel = (w.d.ctx t.ctx).parcel := by rw [hk]; rfl
  have hfreeze := W.freeze_running (w := w1) (c := t.ctx) (cause := fcause p.cause) (handle := some (recHandle e (w.d.ctx t.ctx).rseq))
    (by rw [hk]; exact hst) (by rw [hk]; exact hdump)
  rw [hparcel] at hfreeze
  exact hfreeze
end
open Claims

/-! ### Taking an exception (02 R27, R32) -/

/-- An instance discarded, with everything younger: its thread is where it was before the instance was fetched. -/
def Dev.discard (d : Dev) (iid : Nat) (x : Inst) : Dev :=
  let d := (d.flushFrom x.thr (x.seq + 1)).undoMatrix x
  let d := { d with insts := d.insts.erase iid }
  (d.modThr x.thr (fun th => { th with
    seq := x.seq - 1, fTag := x.preTag, fDepth := x.preDepth, loops := x.preLoops, next := none })).gcPlanes x.grid

theorem Dev.Flushes.discard (d : Dev) (iid : Nat) (x : Inst) : d.Flushes (d.discard iid x) := by
  unfold Dev.discard
  refine .trans (.trans ((Dev.Flushes.flushFrom d x.thr (x.seq + 1)).trans (.undoMatrix _ x)) (.trans (.of_parts ..) (.modThr _ _ ?_))) (.gcPlanes ..)
  exact fun _ => rfl

theorem Dev.discard_inst (d : Dev) (iid : Nat) (x : Inst) : (d.discard iid x).inst iid = none := by
  simp [Dev.discard, Dev.inst]

/-- Of the thread's younger instances none is left but to go. -/
theorem Dev.gone_discard (d : Dev) (iid : Nat) (x : Inst) (j : Nat) : (d.discard iid x).Gone x.thr (x.seq + 1) j := by
  intro z hz
  by_cases hj : j = iid
  · rw [hj, Dev.discard_inst] at hz
    cases hz
  · refine Dev.gone_flushFrom d x.thr (x.seq + 1) j z ?_
    simpa [Dev.discard, Dev.inst, Tbl.look_erase_ne _ hj] using hz

theorem Dev.discard_thr {d : Dev} {x : Inst} {u : Thread} (hu : d.thr x.thr = some u) (iid : Nat) :
    ∃ v, (d.discard iid x).thr x.thr = some v ∧ v.kept = u.kept ∧ v.next = none := by
  obtain ⟨v, hv, hk⟩ := ((Dev.Flushes.flushFrom d x.thr (x.seq + 1)).trans (.undoMatrix _ x)).thr_some hu
  refine ⟨{ v with seq := x.seq - 1, fTag := x.preTag, fDepth := x.preDepth, loops := x.preLoops, next := none }, ?_, ?_, rfl⟩
  · unfold Dev.discard
    dsimp only
    refine (Dev.thr_modThr ..).trans (congrArg (Option.map _) (?_ : _ = some v))
    exact hv
  · exact hk

section
variable {w : W} {iid : Nat} {x : Inst} {p : Pend} {u : Thread} (hx : w.d.inst iid = some x) (hp : x.pend = some p)
  (hu : w.d.thr x.thr = some u) (ho : w.d.isOldest x = true) (hr : x.running = false)
include hx hp hu ho hr

/-- A fault that is neither of a page nor of code integrity stops its thread. -/
theorem W.raise_faults (hpage : p.cause ≠ .pageAbsent) (hcode : p.cause ≠ .codeIntegrity) :
    w.raise iid = W.threadFault { w with d := w.d.discard iid x } x.thr p x.blk x.atomics := by
  unfold W.raise
  simp only [hx, hp, hu, ho, hr, Bool.not_true, Bool.or_false, Bool.false_eq_true, if_false]
  split
  next h _ => exact absurd h hpage
  next h => exact absurd h hcode
  next => rfl

theorem W.raise_page (hpage : p.cause = .pageAbsent) {n : Nat} (hn : x.page = some n) (hreq : ∃ r ∈ w.d.preqs, r.num = n) :
    w.raise iid = { w with d := ((w.d.discard iid x).modThr x.thr (fun th => { th with
      st := .page, stSince := (w.d.discard iid x).cycle, pageReq := some n, resumeAt := some x.blk })).gcThread x.thr } := by
  have hopen : (w.d.discard iid x).preqs.any (fun r => r.num == n) = true := by
    obtain ⟨r, hr, hrn⟩ := hreq
    rw [(Dev.Flushes.discard w.d iid x).preqs]
    exact List.any_eq_true.2 ⟨r, hr, by simpa using hrn⟩
  unfold W.raise
  simp only [hx, hp, hu, ho, hr, hpage, hn, Bool.not_true, Bool.or_false, Bool.false_eq_true, if_false]
  unfold Dev.discard at hopen ⊢
  dsimp only at hopen ⊢
  simp only [hopen, if_true]
end

/-- A record names of a thread its context, its place and its group. -/
theorem recorded_congr {d : Dev} {u v : Thread} {tid e : Nat} {p : Pend} {blk rseq now atomics seq : Nat} (hctx : v.ctx = u.ctx)
    (htnum : v.tnum = u.tnum) (hfirst : v.first = u.first) (hslots : v.slots = u.slots) (hgid : v.gid = u.gid)
    (hr : Recorded d v tid e p blk rseq now atomics seq) : Recorded d u tid e p blk rseq now atomics seq := by
  unfold Recorded at hr ⊢
  rw [hctx, htnum, hfirst, hslots, hgid] at hr
  exact hr

theorem Dev.isHandler_kept (d : Dev) {u v : Thread} (h : v.kept = u.kept) : d.isHandler v = d.isHandler u := by
  have hctx : v.ctx = u.ctx := (congrArg Thread.ctx h :)
  have hgid : v.gid = u.gid := (congrArg Thread.gid h :)
  unfold Dev.isHandler
  rw [hctx, hgid]

/-! ### Ending a thread (05 R149, 11 R335) -/

/-- A placement left: tokens go. -/
theorem Dev.dropPlacement_parts (d : Dev) (t g placement fieldNo tag : Nat) :
    ∃ grids retained, d.dropPlacement t g placement fieldNo tag = { d with grids := grids, retained := retained } := by
  unfold Dev.dropPlacement
  split
  · exact ⟨_, _, rfl⟩
  · exact ⟨_, _, rfl⟩
theorem Dev.dropLoops_parts (d : Dev) (t : Nat) : ∃ grids retained, d.dropLoops t = { d with grids := grids, retained := retained } := by
  unfold Dev.dropLoops
  split
  · exact ⟨_, _, rfl⟩
  · refine List.foldlRecOn _ _ (motive := fun e : Dev => ∃ grids retained, e = { d with grids := grids, retained := retained })
      ⟨_, _, rfl⟩ fun e he l _ => ?_
    obtain ⟨_, _, rfl⟩ := he
    obtain ⟨grids, retained, heq⟩ := Dev.dropPlacement_parts { d with grids := _, retained := _ } t l.1 l.2.1 l.2.2.1 l.2.2.2
    exact ⟨grids, retained, heq⟩
@[simp] theorem Dev.dropLoops_threads (d : Dev) (t : Nat) : (d.dropLoops t).threads = d.threads := by
  obtain ⟨_, _, h⟩ := d.dropLoops_parts t
  rw [h]
@[simp] theorem Dev.dropLoops_insts (d : Dev) (t : Nat) : (d.dropLoops t).insts = d.insts := by
  obtain ⟨_, _, h⟩ := d.dropLoops_parts t
  rw [h]
@[simp] theorem Dev.dropLoops_ctxs (d : Dev) (t : Nat) : (d.dropLoops t).ctxs = d.ctxs := by
  obtain ⟨_, _, h⟩ := d.dropLoops_parts t
  rw [h]

theorem Dev.releaseSlots_parts (d : Dev) (t : Nat) : ∃ grids, d.releaseSlots t = { d with grids := grids } := by
  unfold Dev.releaseSlots
  split
  · exact ⟨_, rfl⟩
  · refine List.foldlRecOn _ _ (motive := fun e : Dev => ∃ grids, e = { d with grids := grids }) ⟨_, rfl⟩ fun e he l _ => ?_
    obtain ⟨_, rfl⟩ := he
    exact ⟨_, rfl⟩

/-- A thread as it ends. -/
def Thread.over (u : Thread) (failed : Bool) : Thread :=
  { u with ended := true, failed := failed, st := .idle, next := none, loops := [], slots := [], rcd := none, pageReq := none }

/-- What ends with a thread: its instances are flushed, and its slots and its loops go. -/
theorem Dev.endThread_spec {d : Dev} {t : Nat} {u : Thread} (hu : d.thr t = some u) (hend : u.ended = false) (failed : Bool) :
    let e := (d.dropLoops t).flushFrom t 0
    (d.endThread t failed).thr t = (e.thr t).map (Thread.over · failed) ∧ (d.endThread t failed).insts = e.insts ∧
      (d.endThread t failed).ctxs = d.ctxs := by
  intro e
  obtain ⟨_, hslots⟩ := (e.dropLoops t).releaseSlots_parts t
  unfold Dev.endThread
  simp only [hu, hend, Bool.false_eq_true, if_false]
  rw [show (((d.dropLoops t).flushFrom t 0).dropLoops t).releaseSlots t = _ from hslots]
  refine ⟨?_, ?_, ?_⟩
  · rw [Dev.thr, Dev.modGroup_threads, Dev.threads_gcThread]
    refine (Dev.thr_modThr ..).trans ?_
    refine congrArg (Option.map _) ?_
    exact congrArg (Tbl.look · t) (Dev.dropLoops_threads ..)
  · rw [Dev.modGroup_insts, Dev.insts_gcThread, Dev.insts_modThr]
    exact Dev.dropLoops_insts ..
  · rw [Dev.modGroup_ctxs, (Dev.Flushes.gcThread ..).ctxs, Dev.modThr_ctxs]
    exact (Dev.dropLoops_ctxs ..).trans ((Dev.Flushes.flushFrom ..).ctxs.trans (Dev.dropLoops_ctxs ..))

theorem Dev.endThread_ctxs (d : Dev) (t : Nat) (failed : Bool) : (d.endThread t failed).ctxs = d.ctxs := by
  cases hu : d.thr t with
  | none => simp [Dev.endThread, hu]
  | some u =>
    by_cases hend : u.ended = true
    · simp [Dev.endThread, hu, hend]
    · exact (Dev.endThread_spec hu (Bool.eq_false_of_not_eq_true hend) failed).2.2

end Sys2Proof.Machine
end

section
/-!
PROOFS, 02 blocks and threads: a commit that nothing watches.
-/

namespace Sys2Proof.Machine
open Claims

/-! ### A commit that nothing watches (02 R28, 19 R494-R504) -/

/-- Effects performed one after another. -/
def W.performAll (w : W) (tid : Nat) (x : Inst) (l : List (Nat × Eff)) : W := l.foldl (fun w e => w.performLogged tid x e.2) w

/-- The effects of an instance performed, and the flags that those with an LSID have raised. -/
def W.effected (w : W) (x : Inst) (t : Thread) : W × Word :=
  let w := { w with d := w.d.modThr x.thr (fun th => { th with flags := 0#64 }) }
  let w := w.performAll x.thr x (x.ordered.filter (fun e => decide (e.1 < 32)))
  let raised := match w.d.thr x.thr with | some th => th.flags | none => 0#64
  let w := { w with d := w.d.modThr x.thr (fun th => { th with flags := t.flags }) }
  (w.performAll x.thr x (x.ordered.filter (fun e => decide (32 ≤ e.1))), raised)

/-- The instance replaces `prng`. -/
def Inst.setsPrng (x : Inst) : Bool := x.effs.any (fun q => match q.2.2 with | .setsr 0x0B _ => true | _ => false)

/-- What an instance without matrix steps writes into its thread. -/
def Thread.commit (th : Thread) (x : Inst) (b : Block) (raised : Word) (cycle : Nat) : Thread :=
  { th with
    regs := (x.regWrites b).foldl (fun (r : Tbl Vec) (p : Nat × Vec) => r.set p.1 p.2) th.regs
    prng := if x.setsPrng then th.prng else x.prngNew.getD th.prng
    flags := th.flags ||| raised ||| x.flags.setWidth 64, commitSeq := x.seq }.awake cycle

/-- The instance has committed and left; its exit is still to be taken. -/
def W.committed (w : W) (iid : Nat) (x : Inst) (b : Block) (t : Thread) : W :=
  let r := w.effected x t
  { r.1 with d := (r.1.d.modThr x.thr (·.commit x b r.2 r.1.d.cycle)).retire iid x t.ctx }

theorem W.commitTrace_off {w : W} {t : Thread} (h : (w.d.ctx t.ctx).trace.enables = 0#_) (x : Inst) : w.commitTrace t x = w := by
  unfold W.commitTrace
  split
  · rfl
  · exact W.trace_off h ..

theorem W.commitNow_eq {w : W} {iid : Nat} {x : Inst} {b : Block} {t : Thread} (hlog : (w.d.ctx t.ctx).logging = false)
    (hrec : w.d.recording t.ctx = false) (hm : x.msteps = []) (htrace : ((w.effected x t).1.d.ctx t.ctx).trace.enables = 0#_) :
    w.commitNow iid x b t =
      ((((w.committed iid x b t).composeCommit x.thr x).exitCommit x.thr x).undoCommit t.ctx x).debugStop x.thr t.ctx x := by
  have hevs : w.d.commitEvents t.ctx x = [] := by
    unfold Dev.commitEvents
    rw [hrec]
    rfl
  have hmst : x.mstCells = [] := by
    unfold Inst.mstCells
    rw [hm]
    rfl
  unfold W.commitNow
  simp only [hlog, hevs, hm, hmst, List.foldl_nil, List.flatMap_nil, List.isEmpty_nil, if_true, Bool.false_eq_true, if_false]
  rw [W.commitTrace_off]
  · rfl
  · refine (congrArg (fun k : Ctx => k.trace.enables) ?_).trans htrace
    rw [Dev.ctx, Dev.modThr_ctxs]
    rfl

/-- The work area with the log of a context written back as it was. -/
def W.relogged (w : W) (c : Nat) : W := { w with d := w.d.modCtx c (fun k => { k with log := (w.d.ctx c).log }) }

theorem W.relogged_ctx (w : W) (c j : Nat) : (w.relogged c).d.ctx j = w.d.ctx j := by
  unfold W.relogged
  by_cases h : j = c
  · rw [h, Dev.ctx_modCtx]
  · rw [Dev.ctx_modCtx_ne _ _ h]

/-- An instance that nothing stands against commits. -/
theorem W.commit_eq {w : W} {iid : Nat} {x : Inst} {b : Block} {t : Thread} (hx : w.d.inst iid = some x) (hb : x.code = some b)
    (hu : w.d.thr x.thr = some t) (hready : w.d.commitReady iid x b = true) (hlog : (w.d.ctx t.ctx).logging = false)
    (hrec : w.d.recording t.ctx = false) (hbars : w.effBars iid x t x.ordered = .ok) :
    w.commit iid = (w.relogged t.ctx).commitNow iid x b t := by
  have hevs : w.d.commitEvents t.ctx x = [] := by
    unfold Dev.commitEvents
    rw [hrec]
    rfl
  have hgate : ∀ es, (w.d.ctx t.ctx).logGate es = .ok (w.d.ctx t.ctx).log := fun es => by
    unfold Ctx.logGate
    rw [hlog]
    rfl
  unfold W.commit
  simp only [hx, hb, hu, hready, hevs, W.diverges, hbars, hlog, hgate, Bool.not_true, Bool.false_and, Bool.false_eq_true, if_false]
  rfl

theorem W.commit_waits {w : W} {iid : Nat} {x : Inst} {b : Block} (hx : w.d.inst iid = some x) (hb : x.code = some b)
    (hready : w.d.commitReady iid x b = false) : w.commit iid = w := by
  unfold W.commit
  cases hu : w.d.thr x.thr with
  | none => simp only [hx, hb, hu]
  | some t => simp only [hx, hb, hu, hready, Bool.not_false, if_true]

/-! ### What performing leaves -/

/-- Grids and streams have changed, and nothing else. -/
structure W.Stores (w w' : W) : Prop where
  rest : ∃ grids threads, w' = { w with d := { w.d with grids := grids, threads := threads } }
  thr : ∀ n, (w'.d.thr n).map Thread.noStreams = (w.d.thr n).map Thread.noStreams

theorem W.Stores.refl (w : W) : w.Stores w := ⟨⟨_, _, rfl⟩, fun _ => rfl⟩
theorem W.Stores.trans {a b c : W} (h : a.Stores b) (h' : b.Stores c) : a.Stores c := by
  refine ⟨?_, fun n => (h'.thr n).trans (h.thr n)⟩
  obtain ⟨_, _, rfl⟩ := h.rest
  obtain ⟨_, _, rfl⟩ := h'.rest
  exact ⟨_, _, rfl⟩

/-- A thread with other flags. -/
def Dev.withFlags (d : Dev) (t : Nat) (v : Word) : Dev := d.modThr t (fun th => { th with flags := v })

theorem Dev.withFlags_parts (d : Dev) (t : Nat) (v : Word) : ∃ threads, d.withFlags t v = { d with threads := threads } := by
  unfold Dev.withFlags Dev.modThr
  split
  · exact ⟨_, rfl⟩
  · exact ⟨_, rfl⟩

theorem Dev.withFlags_thr (d : Dev) (t : Nat) (v : Word) {n : Nat} :
    (d.withFlags t v).thr n = if n = t then (d.thr t).map (fun th => { th with flags := v }) else d.thr n := by
  unfold Dev.withFlags
  split
  next h => rw [h, Dev.thr_modThr]
  next h => rw [Dev.thr_modThr_ne _ _ h]

/-- A work area in which a thread has other flags. -/
structure W.Reflagged (w w' : W) (tid : Nat) (t : Thread) (v : Word) : Prop where
  rest : ∃ threads, w' = { w with d := { w.d with threads := threads } }
  thr : w'.d.thr tid = some { t with flags := v }
  thr_ne : ∀ n, n ≠ tid → w'.d.thr n = w.d.thr n

theorem W.reflagged {w : W} {tid : Nat} {t : Thread} (hu : w.d.thr tid = some t) (v : Word) :
    w.Reflagged { w with d := w.d.withFlags tid v } tid t v := by
  refine ⟨?_, ?_, fun n hn => ?_⟩
  · obtain ⟨_, h⟩ := w.d.withFlags_parts tid v
    exact ⟨_, congrArg (fun d => { w with d := d }) h⟩
  · rw [Dev.withFlags_thr, if_pos rfl, hu]
    rfl
  · rw [Dev.withFlags_thr, if_neg hn]
theorem W.Reflagged.trans {a b c : W} {tid : Nat} {t : Thread} {v v' : Word} (h : a.Reflagged b tid t v)
    (h' : b.Reflagged c tid { t with flags := v } v') : a.Reflagged c tid t v' := by
  refine ⟨?_, h'.thr, fun n hn => (h'.thr_ne n hn).trans (h.thr_ne n hn)⟩
  obtain ⟨_, rfl⟩ := h.rest
  obtain ⟨_, rfl⟩ := h'.rest
  exact ⟨_, rfl⟩
/-- Flags given back. -/
theorem W.Reflagged.stores {w w' : W} {tid : Nat} {t : Thread} (hu : w.d.thr tid = some t) (h : w.Reflagged w' tid t t.flags) :
    w.Stores w' := by
  refine ⟨?_, fun n => ?_⟩
  · obtain ⟨_, rfl⟩ := h.rest
    exact ⟨_, _, rfl⟩
  · by_cases hn : n = tid
    · rw [hn, h.thr, hu]
    · rw [h.thr_ne n hn]

section
variable {w : W} {x : Inst} {t : Thread} (hu : w.d.thr x.thr = some t)
include hu

theorem W.effected_nil (ho : x.ordered = []) :
    w.effected x t = ({ w with d := (w.d.withFlags x.thr 0#64).withFlags x.thr t.flags }, 0#64) := by
  have hthr := (W.reflagged hu 0#64).thr
  unfold W.effected
  rw [ho]
  exact congrArg (Prod.mk _) (by
    simp only [W.performAll, List.filter_nil, List.foldl_nil]
    rw [show (w.d.modThr x.thr _).thr x.thr = _ from hthr])

/-- One effect, which changes grids and streams alone. -/
theorem W.effected_one {pl : Nat} {e : Eff} (ho : x.ordered = [(pl, e)])
    (hperf : ∀ w0 v, w.Reflagged w0 x.thr t v → w0.Stores (w0.performLogged x.thr x e)) :
    ∃ w0 v, w.Reflagged w0 x.thr t v ∧ w.Stores (w.effected x t).1 ∧ (w.effected x t).1.d.grids = (w0.performLogged x.thr x e).d.grids ∧
      (w.effected x t).2 = 0#64 := by
  have h0 := W.reflagged hu 0#64
  by_cases hpl : pl < 32
  · have hs := hperf _ _ h0
    have heq : w.effected x t =
        let w1 := W.performLogged { w with d := w.d.withFlags x.thr 0#64 } x.thr x e
        ({ w1 with d := w1.d.withFlags x.thr t.flags }, match w1.d.thr x.thr with | some th => th.flags | none => 0#64) := by
      unfold W.effected
      rw [ho]
      simp only [W.performAll, List.filter_cons, List.filter_nil, hpl, Nat.not_le.2 hpl, decide_true, decide_false, if_true,
        Bool.false_eq_true, if_false, List.foldl_cons, List.foldl_nil] <;> rfl
    rw [heq]
    generalize hw1 : W.performLogged { w with d := w.d.withFlags x.thr 0#64 } x.thr x e = w1 at hs
    have hthr := hs.thr x.thr
    rw [h0.thr] at hthr
    obtain ⟨th, hth, hk⟩ := Option.map_eq_some_iff.1 hthr
    have hstores : w.Stores { w1 with d := w1.d.withFlags x.thr t.flags } := by
      refine ⟨?_, fun n => ?_⟩
      · obtain ⟨_, hd⟩ := w1.d.withFlags_parts x.thr t.flags
        obtain ⟨_, h0⟩ := h0.rest
        obtain ⟨_, _, hs⟩ := hs.rest
        rw [hd, hs, h0]
        exact ⟨_, _, rfl⟩
      · rw [Dev.withFlags_thr]
        by_cases hn : n = x.thr
        · rw [if_pos hn, hn, hth, hu]
          exact congrArg (fun u : Thread => some { u with flags := t.flags }) hk
        · rw [if_neg hn, hs.thr, h0.thr_ne n hn]
    refine ⟨_, _, h0, hstores, ?_, ?_⟩
    · obtain ⟨_, hd⟩ := w1.d.withFlags_parts x.thr t.flags
      exact (congrArg Dev.grids hd).trans (congrArg (fun w : W => w.d.grids) hw1.symm)
    · dsimp only
      rw [hth]
      exact (congrArg Thread.flags hk :)
  · have h1 := h0.trans (W.reflagged h0.thr t.flags)
    have heq : w.effected x t = (W.performLogged { w with d := (w.d.withFlags x.thr 0#64).withFlags x.thr t.flags } x.thr x e,
        match (w.d.withFlags x.thr 0#64).thr x.thr with | some th => th.flags | none => 0#64) := by
      unfold W.effected
      rw [ho]
      simp only [W.performAll, List.filter_cons, List.filter_nil, hpl, Nat.not_lt.1 hpl, decide_true, decide_false, if_true,
        Bool.false_eq_true, if_false, List.foldl_cons, List.foldl_nil] <;> rfl
    rw [heq]
    refine ⟨_, _, h1, (h1.stores hu).trans (hperf _ _ h1), rfl, ?_⟩
    dsimp only
    rw [show (w.d.withFlags x.thr 0#64).thr x.thr = _ from h0.thr]
end
open Claims

/-! ### What a commit writes into its thread (02 R28) -/

theorem foldl_set_get {l : List (Nat × Vec)} {r : Nat} (h : ∀ p ∈ l, p.1 ≠ r) (t : Tbl Vec) (d : Vec) :
    (l.foldl (fun (t : Tbl Vec) (p : Nat × Vec) => t.set p.1 p.2) t).get r d = t.get r d :=
  List.foldlRecOn l _ (motive := fun t' : Tbl Vec => t'.get r d = t.get r d) rfl fun t' ht p hp => by
    rw [Tbl.get_set_ne _ _ _ (h p hp).symm, ht]

/-- A register written with one value alone holds it. -/
theorem foldl_set_get_of_mem {l : List (Nat × Vec)} {p : Nat × Vec} (hp : p ∈ l) (hsame : ∀ q ∈ l, q.1 = p.1 → q.2 = p.2) (t : Tbl Vec)
    (d : Vec) : (l.foldl (fun (t : Tbl Vec) (p : Nat × Vec) => t.set p.1 p.2) t).get p.1 d = p.2 := by
  induction l generalizing t with
  | nil => cases hp
  | cons q r ih =>
    rw [List.foldl_cons]
    by_cases hin : ∃ q' ∈ r, q'.1 = p.1
    · obtain ⟨q', hq', hk⟩ := hin
      have hv : q' = p := Prod.ext hk (hsame q' (List.mem_cons_of_mem _ hq') hk)
      exact ih (hv ▸ hq') (fun q hq => hsame q (List.mem_cons_of_mem _ hq)) _
    · have hno : ∀ q' ∈ r, q'.1 ≠ p.1 := fun q' hq' hk => hin ⟨q', hq', hk⟩
      have hpq : p = q := (List.mem_cons.1 hp).resolve_right fun h => hno p h rfl
      rw [foldl_set_get hno, hpq, Tbl.get_set_self]

theorem Thread.awake_parts (u : Thread) (now : Nat) :
    ∃ st fromWait stSince waitLeft, u.awake now = { u with st := st, fromWait := fromWait, stSince := stSince, waitLeft := waitLeft } := by
  unfold Thread.awake
  split
  · exact ⟨_, _, _, _, rfl⟩
  · exact ⟨_, _, _, _, rfl⟩

/-- Effects that write no register of the thread. -/
def Inst.Plain (x : Inst) : Prop := ∀ q ∈ x.effs, (∃ cs, q.2.2 = .store cs 0) ∨ ∃ s a, q.2.2 = .trap s a

theorem Inst.Plain.findSome? {x : Inst} (h : x.Plain) {α : Type} {f : Nat × Nat × Eff → Option α} (hs : ∀ l k cs, f (l, k, .store cs 0) = none)
    (ht : ∀ l k s a, f (l, k, .trap s a) = none) : x.effs.findSome? f = none := by
  refine List.findSome?_eq_none_iff.2 fun q hq => ?_
  obtain ⟨l, k, e⟩ := q
  rcases h _ hq with ⟨cs, rfl⟩ | ⟨s, a, rfl⟩
  · exact hs l k cs
  · exact ht l k s a

/-- What of a commit shows in a thread but for its slot's state. -/
structure CommittedThread (u v : Thread) (x : Inst) (b : Block) : Prop where
  written : Written u v x b
  next : v.next = u.next
  ended : v.ended = u.ended
  endAfter : v.endAfter = u.endAfter
  slots : v.slots = u.slots
  ctx : v.ctx = u.ctx
  gid : v.gid = u.gid
  tnum : v.tnum = u.tnum

theorem Thread.commit_committed (u : Thread) {x : Inst} (hx : x.Plain) (b : Block) (cycle : Nat) :
    CommittedThread u (u.commit x b 0#64 cycle) x b := by
  have hset : x.setsPrng = false := by
    unfold Inst.setsPrng
    refine List.any_eq_false.2 fun q hq => ?_
    rcases hx q hq with ⟨cs, h⟩ | ⟨s, a, h⟩
    · rw [h]; exact Bool.false_ne_true
    · rw [h]; exact Bool.false_ne_true
  unfold Thread.commit
  rw [hset]
  obtain ⟨_, _, _, _, h⟩ := Thread.awake_parts _ cycle
  rw [h]
  refine ⟨⟨fun r hr => foldl_set_get hr _ _, fun p hp hsame => foldl_set_get_of_mem hp hsame _ _, ?_, rfl, rfl, rfl, rfl, rfl, rfl, rfl⟩,
    rfl, rfl, rfl, rfl, rfl, rfl, rfl⟩
  simp

/-- Streams show in nothing of it. -/
theorem CommittedThread.of_noStreams {u v v' : Thread} {x : Inst} {b : Block} (h : CommittedThread u v x b) (hk : v'.noStreams = v.noStreams) :
    CommittedThread u v' x b := by
  have hv : v' = { v with streams := v'.streams } := congrArg (fun t : Thread => { t with streams := v'.streams }) hk
  rw [hv]
  exact ⟨h.written, h.next, h.ended, h.endAfter, h.slots, h.ctx, h.gid, h.tnum⟩

theorem Thread.commit_noStreams {u v : Thread} (h : v.noStreams = u.noStreams) (x : Inst) (b : Block) (raised : Word) (cycle : Nat) :
    (v.commit x b raised cycle).noStreams = (u.commit x b raised cycle).noStreams := by
  have hv : v = { u with streams := v.streams } := congrArg (fun t : Thread => { t with streams := v.streams }) h
  rw [hv]
  unfold Thread.commit Thread.awake
  dsimp only
  split <;> rfl

/-! ### The instance leaves (02 R27) -/

theorem Dev.retire_parts (d : Dev) (iid : Nat) (x : Inst) (c : Nat) :
    ∃ grids retained, d.retire iid x c = { d with insts := d.insts.erase iid, grids := grids, retained := retained } := by
  unfold Dev.retire
  dsimp only
  split
  · split
    · obtain ⟨grids, retained, h⟩ := Dev.dropPlacement_parts (Dev.modGrid _ _ _) x.thr x.grid x.placement _ x.tag.toNat
      rw [h]
      exact ⟨_, _, rfl⟩
    · exact ⟨_, _, rfl⟩
  · split
    · obtain ⟨grids, retained, h⟩ := Dev.dropPlacement_parts (Dev.modGrid _ _ _) x.thr x.grid x.placement _ x.tag.toNat
      rw [h]
      exact ⟨_, _, rfl⟩
    · exact ⟨_, _, rfl⟩

/-- What stands once an instance has committed and left. -/
structure W.Committed (w w' : W) (iid : Nat) (x : Inst) (b : Block) (t : Thread) : Prop where
  rest : ∃ grids threads retained, w' = { w with
    d := { w.d with insts := w.d.insts.erase iid, grids := grids, threads := threads, retained := retained } }
  thr : ∃ v, w'.d.thr x.thr = some v ∧ CommittedThread t v x b

theorem W.committed_spec {w : W} {iid : Nat} {x : Inst} {b : Block} {t : Thread} (hu : w.d.thr x.thr = some t) (hx : x.Plain)
    (hs : w.Stores (w.effected x t).1) (hraised : (w.effected x t).2 = 0#64) : w.Committed (w.committed iid x b t) iid x b t := by
  unfold W.committed
  dsimp only
  rw [hraised]
  generalize (w.effected x t).1 = w1 at hs
  obtain ⟨grids, retained, hret⟩ := (w1.d.modThr x.thr (·.commit x b 0#64 w1.d.cycle)).retire_parts iid x t.ctx
  rw [hret]
  have hthr := hs.thr x.thr
  rw [hu] at hthr
  obtain ⟨th, hth, hk⟩ := Option.map_eq_some_iff.1 hthr
  refine ⟨?_, th.commit x b 0#64 w1.d.cycle, ?_, ?_⟩
  · obtain ⟨_, _, rfl⟩ := hs.rest
    have hmod : ∀ (d : Dev) (f : Thread → Thread), ∃ threads, d.modThr x.thr f = { d with threads := threads } := fun d f => by
      unfold Dev.modThr
      split
      · exact ⟨_, rfl⟩
      · exact ⟨_, rfl⟩
    obtain ⟨_, hm⟩ := hmod { w.d with grids := _, threads := _ } (·.commit x b 0#64 w.d.cycle)
    dsimp only
    rw [hm]
    exact ⟨_, _, _, rfl⟩
  · refine (Dev.thr_modThr w1.d x.thr _).trans ?_
    rw [hth]
    rfl
  · exact (t.commit_committed hx b _).of_noStreams (Thread.commit_noStreams hk x b _ _)

namespace W.Committed
variable {w w' : W} {iid : Nat} {x : Inst} {b : Block} {t : Thread} (h : w.Committed w' iid x b t)
include h
theorem ov : w'.ov = w.ov := by obtain ⟨_, _, _, rfl⟩ := h.rest; rfl
theorem insts : w'.d.insts = w.d.insts.erase iid := by obtain ⟨_, _, _, rfl⟩ := h.rest; rfl
theorem ctx (c : Nat) : w'.d.ctx c = w.d.ctx c := by obtain ⟨_, _, _, rfl⟩ := h.rest; rfl
theorem now : w'.d.now = w.d.now := by obtain ⟨_, _, _, rfl⟩ := h.rest; rfl
theorem inst : w'.d.inst iid = none := by rw [Dev.inst, h.insts, Tbl.look_erase_self]
theorem inst_ne {j : Nat} (hj : j ≠ iid) : w'.d.inst j = w.d.inst j := by rw [Dev.inst, h.insts, Tbl.look_erase_ne _ hj]; rfl
end W.Committed

/-! ### What follows on a commit that nothing watches -/

theorem W.composeCommit_plain {x : Inst} (hx : x.Plain) (w : W) (tid : Nat) : w.composeCommit tid x = w := by
  unfold W.composeCommit
  rw [hx.findSome? (fun _ _ _ => rfl) fun _ _ _ _ => rfl]
  split
  · contradiction
  · rfl
theorem W.undoCommit_plain {x : Inst} (hx : x.Plain) (w : W) (c : Nat) : w.undoCommit c x = w := by
  unfold W.undoCommit
  rw [hx.findSome? (fun _ _ _ => rfl) fun _ _ _ _ => rfl]
theorem W.debugStop_off {w : W} {c : Nat} {x : Inst} (hcomps : ∀ n < 4, ((w.d.ctx c).comps.get n {}).kind = 0) (hb : x.brkp = none)
    (tid : Nat) : w.debugStop tid c x = w := by
  have hnone : (List.range 4).find? (fun n => ((w.d.ctx c).comps.get n {}).matches x) = none :=
    List.find?_eq_none.2 fun n hn => by
      unfold Comparator.matches
      rw [hcomps n (List.mem_range.1 hn)]
      exact Bool.false_ne_true
  unfold W.debugStop
  simp only [hnone, hb, ite_self]

/-- An exit that neither ends the thread nor traps. -/
theorem W.exitCommit_goes {w : W} {tid : Nat} {x : Inst} {t : Thread} {e : ExitFired} (ht : w.d.thr tid = some t) (he : x.exit = some e)
    (hhalt : e.opcode ≠ 0x36) (hend : t.endAfter = false) (hno : ∀ q ∈ x.effs, ∃ cs, q.2.2 = .store cs 0) :
    w.exitCommit tid x = w := by
  unfold W.exitCommit
  simp only [ht, he, hhalt, hend, Bool.false_eq_true, if_false]
  split
  next => rfl
  next sys arg hsome =>
    obtain ⟨q, hq, hf⟩ := List.exists_of_findSome?_eq_some hsome
    obtain ⟨cs, hcs⟩ := hno q hq
    rw [hcs] at hf
    cases hf

/-- `trap` and `sys` stop their thread with a record. -/
theorem W.exitCommit_trap {w : W} {tid : Nat} {x : Inst} {t : Thread} {e : ExitFired} {l n : Nat} {sys : Bool} {arg : Word}
    (ht : w.d.thr tid = some t) (he : x.exit = some e) (hhalt : e.opcode ≠ 0x36) (hend : t.endAfter = false)
    (heffs : x.effs = [(l, n, .trap sys arg)]) (hi : ∀ q ∈ w.d.insts, q.2.thr ≠ tid) :
    w.exitCommit tid x = W.threadFault { w with d := w.d.redirect tid none } tid
      { cause := if sys then .sysCall else .swTrap, w2 := BitVec.ofNat 64 (e.target.getD 0), w3 := arg } x.blk x.atomics := by
  unfold W.exitCommit
  simp only [ht, he, hhalt, hend, Bool.false_eq_true, if_false, heffs, List.findSome?_cons, Dev.flushFrom_of_none hi]

/-- `halt` ends its thread, after a release. -/
theorem W.exitCommit_halt {w : W} {tid : Nat} {x : Inst} {t : Thread} {e : ExitFired} (ht : w.d.thr tid = some t) (he : x.exit = some e)
    (hhalt : e.opcode = 0x36) : w.exitCommit tid x = { (w.relFirst tid t 2).monument t 5 0 x.seq with
      d := ((w.relFirst tid t 2).monument t 5 0 x.seq).d.endThread tid t.endAfter } := by
  unfold W.exitCommit
  simp only [ht, he, hhalt, if_true]

/-! ### An instance that is ready to commit, with nothing watching -/

/-- The commit of an instance whose effects change grids and streams alone. -/
theorem exec_blockCommit {s : State} {x : Inst} {b : Block} {u : Thread} (h : Commits s x b u) (hx : x.Plain)
    (hbars : s.toW.effBars s.dev.arg.a x u x.ordered = .ok) :
    let w0 := s.toW.relogged u.ctx
    (w0.Stores (w0.effected x u).1 → (w0.effected x u).2 = 0#64 →
      let w := w0.committed s.dev.arg.a x b u
      w0.Committed w s.dev.arg.a x b u ∧
      ((∀ n < 4, (((w.exitCommit x.thr x).d.ctx u.ctx).comps.get n {}).kind = 0) →
        exec .blockCommit s = .next { s with
          dev := (w.exitCommit x.thr x).d, mem := s.mem.writeAll (w.exitCommit x.thr x).ov.reverse })) := by
  intro w0 hs hr
  obtain ⟨hinst, hb, hu, hready, ⟨hundo, hrecd, htrace, -, hbrkp, -⟩, hm⟩ := h
  have hlog : (s.dev.ctx u.ctx).logging = false := by rw [Ctx.logging, hundo]; rfl
  have hrec : s.dev.recording u.ctx = false := by rw [Dev.recording, hrecd]; rfl
  have hctx : ∀ c, w0.d.ctx c = s.dev.ctx c := s.toW.relogged_ctx u.ctx
  have hcommit := W.commit_eq (w := s.toW) hinst hb hu hready hlog hrec hbars
  have hnow := W.commitNow_eq (w := w0) (iid := s.dev.arg.a) (b := b) (t := u) (x := x) (by rw [hctx]; exact hlog)
    (by rw [Dev.recording, hctx]; exact hrec) hm (by
      obtain ⟨_, _, hrest⟩ := hs.rest
      rw [hrest]
      exact (congrArg (fun k : Ctx => k.trace.enables) (hctx u.ctx)).trans htrace)
  refine ⟨W.committed_spec hu hx hs hr, fun hcomps => ?_⟩
  rw [W.composeCommit_plain hx, W.undoCommit_plain hx, W.debugStop_off hcomps hbrkp] at hnow
  simp only [exec, execBlockCommit, run_eq]
  rw [show s.toW.commit s.toW.d.arg.a = _ from hcommit.trans hnow]

end Sys2Proof.Machine
end

section
/-!
PROOFS, 02 blocks and threads: exceptions and the return from them.
-/

namespace Sys2Proof.Machine
open Claims

/-! ### The exception of an oldest instance -/

theorem Dev.thr_gcThread_modThr {d : Dev} {t : Nat} {u : Thread} {f : Thread → Thread} {g : Nat} (h : d.thr t = some u) :
    ((d.modThr t f).gcThread g).thr t = some (f u) := by
  rw [Dev.thr, Dev.threads_gcThread]
  exact (Dev.thr_modThr ..).trans (congrArg (Option.map f) h)

/-- An instance that goes at its exception leaves its thread stopped, with a record. -/
theorem W.raise_taken {w : W} {iid : Nat} {x : Inst} {p : Pend} {u : Thread} {e : Nat} (hx : w.d.inst iid = some x) (hp : x.pend = some p)
    (hu : w.d.thr x.thr = some u) (ho : w.d.isOldest x = true) (hr : x.running = false) (htrace : (w.d.ctx u.ctx).trace.enables = 0#_)
    (hpage : p.cause ≠ .pageAbsent) (hcode : p.cause ≠ .codeIntegrity) (hfree : (w.d.ctx u.ctx).freeRec = some e) :
    ∃ v : Thread, v.kept = u.kept ∧ v.next = none ∧ (w.d.discard iid x).thr x.thr = some v ∧
      W.Faults { w with d := w.d.discard iid x } (w.raise iid) x.thr e v p x.blk x.atomics := by
  obtain ⟨v, hv, hk, hnext⟩ := Dev.discard_thr hu iid
  have hctx : (w.d.discard iid x).ctx v.ctx = w.d.ctx u.ctx := by
    rw [(Dev.Flushes.discard w.d iid x).ctx, show v.ctx = u.ctx from (congrArg Thread.ctx hk :)]
  refine ⟨v, hk, hnext, hv, ?_⟩
  rw [W.raise_faults hx hp hu ho hr hpage hcode]
  exact W.threadFault_faults (w := { w with d := w.d.discard iid x }) hv (by rw [hctx]; exact htrace) (by rw [hctx]; exact hfree) p x.blk x.atomics

theorem Thread.stop_parts (u : Thread) : ∃ st prior, u.stop = { u with st := st, prior := prior } := by
  unfold Thread.stop
  split
  · exact ⟨u.st, u.prior, rfl⟩
  · exact ⟨_, _, rfl⟩

/-! ### The return from an exception (10 R314) -/

section
variable {d : Dev} {c e : Nat} {r : FRec} (hr : (d.ctx c).frecs.look e = some r)
include hr

theorem Dev.resume_ends (target : Nat) : d.resume c e 2 target = (d.freeRec c e).endThread r.thr true := by
  unfold Dev.resume
  simp only [hr, if_true]

/-- The faulted block again, or what the exception names. -/
theorem Dev.resume_again {u : Thread} (hu : d.thr r.thr = some u) (hload : u.argLoad = false) (hat : u.resumeAt = none) (target : Nat) :
    d.resume c e 0 target = ((d.freeRec c e).modThr r.thr fun th => { th with
      rcd := none, argLoad := false, resumeAt := none, prior := .run
      next := some (if r.cause = .swTrap ∨ r.cause = .sysCall ∨ r.cause = .breakpoint then (vlane r.lanes 2).toNat else (vlane r.lanes 1).toNat)
      st := if u.grids.any d.stopped then .stopped else .run }).gcThread r.thr := by
  have hu' : (d.freeRec c e).thr r.thr = some u := hu
  unfold Dev.resume
  simp only [hr, hu', hload, hat, Nat.zero_ne_one, (by decide : (0 : Nat) ≠ 2), if_false, Option.isSome_none, Bool.false_eq_true]
  rfl

/-- Another block, outside every loop. -/
theorem Dev.resume_redirected {u : Thread} (hu : d.thr r.thr = some u) (target : Nat) :
    ∃ st, d.resume c e 1 target = (((d.freeRec c e).dropLoops r.thr).modThr r.thr fun th =>
      { th.setNest (th.nest.follow (((d.freeRec c e).dropLoops r.thr).tagWidths th) 0x30) with
        rcd := none, argLoad := false, next := some target, resumeAt := none, st := st, prior := .run }).gcThread r.thr := by
  have hu' : (d.freeRec c e).thr r.thr = some u := hu
  unfold Dev.resume
  simp only [hr, hu', (by decide : (1 : Nat) ≠ 2), if_false, if_true]
  exact ⟨_, rfl⟩

/-- The record is free, whatever is done with the thread. -/
theorem Dev.resume_frees (action target : Nat) : ((d.resume c e action target).ctx c).frecs.look e = none := by
  have hfree : ((d.freeRec c e).ctx c).frecs.look e = none := by
    rw [Dev.freeRec, Dev.ctx_modCtx]
    exact Tbl.look_erase_self ..
  have hctx : (d.resume c e action target).ctxs = (d.freeRec c e).ctxs := by
    unfold Dev.resume
    simp only [hr]
    split
    · exact Dev.endThread_ctxs ..
    · rw [(Dev.Flushes.gcThread ..).ctxs, Dev.modThr_ctxs]
      split
      · exact Dev.dropLoops_ctxs ..
      · rfl
  rw [Dev.ctx, hctx]
  exact hfree
end

/-- A thread that ends at its return. -/
theorem Dev.endThread_over {d : Dev} {t : Nat} {u : Thread} (hu : d.thr t = some u) (hend : u.ended = false) (failed : Bool) :
    ∃ v : Thread, (d.endThread t failed).thr t = some (v.over failed) := by
  obtain ⟨v, hv, -⟩ := (Dev.Flushes.flushFrom (d.dropLoops t) t 0).thr_some (n := t) (u := u) (by
    rw [Dev.thr, Dev.dropLoops_threads]
    exact hu)
  refine ⟨v, (Dev.endThread_spec hu hend failed).1.trans ?_⟩
  rw [hv]
  rfl

/-! ### `trap` and `sys` at their commit (05 R150, R151) -/

theorem Inst.ordered_one {x : Inst} {q : Nat × Nat × Eff} (h : x.effs = [q]) : x.ordered = [(effPlace q, q.2.2)] := by
  unfold Inst.ordered
  rw [h]
  rfl

theorem W.performLogged_trap {w : W} {tid : Nat} {x : Inst} {t : Thread} {sys : Bool} {arg : Word} (ht : w.d.thr tid = some t)
    (hlog : (w.d.ctx t.ctx).logging = false) : w.Stores (w.performLogged tid x (.trap sys arg)) := by
  unfold W.performLogged W.perform
  simp only [ht, hlog, Bool.false_eq_true, if_false]
  exact ⟨⟨_, _, rfl⟩, fun _ => rfl⟩

/-- What erasing one instance leaves. -/
theorem Tbl.mem_erase {α : Type} {t : Tbl α} {k : Nat} {q : Nat × α} : q ∈ t.erase k ↔ q ∈ t ∧ q.1 ≠ k := by
  unfold Tbl.erase
  rw [List.mem_filter, bne_iff_ne]

theorem written_stopped {u v : Thread} {x : Inst} {b : Block} (h : Written u v x b) (next : Option Nat) (rcd : Option Nat) :
    Written u { { v with next := next }.stop with rcd := rcd } x b := by
  obtain ⟨_, _, hs⟩ := Thread.stop_parts { v with next := next }
  rw [hs]
  exact h

theorem exec_blockCommit_trap {s : State} {x : Inst} {b : Block} {u : Thread} {ex : ExitFired} {l n : Nat} {sys : Bool} {arg : Word} {e : Nat}
    (h : Commits s x b u) (hex : x.exit = some ex) (heffs : x.effs = [(l, n, .trap sys arg)]) (hhalt : ex.opcode ≠ 0x36)
    (hfree : (s.dev.ctx u.ctx).freeRec = some e) (hi : ∀ q ∈ s.dev.insts, q.2.thr = x.thr → q.1 = s.dev.arg.a) :
    ∃ t v, exec .blockCommit s = .next t ∧ t.dev.inst s.dev.arg.a = none ∧ t.dev.thr x.thr = some v ∧ Written u v x b ∧ v.st = .stopped ∧
      v.rcd = some e ∧ v.next = none ∧
      Recorded t.dev u x.thr e { cause := if sys then .sysCall else .swTrap, w2 := BitVec.ofNat 64 (ex.target.getD 0), w3 := arg }
        x.blk (s.dev.ctx u.ctx).rseq s.dev.now x.atomics x.seq := by
  have hplain : x.Plain := fun q hq => by
    rw [heffs] at hq
    obtain rfl := List.mem_singleton.1 hq
    exact .inr ⟨sys, arg, rfl⟩
  have hord := Inst.ordered_one heffs
  obtain ⟨hinst, hb, hu, hready, ⟨hundo, hrecd, htrace, hcomps, hbrkp, hend⟩, hm⟩ := id h
  have hctx : ∀ c, (s.toW.relogged u.ctx).d.ctx c = s.dev.ctx c := s.toW.relogged_ctx u.ctx
  have hlog : (s.dev.ctx u.ctx).logging = false := by rw [Ctx.logging, hundo]; rfl
  obtain ⟨w0, f, -, hs, -, hr⟩ := W.effected_one (w := s.toW.relogged u.ctx) (x := x) (t := u) hu hord fun w0 f hw0 => by
    refine W.performLogged_trap hw0.thr ?_
    obtain ⟨_, hrest⟩ := hw0.rest
    rw [hrest]
    exact (congrArg Ctx.logging (hctx u.ctx)).trans hlog
  obtain ⟨hcom, hexec⟩ := exec_blockCommit h hplain (by rw [hord]; rfl) hs hr
  generalize (s.toW.relogged u.ctx).committed s.dev.arg.a x b u = w at hcom hexec
  obtain ⟨v, hv, hct⟩ := hcom.thr
  have hnone : ∀ q ∈ w.d.insts, q.2.thr ≠ x.thr := fun q hq hthr => by
    rw [hcom.insts] at hq
    obtain ⟨hq, hne⟩ := Tbl.mem_erase.1 hq
    exact hne (hi q hq hthr)
  have hexit := W.exitCommit_trap hv hex hhalt (hct.endAfter.trans hend) heffs hnone
  have hv' : (w.d.redirect x.thr none).thr x.thr = some { v with next := none } := (Dev.thr_modThr ..).trans (congrArg (Option.map _) hv)
  have hctx' : (w.d.redirect x.thr none).ctx v.ctx = s.dev.ctx u.ctx := by
    rw [Dev.ctx, Dev.redirect, Dev.modThr_ctxs, hct.ctx]
    exact (hcom.ctx _).trans (hctx _)
  have hfaults := W.threadFault_faults (w := { w with d := w.d.redirect x.thr none }) hv' (by rw [hctx']; exact htrace)
    (by rw [hctx']; exact hfree) { cause := if sys then .sysCall else .swTrap, w2 := BitVec.ofNat 64 (ex.target.getD 0), w3 := arg } x.blk x.atomics
  rw [← hexit] at hfaults
  have hcomps' : ((w.exitCommit x.thr x).d.ctx u.ctx).comps = (s.dev.ctx u.ctx).comps := by
    have hsame := hfaults.comps.trans (congrArg Ctx.comps hctx')
    dsimp only at hsame
    rw [hct.ctx] at hsame
    exact hsame
  refine ⟨_, _, hexec fun n hn => by rw [hcomps']; exact hcomps n hn, ?_, hfaults.thr, written_stopped hct.written _ _, Thread.stop_st _, rfl, ?_, ?_⟩
  · rw [Dev.inst, hfaults.insts]
    exact (congrArg (Tbl.look · _) (Dev.insts_modThr ..)).trans hcom.inst
  · obtain ⟨_, _, hstop⟩ := Thread.stop_parts { v with next := none }
    rw [hstop]
  · obtain ⟨-, -, -, -, hseq, -, -, -, hfirst, -⟩ := hct.written
    have hrec := recorded_congr hct.ctx hct.tnum hfirst hct.slots hct.gid hfaults.recorded
    have hnow : (w.d.redirect x.thr none).now = s.dev.now := (Dev.Flushes.redirect ..).now.trans hcom.now
    dsimp only at hrec
    rw [hctx', hnow, hseq] at hrec
    exact hrec

/-- Settles O23: an exception by what `threadFault` writes down, `trap` by the commit that nothing watches, a return by what `resume`
does with the thread. -/
theorem exceptionsAndReturn : Obligations.ExceptionsAndReturn := by
  unfold Obligations.ExceptionsAndReturn
  refine ⟨fun w iid x p u e => ⟨?_, ?_⟩, fun s x b u ex l n sys arg h hex heffs hhalt e hfree hi =>
    exec_blockCommit_trap h hex heffs hhalt hfree hi, fun d c e target r u hr hu => ⟨fun action => Dev.resume_frees hr action target, ?_, ?_, ?_⟩⟩
  · rintro ⟨hx, hp, hu, ho, hrun, htrace⟩ hpage hcode hfree
    obtain ⟨v, hk, hnext, hv, hfaults⟩ := W.raise_taken hx hp hu ho hrun htrace hpage hcode hfree
    have hfl := Dev.Flushes.discard w.d iid x
    have hvctx : v.ctx = u.ctx := (congrArg Thread.ctx hk :)
    have hctx : (w.d.discard iid x).ctx v.ctx = w.d.ctx u.ctx := by rw [hfl.ctx, hvctx]
    have hhandler : (w.d.discard iid x).isHandler v = w.d.isHandler u :=
      (Dev.isHandler_congr v hfl.groups (by rw [hfl.ctx])).trans (w.d.isHandler_kept hk)
    have htrace' : ((w.d.discard iid x).ctx v.ctx).trace.enables = 0#_ := by rw [hctx]; exact htrace
    have hfree' : ((w.d.discard iid x).ctx v.ctx).freeRec = some e := by rw [hctx]; exact hfree
    have hraise := W.raise_faults hx hp hu ho hrun hpage hcode
    obtain ⟨_, _, hstop⟩ := Thread.stop_parts v
    refine ⟨⟨_, ?_, hfaults.thr, ⟨Thread.stop_st _, rfl, ?_, ?_, ?_⟩, fun j z hz hthr => ?_, ?_, ?_⟩, fun hb hon hno => ?_,
      fun hb hoff hst hdump => ?_, fun hb => ?_⟩
    · rw [Dev.inst, hfaults.insts]
      exact Dev.discard_inst ..
    · rw [hstop]; exact hnext
    · rw [hstop]; exact (congrArg Thread.regs hk :)
    · rw [hstop]; exact (congrArg Thread.flags hk :)
    · rw [Dev.inst, hfaults.insts] at hz
      by_cases hseq : z.seq ≤ x.seq
      · exact .inr hseq
      · exact .inl (Dev.gone_discard w.d iid x j z hz hthr (Nat.not_le.1 hseq))
    · have hrseq := hfaults.rseq
      dsimp only at hrseq
      rw [hctx, hvctx] at hrseq
      exact hrseq
    · have hrec := recorded_congr hvctx (congrArg Thread.tnum hk :) (congrArg Thread.first hk :) (congrArg Thread.slots hk :)
        (congrArg Thread.gid hk :) hfaults.recorded
      dsimp only at hrec
      rw [hctx, hfl.now, show v.commitSeq = u.commitSeq from (congrArg Thread.commitSeq hk :)] at hrec
      exact hrec
    · have hroute := W.threadFault_handled (w := { w with d := w.d.discard iid x }) hv htrace' hfree' p x.blk x.atomics hb
        (by rw [hctx]; exact hon) (hhandler.trans hno)
      rw [← hraise] at hroute
      dsimp only at hroute
      rw [hctx, hfl.cycle, hvctx] at hroute
      exact hroute
    · have hroute := W.threadFault_freezes (w := { w with d := w.d.discard iid x }) hv htrace' hfree' p x.blk x.atomics hb
        (by rw [hctx, hhandler]; exact hoff) (by rw [hctx]; exact hst) (by rw [hctx]; exact hdump)
      rw [← hraise] at hroute
      dsimp only at hroute
      rw [hctx, hvctx] at hroute
      exact hroute
    · have hroute := W.threadFault_breakpoint (w := { w with d := w.d.discard iid x }) hv htrace' hfree' p x.blk x.atomics hb
      rw [← hraise] at hroute
      dsimp only at hroute
      rw [hctx, hvctx] at hroute
      exact hroute
  · rintro n ⟨hx, hp, hu, ho, hrun, htrace⟩ hpage hn hreq
    obtain ⟨v, hv, hk, -⟩ := Dev.discard_thr hu iid
    rw [W.raise_page hx hp hu ho hrun hpage hn hreq]
    refine ⟨_, ?_, Dev.thr_gcThread_modThr hv, rfl, rfl, rfl, (congrArg Thread.regs hk :), rfl⟩
    rw [Dev.inst, Dev.insts_gcThread, Dev.insts_modThr]
    exact Dev.discard_inst ..
  · intro hload hat
    rw [Dev.resume_again hr hu hload hat]
    refine ⟨_, Dev.thr_gcThread_modThr hu, rfl, rfl, ?_, rfl⟩
    split <;> rfl
  · obtain ⟨st, heq⟩ := Dev.resume_redirected hr hu target
    rw [heq]
    have hdrop := (congrArg (Tbl.look · r.thr) (Dev.dropLoops_threads (d.freeRec c e) r.thr)).trans hu
    exact ⟨_, Dev.thr_gcThread_modThr hdrop, rfl, rfl, rfl⟩
  · intro hend
    obtain ⟨v, hv⟩ := Dev.endThread_over (d := d.freeRec c e) hu hend true
    rw [Dev.resume_ends hr]
    exact ⟨_, hv, rfl, rfl, rfl, rfl⟩

end Sys2Proof.Machine
end

section
/-!
PROOFS, 02 blocks and threads: committed bytes in the L1s of a thread's grids.
-/

namespace Sys2Proof.Machine
open Claims

/-! ### Bytes of a line (08 R219) -/

theorem ofBytes_digit (bs : List Byte) (i : Nat) : ofBytes bs / 2 ^ (8 * i) % 2 ^ 8 = (bs.getD i 0#8).toNat := by
  induction bs generalizing i with
  | nil => simp [ofBytes]
  | cons b r ih =>
    have hcons : ofBytes (b :: r) = b.toNat + 256 * ofBytes r := rfl
    have hb := b.isLt
    cases i with
    | zero =>
      rw [hcons]
      simp only [Nat.mul_zero, Nat.pow_zero, Nat.div_one, List.getD_cons_zero]
      omega
    | succ i =>
      have hpow : 2 ^ (8 * (i + 1)) = 256 * 2 ^ (8 * i) := by rw [Nat.mul_add, Nat.pow_add]; omega
      rw [hpow, ← Nat.div_div_eq_div_mul, hcons, show (b.toNat + 256 * ofBytes r) / 256 = ofBytes r by omega, ih, List.getD_cons_succ]

theorem packLine_byte (bs : List Byte) {i : Nat} (hi : i < 32) : (packLine bs).extractLsb' (8 * i) 8 = bs.getD i 0#8 := by
  have hsplit : 2 ^ 256 = 2 ^ (8 * i) * 2 ^ (256 - 8 * i) := by rw [← Nat.pow_add]; congr 1; omega
  refine BitVec.eq_of_toNat_eq ?_
  rw [BitVec.extractLsb'_toNat, packLine, BitVec.toNat_ofNat, Nat.shiftRight_eq_div_pow, hsplit, Nat.mod_mul_right_div_self,
    Nat.mod_mod_of_dvd _ (Nat.pow_dvd_pow 2 (by omega)), ofBytes_digit]

theorem cellMask_getLsbD {cs : List Host.Cell} {b : Host.Cell} (hb : b ∈ cs) : (cellMask cs).getLsbD (b.1 % 32) = true := by
  have hlt : b.1 % 32 < 32 := Nat.mod_lt _ (by decide)
  have hfold : ∀ (l : List Host.Cell) (m : BitVec 32), m.getLsbD (b.1 % 32) = true ∨ b ∈ l →
      (l.foldl (fun m c => m ||| (1#32 <<< (c.1 % 32))) m).getLsbD (b.1 % 32) = true := by
    intro l
    induction l with
    | nil => exact fun m h => h.resolve_right List.not_mem_nil
    | cons c r ih =>
      refine fun m h => ih _ ?_
      rcases h with h | h
      · exact .inl (by simp [h])
      · rcases List.mem_cons.1 h with rfl | h
        · exact .inl (by simp [hlt])
        · exact .inr h
  exact hfold cs 0#32 (.inr hb)

theorem cellAt_filter {cs : List Host.Cell} {p : Nat → Bool} {a : Nat} (h : p a = true) : cellAt (cs.filter (fun c => p c.1)) a = cellAt cs a := by
  unfold cellAt
  rw [← List.filter_reverse, List.find?_filter]
  congr 2
  funext c
  by_cases hc : c.1 = a
  · simp [hc, h]
  · simp [hc]
theorem exists_of_cellAt {cs : List Host.Cell} {a : Nat} {v : Byte} (h : cellAt cs a = some v) : ∃ b ∈ cs, b.1 = a := by
  obtain ⟨b, hb, -⟩ := Option.map_eq_some_iff.1 h
  exact ⟨b, List.mem_reverse.1 (List.mem_of_find?_eq_some hb), by simpa using List.find?_some hb⟩

/-- A line with the bytes of cells in it, which its L1 owns. -/
def L1Line.stored (l : L1Line) (line : Nat) (cs : List Host.Cell) : L1Line :=
  let here := cellsIn line cs
  { l with
    valid := l.valid ||| cellMask here, owned := l.owned ||| cellMask here
    data := packLine (mergeLine (cellMask here) ((List.range 32).map (fun i => (cellAt here (32 * line + i)).getD 0#8)) (lineBytes l.data)) }

/-- A grid's L1 holds a byte and owns it. -/
def Grid.Owns (gr : Grid) (rid a : Nat) (v : Byte) : Prop :=
  ∃ l, gr.l1Find (a / 32) rid = some l ∧ l.owned.getLsbD (a % 32) = true ∧ l.valid.getLsbD (a % 32) = true ∧
    l.data.extractLsb' (8 * (a % 32)) 8 = v

theorem L1Line.stored_byte (l : L1Line) {cs : List Host.Cell} {a : Nat} {v : Byte} (h : cellAt cs a = some v) :
    (l.stored (a / 32) cs).owned.getLsbD (a % 32) = true ∧ (l.stored (a / 32) cs).valid.getLsbD (a % 32) = true ∧
      (l.stored (a / 32) cs).data.extractLsb' (8 * (a % 32)) 8 = v := by
  have hlt : a % 32 < 32 := Nat.mod_lt _ (by decide)
  have hhere : cellAt (cellsIn (a / 32) cs) a = some v := (cellAt_filter (p := fun x => lineOf x == a / 32) (by simp [lineOf])).trans h
  obtain ⟨b, hb, rfl⟩ := exists_of_cellAt hhere
  have hmask := cellMask_getLsbD hb
  refine ⟨?_, ?_, ?_⟩
  · simp [L1Line.stored, hmask]
  · simp [L1Line.stored, hmask]
  · rw [L1Line.stored, packLine_byte _ hlt, mergeLine_getD _ _ _ hlt, if_pos hmask, getD_map_range _ _ hlt, Nat.div_add_mod, hhere]
    rfl

theorem Grid.l1Find_l1Set_self (gr : Grid) (l : L1Line) : (gr.l1Set l).l1Find l.line l.rid = some l := by
  simp [Grid.l1Set, Grid.l1Find]
theorem Grid.l1Find_l1Set_ne (gr : Grid) {l : L1Line} {line : Nat} (rid : Nat) (h : l.line ≠ line) :
    (gr.l1Set l).l1Find line rid = gr.l1Find line rid := by
  unfold Grid.l1Set Grid.l1Find
  dsimp only
  rw [List.find?_cons_of_neg (by simp [h]), List.find?_filter]
  congr 1
  funext m
  by_cases hm : m.line = line
  · rw [Bool.eq_iff_iff]
    simp [hm, Ne.symm h]
  · simp [hm]
theorem Grid.l1Set_length (gr : Grid) (l : L1Line) : (gr.l1Set l).l1.length ≤ gr.l1.length + 1 :=
  Nat.succ_le_succ (List.length_filter_le ..)

/-! ### A store in the L1 of a grid that has room (08 R219, 09 R265) -/

/-- One line of a store put into an L1. -/
def W.putLine (w : W) (c rnum g : Nat) (cs : List Host.Cell) (line : Nat) : W :=
  let rid := (w.d.ctx c).ridOf rnum (32 * line)
  let w := w.l1Room c g line rid
  let l := ((w.d.grid g).l1Find line rid).getD ⟨line, rid, 0#32, 0#32, 0#256⟩
  { w with d := w.d.modGrid g (fun gr => gr.l1Set (l.stored line cs)) }

theorem W.l1Write_eq (w : W) (c rnum g : Nat) (cs : List Host.Cell) :
    w.l1Write c rnum g cs = (linesOf cs).foldl (fun w line => w.putLine c rnum g cs line) w := rfl

theorem W.l1Room_of_length {w : W} {g : Nat} (h : (w.d.grid g).l1.length < 8) (c line rid : Nat) : w.l1Room c g line rid = w := by
  have hsame := Nat.lt_of_le_of_lt (List.length_filter_le (fun m => setOf (w.d.ctx c).l1Sets m.line == setOf (w.d.ctx c).l1Sets line) _) h
  unfold W.l1Room
  simp only [hsame, if_true, ite_self]

/-- Some lines of a store stand in the L1 of a grid. -/
structure W.Puts (w w' : W) (c rnum g : Nat) (cs : List Host.Cell) (ls : List Nat) : Prop where
  rest : ∃ grids, w' = { w with d := { w.d with grids := grids } }
  other : ∀ n, n ≠ g → w'.d.grid n = w.d.grid n
  size : (w'.d.grid g).l1.length ≤ (w.d.grid g).l1.length + ls.length
  held : ∀ a v, cellAt cs a = some v → a / 32 ∈ ls ∨ (w.d.grid g).Owns ((w.d.ctx c).ridOf rnum (32 * (a / 32))) a v →
    (w'.d.grid g).Owns ((w.d.ctx c).ridOf rnum (32 * (a / 32))) a v

theorem W.Puts.refl (w : W) (c rnum g : Nat) (cs : List Host.Cell) : w.Puts w c rnum g cs [] :=
  ⟨⟨_, rfl⟩, fun _ _ => rfl, Nat.le_refl _, fun _ _ _ h => h.resolve_left List.not_mem_nil⟩

theorem W.puts_line {w : W} {c rnum g : Nat} {cs : List Host.Cell} (h : (w.d.grid g).l1.length < 8) (line : Nat) :
    w.Puts (w.putLine c rnum g cs line) c rnum g cs [line] := by
  unfold W.putLine
  dsimp only
  rw [W.l1Room_of_length h]
  refine ⟨⟨_, rfl⟩, fun n hn => Dev.grid_modGrid_ne _ _ hn, ?_, fun a v hv hin => ?_⟩
  · rw [Dev.grid_modGrid]
    exact Grid.l1Set_length ..
  · rw [Dev.grid_modGrid]
    generalize hl : ((w.d.grid g).l1Find line ((w.d.ctx c).ridOf rnum (32 * line))).getD _ = l
    have hkey : l.line = line ∧ l.rid = (w.d.ctx c).ridOf rnum (32 * line) := by
      rw [← hl]
      cases hf : (w.d.grid g).l1Find line ((w.d.ctx c).ridOf rnum (32 * line)) with
      | none => exact ⟨rfl, rfl⟩
      | some m => simpa using List.find?_some hf
    obtain ⟨hline, hrid⟩ := hkey
    by_cases ha : a / 32 = line
    · subst ha
      refine ⟨_, ?_, l.stored_byte hv⟩
      have hfind := (w.d.grid g).l1Find_l1Set_self (l.stored (a / 32) cs)
      rwa [show (l.stored (a / 32) cs).line = a / 32 from hline, show (l.stored (a / 32) cs).rid = _ from hrid] at hfind
    · obtain ⟨m, hm, hbyte⟩ := hin.resolve_left (fun h => ha (List.mem_singleton.1 h))
      exact ⟨m, (Grid.l1Find_l1Set_ne (l := l.stored line cs) _ _ fun h => ha (h.symm.trans hline)).trans hm, hbyte⟩

theorem W.Puts.trans {w w' w'' : W} {c rnum g : Nat} {cs : List Host.Cell} {ls ls' : List Nat} (h : w.Puts w' c rnum g cs ls)
    (h' : w'.Puts w'' c rnum g cs ls') : w.Puts w'' c rnum g cs (ls ++ ls') := by
  have hctx : w'.d.ctx c = w.d.ctx c := by obtain ⟨_, hrest⟩ := h.rest; rw [hrest]; rfl
  refine ⟨?_, fun n hn => (h'.other n hn).trans (h.other n hn), ?_, fun a v hv hin => ?_⟩
  · obtain ⟨_, rfl⟩ := h.rest
    obtain ⟨_, rfl⟩ := h'.rest
    exact ⟨_, rfl⟩
  · have hsize := h.size
    have hsize' := h'.size
    rw [List.length_append]
    omega
  · have hheld := h'.held a v hv
    rw [hctx] at hheld
    rcases hin with hin | hin
    · rcases List.mem_append.1 hin with hin | hin
      · exact hheld (.inr (h.held a v hv (.inl hin)))
      · exact hheld (.inl hin)
    · exact hheld (.inr (h.held a v hv (.inr hin)))

theorem W.puts_lines {c rnum g : Nat} {cs : List Host.Cell} (ls : List Nat) {w : W} (h : (w.d.grid g).l1.length + ls.length ≤ 8) :
    w.Puts (ls.foldl (fun w line => w.putLine c rnum g cs line) w) c rnum g cs ls := by
  induction ls generalizing w with
  | nil => exact .refl ..
  | cons line r ih =>
    rw [List.length_cons] at h
    have hone : w.Puts (w.putLine c rnum g cs line) c rnum g cs [line] := W.puts_line (by omega) line
    have hsize := hone.size
    rw [List.length_singleton] at hsize
    exact hone.trans (ih (by omega))

theorem W.l1Write_puts {w : W} {c rnum g : Nat} {cs : List Host.Cell} (h : (w.d.grid g).l1.length + (linesOf cs).length ≤ 8) :
    w.Puts (w.l1Write c rnum g cs) c rnum g cs (linesOf cs) := by
  rw [W.l1Write_eq]
  exact W.puts_lines _ h

/-! ### A committed store, each byte through its access grid (09 R262) -/

theorem linesOf_filter_length (cs : List Host.Cell) (p : Host.Cell → Bool) : (linesOf (cs.filter p)).length ≤ (linesOf cs).length := by
  refine (List.subperm_of_subset (nodup_eraseDups _) fun line hline => ?_).length_le
  obtain ⟨b, hb, hl⟩ := List.mem_map.1 (List.mem_eraseDups.1 hline)
  exact List.mem_eraseDups.2 (List.mem_map.2 ⟨b, (List.mem_filter.1 hb).1, hl⟩)
theorem mem_linesOf_of_cellAt {cs : List Host.Cell} {a : Nat} {v : Byte} (h : cellAt cs a = some v) : a / 32 ∈ linesOf cs := by
  obtain ⟨b, hb, rfl⟩ := exists_of_cellAt h
  exact List.mem_eraseDups.2 (List.mem_map.2 ⟨b, hb, rfl⟩)
theorem Thread.grids_nodup (t : Thread) : t.grids.Nodup :=
  List.nodup_range.map fun _ _ h => Nat.add_left_cancel h
theorem Thread.accessGrid_mem {t : Thread} (h : 0 < t.width) (a : Nat) : t.accessGrid a ∈ t.grids :=
  List.mem_map.2 ⟨_, List.mem_range.2 (Nat.mod_lt _ h), rfl⟩

/-- A store put into the L1s of some grids, each of which had none of its lines. -/
theorem W.puts_grids {t : Thread} {c rnum : Nat} {cs : List Host.Cell} (hlines : (linesOf cs).length ≤ 8) {gs : List Nat} (hgs : gs.Nodup)
    {w : W} (hempty : ∀ g ∈ gs, (w.d.grid g).l1 = []) :
    let w' := gs.foldl (fun w g => w.l1Write c rnum g (cs.filter (fun b => t.accessGrid b.1 == g))) w
    (∃ grids, w' = { w with d := { w.d with grids := grids } }) ∧ (∀ n, n ∉ gs → w'.d.grid n = w.d.grid n) ∧
      ∀ a v, cellAt cs a = some v → t.accessGrid a ∈ gs → (w'.d.grid (t.accessGrid a)).Owns ((w.d.ctx c).ridOf rnum (32 * (a / 32))) a v := by
  induction gs generalizing w with
  | nil => exact ⟨⟨_, rfl⟩, fun _ _ => rfl, fun _ _ _ h => (List.not_mem_nil h).elim⟩
  | cons g r ih =>
    obtain ⟨hg, hr⟩ := List.nodup_cons.1 hgs
    have hputs : w.Puts (w.l1Write c rnum g (cs.filter (fun b => t.accessGrid b.1 == g))) c rnum g _ _ := W.l1Write_puts (by
      rw [hempty g (List.mem_cons_self ..), List.length_nil, Nat.zero_add]
      exact (linesOf_filter_length ..).trans hlines)
    rw [List.foldl_cons]
    generalize w.l1Write c rnum g (cs.filter (fun b => t.accessGrid b.1 == g)) = w1 at hputs
    obtain ⟨hrest, hother, hheld⟩ := ih hr (w := w1) fun n hn => by
      rw [hputs.other n fun h => hg (h ▸ hn)]
      exact hempty n (List.mem_cons_of_mem _ hn)
    have hctx : w1.d.ctx c = w.d.ctx c := by obtain ⟨_, h⟩ := hputs.rest; rw [h]; rfl
    refine ⟨?_, fun n hn => ?_, fun a v hv ha => ?_⟩
    · obtain ⟨_, rfl⟩ := hputs.rest
      obtain ⟨_, h⟩ := hrest
      exact ⟨_, h⟩
    · rw [List.mem_cons, not_or] at hn
      exact (hother n hn.2).trans (hputs.other n hn.1)
    · by_cases hag : t.accessGrid a = g
      · have hat : cellAt (cs.filter (fun b => t.accessGrid b.1 == g)) a = some v :=
          (cellAt_filter (p := fun x => t.accessGrid x == g) (by simp [hag])).trans hv
        rw [hag, hother g hg]
        exact hputs.held a v hat (.inl (mem_linesOf_of_cellAt hat))
      · have := hheld a v hv ((List.mem_cons.1 ha).resolve_left hag)
        rwa [hctx] at this

/-- What a change of every record of a table keeps. -/
theorem Tbl.look_map_kept {α β : Type} (t : Tbl α) (f : Nat × α → α) (keep : α → β) (h : ∀ p, keep (f p) = keep p.2) (k : Nat) :
    (Tbl.look (t.map fun p => (p.1, f p)) k).map keep = (t.look k).map keep := by
  induction t with
  | nil => rfl
  | cons p r ih =>
    obtain ⟨j, a⟩ := p
    by_cases hj : j = k
    · simp [Tbl.look, hj, h]
    · simpa [Tbl.look, hj] using ih

theorem Dev.patchBuffers_thr (d : Dev) (t : Thread) (cs : List Host.Cell) (n : Nat) :
    ((d.patchBuffers t cs).thr n).map Thread.noStreams = (d.thr n).map Thread.noStreams := by
  unfold Dev.patchBuffers Dev.thr
  dsimp only
  refine Tbl.look_map_kept d.threads _ Thread.noStreams (fun p => ?_) n
  rfl

/-- Committed bytes: streams and the L1s of the thread's grids change, and each byte stands, owned, in the L1 of its access grid. -/
theorem W.storeCells_spec {w : W} {t : Thread} {rnum : Nat} {cs : List Host.Cell} (hwidth : 0 < t.width)
    (hempty : ∀ g ∈ t.grids, (w.d.grid g).l1 = []) (hlines : (linesOf cs).length ≤ 8) :
    w.Stores (w.storeCells t rnum cs) ∧
      ∀ a v, cellAt cs a = some v → ((w.storeCells t rnum cs).d.grid (t.accessGrid a)).Owns ((w.d.ctx t.ctx).ridOf rnum (32 * (a / 32))) a v := by
  have hthr := w.d.patchBuffers_thr t cs
  have hparts : ∃ threads, w.d.patchBuffers t cs = { w.d with threads := threads } := ⟨_, rfl⟩
  unfold W.storeCells
  obtain ⟨threads, hp⟩ := hparts
  rw [hp] at hthr ⊢
  obtain ⟨⟨grids, hrest⟩, -, hheld⟩ := W.puts_grids (t := t) (c := t.ctx) (rnum := rnum) hlines t.grids_nodup
    (w := { w with d := { w.d with threads := threads } }) hempty
  refine ⟨⟨⟨grids, threads, hrest⟩, fun n => ?_⟩, fun a v hv => hheld a v hv (Thread.accessGrid_mem hwidth a)⟩
  dsimp only at hrest ⊢
  rw [hrest]
  exact hthr n

theorem W.performLogged_store {w : W} {tid : Nat} {x : Inst} {t : Thread} {cs : List Host.Cell} (ht : w.d.thr tid = some t)
    (hlog : (w.d.ctx t.ctx).logging = false) (hwidth : 0 < t.width) (hempty : ∀ g ∈ t.grids, (w.d.grid g).l1 = [])
    (hlines : (linesOf cs).length ≤ 8) :
    w.Stores (w.performLogged tid x (.store cs 0)) ∧
      ∀ a v, cellAt cs a = some v → ((w.performLogged tid x (.store cs 0)).d.grid (t.accessGrid a)).Owns
        ((w.d.ctx t.ctx).ridOf (w.d.rnumOf t) (32 * (a / 32))) a v := by
  obtain ⟨hs, hown⟩ := W.storeCells_spec (rnum := w.d.rnumOf t) hwidth hempty hlines
  have hput : w.putCells t (w.d.rnumOf t) cs = w.storeCells t (w.d.rnumOf t) cs := by
    have hctx : (w.storeCells t (w.d.rnumOf t) cs).d.ctx t.ctx = w.d.ctx t.ctx := by
      obtain ⟨_, _, h⟩ := hs.rest
      rw [h]; rfl
    unfold W.putCells
    simp only [hctx, hlog, Bool.false_eq_true, if_false]
  unfold W.performLogged W.perform
  simp only [ht, hlog, Bool.false_eq_true, if_false, hput, W.relLater, if_true, List.foldl_nil]
  refine ⟨hs.trans ⟨⟨_, _, rfl⟩, fun _ => rfl⟩, fun a v hv => ?_⟩
  obtain ⟨l, hl, hbyte⟩ := hown a v hv
  refine ⟨l, ?_, hbyte⟩
  rw [← hl]
  by_cases hg : t.accessGrid a = x.grid
  · rw [hg, Dev.grid_modGrid]
    rfl
  · rw [Dev.grid_modGrid_ne _ _ hg]

end Sys2Proof.Machine
end

section
/-!
PROOFS, 02 blocks and threads: what a commit writes.
-/

namespace Sys2Proof.Machine
open Claims

/-! ### The release of `halt` (05 R149, 09 R268) -/

namespace Dev.Settles

theorem begin_behind {w : W} {p : PageCmd} (hk : p.kind = .behind) (ho : p.owes = none) : w.d.Settles (w.begin_ p).d := by
  have hend : ∀ status word, w.pageEnd p.owes status word = w := fun status word => by rw [ho]; rfl
  unfold W.begin_
  simp only [hend, hk]
  cases w.namedLeaf p.page with
  | none => exact .refl _
  | some l =>
    dsimp only
    refine .ite (.refl _) (.ite (.ite (.refl _) (.refl _)) (.ite (.refl _) (.ite (.of_eq rfl rfl rfl) ?_)))
    exact (of_moves (W.Moves.setLeaf w p.page ..).dev).trans (.of_eq rfl rfl rfl)

theorem evictBehind (w : W) (c : Nat) (before after : Stream) : w.d.Settles (w.evictBehind c before after).d := by
  unfold W.evictBehind
  exact .foldl (fun w p => .ite (.ite (.raisePage ..) (.begin_behind rfl rfl)) (.refl _)) _ w

theorem flushPublished (w : W) (tid : Nat) (t : Thread) : w.d.Settles (w.flushPublished tid t).d := by
  unfold W.flushPublished
  refine (flushPicked ..).trans (.foldl (fun w s => .ite (.refl _) ?_) _ _)
  split
  · exact .evictBehind ..
  · exact .refl _

theorem relFirst (w : W) (tid : Nat) (t : Thread) (scope : Nat) : w.d.Settles (w.relFirst tid t scope).d := by
  unfold W.relFirst
  exact .ite (.refl _) ((Dev.Settles.ite (.flushPublished ..) (.refl _)).trans (.releaseNow ..))

theorem monument (w : W) (t : Thread) (kind addr seq : Nat) : w.d.Settles (w.monument t kind addr seq).d :=
  of_moves (W.Moves.logWrite ..).dev

end Dev.Settles

/-! ### What stands after a commit (02 R27, R28) -/

/-- The commit of an instance with stores alone, whose exit goes on. -/
theorem exec_blockCommit_goes {s : State} {x : Inst} {b : Block} {u : Thread} {e : ExitFired} (h : Commits s x b u) (he : x.exit = some e)
    (hhalt : e.opcode ≠ 0x36) (hstores : ∀ q ∈ x.effs, ∃ cs, q.2.2 = .store cs 0)
    (hbars : s.toW.effBars s.dev.arg.a x u x.ordered = .ok) (hs : (s.toW.relogged u.ctx).Stores ((s.toW.relogged u.ctx).effected x u).1)
    (hr : ((s.toW.relogged u.ctx).effected x u).2 = 0#64) :
    let w := (s.toW.relogged u.ctx).committed s.dev.arg.a x b u
    (s.toW.relogged u.ctx).Committed w s.dev.arg.a x b u ∧ exec .blockCommit s = .next { s with dev := w.d } := by
  intro w
  obtain ⟨hcom, hexec⟩ := exec_blockCommit h (fun q hq => .inl (hstores q hq)) hbars hs hr
  obtain ⟨-, -, -, -, ⟨-, -, -, hcomps, -, hend⟩, -⟩ := h
  obtain ⟨v, hv, hct⟩ := hcom.thr
  have hexit := W.exitCommit_goes hv he hhalt (hct.endAfter.trans hend) hstores
  have hctx : w.d.ctx u.ctx = s.dev.ctx u.ctx := (hcom.ctx u.ctx).trans (s.toW.relogged_ctx u.ctx u.ctx)
  have hmem : s.mem.writeAll w.ov.reverse = s.mem := by rw [hcom.ov]; rfl
  refine ⟨hcom, ?_⟩
  rw [hexit, hctx, hmem] at hexec
  exact hexec hcomps

theorem Inst.ordered_nil {x : Inst} (h : x.effs = []) : x.ordered = [] := by
  unfold Inst.ordered
  rw [h]
  rfl

/-- Nothing to perform. -/
theorem W.effected_none {w : W} {x : Inst} {t : Thread} (hu : w.d.thr x.thr = some t) (h : x.effs = []) :
    w.Stores (w.effected x t).1 ∧ (w.effected x t).2 = 0#64 := by
  have h0 := W.reflagged hu 0#64
  rw [W.effected_nil hu (Inst.ordered_nil h)]
  exact ⟨(h0.trans (W.reflagged h0.thr t.flags)).stores hu, rfl⟩

/-- Other threads of an instance without effects are as before. -/
theorem W.committed_thr_ne {w : W} {iid : Nat} {x : Inst} {b : Block} {t : Thread} (hu : w.d.thr x.thr = some t) (h : x.effs = []) {j : Nat}
    (hj : j ≠ x.thr) : (w.committed iid x b t).d.thr j = w.d.thr j := by
  unfold W.committed
  rw [W.effected_nil hu (Inst.ordered_nil h)]
  dsimp only
  obtain ⟨_, _, hret⟩ := Dev.retire_parts (((w.d.withFlags x.thr 0#64).withFlags x.thr t.flags).modThr x.thr
    (·.commit x b 0#64 ((w.d.withFlags x.thr 0#64).withFlags x.thr t.flags).cycle)) iid x t.ctx
  rw [hret]
  refine (Dev.thr_modThr_ne _ _ hj).trans ?_
  rw [Dev.withFlags_thr, if_neg hj, Dev.withFlags_thr, if_neg hj]

/-! ### The lines of a grid after a commit -/

theorem Dev.Flushes.dropPlacement (d : Dev) (t g placement fieldNo tag : Nat) : d.Flushes (d.dropPlacement t g placement fieldNo tag) := by
  unfold Dev.dropPlacement
  split
  · exact .refl _
  · refine (of_parts d d.insts d.flight _ d.waits d.unlocks).trans (.modGrid _ _ ?_)
    exact fun _ => rfl
theorem Dev.Flushes.l1 {d d' : Dev} (h : d.Flushes d') (g : Nat) : (d'.grid g).l1 = (d.grid g).l1 := (congrArg Grid.l1 (h.grid g) :)

/-- An instance that leaves leaves every line of every L1. -/
theorem Dev.l1_retire (d : Dev) (iid : Nat) (x : Inst) (c g : Nat) : ((d.retire iid x c).grid g).l1 = (d.grid g).l1 := by
  have hcount : ∀ (e : Dev) (n : Nat) (f : Grid → Grid), (∀ gr, (f gr).l1 = gr.l1) → ((e.modGrid n f).grid g).l1 = (e.grid g).l1 :=
    fun e n f hf => by
      by_cases h : g = n
      · rw [h, Dev.grid_modGrid, hf]
      · rw [Dev.grid_modGrid_ne _ _ h]
  have hdone : ∀ (f : FarTok → FarTok) (retained : List FarTok), d.Flushes { d with
      retained := retained, insts := d.insts.erase iid
      grids := d.grids.map (fun q => (q.1, { q.2 with overflow := q.2.overflow.map f })) } := fun f retained => by
    refine (Dev.Flushes.mapGrids d (f := fun g => { g with overflow := g.overflow.map f }) ?_).trans (.of_parts ..)
    exact fun _ => rfl
  unfold Dev.retire
  refine ((Dev.Flushes.ite (.dropPlacement ..) (.refl _)).trans (.gcPlanes ..)).l1 g |>.trans ?_
  refine (hcount _ _ _ ?_).trans ((hdone _ _).l1 g)
  exact fun _ => rfl
open Claims

theorem Grid.Owns.congr {gr gr' : Grid} {rid a : Nat} {v : Byte} (h : gr.Owns rid a v) (hl : gr'.l1 = gr.l1) : gr'.Owns rid a v := by
  unfold Grid.Owns Grid.l1Find at h ⊢
  rwa [hl]

theorem W.committed_l1 (w : W) (iid : Nat) (x : Inst) (b : Block) (t : Thread) (g : Nat) :
    ((w.committed iid x b t).d.grid g).l1 = ((w.effected x t).1.d.grid g).l1 := by
  unfold W.committed
  dsimp only
  rw [Dev.l1_retire, Dev.grid, Dev.grid, Dev.modThr_grids]

/-! ### The three commits -/

/-- An instance without effects. -/
theorem exec_blockCommit_nothing {s : State} {x : Inst} {b : Block} {u : Thread} {e : ExitFired} (h : Commits s x b u) (he : x.exit = some e)
    (heffs : x.effs = []) (hhalt : e.opcode ≠ 0x36) :
    ∃ t v, exec .blockCommit s = .next t ∧ t.mem = s.mem ∧ t.mgmt = s.mgmt ∧ t.dev.inst s.dev.arg.a = none ∧
      (∀ j, j ≠ s.dev.arg.a → t.dev.inst j = s.dev.inst j) ∧ t.dev.thr x.thr = some v ∧ Written u v x b ∧ v.next = u.next ∧
      v.ended = u.ended ∧ (∀ j, j ≠ x.thr → t.dev.thr j = s.dev.thr j) := by
  obtain ⟨-, -, hu, -⟩ := id h
  obtain ⟨hs, hr⟩ := W.effected_none (w := s.toW.relogged u.ctx) hu heffs
  obtain ⟨hcom, hexec⟩ := exec_blockCommit_goes h he hhalt (by simp [heffs]) (by rw [Inst.ordered_nil heffs]; rfl) hs hr
  obtain ⟨v, hv, hct⟩ := hcom.thr
  exact ⟨_, v, hexec, rfl, rfl, hcom.inst, fun j hj => hcom.inst_ne hj, hv, hct.written, hct.next, hct.ended,
    fun j hj => W.committed_thr_ne (w := s.toW.relogged u.ctx) hu heffs hj⟩

/-- A store. -/
theorem exec_blockCommit_store {s : State} {x : Inst} {b : Block} {u : Thread} {e : ExitFired} {l k : Nat} {cs : List Host.Cell}
    (h : Commits s x b u) (he : x.exit = some e) (heffs : x.effs = [(l, k, .store cs 0)]) (hhalt : e.opcode ≠ 0x36) (hwidth : 0 < u.width)
    (hempty : ∀ g ∈ u.grids, (s.dev.grid g).l1 = []) (hlines : (linesOf cs).length ≤ 8) :
    ∃ t v, exec .blockCommit s = .next t ∧ t.mem = s.mem ∧ t.dev.inst s.dev.arg.a = none ∧ t.dev.thr x.thr = some v ∧ Written u v x b ∧
      ∀ a w, cellAt cs a = some w →
        (t.dev.grid (u.accessGrid a)).Owns ((s.dev.ctx u.ctx).ridOf (s.dev.rnumOf u) (32 * (a / 32))) a w := by
  obtain ⟨-, -, hu, -, ⟨hundo, -⟩, -⟩ := id h
  have hlog : (s.dev.ctx u.ctx).logging = false := by rw [Ctx.logging, hundo]; rfl
  have hctx : ∀ c, (s.toW.relogged u.ctx).d.ctx c = s.dev.ctx c := s.toW.relogged_ctx u.ctx
  have hord := Inst.ordered_one heffs
  have hperf : ∀ w0 f, (s.toW.relogged u.ctx).Reflagged w0 x.thr u f → w0.Stores (w0.performLogged x.thr x (.store cs 0)) ∧
      ∀ a v, cellAt cs a = some v → ((w0.performLogged x.thr x (.store cs 0)).d.grid (u.accessGrid a)).Owns
        ((s.dev.ctx u.ctx).ridOf (s.dev.rnumOf u) (32 * (a / 32))) a v := fun w0 f hw0 => by
    have hthr := hw0.thr
    have hctx0 : w0.d.ctx u.ctx = s.dev.ctx u.ctx := by obtain ⟨_, hrest⟩ := hw0.rest; rw [hrest]; exact hctx u.ctx
    have hrev : w0.d.rnumOf { u with flags := f } = s.dev.rnumOf u := by obtain ⟨_, hrest⟩ := hw0.rest; rw [hrest]; rfl
    have hgrid : ∀ g, w0.d.grid g = s.dev.grid g := fun g => by obtain ⟨_, hrest⟩ := hw0.rest; rw [hrest]; rfl
    obtain ⟨hs, hown⟩ := W.performLogged_store (x := x) (cs := cs) hthr (by rw [hctx0]; exact hlog) hwidth
      (fun g hg => by rw [hgrid]; exact hempty g hg) hlines
    rw [hrev, hctx0] at hown
    exact ⟨hs, hown⟩
  obtain ⟨w0, f, hw0, hs, hgrids, hr⟩ := W.effected_one (w := s.toW.relogged u.ctx) hu hord fun w0 f hw0 => (hperf w0 f hw0).1
  obtain ⟨hcom, hexec⟩ := exec_blockCommit_goes h he hhalt (by simp [heffs]) (by rw [hord]; rfl) hs hr
  obtain ⟨v, hv, hct⟩ := hcom.thr
  refine ⟨_, v, hexec, rfl, hcom.inst, hv, hct.written, fun a v hav => ((hperf w0 f hw0).2 a v hav).congr ?_⟩
  refine (W.committed_l1 ..).trans ?_
  rw [Dev.grid, hgrids]
  rfl

/-- `halt`. -/
theorem exec_blockCommit_halt {s : State} {x : Inst} {b : Block} {u : Thread} {e : ExitFired} (h : Commits s x b u) (he : x.exit = some e)
    (heffs : x.effs = []) (hhalt : e.opcode = 0x36) (hended : u.ended = false) (hi : ∀ q ∈ s.dev.insts, q.2.thr = x.thr → q.1 = s.dev.arg.a) :
    ∃ t v, exec .blockCommit s = .next t ∧ t.dev.inst s.dev.arg.a = none ∧ t.dev.thr x.thr = some v ∧ Written u v x b ∧ v.ended = true ∧
      v.st = .idle ∧ v.slots = [] ∧ v.next = none := by
  obtain ⟨-, -, hu, -, ⟨-, -, -, hcomps, -⟩, -⟩ := id h
  obtain ⟨hs, hr⟩ := W.effected_none (w := s.toW.relogged u.ctx) hu heffs
  obtain ⟨hcom, hexec⟩ := exec_blockCommit h (by simp [Inst.Plain, heffs]) (by rw [Inst.ordered_nil heffs]; rfl) hs hr
  generalize (s.toW.relogged u.ctx).committed s.dev.arg.a x b u = w at hcom hexec
  obtain ⟨v, hv, hct⟩ := hcom.thr
  have hexit := W.exitCommit_halt hv he hhalt
  have hset : w.d.Settles ((w.relFirst x.thr v 2).monument v 5 0 x.seq).d := (Dev.Settles.relFirst ..).trans (.monument ..)
  generalize (w.relFirst x.thr v 2).monument v 5 0 x.seq = w1 at hexit hset
  obtain ⟨v1, hv1, hk⟩ := hset.thr_some hv
  have hnone : ∀ q ∈ (w1.d.dropLoops x.thr).insts, q.2.thr ≠ x.thr := fun q hq hthr => by
    rw [Dev.dropLoops_insts, hset.insts, hcom.insts] at hq
    obtain ⟨hq, hne⟩ := Tbl.mem_erase.1 hq
    exact hne (hi q hq hthr)
  have hct1 := hct.of_noStreams hk
  obtain ⟨hthr, hinsts, -⟩ := Dev.endThread_spec hv1 (hct1.ended.trans hended) v.endAfter
  rw [Dev.flushFrom_of_none hnone] at hthr hinsts
  have hdrop : (w1.d.dropLoops x.thr).thr x.thr = some v1 := (congrArg (Tbl.look · x.thr) (Dev.dropLoops_threads ..)).trans hv1
  rw [hdrop] at hthr
  rw [hexit] at hexec
  refine ⟨_, _, hexec ?_, ?_, hthr, hct1.written, rfl, rfl, rfl, rfl⟩
  · intro n hn
    obtain ⟨_, _, _, _, _, hmaps⟩ := hset.ctx u.ctx
    rw [Dev.ctx, Dev.endThread_ctxs]
    rw [Dev.ctx] at hmaps
    rw [hmaps]
    dsimp only
    rw [hcom.ctx, W.relogged_ctx]
    exact hcomps n hn
  · rw [Dev.inst, hinsts, Dev.dropLoops_insts, hset.insts]
    exact hcom.inst

/-- Settles O22: a commit that is not ready changes nothing; one that is writes its thread, and its effects change the streams and the
lines of the thread's grids alone. -/
theorem blockCommit : Obligations.BlockCommit := by
  intro s x b u iid
  refine ⟨fun hx hb hready => ?_, fun e h he heffs hhalt => exec_blockCommit_nothing h he heffs hhalt,
    fun e l k cs h he heffs hhalt hwidth hempty hlines => ?_, fun e h he heffs hhalt hended hi => exec_blockCommit_halt h he heffs hhalt hended hi⟩
  · simp only [exec, execBlockCommit, run_eq]
    rw [show s.toW.commit s.toW.d.arg.a = s.toW from W.commit_waits hx hb hready]
    rfl
  · obtain ⟨t, v, hexec, hmem, hinst, hv, hwritten, hown⟩ := exec_blockCommit_store h he heffs hhalt hwidth hempty hlines
    exact ⟨t, v, hexec, hmem, hinst, hv, hwritten, fun a w haw => hown a w haw⟩

end Sys2Proof.Machine
end

section
/-!
PROOFS, 03 numbers: lanes as they fire. What an instruction that only computes sends, and the lanes, the bits and the flags of the
tokens that it makes.
-/

namespace Sys2Proof.Machine
open Claims

/-! ### Firing -/

/-- An instruction that only computes, where it operates, sends what its meaning gives. -/
theorem runD_fire {i : Instr} {g : Opnds → Out} {s : State} {c : Firing} (h : Fires (prOf i) s c) :
    runD (fire i g) s = .next (sent s c (g c.ops).toks (g c.ops).flags) := by
  obtain ⟨hc, hp, hn⟩ := h
  rw [runD_eq, fire_some i g hc, outcome_holds hp hn]
  rfl

/-! ### Lanes and immediates (03 R54, 05 R121) -/

/-- A lane as a number is its bit field. -/
theorem lane_eq_elem (w : Nat) (v : Vec) (k : Nat) : lane w v k = (elem w v k).toNat := lane_eq_toNat w v k

/-- An integer, cut to a lane. -/
@[simp] theorem ofNat_wrap (n : Nat) (z : Int) : BitVec.ofNat n (wrap n z) = BitVec.ofInt n z := by
  rw [wrap_eq, BitVec.ofNat_toNat, BitVec.setWidth_eq]

/-- A lane as a number of its type. -/
theorem num_eq_value (ty : BitVec 4) (a : BitVec (tyBits ty)) : num ty a.toNat = value ty a := by
  unfold num value
  rw [sgn_eq _ _ a.isLt, BitVec.ofNat_toNat, BitVec.setWidth_eq]

/-- A signed field of a word. -/
theorem sbits_eq_toInt {n : Nat} (x : BitVec n) {hi lo : Nat} (h : lo ≤ hi) : sbits x hi lo = (x.extractLsb' lo (hi + 1 - lo)).toInt := by
  have hlt : bits x hi lo < 2 ^ (hi + 1 - lo) := Nat.mod_lt _ (Nat.two_pow_pos _)
  have hw : hi - lo = hi + 1 - lo - 1 := by omega
  have hbits : (x.extractLsb' lo (hi + 1 - lo)) = BitVec.ofNat _ (bits x hi lo) := by
    rw [bits_eq_toNat, BitVec.ofNat_toNat, BitVec.setWidth_eq]
  rw [hbits, ← sgn_eq _ _ hlt]
  simp only [sbits, sgn, hw, ge_iff_le]

/-- The second operand of a lane. -/
theorem bLane_eq_immOr (f : FmtG) (b : Vec) (k : Nat) : bLane f 15 0 b k = (immOr f (tyBits f.ty) b k).toNat := by
  unfold bLane immOr
  split
  · rw [wrap_eq, sbits_eq_toInt _ (Nat.zero_le _)]
    rfl
  · exact lane_eq_elem ..

/-! ### Tokens made from lanes -/

theorem elem_ofLanes (w : Nat) (l : List Nat) {k : Nat} (hk : k < 512 / w) : elem w (ofLanes w l) k = BitVec.ofNat w (l.getD k 0) := by
  apply BitVec.eq_of_toNat_eq
  rw [← lane_eq_elem, lane_ofLanes w l k (lane_fits hk), BitVec.toNat_ofNat]

theorem elem_ofLanes_map (w n : Nat) (g : Nat → Nat) {k : Nat} (hn : k < n) (hk : k < 512 / w) :
    elem w (ofLanes w ((List.range n).map g)) k = BitVec.ofNat w (g k) := extract_ofLanes_map w n g k hn (lane_fits hk)

/-- Bit k of a number made from bits. -/
theorem testBit_ofBits (l : List Bool) (k : Nat) : (ofBits l).testBit k = l.getD k false := by
  induction l generalizing k with
  | nil => simp [ofBits]
  | cons b r ih =>
    have hcons : ofBits (b :: r) = Nat.bit b (ofBits r) := by
      cases b <;> simp [ofBits, Nat.bit_val, Nat.add_comm]
    rw [hcons]
    cases k with
    | zero => simp
    | succ k => rw [Nat.testBit_bit_succ, ih, List.getD_cons_succ]

/-- Bit k of a predicate token (05 R128): the bits above the lane count are clear. -/
theorem getLsbD_prTok (n : Nat) (l : List Bool) {k : Nat} (hk : k < 512) :
    (prTok n (ofBits l)).getLsbD k = (decide (k < n) && l.getD k false) := by
  rw [prTok, BitVec.getLsbD_ofNat, Nat.testBit_mod_two_pow, testBit_ofBits, decide_eq_true hk, Bool.true_and]

theorem getLsbD_prTok_map (n : Nat) (g : Nat → Bool) {k : Nat} (hk : k < 512) :
    (prTok n (ofBits ((List.range n).map g))).getLsbD k = (decide (k < n) && g k) := by
  rw [getLsbD_prTok n _ hk]
  by_cases hn : k < n <;> simp [hn]

/-! ### Joined flags (03 R61) -/

theorem getLsbD_foldl_or (l : List (BitVec 6)) (a : BitVec 6) (b : Nat) :
    (l.foldl (· ||| ·) a).getLsbD b = true ↔ a.getLsbD b = true ∨ ∃ x ∈ l, x.getLsbD b = true := by
  induction l generalizing a with
  | nil => simp
  | cons x r ih => simp [ih, or_assoc]

/-- A flag of the joined lanes is one of some lane. -/
theorem getLsbD_joinFlags (l : List (BitVec 6)) (b : Nat) : (joinFlags l).getLsbD b = true ↔ ∃ x ∈ l, x.getLsbD b = true := by
  simp [joinFlags, getLsbD_foldl_or]

theorem getLsbD_joinFlags_map (n : Nat) (g : Nat → BitVec 6) (b : Nat) :
    (joinFlags ((List.range n).map g)).getLsbD b = true ↔ ∃ k < n, (g k).getLsbD b = true := by
  simp [getLsbD_joinFlags]

/-- The flags of lanes that each raise one flag or none. -/
theorem joinFlags_eq_ite {α : Type} (l : List α) (fl : BitVec 6) (p : α → Bool) :
    joinFlags (l.map (fun a => if p a then fl else 0#6)) = if l.any p then fl else 0#6 := by
  apply BitVec.eq_of_getLsbD_eq
  intro b _
  rw [Bool.eq_iff_iff, getLsbD_joinFlags]
  by_cases h : l.any p = true
  · obtain ⟨a, ha, hp⟩ := List.any_eq_true.1 h
    rw [if_pos h]
    refine ⟨?_, fun hb => ⟨_, List.mem_map_of_mem ha, by rwa [if_pos hp]⟩⟩
    rintro ⟨x, hx, hb⟩
    obtain ⟨a, -, rfl⟩ := List.mem_map.1 hx
    split at hb
    · exact hb
    · simp at hb
  · rw [if_neg h]
    refine ⟨?_, fun hb => by simp at hb⟩
    rintro ⟨x, hx, hb⟩
    obtain ⟨a, ha, rfl⟩ := List.mem_map.1 hx
    rw [if_neg fun hp => h (List.any_eq_true.2 ⟨a, ha, hp⟩)] at hb
    exact hb

/-! ### Instructions whose lanes, or bits, a function gives -/

/-- An instruction that computes its lanes one by one. -/
theorem laneOp_of_lanes {i : FmtG → Instr} {m : FmtG → Opnds → Nat → Nat} {g : FmtG → Opnds → (n : Nat) → Nat → BitVec n}
    (hpr : ∀ f, prOf (i f) = f.pr)
    (hexec : ∀ f s, exec (i f) s =
      runD (fire (i f) fun o => both f.t0 f.t1 (ofLanes (tyBits f.ty) ((List.range (laneCount f.ty)).map (m f o)))) s)
    (hlane : ∀ f o k, BitVec.ofNat (tyBits f.ty) (m f o k) = g f o (tyBits f.ty) k) : LaneOp i g := by
  intro f s c h
  refine ⟨_, (hexec f s).trans (runD_fire (by rwa [hpr])), fun k hk => ?_⟩
  exact (elem_ofLanes_map _ _ _ hk hk).trans (hlane f c.ops k)

/-- An instruction that computes the bits of a predicate one by one. -/
theorem predOp_of_bits {i : FmtG → Instr} {m : FmtG → Opnds → Nat → Bool} {g : FmtG → Opnds → (n : Nat) → Nat → Bool}
    (hpr : ∀ f, prOf (i f) = f.pr)
    (hexec : ∀ f s, exec (i f) s =
      runD (fire (i f) fun o => both f.t0 f.t1 (prTok (laneCount f.ty) (ofBits ((List.range (laneCount f.ty)).map (m f o))))) s)
    (hbit : ∀ f o k, m f o k = g f o (tyBits f.ty) k) : PredOp i g := by
  intro f s c h
  refine ⟨_, (hexec f s).trans (runD_fire (by rwa [hpr])), fun k hk => ?_⟩
  rw [getLsbD_prTok_map _ _ hk, hbit]
  rfl

end Sys2Proof.Machine
end

section
/-!
PROOFS, 03 numbers: the integer operations of a lane, as bit vectors, and the integer instructions.
-/

namespace Sys2Proof.Machine
open Claims

/-! ### The forms of the integer instructions -/

/-- An operation of the lanes of `a`. -/
theorem laneOp_of_int1 {i : FmtG → Instr} {m : FmtG → Nat → Nat → Nat} {g : FmtG → Opnds → (n : Nat) → Nat → BitVec n}
    (hpr : ∀ f, prOf (i f) = f.pr) (hexec : ∀ f s, exec (i f) s = runD (fire (i f) (int1 f (m f))) s)
    (hlane : ∀ f o k, BitVec.ofNat (tyBits f.ty) (m f (tyBits f.ty) (elem (tyBits f.ty) o.va k).toNat) = g f o (tyBits f.ty) k) :
    LaneOp i g := by
  refine laneOp_of_lanes (m := fun f o k => m f (tyBits f.ty) (lane (tyBits f.ty) o.va k)) hpr (fun f s => ?_) fun f o k => ?_
  · rw [hexec]
    congr 2
    funext o
    exact congrArg (fun l => both f.t0 f.t1 (ofLanes (tyBits f.ty) l)) (lanes_map ..)
  · rw [lane_eq_elem, hlane]

/-- An operation of the lanes of `a` and of `b` or the immediate. -/
theorem laneOp_of_int2 {i : FmtG → Instr} {m : FmtG → Nat → Nat → Nat → Nat} {g : FmtG → Opnds → (n : Nat) → Nat → BitVec n}
    (hpr : ∀ f, prOf (i f) = f.pr) (hexec : ∀ f s, exec (i f) s = runD (fire (i f) (int2 f (m f))) s)
    (hlane : ∀ f o k, BitVec.ofNat (tyBits f.ty) (m f (tyBits f.ty) (elem (tyBits f.ty) o.va k).toNat
      (immOr f (tyBits f.ty) o.vb k).toNat) = g f o (tyBits f.ty) k) : LaneOp i g :=
  laneOp_of_lanes hpr hexec fun f o k => by rw [lane_eq_elem, bLane_eq_immOr, hlane]

/-- An operation of the lanes of `a`, `b` and `c`. -/
theorem laneOp_of_int3 {i : FmtG → Instr} {m : FmtG → Nat → Nat → Nat → Nat → Nat} {g : FmtG → Opnds → (n : Nat) → Nat → BitVec n}
    (hpr : ∀ f, prOf (i f) = f.pr) (hexec : ∀ f s, exec (i f) s = runD (fire (i f) (int3 f (m f))) s)
    (hlane : ∀ f o k, BitVec.ofNat (tyBits f.ty) (m f (tyBits f.ty) (elem (tyBits f.ty) o.va k).toNat
      (elem (tyBits f.ty) o.vb k).toNat (elem (tyBits f.ty) o.vc k).toNat) = g f o (tyBits f.ty) k) : LaneOp i g :=
  laneOp_of_lanes hpr hexec fun f o k => by simp only [lane_eq_elem, hlane]

/-- A shift of the lanes of `a`. -/
theorem laneOp_of_shift {i : FmtG → Instr} {m : Nat → Nat → Nat → Nat} {g : FmtG → Opnds → (n : Nat) → Nat → BitVec n}
    (hpr : ∀ f, prOf (i f) = f.pr) (hexec : ∀ f s, exec (i f) s = runD (fire (i f) (intShift f m)) s)
    (hlane : ∀ f o k, BitVec.ofNat (tyBits f.ty) (m (tyBits f.ty) (elem (tyBits f.ty) o.va k).toNat
      (countOf f (tyBits f.ty) o.vb k)) = g f o (tyBits f.ty) k) : LaneOp i g :=
  laneOp_of_lanes hpr hexec fun f o k => by
    have hcount : (if immB f then bits f.x 6 0 else lane (tyBits f.ty) o.vb k) = countOf f (tyBits f.ty) o.vb k := by
      rw [countOf, bits_eq_toNat, lane_eq_elem]
    rw [hcount, lane_eq_elem, hlane]

/-! ### Operations of bit vectors (05 R123-R126) -/

section
variable {n : Nat} (a b : BitVec n)

theorem ofNat_laneNot : BitVec.ofNat n (laneNot n a.toNat) = ~~~a :=
  BitVec.eq_of_toNat_eq (by rw [BitVec.toNat_not, BitVec.toNat_ofNat, laneNot, Nat.mod_eq_of_lt (by have := a.isLt; omega)])

theorem ofNat_sub_of_two_pow : BitVec.ofNat n (a.toNat + 2 ^ n - b.toNat) = a - b :=
  BitVec.eq_of_toNat_eq (by rw [BitVec.toNat_sub, BitVec.toNat_ofNat]; congr 1; have := b.isLt; omega)

theorem ofNat_neg_of_two_pow : BitVec.ofNat n (2 ^ n - a.toNat) = -a :=
  BitVec.eq_of_toNat_eq (by rw [BitVec.toNat_neg, BitVec.toNat_ofNat])

/-- A lane shifted left is a product with a power of two. -/
theorem ofNat_mul_two_pow (c : Nat) : BitVec.ofNat n (a.toNat * 2 ^ c) = a <<< c :=
  BitVec.eq_of_toNat_eq (by rw [BitVec.toNat_shiftLeft, BitVec.toNat_ofNat, Nat.shiftLeft_eq])

theorem ofNat_laneShl (c : Nat) : BitVec.ofNat n (laneShl n a.toNat c) = a <<< c := by
  unfold laneShl
  split
  next h => exact (BitVec.shiftLeft_eq_zero h).symm
  next => rw [← ofNat_mul_two_pow]; exact BitVec.eq_of_toNat_eq (by simp)

theorem ofNat_laneShr (c : Nat) : BitVec.ofNat n (laneShr n a.toNat c) = a >>> c := by
  unfold laneShr
  split
  next h => exact (BitVec.ushiftRight_eq_zero h).symm
  next => exact BitVec.eq_of_toNat_eq (by
    rw [BitVec.toNat_ushiftRight, Nat.shiftRight_eq_div_pow, BitVec.toNat_ofNat,
      Nat.mod_eq_of_lt ((Nat.div_le_self ..).trans_lt a.isLt)])

theorem sgn_toNat : sgn n a.toNat = a.toInt := by
  rw [sgn_eq _ _ a.isLt, BitVec.ofNat_toNat, BitVec.setWidth_eq]

/-- A shift by the width or more gives copies of the sign (03 R68). -/
theorem toInt_div_two_pow_of_le {c : Nat} (h : n ≤ c) : a.toInt / 2 ^ c = if a.toInt < 0 then -1 else 0 := by
  have hpow : (2 : Int) ^ n ≤ 2 ^ c := pow_le_pow_right₀ (by norm_num) h
  have hlow : -(2 : Int) ^ n ≤ 2 * a.toInt := by have := BitVec.le_two_mul_toInt (x := a); exact this
  have hhigh : 2 * a.toInt < (2 : Int) ^ n := by have := BitVec.two_mul_toInt_lt (x := a); exact this
  split
  next hneg => exact Int.ediv_eq_neg_one_of_neg_of_le hneg (by omega)
  next hpos => exact Int.ediv_eq_zero_of_lt (by omega) (by omega)

theorem ofNat_laneSar (c : Nat) : BitVec.ofNat n (laneSar n a.toNat c) = a.sshiftRight c := by
  have hdiv : a.toInt / 2 ^ (if n ≤ c then n else c) = a.toInt / 2 ^ c := by
    split
    next h => rw [toInt_div_two_pow_of_le a le_rfl, toInt_div_two_pow_of_le a h]
    next => rfl
  rw [laneSar, ofNat_wrap, sgn_toNat, BitVec.sshiftRight, Int.shiftRight_eq_div_pow]
  push_cast
  rw [hdiv]

theorem ofNat_laneRotl (c : Nat) : BitVec.ofNat n (laneRotl n a.toNat c) = a.rotateLeft c := by
  apply BitVec.eq_of_toNat_eq
  have hlow : a.toNat / 2 ^ (n - c % n) < 2 ^ n := (Nat.div_le_self ..).trans_lt a.isLt
  rw [BitVec.toNat_rotateLeft, BitVec.toNat_ofNat, laneRotl, Nat.mod_mod, Nat.or_mod_two_pow, Nat.mod_eq_of_lt hlow,
    Nat.shiftLeft_eq, Nat.shiftRight_eq_div_pow]

/-- The first bit set from the top is the one that the logarithm gives. -/
theorem find_getMsbD_of_ne_zero (h : a.toNat ≠ 0) :
    (List.range n).find? (fun j => a.getMsbD j) = some (n - 1 - Nat.log2 a.toNat) := by
  have hlog : Nat.log2 a.toNat < n := (Nat.log2_lt h).2 a.isLt
  rw [List.find?_range_eq_some]
  refine ⟨?_, List.mem_range.2 (by omega), fun j hj => ?_⟩
  · rw [BitVec.getMsbD, decide_eq_true (by omega : n - 1 - Nat.log2 a.toNat < n), Bool.true_and,
      show n - 1 - (n - 1 - Nat.log2 a.toNat) = Nat.log2 a.toNat by omega]
    exact Nat.testBit_log2 h
  · have hbit : a.toNat.testBit (n - 1 - j) = false :=
      Nat.testBit_lt_two_pow ((Nat.log2_lt h).1 (by omega))
    simp [BitVec.getMsbD, BitVec.getLsbD, hbit]

theorem laneClz_eq : laneClz n a.toNat = ((List.range n).find? (fun j => a.getMsbD j)).getD n := by
  unfold laneClz
  split
  next h =>
    obtain rfl : a = 0#n := BitVec.eq_of_toNat_eq (by simpa using h)
    rw [List.find?_eq_none.2 fun j _ => by simp, Option.getD_none]
  next h => rw [find_getMsbD_of_ne_zero a h, Option.getD_some]

theorem sum_bitNat (x : Nat) (l : List Nat) : (l.map (bitNat x)).sum = l.countP (fun j => x.testBit j) := by
  induction l with
  | nil => rfl
  | cons j r ih =>
    rw [List.map_cons, List.sum_cons, ih, List.countP_cons, Nat.testBit_eq_decide_div_mod_eq, bitNat]
    rcases Nat.mod_two_eq_zero_or_one (x / 2 ^ j) with h | h <;> simp [h, Nat.add_comm]

theorem ofNat_laneBrev : BitVec.ofNat n (laneBrev n a.toNat) = a.reverse := by
  refine BitVec.eq_of_getLsbD_eq fun j hj => ?_
  rw [BitVec.getLsbD_ofNat, decide_eq_true hj, Bool.true_and, laneBrev, testBit_ofBits, BitVec.getLsbD_reverse, BitVec.getMsbD]
  simp [hj, BitVec.getLsbD]

/-- The field at a position replaced, and the bits below and above it kept. -/
theorem laneBfi_eq (pos len a b : Nat) :
    laneBfi pos len a b = 2 ^ pos * (2 ^ len * (a / 2 ^ pos / 2 ^ len) + b % 2 ^ len) + a % 2 ^ pos := by
  have ha := Nat.div_add_mod a (2 ^ pos)
  have hf := Nat.div_add_mod (a / 2 ^ pos) (2 ^ len)
  rw [laneBfi]
  have hsplit : a = 2 ^ pos * (2 ^ len * (a / 2 ^ pos / 2 ^ len)) + a / 2 ^ pos % 2 ^ len * 2 ^ pos + a % 2 ^ pos := by
    calc a = 2 ^ pos * (2 ^ len * (a / 2 ^ pos / 2 ^ len) + a / 2 ^ pos % 2 ^ len) + a % 2 ^ pos := by rw [hf, ha]
      _ = _ := by ring
  have hmul : 2 ^ pos * (2 ^ len * (a / 2 ^ pos / 2 ^ len) + b % 2 ^ len) =
      2 ^ pos * (2 ^ len * (a / 2 ^ pos / 2 ^ len)) + b % 2 ^ len * 2 ^ pos := by ring
  omega

theorem getLsbD_ofNat_laneBfi (pos len : Nat) {j : Nat} (hj : j < n) :
    (BitVec.ofNat n (laneBfi pos len a.toNat b.toNat)).getLsbD j =
      if pos ≤ j ∧ j < pos + len then b.getLsbD (j - pos) else a.getLsbD j := by
  rw [BitVec.getLsbD_ofNat, decide_eq_true hj, Bool.true_and, laneBfi_eq,
    Nat.testBit_two_pow_mul_add _ (Nat.mod_lt _ (Nat.two_pow_pos _)), Nat.testBit_two_pow_mul_add _ (Nat.mod_lt _ (Nat.two_pow_pos _))]
  simp only [Nat.testBit_mod_two_pow, Nat.testBit_div_two_pow, BitVec.getLsbD]
  by_cases hlow : j < pos
  · simp [hlow, show ¬pos ≤ j by omega]
  · by_cases hin : j < pos + len
    · simp [hlow, hin, show j - pos < len by omega, show pos ≤ j by omega]
    · simp [hlow, hin, show ¬j - pos < len by omega, show j - pos - len + len + pos = j by omega]
end

/-! ### Operations that the signedness of a type decides (05 R123, R126) -/

theorem tyMin_eq (ty : BitVec 4) : tyMin ty = if signedTy ty then -(2 ^ (tyBits ty - 1)) else 0 := by
  unfold tyMin
  push_cast
  rfl
theorem tyMax_eq (ty : BitVec 4) : tyMax ty = if signedTy ty then 2 ^ (tyBits ty - 1) - 1 else 2 ^ tyBits ty - 1 := by
  unfold tyMax
  push_cast
  rfl
theorem tyMin_nonpos (ty : BitVec 4) : tyMin ty ≤ 0 := by
  have := Nat.two_pow_pos (tyBits ty - 1)
  unfold tyMin
  split <;> omega
theorem tyMax_nonneg (ty : BitVec 4) : 0 ≤ tyMax ty := by
  have h1 := Nat.two_pow_pos (tyBits ty - 1)
  have h2 := Nat.two_pow_pos (tyBits ty)
  unfold tyMax
  split <;> omega

theorem clamp_eq_max_min (ty : BitVec 4) (z : Int) : clamp ty z = max (tyMin ty) (min (tyMax ty) z) := by
  have h1 := tyMin_nonpos ty
  have h2 := tyMax_nonneg ty
  unfold clamp
  split <;> (try split) <;> omega

theorem clamp_eq_clampTo (ty : BitVec 4) (z : Int) : clamp ty z = clampTo ty (tyBits ty) z := by
  rw [clamp_eq_max_min, tyMin_eq, tyMax_eq, clampTo]
  split <;> rfl

section
variable (ty : BitVec 4) (a b : BitVec (tyBits ty))

theorem ofNat_laneBfx (pos len : Nat) : BitVec.ofNat (tyBits ty) (laneBfx ty (tyBits ty) pos len a.toNat) =
    if signedTy ty then (a.extractLsb' pos len).signExtend (tyBits ty) else (a.extractLsb' pos len).setWidth (tyBits ty) := by
  have hfield : a.toNat / 2 ^ pos % 2 ^ len = (a.extractLsb' pos len).toNat := by
    rw [BitVec.extractLsb'_toNat, Nat.shiftRight_eq_div_pow]
  simp only [laneBfx, ofNat_wrap, hfield, sgn_toNat]
  split
  · rfl
  · rw [BitVec.ofInt_natCast, ← BitVec.ofNat_toNat]

theorem ofNat_laneDiv : BitVec.ofNat (tyBits ty) (laneDiv ty (tyBits ty) a.toNat b.toNat) =
    if b = 0#(tyBits ty) then BitVec.allOnes (tyBits ty) else if signedTy ty then a.sdiv b else a / b := by
  unfold laneDiv
  by_cases hb : b = 0#(tyBits ty)
  · subst hb
    exact BitVec.eq_of_toNat_eq (by simp [BitVec.toNat_allOnes])
  · rw [if_neg hb, if_neg (fun h => hb (BitVec.eq_of_toNat_eq (by simpa using h))), ofNat_wrap, num_eq_value, num_eq_value, value, value]
    split
    · exact BitVec.eq_of_toInt_eq (by rw [BitVec.toInt_ofInt, BitVec.toInt_sdiv])
    · rw [← Int.ofNat_tdiv, BitVec.ofInt_natCast]
      exact BitVec.eq_of_toNat_eq (by
        rw [BitVec.toNat_udiv, BitVec.toNat_ofNat, Nat.mod_eq_of_lt ((Nat.div_le_self ..).trans_lt a.isLt)])

theorem ofNat_laneRem : BitVec.ofNat (tyBits ty) (laneRem ty (tyBits ty) a.toNat b.toNat) =
    if b = 0#(tyBits ty) then a else if signedTy ty then a.srem b else a % b := by
  unfold laneRem
  by_cases hb : b = 0#(tyBits ty)
  · subst hb
    simp
  · rw [if_neg hb, if_neg (fun h => hb (BitVec.eq_of_toNat_eq (by simpa using h))), ofNat_wrap, num_eq_value, num_eq_value, value, value]
    split
    · rw [← BitVec.toInt_srem, BitVec.ofInt_toInt]
    · rw [← Int.ofNat_tmod, BitVec.ofInt_natCast]
      exact BitVec.eq_of_toNat_eq (by
        rw [BitVec.toNat_umod, BitVec.toNat_ofNat, Nat.mod_eq_of_lt ((Nat.mod_le ..).trans_lt a.isLt)])

/-- The number of a lane, cut to the lane, is the lane. -/
theorem ofInt_value : BitVec.ofInt (tyBits ty) (value ty a) = a := by
  unfold value
  split
  · exact BitVec.ofInt_toInt
  · rw [BitVec.ofInt_natCast, BitVec.ofNat_toNat, BitVec.setWidth_eq]

theorem ofNat_laneAbs : BitVec.ofNat (tyBits ty) (laneAbs ty (tyBits ty) a.toNat) = if value ty a < 0 then -a else a := by
  rw [laneAbs, ofNat_wrap, num_eq_value]
  split
  next h => rw [Int.ofNat_natAbs_of_nonpos h.le, BitVec.ofInt_neg, ofInt_value]
  next h => rw [Int.natAbs_of_nonneg (not_lt.1 h), ofInt_value]

theorem ofNat_laneMin : BitVec.ofNat (tyBits ty) (laneMin ty a.toNat b.toNat) = if value ty a ≤ value ty b then a else b := by
  rw [laneMin, num_eq_value, num_eq_value]
  split <;> exact (BitVec.ofNat_toNat ..).trans (BitVec.setWidth_eq _)

theorem ofNat_laneMax : BitVec.ofNat (tyBits ty) (laneMax ty a.toNat b.toNat) = if value ty a ≤ value ty b then b else a := by
  rw [laneMax, num_eq_value, num_eq_value]
  split <;> exact (BitVec.ofNat_toNat ..).trans (BitVec.setWidth_eq _)

theorem ofNat_laneDist : BitVec.ofNat (tyBits ty) (laneDist ty a.toNat b.toNat) = BitVec.ofInt (tyBits ty) |value ty a - value ty b| := by
  rw [laneDist, num_eq_value, num_eq_value, ← BitVec.ofInt_natCast, Int.natCast_natAbs]

/-- The average is exact before it is rounded down (05 R126). -/
theorem ofNat_laneAvg : BitVec.ofNat (tyBits ty) (laneAvg ty (tyBits ty) a.toNat b.toNat) =
    BitVec.ofInt (tyBits ty) ((value ty a + value ty b + 1) / 2) := by
  rw [laneAvg, ofNat_wrap, num_eq_value, num_eq_value]

theorem ofNat_laneMulh : BitVec.ofNat (tyBits ty) (laneMulh ty (tyBits ty) a.toNat b.toNat) =
    BitVec.ofInt (tyBits ty) (value ty a * value ty b / 2 ^ tyBits ty) := by
  rw [laneMulh, ofNat_wrap, num_eq_value, num_eq_value]
  push_cast
  rfl

theorem ofNat_adds : BitVec.ofNat (tyBits ty) (wrap (tyBits ty) (clamp ty (num ty a.toNat + num ty b.toNat))) =
    BitVec.ofInt (tyBits ty) (clampTo ty (tyBits ty) (value ty a + value ty b)) := by
  rw [ofNat_wrap, num_eq_value, num_eq_value, clamp_eq_clampTo]

theorem ofNat_subs : BitVec.ofNat (tyBits ty) (wrap (tyBits ty) (clamp ty (num ty a.toNat - num ty b.toNat))) =
    BitVec.ofInt (tyBits ty) (clampTo ty (tyBits ty) (value ty a - value ty b)) := by
  rw [ofNat_wrap, num_eq_value, num_eq_value, clamp_eq_clampTo]

end

/-! ### Addition with a carry lane (05 R127) -/

/-- The carry into a lane. -/
theorem bitNat_eq_ite (v : Vec) (k : Nat) : bitNat v.toNat k = if v.getLsbD k then 1 else 0 := by
  rw [bitNat, BitVec.getLsbD, Nat.testBit_eq_decide_div_mod_eq]
  rcases Nat.mod_two_eq_zero_or_one (v.toNat / 2 ^ k) with h | h <;> simp [h]

theorem exec_addc {f : FmtG} {s : State} {c : Firing} (h : Fires f.pr s c) : ∃ sum cout : Vec,
    exec (.addc f) s = .next (sent s c [(f.t0, .val sum), (f.t1, .val cout)]) ∧
    (∀ k < 512 / tyBits f.ty,
      elem (tyBits f.ty) sum k = elem (tyBits f.ty) c.ops.va k + immOr f (tyBits f.ty) c.ops.vb k +
        (if c.ops.vc.getLsbD k then 1#(tyBits f.ty) else 0#(tyBits f.ty))) ∧
    (∀ k < 512, cout.getLsbD k = decide (k < 512 / tyBits f.ty ∧
      2 ^ tyBits f.ty ≤ (elem (tyBits f.ty) c.ops.va k).toNat + (immOr f (tyBits f.ty) c.ops.vb k).toNat +
        (if c.ops.vc.getLsbD k then 1 else 0))) := by
  refine ⟨_, _, runD_fire (i := .addc f) h, fun k hk => ?_, fun k hk => ?_⟩
  · rw [elem_ofLanes_map _ _ _ hk hk, lane_eq_elem, bLane_eq_immOr, bitNat_eq_ite, BitVec.ofNat_add, BitVec.ofNat_add]
    congr 1
    · simp
    · split <;> rfl
  · rw [List.map_map, getLsbD_prTok_map _ _ hk]
    simp [lane_eq_elem, bLane_eq_immOr, bitNat_eq_ite]

/-! ### The integer instructions -/

/-- Settles O46: each instruction has one of four forms, and its operation is the one of the bit vectors. -/
theorem integerLanes : Obligations.IntegerLanes := by
  refine ⟨⟨?add, ?sub, ?mul, ?mad, ?neg, ?lea, ?and, ?or, ?xor, ?andn, ?not⟩,
    ⟨?mulh, ?div, ?rem, ?min, ?max, ?abs, ?adds, ?subs, ?avg, ?sad⟩,
    ⟨?shl, ?shr, ?sar, ?rotl, ?clz, ?popc, ?brev, ?bfx, ?bfi⟩, fun f s c h => exec_addc h⟩
  case add => exact laneOp_of_int2 (fun _ => rfl) (fun _ _ => rfl) fun f o k => by simp [BitVec.ofNat_add]
  case sub => exact laneOp_of_int2 (fun _ => rfl) (fun _ _ => rfl) fun f o k => ofNat_sub_of_two_pow ..
  case mul => exact laneOp_of_int2 (fun _ => rfl) (fun _ _ => rfl) fun f o k => by simp [BitVec.ofNat_mul]
  case mad => exact laneOp_of_int3 (fun _ => rfl) (fun _ _ => rfl) fun f o k => by simp [BitVec.ofNat_mul, BitVec.ofNat_add]
  case neg => exact laneOp_of_int1 (fun _ => rfl) (fun _ _ => rfl) fun f o k => ofNat_neg_of_two_pow _
  case lea =>
    refine laneOp_of_int3 (fun _ => rfl) (fun _ _ => rfl) fun f o k => ?_
    rw [BitVec.ofNat_add, ofNat_mul_two_pow, bits_eq_toNat, BitVec.ofNat_toNat, BitVec.setWidth_eq]
  case and => exact laneOp_of_int2 (fun _ => rfl) (fun _ _ => rfl) fun f o k => by simp [BitVec.ofNat_and]
  case or => exact laneOp_of_int2 (fun _ => rfl) (fun _ _ => rfl) fun f o k => by simp [BitVec.ofNat_or]
  case xor => exact laneOp_of_int2 (fun _ => rfl) (fun _ _ => rfl) fun f o k => by simp [BitVec.ofNat_xor]
  case andn => exact laneOp_of_int2 (fun _ => rfl) (fun _ _ => rfl) fun f o k => by simp [BitVec.ofNat_and, ofNat_laneNot]
  case not => exact laneOp_of_int1 (fun _ => rfl) (fun _ _ => rfl) fun f o k => ofNat_laneNot _
  case mulh => exact laneOp_of_int2 (fun _ => rfl) (fun _ _ => rfl) fun f o k => ofNat_laneMulh ..
  case div => exact laneOp_of_int2 (fun _ => rfl) (fun _ _ => rfl) fun f o k => ofNat_laneDiv ..
  case rem => exact laneOp_of_int2 (fun _ => rfl) (fun _ _ => rfl) fun f o k => ofNat_laneRem ..
  case min => exact laneOp_of_int2 (fun _ => rfl) (fun _ _ => rfl) fun f o k => ofNat_laneMin ..
  case max => exact laneOp_of_int2 (fun _ => rfl) (fun _ _ => rfl) fun f o k => ofNat_laneMax ..
  case abs => exact laneOp_of_int1 (fun _ => rfl) (fun _ _ => rfl) fun f o k => ofNat_laneAbs ..
  case adds => exact laneOp_of_int2 (fun _ => rfl) (fun _ _ => rfl) fun f o k => ofNat_adds ..
  case subs => exact laneOp_of_int2 (fun _ => rfl) (fun _ _ => rfl) fun f o k => ofNat_subs ..
  case avg => exact laneOp_of_int2 (fun _ => rfl) (fun _ _ => rfl) fun f o k => ofNat_laneAvg ..
  case sad => exact laneOp_of_int3 (fun _ => rfl) (fun _ _ => rfl) fun f o k => by simp [BitVec.ofNat_add, ofNat_laneDist]
  case shl => exact laneOp_of_shift (fun _ => rfl) (fun _ _ => rfl) fun f o k => ofNat_laneShl ..
  case shr => exact laneOp_of_shift (fun _ => rfl) (fun _ _ => rfl) fun f o k => ofNat_laneShr ..
  case sar => exact laneOp_of_shift (fun _ => rfl) (fun _ _ => rfl) fun f o k => ofNat_laneSar ..
  case rotl => exact laneOp_of_shift (fun _ => rfl) (fun _ _ => rfl) fun f o k => ofNat_laneRotl ..
  case clz => exact laneOp_of_int1 (fun _ => rfl) (fun _ _ => rfl) fun f o k => congrArg _ (laneClz_eq _)
  case popc => exact laneOp_of_int1 (fun _ => rfl) (fun _ _ => rfl) fun f o k => congrArg _ (sum_bitNat ..)
  case brev => exact laneOp_of_int1 (fun _ => rfl) (fun _ _ => rfl) fun f o k => ofNat_laneBrev _
  case bfx => exact laneOp_of_int1 (fun _ => rfl) (fun _ _ => rfl) fun f o k => by rw [bits_eq_toNat, bits_eq_toNat, ofNat_laneBfx]
  case bfi =>
    intro f s c h _
    refine ⟨_, runD_fire (i := .bfi f) h, fun k hk j hj => ?_⟩
    rw [elem_ofLanes_map _ _ _ hk hk, lane_eq_elem, lane_eq_elem, bits_eq_toNat, bits_eq_toNat]
    exact getLsbD_ofNat_laneBfi _ _ _ _ hj

end Sys2Proof.Machine
end

section
/-!
PROOFS, 03 numbers: exact values as rational numbers, and the arithmetic on them before rounding.
-/

namespace Sys2Proof.Machine
open Claims

/-! ### The rational number of a value -/

/-- A magnitude as a rational number. -/
def mag (n d : Nat) (e : Int) : ℚ := (n : ℚ) / d * 2 ^ e

/-- A magnitude with its sign. -/
def signedRat (s : Bool) (q : ℚ) : ℚ := if s then -q else q

theorem mag_pos {n d : Nat} (hn : n ≠ 0) (hd : d ≠ 0) (e : Int) : 0 < mag n d e := by
  have : 0 < n := Nat.pos_of_ne_zero hn
  have : 0 < d := Nat.pos_of_ne_zero hd
  unfold mag
  positivity

theorem signedRat_not (s : Bool) (q : ℚ) : signedRat (!s) q = -signedRat s q := by cases s <;> simp [signedRat]
theorem signedRat_bne (s t : Bool) (p q : ℚ) : signedRat (s != t) (p * q) = signedRat s p * signedRat t q := by
  cases s <;> cases t <;> simp [signedRat]
theorem signedRat_mul (s : Bool) (p q : ℚ) : signedRat s (p * q) = signedRat s p * q := by cases s <;> simp [signedRat]
theorem signedRat_neg_iff {q : ℚ} (hq : 0 < q) (s : Bool) : signedRat s q < 0 ↔ s = true := by
  cases s <;> simp [signedRat, hq, hq.le]
theorem signedRat_ne_zero {q : ℚ} (hq : 0 < q) (s : Bool) : signedRat s q ≠ 0 := by cases s <;> simp [signedRat, hq.ne']
theorem abs_signedRat {q : ℚ} (hq : 0 ≤ q) (s : Bool) : |signedRat s q| = q := by cases s <;> simp [signedRat, hq]

/-- A signed numerator as a rational number. -/
theorem cast_signedInt (s : Bool) (n : Nat) : (signedInt s n : ℚ) = signedRat s n := by cases s <;> simp [signedInt, signedRat]
theorem signedRat_natAbs (c : Int) : signedRat (decide (c < 0)) (c.natAbs : ℚ) = c := by
  rw [signedRat, Nat.cast_natAbs]
  split
  next h => rw [abs_of_neg (of_decide_eq_true h)]; simp
  next h => rw [abs_of_nonneg (by simpa using h)]

theorem ratOf_num {s : Bool} {n d : Nat} (hn : n ≠ 0) (hd : d ≠ 0) (e : Int) : ratOf (.num s n d e) = some (signedRat s (mag n d e)) := by
  cases s <;> simp [ratOf, hn, hd, signedRat, mag, neg_div]

/-- A finite value is a zero, or a sign and a magnitude above zero. -/
theorem ratOf_eq_some {x : FVal} {p : ℚ} (h : ratOf x = some p) :
    (∃ s, x = .zero s ∧ p = 0) ∨ ∃ s n d e, x = .num s n d e ∧ n ≠ 0 ∧ d ≠ 0 ∧ p = signedRat s (mag n d e) := by
  cases x with
  | nan q => simp [ratOf] at h
  | inf s => simp [ratOf] at h
  | zero s => exact .inl ⟨s, rfl, by simpa [ratOf] using h.symm⟩
  | num s n d e =>
    by_cases hz : n = 0 ∨ d = 0
    · simp [ratOf, hz] at h
    · obtain ⟨hn, hd⟩ := not_or.1 hz
      rw [ratOf_num hn hd, Option.some_inj] at h
      exact .inr ⟨s, n, d, e, rfl, hn, hd, h.symm⟩

theorem ratOf_isNan {x : FVal} {p : ℚ} (h : ratOf x = some p) : x.isNan = false := by
  obtain ⟨s, rfl, -⟩ | ⟨s, n, d, e, rfl, -⟩ := ratOf_eq_some h <;> rfl
theorem ratOf_snanFlag {x : FVal} {p : ℚ} (h : ratOf x = some p) : snanFlag [x] = 0#6 := by
  obtain ⟨s, rfl, -⟩ | ⟨s, n, d, e, rfl, -⟩ := ratOf_eq_some h <;> rfl
theorem ratOf_isZero {x : FVal} {p : ℚ} (h : ratOf x = some p) : x.isZero = true ↔ p = 0 := by
  obtain ⟨s, rfl, rfl⟩ | ⟨s, n, d, e, rfl, hn, hd, rfl⟩ := ratOf_eq_some h
  · simp [FVal.isZero]
  · simp [FVal.isZero, signedRat_ne_zero (mag_pos hn hd e)]

/-- A finite value that is 0 is a zero; one that is not is a number. -/
theorem eq_zero_of_ratOf {x : FVal} {p : ℚ} (h : ratOf x = some p) (hp : p = 0) : ∃ s, x = .zero s := by
  obtain ⟨s, rfl, -⟩ | ⟨s, n, d, e, rfl, hn, hd, rfl⟩ := ratOf_eq_some h
  · exact ⟨s, rfl⟩
  · exact absurd hp (signedRat_ne_zero (mag_pos hn hd e) s)
theorem eq_num_of_ratOf {x : FVal} {p : ℚ} (h : ratOf x = some p) (hp : p ≠ 0) :
    ∃ s n d e, x = .num s n d e ∧ n ≠ 0 ∧ d ≠ 0 ∧ p = signedRat s (mag n d e) := by
  obtain ⟨s, -, h0⟩ | hnum := ratOf_eq_some h
  · exact absurd h0 hp
  · exact hnum

/-! ### Powers of two as quotients -/

theorem pow2_fst_ne_zero (k : Int) : (pow2 k).1 ≠ 0 := by cases k <;> simp [pow2]
theorem pow2_snd_ne_zero (k : Int) : (pow2 k).2 ≠ 0 := by cases k <;> simp [pow2]
theorem pow2_eq (k : Int) : ((pow2 k).1 : ℚ) / (pow2 k).2 = 2 ^ k := by
  cases k with
  | ofNat n => simp [pow2]
  | negSucc n => simp [pow2, zpow_negSucc]
theorem pow2_of_nonneg {k : Int} (h : 0 ≤ k) : ((pow2 k).1 : ℚ) = 2 ^ k := by
  obtain ⟨n, rfl⟩ := Int.eq_ofNat_of_zero_le h
  simp [pow2]

/-! ### The exact sum (06 R161) -/

/-- The numerator of an exact sum over the common denominator and power of two. -/
theorem addNum_eq {s1 s2 : Bool} {n1 d1 n2 d2 : Nat} {e1 e2 : Int} (hd1 : d1 ≠ 0) (hd2 : d2 ≠ 0) :
    ∃ (c : Int) (e : Int), addNum s1 n1 d1 e1 s2 n2 d2 e2 = (if c = 0 then none else some (decide (c < 0), c.natAbs, d1 * d2, e)) ∧
      signedRat s1 (mag n1 d1 e1) + signedRat s2 (mag n2 d2 e2) = (c : ℚ) / (d1 * d2) * 2 ^ e := by
  refine ⟨_, _, rfl, ?_⟩
  have hd1 : (d1 : ℚ) ≠ 0 := by exact_mod_cast hd1
  have hd2 : (d2 : ℚ) ≠ 0 := by exact_mod_cast hd2
  generalize he : (if e1 ≤ e2 then e1 else e2) = e
  have he1 : e ≤ e1 := by split at he <;> omega
  have he2 : e ≤ e2 := by split at he <;> omega
  have hp1 : (2 : ℚ) ^ e1 = 2 ^ (e1 - e) * 2 ^ e := by rw [← zpow_add₀ two_ne_zero, sub_add_cancel]
  have hp2 : (2 : ℚ) ^ e2 = 2 ^ (e2 - e) * 2 ^ e := by rw [← zpow_add₀ two_ne_zero, sub_add_cancel]
  push_cast [cast_signedInt]
  rw [pow2_of_nonneg (sub_nonneg.2 he1), pow2_of_nonneg (sub_nonneg.2 he2), mag, mag, hp1, hp2]
  cases s1 <;> cases s2 <;> simp only [signedRat, if_true, Bool.false_eq_true, if_false] <;> field_simp

/-- The sum of two numbers as a value: a zero of the mode's sign, or the number. -/
theorem addNum_spec {s1 s2 : Bool} {n1 d1 n2 d2 : Nat} {e1 e2 : Int} (hd1 : d1 ≠ 0) (hd2 : d2 ≠ 0) :
    (addNum s1 n1 d1 e1 s2 n2 d2 e2 = none ∧ signedRat s1 (mag n1 d1 e1) + signedRat s2 (mag n2 d2 e2) = 0) ∨
    ∃ s n d e, addNum s1 n1 d1 e1 s2 n2 d2 e2 = some (s, n, d, e) ∧ n ≠ 0 ∧ d ≠ 0 ∧
      signedRat s1 (mag n1 d1 e1) + signedRat s2 (mag n2 d2 e2) = signedRat s (mag n d e) := by
  obtain ⟨c, e, hadd, hsum⟩ := addNum_eq (s1 := s1) (s2 := s2) (n1 := n1) (n2 := n2) (e1 := e1) (e2 := e2) hd1 hd2
  rw [hadd, hsum]
  by_cases hc : c = 0
  · exact .inl ⟨if_pos hc, by simp [hc]⟩
  · refine .inr ⟨_, _, _, _, if_neg hc, Int.natAbs_ne_zero.2 hc, Nat.mul_ne_zero hd1 hd2, ?_⟩
    rw [mag, signedRat_mul, div_eq_mul_inv, div_eq_mul_inv, signedRat_mul, signedRat_natAbs]
    push_cast
    rfl

section
variable {x y z : FVal} {p q r : ℚ}

theorem fAdd_exact (rm : Rm) (hx : ratOf x = some p) (hy : ratOf y = some q) :
    ratOf (fAdd rm x y).v = some (p + q) ∧ (fAdd rm x y).fl = 0#6 := by
  obtain ⟨s, rfl, rfl⟩ | ⟨s, n, d, e, rfl, hn, hd, rfl⟩ := ratOf_eq_some hx <;>
    obtain ⟨s', rfl, rfl⟩ | ⟨s', n', d', e', rfl, hn', hd', rfl⟩ := ratOf_eq_some hy
  · simp only [fAdd]
    split <;> simp [ratOf]
  · simpa [fAdd] using hy
  · simpa [fAdd] using hx
  · obtain ⟨hadd, hsum⟩ | ⟨s'', n'', d'', e'', hadd, hn'', hd'', hsum⟩ := addNum_spec (s1 := s) (s2 := s') (n1 := n) (n2 := n')
      (e1 := e) (e2 := e') hd hd'
    · simp only [fAdd, hadd, hsum]
      exact ⟨rfl, trivial⟩
    · simp only [fAdd, hadd, hsum]
      exact ⟨ratOf_num hn'' hd'' e'', trivial⟩

/-- An exact zero sum of numbers has the sign that the mode gives it (06 R161). -/
theorem fAdd_cancel (rm : Rm) (hx : ratOf x = some p) (hy : ratOf y = some q) (hsum : p + q = 0) (hp : p ≠ 0) :
    (fAdd rm x y).v = .zero (rm == .down) := by
  obtain ⟨s, n, d, e, rfl, hn, hd, rfl⟩ := eq_num_of_ratOf hx hp
  obtain ⟨s', n', d', e', rfl, hn', hd', rfl⟩ := eq_num_of_ratOf hy (fun h => hp (by rwa [h, add_zero] at hsum))
  obtain ⟨hadd, -⟩ | ⟨s'', n'', d'', e'', -, hn'', hd'', h⟩ := addNum_spec (s1 := s) (s2 := s') (n1 := n) (n2 := n')
      (e1 := e) (e2 := e') hd hd'
  · simp only [fAdd, hadd]
  · exact absurd (h.symm.trans hsum) (signedRat_ne_zero (mag_pos hn'' hd'' e'') s'')

theorem fMul_exact (hx : ratOf x = some p) (hy : ratOf y = some q) : ratOf (fMul x y).v = some (p * q) ∧ (fMul x y).fl = 0#6 := by
  obtain ⟨s, rfl, rfl⟩ | ⟨s, n, d, e, rfl, hn, hd, rfl⟩ := ratOf_eq_some hx <;>
    obtain ⟨s', rfl, rfl⟩ | ⟨s', n', d', e', rfl, hn', hd', rfl⟩ := ratOf_eq_some hy
  · simp [fMul, ratOf]
  · simp [fMul, ratOf]
  · simp [fMul, ratOf]
  · refine ⟨?_, rfl⟩
    rw [fMul, ratOf_num (Nat.mul_ne_zero hn hn') (Nat.mul_ne_zero hd hd'), ← signedRat_bne]
    congr 2
    rw [mag, mag, mag, zpow_add₀ two_ne_zero]
    push_cast
    ring

theorem fFma_exact (rm : Rm) (hx : ratOf x = some p) (hy : ratOf y = some q) (hz : ratOf z = some r) :
    ratOf (fFma rm x y z).v = some (p * q + r) ∧ (fFma rm x y z).fl = 0#6 := by
  obtain ⟨hmul, hfl⟩ := fMul_exact hx hy
  obtain ⟨hadd, hfl'⟩ := fAdd_exact rm hmul hz
  exact ⟨hadd, by simp [fFma, hfl, hfl', ratOf_snanFlag hz]⟩

theorem fDiv_exact (hx : ratOf x = some p) (hy : ratOf y = some q) (hq : q ≠ 0) :
    ratOf (fDiv x y).v = some (p / q) ∧ (fDiv x y).fl = 0#6 := by
  obtain ⟨s', n', d', e', rfl, hn', hd', rfl⟩ := eq_num_of_ratOf hy hq
  obtain ⟨s, rfl, rfl⟩ | ⟨s, n, d, e, rfl, hn, hd, rfl⟩ := ratOf_eq_some hx
  · simp [fDiv, ratOf]
  · refine ⟨?_, rfl⟩
    have hn'' : (n' : ℚ) ≠ 0 := by exact_mod_cast hn'
    have hd'' : (d' : ℚ) ≠ 0 := by exact_mod_cast hd'
    have hd''' : (d : ℚ) ≠ 0 := by exact_mod_cast hd
    have hmag : mag (n * d') (d * n') (e - e') = mag n d e / mag n' d' e' := by
      rw [mag, mag, mag, zpow_sub₀ two_ne_zero]
      push_cast
      field_simp
    rw [fDiv, ratOf_num (Nat.mul_ne_zero hn hd') (Nat.mul_ne_zero hd hn'), hmag]
    cases s <;> cases s' <;> simp [signedRat, div_neg, neg_div]

/-- A finite value above or below zero by zero (06 R161). -/
theorem fDiv_by_zero (hx : ratOf x = some p) (hy : ratOf y = some q) (hp : p ≠ 0) (hq : q = 0) :
    fDiv x y = ⟨.inf (x.sign != y.sign), fDZ⟩ := by
  obtain ⟨s, n, d, e, rfl, -⟩ := eq_num_of_ratOf hx hp
  obtain ⟨t, rfl⟩ := eq_zero_of_ratOf hy hq
  rfl
theorem fDiv_zero_by_zero (hx : ratOf x = some p) (hy : ratOf y = some q) (hp : p = 0) (hq : q = 0) : fDiv x y = ⟨.nan false, fNV⟩ := by
  obtain ⟨s, rfl⟩ := eq_zero_of_ratOf hx hp
  obtain ⟨t, rfl⟩ := eq_zero_of_ratOf hy hq
  rfl

theorem ratOf_neg (hx : ratOf x = some p) : ratOf x.neg = some (-p) := by
  obtain ⟨s, rfl, rfl⟩ | ⟨s, n, d, e, rfl, hn, hd, rfl⟩ := ratOf_eq_some hx
  · simp [FVal.neg, FVal.setSign, ratOf]
  · rw [FVal.neg, FVal.setSign, FVal.sign, ratOf_num hn hd, signedRat_not]

theorem ratOf_scale (hx : ratOf x = some p) (k : Int) : ratOf (x.scale k) = some (p * 2 ^ k) := by
  obtain ⟨s, rfl, rfl⟩ | ⟨s, n, d, e, rfl, hn, hd, rfl⟩ := ratOf_eq_some hx
  · simp [FVal.scale, ratOf]
  · rw [FVal.scale, ratOf_num hn hd, ← signedRat_mul]
    congr 2
    rw [mag, mag, zpow_add₀ two_ne_zero, mul_assoc]

/-! ### Comparison (03 R57) -/

/-- The comparison of finite values is the sign of their difference. -/
theorem fCmp_exact (hx : ratOf x = some p) (hy : ratOf y = some q) : (fCmp x y < 0 ↔ p < q) ∧ (fCmp x y = 0 ↔ p = q) := by
  obtain ⟨s, rfl, rfl⟩ | ⟨s, n, d, e, rfl, hn, hd, rfl⟩ := ratOf_eq_some hx <;>
    obtain ⟨s', rfl, rfl⟩ | ⟨s', n', d', e', rfl, hn', hd', rfl⟩ := ratOf_eq_some hy
  · simp [fCmp]
  · have h := mag_pos hn' hd' e'
    cases s' <;> simp [fCmp, FVal.sign, signedRat, h, h.le, h.ne, h.ne']
  · have h := mag_pos hn hd e
    cases s <;> simp [fCmp, FVal.sign, signedRat, h, h.le, h.ne']
  · have hdiff := addNum_spec (s1 := s) (s2 := !s') (n1 := n) (n2 := n') (e1 := e) (e2 := e') hd hd'
    rw [signedRat_not, ← sub_eq_add_neg] at hdiff
    obtain ⟨hadd, hsub⟩ | ⟨s'', n'', d'', e'', hadd, hn'', hd'', hsub⟩ := hdiff
    · simp [fCmp, hadd, sub_eq_zero.1 hsub]
    · have hpos := mag_pos hn'' hd'' e''
      have hlt : signedRat s (mag n d e) < signedRat s' (mag n' d' e') ↔ s'' = true := by
        rw [← sub_neg, hsub, signedRat_neg_iff hpos]
      have hne : signedRat s (mag n d e) ≠ signedRat s' (mag n' d' e') := fun h =>
        signedRat_ne_zero hpos s'' (hsub.symm.trans (sub_eq_zero.2 h))
      simp only [fCmp, hadd, hlt, hne, iff_false]
      cases s'' <;> simp

theorem fMin_exact (hx : ratOf x = some p) (hy : ratOf y = some q) : ratOf (fMin x y).v = some (min p q) := by
  obtain ⟨hlt, heq⟩ := fCmp_exact hx hy
  simp only [fMin, ratOf_isNan hx, ratOf_isNan hy, Bool.or_false, Bool.false_eq_true, if_false, Bool.and_eq_true, ratOf_isZero hx,
    ratOf_isZero hy]
  split
  next h => simp [ratOf, h.1, h.2]
  next =>
    have hle : fCmp x y ≤ 0 ↔ p ≤ q := by rw [le_iff_lt_or_eq, hlt, heq, le_iff_lt_or_eq]
    split
    next h => rw [hx, min_eq_left (hle.1 h)]
    next h => rw [hy, min_eq_right (le_of_not_ge (hle.not.1 h))]

theorem fMax_exact (hx : ratOf x = some p) (hy : ratOf y = some q) : ratOf (fMax x y).v = some (max p q) := by
  obtain ⟨hlt, -⟩ := fCmp_exact hx hy
  simp only [fMax, ratOf_isNan hx, ratOf_isNan hy, Bool.or_false, Bool.false_eq_true, if_false, Bool.and_eq_true, ratOf_isZero hx,
    ratOf_isZero hy]
  split
  next h => simp [ratOf, h.1, h.2]
  next =>
    split
    next h => rw [hy, max_eq_right (hlt.1 h).le]
    next h => rw [hx, max_eq_left (not_lt.1 (hlt.not.1 h))]

/-- A finite value below zero is a number with the sign set. -/
theorem eq_num_of_neg (hx : ratOf x = some p) (hp : p < 0) : ∃ n d e, x = .num true n d e := by
  obtain ⟨s, n, d, e, rfl, hn, hd, rfl⟩ := eq_num_of_ratOf hx hp.ne
  obtain rfl := (signedRat_neg_iff (mag_pos hn hd e) s).1 hp
  exact ⟨n, d, e, rfl⟩

end

/-- Settles O3, operation by operation. -/
theorem exactArithmetic : Obligations.ExactArithmetic := by
  intro rm x y z p q r hx hy hz
  refine ⟨fAdd_exact rm hx hy, fMul_exact hx hy, fFma_exact rm hx hy hz, fDiv_exact hx hy, fDiv_by_zero hx hy, fDiv_zero_by_zero hx hy,
    ratOf_neg hx, ratOf_scale hx, fMin_exact hx hy, fMax_exact hx hy, (fCmp_exact hx hy).1, (fCmp_exact hx hy).2, fAdd_cancel rm hx hy,
    fun hp hq hs => ?_, fun hp hq hs => ?_, fun hp => ?_⟩
  · obtain ⟨s, rfl⟩ := eq_zero_of_ratOf hx hp
    obtain ⟨t, rfl⟩ := eq_zero_of_ratOf hy hq
    simp only [fAdd, if_neg (show s ≠ t from hs)]
  · obtain ⟨s, rfl⟩ := eq_zero_of_ratOf hx hp
    obtain ⟨t, rfl⟩ := eq_zero_of_ratOf hy hq
    simp only [fAdd, if_pos (show s = t from hs), FVal.sign]
  · obtain ⟨n, d, e, rfl⟩ := eq_num_of_neg hx hp
    rfl

end Sys2Proof.Machine
end

section
/-!
PROOFS, 03 numbers: the lanes of the floating operations, each rounded once, and the special inputs of the transcendentals.
-/

namespace Sys2Proof.Machine
open Claims

/-! ### Lanes read as values (06 R157) -/

theorem FVal.scale_zero (v : FVal) : v.scale 0 = v := by
  cases v <;> simp [FVal.scale]

theorem readBits_eq (t : BitVec 4) (fzi : Bool) (e : Int) (x : Nat) :
    readBits t fzi e x = (if fzi = true ∧ isSubnormal t x = true then FVal.zero (decodeF t x).sign else decodeF t x).scale e := by
  rw [readBits]
  split
  next h => rw [h, FVal.scale_zero]; simp
  next => simp

/-- A lane as the model reads it is the lane that the rule reads. -/
theorem readF_eq_readLane (f : FmtG) (pre : Option (BitVec 4 × Int)) (v : Vec) (k : Nat) :
    readF f.ty (f.fzi == 1#1) pre v k = readLane f pre v k := by
  cases pre with
  | none => simp [readF, readLane, readBits_eq, lane_eq_elem, FVal.scale_zero]
  | some p => simp [readF, readLane, readBits_eq, lane_eq_elem]

theorem pre_eq_prefixOf (o : Opnds) : o.pre = prefixOf o := rfl

theorem plainF_va (f : FmtG) (o : Opnds) (k : Nat) : plainF f o.va k = fa f o k := readF_eq_readLane ..
theorem plainF_vb (f : FmtG) (o : Opnds) (k : Nat) : plainF f o.vb k = fb f o k := readF_eq_readLane ..
theorem plainF_vc (f : FmtG) (o : Opnds) (k : Nat) : plainF f o.vc k = fc f o k := readF_eq_readLane ..
theorem scaledF_va (f : FmtG) (o : Opnds) (k : Nat) : scaledF f o o.va k = pa f o k := readF_eq_readLane ..
theorem scaledF_vb (f : FmtG) (o : Opnds) (k : Nat) : scaledF f o o.vb k = pb f o k := readF_eq_readLane ..

/-- Without a prefix a lane is read in its own type. -/
theorem pa_eq_fa (f : FmtG) {o : Opnds} (h : noPrefix f o) (k : Nat) : pa f o k = fa f o k := by
  rw [pa, prefixOf, show o.f = none from h, fa]
theorem pb_eq_fb (f : FmtG) {o : Opnds} (h : noPrefix f o) (k : Nat) : pb f o k = fb f o k := by
  rw [pb, prefixOf, show o.f = none from h, fb]

/-! ### Rounded lanes (03 R61, 06 R159) -/

/-- The lanes of an instruction that rounds each lane once, and its flags. -/
theorem exec_roundLanes {i : Instr} {f : FmtG} {dt : BitVec 4} {m : Opnds → Nat → FRes} {s : State} {c : Firing} (h : Fires (prOf i) s c)
    (hexec : exec i s = runD (fire i fun o => roundLanes f dt ((List.range (laneCount dt)).map (m o))) s) :
    ∃ (v : Vec) (fl : BitVec 6), exec i s = .next (sent s c (toBoth f v) fl) ∧
      (∀ k < 512 / tyBits dt, elem (tyBits dt) v k = BitVec.ofNat _ (roundedTo f dt (m c.ops k)).1) ∧
      (∀ b < 6, fl.getLsbD b = true ↔ ∃ k < 512 / tyBits dt, (roundedTo f dt (m c.ops k)).2.getLsbD b = true) := by
  refine ⟨_, _, hexec.trans (runD_fire h), fun k hk => ?_, fun b _ => ?_⟩
  · rw [List.map_map, List.map_map]
    exact elem_ofLanes_map _ _ _ hk hk
  · simp only [roundLanes, both, List.map_map]
    exact getLsbD_joinFlags_map ..

theorem floatOp_of_lanes {i : FmtG → Instr} {ok : FmtG → Opnds → Prop} {m g : FmtG → Opnds → Nat → FRes} (hpr : ∀ f, prOf (i f) = f.pr)
    (hexec : ∀ f s, exec (i f) s = runD (fire (i f) fun o => roundLanes f f.ty ((List.range (laneCount f.ty)).map (m f o))) s)
    (hlane : ∀ f o, ok f o → ∀ k, m f o k = g f o k) : FloatOp i ok (·.ty) g := by
  intro f s c h hok
  obtain ⟨v, fl, hnext, hlanes, hflags⟩ := exec_roundLanes (by rwa [hpr]) (hexec f s)
  simp only [hlane f c.ops hok] at hlanes hflags
  exact ⟨v, fl, hnext, hlanes, hflags⟩

/-- An operation of `a` alone. -/
theorem floatOp_of_float1 {i : FmtG → Instr} {g : FVal → FRes} (hpr : ∀ f, prOf (i f) = f.pr)
    (hexec : ∀ f s, exec (i f) s = runD (fire (i f) (float1 f g)) s) : FloatOp i anyForm (·.ty) (fun f o k => g (fa f o k)) :=
  floatOp_of_lanes hpr hexec fun f o _ k => congrArg g (plainF_va f o k)

/-- An operation of `a` and `b` under a prefix. -/
theorem floatOp_of_float2 {i : FmtG → Instr} {g : Rm → FVal → FVal → FRes} (hpr : ∀ f, prOf (i f) = f.pr)
    (hexec : ∀ f s, exec (i f) s = runD (fire (i f) (float2 f g)) s) :
    FloatOp i anyForm (·.ty) (fun f o k => g (rmOf f.rm) (pa f o k) (pb f o k)) :=
  floatOp_of_lanes hpr hexec fun f o _ k => by rw [scaledF_va, scaledF_vb]

/-- An operation of `a` and `b` that takes no prefix. -/
theorem floatOp_of_float2_plain {i : FmtG → Instr} {g : FVal → FVal → FRes} (hpr : ∀ f, prOf (i f) = f.pr)
    (hexec : ∀ f s, exec (i f) s = runD (fire (i f) (float2 f fun _ => g)) s) :
    FloatOp i noPrefix (·.ty) (fun f o k => g (fa f o k) (fb f o k)) :=
  floatOp_of_lanes hpr hexec fun f o h k => by rw [scaledF_va, scaledF_vb, pa_eq_fa f h, pb_eq_fb f h]

/-- An operation of `a`, `b` under a prefix and `c`. -/
theorem floatOp_of_float3 {i : FmtG → Instr} {g : Rm → FVal → FVal → FVal → FRes} (hpr : ∀ f, prOf (i f) = f.pr)
    (hexec : ∀ f s, exec (i f) s = runD (fire (i f) (float3 f g)) s) :
    FloatOp i anyForm (·.ty) (fun f o k => g (rmOf f.rm) (pa f o k) (pb f o k) (fc f o k)) :=
  floatOp_of_lanes hpr hexec fun f o _ k => by rw [scaledF_va, scaledF_vb, plainF_vc]

/-- The sign bit of a lane (06 R164). -/
theorem laneSign_eq (ty : BitVec 4) (v : Vec) (k : Nat) : laneSign ty v k = (elem (tyBits ty) v k).getLsbD (tyBits ty - 1) := by
  rw [laneSign, lane_eq_elem, BitVec.getLsbD]

/-- The exponent of `fscale`, clamped (06 R167). -/
theorem fscaleN_eq (f : FmtG) (b : Vec) (k : Nat) : fscaleN f b k = scaleBy f b k := by
  have hexp : (if immB f then sbits f.x 15 0 else sgn (tyBits f.ty) (lane (tyBits f.ty) b k)) =
      if immB f then (f.x.extractLsb' 0 16).toInt else (elem (tyBits f.ty) b k).toInt := by
    rw [sbits_eq_toInt _ (Nat.zero_le _), lane_eq_elem, sgn_toNat]
  rw [fscaleN, hexp, scaleBy]
  split <;> (try split) <;> omega

/-- Settles O2: each instruction has one of four forms, and reads its lanes as the rules do. -/
theorem floatLanes : Obligations.FloatLanes := by
  refine ⟨?fadd, ?fsub, ?fmul, ?fma, ?fms, ?fnma, ?fmin, ?fmax, ?fabs, ?fneg, ?fcopysign, ?fdiv, ?fsqrt, ?fclamp, ?fscale⟩
  case fadd => exact floatOp_of_float2 (fun _ => rfl) fun _ _ => rfl
  case fsub => exact floatOp_of_float2 (g := fun rm a b => fAdd rm a b.neg) (fun _ => rfl) fun _ _ => rfl
  case fmul => exact floatOp_of_float2 (g := fun _ a b => fMul a b) (fun _ => rfl) fun _ _ => rfl
  case fma => exact floatOp_of_float3 (fun _ => rfl) fun _ _ => rfl
  case fms => exact floatOp_of_float3 (g := fun rm a b c => fFma rm a b c.neg) (fun _ => rfl) fun _ _ => rfl
  case fnma => exact floatOp_of_float3 (g := fun rm a b c => fFma rm a.neg b c) (fun _ => rfl) fun _ _ => rfl
  case fmin => exact floatOp_of_float2_plain (fun _ => rfl) fun _ _ => rfl
  case fmax => exact floatOp_of_float2_plain (fun _ => rfl) fun _ _ => rfl
  case fabs => exact floatOp_of_float1 (g := fun a => signOp [a] a false) (fun _ => rfl) fun _ _ => rfl
  case fneg => exact floatOp_of_float1 (g := fun a => signOp [a] a (!a.sign)) (fun _ => rfl) fun _ _ => rfl
  case fcopysign =>
    exact floatOp_of_lanes (fun _ => rfl) (fun _ _ => rfl) fun f o _ k => by rw [plainF_va, plainF_vb, laneSign_eq]; rfl
  case fdiv => exact floatOp_of_float2_plain (fun _ => rfl) fun _ _ => rfl
  case fsqrt => exact floatOp_of_float1 (fun _ => rfl) fun _ _ => rfl
  case fclamp =>
    exact floatOp_of_lanes (fun _ => rfl) (fun _ _ => rfl) fun f o h k => by
      rw [scaledF_va, scaledF_vb, plainF_vc, pa_eq_fa f h, pb_eq_fb f h]
  case fscale => exact floatOp_of_lanes (fun _ => rfl) (fun _ _ => rfl) fun f o _ k => by rw [plainF_va, fscaleN_eq]

/-! ### Transcendentals (03 R79) -/

/-- A NaN gives the canonical NaN, and a signalling one raises NV. -/
theorem transcendental_nan : ∀ g ∈ [fRcp, fRsqrt, fExp2, fLog2, fTanh, fSig], ∀ q, g (.nan q) = ⟨.nan false, if q then fNV else 0#6⟩ := by
  simp [fRcp, fRsqrt, fExp2, fLog2, fTanh, fSig]

theorem ratOf_one : ratOf (.num false 1 1 0) = some 1 := by norm_num [ratOf]

theorem ratOf_fTanh_inf (s : Bool) : ratOf (fTanh (.inf s)).v = some (if s then -1 else 1) := by
  cases s <;> norm_num [fTanh, ratOf]

theorem ratOf_fSig_zero (s : Bool) : ratOf (fSig (.zero s)).v = some (1 / 2) := by
  norm_num [fSig, ratOf]

/-- Settles O4: the forms, and the results of R79 case by case. -/
theorem transcendentals : Obligations.Transcendentals := by
  refine ⟨floatOp_of_float1 (fun _ => rfl) fun _ _ => rfl, floatOp_of_float1 (fun _ => rfl) fun _ _ => rfl,
    floatOp_of_float1 (fun _ => rfl) fun _ _ => rfl, floatOp_of_float1 (fun _ => rfl) fun _ _ => rfl,
    floatOp_of_float1 (fun _ => rfl) fun _ _ => rfl, floatOp_of_float1 (fun _ => rfl) fun _ _ => rfl, transcendental_nan,
    fun s => ⟨rfl, rfl, rfl, rfl, ratOf_one, rfl, ratOf_fSig_zero s⟩, rfl, rfl, rfl, rfl, rfl, rfl,
    ratOf_fTanh_inf false, ratOf_fTanh_inf true, ratOf_one, rfl, fun x p hx hp => ?_⟩
  obtain ⟨n, d, e, rfl⟩ := eq_num_of_neg hx hp
  exact ⟨rfl, rfl⟩

end Sys2Proof.Machine
end

section
/-!
PROOFS, 03 numbers: the exponent of a magnitude, and values rounded to integers.
-/

namespace Sys2Proof.Machine
open Claims

/-! ### The exponent of a magnitude -/

theorem two_zpow_log2_le {n : Nat} (hn : n ≠ 0) : (2 : ℚ) ^ (Nat.log2 n : Int) ≤ n := by
  rw [zpow_natCast]
  exact_mod_cast (Nat.le_log2 hn).1 le_rfl
theorem lt_two_zpow_log2_succ {n : Nat} (hn : n ≠ 0) : (n : ℚ) < 2 ^ ((Nat.log2 n : Int) + 1) := by
  have h : n < 2 ^ (Nat.log2 n + 1) := (Nat.log2_lt hn).1 (Nat.lt_succ_self _)
  rw [zpow_add_one₀ two_ne_zero, zpow_natCast, ← pow_succ]
  exact_mod_cast h

/-- A comparison of a quotient with a power of two, in naturals. -/
theorem mul_pow2_lt_iff {n d : Nat} (hd : d ≠ 0) (l : Int) : n * (pow2 l).2 < d * (pow2 l).1 ↔ (n : ℚ) / d < 2 ^ l := by
  have hd' : (0 : ℚ) < d := by exact_mod_cast Nat.pos_of_ne_zero hd
  have hp : (0 : ℚ) < (pow2 l).2 := by exact_mod_cast Nat.pos_of_ne_zero (pow2_snd_ne_zero l)
  rw [← pow2_eq, div_lt_div_iff₀ hd' hp, mul_comm ((pow2 l).1 : ℚ)]
  exact_mod_cast Iff.rfl

/-- The floor of the logarithm of a quotient. -/
theorem log2Quot_spec {n d : Nat} (hn : n ≠ 0) (hd : d ≠ 0) :
    (2 : ℚ) ^ log2Quot n d ≤ (n : ℚ) / d ∧ (n : ℚ) / d < 2 ^ (log2Quot n d + 1) := by
  have hd' : (0 : ℚ) < d := by exact_mod_cast Nat.pos_of_ne_zero hd
  have hn1 := two_zpow_log2_le hn
  have hn2 := lt_two_zpow_log2_succ hn
  have hd1 := two_zpow_log2_le hd
  have hd2 := lt_two_zpow_log2_succ hd
  generalize ha : (Nat.log2 n : Int) = a at *
  generalize hb : (Nat.log2 d : Int) = b at *
  have hpos : ∀ k : Int, (0 : ℚ) < 2 ^ k := fun k => zpow_pos two_pos k
  have hlow : (2 : ℚ) ^ (a - b - 1) ≤ (n : ℚ) / d := by
    rw [le_div_iff₀ hd']
    calc (2 : ℚ) ^ (a - b - 1) * d ≤ 2 ^ (a - b - 1) * 2 ^ (b + 1) := mul_le_mul_of_nonneg_left hd2.le (hpos _).le
      _ = 2 ^ a := by rw [← zpow_add₀ two_ne_zero]; congr 1; ring
      _ ≤ n := hn1
  have hhigh : (n : ℚ) / d < 2 ^ (a - b + 1) := by
    rw [div_lt_iff₀ hd']
    calc (n : ℚ) < 2 ^ (a + 1) := hn2
      _ = 2 ^ (a - b + 1) * 2 ^ b := by rw [← zpow_add₀ two_ne_zero]; congr 1; ring
      _ ≤ 2 ^ (a - b + 1) * d := mul_le_mul_of_nonneg_left hd1 (hpos _).le
  have hlog : log2Quot n d = if (n : ℚ) / d < 2 ^ (a - b) then a - b - 1 else a - b := by
    simp only [log2Quot, ha, hb, mul_pow2_lt_iff hd]
  rw [hlog]
  split
  next h => exact ⟨hlow, by rwa [sub_add_cancel]⟩
  next h => exact ⟨not_lt.1 h, hhigh⟩

theorem magExp_spec {n d : Nat} (hn : n ≠ 0) (hd : d ≠ 0) (e : Int) :
    (2 : ℚ) ^ magExp n d e ≤ mag n d e ∧ mag n d e < 2 ^ (magExp n d e + 1) := by
  obtain ⟨hlow, hhigh⟩ := log2Quot_spec hn hd
  have hpos : (0 : ℚ) < 2 ^ e := zpow_pos two_pos e
  rw [magExp, mag, show log2Quot n d + e + 1 = log2Quot n d + 1 + e by ring, zpow_add₀ two_ne_zero, zpow_add₀ two_ne_zero]
  exact ⟨mul_le_mul_of_nonneg_right hlow hpos.le, mul_lt_mul_of_pos_right hhigh hpos⟩

/-! ### Rounding to an integer (03 R58) -/

/-- A quotient, a remainder and a divisor stand for a magnitude: they say what its integral part is, and where in the unit it lies. -/
structure Quantised (y : ℚ) (m r den : Nat) : Prop where
  le : (m : ℚ) ≤ y
  lt : y < m + 1
  exact : r = 0 ↔ y = m
  above : den < 2 * r ↔ (m : ℚ) + 1 / 2 < y
  tie : 2 * r = den ↔ y = (m : ℚ) + 1 / 2

theorem quantise_zero_spec {n d : Nat} (hd : d ≠ 0) (e : Int) :
    Quantised (mag n d e) (quantise n d e 0).1 (quantise n d e 0).2.1 (quantise n d e 0).2.2 := by
  simp only [quantise, sub_zero]
  have hd' : (d : ℚ) ≠ 0 := by exact_mod_cast hd
  have hp : ((pow2 e).2 : ℚ) ≠ 0 := by exact_mod_cast pow2_snd_ne_zero e
  have hden : 0 < d * (pow2 e).2 := Nat.pos_of_ne_zero (Nat.mul_ne_zero hd (pow2_snd_ne_zero e))
  have hmag : mag n d e = ((n * (pow2 e).1 : Nat) : ℚ) / (d * (pow2 e).2 : Nat) := by
    rw [mag, ← pow2_eq]
    push_cast
    field_simp
  rw [hmag]
  generalize n * (pow2 e).1 = a
  generalize d * (pow2 e).2 = b at hden
  have hb : (0 : ℚ) < b := by exact_mod_cast hden
  have hdiv : (a : ℚ) / b = (a / b : Nat) + (a % b : Nat) / (b : ℚ) := by
    have h : (b : ℚ) * (a / b : Nat) + (a % b : Nat) = a := by exact_mod_cast Nat.div_add_mod a b
    rw [← h, add_div, mul_div_cancel_left₀ _ hb.ne']
  have hmod : ((a % b : Nat) : ℚ) < b := by exact_mod_cast Nat.mod_lt a hden
  have hmod0 : (0 : ℚ) ≤ (a % b : Nat) := Nat.cast_nonneg _
  rw [hdiv]
  generalize a / b = m
  generalize a % b = r at *
  refine ⟨?_, ?_, ?_, ?_, ?_⟩
  · have := div_nonneg hmod0 hb.le
    linarith
  · have := (div_lt_one hb).2 hmod
    linarith
  · rw [add_eq_left, div_eq_zero_iff, or_iff_left hb.ne']
    exact_mod_cast Iff.rfl
  · rw [add_lt_add_iff_left, div_lt_div_iff₀ two_pos hb, one_mul, mul_comm (r : ℚ)]
    exact_mod_cast Iff.rfl
  · rw [add_right_inj, div_eq_div_iff hb.ne' two_ne_zero, one_mul, mul_comm (r : ℚ)]
    exact_mod_cast Iff.rfl

/-- Any remainder below half stands for a magnitude below half. -/
theorem quantised_small {y : ℚ} (h0 : 0 < y) (h1 : y < 1 / 2) : Quantised y 0 1 4 where
  le := by simpa using h0.le
  lt := by push_cast; linarith
  exact := by simpa using h0.ne'
  above := by simpa using h1.le
  tie := by simpa using h1.ne

/-- The integers that a mode may give a rational number. -/
def RoundsTo (rm : Rm) (x : ℚ) (z : Int) : Prop :=
  (rm = .down → z = ⌊x⌋) ∧ (rm = .up → z = ⌈x⌉) ∧ (rm = .zero → z = if x < 0 then ⌈x⌉ else ⌊x⌋) ∧
  (rm = .near → |(z : ℚ) - x| ≤ 1 / 2 ∧ (|(z : ℚ) - x| = 1 / 2 → z % 2 = 0))

section
variable {y : ℚ} {m r den : Nat}

theorem Quantised.floor (h : Quantised y m r den) : (m : Int) = ⌊y⌋ := by
  rw [eq_comm, Int.floor_eq_iff]
  exact_mod_cast And.intro h.le h.lt

theorem Quantised.ceil (h : Quantised y m r den) : ((if r != 0 then m + 1 else m : Nat) : Int) = ⌈y⌉ := by
  rw [eq_comm, Int.ceil_eq_iff]
  by_cases hr : r = 0
  · have hy := h.exact.1 hr
    simp [hr, hy]
  · have hy : (m : ℚ) < y := h.le.lt_of_ne fun hy => hr (h.exact.2 hy.symm)
    have := h.lt
    simp only [bne_iff_ne, ne_eq, hr, not_false_eq_true, if_true]
    push_cast
    constructor <;> linarith

/-- The nearest integer, and the even one of two. -/
theorem Quantised.nearest (h : Quantised y m r den) (s : Bool) : ∃ k : Nat, roundUnits .near s m r den = k ∧ |(k : ℚ) - y| ≤ 1 / 2 ∧
    (|(k : ℚ) - y| = 1 / 2 → k % 2 = 0) := by
  refine ⟨_, rfl, ?_⟩
  have hle := h.le
  have hlt := h.lt
  by_cases habove : (m : ℚ) + 1 / 2 < y
  · have hd := h.above.2 habove
    simp only [roundUnits, hd, decide_true, Bool.true_or, if_true]
    push_cast
    rw [abs_of_pos (by linarith)]
    exact ⟨by linarith, fun h => by linarith⟩
  · have hd : ¬den < 2 * r := fun hd => habove (h.above.1 hd)
    by_cases htie : y = (m : ℚ) + 1 / 2
    · have hr := h.tie.2 htie
      rcases Nat.mod_two_eq_zero_or_one m with hm | hm
      · simp only [roundUnits, hr, hm, lt_self_iff_false, decide_false, beq_self_eq_true, Bool.false_or, Bool.true_and]
        norm_num [htie, hm, abs_of_pos]
      · simp only [roundUnits, hr, hm, lt_self_iff_false, decide_false, beq_self_eq_true, Bool.false_or, Bool.true_and, if_true]
        push_cast
        rw [htie, show (m : ℚ) + 1 - (m + 1 / 2) = 1 / 2 by ring, abs_of_pos (by norm_num)]
        exact ⟨le_rfl, fun _ => by omega⟩
    · have hr : ¬2 * r = den := fun hr => htie (h.tie.1 hr)
      have hbelow : y < (m : ℚ) + 1 / 2 := lt_of_le_of_ne (not_lt.1 habove) htie
      simp only [roundUnits, hd, decide_false, beq_eq_false_iff_ne.2 hr, Bool.false_or, Bool.false_and, Bool.false_eq_true, if_false]
      rw [abs_sub_comm, abs_of_nonneg (by linarith)]
      exact ⟨by linarith, fun h => by linarith⟩

theorem Quantised.roundsTo (h : Quantised y m r den) (hy : 0 < y) (rm : Rm) (s : Bool) :
    RoundsTo rm (signedRat s y) (signedInt s (roundUnits rm s m r den)) := by
  cases rm with
  | near =>
    obtain ⟨k, hk, hle, htie⟩ := h.nearest s
    rw [hk]
    have habs : |((signedInt s k : Int) : ℚ) - signedRat s y| = |(k : ℚ) - y| := by
      rw [cast_signedInt]
      cases s
      · rfl
      · rw [signedRat, signedRat, if_pos rfl, if_pos rfl, ← abs_neg]
        congr 1
        ring
    refine ⟨nofun, nofun, nofun, fun _ => ⟨habs ▸ hle, fun ht => ?_⟩⟩
    have heven := htie (habs ▸ ht)
    cases s <;> simp [signedInt] <;> omega
  | zero =>
    refine ⟨nofun, nofun, fun _ => ?_, nofun⟩
    have hm : roundUnits .zero s m r den = m := rfl
    rw [hm]
    cases s
    · simp only [signedRat, signedInt, Bool.false_eq_true, if_false, if_neg (not_lt.2 hy.le)]
      exact h.floor
    · simp only [signedRat, signedInt, if_true, if_pos (neg_lt_zero.2 hy), Int.ceil_neg, h.floor]
  | up =>
    refine ⟨nofun, fun _ => ?_, nofun, nofun⟩
    cases s
    · exact h.ceil
    · have hm : roundUnits .up true m r den = m := rfl
      simp only [signedRat, signedInt, if_true, Int.ceil_neg, hm, h.floor]
  | down =>
    refine ⟨fun _ => ?_, nofun, nofun, nofun⟩
    cases s
    · exact h.floor
    · have hceil := h.ceil
      simp only [signedRat, signedInt, if_true, Int.floor_neg, ← hceil]
      rfl

/-- A rounding is inexact where it leaves a remainder. -/
theorem Quantised.exact_iff (h : Quantised y m r den) (rm : Rm) (s : Bool) :
    ((signedInt s (roundUnits rm s m r den) : Int) : ℚ) = signedRat s y ↔ r = 0 := by
  have hcast : ((signedInt s (roundUnits rm s m r den) : Int) : ℚ) = signedRat s y ↔ (roundUnits rm s m r den : ℚ) = y := by
    rw [cast_signedInt]
    cases s <;> simp [signedRat]
  rw [hcast]
  constructor
  · intro heq
    have hle : m ≤ roundUnits rm s m r den := by exact_mod_cast heq ▸ h.le
    have hlt : roundUnits rm s m r den < m + 1 := by exact_mod_cast heq ▸ h.lt
    exact h.exact.2 (heq.symm.trans (by exact_mod_cast (by omega : roundUnits rm s m r den = m)))
  · rintro rfl
    have hy := h.exact.1 rfl
    have hden : 0 ≠ den := fun hd => by linarith [h.tie.1 hd]
    rw [hy]
    cases rm <;> simp [roundUnits, hden]
end

/-- A rounding is within one of its number. -/
theorem RoundsTo.abs_sub_lt {rm : Rm} {x : ℚ} {z : Int} (h : RoundsTo rm x z) : |(z : ℚ) - x| < 1 := by
  obtain ⟨hdown, hup, hzero, hnear⟩ := h
  have hfloor : |((⌊x⌋ : Int) : ℚ) - x| < 1 := by
    rw [abs_sub_lt_iff]
    constructor <;> linarith [Int.floor_le x, Int.lt_floor_add_one x]
  have hceil : |((⌈x⌉ : Int) : ℚ) - x| < 1 := by
    rw [abs_sub_lt_iff]
    constructor <;> linarith [Int.le_ceil x, Int.ceil_lt_add_one x]
  cases rm with
  | near => linarith [(hnear rfl).1]
  | zero => rw [hzero rfl]; split <;> assumption
  | up => rwa [hup rfl]
  | down => rwa [hdown rfl]

/-- Rounding toward zero does not grow a number. -/
theorem RoundsTo.abs_le {rm : Rm} {x : ℚ} {z : Int} (h : RoundsTo rm x z) (hrm : rm = .zero) : |(z : ℚ)| ≤ |x| := by
  obtain ⟨-, -, hzero, -⟩ := h
  rw [hzero hrm]
  split
  next hneg =>
    have hceil : ((⌈x⌉ : Int) : ℚ) ≤ 0 := by exact_mod_cast Int.ceil_le.2 (by simpa using hneg.le)
    rw [abs_of_nonpos hceil, abs_of_neg hneg]
    linarith [Int.le_ceil x]
  next hpos =>
    have hfloor : (0 : ℚ) ≤ (⌊x⌋ : Int) := by exact_mod_cast Int.floor_nonneg.2 (not_lt.1 hpos)
    rw [abs_of_nonneg hfloor, abs_of_nonneg (not_lt.1 hpos)]
    exact Int.floor_le x

/-- Of two integers nearest to a number the second is not below the first, or one of them would be odd. -/
theorem le_of_near {x : ℚ} {z z' : Int} (hle : |(z : ℚ) - x| ≤ 1 / 2) (htie : |(z : ℚ) - x| = 1 / 2 → z % 2 = 0)
    (hle' : |(z' : ℚ) - x| ≤ 1 / 2) (htie' : |(z' : ℚ) - x| = 1 / 2 → z' % 2 = 0) : z' ≤ z := by
  by_contra hlt
  have hstep : z + 1 ≤ z' := by omega
  have hcast : (z : ℚ) + 1 ≤ z' := by exact_mod_cast hstep
  obtain ⟨hlow, hhigh⟩ := abs_le.1 hle
  obtain ⟨hlow', hhigh'⟩ := abs_le.1 hle'
  have heven := htie (by rw [show (z : ℚ) - x = -(1 / 2) by linarith]; norm_num)
  have heven' := htie' (by rw [show (z' : ℚ) - x = 1 / 2 by linarith]; norm_num)
  have hone : z' = z + 1 := by
    have : (z' : ℚ) = z + 1 := by linarith
    exact_mod_cast this
  omega

/-- A mode gives one integer. -/
theorem RoundsTo.unique {rm : Rm} {x : ℚ} {z z' : Int} (h : RoundsTo rm x z) (h' : RoundsTo rm x z') : z = z' := by
  obtain ⟨hdown, hup, hzero, hnear⟩ := h
  obtain ⟨hdown', hup', hzero', hnear'⟩ := h'
  cases rm with
  | zero => rw [hzero rfl, hzero' rfl]
  | up => rw [hup rfl, hup' rfl]
  | down => rw [hdown rfl, hdown' rfl]
  | near =>
    obtain ⟨hle, htie⟩ := hnear rfl
    obtain ⟨hle', htie'⟩ := hnear' rfl
    exact le_antisymm (le_of_near hle' htie' hle htie) (le_of_near hle htie hle' htie')

/-- The rounding of the model is the one of the mode, and it says whether it was exact. -/
theorem roundInt_spec {n d : Nat} (hn : n ≠ 0) (hd : d ≠ 0) (rm : Rm) (s : Bool) (e : Int) :
    RoundsTo rm (signedRat s (mag n d e)) (roundInt rm s n d e).1 ∧
      ((roundInt rm s n d e).2 = false ↔ ((roundInt rm s n d e).1 : ℚ) = signedRat s (mag n d e)) := by
  have hpos := mag_pos hn hd e
  obtain ⟨t, ht, hq⟩ : ∃ t : Nat × Nat × Nat, (if magExp n d e < -3 then (0, 1, 4) else quantise n d e 0) = t ∧
      Quantised (mag n d e) t.1 t.2.1 t.2.2 := by
    refine ⟨_, rfl, ?_⟩
    split
    next h =>
      have hlt := (magExp_spec hn hd e).2
      have hpow : (2 : ℚ) ^ (magExp n d e + 1) ≤ 2 ^ (-2 : Int) := zpow_le_zpow_right₀ one_le_two (by omega)
      exact quantised_small hpos (by norm_num at hpow; linarith)
    next => exact quantise_zero_spec hd e
  simp only [roundInt, ht]
  refine ⟨hq.roundsTo hpos rm s, ?_⟩
  rw [hq.exact_iff]
  simp

end Sys2Proof.Machine
end

section
/-!
PROOFS, 03 numbers: float comparison, class, rounding to integers, dot products, format tokens and the greatest exponent.
-/

namespace Sys2Proof.Machine
open Claims

/-! ### Comparison and class (05 R129, 06 R168) -/

theorem snanFlag_pair (x y : FVal) : snanFlag [x, y] = if x.isSnan || y.isSnan then fNV else 0#6 := by simp [snanFlag]

/-- A lane of `fcmp`: its condition, and NV where the comparison is invalid. -/
theorem fcmpLane_eq (code : Nat) (x y : FVal) :
    fcmpLane code x y = (floatCondition code x y, if floatInvalid code x y then fNV else 0#6) := by
  unfold fcmpLane floatCondition floatInvalid
  rw [snanFlag_pair]
  rcases code with _ | _ | _ | _ | _ | _ | _ | code
  case succ.succ.succ.succ.succ.succ.succ =>
    rw [if_neg (show ¬(2 ≤ code + 7 ∧ code + 7 ≤ 5) by omega)]
    rfl
  all_goals simp [bne, beq_eq_decide]

theorem exec_fcmp {f : FmtG} {s : State} {c : Firing} (h : Fires f.pr s c) : ∃ (v : Vec) (fl : BitVec 6),
    exec (.fcmp f) s = .next (sent s c (toBoth f v) fl) ∧
    (∀ k < 512, v.getLsbD k = (decide (k < 512 / tyBits f.ty) &&
      floatCondition (f.x.extractLsb' 0 4).toNat (fa f c.ops k) (fb f c.ops k))) ∧
    fl = if (List.range (512 / tyBits f.ty)).any (fun k =>
      floatInvalid (f.x.extractLsb' 0 4).toNat (fa f c.ops k) (fb f c.ops k)) then fNV else 0#6 := by
  refine ⟨_, _, runD_fire (i := .fcmp f) h, fun k hk => ?_, ?_⟩
  · rw [List.map_map, getLsbD_prTok_map _ _ hk]
    simp only [Function.comp_apply, fcmpLane_eq, readF_eq_readLane, bits_eq_toNat]
    rfl
  · dsimp only
    rw [List.map_map, ← joinFlags_eq_ite]
    simp only [Function.comp_def, fcmpLane_eq, readF_eq_readLane, bits_eq_toNat]
    rfl

theorem classOf_eq_laneClass (ty : BitVec 4) (x : Nat) : classOf ty x = laneClass ty x := by
  unfold classOf laneClass
  cases decodeF ty x with
  | nan q => cases q <;> rfl
  | inf s => cases s <;> rfl
  | zero s => cases s <;> rfl
  | num s n d e => cases s <;> rfl

theorem predOp_fclass :
    PredOp .fclass (fun f o n k => (f.x.extractLsb' 0 10).getLsbD (laneClass f.ty (elem n o.va k).toNat)) :=
  predOp_of_bits (fun _ => rfl) (fun _ _ => rfl) fun f o k => by
    rw [bits_eq_toNat, classOf_eq_laneClass, lane_eq_elem, BitVec.getLsbD]

/-! ### Rounding to an integral value (06 R166) -/

/-- The integer that a number is rounded to, as a value that keeps the sign of the number. -/
def integralOf (rm : Rm) (s : Bool) (n d : Nat) (e : Int) : FVal :=
  if (roundInt rm s n d e).1 = 0 then .zero s else .num s (roundInt rm s n d e).1.natAbs 1 0

theorem ratOf_integralOf (rm : Rm) (s : Bool) (n d : Nat) (e : Int) :
    ratOf (integralOf rm s n d e) = some ((roundInt rm s n d e).1 : ℚ) := by
  unfold integralOf
  split
  next h => simp [ratOf, h]
  next h =>
    obtain ⟨m, hm⟩ : ∃ m, (roundInt rm s n d e).1 = signedInt s m := ⟨_, rfl⟩
    have habs : (signedInt s m).natAbs = m := by cases s <;> simp [signedInt]
    rw [hm] at h ⊢
    rw [ratOf_num (Int.natAbs_ne_zero.2 h) one_ne_zero, habs, cast_signedInt, mag]
    simp

theorem froundVal_num (rm : Rm) (exact : Bool) (s : Bool) (n d : Nat) (e : Int) :
    froundVal rm exact (.num s n d e) = ⟨integralOf rm s n d e, if exact && (roundInt rm s n d e).2 then fNX else 0#6⟩ := rfl

theorem roundTo_nan (ty : BitVec 4) (rm : Rm) (fzo q : Bool) : roundTo ty (.nan q) rm fzo = ⟨canonicalNan ty, false, 0#6⟩ := by
  unfold roundTo
  split
  next h => simp [roundSd8, canonicalNan, h]
  next h => simp [roundE4m3, canonicalNan, h]
  next => rfl

theorem exec_fround {f : FmtG} {s : State} {c : Firing} (h : Fires f.pr s c) : ∃ (v : Vec) (fl : BitVec 6),
    exec (.fround f) s = .next (sent s c (toBoth f v) fl) ∧
    ∀ k < 512 / tyBits f.ty,
      (∀ q, fa f c.ops k = .nan q → elem (tyBits f.ty) v k = BitVec.ofNat _ (canonicalNan f.ty) ∧ (q = true → fl.getLsbD 0 = true)) ∧
      (∀ q, (fa f c.ops k = .inf q ∨ fa f c.ops k = .zero q) →
        elem (tyBits f.ty) v k = BitVec.ofNat _ (roundTo f.ty (fa f c.ops k) (rmOf f.rm) (f.fzo == 1#1)).code) ∧
      (∀ x : ℚ, ratOf (fa f c.ops k) = some x → x ≠ 0 → ∃ (z : Int) (w : FVal), ratOf w = some (z : ℚ) ∧
        (z = 0 → w = .zero (decide (x < 0))) ∧ |(z : ℚ) - x| < 1 ∧
        (rmOf f.rm = .down → z = ⌊x⌋) ∧ (rmOf f.rm = .up → z = ⌈x⌉) ∧ (rmOf f.rm = .zero → |(z : ℚ)| ≤ |x|) ∧
        (rmOf f.rm = .near → |(z : ℚ) - x| ≤ 1 / 2 ∧ (|(z : ℚ) - x| = 1 / 2 → z % 2 = 0)) ∧
        elem (tyBits f.ty) v k = BitVec.ofNat _ (roundTo f.ty w (rmOf f.rm) (f.fzo == 1#1)).code ∧
        (f.x.getLsbD 0 = true → (z : ℚ) ≠ x → fl.getLsbD 4 = true)) := by
  obtain ⟨v, fl, hnext, hlanes, hflags⟩ := exec_roundLanes (i := .fround f) (dt := f.ty)
    (m := fun o k => froundVal (rmOf f.rm) (bits f.x 0 0 == 1) (plainF f o.va k)) h rfl
  simp only [plainF_va] at hlanes hflags
  refine ⟨v, fl, hnext, fun k hk => ⟨fun q hq => ⟨?_, fun hs => ?_⟩, fun q hq => ?_, fun x hx hx0 => ?_⟩⟩
  · rw [hlanes k hk, hq]
    simp only [roundedTo, froundVal, roundTo_nan]
  · refine (hflags 0 (by decide)).2 ⟨k, hk, ?_⟩
    rw [hq, hs]
    simp [roundedTo, froundVal, roundTo_nan, fNV]
  · rw [hlanes k hk]
    rcases hq with hq | hq <;> rw [hq] <;> rfl
  · obtain ⟨s', n, d, e, hnum, hn, hd, rfl⟩ := eq_num_of_ratOf hx hx0
    obtain ⟨hz, hexact⟩ := roundInt_spec hn hd (rmOf f.rm) s' e
    have hlane := hlanes k hk
    have hflag := (hflags 4 (by decide)).2
    rw [hnum, froundVal_num] at hlane
    refine ⟨_, _, ratOf_integralOf .., fun h0 => ?_, hz.abs_sub_lt, hz.1, hz.2.1, hz.abs_le, hz.2.2.2, hlane, fun he hne => ?_⟩
    · rw [integralOf, if_pos h0]
      congr 1
      simp [signedRat_neg_iff (mag_pos hn hd e)]
    · refine hflag ⟨k, hk, ?_⟩
      have hinexact : (roundInt (rmOf f.rm) s' n d e).2 = true := by
        rw [← Bool.not_eq_false, hexact]
        exact hne
      rw [hnum, froundVal_num, beq_iff_eq.2 ((bits_eq_one f.x 0).2 he), hinexact]
      simp [roundedTo, fNX]

/-! ### Dot products (06 R170, 03 R70) -/

/-- A term of an exact sum has a value wherever the rule gives it one. -/
def TermOf (o : Option ℚ) (t : FRes) : Prop := ∀ r, o = some r → ratOf t.v = some r

theorem rationalSum_cons {o : Option ℚ} {l : List (Option ℚ)} {x : ℚ} (h : rationalSum (o :: l) = some x) :
    ∃ p q, o = some p ∧ rationalSum l = some q ∧ x = p + q := by
  obtain ⟨p, ho, h⟩ := Option.bind_eq_some_iff.1 h
  obtain ⟨q, hq, rfl⟩ := Option.map_eq_some_iff.1 h
  exact ⟨p, q, ho, hq, rfl⟩

/-- The exact sum is the rational sum of its terms. -/
theorem sumExact_exact (rm : Rm) {os : List (Option ℚ)} {ts : List FRes} {x : ℚ} (h : List.Forall₂ TermOf os ts)
    (hx : rationalSum os = some x) : ratOf (sumExact rm ts).v = some x := by
  cases h with
  | nil => cases hx; rfl
  | @cons o t os ts ht hts =>
    obtain ⟨p, q, ho, hq, rfl⟩ := rationalSum_cons hx
    have hp := ht p ho
    clear hx ho ht
    simp only [sumExact]
    induction hts generalizing t p q with
    | nil => cases hq; simpa using hp
    | @cons o' t' os ts ht' _ ih =>
      obtain ⟨p', q', ho', hq', rfl⟩ := rationalSum_cons hq
      rw [List.foldl_cons, ← add_assoc]
      exact ih _ _ hq' (fAdd_exact rm hp (ht' p' ho')).1

theorem termOf_fMul (x y : FVal) : TermOf (do
    let a ← ratOf x
    let b ← ratOf y
    some (a * b)) (fMul x y) := by
  intro r h
  obtain ⟨a, ha, h⟩ := Option.bind_eq_some_iff.1 h
  obtain ⟨b, hb, h⟩ := Option.bind_eq_some_iff.1 h
  cases h
  exact (fMul_exact ha hb).1

theorem exec_fdot {i : Instr} {f : FmtG} {g : Nat} {s : State} {c : Firing} (h : Fires (prOf i) s c)
    (hexec : exec i s = runD (fire i (fdot f g)) s) :
    ∃ (v : Vec) (fl : BitVec 6), exec i s = .next (sent s c (toBoth f v) fl) ∧ ∀ k < 16, ∀ x : ℚ,
      rationalSum ((List.range g).map (fun j => do
          let a ← ratOf (pa f c.ops (g * k + j))
          let b ← ratOf (pb f c.ops (g * k + j))
          some (a * b)) ++
        (if c.ops.c.isSome then [ratOf (readLane { f with ty := 10#4 } none c.ops.vc k)] else [])) = some x →
      ∃ r : FVal, ratOf r = some x ∧ elem 32 v k = BitVec.ofNat 32 (roundTo 10#4 r (rmOf f.rm) (f.fzo == 1#1)).code := by
  obtain ⟨v, fl, hnext, hlanes, -⟩ := exec_roundLanes (dt := 10#4) h hexec
  refine ⟨v, fl, hnext, fun k hk x hx => ⟨_, sumExact_exact (rmOf f.rm) ?_ hx, hlanes k hk⟩⟩
  have hprods : List.Forall₂ TermOf ((List.range g).map (fun j => do
      let a ← ratOf (pa f c.ops (g * k + j))
      let b ← ratOf (pb f c.ops (g * k + j))
      some (a * b)))
      ((List.range g).map (fun j => fMul (scaledF f c.ops c.ops.va (g * k + j)) (scaledF f c.ops c.ops.vb (g * k + j)))) := by
    rw [List.forall₂_map_left_iff, List.forall₂_map_right_iff, List.forall₂_same]
    intro j _
    rw [scaledF_va, scaledF_vb]
    exact termOf_fMul _ _
  split
  · refine List.rel_append hprods (.cons ?_ .nil)
    intro r hr
    rw [← hr]
    exact congrArg ratOf (readF_eq_readLane { f with ty := 10#4 } none c.ops.vc k)
  · rw [List.append_nil]
    exact hprods

/-! ### The greatest exponent (06 R178) -/

/-- A value whose numerator and denominator are not zero where it is a number. -/
def FVal.Proper (v : FVal) : Prop := ∀ s n d e, v = .num s n d e → n ≠ 0 ∧ d ≠ 0

theorem FVal.proper_num {s : Bool} {n d : Nat} {e : Int} (hn : n ≠ 0) (hd : d ≠ 0) : (FVal.num s n d e).Proper := by
  rintro _ _ _ _ ⟨⟩
  exact ⟨hn, hd⟩

theorem decodeIeee_proper (l : Fmt2) (c : Nat) : (decodeIeee l c).Proper := by
  simp only [decodeIeee]
  split
  · split <;> nofun
  · split
    · split
      · nofun
      next hf => exact FVal.proper_num hf one_ne_zero
    · exact FVal.proper_num (by positivity) one_ne_zero

theorem decodeF_proper (ty : BitVec 4) (c : Nat) : (decodeF ty c).Proper := by
  unfold decodeF
  split
  · unfold decodeSd8
    split
    · nofun
    · split
      · nofun
      · exact FVal.proper_num (by simp only [sd8Mag]; positivity) one_ne_zero
  · simp only [decodeE4m3]
    split
    · nofun
    · split
      · split
        · nofun
        next hf => exact FVal.proper_num hf one_ne_zero
      · exact FVal.proper_num (by omega) one_ne_zero
  · exact decodeIeee_proper _ _

theorem fa_proper (f : FmtG) (o : Opnds) (k : Nat) : (fa f o k).Proper := by
  simp only [fa, readLane]
  split
  · nofun
  · exact decodeF_proper _ _

/-- Folding the greater of what is gathered and the exponent of each number. -/
theorem foldl_magExp {g : Int → FVal → Int} (hnum : ∀ a s n d e, g a (.num s n d e) = max a (magExp n d e))
    (hskip : ∀ a v, (∀ s n d e, v ≠ .num s n d e) → g a v = a) (l : List FVal) (a : Int) :
    a ≤ l.foldl g a ∧ (∀ s n d e, .num s n d e ∈ l → magExp n d e ≤ l.foldl g a) ∧
      (l.foldl g a = a ∨ ∃ s n d e, .num s n d e ∈ l ∧ l.foldl g a = magExp n d e) := by
  induction l generalizing a with
  | nil => simp
  | cons v r ih =>
    obtain ⟨hle, hall, hsome⟩ := ih (g a v)
    rw [List.foldl_cons]
    by_cases hv : ∃ s n d e, v = .num s n d e
    · obtain ⟨s, n, d, e, rfl⟩ := hv
      rw [hnum] at hle hall hsome ⊢
      refine ⟨(le_max_left ..).trans hle, fun s' n' d' e' hmem => ?_, ?_⟩
      · rcases List.mem_cons.1 hmem with heq | hmem
        · cases heq
          exact (le_max_right ..).trans hle
        · exact hall _ _ _ _ hmem
      · rcases hsome with heq | ⟨s', n', d', e', hmem, heq⟩
        · rcases max_choice a (magExp n d e) with hmax | hmax
          · exact .inl (heq.trans hmax)
          · exact .inr ⟨s, n, d, e, List.mem_cons_self, heq.trans hmax⟩
        · exact .inr ⟨s', n', d', e', List.mem_cons_of_mem _ hmem, heq⟩
    · have hne : ∀ s n d e, v ≠ .num s n d e := fun s n d e h => hv ⟨s, n, d, e, h⟩
      rw [hskip a v hne] at hle hall hsome ⊢
      refine ⟨hle, fun s n d e hmem => hall s n d e ((List.mem_cons.1 hmem).resolve_left fun h => hne _ _ _ _ h.symm), ?_⟩
      rcases hsome with heq | ⟨s, n, d, e, hmem, heq⟩
      · exact .inl heq
      · exact .inr ⟨s, n, d, e, List.mem_cons_of_mem _ hmem, heq⟩

/-- `fmaxexp` folds the greater exponent over its lanes, from −2^31. -/
theorem exec_fmaxexp_foldl {f : FmtG} {s : State} {c : Firing} (h : Fires f.pr s c) :
    ∃ g : Int → FVal → Int, (∀ a s n d e, g a (.num s n d e) = max a (magExp n d e)) ∧
      (∀ a v, (∀ s n d e, v ≠ .num s n d e) → g a v = a) ∧
      exec (.fmaxexp f) s = .next (sent s c (toBoth f (ofLanes 32 (List.replicate 16 (wrap 32
        (((List.range (512 / tyBits f.ty)).map (fa f c.ops)).foldl g (-(2 ^ 31)))))))
        (snanFlag ((List.range (512 / tyBits f.ty)).map (fa f c.ops)))) := by
  have hvs : (List.range (512 / tyBits f.ty)).map (fa f c.ops) = (List.range (laneCount f.ty)).map (plainF f c.ops.va) := by
    rw [laneCount, funext fun k => plainF_va f c.ops k]
  rw [hvs]
  refine ⟨_, ?_, ?_, runD_fire (i := .fmaxexp f) h⟩
  · intro a s n d e
    dsimp only
    split <;> omega
  · intro a v hv
    cases v with
    | num s n d e => exact absurd rfl (hv s n d e)
    | nan q => rfl
    | inf s => rfl
    | zero s => rfl

theorem exec_fmaxexp {f : FmtG} {s : State} {c : Firing} (h : Fires f.pr s c) : ∃ (v : Vec) (e : Int),
    exec (.fmaxexp f) s = .next (sent s c (toBoth f v)
      (if (List.range (512 / tyBits f.ty)).any (fun k => (fa f c.ops k).isSnan) then fNV else 0#6)) ∧
    (∀ k < 16, elem 32 v k = BitVec.ofInt 32 e) ∧
    (∀ k < 512 / tyBits f.ty, ∀ x : ℚ, ratOf (fa f c.ops k) = some x → x ≠ 0 → |x| < 2 ^ (e + 1)) ∧
    (e = -(2 ^ 31) ∨ ∃ k < 512 / tyBits f.ty, ∃ x : ℚ, ratOf (fa f c.ops k) = some x ∧ (2 : ℚ) ^ e ≤ |x|) ∧
    ((∀ k < 512 / tyBits f.ty, ∀ x : ℚ, ratOf (fa f c.ops k) = some x → x = 0) → e = -(2 ^ 31)) := by
  obtain ⟨g, hnum, hskip, hnext⟩ := exec_fmaxexp_foldl h
  obtain ⟨-, hall, hsome⟩ := foldl_magExp hnum hskip ((List.range (512 / tyBits f.ty)).map (fa f c.ops)) (-(2 ^ 31))
  generalize List.foldl g _ _ = e at hnext hall hsome
  have hlane : ∀ k < 512 / tyBits f.ty, fa f c.ops k ∈ (List.range (512 / tyBits f.ty)).map (fa f c.ops) := fun k hk =>
    List.mem_map_of_mem (List.mem_range.2 hk)
  have hmem : e = -(2 ^ 31) ∨ ∃ k < 512 / tyBits f.ty, ∃ x : ℚ, ratOf (fa f c.ops k) = some x ∧ x ≠ 0 ∧ (2 : ℚ) ^ e ≤ |x| := by
    rcases hsome with heq | ⟨s, n, d, k, hmem, heq⟩
    · exact .inl heq
    · obtain ⟨j, hj, hval⟩ := List.mem_map.1 hmem
      obtain ⟨hn, hd⟩ := fa_proper f c.ops j s n d k hval
      refine .inr ⟨j, List.mem_range.1 hj, _, hval ▸ ratOf_num hn hd k, signedRat_ne_zero (mag_pos hn hd k) s, ?_⟩
      rw [abs_signedRat (mag_pos hn hd k).le, heq]
      exact (magExp_spec hn hd k).1
  rw [snanFlag, List.any_map] at hnext
  refine ⟨_, e, hnext, fun k hk => ?_, fun k hk x hx hx0 => ?_, hmem.imp_right fun ⟨k, hk, x, hx, _, hle⟩ => ⟨k, hk, x, hx, hle⟩,
    fun hzero => hmem.resolve_right fun ⟨k, hk, x, hx, hx0, _⟩ => hx0 (hzero k hk x hx)⟩
  · rw [elem_ofLanes _ _ hk, List.getD_replicate _ hk, ofNat_wrap]
  · obtain ⟨s, n, d, j, hval, hn, hd, rfl⟩ := eq_num_of_ratOf hx hx0
    rw [abs_signedRat (mag_pos hn hd j).le]
    have hle := hall s n d j (hval ▸ hlane k hk)
    exact (magExp_spec hn hd j).2.trans_le (zpow_le_zpow_right₀ one_le_two (by omega))

/-- Settles O51. -/
theorem floatOperations : Obligations.FloatOperations := by
  refine ⟨⟨fun f s c h _ => exec_fcmp h, predOp_fclass, fun f s c h => exec_fround h⟩, ?fdot,
    fun f s c h => runD_fire (i := .fmt f) h, fun f s c h => exec_fmaxexp h⟩
  case fdot =>
    intro p hp f s c h
    rcases List.mem_pair.1 hp with rfl | rfl
    · exact exec_fdot (i := .fdot2 f) h rfl
    · exact exec_fdot (i := .fdot4 f) h rfl

end Sys2Proof.Machine
end

section
/-!
PROOFS, 03 numbers: conversions between formats, and between floating point and integers.
-/

namespace Sys2Proof.Machine
open Claims

/-! ### A value rounded to an integer type (03 R69, 06 R174) -/

theorem tyBits_le (ty : BitVec 4) : tyBits ty ≤ 64 := by
  unfold tyBits
  split <;> decide

theorem neg_two_pow_le_tyMin (ty : BitVec 4) : -(2 ^ 64 : Int) ≤ tyMin ty := by
  have hpow : 2 ^ (tyBits ty - 1) ≤ 2 ^ 64 := Nat.pow_le_pow_right two_pos (by have := tyBits_le ty; omega)
  unfold tyMin
  split <;> omega
theorem tyMax_lt_two_pow (ty : BitVec 4) : tyMax ty < 2 ^ 64 := by
  have hpow : 2 ^ (tyBits ty - 1) ≤ 2 ^ 64 := Nat.pow_le_pow_right two_pos (by have := tyBits_le ty; omega)
  have hpow' : 2 ^ tyBits ty ≤ 2 ^ 64 := Nat.pow_le_pow_right two_pos (tyBits_le ty)
  unfold tyMax
  split <;> omega

/-- An integer saturated to a type, with NV and the overflow bit where a bound replaces it, and NX where it is not exact. -/
def saturated (dt : BitVec 4) (z : Int) (exact : Bool) : Rounded :=
  if z < tyMin dt then ⟨wrap (tyBits dt) (tyMin dt), true, fNV⟩
  else if tyMax dt < z then ⟨wrap (tyBits dt) (tyMax dt), true, fNV⟩
  else ⟨wrap (tyBits dt) z, false, if exact then 0#6 else fNX⟩

/-- A number of great magnitude rounds to an integer beyond every type. -/
theorem saturated_of_large (dt : BitVec 4) {s : Bool} {y : ℚ} {z : Int} (hy : (2 : ℚ) ^ (66 : Int) ≤ y) (hz : |(z : ℚ) - signedRat s y| < 1)
    (exact : Bool) : saturated dt z exact = ⟨wrap (tyBits dt) (if s then tyMin dt else tyMax dt), true, fNV⟩ := by
  have hmin := neg_two_pow_le_tyMin dt
  have hmax := tyMax_lt_two_pow dt
  have hneg := tyMin_nonpos dt
  obtain ⟨hlow, hhigh⟩ := abs_lt.1 hz
  norm_num at hy
  cases s
  · have hbig : (2 ^ 64 : Int) < z := by
      have : ((2 ^ 64 : Int) : ℚ) < z := by
        simp only [signedRat, Bool.false_eq_true, if_false] at hlow
        norm_num
        linarith
      exact_mod_cast this
    rw [saturated, if_neg (by omega), if_pos (by omega)]
    rfl
  · have hbig : z < -(2 ^ 64 : Int) := by
      have : (z : ℚ) < (-(2 ^ 64 : Int) : Int) := by
        simp only [signedRat, if_true] at hhigh
        norm_num
        linarith
      exact_mod_cast this
    rw [saturated, if_pos (by omega)]
    rfl

/-- A finite value becomes the integer of the mode, saturated. -/
theorem toIntType_finite (dt : BitVec 4) {rm : Rm} {v : FVal} {x : ℚ} {z : Int} (hx : ratOf v = some x) (hz : RoundsTo rm x z) :
    toIntType dt rm v = saturated dt z (decide ((z : ℚ) = x)) := by
  obtain ⟨s, rfl, rfl⟩ | ⟨s, n, d, e, rfl, hn, hd, rfl⟩ := ratOf_eq_some hx
  · have hz0 : z = 0 := hz.unique (by simp [RoundsTo])
    have hmin := tyMin_nonpos dt
    have hmax := tyMax_nonneg dt
    rw [hz0, saturated, if_neg (by omega), if_neg (by omega)]
    simp [toIntType, wrap]
  · simp only [toIntType]
    split
    next hlarge =>
      refine (saturated_of_large dt ?_ hz.abs_sub_lt _).symm
      exact (zpow_le_zpow_right₀ one_le_two (by omega)).trans (magExp_spec hn hd e).1
    next =>
      obtain ⟨hround, hexact⟩ := roundInt_spec hn hd rm s e
      rw [hround.unique hz] at hexact ⊢
      have hflag : (if (roundInt rm s n d e).2 = true then fNX else 0#6) =
          if decide ((z : ℚ) = signedRat s (mag n d e)) then 0#6 else fNX := by
        simp only [decide_eq_true_eq, ← hexact]
        cases (roundInt rm s n d e).2 <;> rfl
      rw [hflag]
      rfl

/-! ### Converted lanes (06 R173, R175) -/

/-- The source lanes of a conversion. -/
theorem partLanes_eq (ty dt : BitVec 4) (part : Nat) :
    partLanes (tyBits ty) (tyBits dt) part = (List.range (512 / tyBits dt)).map (sourceLane ty dt part) := by
  unfold partLanes
  dsimp only
  split
  next h => exact List.map_congr_left fun k _ => (if_pos h).symm
  next h => exact List.map_congr_left fun k _ => (if_neg h).symm

/-- An instruction that converts its lanes sends them, and their overflow bits, and raises their flags. -/
theorem converts_of {i : Instr} {f : FmtG} {dt : BitVec 4} {l : Opnds → List (Option Rounded)} {g : Nat → Option Rounded} {s : State}
    {c : Firing} (h : Fires (prOf i) s c) (hexec : exec i s = runD (fire i fun o => convOut f dt (l o)) s)
    (hl : l c.ops = (List.range (512 / tyBits dt)).map g) : Converts s c i f dt g := by
  refine ⟨_, _, _, hexec.trans (runD_fire h), fun k hk => ?_, fun k hk => ?_, fun b _ => ?_⟩
  · rw [hl, List.map_map, elem_ofLanes_map _ _ _ hk hk]
    dsimp only [Function.comp_apply]
    cases g k <;> rfl
  · rw [hl, List.map_map, laneCount, getLsbD_prTok_map _ _ hk]
    dsimp only [Function.comp_apply]
    cases g k <;> rfl
  · simp only [convOut, hl, List.map_map, getLsbD_joinFlags_map, Function.comp_apply]
    refine exists_congr fun k => and_congr_right fun _ => ?_
    cases g k <;> rfl

theorem anyFloat_eq {ty : BitVec 4} (h : ty ≠ 15#4) : anyFloat ty = decide (8 ≤ ty.toNat) := by
  revert ty
  decide

/-- One converted lane, by the classes of the two types. -/
theorem conv_eq_convertLane (f : FmtG) {dt : BitVec 4} (hty : f.ty ≠ 15#4) (hdt : dt ≠ 15#4) (v : FVal) (z : Int) :
    conv f.ty dt (rmOf f.rm) (f.fzo == 1#1) v z = convertLane f dt v z := by
  have hclamp : (⟨wrap (tyBits dt) (clamp dt z), clamp dt z != z, 0#6⟩ : Rounded) =
      ⟨(BitVec.ofInt (tyBits dt) (max (tyMin dt) (min (tyMax dt) z))).toNat, decide (z < tyMin dt ∨ tyMax dt < z), 0#6⟩ := by
    have hmin := tyMin_nonpos dt
    have hmax := tyMax_nonneg dt
    rw [wrap_eq, clamp_eq_max_min, Rounded.mk.injEq]
    refine ⟨rfl, ?_, rfl⟩
    rw [bne, beq_eq_decide, ← decide_not, decide_eq_decide]
    omega
  unfold conv convertLane
  rw [anyFloat_eq hty, anyFloat_eq hdt]
  simp only [← tyMin_eq, ← tyMax_eq, hclamp, decide_eq_true_eq]
  by_cases h1 : 8 ≤ f.ty.toNat
  · by_cases h2 : 8 ≤ dt.toNat
    · simp only [h1, h2, if_true, and_self]
      rfl
    · simp only [h1, h2, if_true, if_false, and_false]
  · by_cases h2 : 8 ≤ dt.toNat
    · simp only [h1, h2, if_true, if_false, false_and]
      rfl
    · simp only [h1, h2, if_false, and_self]

theorem num_lane_eq (f : FmtG) (v : Vec) (k : Nat) : num f.ty (lane (tyBits f.ty) v k) = value f.ty (elem (tyBits f.ty) v k) := by
  rw [lane_eq_elem, num_eq_value]

/-- An integer times a power of two, as a value (06 R174). -/
theorem scale_ofInt (z k : Int) : (ofInt z).scale k = if z = 0 then .zero false else .num (decide (z < 0)) z.natAbs 1 k := by
  unfold ofInt
  split
  · rfl
  · simp [FVal.scale]

/-- Lanes of two tokens side by side (06 R176). -/
theorem map_append_map_range {α : Type} (n : Nat) (p q : Nat → α) :
    (List.range n).map p ++ (List.range n).map q = (List.range (2 * n)).map (fun k => if k < n then p (k % n) else q (k % n)) := by
  rw [two_mul, List.range_add, List.map_append, List.map_map]
  congr 1
  · refine List.map_congr_left fun k hk => ?_
    have hk := List.mem_range.1 hk
    rw [if_pos hk, Nat.mod_eq_of_lt hk]
  · refine List.map_congr_left fun k hk => ?_
    have hk := List.mem_range.1 hk
    rw [Function.comp_apply, if_neg (by omega), Nat.add_mod_left, Nat.mod_eq_of_lt hk]

/-- Lanes of two tokens interleaved (06 R176). -/
theorem flatMap_pair_range {α : Type} (n : Nat) (p q : Nat → α) :
    (List.range n).flatMap (fun k => [p k, q k]) = (List.range (2 * n)).map (fun k => if k % 2 = 0 then p (k / 2) else q (k / 2)) := by
  induction n with
  | zero => rfl
  | succ n ih =>
    rw [List.range_succ, List.flatMap_append, ih, show 2 * (n + 1) = 2 * n + 1 + 1 by ring, List.range_succ, List.range_succ]
    simp [Nat.add_mod, Nat.mul_add_div]

/-! ### The instructions -/

section
variable {f : FmtG} {s : State} {c : Firing} (h : Fires f.pr s c)
include h

theorem exec_cvt (hty : f.ty ≠ 15#4) (hdt : f.x.extractLsb' 0 4 ≠ 15#4) :
    Converts s c (.cvt f) f (f.x.extractLsb' 0 4) (fun k =>
      (sourceLane f.ty (f.x.extractLsb' 0 4) (f.x.extractLsb' 4 3).toNat k).map (fun j =>
        convertLane f (f.x.extractLsb' 0 4) (pa f c.ops j) (value f.ty (elem (tyBits f.ty) c.ops.va j)))) := by
  refine converts_of (i := .cvt f) h rfl ?_
  simp only [dtOf, partLanes_eq, List.map_map, bits_eq_toNat, scaledF_va, num_lane_eq, conv_eq_convertLane f hty hdt]
  rfl

theorem exec_cvti : Converts s c (.cvti f) f (f.x.extractLsb' 0 4) (fun k =>
      (sourceLane f.ty (f.x.extractLsb' 0 4) (f.x.extractLsb' 4 3).toNat k).map (fun j =>
        toIntType (f.x.extractLsb' 0 4) (rmOf f.rm) ((pa f c.ops j).scale (f.x.extractLsb' 7 8).toInt))) := by
  refine converts_of (i := .cvti f) h rfl ?_
  simp only [dtOf, partLanes_eq, List.map_map, bits_eq_toNat, scaledF_va, sbits_eq_toInt f.x (show 7 ≤ 14 by decide)]
  rfl

theorem exec_cvtf : Converts s c (.cvtf f) f (f.x.extractLsb' 0 4) (fun k =>
      (sourceLane f.ty (f.x.extractLsb' 0 4) (f.x.extractLsb' 4 3).toNat k).map (fun j =>
        let z := value f.ty (elem (tyBits f.ty) c.ops.va j)
        roundTo (f.x.extractLsb' 0 4) (if z = 0 then .zero false else .num (decide (z < 0)) z.natAbs 1 (f.x.extractLsb' 7 8).toInt)
          (rmOf f.rm) (f.fzo == 1#1))) := by
  refine converts_of (i := .cvtf f) h rfl ?_
  simp only [dtOf, partLanes_eq, List.map_map, bits_eq_toNat, num_lane_eq, scale_ofInt, sbits_eq_toInt f.x (show 7 ≤ 14 by decide)]
  rfl

theorem exec_pack (hty : f.ty ≠ 15#4) (hdt : f.x.extractLsb' 0 4 ≠ 15#4)
    (hcount : 512 / tyBits (f.x.extractLsb' 0 4) = 2 * (512 / tyBits f.ty)) :
    Converts s c (.pack f) f (f.x.extractLsb' 0 4) (fun k =>
      let first := if f.x.getLsbD 4 then k % 2 = 0 else k < 512 / tyBits f.ty
      let j := if f.x.getLsbD 4 then k / 2 else k % (512 / tyBits f.ty)
      let v := if first then c.ops.va else c.ops.vb
      some (convertLane f (f.x.extractLsb' 0 4) (readLane f none v j) (value f.ty (elem (tyBits f.ty) v j)))) := by
  refine converts_of (i := .pack f) h rfl ?_
  simp only [dtOf, hcount, num_lane_eq, conv_eq_convertLane f hty hdt, plainF, readF_eq_readLane, bits_eq_one, flatMap_pair_range,
    map_append_map_range, laneCount]
  split <;> exact List.map_congr_left fun k _ => by split <;> rfl

theorem exec_unpack (hty : f.ty ≠ 15#4) (hdt : f.x.extractLsb' 0 4 ≠ 15#4)
    (hcount : 2 * (512 / tyBits (f.x.extractLsb' 0 4)) = 512 / tyBits f.ty) :
    ∃ (v : Vec) (fl : BitVec 6), exec (.unpack f) s = .next (sent s c (toBoth f v) fl) ∧ ∀ j < 512 / tyBits f.ty / 2,
      elem (tyBits (f.x.extractLsb' 0 4)) v j = BitVec.ofNat _ (convertLane { f with rm := 0#2, fzo := 0#1 } (f.x.extractLsb' 0 4)
        (fa f c.ops (unpackLane (512 / tyBits f.ty) (f.x.extractLsb' 4 2).toNat j))
        (value f.ty (elem (tyBits f.ty) c.ops.va (unpackLane (512 / tyBits f.ty) (f.x.extractLsb' 4 2).toNat j)))).code := by
  refine ⟨_, _, runD_fire (i := .unpack f) h, fun j hj => ?_⟩
  rw [List.map_map]
  refine (elem_ofLanes_map _ _ _ (show j < laneCount f.ty / 2 from hj) (show j < 512 / tyBits (f.x.extractLsb' 0 4) by omega)).trans ?_
  dsimp only [Function.comp_apply, dtOf, laneCount]
  rw [ plainF_va, num_lane_eq, bits_eq_toNat]
  exact congrArg (fun r : Rounded => BitVec.ofNat _ r.code) (conv_eq_convertLane { f with rm := 0#2, fzo := 0#1 } hty hdt _ _)

end

/-- Settles O52: the integer that a mode gives is one, and each instruction converts the lanes that the rules name. -/
theorem conversionOperations : Obligations.ConversionOperations := by
  refine ⟨fun dt rm _ => ?_, fun f s c h hty hdt => ⟨exec_cvt h hty hdt, exec_cvti h, exec_cvtf h, exec_pack h hty hdt, exec_unpack h hty hdt⟩⟩
  simp only [← tyMin_eq, ← tyMax_eq, ← wrap_eq]
  refine ⟨fun q => rfl, fun s => rfl, fun v x z hx hdown hup hzero hnear => ?_⟩
  rw [toIntType_finite dt hx ⟨hdown, hup, hzero, hnear⟩, saturated]
  simp only [decide_eq_true_eq]

end Sys2Proof.Machine
end

section
/-!
PROOFS, 03 numbers: lanes moved, and votes over lanes.
-/

namespace Sys2Proof.Machine
open Claims

/-! ### Moves (06 R180, R181, R184, R186) -/

theorem ofNat_lane (w : Nat) (v : Vec) (k : Nat) : BitVec.ofNat w (lane w v k) = elem w v k := (extract_eq_lane w v k).symm

/-- One bit of X as a number. -/
theorem bits_bit (x : BitVec 19) (k : Nat) : bits x k k = if x.getLsbD k then 1 else 0 := by
  have hlt : bits x k k < 2 ^ (k + 1 - k) := Nat.mod_lt _ (Nat.two_pow_pos _)
  rw [Nat.add_sub_cancel_left, pow_one] at hlt
  have hone := bits_eq_one x k
  split
  next h => exact hone.2 h
  next h => have := mt hone.1 h; omega

theorem bitsBelow_eq (v : Vec) (k : Nat) : bitsBelow v k = setBelow v k := (List.countP_eq_length_filter ..).symm

theorem laneOp_perm : LaneOp .perm (fun f o n k =>
    let l := 512 / n
    let i := (elem 8 o.vb k).toNat
    if f.x.getLsbD 0 = false then elem n o.va (i % l)
    else if i % (2 * l) < l then elem n o.va (i % (2 * l)) else elem n o.vc (i % (2 * l) - l)) := by
  refine laneOp_of_lanes (fun _ => rfl) (fun _ _ => rfl) fun f o k => ?_
  dsimp only
  rw [lane_eq_elem 8, bits_bit, laneCount]
  cases f.x.getLsbD 0 with
  | false => simp only [Bool.false_eq_true, if_false, if_true, ofNat_lane]
  | true =>
    simp only [if_true, one_ne_zero, if_false, Bool.true_eq_false]
    split <;> exact ofNat_lane ..

theorem laneOp_shfl : LaneOp .shfl (fun f o n k =>
    let l := 512 / n
    let sh := (f.x.extractLsb' 4 6).toNat
    match (f.x.extractLsb' 0 4).toNat with
    | 0 => elem n o.va ((k + sh) % l)
    | 1 => if k + sh < l then elem n o.va (k + sh) else 0#n
    | 2 => if sh ≤ k then elem n o.va (k - sh) else 0#n
    | _ => elem n o.va (k ^^^ sh)) := by
  refine laneOp_of_lanes (fun _ => rfl) (fun _ _ => rfl) fun f o k => ?_
  dsimp only
  rw [bits_eq_toNat f.x 3 0, bits_eq_toNat f.x 9 4]
  generalize (f.x.extractLsb' 0 (3 + 1 - 0)).toNat = op
  rcases op with _ | _ | _ | op
  · exact ofNat_lane ..
  · exact (apply_ite (BitVec.ofNat _) _ _ _).trans (by rw [ofNat_lane]; rfl)
  · exact (apply_ite (BitVec.ofNat _) _ _ _).trans (by rw [ofNat_lane]; rfl)
  · exact ofNat_lane ..

theorem laneOp_expd : LaneOp .expd (fun _ o n k => if o.vb.getLsbD k then elem n o.va (setBelow o.vb k) else elem n o.vc k) := by
  refine laneOp_of_lanes (fun _ => rfl) (fun _ _ => rfl) fun f o k => ?_
  rw [bitsBelow_eq, apply_ite (BitVec.ofNat _), ofNat_lane, ofNat_lane]

theorem laneOp_zip : LaneOp .zip (fun f o n k =>
    let j := (if f.x.getLsbD 0 then 512 / n / 2 else 0) + k / 2
    if k % 2 = 0 then elem n o.va j else elem n o.vb j) := by
  refine laneOp_of_lanes (fun _ => rfl) (fun _ _ => rfl) fun f o k => ?_
  dsimp only
  rw [bits_bit, apply_ite (BitVec.ofNat _), ofNat_lane, ofNat_lane, ite_mul, one_mul, zero_mul, laneCount]

theorem laneOp_unzip : LaneOp .unzip (fun f o n k =>
    let h := 512 / n / 2
    let odd := if f.x.getLsbD 0 then 1 else 0
    if k < h then elem n o.va (2 * k + odd) else elem n o.vb (2 * (k - h) + odd)) := by
  refine laneOp_of_lanes (fun _ => rfl) (fun _ _ => rfl) fun f o k => ?_
  dsimp only
  rw [bits_bit, apply_ite (BitVec.ofNat _), ofNat_lane, ofNat_lane, laneCount]

/-! ### Lanes chosen by a mask (06 R184) -/

theorem setBelow_le (v : Vec) (k : Nat) : setBelow v k ≤ k := List.countP_le_length.trans_eq (List.length_range ..)

/-- A number that a predicate keeps stands, in what it keeps of the first n, after those below it. -/
theorem getElem?_filter_range (p : Nat → Bool) {n k : Nat} (hk : k < n) (hp : p k = true) :
    ((List.range n).filter p)[(List.range k).countP p]? = some k := by
  obtain ⟨m, rfl⟩ : ∃ m, n = k + (m + 1) := ⟨n - k - 1, by omega⟩
  rw [List.range_add, List.range_succ_eq_map, List.map_cons, List.filter_append, List.filter_cons, if_pos (by simpa using hp),
    List.countP_eq_length_filter, List.getElem?_append_right le_rfl, Nat.sub_self]
  rfl

theorem exec_cmpr {f : FmtG} {s : State} {c : Firing} (h : Fires f.pr s c) : ∃ v n : Vec,
    exec (.cmpr f) s = .next (sent s c [(f.t0, .val v), (f.t1, .val n)]) ∧
    (∀ k < 16, elem 32 n k = BitVec.ofNat 32 (setBelow c.ops.vb (512 / tyBits f.ty))) ∧
    (∀ k < 512 / tyBits f.ty, c.ops.vb.getLsbD k = true →
      elem (tyBits f.ty) v (setBelow c.ops.vb k) = elem (tyBits f.ty) c.ops.va k) ∧
    (∀ k < 512 / tyBits f.ty, setBelow c.ops.vb (512 / tyBits f.ty) ≤ k → elem (tyBits f.ty) v k = 0#(tyBits f.ty)) := by
  refine ⟨_, _, runD_fire (i := .cmpr f) h, fun k hk => ?_, fun k hk hset => ?_, fun k hk hle => ?_⟩
  · rw [elem_ofLanes _ _ hk, List.getD_replicate _ hk]
    exact congrArg _ (bitsBelow_eq ..)
  · have hlt := (setBelow_le c.ops.vb k).trans_lt hk
    have hget := getElem?_filter_range (fun j => c.ops.vb.getLsbD j) (n := laneCount f.ty) hk hset
    rw [elem_ofLanes _ _ hlt, List.getD_eq_getElem?_getD, List.getElem?_map, setBelow, hget]
    exact ofNat_lane ..
  · rw [elem_ofLanes _ _ hk, List.getD_eq_default]
    rw [List.length_map]
    exact (bitsBelow_eq ..).trans_le hle

/-! ### Votes (06 R185) -/

/-- A predicate token whose lanes all hold one bit. -/
theorem getLsbD_prTok_all (l : Nat) (b : Bool) {k : Nat} (hk : k < 512) :
    (prTok l (if b then 2 ^ l - 1 else 0)).getLsbD k = (decide (k < l) && b) := by
  rw [prTok, BitVec.getLsbD_ofNat, Nat.testBit_mod_two_pow, decide_eq_true hk, Bool.true_and]
  cases b
  · simp
  · rw [if_pos rfl, Nat.testBit_two_pow_sub_one]
    simp

theorem setBelow_pos_iff (v : Vec) (l : Nat) : 0 < setBelow v l ↔ ∃ j < l, v.getLsbD j = true := by
  simp [setBelow, List.countP_pos_iff]
theorem setBelow_eq_zero_iff (v : Vec) (l : Nat) : setBelow v l = 0 ↔ ∀ j < l, v.getLsbD j = false := by
  simp [setBelow, List.countP_eq_zero]
theorem setBelow_eq_iff (v : Vec) (l : Nat) : setBelow v l = l ↔ ∀ j < l, v.getLsbD j = true := by
  have h := List.countP_eq_length (p := fun j => v.getLsbD j) (l := List.range l)
  rw [List.length_range] at h
  simpa [setBelow] using h

/-- The bits are uniform when all are set or none is. -/
theorem setBelow_uniform_iff (v : Vec) {l : Nat} (hl : 0 < l) :
    setBelow v l = 0 ∨ setBelow v l = l ↔ ∀ j < l, v.getLsbD j = v.getLsbD 0 := by
  rw [setBelow_eq_zero_iff, setBelow_eq_iff]
  constructor
  · rintro (h | h) j hj <;> rw [h j hj, h 0 hl]
  · intro h
    cases h0 : v.getLsbD 0
    · exact .inl fun j hj => (h j hj).trans h0
    · exact .inr fun j hj => (h j hj).trans h0

/-- What `vote` sends. -/
def voteTok (f : FmtG) (o : Opnds) : Vec :=
  let l := laneCount f.ty
  let n := setBelow o.va l
  let all := fun (c : Bool) => prTok l (if c then 2 ^ l - 1 else 0)
  match (f.x.extractLsb' 0 2).toNat with
  | 0 => all (decide (0 < n))
  | 1 => all (n == l)
  | 2 => all (n == 0 || n == l)
  | _ => ofLanes (tyBits f.ty) ((List.range l).map fun _ => n)

theorem exec_voteTok {f : FmtG} {s : State} {c : Firing} (h : Fires f.pr s c) :
    exec (.vote f) s = .next (sent s c (toBoth f (voteTok f c.ops))) := by
  refine (runD_fire (i := .vote f) h).trans ?_
  simp only [bitsBelow_eq, bits_eq_toNat, voteTok]
  generalize hop : (f.x.extractLsb' 0 (1 + 1 - 0)).toNat = op
  rcases op with _ | _ | _ | op <;> rfl

theorem voteTok_spec (f : FmtG) (o : Opnds) {k : Nat} (hk : k < 512) :
    let l := 512 / tyBits f.ty
    ((f.x.extractLsb' 0 2).toNat = 0 → (voteTok f o).getLsbD k = decide (k < l ∧ ∃ j < l, o.va.getLsbD j = true)) ∧
    ((f.x.extractLsb' 0 2).toNat = 1 → (voteTok f o).getLsbD k = decide (k < l ∧ ∀ j < l, o.va.getLsbD j = true)) ∧
    ((f.x.extractLsb' 0 2).toNat = 2 → (voteTok f o).getLsbD k = decide (k < l ∧ ∀ j < l, o.va.getLsbD j = o.va.getLsbD 0)) ∧
    ((f.x.extractLsb' 0 2).toNat = 3 → k < l → elem (tyBits f.ty) (voteTok f o) k = BitVec.ofNat _ (setBelow o.va l)) := by
  have hl : 0 < 512 / tyBits f.ty := Nat.div_pos ((tyBits_le _).trans (by decide)) (tyBits_pos _)
  refine ⟨fun hop => ?_, fun hop => ?_, fun hop => ?_, fun hop hkl => ?_⟩ <;> simp only [voteTok, hop]
  · rw [getLsbD_prTok_all _ _ hk, laneCount, Bool.decide_and, decide_eq_decide.2 (setBelow_pos_iff ..)]
  · rw [getLsbD_prTok_all _ _ hk, laneCount, Bool.decide_and, beq_eq_decide, decide_eq_decide.2 (setBelow_eq_iff ..)]
  · rw [getLsbD_prTok_all _ _ hk, laneCount, Bool.decide_and, beq_eq_decide, beq_eq_decide, ← Bool.decide_or,
      decide_eq_decide.2 (setBelow_uniform_iff _ hl)]
  · exact elem_ofLanes_map _ _ _ hkl hkl

end Sys2Proof.Machine
end

section
/-!
PROOFS, 03 numbers: reductions and scans by the tree.
-/

namespace Sys2Proof.Machine
open Claims

/-! ### The tree over a group (03 R71) -/

/-- The codes that a combination gives. -/
def codesOf (g : Combine) (a b : Nat) : Nat := (g a b).1

/-- The tree over the combined neighbours is the tree one level up. -/
theorem node_map_pairs (g : Nat → Nat → Nat) (x : Nat → Nat) (l : Nat) :
    node g (fun j => g (x (2 * j)) (x (2 * j + 1))) l = node g x (l + 1) := by
  induction l with
  | zero => rfl
  | succ l ih =>
    funext k
    exact congrArg₂ g (congrFun ih _) (congrFun ih _)

/-- One level of the tree: its codes, and the flags of its nodes. -/
theorem treeLevel_range (g : Combine) (n : Nat) (x : Nat → Nat) :
    (treeLevel g ((List.range (2 * n)).map x)).1 = (List.range n).map (fun k => codesOf g (x (2 * k)) (x (2 * k + 1))) ∧
    ∀ b, (treeLevel g ((List.range (2 * n)).map x)).2.getLsbD b = true ↔
      ∃ k < n, (g (x (2 * k)) (x (2 * k + 1))).2.getLsbD b = true := by
  induction n generalizing x with
  | zero => simp [treeLevel]
  | succ n ih =>
    obtain ⟨hcodes, hflags⟩ := ih (fun k => x (k + 2))
    have hrange : (List.range (2 * (n + 1))).map x = x 0 :: x 1 :: (List.range (2 * n)).map (fun k => x (k + 2)) := by
      rw [show 2 * (n + 1) = 2 * n + 1 + 1 by ring, List.range_succ_eq_map, List.range_succ_eq_map]
      simp [Function.comp_def]
    rw [hrange]
    simp only [treeLevel, hcodes, BitVec.getLsbD_or, Bool.or_eq_true, hflags]
    refine ⟨?_, fun b => ?_⟩
    · rw [List.range_succ_eq_map]
      simp [codesOf, Function.comp_def, Nat.mul_succ]
    · rw [Nat.exists_lt_succ_left]
      simp [Nat.mul_succ]

/-- The levels of the tree are the nodes, and its flags are those of every node. -/
theorem tree_range (g : Combine) (lv : Nat) (x : Nat → Nat) :
    (∀ i ≤ lv, (tree g lv ((List.range (2 ^ lv)).map x)).1.getD i [] = (List.range (2 ^ (lv - i))).map (node (codesOf g) x i)) ∧
    ∀ b, (tree g lv ((List.range (2 ^ lv)).map x)).2.getLsbD b = true ↔ ∃ l < lv, ∃ k < 2 ^ (lv - l - 1),
      (g (node (codesOf g) x l (2 * k)) (node (codesOf g) x l (2 * k + 1))).2.getLsbD b = true := by
  induction lv generalizing x with
  | zero =>
    refine ⟨fun i hi => ?_, fun b => by simp [tree]⟩
    obtain rfl : i = 0 := by omega
    rfl
  | succ lv ih =>
    rw [Nat.pow_succ']
    obtain ⟨hcodes, hflags⟩ := treeLevel_range g (2 ^ lv) x
    obtain ⟨hlevels, hnodes⟩ := ih (fun k => codesOf g (x (2 * k)) (x (2 * k + 1)))
    simp only [tree, hcodes]
    refine ⟨fun i hi => ?_, fun b => ?_⟩
    · cases i with
      | zero => rw [List.getD_cons_zero, Nat.sub_zero, Nat.pow_succ']; rfl
      | succ i =>
        rw [List.getD_cons_succ, hlevels i (by omega), Nat.add_sub_add_right]
        simp only [node_map_pairs]
    · rw [BitVec.getLsbD_or, Bool.or_eq_true, hflags, hnodes, Nat.exists_lt_succ_left]
      simp only [node_map_pairs, Nat.add_sub_add_right, Nat.sub_zero, Nat.add_sub_cancel]
      rfl

/-- The root of the tree. -/
theorem tree_root (g : Combine) (lv : Nat) (x : Nat → Nat) :
    ((tree g lv ((List.range (2 ^ lv)).map x)).1.getD lv []).getD 0 0 = node (codesOf g) x lv 0 := by
  rw [(tree_range g lv x).1 lv le_rfl, Nat.sub_self]
  rfl

/-! ### The scan of a lane (03 R72) -/

/-- Where a lane takes a node of a level, the node is one of the level. -/
theorem base_div_lt {lg j lvl base : Nat} (hj : j + 1 ≤ 2 ^ lg) (hlvl : lvl ≤ lg) (hbase : base = (j + 1) / 2 ^ (lvl + 1) * 2 ^ (lvl + 1))
    (hhere : (j + 1) / 2 ^ lvl % 2 = 1) : base / 2 ^ lvl < 2 ^ (lg - lvl) := by
  have hhalf : (j + 1) / 2 ^ (lvl + 1) = (j + 1) / 2 ^ lvl / 2 := by rw [Nat.pow_succ, Nat.div_div_eq_div_mul]
  have hle : (j + 1) / 2 ^ lvl ≤ 2 ^ (lg - lvl) := by
    rw [← Nat.pow_div hlvl two_pos]
    exact Nat.div_le_div_right hj
  rw [hbase, hhalf, Nat.pow_succ', ← mul_assoc, Nat.mul_div_cancel _ (Nat.two_pow_pos lvl)]
  omega

/-- What is covered down to a level, from what is covered above it. -/
theorem base_step {j lvl base : Nat} (hbase : base = (j + 1) / 2 ^ (lvl + 1) * 2 ^ (lvl + 1)) :
    base + (j + 1) / 2 ^ lvl % 2 * 2 ^ lvl = (j + 1) / 2 ^ lvl * 2 ^ lvl := by
  rw [hbase, Nat.pow_succ', ← mul_assoc, ← Nat.add_mul, Nat.mul_comm 2 (2 ^ lvl), ← Nat.div_div_eq_div_mul, Nat.div_add_mod']

/-- What is combined so far, and a code that comes next. -/
def joined (g : Nat → Nat → Nat) (acc : Option Nat) (a : Nat) : Nat :=
  match acc with
  | none => a
  | some b => g b a

theorem scanFrom_zero (g : Nat → Nat → Nat) (x : Nat → Nat) (j base : Nat) (acc : Option Nat) :
    scanFrom g x j 0 base acc = if (j + 1) % 2 = 1 then some (joined g acc (x base)) else acc := rfl
theorem scanFrom_succ (g : Nat → Nat → Nat) (x : Nat → Nat) (j l base : Nat) (acc : Option Nat) :
    scanFrom g x j (l + 1) base acc = if (j + 1) / 2 ^ (l + 1) % 2 = 1 then
      scanFrom g x j l (base + 2 ^ (l + 1)) (some (joined g acc (node g x (l + 1) (base / 2 ^ (l + 1))))) else scanFrom g x j l base acc := rfl

section
variable (g : Combine) (nodes : List (List Nat)) (j base : Nat) (acc : Option Nat) (fl : BitVec 6)

theorem scanLane_zero_fst : (scanLane g nodes j 0 base acc fl).1 =
    if (j + 1) % 2 = 1 then joined (codesOf g) acc ((nodes.getD 0 []).getD base 0) else acc.getD 0 := by
  simp only [scanLane, pow_zero, Nat.div_one]
  by_cases hhere : (j + 1) % 2 = 1
  · cases acc <;> simp [hhere, joined, codesOf]
  · simp [hhere]

/-- A level of the scan takes its node and goes on behind it, or goes on. -/
theorem scanLane_succ (l : Nat) : ∃ fl', scanLane g nodes j (l + 1) base acc fl = if (j + 1) / 2 ^ (l + 1) % 2 = 1 then
    scanLane g nodes j l (base + 2 ^ (l + 1)) (some (joined (codesOf g) acc ((nodes.getD (l + 1) []).getD (base / 2 ^ (l + 1)) 0))) fl'
    else scanLane g nodes j l base acc fl' := by
  by_cases hhere : (j + 1) / 2 ^ (l + 1) % 2 = 1
  · refine ⟨match acc with
      | none => fl
      | some b => fl ||| (g b ((nodes.getD (l + 1) []).getD (base / 2 ^ (l + 1)) 0)).2, ?_⟩
    rw [if_pos hhere, scanLane.eq_def]
    simp only [hhere, beq_self_eq_true, if_true]
    cases acc <;> rfl
  · refine ⟨fl, ?_⟩
    rw [if_neg hhere, scanLane.eq_def]
    simp only [beq_eq_false_iff_ne.2 hhere, Bool.false_eq_true, if_false]
end

/-- The scan from a level down reads the nodes of the tree that cover what is left of the lanes 0 to j. -/
theorem scanLane_eq (g : Combine) {lg j : Nat} {x : Nat → Nat} {nodes : List (List Nat)} (hj : j + 1 ≤ 2 ^ lg)
    (hnodes : ∀ i ≤ lg, nodes.getD i [] = (List.range (2 ^ (lg - i))).map (node (codesOf g) x i)) (lvl : Nat) (hlvl : lvl ≤ lg) (base : Nat)
    (hbase : base = (j + 1) / 2 ^ (lvl + 1) * 2 ^ (lvl + 1)) (acc : Option Nat) (fl : BitVec 6) :
    (scanLane g nodes j lvl base acc fl).1 = (scanFrom (codesOf g) x j lvl base acc).getD 0 := by
  have hnode : ∀ lvl ≤ lg, ∀ k < 2 ^ (lg - lvl), (nodes.getD lvl []).getD k 0 = node (codesOf g) x lvl k := fun lvl hlvl k hk => by
    rw [hnodes lvl hlvl]
    simp [hk]
  induction lvl generalizing base acc fl with
  | zero =>
    have hblk := fun hhere => hnode 0 hlvl _ (base_div_lt hj hlvl hbase hhere)
    simp only [pow_zero, Nat.div_one] at hblk
    rw [scanLane_zero_fst, scanFrom_zero]
    split
    next hhere => rw [hblk hhere]; rfl
    next => rfl
  | succ lvl ih =>
    obtain ⟨fl', hlane⟩ := scanLane_succ g nodes j base acc fl lvl
    have hstep := base_step hbase
    rw [hlane, scanFrom_succ]
    split
    next hhere =>
      rw [hnode _ hlvl _ (base_div_lt hj hlvl hbase hhere)]
      rw [hhere, one_mul] at hstep
      exact ih (by omega) _ hstep _ _
    next hhere =>
      rw [show (j + 1) / 2 ^ (lvl + 1) % 2 = 0 by omega, Nat.zero_mul, Nat.add_zero] at hstep
      exact ih (by omega) _ hstep _ _

/-! ### Congruence -/

/-- Two combinations that agree on some codes, and keep among them, have the same nodes over such codes. -/
theorem node_congr {P : Nat → Prop} {g g' : Nat → Nat → Nat} (hg : ∀ a b, P a → P b → g a b = g' a b ∧ P (g a b)) {x : Nat → Nat}
    (hx : ∀ k, P (x k)) (l k : Nat) : node g x l k = node g' x l k ∧ P (node g x l k) := by
  induction l generalizing k with
  | zero => exact ⟨rfl, hx k⟩
  | succ l ih =>
    obtain ⟨heq, hp⟩ := ih (2 * k)
    obtain ⟨heq', hp'⟩ := ih (2 * k + 1)
    rw [node, node, ← heq, ← heq']
    exact hg _ _ hp hp'

theorem scanFrom_congr {P : Nat → Prop} {g g' : Nat → Nat → Nat} (hg : ∀ a b, P a → P b → g a b = g' a b ∧ P (g a b)) {x : Nat → Nat}
    (hx : ∀ k, P (x k)) (j l base : Nat) {acc : Option Nat} (hacc : ∀ a, acc = some a → P a) :
    scanFrom g x j l base acc = scanFrom g' x j l base acc := by
  have hjoin : ∀ (acc : Option Nat) (a : Nat), (∀ b, acc = some b → P b) → P a → joined g acc a = joined g' acc a ∧ P (joined g acc a) := by
    intro acc a hacc ha
    cases acc with
    | none => exact ⟨rfl, ha⟩
    | some b => exact hg b a (hacc b rfl) ha
  induction l generalizing base acc with
  | zero => rw [scanFrom_zero, scanFrom_zero, (hjoin acc _ hacc (hx base)).1]
  | succ l ih =>
    obtain ⟨hnode, hp⟩ := node_congr hg hx (l + 1) (base / 2 ^ (l + 1))
    obtain ⟨heq, hp'⟩ := hjoin acc _ hacc hp
    rw [scanFrom_succ, scanFrom_succ, ← hnode, ← heq, ih base hacc, ih _ (acc := some _) fun a ha => Option.some_inj.1 ha ▸ hp']

end Sys2Proof.Machine
end

section
/-!
PROOFS, 03 numbers: the instructions `red` and `scan`, and the cross-lane obligation.
-/

namespace Sys2Proof.Machine
open Claims

/-! ### One combination (06 R182) -/

/-- A code that fits its type; the combinations of floats take any code. -/
def FitsInt (ty : BitVec 4) (a : Nat) : Prop := ty.toNat ≤ 7 → a < 2 ^ tyBits ty

theorem combine_eq_int {f : FmtG} (hty : f.ty.toNat ≤ 7) {a b : Nat} (ha : a < 2 ^ tyBits f.ty) (hb : b < 2 ^ tyBits f.ty) :
    combine f a b = combineCodes f a b := by
  have hnum : ∀ x, x < 2 ^ tyBits f.ty → num f.ty x = value f.ty (BitVec.ofNat (tyBits f.ty) x) := fun x hx => by
    rw [← num_eq_value, BitVec.toNat_ofNat, Nat.mod_eq_of_lt hx]
  unfold combine combineCodes
  simp only [intTy, hty, decide_true, if_true, bits_eq_toNat, combine.laneMin', combine.laneMax', hnum a ha, hnum b hb]
  have hofNat : ∀ x, x < 2 ^ tyBits f.ty → (BitVec.ofNat (tyBits f.ty) x).toNat = x := fun x hx => by
    rw [BitVec.toNat_ofNat, Nat.mod_eq_of_lt hx]
  congr 1
  rcases (f.x.extractLsb' 0 (3 + 1 - 0)).toNat with _ | _ | _ | _ | _ | op
  · exact ((BitVec.toNat_add ..).trans (by rw [hofNat a ha, hofNat b hb]; rfl)).symm
  · exact ((apply_ite BitVec.toNat _ _ _).trans (by rw [hofNat a ha, hofNat b hb]; rfl)).symm
  · exact ((apply_ite BitVec.toNat _ _ _).trans (by rw [hofNat a ha, hofNat b hb]; rfl)).symm
  · exact ((BitVec.toNat_and ..).trans (by rw [hofNat a ha, hofNat b hb]; rfl)).symm
  · exact ((BitVec.toNat_or ..).trans (by rw [hofNat a ha, hofNat b hb]; rfl)).symm
  · exact ((BitVec.toNat_xor ..).trans (by rw [hofNat a ha, hofNat b hb]; rfl)).symm

theorem combine_eq_float {f : FmtG} (hty : ¬f.ty.toNat ≤ 7) (a b : Nat) : combine f a b = combineCodes f a b := by
  unfold combine combineCodes
  simp only [intTy, hty, decide_false, if_false, bits_eq_toNat, Bool.false_eq_true]
  rfl

theorem combine_eq {f : FmtG} {a b : Nat} (ha : FitsInt f.ty a) (hb : FitsInt f.ty b) : combine f a b = combineCodes f a b := by
  by_cases hty : f.ty.toNat ≤ 7
  · exact combine_eq_int hty (ha hty) (hb hty)
  · exact combine_eq_float hty a b

theorem combineCodes_fits (f : FmtG) (a b : Nat) : FitsInt f.ty (combineCodes f a b).1 := by
  intro hty
  simp only [combineCodes, hty, if_true]
  exact BitVec.isLt _

/-! ### The groups -/

theorem groupLog_eq (f : FmtG) : groupLog f = groupBits f := by
  have hzero : bits f.x 8 5 = 0 ↔ f.x.extractLsb' 5 4 = 0#4 := by
    rw [bits_eq_toNat, ← BitVec.toNat_inj]
    rfl
  simp only [groupLog, groupBits, hzero, laneCount]
  split
  · rfl
  · exact bits_eq_toNat ..

/-- An input lane as the model reads it (06 R182). -/
theorem redInput_eq {f : FmtG} (hty : f.ty.toNat ≤ 11) (v : Vec) (k : Nat) : redInput f v k = inputLane f v k := by
  have hfloat : floatTy f.ty = decide (8 ≤ f.ty.toNat) := by simp [floatTy, show f.ty.toNat ≤ 12 by omega]
  simp only [redInput, inputLane, lane_eq_elem, hfloat]
  generalize elem (tyBits f.ty) v k = x
  have hsign : x.toNat / 2 ^ (tyBits f.ty - 1) * 2 ^ (tyBits f.ty - 1) = if x.msb then 2 ^ (tyBits f.ty - 1) else 0 := by
    have hlt := x.isLt
    have hpow : 2 ^ tyBits f.ty = 2 * 2 ^ (tyBits f.ty - 1) := by rw [← Nat.pow_succ']; congr 1; have := tyBits_pos f.ty; omega
    rw [BitVec.msb_eq_decide]
    by_cases hmsb : 2 ^ (tyBits f.ty - 1) ≤ x.toNat
    · rw [Nat.div_eq_of_lt_le (k := 1) (by omega) (by omega)]
      simp [hmsb]
    · rw [Nat.div_eq_of_lt (by omega)]
      simp [hmsb]
  rw [hsign]
  simp [and_assoc]

theorem inputLane_fits (f : FmtG) (v : Vec) (k : Nat) : FitsInt f.ty (inputLane f v k) := by
  intro hty
  rw [inputLane, if_neg (by omega)]
  exact BitVec.isLt _

/-- A list of groups of one length, flattened. -/
theorem getD_flatMap_range {α : Type} (F : Nat → List α) {m : Nat} (n : Nat) (hlen : ∀ q < n, (F q).length = m) {q j : Nat} (hq : q < n)
    (hj : j < m) (d : α) : ((List.range n).flatMap F).getD (q * m + j) d = (F q).getD j d := by
  have hlength : ∀ n', n' ≤ n → ((List.range n').flatMap F).length = n' * m := by
    intro n' hn'
    induction n' with
    | zero => simp
    | succ n' ih => rw [List.range_succ, List.flatMap_append, List.length_append, ih (by omega)]; simp [hlen n' (by omega), Nat.succ_mul]
  obtain ⟨r, rfl⟩ : ∃ r, n = q + (r + 1) := ⟨n - q - 1, by omega⟩
  rw [List.range_add, List.range_succ_eq_map, List.flatMap_append, List.getD_append_right _ _ _ _ (by rw [hlength q (by omega)]; omega),
    hlength q (by omega), Nat.add_sub_cancel_left]
  simp only [List.map_cons, List.flatMap_cons, Nat.add_zero]
  exact List.getD_append _ _ _ _ (by rw [hlen q (by omega)]; exact hj)

/-- The input lanes of a group. -/
def groupLane (f : FmtG) (v : Vec) (q j : Nat) : Nat := inputLane f v (q * 2 ^ groupBits f + j)

theorem redGroups_eq {f : FmtG} (hty : f.ty.toNat ≤ 11) (v : Vec) : redGroups f v =
    (List.range (512 / tyBits f.ty / 2 ^ groupBits f)).map (fun q => (List.range (2 ^ groupBits f)).map (groupLane f v q)) := by
  simp only [redGroups, groupLog_eq, laneCount, redInput_eq hty]
  rfl

section
variable (f : FmtG) (v : Vec) (q : Nat)

theorem codesOf_combine {a b : Nat} (ha : FitsInt f.ty a) (hb : FitsInt f.ty b) :
    codesOf (combine f) a b = codesOf (combineCodes f) a b ∧ FitsInt f.ty (codesOf (combine f) a b) := by
  rw [codesOf, codesOf, combine_eq ha hb]
  exact ⟨rfl, combineCodes_fits f a b⟩

theorem node_combine (l k : Nat) : node (codesOf (combine f)) (groupLane f v q) l k = node (codesOf (combineCodes f)) (groupLane f v q) l k ∧
    FitsInt f.ty (node (codesOf (combine f)) (groupLane f v q) l k) :=
  node_congr (P := FitsInt f.ty) (fun _ _ => codesOf_combine f) (fun _ => inputLane_fits f v _) l k

theorem scanFrom_combine (j l : Nat) : scanFrom (codesOf (combine f)) (groupLane f v q) j l 0 none =
    scanFrom (codesOf (combineCodes f)) (groupLane f v q) j l 0 none :=
  scanFrom_congr (P := FitsInt f.ty) (fun _ _ => codesOf_combine f) (fun _ => inputLane_fits f v _) j l 0 fun _ h => nomatch h

/-- The flags of a group are those of its combinations. -/
theorem getLsbD_tree_combine (lg b : Nat) :
    (tree (combine f) lg ((List.range (2 ^ lg)).map (groupLane f v q))).2.getLsbD b = true ↔ ∃ l < lg, ∃ k < 2 ^ (lg - l - 1),
      (combineCodes f (node (codesOf (combineCodes f)) (groupLane f v q) l (2 * k))
        (node (codesOf (combineCodes f)) (groupLane f v q) l (2 * k + 1))).2.getLsbD b = true := by
  rw [(tree_range _ _ _).2]
  refine exists_congr fun l => and_congr_right fun _ => exists_congr fun k => and_congr_right fun _ => ?_
  obtain ⟨heq, hfits⟩ := node_combine f v q l (2 * k)
  obtain ⟨heq', hfits'⟩ := node_combine f v q l (2 * k + 1)
  rw [combine_eq hfits hfits', heq, heq']
end

/-- A lane of a group is a lane of the token. -/
theorem group_lane_lt {n m q j : Nat} (hq : q < n / m) (hj : j < m) : q * m + j < n := by
  calc q * m + j < (q + 1) * m := by rw [Nat.succ_mul]; omega
    _ ≤ n / m * m := Nat.mul_le_mul_right _ hq
    _ ≤ n := Nat.div_mul_le_self ..

/-! ### The identity (06 R182, R183) -/

theorem roundTo_negZero_code : ∀ ty : BitVec 4, 8 ≤ ty.toNat → ty.toNat ≤ 11 →
    (roundTo ty (.zero true) .near false).code = 2 ^ (tyBits ty - 1) := by decide
theorem roundTo_inf_code : ∀ ty : BitVec 4, 8 ≤ ty.toNat → ty.toNat ≤ 11 → ∀ s, (roundTo ty (.inf s) .near false).code =
    (if s then 2 ^ (tyBits ty - 1) else 0) + (2 ^ (layout ty).eb - 1) * 2 ^ (layout ty).fb := by decide

theorem ofNat_identityOf {f : FmtG} (hty : f.ty.toNat ≤ 11) : BitVec.ofNat (tyBits f.ty) (identityOf f) = identity f := by
  unfold identityOf identity
  simp only [intTy, bits_eq_toNat]
  by_cases hint : f.ty.toNat ≤ 7
  · simp only [hint, decide_true, if_true]
    rcases (f.x.extractLsb' 0 (3 + 1 - 0)).toNat with _ | _ | _ | _ | op
    · rfl
    · exact (ofNat_wrap ..).trans (by rw [tyMax_eq]; rfl)
    · exact (ofNat_wrap ..).trans (by rw [tyMin_eq]; rfl)
    · exact BitVec.eq_of_toNat_eq (by simp [BitVec.toNat_allOnes])
    · rfl
  · have hzero := roundTo_negZero_code f.ty (by omega) hty
    have hinf := roundTo_inf_code f.ty (by omega) hty
    simp only [hint, decide_false, Bool.false_eq_true, if_false]
    rcases (f.x.extractLsb' 0 (3 + 1 - 0)).toNat with _ | _ | op
    · exact congrArg _ hzero.symm
    · exact congrArg _ ((Nat.zero_add _).symm.trans (hinf false).symm)
    · exact congrArg _ (hinf true).symm

/-- The code that `scan` delivers: a NaN is the canonical one (03 R56). -/
def canonCode (f : FmtG) (x : Nat) : Nat := if 8 ≤ f.ty.toNat ∧ (decodeF f.ty x).isNan = true then canonicalNan f.ty else x

theorem scanOut_eq {f : FmtG} (hty : f.ty.toNat ≤ 11) (x : Nat) : scanOut f x = canonCode f x := by
  simp [scanOut, canonCode, floatTy, show f.ty.toNat ≤ 12 by omega]

section
variable {f : FmtG} {s : State} {c : Firing} (h : Fires f.pr s c) (hty : f.ty.toNat ≤ 11)
include h hty

theorem exec_red : ∃ (v : Vec) (fl : BitVec 6), exec (.red f) s = .next (sent s c (toBoth f v) fl) ∧
    (∀ q < 512 / tyBits f.ty / 2 ^ groupBits f, ∀ j < 2 ^ groupBits f, elem (tyBits f.ty) v (q * 2 ^ groupBits f + j) =
      if f.x.getLsbD 4 = true ∨ j = 0 then
        BitVec.ofNat (tyBits f.ty) (node (codesOf (combineCodes f)) (groupLane f c.ops.va q) (groupBits f) 0)
      else 0#(tyBits f.ty)) ∧
    (∀ b < 6, fl.getLsbD b = true ↔ ∃ q < 512 / tyBits f.ty / 2 ^ groupBits f, ∃ l < groupBits f, ∃ k < 2 ^ (groupBits f - l - 1),
      (combineCodes f (node (codesOf (combineCodes f)) (groupLane f c.ops.va q) l (2 * k))
        (node (codesOf (combineCodes f)) (groupLane f c.ops.va q) l (2 * k + 1))).2.getLsbD b = true) := by
  refine ⟨_, _, runD_fire (i := .red f) h, fun q hq j hj => ?_, fun b _ => ?_⟩
  · rw [elem_ofLanes _ _ (group_lane_lt hq hj), groupLog_eq, redGroups_eq hty, List.map_map, List.flatMap_map,
      getD_flatMap_range _ _ (fun q _ => ?len) hq hj]
    case len =>
      split
      · exact List.length_replicate ..
      · rw [List.length_cons, List.length_replicate, Nat.sub_add_cancel (Nat.two_pow_pos _)]
    simp only [Function.comp_apply, tree_root, bits_eq_one, (node_combine f c.ops.va q (groupBits f) 0).1]
    by_cases hbc : f.x.getLsbD 4 = true
    · rw [if_pos hbc, if_pos (.inl hbc), List.getD_replicate _ hj]
    · rw [if_neg hbc]
      cases j with
      | zero => rw [if_pos (.inr rfl)]; rfl
      | succ j => rw [if_neg (not_or.2 ⟨hbc, Nat.succ_ne_zero j⟩), List.getD_cons_succ, List.getD_replicate _ (by omega)]
  · simp only [both, groupLog_eq, redGroups_eq hty, List.map_map, getLsbD_joinFlags_map, Function.comp_apply, getLsbD_tree_combine]

theorem exec_scan : ∃ (v : Vec) (fl : BitVec 6), exec (.scan f) s = .next (sent s c (toBoth f v) fl) ∧
    ∀ q < 512 / tyBits f.ty / 2 ^ groupBits f, ∀ j < 2 ^ groupBits f, elem (tyBits f.ty) v (q * 2 ^ groupBits f + j) =
      if f.x.getLsbD 4 = false then
        BitVec.ofNat (tyBits f.ty) (canonCode f ((scanFrom (codesOf (combineCodes f)) (groupLane f c.ops.va q) j (groupBits f) 0 none).getD 0))
      else if j = 0 then identity f
      else BitVec.ofNat (tyBits f.ty)
        (canonCode f ((scanFrom (codesOf (combineCodes f)) (groupLane f c.ops.va q) (j - 1) (groupBits f) 0 none).getD 0)) := by
  refine ⟨_, _, runD_fire (i := .scan f) h, fun q hq j hj => ?_⟩
  have hscan : ∀ j < 2 ^ groupBits f, (scanLane (combine f) (tree (combine f) (groupBits f)
      ((List.range (2 ^ groupBits f)).map (groupLane f c.ops.va q))).1 j (groupBits f) 0 none 0#6).1 =
      (scanFrom (codesOf (combineCodes f)) (groupLane f c.ops.va q) j (groupBits f) 0 none).getD 0 := fun j hj => by
    have hbase : (j + 1) / 2 ^ (groupBits f + 1) = 0 := Nat.div_eq_of_lt (by rw [Nat.pow_succ]; omega)
    rw [scanLane_eq (combine f) hj (tree_range _ _ _).1 _ le_rfl 0 (by rw [hbase, Nat.zero_mul]), scanFrom_combine]
  rw [elem_ofLanes _ _ (group_lane_lt hq hj), groupLog_eq, redGroups_eq hty, List.map_map, List.flatMap_map,
    getD_flatMap_range _ _ (fun q _ => ?len) hq hj]
  case len =>
    split
    · simp [Nat.sub_add_cancel (Nat.two_pow_pos (groupBits f))]
    · simp
  simp only [Function.comp_apply, List.map_map, bits_eq_one, scanOut_eq hty]
  cases hexcl : f.x.getLsbD 4 with
  | false =>
    simp only [Bool.false_eq_true, if_false, if_true]
    rw [getD_map_range _ _ hj, Function.comp_apply, hscan j hj]
  | true =>
    simp only [if_true, Bool.true_eq_false, if_false]
    cases j with
    | zero => exact ofNat_identityOf hty
    | succ j =>
      obtain ⟨m, hm⟩ : ∃ m, 2 ^ groupBits f = m + 1 := ⟨2 ^ groupBits f - 1, by omega⟩
      have hlast : ∀ F : Nat → Nat, ((List.range (2 ^ groupBits f)).map F).dropLast = (List.range m).map F := fun F => by
        rw [hm, List.range_succ, List.map_append, List.map_singleton, List.dropLast_concat]
      rw [List.getD_cons_succ, hlast, getD_map_range _ _ (by omega), Function.comp_apply, hscan j (by omega), if_neg (Nat.succ_ne_zero j)]
      rfl
end

/-- Settles O53: the moves lane by lane, the groups of `red` and `scan` by the tree, and the votes. -/
theorem crossLane : Obligations.CrossLane :=
  ⟨⟨fun f s c h => laneOp_perm f s c h, laneOp_shfl, laneOp_expd, laneOp_zip, laneOp_unzip, fun _ _ _ h => exec_cmpr h⟩,
    fun _ _ _ h hty _ => ⟨exec_red h hty, exec_scan h hty⟩, fun f _ c h => ⟨_, exec_voteTok h, fun _ hk => voteTok_spec f c.ops hk⟩⟩

end Sys2Proof.Machine
end

section
/-!
PROOFS, 03 numbers: a dense run of the matrix array in i8 by i8.
-/

namespace Sys2Proof.Machine
open Claims

/-! ### A step that starts (07 R198) -/

/-- The step that an event names is a step of an instance of the device, which has a thread. -/
theorem Dev.stepAt_spec {d : Dev} {iid idx : Nat} {st : StepSt} {x : Inst} {b : Block} {u : Thread} {m : MStep} {i : Instr}
    (h : d.stepAt iid idx st = some (x, b, u, m, i)) : d.inst iid = some x ∧ d.thr x.thr = some u ∧ m ∈ x.msteps ∧ m.idx = idx := by
  unfold Dev.stepAt at h
  split at h
  · cases h
  next y hy =>
    split at h
    next b' u' m' hb hu hm =>
      obtain ⟨i', -, hi⟩ := Option.map_eq_some_iff.1 h
      cases hi
      have hidx := List.find?_some hm
      rw [Bool.and_eq_true, beq_iff_eq] at hidx
      exact ⟨hy, hu, List.mem_of_find?_eq_some hm, hidx.1⟩
    · cases h

/-- A step whose turn it is, and whose preparation goes on, starts. -/
theorem exec_matrixStepStart_go {s : State} {x x' : Inst} {b : Block} {u : Thread} {m m' : MStep} {i : Instr}
    {g : W → Nat → Nat → Inst → Thread → MStep → Prep} {w : W} (h : StepReady s x b u m i) (hg : startOf i = some g) (hi : isWbload i = false)
    (hgo : g s.toW s.dev.arg.a s.dev.arg.b x u m = .go w m' x') : exec .matrixStepStart s =
      .next { s with dev := w.d.setInst s.dev.arg.a (x'.setStep { m' with st := .started }), mem := s.mem.writeAll w.ov.reverse } := by
  obtain ⟨hat, hturn⟩ := h
  have hat : s.toW.d.stepAt s.toW.d.arg.a s.toW.d.arg.b .waiting = some (x, b, u, m, i) := hat
  have hturn : s.toW.stepTurn s.toW.d.arg.a x b u m i = true := hturn
  have hgo : g s.toW s.toW.d.arg.a s.toW.d.arg.b x u m = .go w m' x' := hgo
  rw [exec, execMatrixStepStart, run_eq, W.stepStart]
  simp only [hat, hg, hi, hturn, hgo]
  rfl

/-- A step replaced stands among the steps of its instance. -/
theorem Inst.mem_setStep {x : Inst} {m m' : MStep} (hm : m ∈ x.msteps) (hidx : m'.idx = m.idx) : m' ∈ (x.setStep m').msteps :=
  List.mem_map.2 ⟨m, hm, by simp [hidx]⟩

/-- What the replacement of a tile leaves of the instance and of the thread (07 R201). -/
theorem W.putTile_spec (w : W) (x : Inst) {t u : Thread} (k : Nat) (tl : Tile) (hu : w.d.thr x.thr = some u) :
    (w.putTile x t k tl).1.ov = w.ov ∧ (w.putTile x t k tl).2.msteps = x.msteps ∧
      ∃ v, (w.putTile x t k tl).1.d.thr x.thr = some v ∧ v.tiles = u.tiles.set k tl := by
  refine ⟨rfl, rfl, ?_⟩
  simp only [W.putTile, Dev.modThr, hu]
  exact ⟨_, Tbl.look_set_self .., rfl⟩

/-! ### The sums of a K-step (03 R73) -/

/-- A sum of exact integers. -/
theorem foldl_add_exact (l : List (Nat × Nat)) (p : Nat × Nat → Int) (z : Int) :
    l.foldl (fun (acc : MSum) q => acc.add (.exact (p q) 0)) (.exact z 0) = .exact (z + (l.map p).sum) 0 := by
  induction l generalizing z with
  | nil => simp
  | cons q r ih =>
    rw [List.foldl_cons, show (MSum.exact z 0).add (.exact (p q) 0) = .exact (z + p q) 0 by simp [MSum.add], ih, List.map_cons,
      List.sum_cons, add_assoc]

/-- A byte as an i8 number. -/
theorem num_i8 (v : Byte) : num 0#4 v.toNat = v.toInt := (num_eq_value 0#4 v).trans (by simp [value, signedTy]; rfl)

/-- An element of 8 bits is its byte. -/
theorem elemAt_byte (e : Nat) (bs : List Byte) : elemAt 8 e bs = (bs.getD e 0#8).toNat := by
  simp [elemAt, ofBytes]

/-- The products of two rows of i8 elements, summed. -/
theorem stepSum_i8 (n : Nat) (x y : Nat → Byte) :
    stepSum 0#4 0#4 ((List.range n).map (fun e => (x e).toNat)) ((List.range n).map (fun e => (y e).toNat)) =
      .exact ((List.range n).map (fun e => (x e).toInt * (y e).toInt)).sum 0 := by
  have hint : intTy 0#4 = true := rfl
  simp only [stepSum, List.zip_map', hint, if_true]
  rw [foldl_add_exact _ (fun q => num 0#4 q.1 * num 0#4 q.2), List.map_map, zero_add]
  simp only [Function.comp_def, num_i8]

/-- The bytes of a row of a panel. -/
theorem getD_take_drop {α : Type} (l : List α) {o n e : Nat} (he : e < n) (d : α) : ((l.drop o).take n).getD e d = l.getD (o + e) d := by
  simp [List.getD, he]

/-- The exact sums of a K-step on a core of one grid, cell by cell. -/
theorem kStepSums_i8 {w : W} {t : Thread} {tl : Tile} (bytes : List Byte) {off st i j : Nat} (hwidth : tl.width = 1) (hi : i < tl.m)
    (hj : j < tl.n) : (kStepSums w t tl [bytes] off st 0#4 0#4 0).getD (i * tl.n + j) (.exact 0 0) =
      .exact ((List.range 96).map (fun e => (bytes.getD ((st * tl.m + i) * 96 + e) 0#8).toInt *
        (w.rd (wbKey t.first (off + (st * tl.n + j) * 96) + e)).toInt)).sum 0 := by
  have hx : ∀ i, (List.range (kElems 0#4)).map (fun e => elemAt (elemWidth 0#4) e ((bytes.drop ((st * tl.m + i) * 96)).take 96)) =
      (List.range 96).map (fun e => (bytes.getD ((st * tl.m + i) * 96 + e) 0#8).toNat) := fun i =>
    List.map_congr_left fun e he => by
      rw [show elemWidth 0#4 = 8 from rfl, elemAt_byte, getD_take_drop bytes (n := 96) (List.mem_range.1 he)]
  have hy : w.readB t.first off st tl.n 0#4 0 = (List.range tl.n).map (fun j =>
      (List.range 96).map (fun e => (w.rd (wbKey t.first (off + (st * tl.n + j) * 96) + e)).toNat)) :=
    List.map_congr_left fun j _ => List.map_congr_left fun e he => by
      rw [show elemWidth 0#4 = 8 from rfl, elemAt_byte, show recSize 0 = 96 from rfl, W.rds_getD w _ 96 (List.mem_range.1 he)]
  have hshare : shareCols tl.width = 1 := by rw [hwidth]; rfl
  have hsums : kStepSums w t tl [bytes] off st 0#4 0#4 0 = (List.range tl.m).flatMap (fun i => (List.range tl.n).map (fun j =>
      MSum.exact ((List.range 96).map (fun e => (bytes.getD ((st * tl.m + i) * 96 + e) 0#8).toInt *
        (w.rd (wbKey t.first (off + (st * tl.n + j) * 96) + e)).toInt)).sum 0)) := by
    simp only [kStepSums, hshare, List.zipIdx_cons, List.zipIdx_nil, List.flatMap_cons, List.flatMap_nil, List.append_nil, List.range_one,
      Nat.zero_mul, Nat.add_zero, hx, hy, List.map_map, Function.comp_def, stepSum_i8]
  rw [hsums, getD_flatMap_range _ _ (fun _ _ => by simp) hi hj, getD_map_range _ _ hj]

/-- A cell of an i32 tile grows by an exact integer, modulo 2^32. -/
theorem addCell_i32 (c : BitVec 32) (z : Int) : (addCell true c (.exact z 0)).1 = c + BitVec.ofInt 32 z := by
  simp [addCell, BitVec.ofInt_add]

/-- The sums of a K-step added to an i32 tile. -/
theorem addSums_i32 {t : Tile} {l : List MSum} {k : Nat} {z : Int} (hi32 : t.i32 = true) (hk : k < t.rows * t.cols)
    (hl : l.getD k (.exact 0 0) = .exact z 0) : (t.addSums l).1.cells.getD k 0#32 = t.cells.getD k 0#32 + BitVec.ofInt 32 z := by
  simp only [Tile.addSums, List.map_map]
  rw [getD_map_range _ _ hk, Function.comp_apply, hi32, hl, addCell_i32]

/-- A tile after some K-steps: its layout is the same, and a cell whose sums are integers has grown by them. -/
theorem foldl_addSums {tl : Tile} (sums : Nat → List MSum) (hi32 : tl.i32 = true) (hlive : tl.live = true) (K : Nat) :
    let r := ((List.range K).foldl (fun (acc : Tile × BitVec 6) s => ((acc.1.addSums (sums s)).1, acc.2 ||| (acc.1.addSums (sums s)).2))
      (tl, 0#6)).1
    (∃ cells, r = { tl with cells := cells }) ∧ ∀ k < tl.rows * tl.cols, ∀ z : Nat → Int,
      (∀ s < K, (sums s).getD k (.exact 0 0) = .exact (z s) 0) →
      r.cells.getD k 0#32 = tl.cells.getD k 0#32 + BitVec.ofInt 32 ((List.range K).map z).sum := by
  induction K with
  | zero => exact ⟨⟨tl.cells, rfl⟩, fun k _ z _ => by simp⟩
  | succ K ih =>
    obtain ⟨⟨cells, hr⟩, hcells⟩ := ih
    dsimp only at hr hcells ⊢
    rw [List.range_succ, List.foldl_append]
    simp only [List.foldl_cons, List.foldl_nil]
    generalize (List.foldl _ (tl, 0#6) (List.range K)).1 = r at hr hcells
    subst hr
    refine ⟨⟨_, by simp only [Tile.addSums, hlive]; rfl⟩, fun k hk z hsums => ?_⟩
    rw [addSums_i32 (t := { tl with cells := cells }) hi32 hk (hsums K (by omega)), hcells k hk z fun s hs => hsums s (by omega),
      List.map_append, List.sum_append, BitVec.ofInt_add, add_assoc]
    simp

/-! ### The operands of a run (07 R193-R195) -/

/-- A scratchpad load of an instance whose thread has no store under way reads the bytes of the work area. -/
theorem W.loadSp_getD {w : W} {iid : Nat} {x : Inst} {g l : Nat} (hx : w.d.inst iid = some x)
    (hnone : ∀ y ∈ w.d.insts, y.2.thr = x.thr → ∀ q ∈ y.2.accs, q.isStore = false) (hway : ∀ q ∈ w.d.spStores, q.thr ≠ x.thr) (k : Nat)
    {n i : Nat} (hi : i < n) : ((w.loadSp x g l (span k n)).map Prod.snd).getD i 0#8 = w.rd (k + i) := by
  have hfwd : ∀ a, w.d.fwdByte x l (some g) a = none := fun a =>
    fwdByte_of_no_store (Tbl.mem_of_look hx) fun y hy hthr q hq hst => by simp [hnone y hy hthr q hq] at hst
  have hsp : w.d.spStores.filter (fun q => q.thr == x.thr) = [] := List.filter_eq_nil_iff.2 fun q hq => by simpa using hway q hq
  simp only [W.loadSp, hsp, span, List.map_map]
  rw [getD_map_range _ _ hi]
  simp [hfwd, cellAt]

/-- The A panel of a core of one grid, in the scratchpad. -/
theorem W.readA_one {w : W} {iid idx : Nat} {x : Inst} {t : Thread} {m : MStep} {tm K tile : Nat} (hwidth : t.width = 1)
    (halign : m.a.toNat % 32 = 0) (hin : m.a.toNat + K * tm * 96 ≤ w.d.scratchSize t)
    (hgo : w.d.stalled x (spKey t.first (w.d.window t + m.a.toNat)) (K * tm * 96) = false) :
    ∃ late accs, w.readA iid idx x t m false tm K tile = (.go w { m with late := late } { x with accs := accs },
      [(w.loadSp x t.first 32 (span (spKey t.first (w.d.window t + m.a.toNat)) (K * tm * 96))).map Prod.snd]) := by
  have hrows : shareRows t.width = 1 := by rw [hwidth]; rfl
  simp only [W.readA, Bool.false_eq_true, if_false, if_neg (not_not.2 halign), if_neg (Nat.not_lt.2 hin), hrows, List.range_one,
    List.map_cons, List.map_nil, Nat.zero_mul, Nat.add_zero, List.any_cons, List.any_nil, hgo, Bool.or_false]
  exact ⟨_, _, rfl⟩

/-- The bytes of the rows of K K-steps lie one after the other (07 R193). -/
theorem record_lt {K n st c e : Nat} (hst : st < K) (hc : c < n) (he : e < 96) : (st * n + c) * 96 + e < K * n * 96 := by
  have hrows : (st + 1) * n ≤ K * n := Nat.mul_le_mul_right _ hst
  rw [add_mul, one_mul] at hrows
  omega

/-- The bytes of a record lie one after the other, within the buffer. -/
theorem wbKey_add {g o e : Nat} (h : o + e < 524288) : wbKey g (o + e) = wbKey g o + e := by
  simp only [wbKey]
  omega

/-- A B range of dense records whose units all say so, on a core of one grid. -/
theorem Dev.badB_one {d : Dev} {t : Thread} {off n : Nat} (hwidth : t.width = 1) (halign : off % 32 = 0) (hin : off + n ≤ 524288)
    (htags : ∀ j < n / 32, (d.grid t.first).wtags.get (off / 32 + j) .empty = .full 8 0) : d.badB t off n 0#4 0 = false := by
  have hgrids : t.grids = [t.first] := by simp [Thread.grids, hwidth]
  have hunits : ((List.range (n / 32)).any fun j => (d.grid t.first).wtags.get (off / 32 + j) .empty != .full (elemWidth 0#4) 0) = false :=
    List.any_eq_false.2 fun j hj => by rw [htags j (List.mem_range.1 hj)]; decide
  simp [Dev.badB, hgrids, hunits, halign, hin]

/-- A tile of the current width and of the cells named. -/
theorem shapeOk_self (tl : Tile) : shapeOk tl tl.width (some tl.i32) = some tl := by
  obtain ⟨m, n, i32, width, live, cells⟩ := tl
  cases live <;> simp [shapeOk]

/-- The tile and the flags after the K-steps of a run (07 R208). -/
def W.mmaRun (w : W) (f : FmtN) (t : Thread) (tl : Tile) (rows : List (List Byte)) (off : Nat) : Tile × BitVec 6 :=
  (List.range f.ksteps.toNat).foldl (fun acc s =>
    let l := kStepSums w t tl rows off s f.af f.bf f.sparse.toNat
    ((acc.1.addSums l).1, acc.2 ||| (acc.1.addSums l).2)) ({ tl with live := true }, 0#6)

/-- What `mma` leaves when the shape, the B range and the A panel are right, and KSTEPS gives the K-steps (07 R208). -/
theorem startMma_go {f : FmtN} {w w' : W} {iid idx : Nat} {x x' : Inst} {t : Thread} {m m' : MStep} {tl : Tile} {rows : List (List Byte)}
    (hsteps : f.ksteps ≠ 0#6) (hshape : shapeOk (t.tile f.tile.toNat) t.width (some (f.cf == 1#2)) = some tl)
    (hb : w.d.badB t m.b.toNat (f.ksteps.toNat * tl.n * recSize f.sparse.toNat) f.bf f.sparse.toNat = false)
    (ha : w.readA iid idx x t m (f.x.getLsbD 7) tl.m f.ksteps.toNat f.tile.toNat = (.go w' m' x', rows)) :
    let p := w'.putTile x' t f.tile.toNat (w'.mmaRun f t tl rows m'.b.toNat).1
    ∃ m2 x2, startMma f w iid idx x t m = .go p.1 m2 x2 ∧ m2.idx = m'.idx ∧ (∃ r, m2.toks = oneTok f.t0 f.ksteps.toNat :: r) ∧
      x2.msteps = p.2.msteps := by
  simp only [startMma, hsteps, if_false, hshape, hb, ha, Bool.false_eq_true]
  exact ⟨_, _, rfl, rfl, ⟨_, rfl⟩, rfl⟩

/-- A lane of a token of one value. -/
theorem elem_splat64 (v : Word) {l : Nat} (hl : l < 8) : elem 64 (splat64 v) l = v := by
  refine BitVec.eq_of_getLsbD_eq fun i hi => ?_
  simp only [elem, splat64, BitVec.getLsbD_extractLsb', BitVec.getLsbD_append, hi, decide_true, Bool.true_and]
  interval_cases l <;> grind

/-- The tile after a dense run of i8 by i8 on a core of one grid. -/
theorem W.mmaRun_i8 {w : W} {f : FmtN} {t : Thread} {tl : Tile} (bytes : List Byte) (off : Nat) (hwidth : tl.width = 1)
    (hi32 : tl.i32 = true) (haf : f.af = 0#4) (hbf : f.bf = 0#4) (hsparse : f.sparse = 0#2) :
    let r := (w.mmaRun f t tl [bytes] off).1
    r.live = true ∧ ∀ i < tl.m, ∀ j < tl.n, r.cells.getD (i * tl.n + j) 0#32 = tl.cells.getD (i * tl.n + j) 0#32 +
      BitVec.ofInt 32 ((List.range f.ksteps.toNat).map (fun st => ((List.range 96).map (fun e =>
        (bytes.getD ((st * tl.m + i) * 96 + e) 0#8).toInt *
          (w.rd (wbKey t.first (off + (st * tl.n + j) * 96) + e)).toInt)).sum)).sum := by
  have hsize : tl.rows * tl.cols = tl.m * tl.n := by
    rw [Tile.rows, Tile.cols, hwidth, show shareRows 1 = 1 from rfl, show shareCols 1 = 1 from rfl, one_mul, one_mul]
  obtain ⟨⟨cells, hr⟩, hcells⟩ := foldl_addSums (tl := { tl with live := true })
    (fun s => kStepSums w t tl [bytes] off s 0#4 0#4 0) hi32 rfl f.ksteps.toNat
  simp only [W.mmaRun, haf, hbf, hsparse]
  refine ⟨by rw [show (0#2).toNat = 0 from rfl, hr], fun i hi j hj => ?_⟩
  have hk : i * tl.n + j < tl.rows * tl.cols := hsize ▸ by
    calc i * tl.n + j < i * tl.n + tl.n := by omega
      _ = (i + 1) * tl.n := by ring
      _ ≤ tl.m * tl.n := Nat.mul_le_mul_right _ hi
  exact hcells _ hk _ fun s _ => kStepSums_i8 bytes hwidth hi hj

/-- Settles O9: the run starts, its A panel and its B range are the bytes of memory, and each K-step adds the products of an A row and
a B column to a cell. -/
theorem matrixMultiply : Obligations.MatrixMultiply := by
  unfold Obligations.MatrixMultiply
  intro f s x b u m hready
  dsimp only
  intro huw htw hi32 hcf haf hbf hsparse hK hasrc hA hAin hstall hB hBin _ htags hnone _ hway
  obtain ⟨hx, hu, hm, hidx⟩ := Dev.stepAt_spec hready.1
  generalize hk : f.tile.toNat = k at *
  generalize htl : tileOf u k = tl at *
  have htile : u.tile k = tl := htl ▸ by rw [Thread.tile, tileOf, Tbl.get]; cases u.tiles.look k <;> rfl
  have hshape : shapeOk (u.tile f.tile.toNat) u.width (some (f.cf == 1#2)) = some tl := by
    have h := shapeOk_self tl
    rw [htw, hi32] at h
    rw [hk, htile, hcf, huw]
    exact h
  have hb : s.toW.d.badB u m.b.toNat (f.ksteps.toNat * tl.n * recSize f.sparse.toNat) f.bf f.sparse.toNat = false := by
    rw [hbf, hsparse]
    exact Dev.badB_one huw hB hBin fun j hj => htags j (by simp [recSize] at hj; omega)
  obtain ⟨late, accs, ha⟩ := W.readA_one (w := s.toW) (iid := s.dev.arg.a) (idx := s.dev.arg.b) (x := x) (tile := f.tile.toNat)
    huw hA hAin hstall
  rw [← hasrc] at ha
  obtain ⟨m2, x2, hgo, hidx2, ⟨r, htoks⟩, hsteps⟩ :=
    startMma_go (fun h => hK (by rw [h]; rfl)) hshape hb ha
  obtain ⟨hov, hkeep, v, hv, htiles⟩ := W.putTile_spec s.toW { x with accs := accs } (t := u) (u := u) f.tile.toNat
    (s.toW.mmaRun f u tl _ m.b.toNat).1 hu
  obtain ⟨hlive, hcells⟩ := W.mmaRun_i8 (w := s.toW) (t := u) (f := f) _ m.b.toNat htw hi32 haf hbf hsparse
  refine ⟨_, v, exec_matrixStepStart_go hready rfl rfl hgo, ?_, hv, ?_, ?_, ?_⟩
  · change s.mem.writeAll (W.putTile ..).1.ov.reverse = s.mem
    rw [hov]
    rfl
  · rw [tileOf, htiles, ← hk, Tbl.look_set_self]
    exact hlive
  · intro i hi j hj
    rw [tileOf, htiles, ← hk, Tbl.look_set_self]
    refine (hcells i hi j hj).trans ?_
    congr 2
    refine congrArg List.sum (List.map_congr_left fun st hst => congrArg List.sum (List.map_congr_left fun e he => ?_))
    have hst := List.mem_range.1 hst
    have he := List.mem_range.1 he
    have hbe := record_lt hst hj he
    rw [W.loadSp_getD hx hnone hway _ (record_lt hst hi he)]
    rw [wbKey_add (o := m.b.toNat + (st * tl.n + j) * 96) (by omega)]
    rfl
  · refine ⟨x2.setStep { m2 with st := .started }, Tbl.look_set_self .., { m2 with st := .started }, ?_, hidx2.trans hidx, rfl, ?_⟩
    · exact Inst.mem_setStep (m := m) (hsteps.trans hkeep ▸ hm) hidx2
    · exact ⟨_, r, htoks, fun l hl => elem_splat64 _ hl⟩

end Sys2Proof.Machine
end

section
/-!
PROOFS, 05 scalar and control: predicate logic and lane numbers.
-/

namespace Sys2Proof.Machine
open Claims

/-! ### The logic of predicates (05 R131) -/

/-- Bit k of a predicate token made from a value (05 R128): the bits above the lane count are clear. -/
theorem getLsbD_prTok_toNat (n : Nat) (v : Vec) {k : Nat} (hk : k < 512) :
    (prTok n v.toNat).getLsbD k = (decide (k < n) && v.getLsbD k) := by
  rw [prTok, BitVec.getLsbD_ofNat, Nat.testBit_mod_two_pow, decide_eq_true hk, Bool.true_and, BitVec.getLsbD]

/-- An instruction that works on whole predicates, bit by bit. -/
theorem predOp_of_prBits {i : FmtG → Instr} {m : Opnds → Vec} {g : Opnds → Nat → Bool} (hpr : ∀ f, prOf (i f) = f.pr)
    (hexec : ∀ f s, exec (i f) s = runD (fire (i f) fun o => prBits f (m o)) s)
    (hbit : ∀ o, ∀ k < 512, (m o).getLsbD k = g o k) : PredOp i (fun _ o _ k => g o k) := by
  intro f s c h
  refine ⟨_, (hexec f s).trans (runD_fire (by rwa [hpr])), fun k hk => ?_⟩
  rw [getLsbD_prTok_toNat _ _ hk, hbit c.ops k hk]
  rfl

theorem predOp_pand : PredOp .pand (fun _ o _ k => o.va.getLsbD k && o.vb.getLsbD k) :=
  predOp_of_prBits (fun _ => rfl) (fun _ _ => rfl) fun _ _ _ => BitVec.getLsbD_and

theorem predOp_por : PredOp .por (fun _ o _ k => o.va.getLsbD k || o.vb.getLsbD k) :=
  predOp_of_prBits (fun _ => rfl) (fun _ _ => rfl) fun _ _ _ => BitVec.getLsbD_or

theorem predOp_pnot : PredOp .pnot (fun _ o _ k => !o.va.getLsbD k) :=
  predOp_of_prBits (fun _ => rfl) (fun _ _ => rfl) fun o k hk => by
    rw [BitVec.getLsbD_not, decide_eq_true hk, Bool.true_and]

/-- The type of a well-formed predicate operation has lanes. -/
theorem laneTy_of_fieldsOk_predicate {i : FmtG → Instr} (hi : i ∈ ([.pand, .por, .pnot] : List (FmtG → Instr))) {f : FmtG}
    (hok : fieldsOk (i f) = true) : laneTy f.ty = true := by
  have hfields : fieldsOk (i f) = (laneTy f.ty && noRound f && f.x == 0#19) := by
    simp only [List.mem_cons, List.not_mem_nil, or_false] at hi
    rcases hi with rfl | rfl | rfl <;> rfl
  rw [hfields, Bool.and_assoc, Bool.and_eq_true] at hok
  exact hok.1

/-! ### Lane numbers (05 R136) -/

theorem laneOp_lane : LaneOp .lane (fun f _ n k => BitVec.ofNat n ((f.x.extractLsb' 0 16).toNat + k)) :=
  laneOp_of_lanes (m := fun f _ k => bits f.x 15 0 + k) (fun _ => rfl) (fun _ _ => rfl) fun f _ k => by rw [bits_eq_toNat]

theorem intTy_of_fieldsOk_lane {f : FmtG} (hok : fieldsOk (.lane f) = true) : intTy f.ty = true := by
  rw [show fieldsOk (.lane f) = (intTy f.ty && noRound f && bits f.x 18 16 == 0) from rfl, Bool.and_assoc, Bool.and_eq_true] at hok
  exact hok.1

/-! ### Codes of types and of operations (03 R54, 04 R92, R93) -/

/-- Of the integer types, the even codes are signed. -/
theorem value_of_intTy {ty : BitVec 4} {n : Nat} (a : BitVec n) (h : ty.toNat ≤ 7) :
    value ty a = if ty.toNat % 2 = 0 then a.toInt else (a.toNat : Int) := by
  have hsigned : signedTy ty = decide (ty.toNat % 2 = 0) := by
    rw [signedTy, decide_eq_true h, Bool.true_and, beq_eq_decide]
  simp only [value, hsigned, decide_eq_true_eq]

/-- The opcode of a word of format G is the one that it is packed with. -/
theorem opOf_packG (op : BitVec 8) (f : FmtG) : opOf (packG op f) = op := by
  simp only [opOf, packG]
  repeat rw [BitVec.extractLsb'_append_eq_of_le (by decide)]
  exact BitVec.extractLsb'_eq_self

theorem opcodeOf_of_encode {i : Instr} {op : BitVec 8} {f : FmtG} (h : encode i = [packG op f]) : opcodeOf i = op.toNat := by
  rw [opcodeOf, h]
  exact congrArg BitVec.toNat (opOf_packG op f)

/-- Settles O43: the operations that the sign of a type decides are those of O46, a predicate operation is one on whole tokens, and
`lane` sends numbers. -/
theorem signsPredicatesAndLaneNumbers : Obligations.SignsPredicatesAndLaneNumbers := by
  obtain ⟨-, ⟨hmulh, -, -, hmin, hmax, -, -, -, havg, hsad⟩, -⟩ := integerLanes
  refine ⟨hmulh, hmin, hmax, havg, hsad, fun ty n a h => value_of_intTy a h, predOp_pand, predOp_por, predOp_pnot, fun i hi f hok => ?_,
    fun f => ⟨opcodeOf_of_encode (op := 0x27#8) rfl, opcodeOf_of_encode (op := 0x28#8) rfl, opcodeOf_of_encode (op := 0x29#8) rfl,
      opcodeOf_of_encode (op := 0x2B#8) rfl⟩, laneOp_lane, fun f => ⟨rfl, rfl, fun hok => ?_⟩⟩
  · exact of_decide_eq_true (laneTy_of_fieldsOk_predicate hi hok)
  · exact of_decide_eq_true (intTy_of_fieldsOk_lane hok)

end Sys2Proof.Machine
end

section
/-!
PROOFS, 07 the matrix array: the firing of its instructions, and what the start of a step comes to.
-/

namespace Sys2Proof.Machine
open Claims

/-! ### A matrix instruction as it fires (07 R198, R204, R210) -/

/-- The partner of a slot in a tagged pair has fired and performs no step. -/
def Firing.Voided (c : Firing) : Prop :=
  ∃ p, c.code.partner c.idx = some p ∧ p.1 ∈ c.x.fired ∧ ∀ m ∈ c.x.msteps, m.idx ≠ p.1

/-- The test of `fireMatrix` for a partner that has fired without operating. -/
theorem Firing.voided_iff (c : Firing) : (match c.code.partner c.idx with
    | some (k, _) => c.x.fired.contains k && !c.x.msteps.any (fun m => m.idx == k)
    | none => false) = true ↔ c.Voided := by
  unfold Firing.Voided
  cases c.code.partner c.idx with
  | none => simp
  | some p => simp

theorem Dev.pairDropped_of_no_partner {c : Firing} (d : Dev) (h : c.code.partner c.idx = none) : d.pairDropped c = d := by
  rw [Dev.pairDropped, h]

section
variable {i : Instr} {d : Dev} {c : Firing} (hc : d.firing = some c)
include hc

theorem fireMatrix_operates (hp : c.ops.holds (prOf i) = true) (hn : c.ops.anyNull = false) (hv : ¬c.Voided) : fireMatrix i d =
    d.emit { c with x := { c.x with msteps := c.x.msteps ++ [{ idx := c.idx, a := c.ops.a0, b := c.ops.b0 }] } } {} := by
  simp only [fireMatrix, hc, hp, hn, Bool.not_true, Bool.false_eq_true, if_false]
  exact if_neg (mt c.voided_iff.1 hv)

theorem fireMatrix_voided (hp : c.ops.holds (prOf i) = true) (hn : c.ops.anyNull = false) (hv : c.Voided) :
    fireMatrix i d = d.emit c { toks := nullsTo i } := by
  simp only [fireMatrix, hc, hp, hn, Bool.not_true, Bool.false_eq_true, if_false]
  exact if_pos (c.voided_iff.2 hv)

theorem fireMatrix_null (hp : c.ops.holds (prOf i) = true) (hn : c.ops.anyNull = true) (hidle : c.code.partner c.idx = none) :
    fireMatrix i d = d.emit c { toks := nullsTo i } := by
  simp only [fireMatrix, hc, hp, hn, Bool.not_true, Bool.false_eq_true, if_false, if_true, Dev.pairDropped_of_no_partner _ hidle]

theorem fireMatrix_not_holds (hp : c.ops.holds (prOf i) = false) (hidle : c.code.partner c.idx = none) : fireMatrix i d = d.emit c {} := by
  simp only [fireMatrix, hc, hp, Bool.not_false, if_true, Dev.pairDropped_of_no_partner _ hidle]
end

/-- Every matrix instruction fires in the same way. -/
theorem exec_matrixInstr {i : FmtN → Instr} (hi : i ∈ matrixInstrs) (f : FmtN) (s : State) :
    exec (i f) s = runD (fireMatrix (i f)) s ∧ prOf (i f) = f.pr := by
  simp only [matrixInstrs, List.mem_cons, List.not_mem_nil, or_false] at hi
  rcases hi with rfl | rfl | rfl | rfl | rfl | rfl | rfl | rfl | rfl | rfl | rfl | rfl <;> exact ⟨rfl, rfl⟩

/-! ### The step that an event names (07 R198) -/

/-- The step that an event names is that of an instruction of its instance's block, in the phase asked for. -/
theorem Dev.stepAt_code {d : Dev} {iid idx : Nat} {st : StepSt} {x : Inst} {b : Block} {u : Thread} {m : MStep} {i : Instr}
    (h : d.stepAt iid idx st = some (x, b, u, m, i)) : x.code = some b ∧ b.instr idx = some i ∧ m.st = st := by
  unfold Dev.stepAt at h
  split at h
  · cases h
  next y hy =>
    split at h
    next b' u' m' hb hu hm =>
      obtain ⟨i', hinstr, hi⟩ := Option.map_eq_some_iff.1 h
      cases hi
      have hst := List.find?_some hm
      rw [Bool.and_eq_true, beq_iff_eq, beq_iff_eq] at hst
      exact ⟨hb, hinstr, hst.2⟩
    · cases h

/-- Against the instance of a step whose turn it is nothing is pending. -/
theorem pend_of_stepReady {s : State} {x : Inst} {b : Block} {u : Thread} {m : MStep} {i : Instr} (h : StepReady s x b u m i) :
    x.pend = none := by
  obtain ⟨-, hturn⟩ := h
  simp only [W.stepTurn, Dev.stepReady, Bool.and_eq_true, Option.isNone_iff_eq_none] at hturn
  obtain ⟨⟨-, ⟨hpend, -⟩, -⟩, -⟩ := hturn
  exact hpend

/-! ### What an event does with a step (07 R198, R200) -/

section
variable {w : W} {iid idx : Nat} {ok : Instr → Bool}

theorem W.stepStart_of_none (h : w.d.stepAt iid idx .waiting = none) : w.stepStart iid idx ok = w := by
  rw [W.stepStart, h]

variable {x : Inst} {b : Block} {u : Thread} {m : MStep} {i : Instr} (h : w.d.stepAt iid idx .waiting = some (x, b, u, m, i))
include h

theorem W.stepStart_of_not_turn (hturn : w.stepTurn iid x b u m i = false) : w.stepStart iid idx ok = w := by
  simp only [W.stepStart, h, hturn, Bool.not_false, Bool.or_true, if_true]
  split <;> rfl

variable {g : W → Nat → Nat → Inst → Thread → MStep → Prep} {w' : W} (hg : startOf i = some g) (hok : ok i = true)
  (hturn : w.stepTurn iid x b u m i = true)
include hg hok hturn

theorem W.stepStart_stop (hstop : g w iid idx x u m = .stop w') : w.stepStart iid idx ok = w' := by
  simp only [W.stepStart, h, hg, hok, hturn, hstop, Bool.not_true, Bool.or_false, Bool.false_eq_true, if_false]

theorem W.stepStart_go {m' : MStep} {x' : Inst} (hgo : g w iid idx x u m = .go w' m' x') : w.stepStart iid idx ok =
    { w' with d := w'.d.setInst iid (x'.setStep { m' with st := .started }) } := by
  simp only [W.stepStart, h, hg, hok, hturn, hgo, Bool.not_true, Bool.or_false, Bool.false_eq_true, if_false]
end

/-- A step that no start touches leaves the state as it was, whatever the event. -/
theorem exec_stepStarts_of_eq {s : State} (h : ∀ ok, s.toW.stepStart s.dev.arg.a s.dev.arg.b ok = s.toW) :
    exec .matrixStepStart s = .next s ∧ exec .wbloadStepStart s = .next s := by
  have hrun : ∀ {ok}, run (fun w => w.stepStart w.d.arg.a w.d.arg.b ok) s = .next s := fun {ok} => by
    rw [run_eq, show s.toW.stepStart s.toW.d.arg.a s.toW.d.arg.b ok = s.toW from h ok]
    rfl
  exact ⟨hrun, hrun⟩

section
variable {s : State}

/-- No event starts a step that does not wait. -/
theorem exec_stepStarts_of_none (h : s.dev.stepAt s.dev.arg.a s.dev.arg.b .waiting = none) :
    exec .matrixStepStart s = .next s ∧ exec .wbloadStepStart s = .next s :=
  exec_stepStarts_of_eq fun _ => W.stepStart_of_none h

variable {x : Inst} {b : Block} {u : Thread} {m : MStep} {i : Instr}

/-- No event starts a step whose turn it is not. -/
theorem exec_stepStarts_of_not_turn (h : s.dev.stepAt s.dev.arg.a s.dev.arg.b .waiting = some (x, b, u, m, i))
    (hturn : s.toW.stepTurn s.dev.arg.a x b u m i = false) : exec .matrixStepStart s = .next s ∧ exec .wbloadStepStart s = .next s :=
  exec_stepStarts_of_eq fun _ => W.stepStart_of_not_turn h hturn

variable {g : W → Nat → Nat → Inst → Thread → MStep → Prep} {w : W} (h : StepReady s x b u m i) (hg : startOf i = some g)
include h hg

/-- A step whose preparation ends in a fault. -/
theorem exec_matrixStepStart_stop (hi : isWbload i = false) (hstop : g s.toW s.dev.arg.a s.dev.arg.b x u m = .stop w) :
    exec .matrixStepStart s = .next { s with dev := w.d, mem := s.mem.writeAll w.ov.reverse } := by
  have hrun : s.toW.stepStart s.dev.arg.a s.dev.arg.b (fun i => !isWbload i) = w := W.stepStart_stop h.1 hg (by simp [hi]) h.2 hstop
  rw [← hrun]
  rfl

/-- A `wbload` whose turn it is, and whose preparation goes on. -/
theorem exec_wbloadStepStart_go {m' : MStep} {x' : Inst} (hi : isWbload i = true)
    (hgo : g s.toW s.dev.arg.a s.dev.arg.b x u m = .go w m' x') : exec .wbloadStepStart s =
      .next { s with dev := w.d.setInst s.dev.arg.a (x'.setStep { m' with st := .started }), mem := s.mem.writeAll w.ov.reverse } := by
  have hrun := W.stepStart_go h.1 hg hi h.2 hgo
  rw [exec, execWbloadStepStart, run_eq]
  exact congrArg (fun w : W => Host.Outcome.next { s with dev := w.d, mem := s.mem.writeAll w.ov.reverse }) hrun

end

/-! ### What a start leaves of the instance -/

/-- Nothing of an instance differs but its start copies, its flags and the bytes that it has read or holds for its commit. -/
def Inst.SameButReads (x x' : Inst) : Prop := ∃ starts flags accs, x' = { x with starts := starts, flags := flags, accs := accs }

theorem Inst.SameButReads.refl (x : Inst) : x.SameButReads x := ⟨_, _, _, rfl⟩
theorem Inst.SameButReads.withAccs (x : Inst) (l : List Access) : x.SameButReads { x with accs := l } := ⟨_, _, _, rfl⟩
theorem Inst.SameButReads.trans {x y z : Inst} (h : x.SameButReads y) (h' : y.SameButReads z) : x.SameButReads z := by
  obtain ⟨_, _, _, rfl⟩ := h
  obtain ⟨_, _, _, rfl⟩ := h'
  exact ⟨_, _, _, rfl⟩

/-- The replacement of a tile adds a start copy to the instance. -/
theorem W.putTile_sameButReads (w : W) (x : Inst) (t : Thread) (k : Nat) (tl : Tile) : x.SameButReads (w.putTile x t k tl).2 := ⟨_, _, _, rfl⟩

/-- What a step leaves whose preparation ends in a work area and a record: memory, threads and grids are those of the work area,
and the instance holds the record as that of a started step. -/
structure StepLeaves (s t : State) (x : Inst) (w : W) (m' : MStep) : Prop where
  mem : t.mem = s.mem.writeAll w.ov.reverse
  mgmt : t.mgmt = s.mgmt
  thr : ∀ n, t.dev.thr n = w.d.thr n
  grid : ∀ n, t.dev.grid n = w.d.grid n
  idx : m'.idx = s.dev.arg.b
  inst : ∃ y, t.dev.inst s.dev.arg.a = some y ∧ y.st = x.st ∧ y.fired = x.fired ∧ y.effs = x.effs ∧ { m' with st := .started } ∈ y.msteps

section
variable {s : State} {x x' : Inst} {b : Block} {u : Thread} {m m' : MStep} {i : Instr} {g : W → Nat → Nat → Inst → Thread → MStep → Prep}
  {w : W} (h : StepReady s x b u m i) (hg : startOf i = some g)
include h

theorem stepLeaves_started (hidx : m'.idx = m.idx) (hx : x.SameButReads x') :
    StepLeaves s { s with dev := w.d.setInst s.dev.arg.a (x'.setStep { m' with st := .started }), mem := s.mem.writeAll w.ov.reverse }
      x w m' := by
  obtain ⟨-, -, hm, hmidx⟩ := Dev.stepAt_spec h.1
  obtain ⟨_, _, _, rfl⟩ := hx
  exact ⟨rfl, rfl, fun _ => rfl, fun _ => rfl, hidx.trans hmidx, _, Dev.inst_setInst .., rfl, rfl, rfl, Inst.mem_setStep hm hidx⟩

include hg

/-- MATRIX_STEP_START of a step whose preparation goes on. -/
theorem matrixStepStart_leaves (hi : isWbload i = false) (hgo : g s.toW s.dev.arg.a s.dev.arg.b x u m = .go w m' x') (hidx : m'.idx = m.idx)
    (hx : x.SameButReads x') : ∃ t, exec .matrixStepStart s = .next t ∧ StepLeaves s t x w m' :=
  ⟨_, exec_matrixStepStart_go h hg hi hgo, stepLeaves_started h hidx hx⟩

/-- WBLOAD_STEP_START of a step whose preparation goes on. -/
theorem wbloadStepStart_leaves (hi : isWbload i = true) (hgo : g s.toW s.dev.arg.a s.dev.arg.b x u m = .go w m' x') (hidx : m'.idx = m.idx)
    (hx : x.SameButReads x') : ∃ t, exec .wbloadStepStart s = .next t ∧ StepLeaves s t x w m' :=
  ⟨_, exec_wbloadStepStart_go h hg hi hgo, stepLeaves_started h hidx hx⟩
end

/-- A step of the event has started, sends these tokens when it finishes, and holds these pages locked. -/
def HoldsStep (s t : State) (toks : List (Target × Tok)) (locks : List Nat) : Prop :=
  ∃ y, t.dev.inst s.dev.arg.a = some y ∧
    ∃ q ∈ y.msteps, q.idx = s.dev.arg.b ∧ q.st = .started ∧ q.toks = toks ∧ q.locks = locks

theorem StepLeaves.holds {s t : State} {x : Inst} {w : W} {m' : MStep} (h : StepLeaves s t x w m') : HoldsStep s t m'.toks m'.locks := by
  obtain ⟨y, hy, -, -, -, hmem⟩ := h.inst
  exact ⟨y, hy, _, hmem, h.idx, rfl, rfl, rfl⟩

section
variable {s : State} {x : Inst} {b : Block} {u : Thread} {m : MStep} {i : Instr} {g : W → Nat → Nat → Inst → Thread → MStep → Prep}
  (h : StepReady s x b u m i) (hg : startOf i = some g) (hi : isWbload i = false)
include h hg hi

/-- A step whose preparation goes on without touching memory has started. -/
theorem stepStarted_of_go {w : W} {m' : MStep} {x' : Inst} {tiles : Tbl Tile} (hgo : g s.toW s.dev.arg.a s.dev.arg.b x u m = .go w m' x')
    (hov : w.ov = []) (hthr : ∃ v, w.d.thr x.thr = some v ∧ v.tiles = tiles) (hidx : m'.idx = m.idx) (hx : x.SameButReads x') :
    ∃ t, exec .matrixStepStart s = .next t ∧ StepStarted s t x tiles m'.toks m'.ctr ∧ b.instr s.dev.arg.b = some i := by
  obtain ⟨-, hinstr, -⟩ := Dev.stepAt_code h.1
  obtain ⟨t, ht, hmem, hmgmt, hthr', -, hidx', y, hy, hst, hfired, heffs, hstep⟩ := matrixStepStart_leaves h hg hi hgo hidx hx
  refine ⟨t, ht, ⟨?_, hmgmt, ?_, y, hy, hst, hfired, heffs, _, hstep, hidx', rfl, rfl, rfl⟩, hinstr⟩
  · rw [hmem, hov]
    rfl
  · rwa [hthr']

/-- One that goes on with the work area as it was leaves the tiles as they were. -/
theorem stepStarted_of_go_here {m' : MStep} {x' : Inst} (hgo : g s.toW s.dev.arg.a s.dev.arg.b x u m = .go s.toW m' x')
    (hidx : m'.idx = m.idx) (hx : x.SameButReads x') :
    ∃ t, exec .matrixStepStart s = .next t ∧ StepStarted s t x u.tiles m'.toks m'.ctr ∧ b.instr s.dev.arg.b = some i := by
  obtain ⟨-, hu, -, -⟩ := Dev.stepAt_spec h.1
  exact stepStarted_of_go h hg hi hgo rfl ⟨u, hu, rfl⟩ hidx hx

/-- One that goes on by replacing a tile leaves the others as they were. -/
theorem stepStarted_of_putTile {k : Nat} {tl : Tile} (hgo : g s.toW s.dev.arg.a s.dev.arg.b x u m =
      .go (s.toW.putTile x u k tl).1 m (s.toW.putTile x u k tl).2) :
    ∃ t, exec .matrixStepStart s = .next t ∧ StepStarted s t x (u.tiles.set k tl) m.toks m.ctr ∧ b.instr s.dev.arg.b = some i := by
  obtain ⟨-, hu, -, -⟩ := Dev.stepAt_spec h.1
  obtain ⟨hov, -, hthr⟩ := W.putTile_spec s.toW x (t := u) k tl hu
  exact stepStarted_of_go h hg hi hgo hov hthr rfl (W.putTile_sameButReads ..)

/-- A fault of a step is pending against its instance (07 R217). -/
theorem pending_of_stepFault {q : Cause} {k : Nat} (hstop : g s.toW s.dev.arg.a s.dev.arg.b x u m =
      s.toW.stepFault s.dev.arg.a s.dev.arg.b q 0 k) : ∃ t, exec .matrixStepStart s = .next t ∧ t.mem = s.mem ∧
    Pending t s.dev.arg.a { cause := q, loc := BitVec.ofNat 8 s.dev.arg.b, w3 := BitVec.ofNat 64 k } := by
  obtain ⟨hx, -, -, -⟩ := Dev.stepAt_spec h.1
  exact ⟨_, exec_matrixStepStart_stop h hg hi hstop, rfl, _, Dev.hold_inst hx (pend_of_stepReady h) _ none, rfl, rfl, rfl, rfl⟩

end

end Sys2Proof.Machine
end

section
/-!
PROOFS, 07 the matrix array: the steps that touch no memory.
-/

namespace Sys2Proof.Machine
open Claims

/-! ### Shapes (07 R190-R192) -/

/-- A tile before it is configured is the default one. -/
theorem tile_eq_tileOf (u : Thread) (k : Nat) : u.tile k = tileOf u k := by
  rw [Thread.tile, tileOf, Tbl.get]
  cases u.tiles.look k <;> rfl

theorem shareRows_eq (w : Nat) : shareRows w = shareR w := by
  unfold shareRows shareCols shareR
  split_ifs <;> simp

theorem Tile.rows_eq (tl : Tile) : tl.rows = shareR tl.width * tl.m := by rw [Tile.rows, shareRows_eq]
theorem Tile.cols_eq (tl : Tile) : tl.cols = shareC tl.width * tl.n := rfl

/-- A live tile of another width has the wrong shape (07 R191, R217). -/
theorem shapeOk_eq_none {tl : Tile} {width : Nat} (hlive : tl.live = true) (hwidth : tl.width ≠ width) : shapeOk tl width none = none := by
  simp [shapeOk, hlive, hwidth]

/-- Every other tile takes the width. -/
theorem shapeOk_eq_some {tl : Tile} {width : Nat} (h : tl.live = false ∨ tl.width = width) :
    shapeOk tl width none = some { tl with width := width } := by
  rcases h with h | rfl
  · simp [shapeOk, h]
  · simp [shapeOk]

/-- One of three by a field that names the first two. -/
theorem getD_two {α : Type} (a b c : α) (n : Nat) : [a, b].getD n c = if n = 0 then a else if n = 1 then b else c := by
  match n with
  | 0 => rfl
  | 1 => rfl
  | _ + 2 => rfl

/-- The shape that `mcfg` gives a tile (07 R206). -/
def mcfgShape (f : FmtN) (width : Nat) : Tile :=
  { m := [16, 32].getD (f.x.extractLsb' 18 2).toNat 48, n := [32, 64].getD (f.x.extractLsb' 16 2).toNat 96,
    i32 := decide (f.cf = 1#2), width := width, live := false, cells := [] }

/-- Two tiles are of one shape. -/
def Tile.sameShape (t t' : Tile) : Bool := t.m == t'.m && t.n == t'.n && t.i32 == t'.i32 && t.width == t'.width

theorem Tile.sameShape_iff {t t' : Tile} : t.sameShape t' = true ↔ t.m = t'.m ∧ t.n = t'.n ∧ t.i32 = t'.i32 ∧ t.width = t'.width := by
  simp [Tile.sameShape, and_assoc]

section
variable (f : FmtN) (w : W) (iid idx : Nat) (x : Inst) (t : Thread) (m : MStep)

/-- `mcfg` keeps a tile of the shape it gives, refuses a live one of another shape, and configures the rest; with DROP it
configures every tile (07 R206). -/
theorem startMcfg_cases :
    let tl := tileOf t f.tile.toNat
    let same := tl.sameShape (mcfgShape f t.width)
    let p := w.putTile x t f.tile.toNat (mcfgShape f t.width)
    (same = true → f.x.getLsbD 0 = false → startMcfg f w iid idx x t m = .go w m x) ∧
    (same = false → tl.live = true → f.x.getLsbD 0 = false →
      startMcfg f w iid idx x t m = w.stepFault iid idx .tileLive 0 f.tile.toNat) ∧
    ((same = false ∧ tl.live = false) ∨ f.x.getLsbD 0 = true → startMcfg f w iid idx x t m = .go p.1 m p.2) := by
  extract_lets tl same p
  have hstart : startMcfg f w iid idx x t m =
      if (same && !f.x.getLsbD 0) = true then .go w m x
      else if (!same && tl.live && !f.x.getLsbD 0) = true then w.stepFault iid idx .tileLive 0 f.tile.toNat
      else .go p.1 m p.2 := by
    simp only [startMcfg, bits_eq_toNat, tile_eq_tileOf, Tile.sameShape, mcfgShape, getD_two, beq_eq_decide, p, tl, same]
  rw [hstart]
  generalize f.x.getLsbD 0 = drop
  refine ⟨fun hs hd => ?_, fun hs hl hd => ?_, fun h => ?_⟩
  · simp [hs, hd]
  · simp [hs, hl, hd]
  · rcases h with ⟨hs, hl⟩ | hd
    · simp [hs, hl]
    · simp [hd]

/-- `mzero` refuses a live tile of another width, and clears the rest (07 R207). -/
theorem startMzero_cases :
    let tl := tileOf t f.tile.toNat
    let p := w.putTile x t f.tile.toNat { tl with width := t.width, live := true, cells := [] }
    (tl.live = true → tl.width ≠ t.width → startMzero f w iid idx x t m = w.stepFault iid idx .matrixShape 0 f.tile.toNat) ∧
    (tl.live = false ∨ tl.width = t.width → startMzero f w iid idx x t m = .go p.1 m p.2) := by
  refine ⟨fun hl hw => ?_, fun h => ?_⟩
  · simp only [startMzero, tile_eq_tileOf, shapeOk_eq_none hl hw]
  · simp only [startMzero, tile_eq_tileOf, shapeOk_eq_some h]

/-- `mctr` sets its counter unit (07 R212). -/
theorem startMctr_eq : startMctr f w iid idx x t m = .go w { m with
    ctr := some ((f.x.extractLsb' 17 3).toNat, ⟨(f.x.extractLsb' 10 7).toNat + 1, (f.x.extractLsb' 0 10).toNat, 0⟩) } x := by
  simp only [startMctr, bits_eq_toNat]

/-- `mbound` sets one bound of its counter unit, as the step sees it (07 R213). -/
theorem startMbound_eq :
    let unit := (f.x.extractLsb' 17 3).toNat
    let now := x.counter t unit
    startMbound f w iid idx x t m = .go w { m with ctr := some (unit,
      if f.x.getLsbD 16 then { now with rowtrip := max 1 (min 1023 m.a.toNat) } else { now with ktrip := max 1 (min 64 m.a.toNat) }) } x := by
  have hunit : bits f.x 19 17 = (f.x.extractLsb' 17 3).toNat := bits_eq_toNat ..
  have hbit : bits f.x 16 16 = 0 ↔ ¬f.x.getLsbD 16 = true := by
    have hlt : bits f.x 16 16 < 2 := Nat.mod_lt _ (by decide)
    rw [← bits_eq_one]
    omega
  simp only [startMbound, hunit, hbit, ite_not]

end

/-! ### Tokens of 16 lanes (07 R215, R216) -/

theorem lanes16_tok16 (g : Nat → Nat) : Lanes16 (tok16 ((List.range 16).map g)) (fun k => BitVec.ofNat 32 (g k)) :=
  ⟨_, rfl, fun _ hk => elem_ofLanes_map 32 16 g hk hk⟩

theorem lanes16_tok16_cells (g : Nat → BitVec 32) : Lanes16 (tok16 ((List.range 16).map fun k => (g k).toNat)) g :=
  ⟨_, rfl, fun k hk => (elem_ofLanes_map 32 16 (fun k => (g k).toNat) hk hk).trans (by rw [BitVec.ofNat_toNat, BitVec.setWidth_eq])⟩

theorem lanes16_congr {tok : Tok} {g g' : Nat → BitVec 32} (h : Lanes16 tok g) (hg : ∀ k < 16, g k = g' k) : Lanes16 tok g' := by
  obtain ⟨v, hv, hlane⟩ := h
  exact ⟨v, hv, fun k hk => (hlane k hk).trans (hg k hk)⟩

/-! ### One lane of a reduction (07 R216) -/

/-- A cell is the number of its integer. -/
theorem ofNat_wrap_toInt (z : Int) : BitVec.ofNat 32 (wrap 32 z) = BitVec.ofInt 32 z := by
  rw [wrap_eq, BitVec.ofNat_toNat, BitVec.setWidth_eq]

theorem redRow_sum (l : List (BitVec 32)) : BitVec.ofNat 32 (redRow true 0 l).1 = BitVec.ofInt 32 (l.map BitVec.toInt).sum := by
  rw [show (redRow true 0 l).1 = wrap 32 ((l.map BitVec.toInt).foldl (· + ·) 0) from rfl, ofNat_wrap_toInt, List.sum_eq_foldl]

/-- The largest integer of a row that is not empty. -/
theorem foldl_max_headD {z : List Int} (hz : z ≠ []) : z.foldl max (z.headD 0) ∈ z ∧ ∀ y ∈ z, y ≤ z.foldl max (z.headD 0) := by
  obtain ⟨a, r, rfl⟩ := List.exists_cons_of_ne_nil hz
  have hmax : (a :: r).max? = some ((a :: r).foldl max ((a :: r).headD 0)) := by
    rw [List.max?_cons', List.foldl_cons, List.headD_cons, max_self]
  exact List.max?_eq_some_iff.1 hmax

/-- The least integer of a row that is not empty. -/
theorem foldl_min_headD {z : List Int} (hz : z ≠ []) : z.foldl min (z.headD 0) ∈ z ∧ ∀ y ∈ z, z.foldl min (z.headD 0) ≤ y := by
  obtain ⟨a, r, rfl⟩ := List.exists_cons_of_ne_nil hz
  have hmin : (a :: r).min? = some ((a :: r).foldl min ((a :: r).headD 0)) := by
    rw [List.min?_cons', List.foldl_cons, List.headD_cons, min_self]
  exact List.min?_eq_some_iff.1 hmin

/-- The reduction of i32 cells to one of them: the largest, or else the least. -/
theorem redRow_bound {op : Nat} (hop : op ≠ 0) {l : List (BitVec 32)} (hl : l ≠ []) :
    let v := BitVec.ofNat 32 (redRow true op l).1
    v ∈ l ∧ ∀ c ∈ l, if op = 1 then c.toInt ≤ v.toInt else v.toInt ≤ c.toInt := by
  have hz : l.map BitVec.toInt ≠ [] := mt List.map_eq_nil_iff.1 hl
  obtain ⟨hmaxmem, hmax⟩ := foldl_max_headD hz
  obtain ⟨hminmem, hmin⟩ := foldl_min_headD hz
  by_cases h1 : op = 1
  · obtain ⟨c, hc, hval⟩ := List.mem_map.1 hmaxmem
    have hred : BitVec.ofNat 32 (redRow true op l).1 = c := by
      simp only [redRow, if_true, if_neg hop, if_pos h1, ← hval, ofNat_wrap_toInt, BitVec.ofInt_toInt]
    simp only [hred, if_pos h1]
    exact ⟨hc, fun d hd => hval ▸ hmax _ (List.mem_map_of_mem hd)⟩
  · obtain ⟨c, hc, hval⟩ := List.mem_map.1 hminmem
    have hred : BitVec.ofNat 32 (redRow true op l).1 = c := by
      simp only [redRow, if_true, if_neg hop, if_neg h1, ← hval, ofNat_wrap_toInt, BitVec.ofInt_toInt]
    simp only [hred, if_neg h1]
    exact ⟨hc, fun d hd => hval ▸ hmin _ (List.mem_map_of_mem hd)⟩

/-! ### Reads of a tile (07 R215, R216) -/

section
variable (f : FmtN) (w : W) (iid idx : Nat) (x : Inst) (t : Thread) (m : MStep)

theorem startMrow_cases :
    let tl := tileOf t f.tile.toNat
    let cols := shareC tl.width * tl.n
    let r := if f.x.getLsbD 0 then (m.a.extractLsb' 0 8).toNat else (f.x.extractLsb' 12 8).toNat
    let g := if f.x.getLsbD 0 then (m.a.extractLsb' 8 5).toNat else (f.x.extractLsb' 7 5).toNat
    (shareR tl.width * tl.m ≤ r ∨ cols / 16 ≤ g → startMrow f w iid idx x t m = w.stepFault iid idx .matrixShape 0 f.tile.toNat) ∧
    (r < shareR tl.width * tl.m → g < cols / 16 → startMrow f w iid idx x t m =
      .go w { m with toks := [(f.t0, tok16 ((List.range 16).map (fun k => (tl.cell r (16 * g + k)).toNat)))] } x) := by
  dsimp only
  simp only [startMrow, bits_eq_toNat, tile_eq_tileOf, Tile.rows_eq, Tile.cols_eq, Nat.reduceAdd, Nat.reduceSub]
  exact ⟨fun h => if_pos h, fun hr hg => if_neg (by omega)⟩

/-- The lanes that `mred` reduces the rows of a block to, with their flags. -/
def mredLanes (f : FmtN) (tl : Tile) : List (Nat × BitVec 6) :=
  (List.range 16).map (fun k => redRow tl.i32 (f.x.extractLsb' 0 2).toNat
    ((List.range tl.cols).map (tl.cell (16 * (f.x.extractLsb' 12 8).toNat + k))))

theorem startMred_cases :
    let tl := tileOf t f.tile.toNat
    let blk := (f.x.extractLsb' 12 8).toNat
    (shareR tl.width * tl.m / 16 ≤ blk → startMred f w iid idx x t m = w.stepFault iid idx .matrixShape 0 f.tile.toNat) ∧
    (blk < shareR tl.width * tl.m / 16 → startMred f w iid idx x t m =
      .go w { m with toks := [(f.t0, tok16 ((mredLanes f tl).map Prod.fst))] }
        { x with flags := x.flags ||| joinFlags ((mredLanes f tl).map Prod.snd) }) := by
  have hblk : bits f.x 19 12 = (f.x.extractLsb' 12 8).toNat := bits_eq_toNat ..
  have hop : bits f.x 1 0 = (f.x.extractLsb' 0 2).toNat := bits_eq_toNat ..
  dsimp only
  rw [startMred, tile_eq_tileOf, hblk, hop, ← Tile.rows_eq]
  exact ⟨fun h => if_pos h, fun h => if_neg (by omega)⟩

/-- The token of `mred`: i32 rows are summed modulo 2^32 or reduced to one of their cells, f32 rows as `redRow` says. -/
theorem mredLanes_spec (tl : Tile) :
    let tok := tok16 ((mredLanes f tl).map Prod.fst)
    let op := (f.x.extractLsb' 0 2).toNat
    let line := fun (j : Nat) => (List.range tl.cols).map (tl.cell (16 * (f.x.extractLsb' 12 8).toNat + j))
    (tl.i32 = false → Lanes16 tok (fun j => BitVec.ofNat 32 (redRow false op (line j)).1)) ∧
    (tl.i32 = true → op = 0 → Lanes16 tok (fun j => BitVec.ofInt 32 ((line j).map BitVec.toInt).sum)) ∧
    (tl.i32 = true → op ≠ 0 → 0 < tl.cols → ∃ v : Vec, tok = .val v ∧ ∀ j < 16, elem 32 v j ∈ line j ∧
      ∀ c ∈ line j, if op = 1 then c.toInt ≤ (elem 32 v j).toInt else (elem 32 v j).toInt ≤ c.toInt) := by
  intro tok op line
  have hlanes : Lanes16 tok (fun j => BitVec.ofNat 32 (redRow tl.i32 op (line j)).1) := by
    simp only [tok, mredLanes, List.map_map]
    exact lanes16_tok16 _
  refine ⟨fun hf32 => ?_, fun hi32 hop => ?_, fun hi32 hop hcols => ?_⟩
  · rwa [hf32] at hlanes
  · rw [hi32, hop] at hlanes
    exact lanes16_congr hlanes fun j _ => redRow_sum _
  · rw [hi32] at hlanes
    obtain ⟨v, hv, hlane⟩ := hlanes
    refine ⟨v, hv, fun j hj => ?_⟩
    have hne : line j ≠ [] := List.ne_nil_of_length_pos (by simpa [line] using hcols)
    rw [hlane j hj]
    exact redRow_bound hop hne

end

end Sys2Proof.Machine
end

section
/-!
PROOFS, 07 the matrix array: the steps that touch memory, whose turn it is, and the finish of a step.
-/

namespace Sys2Proof.Machine
open Claims

/-! ### Bytes that a step reads and writes -/

/-- The byte of the one cell at an address. -/
theorem cellAt_eq_some {cs : List Host.Cell} {a : Nat} {v : Byte} (hmem : (a, v) ∈ cs) (huniq : ∀ b ∈ cs, b.1 = a → b.2 = v) :
    cellAt cs a = some v := by
  obtain ⟨b, hb⟩ : ∃ b, cs.reverse.find? (fun c => c.1 == a) = some b :=
    Option.isSome_iff_exists.1 (List.find?_isSome.2 ⟨(a, v), List.mem_reverse.2 hmem, by simp⟩)
  rw [cellAt, hb, Option.map_some, huniq b (List.mem_reverse.1 (List.mem_of_find?_eq_some hb)) (by simpa using List.find?_some hb)]

/-- A byte of a word in memory order. -/
theorem leBytes_getD (v : BitVec 32) {q : Nat} (hq : q < 4) : (leBytes 4 v.toNat).getD q 0#8 = v.extractLsb' (8 * q) 8 := by
  rw [leBytes, getD_map_range _ _ hq, ← Nat.shiftRight_eq_div_pow]
  rfl

/-- The cells of bytes at consecutive keys. -/
theorem mem_cellsAt {k : Nat} {bs : List Byte} {c : Host.Cell} : c ∈ cellsAt k bs ↔ ∃ i < bs.length, c = (k + i, bs.getD i 0#8) := by
  have hbs : bs = (List.range bs.length).map (fun i => bs.getD i 0#8) :=
    List.ext_getElem (by simp) fun i h1 h2 => by simp [List.getD, h1]
  conv_lhs => rw [hbs, cellsAt_map]
  simp only [List.mem_map, List.mem_range, eq_comm]

theorem cellAt_cellsAt {k i : Nat} {bs : List Byte} (hi : i < bs.length) : cellAt (cellsAt k bs) (k + i) = some (bs.getD i 0#8) := by
  refine cellAt_eq_some (mem_cellsAt.2 ⟨i, hi, rfl⟩) fun b hb hbk => ?_
  obtain ⟨j, -, rfl⟩ := mem_cellsAt.1 hb
  rw [show j = i by simpa using hbk]

theorem W.wrs_ov (w : W) (cs : List Host.Cell) : (w.wrs cs).ov = cs.reverse ++ w.ov := by
  induction cs generalizing w with
  | nil => rfl
  | cons c r ih =>
    rw [show w.wrs (c :: r) = (w.wr c.1 c.2).wrs r from rfl, ih]
    simp [W.wr]

/-- Memory after a meaning has run reads as the work area did. -/
theorem Memory.read_writeAll_reverse {m : Memory} (h : Memory.wf m = true) (ov : List Host.Cell) (k : Nat) :
    (m.writeAll ov.reverse).read k = ovRead ov m k := by
  induction ov with
  | nil => rfl
  | cons c r ih =>
    have hwf : Memory.wf (m.writeAll r.reverse) = true := Memory.writeAll_wf h _
    have hcons : m.writeAll (c :: r).reverse = (m.writeAll r.reverse).write c.1 c.2 := by simp [Memory.writeAll]
    rw [hcons, ovRead]
    split
    next hk => rw [← hk, Memory.read_write_self hwf]
    next hk => rw [Memory.read_write_ne _ _ (Ne.symm hk), ih]

/-- A byte that some writes leave at the one address that names it. -/
theorem ovRead_wrs {w : W} {cs : List Host.Cell} {m : Memory} {k : Nat} {v : Byte} (h : cellAt cs k = some v) :
    ovRead (w.wrs cs).ov m k = v := by
  obtain ⟨c, hc, hv⟩ := Option.map_eq_some_iff.1 h
  rw [W.wrs_ov, ovRead_eq, List.find?_append, hc]
  simpa using hv

/-! ### Pages and bytes of a step (07 R199, R202) -/

theorem W.stepPages_ok {w w1 : W} {iid idx : Nat} {x : Inst} {t : Thread} {m : MStep} {need : BitVec 3} {l : List (Nat × Nat)} {ls : List Nat}
    (h : w.checkPages t.first t.ctx (w.d.rnumOf t) need l = (.ok ls, w1)) :
    w.stepPages iid idx x t m need l = .go (w1.lockAll ls) { m with locks := ls } x := by
  rw [W.stepPages, h]

theorem W.stepRead_ok {w w1 : W} {x : Inst} {t : Thread} {idx : Nat} {as : List Nat} {cs : List Host.Cell}
    (h : w.loadCells x t 32 as = (.ok cs, w1)) : w.stepRead x t idx as =
      (cs.map Prod.snd, { x with accs := x.accs ++ [⟨32, idx, cs, false, none⟩] }, none, w1) := by
  rw [W.stepRead, h]

section
variable {w w1 w2 : W} {u : Thread} {need : BitVec 3} {l : List (Nat × Nat)} {ls : List Nat}
  (hc : w.checkPages u.first u.ctx (w.d.rnumOf u) need l = (.ok ls, w1))
include hc

/-- Pages checked and locked move bytes at most. -/
theorem W.moves_of_lockAll : w.Moves (w1.lockAll ls) := by
  have h := W.Moves.checkPages w u.first u.ctx (w.d.rnumOf u) need l
  rw [hc] at h
  exact h.trans (.lockAll ..)

/-- So do the reads after it. -/
theorem W.moves_of_loadCells {x : Inst} {as : List Nat} {cs : List Host.Cell} (hl : (w1.lockAll ls).loadCells x u 32 as = (.ok cs, w2)) :
    w.Moves w2 := by
  have h := W.Moves.loadCells (w1.lockAll ls) x u 32 as
  rw [hl] at h
  exact (W.moves_of_lockAll hc).trans h
end

/-! ### Tiles in memory (07 R211) -/

/-- The byte ranges of the rows of a tile. -/
def tileLines (tl : Tile) (a pitch : Nat) : List (Nat × Nat) :=
  (List.range (shareR tl.width * tl.m)).map (fun r => (a + 4 * pitch * r, 4 * (shareC tl.width * tl.n)))

theorem tileRanges_eq (tl : Tile) (a pitch : Nat) : tileRanges tl a pitch = tileLines tl a pitch := by
  rw [tileRanges, tileLines, Tile.rows_eq, Tile.cols_eq]

theorem tileAddrs_eq (tl : Tile) (a pitch : Nat) : tileAddrs tl a pitch = (tileLines tl a pitch).flatMap (fun r => addrs r.1 r.2) := by
  rw [← tileRanges_eq, tileRanges, List.flatMap_map]
  rfl

/-- A cell of a tile that a function fills. -/
theorem Tile.fill_cells_getD (tl : Tile) (g : Nat → Nat → BitVec 32) {i j : Nat} (hi : i < shareR tl.width * tl.m)
    (hj : j < shareC tl.width * tl.n) : (tl.fill g).cells.getD (i * (shareC tl.width * tl.n) + j) 0#32 = g i j := by
  rw [Tile.fill, Tile.rows_eq, Tile.cols_eq, getD_flatMap_range _ _ (fun _ _ => by simp) hi hj, getD_map_range _ _ hj]

/-- An address and a PITCH at which the rows of a tile may stand (07 R211). -/
def TilePlaced (w : W) (tl : Tile) (a pitch : Nat) : Prop :=
  a % 64 = 0 ∧ a < 2 ^ 57 ∧ tl.cols ≤ pitch ∧ pitch % 16 = 0 ∧ w.isLocal a = true

theorem TilePlaced.cols_le {w : W} {tl : Tile} {a pitch : Nat} (h : TilePlaced w tl a pitch) : tl.cols ≤ pitch := by
  obtain ⟨-, -, hcols, -, -⟩ := h
  exact hcols

theorem TilePlaced.isLocal {w : W} {tl : Tile} {a pitch : Nat} (h : TilePlaced w tl a pitch) : w.isLocal a = true := by
  obtain ⟨-, -, -, -, hlocal⟩ := h
  exact hlocal

/-- The tests of R211 pass where a tile is placed. -/
theorem TilePlaced.aligned {w : W} {tl : Tile} {a pitch : Nat} (h : TilePlaced w tl a pitch) :
    ¬(a % 64 ≠ 0 ∨ 2 ^ 57 ≤ a ∨ pitch < tl.cols ∨ pitch % 16 ≠ 0) := by
  obtain ⟨hal, h57, hcols, hp, -⟩ := h
  omega

/-- A tile with its cells read from memory, the bytes of each in order (07 R211). -/
def Tile.ofCells (tl : Tile) (cs : List Host.Cell) : Tile := tl.fill (fun i j =>
  BitVec.ofNat 32 (ofBytes ((List.range 4).map (fun q => (cs.getD (4 * (i * tl.cols + j) + q) (0, 0#8)).2))))

/-- `mld` whose checks pass: its pages are locked, and its tile is filled with the bytes that it reads (07 R199, R202, R211). -/
theorem startMld_go {f : FmtN} {w w1 w2 : W} {iid idx : Nat} {x : Inst} {u : Thread} {m : MStep} {ls : List Nat} {cs : List Host.Cell}
    {tl : Tile} (htl : tileOf u f.tile.toNat = tl) (hwidth : tl.width = u.width)
    (hplaced : TilePlaced w tl m.a.toNat (f.x.extractLsb' 0 16).toNat)
    (hc : w.checkPages u.first u.ctx (w.d.rnumOf u) rR (tileLines tl m.a.toNat (f.x.extractLsb' 0 16).toNat) = (.ok ls, w1))
    (hl : (w1.lockAll ls).loadCells x u 32 ((tileLines tl m.a.toNat (f.x.extractLsb' 0 16).toNat).flatMap fun r => addrs r.1 r.2) = (.ok cs, w2)) :
    let x1 : Inst := { x with accs := x.accs ++ [⟨32, idx, cs, false, none⟩] }
    let p := w2.putTile x1 u f.tile.toNat (tl.ofCells cs)
    startMld f w iid idx x u m = .go p.1 { m with locks := ls, late := none, toks := [oneTok f.t0 1] } p.2 := by
  have hpitch : bits f.x 15 0 = (f.x.extractLsb' 0 16).toNat := bits_eq_toNat ..
  have hshape : shapeOk (u.tile f.tile.toNat) u.width none = some tl := by
    rw [tile_eq_tileOf, htl, shapeOk_eq_some (.inr hwidth), ← hwidth]
  have hbyte : ∀ n, (cs.map Prod.snd).toArray.getD n 0#8 = (cs.getD n (0, 0#8)).2 := fun n => by
    rw [← List.getD_map cs (0, 0#8) Prod.snd, Array.getD_eq_getD_getElem?, List.getElem?_toArray]
    rfl
  simp only [startMld, hshape, hpitch, if_neg hplaced.aligned, hplaced.isLocal, Bool.not_true, Bool.false_eq_true, if_false, tileRanges_eq,
    tileAddrs_eq, W.stepPages_ok hc, W.stepRead_ok hl, hbyte]
  rfl

/-- A load step that has started: its tile holds what it has read, and its pages are locked. -/
theorem mld_leaves {f : FmtN} {s : State} {x : Inst} {b : Block} {u : Thread} {m : MStep} {w1 w2 : W} {ls : List Nat} {cs : List Host.Cell}
    {tl : Tile} (h : StepReady s x b u m (.mld f)) (htl : tileOf u f.tile.toNat = tl) (hwidth : tl.width = u.width)
    (hplaced : TilePlaced s.toW tl m.a.toNat (f.x.extractLsb' 0 16).toNat)
    (hc : s.toW.checkPages u.first u.ctx (s.dev.rnumOf u) rR (tileLines tl m.a.toNat (f.x.extractLsb' 0 16).toNat) = (.ok ls, w1))
    (hl : (w1.lockAll ls).loadCells x u 32 ((tileLines tl m.a.toNat (f.x.extractLsb' 0 16).toNat).flatMap fun r => addrs r.1 r.2) = (.ok cs, w2)) :
    ∃ t v, exec .matrixStepStart s = .next t ∧ t.mem = s.mem.writeAll w2.ov.reverse ∧ t.dev.thr x.thr = some v ∧
      HoldsStep s t [oneTok f.t0 1] ls ∧ tileOf v f.tile.toNat = tl.ofCells cs := by
  obtain ⟨-, hu, -, -⟩ := Dev.stepAt_spec h.1
  have hu2 : w2.d.thr x.thr = some u := ((W.moves_of_loadCells hc hl).dev.thr _).trans hu
  have hgo := startMld_go (iid := s.dev.arg.a) (idx := s.dev.arg.b) (m := m) htl hwidth hplaced hc hl
  obtain ⟨t, ht, hleaves⟩ := matrixStepStart_leaves h rfl rfl hgo rfl ((Inst.SameButReads.withAccs ..).trans (W.putTile_sameButReads ..))
  obtain ⟨hov, -, v, hv, htiles⟩ := W.putTile_spec w2 { x with accs := x.accs ++ [⟨32, s.dev.arg.b, cs, false, none⟩] } (t := u)
    f.tile.toNat (tl.ofCells cs) hu2
  refine ⟨t, v, ht, ?_, (hleaves.thr _).trans hv, hleaves.holds, ?_⟩
  · rw [hleaves.mem, hov]
  · rw [tileOf, htiles, Tbl.look_set_self]
    rfl

/-- The bytes of the cells of a tile at their addresses. -/
def tileCells (tl : Tile) (a pitch : Nat) : List Host.Cell :=
  (List.range tl.rows).flatMap (fun i => (List.range tl.cols).flatMap (fun j =>
    cellsAt (a + 4 * (pitch * i + j)) (leBytes 4 (tl.cell i j).toNat)))

theorem mem_tileCells {tl : Tile} {a pitch : Nat} {c : Host.Cell} : c ∈ tileCells tl a pitch ↔
    ∃ i < tl.rows, ∃ j < tl.cols, ∃ q < 4, c = (a + 4 * (pitch * i + j) + q, (tl.cell i j).extractLsb' (8 * q) 8) := by
  have hbytes : ∀ k (v : BitVec 32), c ∈ cellsAt k (leBytes 4 v.toNat) ↔ ∃ q < 4, c = (k + q, v.extractLsb' (8 * q) 8) := fun k v => by
    have hlen : (leBytes 4 v.toNat).length = 4 := by simp [leBytes]
    rw [mem_cellsAt, hlen]
    exact exists_congr fun q => and_congr_right fun hq => by rw [leBytes_getD v hq]
  simp only [tileCells, List.mem_flatMap, List.mem_range, hbytes]

/-- Rows that PITCH keeps apart have no address in common (07 R211). -/
theorem tileAddr_inj {a pitch i j q i' j' q' : Nat} (hj : j < pitch) (hj' : j' < pitch) (hq : q < 4) (hq' : q' < 4)
    (h : a + 4 * (pitch * i + j) + q = a + 4 * (pitch * i' + j') + q') : i = i' ∧ j = j' ∧ q = q' := by
  have hcell : pitch * i + j = pitch * i' + j' := by omega
  have hjj : j = j' := by
    have hmod := congrArg (· % pitch) hcell
    simpa [Nat.mul_add_mod, Nat.mod_eq_of_lt hj, Nat.mod_eq_of_lt hj'] using hmod
  have hrow : pitch * i = pitch * i' := by omega
  exact ⟨Nat.eq_of_mul_eq_mul_left (by omega) hrow, hjj, by omega⟩

theorem cellAt_tileCells {tl : Tile} {a pitch i j q : Nat} (hcols : tl.cols ≤ pitch) (hi : i < tl.rows) (hj : j < tl.cols) (hq : q < 4) :
    cellAt (tileCells tl a pitch) (a + 4 * (pitch * i + j) + q) = some ((tl.cell i j).extractLsb' (8 * q) 8) := by
  refine cellAt_eq_some (mem_tileCells.2 ⟨i, hi, j, hj, q, hq, rfl⟩) fun c hc hca => ?_
  obtain ⟨i', -, j', hj', q', hq', rfl⟩ := mem_tileCells.1 hc
  obtain ⟨rfl, rfl, rfl⟩ := tileAddr_inj (by omega) (by omega) hq' hq hca
  rfl

/-- No younger load of the thread is under way: a store contradicts none. -/
theorem youngLoads_eq_nil {d : Dev} {t seq : Nat} (h : ∀ y ∈ d.insts, y.2.thr = t → seq < y.2.seq → ∀ q ∈ y.2.accs, q.isStore = true)
    (scr : Option Nat) (as : List Nat) : d.youngLoads t seq scr as = [] := by
  refine List.flatMap_eq_nil_iff.2 fun p hp => ?_
  obtain ⟨hp, hseq⟩ := List.mem_filter.1 hp
  obtain ⟨hp, hthr, -⟩ := Dev.mem_instsOf.1 hp
  have hnone : p.2.accs.filter (fun a => !a.isStore && a.scratch == scr && a.bytes.any (fun b => as.contains b.1)) = [] :=
    List.filter_eq_nil_iff.2 fun q hq => by simp [h p hp hthr (of_decide_eq_true hseq) q hq]
  rw [hnone, List.map_nil]

/-- The work area and the instance after an `mst`: with REL its tile is released (07 R211). -/
def W.relTile (w : W) (f : FmtN) (x : Inst) (u : Thread) (tl : Tile) : W × Inst :=
  if f.x.getLsbD 16 then w.putTile x u f.tile.toNat { tl with cells := [], live := false } else (w, x)

/-- `mst` whose checks pass and that no younger load contradicts: its pages are locked, and it holds the bytes of its cells
for the commit (07 R199, R202, R211). -/
theorem startMst_go {f : FmtN} {w w1 : W} {iid idx : Nat} {x : Inst} {u : Thread} {m : MStep} {ls : List Nat} {tl : Tile}
    (htl : tileOf u f.tile.toNat = tl) (hplaced : TilePlaced w tl m.a.toNat (f.x.extractLsb' 0 16).toNat)
    (hc : w.checkPages u.first u.ctx (w.d.rnumOf u) rW (tileLines tl m.a.toNat (f.x.extractLsb' 0 16).toNat) = (.ok ls, w1))
    (hyoung : ∀ as, (w1.lockAll ls).d.youngLoads x.thr x.seq none as = []) :
    let p := (w1.lockAll ls).relTile f x u tl
    let cs := tileCells tl m.a.toNat (f.x.extractLsb' 0 16).toNat
    startMst f w iid idx x u m = .go p.1 { m with locks := ls, out := cs, toks := [oneTok f.t0 1] }
      { p.2 with accs := p.2.accs ++ [⟨32 + idx, idx, cs, true, none⟩] } := by
  have hpitch : bits f.x 15 0 = (f.x.extractLsb' 0 16).toNat := bits_eq_toNat ..
  have hv : ∀ as, (w1.lockAll ls).d.violate x none as = (w1.lockAll ls).d := fun as => violate_none (hyoung as)
  simp only [startMst, tile_eq_tileOf, htl, hpitch, if_neg hplaced.aligned, hplaced.isLocal, Bool.not_true, Bool.false_eq_true, if_false, tileRanges_eq,
    W.stepPages_ok hc, hv, bits_eq_one]
  rfl

/-- What an `mst` leaves of the instance and of the thread. -/
theorem W.relTile_spec {w : W} {f : FmtN} {x : Inst} {u : Thread} {tl : Tile} (htl : tileOf u f.tile.toNat = tl) (hu : w.d.thr x.thr = some u) :
    (w.relTile f x u tl).1.ov = w.ov ∧ x.SameButReads (w.relTile f x u tl).2 ∧
      ∃ v, (w.relTile f x u tl).1.d.thr x.thr = some v ∧ (tileOf v f.tile.toNat).live = (tl.live && !f.x.getLsbD 16) := by
  unfold W.relTile
  split
  next hrel =>
    obtain ⟨hov, -, v, hv, htiles⟩ := W.putTile_spec w x (t := u) f.tile.toNat { tl with cells := [], live := false } hu
    refine ⟨hov, W.putTile_sameButReads .., v, hv, ?_⟩
    rw [tileOf, htiles, Tbl.look_set_self, hrel, Bool.not_true, Bool.and_false]
    rfl
  next hrel =>
    refine ⟨rfl, .refl x, u, hu, ?_⟩
    rw [htl, Bool.eq_false_of_not_eq_true hrel, Bool.not_false, Bool.and_true]

/-- A store step that has started: it holds the bytes of its cells, its pages are locked, and with REL its tile is released. -/
theorem mst_leaves {f : FmtN} {s : State} {x : Inst} {b : Block} {u : Thread} {m : MStep} {w1 : W} {ls : List Nat} {tl : Tile}
    (h : StepReady s x b u m (.mst f)) (htl : tileOf u f.tile.toNat = tl) (hplaced : TilePlaced s.toW tl m.a.toNat (f.x.extractLsb' 0 16).toNat)
    (hc : s.toW.checkPages u.first u.ctx (s.dev.rnumOf u) rW (tileLines tl m.a.toNat (f.x.extractLsb' 0 16).toNat) = (.ok ls, w1))
    (hyoung : ∀ y ∈ s.dev.insts, y.2.thr = x.thr → x.seq < y.2.seq → ∀ q ∈ y.2.accs, q.isStore = true) :
    ∃ t v, exec .matrixStepStart s = .next t ∧ t.mem = s.mem.writeAll (w1.lockAll ls).ov.reverse ∧ t.dev.thr x.thr = some v ∧
      HoldsStep s t [oneTok f.t0 1] ls ∧ (tileOf v f.tile.toNat).live = (tl.live && !f.x.getLsbD 16) ∧
      ∃ y, t.dev.inst s.dev.arg.a = some y ∧ ∃ q ∈ y.msteps, q.idx = s.dev.arg.b ∧
        q.out = tileCells tl m.a.toNat (f.x.extractLsb' 0 16).toNat := by
  obtain ⟨-, hu, -, -⟩ := Dev.stepAt_spec h.1
  have hmoves := (W.moves_of_lockAll hc).dev
  have hgo := startMst_go (iid := s.dev.arg.a) (idx := s.dev.arg.b) (m := m) htl hplaced hc
    (youngLoads_eq_nil (by rwa [hmoves.insts]) none)
  obtain ⟨hov, hx, v, hv, hlive⟩ := W.relTile_spec (x := x) htl ((hmoves.thr _).trans hu)
  obtain ⟨t, ht, hleaves⟩ := matrixStepStart_leaves h rfl rfl hgo rfl (hx.trans (.withAccs ..))
  obtain ⟨y, hy, -, -, -, hstep⟩ := hleaves.inst
  refine ⟨t, v, ht, ?_, (hleaves.thr _).trans hv, hleaves.holds, hlive, y, hy, _, hstep, hleaves.idx, rfl⟩
  rw [hleaves.mem, hov]

/-! ### Weights (07 R214) -/

/-- Dense records are never bad. -/
theorem badRec_dense (width : Nat) (bs : List Byte) : badRec width 0 bs = false := rfl

/-- Units of a weight buffer marked one by one. -/
theorem Dev.look_wtags_foldl {us : List (Nat × Nat)} {g k : Nat} {tag : WTag} (hk : (g, k) ∈ us) (d : Dev) :
    ((us.foldl (fun d u => d.modGrid u.1 (fun g => { g with wtags := g.wtags.set u.2 tag })) d).grid g).wtags.look k = some tag := by
  have hmark : ∀ (d : Dev) (u : Nat × Nat), ((d.modGrid u.1 (fun g => { g with wtags := g.wtags.set u.2 tag })).grid g).wtags.look k =
      if (g, k) = u then some tag else (d.grid g).wtags.look k := fun d u => by
    obtain ⟨g', k'⟩ := u
    by_cases hg : g = g'
    · subst hg
      simp only [Dev.grid_modGrid, Tbl.look_set, Prod.mk.injEq, true_and]
    · simp only [Dev.grid_modGrid_ne _ _ hg, Prod.mk.injEq, hg, false_and, if_false]
  induction us using List.reverseRecOn with
  | nil => cases hk
  | append_singleton us u ih =>
    rw [List.foldl_append, List.foldl_cons, List.foldl_nil, hmark]
    split
    · rfl
    next hne => exact ih ((List.mem_append.1 hk).resolve_right (by simpa using hne))

/-- `wbload` of dense records on a core of one grid, whose checks pass: its pages are locked, and the buffer takes the bytes that it
reads, with their units marked (07 R214). -/
theorem startWbload_go {f : FmtN} {w w1 w2 : W} {iid idx : Nat} {x : Inst} {u : Thread} {m : MStep} {n : Nat} {ls : List Nat}
    {cs : List Host.Cell} (hn : n = 256 * ((f.x.extractLsb' 0 8).toNat + 1)) (hsparse : f.sparse = 0#2) (hwidth : u.width = 1)
    (hal : m.a.toNat % 256 = 0) (h57 : m.a.toNat < 2 ^ 57) (hlocal : w.isLocal m.a.toNat = true) (hfit : m.b.toNat + n ≤ 524288)
    (hrecs : n % 96 = 0) (hoff : m.b.toNat % 96 = 0)
    (hc : w.checkPages u.first u.ctx (w.d.rnumOf u) rR [(m.a.toNat, n)] = (.ok ls, w1))
    (hl : (w1.lockAll ls).loadCells x u 32 (addrs m.a.toNat n) = (.ok cs, w2)) :
    let w3 := w2.wrs (cellsAt (wbKey u.first m.b.toNat) ((cs.map Prod.snd).take n))
    let units := (List.range (n / 32)).map (fun k => (u.first, m.b.toNat / 32 + k))
    startWbload f w iid idx x u m =
      .go { w3 with d := units.foldl (fun d p => d.modGrid p.1 (fun g => { g with wtags := g.wtags.set p.2 (.full (tyBits f.bf) 0) })) w3.d }
        { m with locks := ls, late := none, units := units, toks := [oneTok f.t0 n] }
        { x with accs := x.accs ++ [⟨32, idx, cs, false, none⟩] } := by
  have hlen : 256 * (bits f.x 7 0 + 1) = n := by rw [hn, bits_eq_toNat]
  have hgrids : u.grids = [u.first] := by simp [Thread.grids, hwidth]
  have hshare : shareCols u.width = 1 := by rw [hwidth]; rfl
  have haligned : ¬(m.a.toNat % 256 ≠ 0 ∨ 2 ^ 57 ≤ m.a.toNat) := by omega
  have hfits : ¬(524288 < m.b.toNat + n ∨ n % recSize 0 ≠ 0 ∨ m.b.toNat % recSize 0 ≠ 0) := by
    rw [show recSize 0 = 96 from rfl]
    omega
  have hsparse : f.sparse.toNat = 0 := by rw [hsparse]; rfl
  have hread : (w1.lockAll ls).loadCells x u 32 (span m.a.toNat n) = (.ok cs, w2) := hl
  have hnever : ∀ (bs : List Byte), (List.range (n / recSize 0)).any (fun k =>
      badRec (elemWidth f.bf) 0 ((bs.drop (k * recSize 0)).take (recSize 0))) = false := fun bs =>
    List.any_eq_false.2 fun k _ => by simp [badRec_dense]
  simp only [startWbload, hlen, hshare, hsparse, Nat.mul_one, if_neg haligned, hlocal, Bool.not_true, Bool.false_eq_true, if_false,
    if_neg hfits, W.stepPages_ok hc, W.stepRead_ok hread, hgrids, List.range_one, List.any_cons, List.any_nil, hnever, Bool.or_false,
    List.flatMap_cons, List.flatMap_nil, List.append_nil, List.foldl_cons, List.foldl_nil, Option.isSome_none, Nat.sub_self, Nat.zero_mod,
    Nat.zero_mul, List.drop_zero]
  rfl

/-- Keys of a weight buffer below its size stand one after the other, and hold what is written there. -/
theorem read_wbKey {w : W} {m : Memory} (hwf : m.wf = true) {g off n j : Nat} {cs : List Host.Cell} (hcs : cs.length = n) (hfit : off + n ≤ 524288)
    (hj : j < n) : (m.writeAll (w.wrs (cellsAt (wbKey g off) ((cs.map Prod.snd).take n))).ov.reverse).read (wbKey g (off + j)) =
      (cs.getD j (0, 0#8)).2 := by
  have htake : (cs.map Prod.snd).take n = cs.map Prod.snd := List.take_of_length_le (by simp [hcs])
  rw [Memory.read_writeAll_reverse hwf, htake, wbKey_add (by omega), ovRead_wrs (cellAt_cellsAt (by simpa [hcs] using hj))]
  exact List.getD_map cs (0, 0#8) Prod.snd

/-- A load gives a cell for each address that it asks for. -/
theorem loadCells_length {w w' : W} {x : Inst} {t : Thread} {l : Nat} {as : List Nat} {cs : List Host.Cell}
    (h : w.loadCells x t l as = (.ok cs, w')) : cs.length = as.length := by
  unfold W.loadCells at h
  split at h
  · cases h
    simp
  all_goals cases h

/-- A `wbload` of dense records that has started on a core of one grid: the buffer holds the bytes read, and their units are marked. -/
theorem wbload_leaves {f : FmtN} {s : State} {x : Inst} {b : Block} {u : Thread} {m : MStep} {w1 w2 : W} {n : Nat} {ls : List Nat}
    {cs : List Host.Cell} (h : StepReady s x b u m (.wbload f)) (hn : n = 256 * ((f.x.extractLsb' 0 8).toNat + 1)) (hsparse : f.sparse = 0#2)
    (hwidth : u.width = 1) (hal : m.a.toNat % 256 = 0) (h57 : m.a.toNat < 2 ^ 57) (hlocal : s.toW.isLocal m.a.toNat = true)
    (hwf : s.mem.wf = true) (hfit : m.b.toNat + n ≤ 524288) (hrecs : n % 96 = 0) (hoff : m.b.toNat % 96 = 0)
    (hc : s.toW.checkPages u.first u.ctx (s.dev.rnumOf u) rR [(m.a.toNat, n)] = (.ok ls, w1))
    (hl : (w1.lockAll ls).loadCells x u 32 (addrs m.a.toNat n) = (.ok cs, w2)) :
    ∃ t, exec .wbloadStepStart s = .next t ∧ HoldsStep s t [oneTok f.t0 n] ls ∧
      (∀ j < n, t.mem.read (wbKey u.first (m.b.toNat + j)) = (cs.getD j (0, 0#8)).2) ∧
      ∀ j < n / 32, (t.dev.grid u.first).wtags.look (m.b.toNat / 32 + j) = some (.full (tyBits f.bf) 0) := by
  have hgo := startWbload_go (iid := s.dev.arg.a) (idx := s.dev.arg.b) (m := m) hn hsparse hwidth hal h57 hlocal hfit hrecs hoff hc hl
  have hcs : cs.length = n := (loadCells_length hl).trans (by simp [addrs])
  obtain ⟨t, ht, hleaves⟩ := wbloadStepStart_leaves h rfl rfl hgo rfl (.withAccs ..)
  refine ⟨t, ht, hleaves.holds, fun j hj => ?_, fun j hj => ?_⟩
  · rw [hleaves.mem]
    exact read_wbKey hwf hcs hfit hj
  · have hunit : (u.first, m.b.toNat / 32 + j) ∈ (List.range (n / 32)).map (fun k => (u.first, m.b.toNat / 32 + k)) :=
      List.mem_map.2 ⟨j, List.mem_range.2 hj, rfl⟩
    rw [hleaves.grid]
    exact Dev.look_wtags_foldl hunit _

/-! ### Whose turn it is (07 R198) -/

/-- A step that may start is eligible where it is not one of a pair. -/
theorem eligible_of_stepReady {d : Dev} {iid : Nat} {x : Inst} {b : Block} {t : Thread} {m : MStep} {i : Instr}
    (hpair : pairTile i = none) (h : d.stepReady iid x b t m i = true) : d.eligible x b m.idx (matrixRes i) = true := by
  simp only [Dev.stepReady, Bool.and_eq_true] at h
  obtain ⟨-, h⟩ := h
  split at h
  case h_1 => cases h
  case h_2 => cases hpair
  case h_3 => cases hpair
  case h_4 =>
    simp only [Bool.and_eq_true] at h
    obtain ⟨⟨helig, -⟩, -⟩ := h
    exact helig
  case h_5 => cases h

/-- What keeps a step from its turn: the array performs another step, the step's instance is stopped by a fault, the step is
not eligible, or one that stands before it can start. -/
theorem stepTurn_eq_false {w : W} {iid : Nat} {x : Inst} {b : Block} {u : Thread} {m : MStep} {i : Instr} (hpair : pairTile i = none)
    (h : w.d.arrayIdle u = false ∨ x.pend.isSome = true ∨ w.d.eligible x b m.idx (matrixRes i) = false ∨
      (∃ p ∈ w.d.instsOf x.thr, ∃ n ∈ p.2.msteps, w.d.stepBefore p.2 n x m = true ∧ ∃ c j, p.2.code = some c ∧
        c.instr n.idx = some j ∧ w.d.stepReady p.1 p.2 c u n j = true ∧ w.stepHeld p.1 p.2 c u n j = false)) :
    w.stepTurn iid x b u m i = false := by
  refine Bool.eq_false_of_not_eq_true fun hturn => ?_
  simp only [W.stepTurn, Bool.and_eq_true, List.all_eq_true] at hturn
  obtain ⟨⟨hidle, hready⟩, hfirst⟩ := hturn
  rcases h with h | h | h | ⟨p, hp, n, hn, hbefore, c, j, hc, hj, hstart, hheld⟩
  · simp [hidle] at h
  · simp [Dev.stepReady, Option.isSome_iff_ne_none.1 h] at hready
  · simp [eligible_of_stepReady hpair hready] at h
  · have := hfirst p hp n hn
    simp [hbefore, hc, hj, hstart, hheld] at this

/-! ### The finish of a step (07 R202, R203) -/

/-- A step that holds no page, of an instance that nothing stops, ends: its record says so, and its tokens are on their way. -/
theorem exec_matrixStepFinish {s : State} {x : Inst} {b : Block} {u : Thread} {m : MStep} {i : Instr}
    (h : s.dev.stepAt s.dev.arg.a s.dev.arg.b .started = some (x, b, u, m, i)) (hdying : x.dying = false) (hpend : x.pend = none)
    (hlate : m.late = none) (hlocks : m.locks = []) :
    let d := s.dev.setInst s.dev.arg.a (x.setStep { m with st := .done })
    exec .matrixStepFinish s = .next { s with dev := { d with flight := d.flight ++ sends s.dev.arg.a s.dev.arg.b m.toks } } := by
  have hat : s.toW.d.stepAt s.toW.d.arg.a s.toW.d.arg.b .started = some (x, b, u, m, i) := h
  have hpend' : ∀ q, (x.setStep q).pend = none := fun _ => hpend
  have hdying' : ∀ q, (x.setStep q).dying = false := fun _ => hdying
  rw [exec, execMatrixStepFinish, run_eq, W.stepFinish]
  simp only [hat, hlocks, List.foldl_nil, ite_self, hdying', hpend', hlate, Option.isSome_none, Bool.false_eq_true, if_false]
  rw [show ({ m with st := .done, locks := [], late := none } : MStep) = { m with st := .done } by rw [← hlocks, ← hlate]]
  rfl

/-- Every record of the step that is replaced is the one that replaces it. -/
theorem Inst.eq_of_mem_setStep {x : Inst} {m q : MStep} (hq : q ∈ (x.setStep m).msteps) (hidx : q.idx = m.idx) : q = m := by
  obtain ⟨r, -, rfl⟩ := List.mem_map.1 hq
  by_cases hr : r.idx = m.idx
  · simp [hr]
  · simp [hr] at hidx

end Sys2Proof.Machine
end

section
/-!
PROOFS, 07 the matrix array: the instructions and their steps.
-/

namespace Sys2Proof.Machine
open Claims

/-- Settles O57: the firing by its four cases, each start by what its preparation gives, and the finish by what it sends. -/
theorem matrixSteps : Obligations.MatrixSteps := by
  refine ⟨fun i hi f s c hc => ?_, ?_, ?_⟩
  · obtain ⟨hexec, hpr⟩ := exec_matrixInstr hi f s
    rw [hexec, runD_eq, ← hpr]
    refine ⟨fun hp hn hv => ?_, fun hp hn hv => ?_, fun hp hn hidle => ?_, fun hp hidle => ?_⟩
    · rw [fireMatrix_operates hc hp hn hv]
      rfl
    · rw [fireMatrix_voided hc hp hn hv]
      rfl
    · rw [fireMatrix_null hc hp hn hidle]
      rfl
    · rw [fireMatrix_not_holds hc hp hidle]
      rfl
  · intro f s x b u m k tl starts faults rows cols cell unit now
    refine ⟨fun h => ?_, fun h => ?_, fun h => ?_, fun h => ?_, fun h => ?_, fun h => ?_⟩
    · intro shape same
      obtain ⟨hkeep, hlive, hset⟩ := startMcfg_cases f s.toW s.dev.arg.a s.dev.arg.b x u m
      have hsame : tl.sameShape (mcfgShape f u.width) = true ↔ same := Tile.sameShape_iff
      have hother : tl.sameShape (mcfgShape f u.width) = false ↔ ¬same := by rw [← hsame, Bool.not_eq_true]
      exact ⟨fun hs hd => stepStarted_of_go_here h rfl rfl (hkeep (hsame.2 hs) hd) rfl (.refl _),
        fun hs hl hd => pending_of_stepFault h rfl rfl (hlive (hother.2 hs) hl hd),
        fun hs => stepStarted_of_putTile h rfl rfl (hset (hs.imp_left (And.imp_left hother.2)))⟩
    · obtain ⟨hother, hset⟩ := startMzero_cases f s.toW s.dev.arg.a s.dev.arg.b x u m
      exact ⟨fun hl hw => pending_of_stepFault h rfl rfl (hother hl hw), fun hs => stepStarted_of_putTile h rfl rfl (hset hs)⟩
    · exact stepStarted_of_go_here h rfl rfl (startMctr_eq ..) rfl (.refl _)
    · exact stepStarted_of_go_here h rfl rfl (startMbound_eq ..) rfl (.refl _)
    · obtain ⟨hout, hread⟩ := startMrow_cases f s.toW s.dev.arg.a s.dev.arg.b x u m
      exact ⟨fun h' => pending_of_stepFault h rfl rfl (hout h'),
        fun hr hg => ⟨_, stepStarted_of_go_here h rfl rfl (hread hr hg) rfl (.refl _), lanes16_tok16_cells _⟩⟩
    · obtain ⟨hout, hread⟩ := startMred_cases f s.toW s.dev.arg.a s.dev.arg.b x u m
      exact ⟨fun h' => pending_of_stepFault h rfl rfl (hout h'),
        fun hlt => ⟨_, stepStarted_of_go_here h rfl rfl (hread hlt) rfl ⟨_, _, _, rfl⟩, mredLanes_spec f tl⟩⟩
  · intro f s x b u m iid idx k tl a pitch rows cols lines placed one holds
    refine ⟨fun h hwidth hplaced w ls w' cs hc hl => ?_, fun h hplaced w ls hc hyoung => ?_, ?_, fun h => exec_stepStarts_of_none h,
      fun i h hheld hpair => ?_, fun i h hdying hpend hlate hlocks => ?_⟩
    · obtain ⟨t, v, ht, hmem, hv, hstep, htile⟩ := mld_leaves h rfl hwidth hplaced hc hl
      exact ⟨t, v, ht, hmem, hv, hstep, congrArg Tile.live htile, fun i hi j hj => htile ▸ Tile.fill_cells_getD tl _ hi hj⟩
    · obtain ⟨t, v, ht, hmem, hv, hstep, hlive, y, hy, q, hq, hidx, hout⟩ := mst_leaves h rfl hplaced hc hyoung
      exact ⟨t, v, ht, hmem, hv, hstep, hlive, y, hy, q, hq, hidx,
        fun i hi j hj p hp => hout ▸ cellAt_tileCells (TilePlaced.cols_le hplaced) (Tile.rows_eq tl ▸ hi) hj hp⟩
    · intro h hsparse hal h57 hlocal n off hwf hfit hrecs hoff hwidth w ls w' cs hc hl
      exact wbload_leaves h rfl hsparse hwidth hal h57 hlocal hwf hfit hrecs hoff hc hl
    · obtain ⟨-, -, -, hidx⟩ := Dev.stepAt_spec h
      exact exec_stepStarts_of_not_turn h (stepTurn_eq_false hpair (by rwa [hidx]))
    · obtain ⟨-, -, -, hidx⟩ := Dev.stepAt_spec h
      refine ⟨_, exec_matrixStepFinish h hdying hpend hlate hlocks, rfl, rfl, _, Dev.inst_setInst .., fun m' hm' hidx' => ?_, rfl, rfl⟩
      rw [Inst.eq_of_mem_setStep hm' (hidx'.trans hidx.symm)]

end Sys2Proof.Machine
end

section
/-!
PROOFS, 08 memory access: prefetches, fences and the cache range instructions as they fire.
-/

namespace Sys2Proof.Machine
open Claims

/-! ### Prefetches (08 R244) -/

/-- A slot that fires without sending or raising anything. -/
theorem Dev.emit_nothing (d : Dev) (c : Firing) :
    d.emit c {} = { d with insts := d.insts.set c.iid { c.x with fired := c.idx :: c.x.fired } } := by
  simp [Dev.emit, Dev.setInst, sends]

/-- The work area after a prefetch has looked at its line. -/
def prefetched (f : FmtM) (w : W) (c : Firing) (u : Thread) : W :=
  let a := addrOf f c
  if 2 ^ 57 ≤ a ∨ w.isRemote a = true then w
  else
    match w.check u rR a 1 1 with
    | (.fault _, w) => w
    | (.ok, w) =>
      if w.deviceOrdered u a then w
      else if f.ty = 0#4 then (w.l1Read u.ctx (w.d.rnumOf u) (u.accessGrid a) (a / 32)).2
      else (w.home u.ctx (w.d.rnumOf u) (a / 32)).2

/-- `pref` sends nothing and faults on nothing. -/
theorem exec_pref {f : FmtM} {s : State} {c : Firing} {u : Thread} (h : Fires f.pr s c) (hu : s.dev.thr c.x.thr = some u) :
    let w := prefetched f s.toW c u
    exec (.pref f) s = .next { s with
      mem := s.mem.writeAll w.ov.reverse
      dev := { w.d with insts := w.d.insts.set c.iid { c.x with fired := c.idx :: c.x.fired } } } := by
  have hdone : ∀ w : W, ({ s with dev := w.d.emit c {}, mem := s.mem.writeAll w.ov.reverse } : State) = { s with
      mem := s.mem.writeAll w.ov.reverse
      dev := { w.d with insts := w.d.insts.set c.iid { c.x with fired := c.idx :: c.x.fired } } } := fun w => by rw [Dev.emit_nothing]
  intro w
  rw [exec, execPref, run_fireFill (i := .pref f) h hu, ← hdone w]
  dsimp only [w, prefetched]
  rw [memAddr_eq]
  split
  · rfl
  · generalize s.toW.check u rR (addrOf f c) 1 1 = p
    obtain ⟨q, w1⟩ := p
    cases q with
    | fault _ => rfl
    | ok =>
      dsimp only
      split
      · rfl
      · split <;> rfl

/-! ### Fences (08 R245, 09 R268-R270) -/

/-- The loads before a fence have fired: those of lower LSID, and every load of every older instance. -/
def LoadsFired (s : State) (c : Firing) (l : Nat) : Prop :=
  c.x.loadsBelow c.code l = true ∧ ∀ p ∈ s.dev.olderOf c.x, ∃ b, p.2.code = some b ∧ p.2.loadsBelow b 32 = true

/-- The same as a test. -/
def loadsFired (s : State) (c : Firing) (l : Nat) : Bool :=
  c.x.loadsBelow c.code l && (s.dev.olderOf c.x).all (fun p => match p.2.code with
    | some b => p.2.loadsBelow b 32
    | none => false)

theorem loadsFired_iff (s : State) (c : Firing) (l : Nat) :
    loadsFired s c l = true ↔ LoadsFired s c l := by
  rw [loadsFired, Bool.and_eq_true, List.all_eq_true, LoadsFired]
  refine and_congr_right fun _ => forall₂_congr fun p _ => ?_
  cases p.2.code <;> simp

/-- The device after an acquire that flushes nothing younger. -/
theorem acquireFlush_acquire {s : State} {w : W} {c : Firing} {sc : Nat} {gs : List Nat} (hy : NoYoungLoad s c)
    (hw : w.d.insts = s.dev.insts) : (w.acquireBy sc gs).d.acquireFlush c.x = (w.acquireBy sc gs).d :=
  acquireFlush_of_noYoungLoad fun q hq => hy q (by rwa [(W.Moves.acquireBy w sc gs).dev.insts, hw] at hq)

/-- A fence of KIND 1 waits for the loads before it. -/
theorem exec_fence_acquire {f : FmtM} {s : State} {c : Firing} {u : Thread} (h : Fires f.pr s c) (hu : s.dev.thr c.x.thr = some u)
    (hty : f.ty = 1#4) :
    (¬LoadsFired s c f.lsid.toNat → exec (.fence f) s = .next s) ∧
    (LoadsFired s c f.lsid.toNat → exec (.fence f) s =
      .next { s with dev := ((s.toW.acquireBy f.scope.toNat u.grids).d.acquireFlush c.x).emit c {} }) := by
  have hexec : exec (.fence f) s = .next { s with dev :=
      if (!loadsFired s c f.lsid.toNat) = true then s.dev
      else ((s.toW.acquireBy f.scope.toNat u.grids).d.acquireFlush c.x).emit c {} } := by
    rw [exec, execFence, run_eq, if_pos hty, fireLoad_holds (i := .fence f) (w := s.toW) h.1 hu h.2.1 h.2.2]
    rfl
  refine ⟨fun hno => ?_, fun hyes => ?_⟩
  · rw [hexec, Bool.eq_false_of_not_eq_true (mt (loadsFired_iff s c _).1 hno)]
    rfl
  · rw [hexec, (loadsFired_iff s c _).2 hyes]
    rfl

/-- One of KIND 2 leaves its release for the commit. -/
theorem exec_fence_release {f : FmtM} {s : State} {c : Firing} {u : Thread} (h : Fires f.pr s c) (hu : s.dev.thr c.x.thr = some u)
    (hty : f.ty = 2#4) :
    exec (.fence f) s = .next { s with dev := s.dev.fillStore c f.lsid.toNat (some (.fence 2#4 f.scope.toNat)) none {} } := by
  have h1 : f.ty ≠ 1#4 := by rw [hty]; decide
  rw [exec, execFence, run_eq, if_neg h1, fireStore_holds (i := .fence f) (w := s.toW) h.1 hu h.2.1 h.2.2]
  simp only [hty, if_true]
  rfl

/-- What one of KIND 3 waits for: to be the oldest, the loads before it, the homes of what it has to write. -/
theorem exec_fence_wait {f : FmtM} {s : State} {c : Firing} {u : Thread} (h : Fires f.pr s c) (hu : s.dev.thr c.x.thr = some u)
    (hty : f.ty = 3#4)
    (hw : s.dev.isOldest c.x = false ∨ ¬LoadsFired s c f.lsid.toNat ∨ s.toW.relWaits f.scope.toNat u.grids = true) :
    exec (.fence f) s = .next s := by
  have h1 : f.ty ≠ 1#4 := by rw [hty]; decide
  have h2 : f.ty ≠ 2#4 := by rw [hty]; decide
  have hcond : (!s.dev.isOldest c.x || !loadsFired s c f.lsid.toNat || s.toW.relWaits f.scope.toNat u.grids) = true := by
    rw [← loadsFired_iff] at hw
    simpa [or_assoc] using hw
  rw [exec, execFence, run_eq, if_neg h1, fireStore_holds (i := .fence f) (w := s.toW) h.1 hu h.2.1 h.2.2, if_neg h2, if_pos]
  · rfl
  · exact hcond

/-- One that waits no more releases what stands before it, and acquires. -/
theorem exec_fence_both {f : FmtM} {s : State} {c : Firing} {u : Thread} (h : Fires f.pr s c) (hu : s.dev.thr c.x.thr = some u)
    (hty : f.ty = 3#4) (hold : s.dev.isOldest c.x = true) (hl : LoadsFired s c f.lsid.toNat)
    (hr : s.toW.relWaits f.scope.toNat u.grids = false) :
    let w := s.toW.releaseNow c.x.thr u.ctx f.scope.toNat u.grids
    exec (.fence f) s = .next { s with
      dev := ((w.acquireBy f.scope.toNat u.grids).d.acquireFlush c.x).fillStore c f.lsid.toNat (some (.fence 3#4 f.scope.toNat)) none {}
      mem := s.mem.writeAll w.ov.reverse } := by
  have h1 : f.ty ≠ 1#4 := by rw [hty]; decide
  have h2 : f.ty ≠ 2#4 := by rw [hty]; decide
  have hcond : ¬(!s.dev.isOldest c.x || !loadsFired s c f.lsid.toNat || s.toW.relWaits f.scope.toNat u.grids) = true := by
    simp [hold, hr, (loadsFired_iff s c _).2 hl]
  rw [exec, execFence, run_eq, if_neg h1, fireStore_holds (i := .fence f) (w := s.toW) h.1 hu h.2.1 h.2.2, if_neg h2, if_neg, hty]
  · rfl
  · exact hcond

/-- Nothing of the thread waits to be released at GRID scope. -/
theorem releaseNow_grid {w : W} {tid c : Nat} {gs : List Nat} (hr : ∀ r ∈ w.d.rels, r.thr ≠ tid ∧ ∀ g ∈ gs, g ∉ r.grids)
    (hs : tid ∉ w.d.spStores.map SpStore.thr) : w.releaseNow tid c 1 gs = w := by
  have hof : w.performRelsOf tid = w := by
    have : w.d.rels.filter (fun r => r.thr == tid) = [] := by
      simpa [List.filter_eq_nil_iff] using fun r hm => (hr r hm).1
    rw [W.performRelsOf, this]
    rfl
  have hat : ∀ g ∈ gs, w.performRels g = w := by
    intro g hg
    have : w.d.rels.filter (fun r => r.grids.contains g) = [] := by
      simpa [List.filter_eq_nil_iff] using fun r hm => (hr r hm).2 g hg
    rw [W.performRels, this]
    rfl
  have hall : gs.foldl (fun w g => w.performRels g) w = w :=
    List.foldlRecOn gs (fun w g => W.performRels w g) (motive := fun v => v = w) rfl fun v hv g hg => by rw [hv, hat g hg]
  have hland : w.landSp tid = w := by
    have hno : ∀ q ∈ w.d.spStores, q.thr ≠ tid := fun q hq he => hs (List.mem_map.2 ⟨q, hq, he⟩)
    have h1 : w.d.spStores.filter (fun q => q.thr == tid) = [] := by
      simpa [List.filter_eq_nil_iff] using hno
    have h2 : w.d.spStores.filter (fun q => q.thr != tid) = w.d.spStores := by
      simpa [List.filter_eq_self] using hno
    unfold W.landSp
    simp only [h1, List.foldl_nil, h2]
  unfold W.releaseNow
  simp [hof, hall, W.releaseStep, hland]

theorem relWaits_grid (w : W) (gs : List Nat) : w.relWaits 1 gs = false := by
  simp [W.relWaits, W.relBlocked]

theorem acquireBy_grid (w : W) (gs : List Nat) : w.acquireBy 1 gs = w := by
  simp [W.acquireBy, Dev.acquire]

@[simp] theorem W.acquireBy_ov (w : W) (sc : Nat) (gs : List Nat) : (w.acquireBy sc gs).ov = w.ov := rfl

/-- An LSID filled with an effect for the commit, or with none, and tokens sent. -/
theorem next_fillEff {d : Dev} {c : Firing} {l : Nat} (s : State) (eff : Option Eff) (toks : List (Target × Tok)) (h : l ∉ c.x.lsids) :
    ({ s with dev := d.fillStore c l eff none { toks := toks } } : State) = stored s d c l eff.toList [] toks := by
  rw [Dev.fillStore_eq _ _ _ _ _ _ h]
  cases eff <;> simp [stored, Dev.emit, Dev.setInst, inFlight, sends]

/-- What an LSID filled with an effect leaves of the instance. -/
theorem fillStore_inst {d : Dev} {c : Firing} {l : Nat} (e : Eff) (h : l ∉ c.x.lsids) :
    ∃ y, (d.fillStore c l (some e) none {}).inst c.iid = some y ∧ y.fired = c.idx :: c.x.fired ∧ y.lsids = l :: c.x.lsids ∧
      y.effs = c.x.effs ++ [(l, c.idx, e)] := by
  rw [Dev.fillStore_eq _ _ _ _ _ _ h]
  exact ⟨_, Dev.emit_inst .., rfl, rfl, rfl⟩

/-! ### Ranges of the caches (08 R246) -/

/-- The two cache range instructions leave their range for the commit. -/
theorem exec_range {f : FmtM} {s : State} {c : Firing} {u : Thread} (h : Fires f.pr s c) (hu : s.dev.thr c.x.thr = some u) :
    exec (.cwb f) s = .next { s with dev := (cacheRange f (.cwb f.scope.toNat) s.toW c u).d } ∧
      exec (.cinv f) s = .next { s with dev := (cacheRange f (.cinv f.scope.toNat) s.toW c u).d } :=
  ⟨runR_fireStore (i := .cwb f) h hu, runR_fireStore (i := .cinv f) h hu⟩

theorem cacheRange_ok {f : FmtM} {eff : Nat → Nat → Eff} {w w' : W} {c : Firing} {u : Thread} (h0 : 0 < c.ops.b0.toNat)
    (h32 : c.ops.b0.toNat ≤ 2 ^ 32) (h57 : addrOf f c < 2 ^ 57) (hd : w.inDomain (addrOf f c) = true)
    (hr : w.rightsAll u.first u.ctx 2 (addrOf f c) c.ops.b0.toNat = (true, w')) :
    (cacheRange f eff w c u).d = w'.d.fillStore c f.lsid.toNat (some (eff (addrOf f c) c.ops.b0.toNat)) none {} := by
  unfold cacheRange
  dsimp only
  rw [memAddr_eq]
  rw [if_neg (by omega), if_neg (by omega), hd, hr]
  rfl

theorem cacheRange_fault {f : FmtM} {eff : Nat → Nat → Eff} {w : W} {c : Firing} {u : Thread}
    (h : c.ops.b0.toNat = 0 ∨ 2 ^ 32 < c.ops.b0.toNat ∨
      (addrOf f c < 2 ^ 57 ∧ (w.rightsAll u.first u.ctx 2 (addrOf f c) c.ops.b0.toNat).1 = false)) :
    ∃ w', w.Moves w' ∧ (cacheRange f eff w c u).d = w'.d.holdAt c .protection (addrOf f c) 1 0 := by
  unfold cacheRange
  dsimp only
  rw [memAddr_eq]
  split
  · exact ⟨w, .refl _, rfl⟩
  next hlen =>
    obtain ⟨h57, hr⟩ := (or_assoc.2 h).resolve_left hlen
    rw [if_neg (by omega), hr]
    split
    · exact ⟨w, .refl _, rfl⟩
    · exact ⟨_, .rightsAll .., rfl⟩

/-- Settles O6: prefetches by what they leave of the caches, fences by KIND, and the ranges by their checks. -/
theorem prefetchAndFences : Obligations.PrefetchAndFences := by
  unfold Obligations.PrefetchAndFences
  intro f s c u h hu l sc a len fired loadsBefore
  have hpref : exec (.pref f) s = .next (fired (prefetched f s.toW c u)) := exec_pref h hu
  have hin : a < 2 ^ 57 → s.toW.isRemote a = false → ¬(2 ^ 57 ≤ a ∨ s.toW.isRemote a = true) := fun h57 hrem hno =>
    hno.elim (Nat.not_le.2 h57) (Bool.eq_false_iff.1 hrem)
  refine ⟨fun hout => ?_, fun w h57 hrem hc hdev hty => ?_, fun w h57 hrem hc hdev hty => ?_, fun w q h57 hrem hc hq => ?_,
    fun hty => ?_, fun hty hl => ?_, fun hty hno => ?_, fun hty hold hlb hr hl => ?_, fun hty hold hlb hsc hy hl hrels hsp => ?_,
    fun h0 h32 h57 hd hl w hr => ?_, fun hbad hp => ?_⟩
  · rw [hpref, prefetched, if_pos hout]
  · rw [hpref, prefetched, if_neg (hin h57 hrem), hc]
    simp [hdev, hty, a]
  · rw [hpref, prefetched, if_neg (hin h57 hrem), hc]
    simp [hdev, hty, a]
  · rw [hpref, prefetched, if_neg (hin h57 hrem), hc]
    cases q with
    | fault _ => rfl
    | ok => simp only [hq.resolve_left (fun hne => hne rfl), a, if_true]
  · obtain ⟨hwait, hgo⟩ := exec_fence_acquire h hu hty
    refine ⟨hwait, fun hlb hy => ?_⟩
    rw [hgo hlb, acquireFlush_acquire hy rfl, Dev.emit_nothing]
    rfl
  · rw [exec_fence_release h hu hty]
    exact congrArg _ (next_fillEff s (some _) [] hl)
  · exact exec_fence_wait h hu hty hno
  · exact ⟨_, exec_fence_both h hu hty hold hlb hr, rfl, fillStore_inst _ hl⟩
  · have hgrid : f.scope.toNat = 1 := hsc
    have hgo := exec_fence_both h hu hty hold hlb (by rw [hgrid, relWaits_grid])
    have hflush : s.toW.d.acquireFlush c.x = s.dev := acquireFlush_of_noYoungLoad hy
    dsimp only at hgo
    rw [hgrid, releaseNow_grid hrels hsp, acquireBy_grid, hflush] at hgo
    rw [hgo, hsc]
    exact congrArg _ (next_fillEff s (some _) [] hl)
  · obtain ⟨h1, h2⟩ := exec_range h hu
    rw [h1, h2, cacheRange_ok h0 h32 h57 hd hr, cacheRange_ok h0 h32 h57 hd hr]
    exact ⟨congrArg _ (next_fillEff s (some _) [] hl), congrArg _ (next_fillEff s (some _) [] hl)⟩
  · obtain ⟨h1, h2⟩ := exec_range h hu
    have hfault : ∀ eff, ∃ t : State, Host.Outcome.next { s with dev := (cacheRange f eff s.toW c u).d } =
        (.next t : Host.Outcome State Fault Refusal) ∧ t.mem = s.mem ∧ Pending t c.iid (pendAt c .protection a 1 0) := by
      intro eff
      obtain ⟨w', hm, hd⟩ := cacheRange_fault (eff := eff) hbad
      rw [hd]
      exact ⟨_, rfl, rfl, pending_holdAt h.1 hp hm _ _ _ _⟩
    simp only [List.forall_mem_cons]
    rw [h1, h2]
    exact ⟨hfault _, hfault _, fun _ hi => nomatch hi⟩

end Sys2Proof.Machine
end

section
/-!
PROOFS, 08 memory access: the elements that `sread` sends.
-/

namespace Sys2Proof.Machine
open Claims

/-! ### What a stream instruction names, and what a firing with effects leaves -/

/-- The stream that OFFS names. -/
theorem streamNum_eq (f : FmtM) : bits f.offs 4 0 = (f.offs.extractLsb' 0 5).toNat := bits_eq_toNat f.offs 4 0

/-- A slot that fires with an effect of its own key. -/
theorem next_after (s : State) (w : W) (c : Firing) (es : List (Nat × Nat × Eff)) (toks : List (Target × Tok)) :
    ({ s with dev := w.d.emit { c with x := { c.x with effs := c.x.effs ++ es } } ⟨toks, 0#6⟩, mem := s.mem.writeAll w.ov.reverse } : State) =
      after s w c es toks := by
  simp [after, Dev.emit, Dev.setInst, inFlight, sends]

/-- One that only sends. -/
theorem next_after_nil (s : State) (w : W) (c : Firing) (toks : List (Target × Tok)) :
    ({ s with dev := w.d.emit c ⟨toks, 0#6⟩, mem := s.mem.writeAll w.ov.reverse } : State) = after s w c [] toks := by
  simp [after, Dev.emit, Dev.setInst, inFlight, sends]

/-- A lane of a token that is made from the first lanes on: the missing ones are zero. -/
theorem elem_ofLanes_range {ty : BitVec 4} (hty : ty.toNat ≤ 12) (k : Nat) (g : Nat → Nat) {i : Nat} (hi : i < 512 / tyBits ty) :
    elem (tyBits ty) (ofLanes (8 * (tyBits ty / 8)) ((List.range k).map g)) i = if i < k then BitVec.ofNat _ (g i) else 0#_ := by
  have hbytes : ∀ ty : BitVec 4, ty.toNat ≤ 12 → 8 * (tyBits ty / 8) = tyBits ty := by decide
  rw [hbytes ty hty, elem, extract_eq_lane, lane_ofLanes _ _ _ (lane_fits hi)]
  split
  next hk =>
    rw [getD_map_range g 0 hk]
    apply BitVec.eq_of_toNat_eq
    simp
  next hk =>
    have hget : ((List.range k).map g).getD i 0 = 0 := by simp [List.getD, hk]
    rw [hget, Nat.zero_mod]

/-! ### `sread` (08 R239) -/

/-- k elements sent, and kept for the commit as taken. -/
def sreadSend (f : FmtM) (w : W) (c : Firing) (sn k : Nat) (vs : List Nat) : W :=
  let c' := { c with x := { c.x with effs := c.x.effs ++ [(f.lsid.toNat, c.idx, .sread sn k)] } }
  { w with d := w.d.emit c' ⟨[(f.t0, .val (ofLanes (8 * (tyBits f.ty / 8)) vs))], 0#6⟩ }

/-- What `sread` comes to on an OPEN stream of its type that is read, with k elements before it. -/
def sreadTail (f : FmtM) (w : W) (c : Firing) (u : Thread) (st : Stream) (sn pos k : Nat) : W :=
  let n := tyBits f.ty / 8
  if k = 0 then { w with d := w.d.emit c ⟨[(f.t0, .null)], 0#6⟩ }
  else
    match st.cfg.space with
    | .port =>
      let es := (st.arrivals.drop pos).take k
      if es.length < k then w
      else if es.any Prod.snd then { w with d := w.d.holdAt c .dataEcc 0 0 0 }
      else sreadSend f w c sn k (es.map (fun e => e.1.toNat))
    | .scratch =>
      let ks := w.d.spKeys u st.cfg pos k n
      if ks.any (fun q => w.d.stalled c.x q n) then w
      else if ks.any (fun q => w.spPoison q n) then { w with d := w.d.holdAt c .dataEcc 0 0 0 }
      else sreadSend f w c sn k (ks.map (fun q => ofBytes (w.rds q n)))
    | _ =>
      let as := (List.range k).map (fun i => st.cfg.addr (pos + i))
      if as.any (fun a => st.latches.any (fun q => q.1 == pageOf a && q.2.2)) then w
      else
        match w.readLines u (w.d.rnumOf u) ((as.map lineOf).eraseDups) with
        | (.ok lines, w) =>
          let byte := fun (a : Nat) => ((lines.find? (fun q => q.1 == lineOf a)).map (fun q => q.2.getD (a % 32) 0#8)).getD 0#8
          sreadSend f w c sn k (as.map (fun a => ofBytes ((span a n).map byte)))
        | (r, w) => { w with d := r.fail w c (w.failAt u as) 0 }

/-- The elements from a position on, all of which have arrived. -/
theorem take_drop_eq_map {α : Type} (l : List α) (d : α) {p k : Nat} (h : p + k ≤ l.length) :
    (l.drop p).take k = (List.range k).map (fun i => l.getD (p + i) d) := by
  apply List.ext_getElem
  · simp
    omega
  · intro i h1 h2
    have hi : p + i < l.length := by simp at h2; omega
    simp [List.getD, hi]

/-- No element of the access is stalled by a range of the scoreboard. -/
theorem spKeys_free {s : State} {c : Firing} {u : Thread} {cfg : StreamCfg} {pos k n : Nat}
    (hin : ∀ i < k, InWindow s u (cfg.addr (pos + i)) n ∧ s.dev.stalled c.x (spKeyOf s u (cfg.addr (pos + i))) n = false) :
    s.dev.spKeys u cfg pos k n = (List.range k).map (fun i => spKeyOf s u (cfg.addr (pos + i))) ∧
      (s.dev.spKeys u cfg pos k n).any (fun q => s.dev.stalled c.x q n) = false := by
  have hkeys : s.dev.spKeys u cfg pos k n = (List.range k).map (fun i => spKeyOf s u (cfg.addr (pos + i))) := by
    refine List.map_congr_left fun i hi => ?_
    rw [Dev.spKeyAt, spAddr_of_inWindow (hin i (List.mem_range.1 hi)).1]
    rfl
  refine ⟨hkeys, ?_⟩
  rw [hkeys, List.any_eq_false]
  intro q hq
  obtain ⟨i, hi, rfl⟩ := List.mem_map.1 hq
  exact Bool.eq_false_iff.1 (hin i (List.mem_range.1 hi)).2

section
variable {f : FmtM} {w : W} {c : Firing} {u : Thread} {st : Stream} {sn pos k : Nat}

/-- Elements that have not all arrived are waited for. -/
theorem sreadTail_port_wait (hk : k ≠ 0) (hs : st.cfg.space = .port) (hl : st.arrivals.length < pos + k) :
    sreadTail f w c u st sn pos k = w := by
  have hlen : ((st.arrivals.drop pos).take k).length < k := by
    rw [List.length_take, List.length_drop]
    omega
  unfold sreadTail
  simp only [if_neg hk, hs, if_pos hlen]

/-- Elements that have arrived are sent, in arrival order, unless one has come with an error. -/
theorem sreadTail_port (hk : k ≠ 0) (hs : st.cfg.space = .port) (hl : pos + k ≤ st.arrivals.length) :
    ((∃ i < k, (st.arrivals.getD (pos + i) (0, false)).2 = true) →
      sreadTail f w c u st sn pos k = { w with d := w.d.holdAt c .dataEcc 0 0 0 }) ∧
    ((∀ i < k, (st.arrivals.getD (pos + i) (0, false)).2 = false) → sreadTail f w c u st sn pos k =
      sreadSend f w c sn k ((List.range k).map (fun i => (st.arrivals.getD (pos + i) (0, false)).1.toNat))) := by
  have hes := take_drop_eq_map st.arrivals (0, false) hl
  have hlen : ¬((List.range k).map (fun i => st.arrivals.getD (pos + i) (0, false))).length < k := by simp
  unfold sreadTail
  simp only [if_neg hk, hs, hes, if_neg hlen, List.map_map]
  refine ⟨fun hbad => ?_, fun hgood => ?_⟩
  · rw [if_pos]
    simpa using hbad
  · rw [if_neg]
    · rfl
    · simpa using hgood

/-- Elements of the scratchpad, none of which a range of the scoreboard stalls. -/
theorem sreadTail_scratch {s : State} (hw : w = s.toW) (hk : k ≠ 0) (hs : st.cfg.space = .scratch)
    (hin : ∀ i < k, InWindow s u (st.cfg.addr (pos + i)) (tyBits f.ty / 8) ∧
      s.dev.stalled c.x (spKeyOf s u (st.cfg.addr (pos + i))) (tyBits f.ty / 8) = false) :
    let key := fun i => spKeyOf s u (st.cfg.addr (pos + i))
    let n := tyBits f.ty / 8
    ((∃ i < k, ∃ p ∈ s.dev.poison, key i ≤ p ∧ p < key i + n) →
      sreadTail f w c u st sn pos k = { w with d := w.d.holdAt c .dataEcc 0 0 0 }) ∧
    ((∀ i < k, ∀ p ∈ s.dev.poison, p < key i ∨ key i + n ≤ p) → sreadTail f w c u st sn pos k =
      sreadSend f w c sn k ((List.range k).map (fun i => ofBytes ((List.range n).map (fun j => s.mem.read (key i + j)))))) := by
  subst hw
  intro key n
  obtain ⟨hkeys, hfree⟩ : s.toW.d.spKeys u st.cfg pos k n = (List.range k).map key ∧
    (s.toW.d.spKeys u st.cfg pos k n).any (fun q => s.toW.d.stalled c.x q n) = false := spKeys_free hin
  rw [hkeys, ← Bool.not_eq_true] at hfree
  unfold sreadTail
  simp only [if_neg hk, hs]
  rw [hkeys, if_neg hfree]
  have hecc : ((List.range k).map key).any (fun q => s.toW.spPoison q n) = true ↔ ∃ i < k, ∃ p ∈ s.dev.poison, key i ≤ p ∧ p < key i + n := by
    simp only [List.any_map, List.any_eq_true, List.mem_range, Function.comp_apply, spPoison_iff]
    rfl
  refine ⟨fun hbad => if_pos (hecc.2 hbad), fun hgood => ?_⟩
  rw [if_neg, List.map_map]
  · rfl
  · rw [hecc]
    rintro ⟨i, hi, p, hp, h1, h2⟩
    rcases hgood i hi p hp with h | h <;> omega

/-- Elements of memory, of pages none of which is suspended. -/
theorem sreadTail_global {ls : List (Nat × List Byte)} {w' : W} (hk : k ≠ 0) (hs : st.cfg.space = .global)
    (hl : ∀ i < k, ∀ q ∈ st.latches, q.1 = st.cfg.addr (pos + i) / 2 ^ 14 * 2 ^ 14 → q.2.2 = false)
    (hr : w.readLines u (w.d.rnumOf u) (((List.range k).map (fun i => st.cfg.addr (pos + i) / 32)).eraseDups) = (.ok ls, w')) :
    sreadTail f w c u st sn pos k = sreadSend f w' c sn k ((List.range k).map (fun i => ofBytes ((List.range (tyBits f.ty / 8)).map (fun j =>
      ((ls.find? (fun q => q.1 == (st.cfg.addr (pos + i) + j) / 32)).map (fun q => q.2.getD ((st.cfg.addr (pos + i) + j) % 32) 0#8)).getD 0#8)))) := by
  have hfree : ¬((List.range k).map (fun i => st.cfg.addr (pos + i))).any (fun a => st.latches.any (fun q => q.1 == pageOf a && q.2.2)) = true := by
    simp only [List.any_map, List.any_eq_true, List.mem_range, Function.comp_apply, Bool.and_eq_true, beq_iff_eq, not_exists, not_and,
      Bool.not_eq_true]
    exact hl
  have hlines : ((List.range k).map (fun i => st.cfg.addr (pos + i))).map lineOf = (List.range k).map (fun i => st.cfg.addr (pos + i) / 32) := by
    rw [List.map_map]
    rfl
  unfold sreadTail
  simp only [if_neg hk, hs, if_neg hfree, hlines, hr]
  rw [List.map_map]
  simp only [Function.comp_def, span, List.map_map]
  rfl

end

/-- A stream is known, as a test. -/
theorem streamKnown_iff (s : State) (c : Firing) (u : Thread) (k l : Nat) :
    StreamKnown s c u k l ↔ (s.dev.streamBusy c.x (streamKey c.x u k) || c.x.streamBelow c.code k l) = false := by
  rw [Bool.or_eq_false_iff, StreamKnown]

section
variable {f : FmtM} {s : State} {c : Firing} {u : Thread} (h : Fires f.pr s c) (hu : s.dev.thr c.x.thr = some u)
include h hu

/-- `sread` waits until its stream is known. -/
theorem exec_sread_unknown (hk : ¬StreamKnown s c u (f.offs.extractLsb' 0 5).toNat f.lsid.toNat) : exec (.sread f) s = .next s := by
  rw [streamKnown_iff, Bool.not_eq_false] at hk
  rw [exec, execSread, run_fireFill (i := .sread f) h hu]
  dsimp only
  rw [streamNum_eq, if_pos]
  · rfl
  · rw [Bool.or_assoc]
    exact Bool.or_eq_true_iff.2 (.inr hk)

/-- What `sread` of a known stream comes to. -/
theorem exec_sread (hk : StreamKnown s c u (f.offs.extractLsb' 0 5).toNat f.lsid.toNat) (hr : LoadReady s c u f.lsid.toNat) :
    let sn := streamKey c.x u (f.offs.extractLsb' 0 5).toNat
    let st := u.stream sn
    let pos := s.dev.streamPos c.x st sn f.lsid.toNat
    let w : W :=
      if st.isOpen = false then { s.toW with d := s.dev.emit c ⟨[(f.t0, .null)], 0#6⟩ }
      else if st.cfg.ty ≠ f.ty ∨ st.cfg.write = true then { s.toW with d := s.dev.holdAt c .alignment 0 0 0 }
      else sreadTail f s.toW c u st sn pos (min (512 / tyBits f.ty) (st.cfg.total - pos))
    exec (.sread f) s = .next { s with dev := w.d, mem := s.mem.writeAll w.ov.reverse } := by
  intro sn st pos w
  have hmay := (mayLoad_iff s c u f.lsid.toNat).2 hr
  rw [streamKnown_iff] at hk
  rw [exec, execSread, run_fireFill (i := .sread f) h hu]
  dsimp only
  rw [streamNum_eq, if_neg]
  · dsimp only [w]
    cases st.isOpen <;> rfl
  · have hcond : (!s.dev.mayLoad c u f.lsid.toNat || s.dev.streamBusy c.x sn ||
        c.x.streamBelow c.code (f.offs.extractLsb' 0 5).toNat f.lsid.toNat) = false := by
      rw [Bool.or_assoc, hk, hmay]
      rfl
    exact Bool.eq_false_iff.1 hcond

end

end Sys2Proof.Machine
end

section
/-!
PROOFS, 08 memory access: the stream instructions that act at the commit.
-/

namespace Sys2Proof.Machine
open Claims

/-! ### `swrite` and `sclose` (08 R240, R241) -/

section
variable {f : FmtM} {s : State} {c : Firing} {u : Thread} (h : Fires f.pr s c) (hu : s.dev.thr c.x.thr = some u)
include h hu

/-- They wait until their stream is known. -/
theorem exec_swrite_unknown (hk : ¬StreamKnown s c u (f.offs.extractLsb' 0 5).toNat f.lsid.toNat) :
    exec (.swrite f) s = .next s ∧ exec (.sclose f) s = .next s := by
  rw [streamKnown_iff, Bool.not_eq_false] at hk
  constructor
  · rw [exec, execSwrite, runR_fireStore (i := .swrite f) h hu]
    dsimp only
    rw [streamNum_eq, if_pos]
    · rfl
    · exact hk
  · rw [exec, execSclose, runR_fireStore (i := .sclose f) h hu]
    dsimp only
    rw [streamNum_eq, if_pos]
    · rfl
    · exact hk

/-- What `swrite` of a known stream comes to. -/
theorem exec_swrite (hk : StreamKnown s c u (f.offs.extractLsb' 0 5).toNat f.lsid.toNat) {sn : Nat} {st : Stream}
    (hsn : streamKey c.x u (f.offs.extractLsb' 0 5).toNat = sn) (hst : u.stream sn = st) :
    let pos := s.dev.streamPos c.x st sn f.lsid.toNat
    let n := tyBits f.ty / 8
    exec (.swrite f) s = .next { s with
      dev := if (st.isOpen && (st.cfg.ty != f.ty || !st.cfg.write)) = true then s.dev.holdAt c .alignment 0 1 0
      else if (st.isOpen && st.unresolved) = true then s.dev.holdAt c .pageUnresolved 0 1 0
      else if (st.isOpen && st.cfg.space == .scratch && (s.dev.spKeys u st.cfg pos (min (512 / tyBits f.ty) (st.cfg.total - pos)) n).any
        (fun q => s.dev.stalled c.x q n)) = true then s.dev
      else s.dev.fillStore c f.lsid.toNat (if st.isOpen = true then some (.swrite sn f.ty c.ops.va) else none) none {} } := by
  subst hsn hst
  intro pos n
  rw [streamKnown_iff, ← Bool.not_eq_true] at hk
  rw [exec, execSwrite, runR_fireStore (i := .swrite f) h hu]
  dsimp only
  rw [streamNum_eq, if_neg]
  · simp only [apply_ite W.d]
    rfl
  · exact hk

/-- Another type or direction of an OPEN stream is ALIGNMENT, and a burst that failed is PAGE_UNRESOLVED. -/
theorem exec_swrite_fault (hk : StreamKnown s c u (f.offs.extractLsb' 0 5).toNat f.lsid.toNat) {st : Stream}
    (hst : u.stream (streamKey c.x u (f.offs.extractLsb' 0 5).toNat) = st) (hopen : st.isOpen = true) :
    (st.cfg.ty ≠ f.ty ∨ st.cfg.write = false → exec (.swrite f) s = .next { s with dev := s.dev.holdAt c .alignment 0 1 0 }) ∧
    (st.cfg.ty = f.ty → st.cfg.write = true → st.unresolved = true →
      exec (.swrite f) s = .next { s with dev := s.dev.holdAt c .pageUnresolved 0 1 0 }) := by
  have hexec := exec_swrite h hu hk rfl hst
  dsimp only at hexec
  refine ⟨fun hbad => ?_, fun hty hwr hres => ?_⟩
  · rw [hexec, if_pos]
    simpa [hopen] using hbad
  · rw [hexec, if_neg, if_pos]
    · simp [hopen, hres]
    · simp [hty, hwr]

/-- A write of a stream stands for the commit; on a CLOSED one it performs nothing. -/
theorem exec_swrite_ok (hk : StreamKnown s c u (f.offs.extractLsb' 0 5).toNat f.lsid.toNat) {sn : Nat} {st : Stream}
    (hsn : streamKey c.x u (f.offs.extractLsb' 0 5).toNat = sn) (hst : u.stream sn = st) (hl : f.lsid.toNat ∉ c.x.lsids) :
    (st.isOpen = false → exec (.swrite f) s = .next (stored s s.dev c f.lsid.toNat [] [] [])) ∧
    let pos := s.dev.streamPos c.x st sn f.lsid.toNat
    (st.isOpen = true → st.cfg.ty = f.ty → st.cfg.write = true → st.unresolved = false →
      (st.cfg.space = .scratch → ∀ i < min (512 / tyBits f.ty) (st.cfg.total - pos), InWindow s u (st.cfg.addr (pos + i)) (tyBits f.ty / 8) ∧
        s.dev.stalled c.x (spKeyOf s u (st.cfg.addr (pos + i))) (tyBits f.ty / 8) = false) →
      exec (.swrite f) s = .next (stored s s.dev c f.lsid.toNat [.swrite sn f.ty c.ops.va] [] [])) := by
  have hexec := exec_swrite h hu hk hsn hst
  dsimp only at hexec
  refine ⟨fun hopen => ?_, fun hopen hty hwr hres hnear => ?_⟩
  · simp only [hopen, Bool.false_and, Bool.false_eq_true, if_false] at hexec
    exact hexec.trans (congrArg _ (next_fillEff s none [] hl))
  · have hfree : (st.isOpen && st.cfg.space == .scratch && (s.dev.spKeys u st.cfg (s.dev.streamPos c.x st sn f.lsid.toNat)
        (min (512 / tyBits f.ty) (st.cfg.total - s.dev.streamPos c.x st sn f.lsid.toNat)) (tyBits f.ty / 8)).any
        (fun q => s.dev.stalled c.x q (tyBits f.ty / 8))) = false := by
      by_cases hspace : st.cfg.space = .scratch
      · rw [(spKeys_free (hnear hspace)).2, Bool.and_false]
      · rw [beq_false_of_ne hspace, Bool.and_false, Bool.false_and]
    rw [hexec, if_neg, if_neg, if_neg (Bool.eq_false_iff.1 hfree), if_pos hopen]
    · exact congrArg _ (next_fillEff s (some _) [] hl)
    · simp [hres]
    · simp [hty, hwr]

/-- What `sclose` of a known stream comes to. -/
theorem exec_sclose (hk : StreamKnown s c u (f.offs.extractLsb' 0 5).toNat f.lsid.toNat) {sn : Nat} {st : Stream}
    (hsn : streamKey c.x u (f.offs.extractLsb' 0 5).toNat = sn) (hst : u.stream sn = st) :
    (st.isOpen = true → st.unresolved = true → exec (.sclose f) s = .next { s with dev := s.dev.holdAt c .pageUnresolved 0 1 0 }) ∧
    ((st.isOpen = true → st.unresolved = false) → f.lsid.toNat ∉ c.x.lsids →
      exec (.sclose f) s = .next (stored s s.dev c f.lsid.toNat [.sclose sn] [] [])) := by
  have hexec : exec (.sclose f) s = .next { s with
      dev := if (st.isOpen && st.unresolved) = true then s.dev.holdAt c .pageUnresolved 0 1 0
      else s.dev.fillStore c f.lsid.toNat (some (.sclose sn)) none {} } := by
    subst hsn hst
    rw [streamKnown_iff, ← Bool.not_eq_true] at hk
    rw [exec, execSclose, runR_fireStore (i := .sclose f) h hu]
    dsimp only
    rw [streamNum_eq, if_neg]
    · simp only [apply_ite W.d]
      rfl
    · exact hk
  refine ⟨fun hopen hres => ?_, fun hgood hl => ?_⟩
  · rw [hexec, if_pos (by simp [hopen, hres])]
  · rw [hexec, if_neg (by simpa using hgood)]
    exact congrArg _ (next_fillEff s (some _) [] hl)

end

/-! ### `scfg` (08 R236, R237) -/

theorem vlane_eq_elem (v : Vec) (k : Nat) : vlane v k = elem 64 v k := rfl

/-- The halves of an n64 lane are n32 lanes. -/
theorem bits_elem_low (v : Vec) (k : Nat) : bits (elem 64 v k) 31 0 = (elem 32 v (2 * k)).toNat := by
  have hlow : (elem 64 v k).extractLsb' 0 32 = elem 32 v (2 * k) := by
    refine BitVec.eq_of_getLsbD_eq fun i hi => ?_
    have hpos : 64 * k + (0 + i) = 32 * (2 * k) + i := by ring
    have h64 : 0 + i < 64 := by omega
    simp only [elem, BitVec.getLsbD_extractLsb', hpos, hi, h64, decide_true, Bool.true_and]
  rw [bits_eq_toNat]
  exact congrArg BitVec.toNat hlow
theorem bits_elem_high (v : Vec) (k : Nat) : bits (elem 64 v k) 63 32 = (elem 32 v (2 * k + 1)).toNat := by
  have hhigh : (elem 64 v k).extractLsb' 32 32 = elem 32 v (2 * k + 1) := by
    refine BitVec.eq_of_getLsbD_eq fun i hi => ?_
    have hpos : 64 * k + (32 + i) = 32 * (2 * k + 1) + i := by ring
    have h64 : 32 + i < 64 := by omega
    simp only [elem, BitVec.getLsbD_extractLsb', hpos, hi, h64, decide_true, Bool.true_and]
  rw [bits_eq_toNat]
  exact congrArg BitVec.toNat hhigh

/-- The configuration that a descriptor gives. -/
theorem streamCfg_eq (f : FmtM) (v : Vec) : streamCfg f v = described f v := by
  have hw : (bits f.offs 5 5 == 1) = f.offs.getLsbD 5 := by
    rw [Bool.eq_iff_iff, beq_iff_eq, bits_eq_one]
  simp only [streamCfg, described, hw, bits_eq_toNat f.offs 7 6, vlane_eq_elem, bits_elem_low, bits_elem_high]

theorem toNat_eq_zero_iff {n : Nat} (x : BitVec n) : x.toNat = 0 ↔ x = 0#n := by
  rw [← BitVec.toNat_inj, BitVec.toNat_ofNat, Nat.zero_mod]
theorem toInt_eq_zero_iff {n : Nat} (x : BitVec n) : x.toInt = 0 ↔ x = 0#n := by
  rw [← BitVec.toInt_inj, BitVec.toInt_zero]

/-- A descriptor that is valid by itself. -/
theorem invalid_iff (f : FmtM) (v : Vec) : (described f v).invalid v = false ↔ ValidStream f v := by
  have h5 : bits (elem 64 v 2) 63 32 = (elem 32 v 5).toNat := bits_elem_high v 2
  have hbase : (described f v).base = (elem 64 v 0).toNat := rfl
  have h0 : (described f v).stride0 = (elem 64 v 3).toInt := rfl
  have h1 : (described f v).stride1 = (elem 64 v 4).toInt := rfl
  have h2 : (described f v).stride2 = (elem 64 v 5).toInt := rfl
  unfold StreamCfg.invalid ValidStream
  by_cases hp : (described f v).space = .port
  · simp only [h5, hp, vlane_eq_elem, hbase, h0, h1, h2, Bool.or_eq_false_iff, beq_eq_false_iff_ne, bne_eq_false_iff_eq, toNat_eq_zero_iff,
      toInt_eq_zero_iff, if_true, true_imp_iff, ne_eq, not_true, false_imp_iff, and_true, and_assoc]
  · have hn : ((elBytes (described f v).ty : Nat) : Int) = (tyBits f.ty / 8 : Nat) := rfl
    simp only [h5, hp, vlane_eq_elem, hn, Bool.or_eq_false_iff, beq_eq_false_iff_ne, bne_eq_false_iff_eq, toNat_eq_zero_iff, if_false,
      false_imp_iff, true_and, ne_eq, not_false_iff, true_imp_iff, List.forall_mem_cons, List.not_mem_nil, implies_true, and_true, and_assoc]

theorem streamKey_mod (x : Inst) (u : Thread) (k : Nat) : streamKey x u k % 32 = k % 32 := by
  unfold streamKey
  split
  · rw [Nat.mul_add_mod]
  · rfl

/-- A stream that a thread of the grid has open, or is to have. -/
theorem taken_iff (s : State) (x : Inst) (u : Thread) (k : Nat) :
    (s.dev.streamTaken (u.streamAt (streamKey x u k)) (streamKey x u k) || s.dev.scfgPending (u.streamAt (streamKey x u k)) (streamKey x u k)) = true ↔
      Taken s (u.streamAt (streamKey x u k)) k := by
  rw [Bool.or_eq_true]
  refine or_congr ?_ ?_
  · simp only [Dev.streamTaken, List.any_eq_true, Bool.and_eq_true, Bool.or_eq_true, beq_iff_eq, streamKey_mod, and_assoc]
  · simp only [Dev.scfgPending, List.any_eq_true]
    refine exists_congr fun p => and_congr_right fun _ => ⟨?_, ?_⟩
    · rintro ⟨e, he, hm⟩
      split at hm
      next n d fr t h1 h2 =>
        rw [Bool.and_eq_true, beq_iff_eq, beq_iff_eq, streamKey_mod] at hm
        exact ⟨t, h2, e, he, n, d, fr, h1, hm⟩
      next => cases hm
    · rintro ⟨t, ht, e, he, n, d, fr, h1, hn, hg⟩
      refine ⟨e, he, ?_⟩
      simp only [h1, ht, hn, hg, streamKey_mod, beq_self_eq_true, Bool.and_self]

/-- A status sent by `scfg`, with the configuration that it leaves for the commit. -/
def scfgStatus (f : FmtM) (c : Firing) (w : W) (m : Nat) (eff : Option Eff) : W :=
  { w with d := w.d.fillStore c f.lsid.toNat eff none { toks := [(f.t0, .val (splat64 (BitVec.ofNat 64 m)))] } }

/-- The answer of `scfg` to a descriptor that nothing but another user of the stream stands against. -/
def scfgOpens (f : FmtM) (c : Firing) (w : W) (sn : Nat) (taken : Bool) : W :=
  if taken then scfgStatus f c w 2 none else scfgStatus f c w 0 (some (.scfg sn (described f c.ops.va) []))

/-- What `scfg` comes to with a descriptor that is valid by itself. -/
def scfgTail (f : FmtM) (w : W) (c : Firing) (u : Thread) (sn : Nat) (taken : Bool) : W :=
  let cfg := described f c.ops.va
  match cfg.space, cfg.spans with
  | .port, _ => scfgOpens f c w sn taken
  | .scratch, some sp =>
    let e := spanEnds sp
    if e.1 < 0 ∨ (w.d.spAddr u e.1.toNat (e.2 - e.1 + 1).toNat).isNone then scfgStatus f c w 3 none
    else scfgOpens f c w sn taken
  | .scratch, none => scfgStatus f c w 3 none
  | _, none => if taken then scfgStatus f c w 2 none else scfgStatus f c w 1 none
  | _, some sp =>
    if taken then scfgStatus f c w 2 none
    else if (spanEnds sp).1 < 0 then { w with d := w.d.holdAt c .alignment cfg.base 0 0 }
    else
      match pagesOf sp with
      | none => scfgStatus f c w 1 none
      | some ps =>
        if Config.streamPages < ps.length then scfgStatus f c w 1 none
        else if cfg.write && sp.any (fun p => w.d.wprotected p.1.toNat (p.2 - p.1 + 1).toNat) then
          { w with d := w.d.holdAt c .protection cfg.base 1 0 }
        else
          match w.latch c u (if cfg.write then rW else rR) (if cfg.write then 1 else 0) ps [] with
          | .error d => { w with d := d }
          | .ok (fr, w) => scfgStatus f c w 0 (some (.scfg sn cfg fr))

section
variable {f : FmtM} {w : W} {c : Firing} {u : Thread} {sn : Nat} {taken : Bool}

theorem scfgTail_port (hs : (described f c.ops.va).space = .port) : scfgTail f w c u sn taken = scfgOpens f c w sn taken := by
  unfold scfgTail
  simp only [hs]

/-- A range outside the window of the scratchpad is status 3, which goes before status 2. -/
theorem scfgTail_scratch (hs : (described f c.ops.va).space = .scratch) :
    ((described f c.ops.va).spans = none → scfgTail f w c u sn taken = scfgStatus f c w 3 none) ∧
    ∀ sp, (described f c.ops.va).spans = some sp →
      let lo := (spanEnds sp).1
      let place := w.d.spAddr u lo.toNat ((spanEnds sp).2 - lo + 1).toNat
      (0 ≤ lo → place ≠ none → scfgTail f w c u sn taken = scfgOpens f c w sn taken) ∧
      (lo < 0 ∨ place = none → scfgTail f w c u sn taken = scfgStatus f c w 3 none) := by
  unfold scfgTail
  simp only [hs]
  refine ⟨fun hn => by simp only [hn], fun sp hsp => ?_⟩
  simp only [hsp, Option.isNone_iff_eq_none]
  exact ⟨fun h0 hin => if_neg (not_or.2 ⟨not_lt.2 h0, hin⟩), fun hout => if_pos hout⟩

/-- A stream that another has is status 2, which goes before status 1. -/
theorem scfgTail_global_taken (hs : (described f c.ops.va).space = .global) : scfgTail f w c u sn true = scfgStatus f c w 2 none := by
  unfold scfgTail
  simp only [hs]
  cases (described f c.ops.va).spans <;> rfl

/-- More than 1,024 pages are status 1. -/
theorem scfgTail_global_many (hs : (described f c.ops.va).space = .global) :
    ((described f c.ops.va).spans = none → scfgTail f w c u sn false = scfgStatus f c w 1 none) ∧
    ∀ sp, (described f c.ops.va).spans = some sp → 0 ≤ (spanEnds sp).1 → (∀ ps, pagesOf sp = some ps → 1024 < ps.length) →
      scfgTail f w c u sn false = scfgStatus f c w 1 none := by
  unfold scfgTail
  simp only [hs]
  refine ⟨fun hn => by simp only [hn]; rfl, fun sp hsp h0 hps => ?_⟩
  simp only [hsp]
  rw [if_neg Bool.false_ne_true, if_neg (not_lt.2 h0)]
  cases hp : pagesOf sp with
  | none => rfl
  | some ps => exact if_pos (hps ps hp)

/-- The pages that the stream touches are latched. -/
theorem scfgTail_global {sp : List Span} {ps : List Nat} {fr : List (Nat × Nat)} {w' : W} (hs : (described f c.ops.va).space = .global)
    (hsp : (described f c.ops.va).spans = some sp) (h0 : 0 ≤ (spanEnds sp).1) (hps : pagesOf sp = some ps) (hlen : ps.length ≤ 1024)
    (hw : (described f c.ops.va).write = true → ∀ p ∈ sp, w.d.wprotected p.1.toNat (p.2 - p.1 + 1).toNat = false)
    (hl : w.latch c u (if (described f c.ops.va).write then rW else rR) (if (described f c.ops.va).write then 1 else 0) ps [] = .ok (fr, w')) :
    scfgTail f w c u sn false = scfgStatus f c w' 0 (some (.scfg sn (described f c.ops.va) fr)) := by
  have hprot : ¬((described f c.ops.va).write && sp.any (fun p => w.d.wprotected p.1.toNat (p.2 - p.1 + 1).toNat)) = true := by
    rw [Bool.and_eq_true, List.any_eq_true]
    rintro ⟨hwr, p, hp, hbad⟩
    exact absurd hbad (Bool.eq_false_iff.1 (hw hwr p hp))
  have hlen' : ¬Config.streamPages < ps.length := Nat.not_lt.2 hlen
  unfold scfgTail
  simp only [hs, hsp]
  rw [if_neg Bool.false_ne_true, if_neg (not_lt.2 h0)]
  simp only [hps]
  rw [if_neg hlen', if_neg hprot]
  simp only [hl]

end

section
variable {f : FmtM} {s : State} {c : Firing} {u : Thread} (h : Fires f.pr s c) (hu : s.dev.thr c.x.thr = some u)
include h hu

theorem exec_scfg : exec (.scfg f) s = .next { s with
    dev :=
      let sn := streamKey c.x u (f.offs.extractLsb' 0 5).toNat
      if (described f c.ops.va).invalid c.ops.va = true then (scfgStatus f c s.toW 3 none).d
      else (scfgTail f s.toW c u sn (s.dev.streamTaken (u.streamAt sn) sn || s.dev.scfgPending (u.streamAt sn) sn)).d } := by
  rw [exec, execScfg, runR_fireStore (i := .scfg f) h hu]
  dsimp only
  rw [streamNum_eq, streamCfg_eq, apply_ite W.d]
  rfl

omit h hu in
theorem next_scfgStatus (w : W) (m : Nat) (eff : Option Eff) (hl : f.lsid.toNat ∉ c.x.lsids) :
    (.next { s with dev := (scfgStatus f c w m eff).d } : Host.Outcome State Fault Refusal) =
      .next (stored s w.d c f.lsid.toNat eff.toList [] [(f.t0, .val (everyLane (BitVec.ofNat 64 m)))]) :=
  congrArg _ (next_fillEff s eff _ hl)

/-- A descriptor that is not valid by itself is status 3. -/
theorem exec_scfg_invalid (hv : ¬ValidStream f c.ops.va) :
    exec (.scfg f) s = .next { s with dev := (scfgStatus f c s.toW 3 none).d } := by
  rw [exec_scfg h hu]
  dsimp only
  rw [if_pos (by rwa [← Bool.not_eq_false, invalid_iff])]

/-- With one that is, the answer is that of the tail. -/
theorem exec_scfg_valid (hv : ValidStream f c.ops.va) (taken : Bool)
    (ht : taken = true ↔ Taken s (u.streamAt (streamKey c.x u (f.offs.extractLsb' 0 5).toNat)) (f.offs.extractLsb' 0 5).toNat) :
    exec (.scfg f) s = .next { s with dev := (scfgTail f s.toW c u (streamKey c.x u (f.offs.extractLsb' 0 5).toNat) taken).d } := by
  rw [← taken_iff, ← Bool.eq_iff_iff] at ht
  rw [exec_scfg h hu, ht]
  dsimp only
  rw [if_neg (by rw [Bool.not_eq_true, invalid_iff]; exact hv)]

end

/-! ### `ldfwd` (08 R243) -/

theorem Dev.Moves.group {d d' : Dev} (h : d.Moves d') (c g : Nat) : d'.group c g = d.group c g := by
  simp only [Dev.group, h.groups]
theorem Dev.Moves.parcel {d d' : Dev} (h : d.Moves d') (c : Nat) : (d'.ctx c).parcel = (d.ctx c).parcel := by
  obtain ⟨_, _, _, _, _, hc⟩ := h.ctx c
  rw [hc]
  rfl

/-- A destination that is valid, where bytes have been moved before. -/
theorem badDest_iff {s : State} {w : W} (hw : s.toW.Moves w) (u : Thread) (b : Word) : w.d.badDest u b = false ↔ ValidDest s u b := by
  have hkind : ∀ x : BitVec 4, (x.toNat = 1 ↔ x = 1#4) ∧ (x.toNat = 2 ↔ x = 2#4) := by decide
  obtain ⟨h1, h2⟩ := hkind (b.extractLsb' 60 4)
  have hgroup : w.d.group u.ctx u.gid = s.dev.group u.ctx u.gid := hw.dev.group ..
  have hparcel : (w.d.ctx u.ctx).parcel = (s.dev.ctx u.ctx).parcel := hw.dev.parcel _
  have hresv : (bits b 59 41 != 0 || bits b 31 8 != 0) = false ↔ b.extractLsb' 41 19 = 0#19 ∧ b.extractLsb' 8 24 = 0#24 := by
    simp only [bits_eq_toNat, Bool.or_eq_false_iff, bne_eq_false_iff_eq, toNat_eq_zero_iff]
  have hthreads : ∀ g : Group, g.nthreads = ((elem 64 g.rcd 1).extractLsb' 0 7).toNat := fun g => bits_eq_toNat ..
  have hnum : bits b 5 0 = (b.extractLsb' 0 6).toNat := bits_eq_toNat ..
  have hgrid : bits b 40 32 = (b.extractLsb' 32 9).toNat := bits_eq_toNat ..
  have hk : bits b 63 60 = (b.extractLsb' 60 4).toNat := bits_eq_toNat ..
  unfold Dev.badDest ValidDest
  simp only [hk, hgroup, hparcel, hnum, hgrid, hthreads]
  by_cases hk1 : (b.extractLsb' 60 4).toNat = 1
  · rw [if_pos hk1, Bool.or_eq_false_iff, hresv, and_assoc]
    simp only [h1.1 hk1, true_and]
    cases s.dev.group u.ctx u.gid <;> simp
  · by_cases hk2 : (b.extractLsb' 60 4).toNat = 2
    · have hne : b.extractLsb' 60 4 ≠ 1#4 := mt h1.2 hk1
      rw [if_neg hk1, if_pos hk2, Bool.or_eq_false_iff, hresv, and_assoc]
      simp [h2.1 hk2]
    · have hne1 : b.extractLsb' 60 4 ≠ 1#4 := mt h1.2 hk1
      have hne2 : b.extractLsb' 60 4 ≠ 2#4 := mt h2.2 hk2
      rw [if_neg hk1, if_neg hk2]
      simp [hne1, hne2]

/-- Pages that are there, or whose lines an L1 holds. -/
theorem presence_ok {w : W} {c : Firing} {u : Thread} {a n write : Nat} (h1 : ∃ k w0, (w.probe u a).1 = .ok k w0)
    (h2 : ∃ k w0, ((w.probe u a).2.probe u (a + n - 1)).1 = .ok k w0) :
    w.presence c u a n write = .ok ((w.probe u a).2.probe u (a + n - 1)).2 := by
  obtain ⟨k, w0, h1⟩ := h1
  unfold W.presence
  generalize w.probe u a = p at h1 h2 ⊢
  obtain ⟨_, w1⟩ := p
  cases h1
  dsimp only at h2 ⊢
  obtain ⟨k, w0, h2⟩ := h2
  generalize w1.probe u (a + n - 1) = q at h2 ⊢
  obtain ⟨_, w2⟩ := q
  cases h2
  rfl

section
variable {f : FmtM} {s : State} {c : Firing} {u : Thread} (h : Fires f.pr s c) (hu : s.dev.thr c.x.thr = some u)
include h hu

/-- `ldfwd` of an address that passes its check. -/
theorem exec_ldfwd {w : W} (hc : s.toW.check u rR (addrOf f c) 64 1 = (.ok, w)) :
    (¬ValidDest s u c.ops.b0 → exec (.ldfwd f) s = .next { s with dev := w.d.holdAt c .protection (addrOf f c) 0 0 }) ∧
    ∀ w', ValidDest s u c.ops.b0 → w.presence c u (addrOf f c) 64 0 = .ok w' → exec (.ldfwd f) s =
      .next { s with dev := w'.d.fillStore c f.lsid.toNat (some (.ldfwd (addrOf f c) c.ops.b0)) none {} } := by
  have hw : s.toW.Moves w := by
    have := W.Moves.check s.toW u rR (addrOf f c) 64 1
    rwa [hc] at this
  rw [exec, execLdfwd, runR_fireStore (i := .ldfwd f) h hu]
  dsimp only
  rw [memAddr_eq]
  simp only [hc]
  refine ⟨fun hv => ?_, fun w' hv hp => ?_⟩
  · rw [← badDest_iff hw, Bool.not_eq_false] at hv
    rw [if_pos hv]
  · rw [if_neg (Bool.eq_false_iff.1 ((badDest_iff hw u _).2 hv))]
    simp only [hp]

end

end Sys2Proof.Machine
end

section
/-!
PROOFS, 08 memory access: streams and forwarded loads, each by what its firing comes to.
-/

namespace Sys2Proof.Machine
open Claims

/-- A fault that the checks of an instruction find is pending, and memory is as before. -/
theorem ends_holdAt {s : State} {c : Firing} {w : W} {i : Instr} {q : Cause} {a b : Nat} (hc : s.dev.firing = some c) (hp : c.x.pend = none)
    (hw : s.toW.Moves w) (h : exec i s = .next { s with dev := w.d.holdAt c q a b 0 }) :
    ∃ t, exec i s = .next t ∧ t.mem = s.mem ∧ Pending t c.iid (pendAt c q a b 0) :=
  ⟨_, h, rfl, pending_holdAt hc hp hw _ _ _ _⟩

/-- The elements sent stand in the lanes of the token. -/
theorem sends_sreadSend {f : FmtM} {s : State} {w : W} {c : Firing} {sn k : Nat} {g : Nat → Nat} (hty : f.ty.toNat ≤ 12)
    (h : exec (.sread f) s = .next { s with
      dev := (sreadSend f w c sn k ((List.range k).map g)).d
      mem := s.mem.writeAll (sreadSend f w c sn k ((List.range k).map g)).ov.reverse }) :
    ∃ v : Vec, exec (.sread f) s = .next (after s w c [(f.lsid.toNat, c.idx, .sread sn k)] [(f.t0, .val v)]) ∧
      ∀ i < 512 / tyBits f.ty, elem (tyBits f.ty) v i = if i < k then BitVec.ofNat _ (g i) else 0#_ :=
  ⟨_, h.trans (congrArg _ (next_after s w c _ _)), fun _ hi => elem_ofLanes_range hty k g hi⟩

/-- Settles O7: `sread` by the space of its stream, `swrite` and `sclose` by its state, `scfg` by its descriptor, and `ldfwd` by its
checks. -/
theorem streams : Obligations.Streams := by
  unfold Obligations.Streams
  intro f s c u h hu num sn l n st lanes pos k null status sends at_ ends near
  have hrefl : s.toW.Moves s.toW := .refl _
  refine ⟨fun hk => ⟨exec_sread_unknown h hu hk, exec_swrite_unknown h hu hk⟩, fun hk hr hty => ?_, fun hk => ?_, fun hl => ?_, fun w hc => ?_⟩
  · have hexec := exec_sread h hu hk hr
    refine ⟨fun hopen => ?_, fun hopen hbad hp => ?_, fun hopen hsty hwr => ?_⟩
    · rw [hexec, if_pos hopen]
      exact congrArg _ (next_after_nil s s.toW c _)
    · refine ends_holdAt h.1 hp hrefl (hexec.trans ?_)
      rw [if_neg (by rw [hopen]; decide), if_pos hbad]
      rfl
    · have htail : exec (.sread f) s = .next { s with
          dev := (sreadTail f s.toW c u st sn pos k).d, mem := s.mem.writeAll (sreadTail f s.toW c u st sn pos k).ov.reverse } := by
        rw [hexec, if_neg (by rw [hopen]; decide), if_neg (not_or.2 ⟨not_not.2 hsty, Bool.eq_false_iff.1 hwr⟩)]
      refine ⟨fun h0 => ?_, fun h0 hs hlen => ?_, fun h0 hs hlen hgood => ?_, fun h0 hs hlen hbad hp => ?_,
        fun h0 hs hnear => ⟨fun hgood => ?_, fun hbad hp => ?_⟩, fun ls w h0 hs hlat hread => ?_⟩
      · rw [htail, sreadTail, if_pos h0]
        exact congrArg _ (next_after_nil s s.toW c _)
      · rw [htail, sreadTail_port_wait h0 hs hlen]
        rfl
      · rw [(sreadTail_port h0 hs hlen).2 hgood] at htail
        exact sends_sreadSend hty htail
      · rw [(sreadTail_port h0 hs hlen).1 hbad] at htail
        exact ends_holdAt h.1 hp hrefl htail
      · rw [(sreadTail_scratch rfl h0 hs hnear).2 hgood] at htail
        exact sends_sreadSend hty htail
      · rw [(sreadTail_scratch rfl h0 hs hnear).1 hbad] at htail
        exact ends_holdAt h.1 hp hrefl htail
      · rw [sreadTail_global h0 hs hlat hread] at htail
        exact sends_sreadSend hty htail
  · refine ⟨fun hl hopen hsty hwr hres _ hnear => (exec_swrite_ok h hu hk rfl rfl hl).2 hopen hsty hwr hres hnear,
      fun hl hopen => (exec_swrite_ok h hu hk rfl rfl hl).1 hopen,
      fun hopen hbad hp => ends_holdAt h.1 hp hrefl ((exec_swrite_fault h hu hk rfl hopen).1 hbad),
      fun hopen hsty hwr hres hp => ends_holdAt h.1 hp hrefl ((exec_swrite_fault h hu hk rfl hopen).2 hsty hwr hres),
      fun hopen hres hp => ends_holdAt h.1 hp hrefl ((exec_sclose h hu hk rfl rfl).1 hopen hres),
      fun hl hgood => (exec_sclose h hu hk rfl rfl).2 hgood hl⟩
  · have hst : ∀ w m eff, exec (.scfg f) s = .next { s with dev := (scfgStatus f c w m eff).d } →
        exec (.scfg f) s = .next (status w m eff.toList) := fun w m eff he => he.trans (next_scfgStatus w m eff hl)
    refine ⟨fun hv => hst _ _ none (exec_scfg_invalid h hu hv), fun hv => ?_⟩
    intro d taken opens
    have htail : ∀ b w m eff, (b = true ↔ taken) → scfgTail f s.toW c u sn b = scfgStatus f c w m eff →
        exec (.scfg f) s = .next (status w m eff.toList) := fun b w m eff hb he =>
      hst _ _ _ ((exec_scfg_valid h hu hv b hb).trans (by rw [he]))
    have hyes : taken → (true = true ↔ taken) := fun ht => iff_of_true rfl ht
    have hno : ¬taken → (false = true ↔ taken) := fun ht => iff_of_false Bool.false_ne_true ht
    have hopens : (∀ b, scfgTail f s.toW c u sn b = scfgOpens f c s.toW sn b) → opens := fun he =>
      ⟨fun ht => htail true _ _ none (hyes ht) (he true), fun ht => htail false _ _ (some _) (hno ht) (he false)⟩
    have hbad : (∀ b, scfgTail f s.toW c u sn b = scfgStatus f c s.toW 3 none) → exec (.scfg f) s = .next (status s.toW 3 []) := fun he => by
      by_cases ht : taken
      · exact htail true _ _ none (hyes ht) (he true)
      · exact htail false _ _ none (hno ht) (he false)
    refine ⟨fun hs => hopens fun _ => scfgTail_port hs, fun hs hsp => hbad fun _ => (scfgTail_scratch hs).1 hsp,
      fun sp hs hsp => ⟨fun h0 hin => ?_, fun hout => ?_⟩,
      fun hs => ⟨fun ht => htail true _ _ none (hyes ht) (scfgTail_global_taken hs),
        fun ht hsp => htail false _ _ none (hno ht) ((scfgTail_global_many hs).1 hsp),
        fun sp ht hsp h0 => ⟨fun hps => ?_, fun ps hps => ⟨fun hlen => ?_,
          fun fr w hlen hw hlatch => htail false _ _ (some _) (hno ht) (scfgTail_global hs hsp h0 hps hlen hw hlatch)⟩⟩⟩⟩
    · refine hopens fun _ => ((scfgTail_scratch hs).2 sp hsp).1 h0 ?_
      rw [show s.toW.d.spAddr u _ _ = _ from spAddr_of_inWindow hin]
      exact Option.some_ne_none _
    · exact hbad fun _ => ((scfgTail_scratch hs).2 sp hsp).2 (hout.imp_right spAddr_eq_none)
    · exact htail false _ _ none (hno ht) ((scfgTail_global_many hs).2 sp hsp h0 fun ps hsome => by rw [hps] at hsome; cases hsome)
    · refine htail false _ _ none (hno ht) ((scfgTail_global_many hs).2 sp hsp h0 fun ps' hsome => ?_)
      rw [hps] at hsome
      exact Option.some.inj hsome ▸ hlen
  · have hw : s.toW.Moves w := by
      have := W.Moves.check s.toW u rR (addrOf f c) 64 1
      rwa [hc] at this
    obtain ⟨hbad, hgood⟩ := exec_ldfwd h hu hc
    refine ⟨fun hv hp => ends_holdAt h.1 hp hw (hbad hv), fun w' hv hl hw' h1 h2 => ?_⟩
    rw [← hw'] at h2
    rw [hgood _ hv (presence_ok h1 h2), ← hw']
    exact congrArg _ (next_fillEff s (some _) [] hl)

end Sys2Proof.Machine
end

section
/-!
PROOFS, 08 memory access: a copy from a window that ends where the scratchpad of its grid ends.
-/

namespace Sys2Proof.Machine
open Claims

/-! `Engines` asks that a copy from the scratchpad stops at the key of the first byte past the window, that byte taken modulo the 2^21
bytes of a scratchpad; the engine's bound stands past the window's *last* byte. The two differ where window base and `.scratch` add up
to 2^21 or more: the asked bound then lies at or before the window. The statement ranges over such windows. -/

/-- A kernel whose `.scratch` is a whole scratchpad. -/
def wideKernel : Kernel := { scratch := 2 ^ 21 }

/-- A group that runs it, its window at the start of the scratchpad. -/
def wideGroup : Group :=
  { ctx := 0, gid := 0, st := .running, rcd := 0#512, queue := none, qhandle := 0#64, order := 0, rev := 0, since := 0, level := 0,
    threads := [1], live := 1 }

/-- Its thread, on slot 0 of grid 0. -/
def wideThread : Thread :=
  { ctx := 0, gid := 0, tnum := 0, st := .run, first := 0, width := 1, slots := [(0, 0)], regCnt := 0, next := none }

/-- The descriptor of a copy of the first 64 bytes of the window to global memory. -/
def fromWindow : Vec := vecOf [4096#64, 0#64, 64#64, 0#64, 0#64, 0#64, 4#64, 0#64]

def copyBlock : Block :=
  { hdw0 := 0#64, hdw1 := 0#64, reads := [], writes := [], exits := [], w240 := 0#64, w248 := 0#64, words := [1#64], memChunks := 1 }

/-- The instance whose slot 0 is about to fire with the descriptor. -/
def copyInst : Inst :=
  { thr := 1, grid := 0, st := .firing, seq := 1, blk := 0, code := some copyBlock, operands := [(0, 0, .val fromWindow)] }

def wideWindow : State :=
  { State.reset with
    dev := { Dev.reset with
      focus := some (2, 0)
      ctxs := [(0, { kernels := [(0, wideKernel)] })]
      threads := [(1, wideThread)]
      groups := [wideGroup]
      insts := [(2, copyInst)] } }

def copyFiring : Firing := { iid := 2, idx := 0, x := copyInst, code := copyBlock, ops := copyInst.opnds 0 }

/-- `acopy` of global scope, LSID 0. -/
def copyWord : FmtM := { stg := 0#3, pr := 0#2, ty := 0#4, lsid := 0#5, scope := 0#3, t0 := 0#12, offs := 0#27 }

theorem wideWindow_fires : Fires 0#2 wideWindow copyFiring := by
  refine ⟨?_, rfl, by decide +kernel⟩
  decide +kernel

/-- The bound of the copy that instance 2 keeps for its commit. -/
def keptBound : Host.Outcome State Fault Refusal → Option Nat
  | .next t => (t.dev.inst 2).bind (fun x => (x.effs.filterMap (fun e => effCopy e.2.2)).head?.map CopyDesc.slim)
  | _ => none

theorem wideWindow_keptBound : keptBound (exec (.acopy copyWord) wideWindow) = some (2 ^ 54 + 2 ^ 21) := by
  decide +kernel

theorem fromWindow_valid : ValidCopy wideWindow wideThread .straight copyWord fromWindow := by
  unfold ValidCopy
  decide +kernel

/-- Refutes O8: of a copy from a window at 0 with a `.scratch` of 2^21 bytes, the engine's bound stands at the end of the scratchpad of
grid 0, where the statement asks for the key of byte 0. -/
theorem not_engines : ¬ Obligations.Engines := by
  unfold Obligations.Engines
  intro h
  obtain ⟨hcopies, -⟩ := h copyWord wideWindow copyFiring wideThread wideWindow_fires rfl
  obtain ⟨-, -, hscratch, -⟩ := hcopies (.acopy, .straight) (List.mem_cons_self ..)
  have hexec := hscratch fromWindow_valid (by decide +kernel) (by decide +kernel) (by unfold InWindow; decide +kernel) (by decide +kernel)
    (by decide +kernel) (by decide +kernel)
  have hkept := wideWindow_keptBound
  rw [hexec] at hkept
  revert hkept
  decide +kernel

end Sys2Proof.Machine
end

section
/-!
PROOFS, 08 memory access: releases, arrivals and hand-overs that end later (`ReleasesAndArrivals`).
-/

namespace Sys2Proof.Machine
open Claims

/-! ### Bytes on their way to a point of coherence (09 R263) -/

/-- The releases and the scratchpad stores that wait are the same, and the L1s have at most lost lines. -/
structure Dev.DropsLines (d d' : Dev) : Prop where
  rels : d'.rels = d.rels
  spStores : d'.spStores = d.spStores
  l1 : ∀ g, ∀ l ∈ (d'.grid g).l1, l ∈ (d.grid g).l1

/-- The same of two work areas. -/
structure W.DropsLines (w w' : W) : Prop where
  dev : w.d.DropsLines w'.d

theorem Dev.DropsLines.refl (d : Dev) : d.DropsLines d := ⟨rfl, rfl, fun _ _ h => h⟩
theorem Dev.DropsLines.trans {a b c : Dev} (h : a.DropsLines b) (h' : b.DropsLines c) : a.DropsLines c :=
  ⟨h'.rels.trans h.rels, h'.spStores.trans h.spStores, fun g l hl => h.l1 g l (h'.l1 g l hl)⟩
theorem Dev.DropsLines.of_grids {d d' : Dev} (hr : d'.rels = d.rels) (hs : d'.spStores = d.spStores) (hg : d'.grids = d.grids) :
    d.DropsLines d' :=
  ⟨hr, hs, fun g l hl => by rwa [Dev.grid, hg] at hl⟩
theorem Dev.DropsLines.fresh (d : Dev) : d.DropsLines d.fresh.2 := .of_grids rfl rfl rfl
theorem Dev.DropsLines.modCtx (d : Dev) (c : Nat) (f : Ctx → Ctx) : d.DropsLines (d.modCtx c f) := .of_grids rfl rfl rfl
theorem Dev.DropsLines.l2Fill (d : Dev) (c : Nat) (l : L2Line) : d.DropsLines (d.l2Fill c l) := by
  unfold Dev.l2Fill
  dsimp only
  split
  next => exact .of_grids rfl rfl rfl
  next =>
    split
    · exact .refl _
    · exact .of_grids rfl rfl rfl
theorem Dev.DropsLines.noteWrite (d : Dev) (c rnum x : Nat) : d.DropsLines (d.noteWrite c rnum x) := by
  unfold Dev.noteWrite
  split
  · exact .modCtx ..
  · exact .refl _

namespace W.DropsLines

theorem refl (w : W) : w.DropsLines w := ⟨.refl _⟩
theorem trans {a b c : W} (h : a.DropsLines b) (h' : b.DropsLines c) : a.DropsLines c := ⟨h.dev.trans h'.dev⟩
theorem ofDev {w : W} {d : Dev} (h : w.d.DropsLines d) : w.DropsLines { w with d := d } := ⟨h⟩
theorem foldl {α : Type} {f : W → α → W} (h : ∀ (w : W) (a : α), w.DropsLines (f w a)) (l : List α) (w : W) : w.DropsLines (l.foldl f w) :=
  List.foldlRecOn l f (motive := w.DropsLines) (.refl _) fun _ hb a _ => hb.trans (h _ a)

theorem wr (w : W) (k : Nat) (v : Byte) : w.DropsLines (w.wr k v) := ⟨.refl _⟩
theorem wrs (w : W) (cs : List Host.Cell) : w.DropsLines (w.wrs cs) := .foldl (fun w (c : Host.Cell) => wr w c.1 c.2) cs w
theorem copyKeys (w : W) (a b n : Nat) : w.DropsLines (w.copyKeys a b n) := wrs w _
theorem setLeaf (w : W) (x : Nat) (l : Leaf) (a b : Nat) : w.DropsLines (w.setLeaf x l a b) :=
  ((wrs w _).trans (wrs _ _)).trans (.ofDev (.of_grids rfl rfl rfl))

theorem writeMap (w : W) (c page : Nat) (more : Bool) : w.DropsLines (w.writeMap c page more) := by
  unfold W.writeMap
  extract_lets k es need kept k1 short d r k2 chain w1
  have hset : w.d.DropsLines (r.2.setCtx c k2) := by
    dsimp only [r]
    split
    all_goals exact .of_grids rfl rfl rfl
  have hw1 : w.DropsLines w1 := (W.DropsLines.ofDev hset).trans (.foldl (fun w p => wrs w _) _ _)
  split
  next =>
    split
    · exact hw1.trans (.setLeaf ..)
    · exact hw1
  next => exact hw1

theorem cow (w : W) (c rnum x : Nat) : w.DropsLines (w.cow c rnum x) := by
  unfold W.cow
  split
  next =>
    split
    next =>
      split
      next =>
        dsimp only
        split
        · exact .refl _
        · split
          · exact .refl _
          · exact ((copyKeys ..).trans (.ofDev (.modCtx ..))).trans (.writeMap ..)
      next => exact .refl _
    next => exact .refl _
  next => exact .refl _

theorem homeWrite (w : W) (c rnum : Nat) (cs : List Host.Cell) : w.DropsLines (w.homeWrite c rnum cs) := by
  induction cs generalizing w with
  | nil => rw [W.homeWrite]; exact .refl _
  | cons p r ih =>
    rw [W.homeWrite]
    refine ((cow w c rnum p.1).trans ?_).trans (ih _)
    split
    · exact .wr ..
    · exact .refl _

theorem touch (w : W) (x : Nat) : w.DropsLines (w.touch x) := by
  unfold W.touch W.touchIn
  split
  next => exact .refl _
  next =>
    split
    next => exact .refl _
    next =>
      split
      next =>
        split
        · exact .refl _
        · exact .ofDev (.of_grids rfl rfl rfl)
      next => exact .refl _

theorem dropHost (w : W) (line : Nat) : w.DropsLines (w.dropHost line) := by
  unfold W.dropHost
  extract_lets at2 w1 at1 w2
  have h2 : w.DropsLines w2 := (foldl (fun w l => homeWrite w ..) at2 w).trans (foldl (fun w l => homeWrite w ..) at1 w1)
  refine h2.trans (.ofDev ⟨rfl, rfl, fun g l hl => ?_⟩)
  have hlook := Tbl.look_map w2.d.grids (fun x => { x with l1 := x.l1.filter (fun l => l.line / 8 != line) }) g
  simp only [Dev.grid, Tbl.get, hlook] at hl ⊢
  cases hg : Tbl.look w2.d.grids g with
  | none => rwa [hg] at hl
  | some x =>
    rw [hg] at hl
    exact (List.mem_filter.1 hl).1

theorem filterRoom (w : W) (line : Nat) : w.DropsLines (w.filterRoom line) := by
  unfold W.filterRoom
  split
  next => exact .refl _
  next =>
    dsimp only
    split
    · exact .refl _
    · split
      · exact (ofDev (.fresh _)).trans (.dropHost ..)
      · exact .refl _

theorem l2Use (w : W) (c rid line : Nat) : w.DropsLines (w.l2Use c rid line) := by
  unfold W.l2Use
  split
  next => exact .refl _
  next => exact (touch ..).trans (.ofDev (.l2Fill ..))

theorem l2Room (w : W) (c line : Nat) : w.DropsLines (w.l2Room c line) := by
  unfold W.l2Room
  dsimp only
  split
  next => exact .refl _
  next =>
    exact ((ofDev (.fresh _)).trans (.foldl (fun w m => homeWrite w ..) _ _)).trans
      (.ofDev (.of_grids rfl rfl rfl))

theorem pkgWriteLine (w : W) (c rnum line : Nat) (cs : List Host.Cell) : w.DropsLines (w.pkgWriteLine c rnum line cs) := by
  unfold W.pkgWriteLine
  split
  next => exact .refl _
  next =>
    split
    next =>
      split
      next =>
        dsimp only
        split
        · exact (cow ..).trans (.ofDev (.of_grids rfl rfl rfl))
        · exact .cow ..
      next => exact (l2Use ..).trans (.homeWrite ..)
    next => exact ((filterRoom ..).trans (.l2Room ..)).trans (.ofDev (.of_grids rfl rfl rfl))

theorem pkgWrite (w : W) (c rnum : Nat) (cs : List Host.Cell) : w.DropsLines (w.pkgWrite c rnum cs) :=
  .foldl (fun w _ => (pkgWriteLine w ..).trans (.ofDev (.noteWrite ..))) _ _

end W.DropsLines

/-! ### Owned lines written back (09 R268) -/

/-- A line that is there after the write-back of `l` was there before, and where `l` was owned it is another; or it is not owned. -/
theorem W.mem_l1_writeBack {w : W} {g : Nat} {l : L1Line} {n : Nat} {m : L1Line} (h : m ∈ ((w.writeBack g l).d.grid n).l1) :
    m.owned = 0#32 ∨ m ∈ (w.d.grid n).l1 ∧ (n = g → l.owned ≠ 0#32 → ¬(l.line = m.line ∧ l.rid = m.rid)) := by
  unfold W.writeBack at h
  split at h
  next hl => exact .inr ⟨h, fun _ hne => absurd hl hne⟩
  next =>
    have hdrops := (W.DropsLines.pkgWrite w ((w.d.ownerOf g).getD 0) ((w.d.ctx ((w.d.ownerOf g).getD 0)).rnumOf l.rid)
      (maskCells l.line l.owned l.data)).dev.l1 n m
    by_cases hn : n = g
    · subst hn
      rw [Dev.grid_modGrid] at h
      rcases List.mem_cons.1 h with rfl | h
      · exact .inl rfl
      · obtain ⟨hm, hne⟩ := List.mem_filter.1 h
        exact .inr ⟨hdrops hm, fun _ _ hsame => by simp [hsame.1, hsame.2] at hne⟩
    · rw [Dev.grid_modGrid_ne _ _ hn] at h
      exact .inr ⟨hdrops h, fun hg => absurd hg hn⟩

/-- The owned lines of a grid are among those of a list. -/
def Grid.OwnedAmong (x : Grid) (ls : List L1Line) : Prop :=
  ∀ m ∈ x.l1, m.owned = 0#32 ∨ ∃ l ∈ ls, l.owned ≠ 0#32 ∧ l.line = m.line ∧ l.rid = m.rid

theorem Grid.OwnedAmong.unowned {x : Grid} (h : x.OwnedAmong []) : ∀ l ∈ x.l1, l.owned = 0#32 := fun m hm =>
  (h m hm).resolve_right fun ⟨_, hl, _⟩ => nomatch hl

/-- Writing back never makes a line owned. -/
theorem Grid.OwnedAmong.writeBack {w : W} {n : Nat} {ls : List L1Line} (h : (w.d.grid n).OwnedAmong ls) (g : Nat) (l : L1Line) :
    ((w.writeBack g l).d.grid n).OwnedAmong ls := fun m hm =>
  (W.mem_l1_writeBack hm).elim .inl fun hold => h m hold.1

/-- The first of the listed lines is written back. -/
theorem Grid.OwnedAmong.writeBack_first {w : W} {g : Nat} {l : L1Line} {ls : List L1Line} (h : (w.d.grid g).OwnedAmong (l :: ls)) :
    ((w.writeBack g l).d.grid g).OwnedAmong ls := fun m hm => by
  rcases W.mem_l1_writeBack hm with h0 | ⟨hold, hne⟩
  · exact .inl h0
  · refine (h m hold).imp_right fun ⟨q, hq, hown, hsame⟩ => ⟨q, (List.mem_cons.1 hq).resolve_left ?_, hown, hsame⟩
    rintro rfl
    exact hne rfl hown hsame

theorem Grid.OwnedAmong.writeBacks {w : W} {g : Nat} {ls : List L1Line} (h : (w.d.grid g).OwnedAmong ls) :
    ((ls.foldl (fun w l => w.writeBack g l) w).d.grid g).OwnedAmong [] := by
  induction ls generalizing w with
  | nil => exact h
  | cons l r ih => exact ih h.writeBack_first

theorem W.writeBackAll_unowned (w : W) (gs : List Nat) {g : Nat} (hg : g ∈ gs) :
    ((w.writeBackAll gs fun _ => true).d.grid g).OwnedAmong [] := by
  have hstay : ∀ (gs : List Nat) (w : W), (w.d.grid g).OwnedAmong [] → ((w.writeBackAll gs fun _ => true).d.grid g).OwnedAmong [] :=
    fun gs w h => List.foldlRecOn gs _ (motive := fun e : W => (e.d.grid g).OwnedAmong []) h fun _ he _ _ =>
      List.foldlRecOn _ _ (motive := fun e : W => (e.d.grid g).OwnedAmong []) he fun _ he _ _ => he.writeBack _ _
  induction gs generalizing w with
  | nil => nomatch hg
  | cons n r ih =>
    rcases List.mem_cons.1 hg with rfl | hr
    · refine hstay r _ (Grid.OwnedAmong.writeBacks fun m hm => ?_)
      by_cases h0 : m.owned = 0#32
      · exact .inl h0
      · exact .inr ⟨m, List.mem_filter.2 ⟨hm, rfl⟩, h0, rfl, rfl⟩
    · exact ih _ hr

theorem W.writeBackAll_spStores (w : W) (gs : List Nat) (pick : L1Line → Bool) : (w.writeBackAll gs pick).d.spStores = w.d.spStores := by
  have hone : ∀ (w : W) (g : Nat) (l : L1Line), (w.writeBack g l).d.spStores = w.d.spStores := fun w g l => by
    unfold W.writeBack
    split
    · rfl
    · exact (W.DropsLines.pkgWrite w _ _ _).dev.spStores
  exact List.foldlRecOn gs _ (motive := fun e : W => e.d.spStores = w.d.spStores) rfl fun _ he _ _ =>
    List.foldlRecOn _ _ (motive := fun e : W => e.d.spStores = w.d.spStores) he fun _ he _ _ => (hone ..).trans he

/-- Step 1 of a release of PACKAGE scope or narrower (09 R268): no scratchpad store of the thread is on its way, and at PACKAGE scope no
line of the grids is owned. -/
theorem W.releaseStep_leaves (w : W) (t c : Nat) {scope : Nat} (gs : List Nat) (h : scope ≤ 2) :
    let w' := w.releaseStep t c scope gs
    (1 ≤ scope → ∀ q ∈ w'.d.spStores, q.thr ≠ t) ∧ (scope = 2 → ∀ g ∈ gs, ∀ l ∈ (w'.d.grid g).l1, l.owned = 0#32) := by
  intro w'
  have hw' : w' = if 2 ≤ scope then (if 1 ≤ scope then w.landSp t else w).writeBackAll gs fun _ => true
      else if 1 ≤ scope then w.landSp t else w := if_neg (by omega)
  refine ⟨fun h1 q hq => ?_, fun h2 g hg => ?_⟩
  · have hsp : w'.d.spStores = (w.landSp t).d.spStores := by
      rw [hw', if_pos h1]
      split
      · exact W.writeBackAll_spStores ..
      · rfl
    rw [hsp] at hq
    exact bne_iff_ne.1 (List.mem_filter.1 hq).2
  · rw [hw', if_pos h2.ge]
    exact (W.writeBackAll_unowned _ _ hg).unowned

theorem W.relWaits_package (w : W) {scope : Nat} (gs : List Nat) (h : scope ≤ 2) : w.relWaits scope gs = false := by
  have h3 : ¬3 ≤ scope := by omega
  simp [W.relWaits, W.relBlocked, h3]

/-- A release of PACKAGE scope or narrower, performed (09 R268, 18 R476). -/
theorem W.performRel_leaves (w : W) (r : Rel) (h : r.scope ≤ 2) :
    let w' := w.performRel r
    (¬(r.scope = 2 ∧ w'.d.snoops = true) → ∀ q ∈ w'.d.rels, q.order ≠ r.order) ∧
    (1 ≤ r.scope → ∀ q ∈ w'.d.spStores, q.thr ≠ r.thr) ∧ (r.scope = 2 → ∀ g ∈ r.grids, ∀ l ∈ (w'.d.grid g).l1, l.owned = 0#32) := by
  intro w'
  have hstep := w.releaseStep_leaves r.thr r.ctx r.grids h
  have hw' : w' = if decide (2 ≤ r.scope) && (w.releaseStep r.thr r.ctx r.scope r.grids).d.snoops then w.releaseStep r.thr r.ctx r.scope r.grids
      else { w.releaseStep r.thr r.ctx r.scope r.grids with d := { (w.releaseStep r.thr r.ctx r.scope r.grids).d with
        rels := (w.releaseStep r.thr r.ctx r.scope r.grids).d.rels.filter (fun q => q.order != r.order) } } :=
    if_neg (by rw [W.relWaits_package w r.grids h]; exact Bool.false_ne_true)
  generalize w.releaseStep r.thr r.ctx r.scope r.grids = w1 at hstep hw'
  split at hw'
  next hs =>
    rw [hw']
    rw [Bool.and_eq_true, decide_eq_true_eq] at hs
    exact ⟨fun hno => absurd ⟨by omega, hs.2⟩ hno, hstep⟩
  next =>
    rw [hw']
    exact ⟨fun _ q hq => bne_iff_ne.1 (List.mem_filter.1 hq).2, hstep⟩

theorem exec_releasePerform {s : State} {r : Rel} {rest : List Rel} (h : s.dev.rels = r :: rest) (hsc : r.scope ≤ 2) :
    exec .releasePerform s = run (fun w => w.performRel r) s := by
  have hblocked : s.toW.relBlocked r.scope = false := by
    have h3 : ¬3 ≤ r.scope := by omega
    simp [W.relBlocked, h3]
  have hrels : s.toW.d.rels = r :: rest := h
  change execReleasePerform s = _
  unfold execReleasePerform
  simp [run_eq, hrels, hblocked]

end Sys2Proof.Machine
end

section
/-!
PROOFS, 08 memory access: releases, arrivals and hand-overs that end later (`ReleasesAndArrivals`), continued.
-/

namespace Sys2Proof.Machine
open Claims

/-! ### Events that find nothing -/

theorem exec_releasePerform_nil {s : State} (h : s.dev.rels = []) : exec .releasePerform s = .next s := by
  have hrels : s.toW.d.rels = [] := h
  change execReleasePerform s = _
  unfold execReleasePerform
  simp only [run_eq, hrels, List.find?_nil]
  rfl

/-! ### Scratchpad stores arrive (09 R280) -/

theorem exec_scratchpadStoreArrival {s : State} {q : SpStore} (h : s.dev.spStores.find? (fun q => !s.dev.stopped q.grid) = some q)
    (hlog : (s.dev.ctx q.ctx).undoEn = false) :
    exec .scratchpadStoreArrival s = .next { s with
      mem := s.mem.writeAll q.bytes, dev := { s.dev with spStores := s.dev.spStores.erase q } } := by
  have hfind : s.toW.d.spStores.find? (fun q => !s.toW.d.stopped q.grid) = some q := h
  have hnolog : ∀ (d : Dev) (es : List (Nat × LogEnt)), d.ctxs = s.dev.ctxs →
      W.logWrite { s.toW with d := d } q.ctx es = { s.toW with d := d } := fun d es hd => by
    have hlogging : (d.ctx q.ctx).logging = false := by
      rw [Ctx.logging, Dev.ctx, hd, ← Dev.ctx, hlog, Bool.false_and]
    unfold W.logWrite
    simp [hlogging]
  change execScratchpadStoreArrival s = _
  unfold execScratchpadStoreArrival W.scratchWrite
  simp only [run_eq, hfind]
  rw [hnolog, W.wrs_d, W.wrs_ov]
  · simp [State.toW]
  · rfl

theorem exec_scratchpadStoreArrival_stopped {s : State} (h : ∀ q ∈ s.dev.spStores, s.dev.stopped q.grid = true) :
    exec .scratchpadStoreArrival s = .next s := by
  have hfind : s.toW.d.spStores.find? (fun q => !s.toW.d.stopped q.grid) = none :=
    List.find?_eq_none.2 fun q hq hstop => by
      rw [show s.toW.d.stopped q.grid = true from h q hq] at hstop
      exact Bool.false_ne_true hstop
  change execScratchpadStoreArrival s = _
  unfold execScratchpadStoreArrival
  simp only [run_eq, hfind]
  rfl

/-! ### A stream is handed over (08 R238) -/

theorem Dev.thr_modStream {d : Dev} {n : Nat} {u : Thread} (h : d.thr n = some u) (s : Nat) (f : Stream → Stream) :
    (d.modStream n s f).thr n = some { u with streams := u.streams.set s (f (u.stream s)) } := by
  rw [Dev.modStream, Dev.thr_modThr, h]
  rfl

theorem Thread.stream_set_ne (u : Thread) {s k : Nat} (q : Stream) (h : k ≠ s) : Thread.stream { u with streams := u.streams.set s q } k = u.stream k :=
  Tbl.get_set_ne _ _ _ h
@[simp] theorem Thread.stream_set (u : Thread) (s : Nat) (q : Stream) : Thread.stream { u with streams := u.streams.set s q } s = q :=
  Tbl.get_set_self ..

/-- A change of one stream, seen by another. -/
theorem Dev.thr_modStream_other {d : Dev} {n : Nat} {u : Thread} (h : d.thr n = some u) {m s k : Nat} (f : Stream → Stream)
    (hne : m ≠ n ∨ s ≠ k) : ∃ v, (d.modStream m s f).thr n = some v ∧ v.stream k = u.stream k := by
  by_cases hm : m = n
  · subst hm
    exact ⟨_, Dev.thr_modStream h s f, u.stream_set_ne _ (hne.resolve_left (absurd rfl)).symm⟩
  · exact ⟨u, (Dev.thr_modThr_ne _ _ (Ne.symm hm)).trans h, rfl⟩

theorem Dev.patchLines_threads (d : Dev) (gs : List Nat) (cs : List Host.Cell) : (d.patchLines gs cs).threads = d.threads :=
  (Dev.Moves.patchLines d gs cs).threads
theorem Dev.patchLines_handovers (d : Dev) (gs : List Nat) (cs : List Host.Cell) : (d.patchLines gs cs).handovers = d.handovers := by
  obtain ⟨_, _, _, _, _, _, _, _, _, _, h⟩ := (Dev.Moves.patchLines d gs cs).rest
  rw [h]

theorem W.performRelsOf_none {w : W} {n : Nat} (h : ∀ r ∈ w.d.rels, r.thr ≠ n) : w.performRelsOf n = w := by
  rw [W.performRelsOf, List.filter_eq_nil_iff.2 fun r hr hn => h r hr (beq_iff_eq.1 hn)]
  rfl

/-- With its buffer empty and no release of its thread under way, a stream has nothing to flush. -/
theorem W.flushStream_empty {w : W} {n k : Nat} {u : Thread} (hu : w.d.thr n = some u) (hbuf : (u.stream k).buffer = [])
    (hrels : ∀ r ∈ w.d.rels, r.thr ≠ n) (hlog : (w.d.ctx u.ctx).undoEn = false) :
    ∃ gs, w.flushStream n k = { w with d := (w.d.patchLines gs []).modStream n k fun q => { q with buffer := q.buffer.filter fun _ => true } } := by
  have hperform := W.performRelsOf_none hrels
  have hpending : w.d.rels.any (fun r => r.thr == n && w.relWaits r.scope r.grids) = false :=
    List.any_eq_false.2 fun r hr h => hrels r hr (beq_iff_eq.1 (Bool.and_eq_true_iff.1 h).1)
  have hlogged : ∀ rnum seq who, w.loggedWrite u.ctx rnum seq who [] = w := fun rnum seq who => by
    rw [W.loggedWrite, Ctx.logging, hlog]
    rfl
  refine ⟨u.streamAt k :: u.grids, ?_⟩
  unfold W.flushStream W.flushBytes
  simp only [hu, hperform, hpending, hbuf, hlogged, List.filter_nil, List.head?_nil, List.contains_nil, Bool.not_false, Bool.false_eq_true, if_false]

/-- The device after a hand-over of a stream with nothing to flush: the old stream is closed, the new one opened. -/
def Dev.handedOver (d : Dev) (gs : List Nat) (h : Handover) (rest : List Handover) : Dev :=
  ({ ((d.patchLines gs []).modStream h.oldThr h.oldStream fun q => { q with buffer := q.buffer.filter fun _ => true }).closeStream h.oldThr h.oldStream
      with handovers := rest } : Dev).modStream h.newThr h.newStream fun q => { q with isOpen := q.configuring.isSome, configuring := none }

theorem exec_streamHandover {s : State} {h : Handover} {rest : List Handover} {u : Thread} (hh : s.dev.handovers = h :: rest)
    (hu : s.dev.thr h.oldThr = some u) (hbuf : (u.stream h.oldStream).buffer = []) (hrels : ∀ r ∈ s.dev.rels, r.thr ≠ h.oldThr)
    (hlog : (s.dev.ctx u.ctx).undoEn = false) (hlast : ∀ q ∈ rest, q.newThr ≠ h.newThr ∨ q.newStream ≠ h.newStream) :
    ∃ gs, exec .streamHandover s = .next { s with dev := s.dev.handedOver gs h rest } := by
  obtain ⟨gs, hflush⟩ := W.flushStream_empty (w := s.toW) hu hbuf hrels hlog
  have hmore : rest.any (fun q => q.newThr == h.newThr && q.newStream == h.newStream) = false :=
    List.any_eq_false.2 fun q hq hsame => by
      obtain ⟨h1, h2⟩ := Bool.and_eq_true_iff.1 hsame
      exact (hlast q hq).elim (· (beq_iff_eq.1 h1)) (· (beq_iff_eq.1 h2))
  have hflushed := Dev.thr_modStream (((Dev.Moves.patchLines s.dev gs []).thr h.oldThr).trans hu) h.oldStream
    fun q => { q with buffer := q.buffer.filter fun _ => true }
  have hh' : s.toW.d.handovers = h :: rest := hh
  refine ⟨gs, ?_⟩
  change execStreamHandover s = _
  unfold execStreamHandover
  simp only [run_eq, hh', hflush, hmore]
  rw [show s.toW.d = s.dev from rfl, hflushed]
  simp only [Thread.stream_set, hbuf]
  rfl

theorem Dev.handedOver_handovers (d : Dev) (gs : List Nat) (h : Handover) (rest : List Handover) : (d.handedOver gs h rest).handovers = rest := by
  unfold Dev.handedOver
  rw [Dev.modStream, Dev.modThr_handovers]

/-- The old stream is CLOSED. -/
theorem Dev.handedOver_old {d : Dev} {h : Handover} {u : Thread} (hu : d.thr h.oldThr = some u) (gs : List Nat) (rest : List Handover)
    (hne : h.oldThr ≠ h.newThr ∨ h.oldStream ≠ h.newStream) :
    ∃ u', (d.handedOver gs h rest).thr h.oldThr = some u' ∧ (u'.stream h.oldStream).isOpen = false := by
  have h1 := Dev.thr_modStream (((Dev.Moves.patchLines d gs []).thr _).trans hu) h.oldStream
    fun q => { q with buffer := q.buffer.filter fun _ => true }
  have h2 := Dev.thr_modStream h1 h.oldStream fun q =>
    { q with isOpen := false, latches := [], arrivals := [], configuring := none, unresolved := false }
  obtain ⟨u', hu', hs⟩ := Dev.thr_modStream_other (d := { Dev.closeStream _ h.oldThr h.oldStream with handovers := rest }) h2
    (fun q => { q with isOpen := q.configuring.isSome, configuring := none }) (hne.imp Ne.symm Ne.symm)
  exact ⟨u', hu', by rw [hs, Thread.stream_set]⟩

/-- The new stream is open where it is being configured. -/
theorem Dev.handedOver_new {d : Dev} {h : Handover} {v : Thread} (hv : d.thr h.newThr = some v) (gs : List Nat) (rest : List Handover)
    (hne : h.oldThr ≠ h.newThr ∨ h.oldStream ≠ h.newStream) :
    ∃ v', (d.handedOver gs h rest).thr h.newThr = some v' ∧ v'.stream h.newStream =
      { v.stream h.newStream with isOpen := (v.stream h.newStream).configuring.isSome, configuring := none } := by
  obtain ⟨v1, h1, hs1⟩ := Dev.thr_modStream_other (((Dev.Moves.patchLines d gs []).thr _).trans hv)
    (fun q => { q with buffer := q.buffer.filter fun _ => true }) hne
  obtain ⟨v2, h2, hs2⟩ := Dev.thr_modStream_other h1
    (fun q => { q with isOpen := false, latches := [], arrivals := [], configuring := none, unresolved := false }) hne
  refine ⟨_, Dev.thr_modStream (d := { Dev.closeStream _ h.oldThr h.oldStream with handovers := rest }) h2 _ _, ?_⟩
  rw [Thread.stream_set, hs2, hs1]

theorem exec_streamHandover_nil {s : State} (h : s.dev.handovers = []) : exec .streamHandover s = .next s := by
  have hh : s.toW.d.handovers = [] := h
  change execStreamHandover s = _
  unfold execStreamHandover
  simp only [run_eq, hh]
  rfl

/-! ### Mail that waited (12 R352, 13 R370) -/

theorem exec_mailboxDelivery_none {s : State} (h : s.dev.mailDue s.dev.arg.a s.dev.arg.b = none) : exec .mailboxDelivery s = .next s := by
  have hdue : s.toW.d.mailDue s.toW.d.arg.a s.toW.d.arg.b = none := h
  change execMailboxDelivery s = _
  unfold execMailboxDelivery W.mailArrives
  simp only [run_eq, hdue]
  rfl

/-- A priority with its oldest waiting delivery taken. -/
def Thread.mailTaken (u : Thread) (p : Nat) : Thread :=
  { u with mboxes := u.mboxes.set p { u.mbox p with waiting := (u.mbox p).waiting.drop 1 } }

theorem Thread.mailTaken_mbox (u : Thread) (p : Nat) : (u.mailTaken p).mbox p = { u.mbox p with waiting := (u.mbox p).waiting.drop 1 } :=
  Tbl.get_set_self ..

theorem exec_mailboxDelivery {s : State} {m : Msg} (hdue : s.dev.mailDue s.dev.arg.a s.dev.arg.b = some m) :
    exec .mailboxDelivery s = run (fun w =>
      W.putMail { w with d := w.d.modThr s.dev.arg.a fun q => q.mailTaken s.dev.arg.b } s.dev.arg.a s.dev.arg.b m.data m.origin.toNat) s := by
  have hdue' : s.toW.d.mailDue s.toW.d.arg.a s.toW.d.arg.b = some m := hdue
  change execMailboxDelivery s = _
  unfold execMailboxDelivery W.mailArrives
  simp only [run_eq, hdue']
  rfl

/-- The work area that a message finds once its copy stands in the spill area, where it needs one (13 R370). -/
def W.spilled (w : W) (u : Thread) (p : Nat) (msg : Msg) : W := if 16 ≤ (u.mbox p).msgs.length then w.toUnit u (spillMail p msg) else w

theorem W.Moves.spilled (w : W) (u : Thread) (p : Nat) (msg : Msg) : w.Moves (w.spilled u p msg) := by
  unfold W.spilled W.toUnit
  refine .ite ?_ (.refl _)
  split
  · exact .refl _
  · exact .pkgWrite ..

/-- A message arrives at a thread: the bytes written are those of the spill area, and of the thread only the mailbox differs. -/
theorem W.putMail_spec {w : W} {n : Nat} {u : Thread} (hu : w.d.thr n = some u) (p : Nat) (data : Vec) (origin : Nat) :
    let msg : Msg := ⟨data, BitVec.ofNat 64 origin, (u.mbox p).arrived⟩
    (w.putMail n p data origin).ov = (w.spilled u p msg).ov ∧
    ∃ v, (w.putMail n p data origin).d.thr n = some v ∧ archOf v = archOf u ∧
      v.mbox p = { u.mbox p with msgs := (u.mbox p).msgs ++ [msg], arrived := ((u.mbox p).arrived + 1) % 2 ^ 32 } := by
  intro msg
  have hput : w.putMail n p data origin = { w.spilled u p msg with
      d := (w.spilled u p msg).d.modThr n fun t => { t with mboxes := t.mboxes.set p { u.mbox p with
        msgs := (u.mbox p).msgs ++ [msg], arrived := ((u.mbox p).arrived + 1) % 2 ^ 32 } } } := by
    unfold W.putMail
    rw [hu]
    rfl
  have hthr : (w.spilled u p msg).d.thr n = some u := ((W.Moves.spilled ..).dev.thr n).trans hu
  rw [hput]
  exact ⟨rfl, _, (Dev.thr_modThr ..).trans (congrArg _ hthr), rfl, Tbl.get_set_self ..⟩

/-! ### An arrival at a barrier that waited (14 R398, R399) -/

/-- The barriers of every context are the same, and the arrivals that wait. -/
structure Dev.KeepsBarriers (d d' : Dev) : Prop where
  arrWaits : d'.arrWaits = d.arrWaits
  bars : ∀ c, (d'.ctx c).bars = (d.ctx c).bars

namespace Dev.KeepsBarriers

theorem refl (d : Dev) : d.KeepsBarriers d := ⟨rfl, fun _ => rfl⟩
theorem trans {a b c : Dev} (h : a.KeepsBarriers b) (h' : b.KeepsBarriers c) : a.KeepsBarriers c :=
  ⟨h'.arrWaits.trans h.arrWaits, fun k => (h'.bars k).trans (h.bars k)⟩
theorem raiseV (d : Dev) (c f : Nat) : d.KeepsBarriers (d.raiseV c f) := by
  unfold Dev.raiseV
  dsimp only
  split
  · refine ⟨rfl, fun n => ?_⟩
    by_cases h : n = c
    · subst h; rw [Dev.ctx_modCtx]
    · rw [Dev.ctx_modCtx_ne _ _ h]
  · exact .refl d
theorem askPlace (d : Dev) (c gid : Nat) : d.KeepsBarriers (d.askPlace c gid) := by
  unfold Dev.askPlace
  dsimp only
  split
  · split
    · exact .refl d
    · exact ⟨rfl, fun _ => rfl⟩
  · exact .refl d
theorem enqueue (d : Dev) (c gid : Nat) : d.KeepsBarriers (d.enqueue c gid) := by
  unfold Dev.enqueue
  extract_lets f d1 ha d2
  have h1 : d.KeepsBarriers d1 := by
    dsimp only [d1]
    split
    · exact .refl d
    · exact .raiseV ..
  have h2 : d.KeepsBarriers d2 := h1.trans ⟨rfl, fun _ => rfl⟩
  split
  · exact h2.trans (.askPlace ..)
  · exact h2
theorem openGates (d : Dev) (c : Nat) : d.KeepsBarriers (d.openGates c) :=
  List.foldlRecOn _ _ (motive := d.KeepsBarriers) (.refl d) fun b hb g _ => by
    split
    · exact hb.trans (.enqueue ..)
    · exact hb

end Dev.KeepsBarriers

theorem Dev.barArrive_bar (d : Dev) (c n : Nat) (drop : Bool) :
    (d.barArrive c n drop).arrWaits = d.arrWaits ∧ ((d.barArrive c n drop).ctx c).bar n = ((d.ctx c).bar n).arrive drop := by
  have hset : (((d.modCtx c fun k => { k with bars := k.bars.set n (((d.ctx c).bar n).arrive drop) }).ctx c).bar n) = ((d.ctx c).bar n).arrive drop := by
    rw [Dev.ctx_modCtx]
    exact Tbl.get_set_self ..
  unfold Dev.barArrive
  dsimp only
  split
  · exact ⟨rfl, hset⟩
  · have h := Dev.KeepsBarriers.openGates (d.modCtx c fun k => { k with bars := k.bars.set n (((d.ctx c).bar n).arrive drop) }) c
    exact ⟨h.arrWaits, by rw [Ctx.bar, h.bars]; exact hset⟩

/-- An arrival that keeps its member (14 R398). -/
theorem Barrier.arrive_stays (b : Barrier) :
    (b.arrivals + 1 = b.expected → b.arrive false =
      { b with phase := (b.phase + 1) % 2 ^ 30, arrivals := 0, expected := b.expected - b.drops, drops := 0 }) ∧
    (b.arrivals + 1 ≠ b.expected → b.arrive false = { b with arrivals := b.arrivals + 1 }) := by
  unfold Barrier.arrive
  exact ⟨fun h => by rw [if_pos h]; rfl, fun h => by rw [if_neg h]; rfl⟩

theorem exec_barrierEngineArrival {s : State} {q : ArrWait} (h : s.dev.arrWaits.find? s.dev.arrDue = some q) :
    exec .barrierEngineArrival s = .next { s with
      dev := ({ s.dev with arrWaits := s.dev.arrWaits.erase q } : Dev).barEngine q.ctx q.handle q.scope } := by
  change execBarrierEngineArrival s = _
  unfold execBarrierEngineArrival
  rw [runD_eq, h]

theorem exec_barrierEngineArrival_none {s : State} (h : s.dev.arrWaits.find? s.dev.arrDue = none) : exec .barrierEngineArrival s = .next s := by
  change execBarrierEngineArrival s = _
  unfold execBarrierEngineArrival
  rw [runD_eq, h]

theorem Dev.barEngine_stale {d : Dev} {c : Nat} {handle : BitVec 32} (h : (d.ctx c).barOf handle.toNat = none) (scope : Nat) :
    d.barEngine c handle scope = d.fwdError c := by
  unfold Dev.barEngine
  rw [h]

theorem Dev.barEngine_room {d : Dev} {c n : Nat} {handle : BitVec 32} (h : (d.ctx c).barOf handle.toNat = some n) (hroom : d.barFull c n = false)
    (scope : Nat) : d.barEngine c handle scope = d.barArrive c n false := by
  unfold Dev.barEngine
  rw [h]
  exact if_neg (by rw [hroom]; exact Bool.false_ne_true)

/-- A barrier at which an arrival that waited is due has room in its phase. -/
theorem Dev.barFull_of_due {d : Dev} {q : ArrWait} {n : Nat} (hdue : d.arrDue q = true) (h : (d.ctx q.ctx).barOf q.handle.toNat = some n) :
    d.barFull q.ctx n = false := by
  unfold Dev.arrDue at hdue
  rw [h] at hdue
  exact Bool.not_eq_true' _ ▸ hdue

theorem exec_barrierEngineArrival_stale {s : State} {q : ArrWait} (h : s.dev.arrWaits.find? s.dev.arrDue = some q)
    (hstale : (s.dev.ctx q.ctx).barOf q.handle.toNat = none) :
    exec .barrierEngineArrival s = .next { s with dev := ({ s.dev with arrWaits := s.dev.arrWaits.erase q } : Dev).fwdError q.ctx } := by
  rw [exec_barrierEngineArrival h, Dev.barEngine_stale (d := { s.dev with arrWaits := s.dev.arrWaits.erase q }) hstale]

theorem exec_barrierEngineArrival_counts {s : State} {q : ArrWait} {n : Nat} (h : s.dev.arrWaits.find? s.dev.arrDue = some q)
    (hn : (s.dev.ctx q.ctx).barOf q.handle.toNat = some n) :
    exec .barrierEngineArrival s = .next { s with dev := ({ s.dev with arrWaits := s.dev.arrWaits.erase q } : Dev).barArrive q.ctx n false } := by
  have hroom : s.dev.barFull q.ctx n = false := Dev.barFull_of_due (List.find?_some h) hn
  rw [exec_barrierEngineArrival h, Dev.barEngine_room (d := { s.dev with arrWaits := s.dev.arrWaits.erase q }) hn hroom]

/-! ### Releases, arrivals and hand-overs -/

/-- Settles O24, event by event. -/
theorem releasesAndArrivals : Obligations.ReleasesAndArrivals := by
  unfold Obligations.ReleasesAndArrivals
  intro s
  refine ⟨fun r rest hr hsc => ⟨_, (exec_releasePerform hr hsc).trans (run_eq ..), s.toW.performRel_leaves r hsc⟩, exec_releasePerform_nil,
    fun q hq hlog => exec_scratchpadStoreArrival hq hlog, exec_scratchpadStoreArrival_stopped, ?_, exec_streamHandover_nil, ?_, ?_,
    exec_barrierEngineArrival_none⟩
  · intro h rest u v hh hu hv hbuf hrels hlog hne hlast
    obtain ⟨gs, hexec⟩ := exec_streamHandover hh hu hbuf hrels hlog hlast
    obtain ⟨u', hu', hclosed⟩ := Dev.handedOver_old hu gs rest hne
    obtain ⟨v', hv', hopen⟩ := Dev.handedOver_new hv gs rest hne
    exact ⟨_, u', v', hexec, rfl, Dev.handedOver_handovers .., hu', hclosed, hv', by rw [hopen], by rw [hopen]⟩
  · refine ⟨exec_mailboxDelivery_none, fun m u hdue hu => ?_⟩
    have htaken : (s.dev.modThr s.dev.arg.a fun q => q.mailTaken s.dev.arg.b).thr s.dev.arg.a = some (u.mailTaken s.dev.arg.b) := by
      rw [Dev.thr_modThr, hu]
      rfl
    obtain ⟨hov, v, hv, harch, hbox⟩ := W.putMail_spec
      (w := { s.toW with d := s.dev.modThr s.dev.arg.a fun q => q.mailTaken s.dev.arg.b }) htaken s.dev.arg.b m.data m.origin.toNat
    rw [Thread.mailTaken_mbox, BitVec.ofNat_toNat, BitVec.setWidth_eq] at hov hbox
    refine ⟨_, v, (exec_mailboxDelivery hdue).trans (run_eq ..), fun hfew => ?_, fun hmany => ?_, hv, harch, ?_⟩
    · refine (congrArg (fun o => s.mem.writeAll o.reverse) hov).trans ?_
      rw [W.spilled, Thread.mailTaken_mbox, if_neg (Nat.not_le.2 hfew)]
      rfl
    · refine (congrArg (fun o => s.mem.writeAll o.reverse) hov).trans ?_
      rw [W.spilled, Thread.mailTaken_mbox, if_pos hmany]
      rfl
    · rw [hbox]
      exact ⟨rfl, rfl, rfl⟩
  · intro q hq k
    refine ⟨fun hstale => ?_, fun n hn => ?_⟩
    · refine ⟨_, exec_barrierEngineArrival_stale hq hstale, rfl, rfl, ?_⟩
      rw [Dev.fwdError, Dev.ctx_modCtx]
      exact ⟨rfl, rfl⟩
    · obtain ⟨hwaits, hbar⟩ := Dev.barArrive_bar { s.dev with arrWaits := s.dev.arrWaits.erase q } q.ctx n false
      refine ⟨_, exec_barrierEngineArrival_counts hq hn, rfl, hwaits, ?_⟩
      dsimp only
      rw [hbar]
      exact Barrier.arrive_stays _

end Sys2Proof.Machine
end

section
/-!
PROOFS, 08 memory access: atomics as they fire (`Atomics`).
-/

namespace Sys2Proof.Machine
open Claims

/-! ### The new value (08 R257) -/

theorem num_toNat (ty : BitVec 4) (a : BitVec (tyBits ty)) : num ty a.toNat = value ty a := by
  unfold num value
  rw [sgn_toNat]

theorem ofNat_toNat_pred {n : Nat} {a : BitVec n} (h : a ≠ 0#n) : BitVec.ofNat n (a.toNat - 1) = a - 1#n := by
  have hpos : 0 < a.toNat := Nat.pos_of_ne_zero fun h0 => h (BitVec.eq_of_toNat_eq (by simpa using h0))
  rw [BitVec.eq_sub_iff_add_eq, ← BitVec.ofNat_add, Nat.sub_add_cancel hpos, BitVec.ofNat_toNat, BitVec.setWidth_eq]

/-- The engine's number is the new value, on the width of the element. -/
theorem ofNat_amoNew (op : AmoOp) (ty : BitVec 4) (old b k : BitVec (tyBits ty)) :
    BitVec.ofNat (tyBits ty) (amoNew op ty old.toNat b.toNat k.toNat).1 = newValue op ty old b k := by
  have hself : ∀ a : BitVec (tyBits ty), BitVec.ofNat _ a.toNat = a := fun a => by rw [BitVec.ofNat_toNat, BitVec.setWidth_eq]
  cases op with
  | add => exact BitVec.eq_of_toNat_eq (by simp [amoNew, newValue])
  | fadd => rfl
  | min => simp only [amoNew, newValue, num_toNat, apply_ite (BitVec.ofNat _), hself]
  | max => simp only [amoNew, newValue, num_toNat, apply_ite (BitVec.ofNat _), hself]
  | and => simp only [amoNew, newValue, ← BitVec.toNat_and, hself]
  | or => simp only [amoNew, newValue, ← BitVec.toNat_or, hself]
  | xor => simp only [amoNew, newValue, ← BitVec.toNat_xor, hself]
  | swap => exact hself b
  | cas => simp only [amoNew, newValue, BitVec.toNat_inj, apply_ite (BitVec.ofNat _), hself]
  | inc =>
    simp only [amoNew, newValue, apply_ite (BitVec.ofNat _), BitVec.ofNat_add, hself]
  | dec =>
    have hzero : old.toNat = 0 ↔ old = 0#_ := by rw [← BitVec.toNat_inj, BitVec.toNat_zero]
    simp only [amoNew, newValue, apply_ite (BitVec.ofNat _), hzero, hself]
    split
    · rfl
    · next h => exact ofNat_toNat_pred fun h0 => h (.inl h0)

/-- The bytes of a number of n bytes, each at its address. -/
theorem cellsAt_leBytes {n m : Nat} (hm : 8 * m = n) (a x : Nat) :
    cellsAt a (leBytes m x) = (List.range m).map fun j => (a + j, (BitVec.ofNat n x).extractLsb' (8 * j) 8) := by
  rw [leBytes, cellsAt_map]
  refine List.map_congr_left fun j hj => congrArg (Prod.mk (a + j)) (BitVec.eq_of_getLsbD_eq fun i hi => ?_)
  have hlt : i + 8 * j < n := by
    have := List.mem_range.1 hj
    omega
  rw [BitVec.getLsbD_extractLsb', BitVec.getLsbD_ofNat, BitVec.getLsbD_ofNat, Nat.testBit_div_two_pow]
  simp [hi, hlt, Nat.add_comm (8 * j)]

theorem amoNew_of_ofNat {op : AmoOp} {ty : BitVec 4} {old b k : Nat} (ho : old < 2 ^ tyBits ty) (hb : b < 2 ^ tyBits ty) (hk : k < 2 ^ tyBits ty) :
    BitVec.ofNat (tyBits ty) (amoNew op ty old b k).1 = newValue op ty (BitVec.ofNat _ old) (BitVec.ofNat _ b) (BitVec.ofNat _ k) := by
  rw [← ofNat_amoNew, BitVec.toNat_ofNat, BitVec.toNat_ofNat, BitVec.toNat_ofNat, Nat.mod_eq_of_lt ho, Nat.mod_eq_of_lt hb, Nat.mod_eq_of_lt hk]

theorem ofBytes_lt (bs : List Byte) : ofBytes bs < 2 ^ (8 * bs.length) := by
  induction bs with
  | nil => simp [ofBytes]
  | cons b r ih =>
    have hcons : ofBytes (b :: r) = b.toNat + 256 * ofBytes r := rfl
    have hb := b.isLt
    rw [List.length_cons, Nat.mul_succ, Nat.pow_add, hcons]
    omega

/-! ### An atomic as it fires (08 R257, R258) -/

theorem run_fireStore {i : Instr} {l : Nat} {g : W → Firing → Thread → W} {s : State} {c : Firing} {u : Thread} (h : Fires (prOf i) s c)
    (hu : s.dev.thr c.x.thr = some u) :
    run (fireStore i l g) s = .next { s with dev := (g s.toW c u).d, mem := s.mem.writeAll (g s.toW c u).ov.reverse } := by
  rw [run_eq, fireStore_holds (w := s.toW) h.1 hu h.2.1 h.2.2]

/-- The eleven atomics fire in one way. -/
theorem exec_atomic {p : (FmtA → Instr) × AmoOp} (hp : p ∈ Claims.atomics) (f : FmtA) :
    prOf (p.1 f) = f.pr ∧ ∀ s, exec (p.1 f) s = run (fireStore (p.1 f) f.lsid.toNat (amoFire p.2 f)) s := by
  simp only [Claims.atomics, List.mem_cons, List.not_mem_nil, or_false] at hp
  rcases hp with rfl | rfl | rfl | rfl | rfl | rfl | rfl | rfl | rfl | rfl | rfl
  all_goals exact ⟨rfl, fun _ => rfl⟩

theorem amoAddr_eq (f : FmtA) (c : Firing) : memAddr c.ops.a0 f.offs.toInt = amoAddr f c := rfl

/-- An instance at which an acquiring atomic of LSID l is noted. -/
def Inst.noted (x : Inst) (f : FmtA) : Inst := if f.ord.getLsbD 0 then { x with acquires := f.lsid.toNat :: x.acquires } else x

theorem Inst.noted_lsids (x : Inst) (f : FmtA) : (x.noted f).lsids = x.lsids := by
  unfold Inst.noted
  split
  · rfl
  · rfl

/-- An atomic that may fire fills its LSID and leaves its operation, with the bytes that it will leave as the thread's loads see them now. -/
theorem amoFire_fills {op : AmoOp} {f : FmtA} {w w1 w2 : W} {c : Firing} {u : Thread} {cs : List Host.Cell} (hty : f.ty.toNat ≤ 11)
    (hc : w.storeCheck c u (amoAddr f c) (tyBits f.ty / 8) (tyBits f.ty / 8) (rR ||| rW) = .ok w1)
    (hs : ∀ j < f.lsid.toNat, c.code.storeMask.testBit j = true → j ∈ c.x.lsids)
    (hd : w1.deviceOrdered u (amoAddr f c) = false ∨ w1.d.isOldest c.x = true)
    (ho : c.x.owed c.code f.lsid.toNat (addrs (amoAddr f c) (tyBits f.ty / 8)) = false)
    (hl : w1.loadCells c.x u f.lsid.toNat (addrs (amoAddr f c) (tyBits f.ty / 8)) = (.ok cs, w2))
    (hy : w2.d.youngLoads c.x.thr c.x.seq none (addrs (amoAddr f c) (tyBits f.ty / 8)) = []) :
    let b := elem (tyBits f.ty) c.ops.vb 0
    let k := elem (tyBits f.ty) c.ops.vc 0
    let new := newValue op f.ty (BitVec.ofNat _ (ofBytes (cs.map Prod.snd))) b k
    amoFire op f w c u = { w2 with
      d := w2.d.fillStore { c with x := c.x.noted f } f.lsid.toNat
        (some (.amo op f.ty f.scope.toNat f.ord (amoAddr f c) (b.setWidth 64) (k.setWidth 64)))
        (some ⟨f.lsid.toNat, c.idx, (List.range (tyBits f.ty / 8)).map (fun j => (amoAddr f c + j, new.extractLsb' (8 * j) 8)), true, none⟩)
        {} } := by
  intro b k new
  have hbytes : ∀ ty : BitVec 4, ty.toNat ≤ 11 → 8 * (tyBits ty / 8) = tyBits ty := by decide
  have h8 := hbytes f.ty hty
  have hstores : c.x.storesBelow c.code f.lsid.toNat = true := (c.x.storesBelow_iff c.code _).2 hs
  have hmay := mayDevice_of_may hd
  have ho' : c.x.owed c.code f.lsid.toNat (span (amoAddr f c) (tyBits f.ty / 8)) = false := ho
  have hl' : w1.loadCells c.x u f.lsid.toNat (span (amoAddr f c) (tyBits f.ty / 8)) = (.ok cs, w2) := hl
  have hy' : w2.d.youngLoads c.x.thr c.x.seq none (span (amoAddr f c) (tyBits f.ty / 8)) = [] := hy
  have hlen : cs.length = tyBits f.ty / 8 := by
    rw [loadCells_length hl, addrs, List.length_map, List.length_range]
  have hold : ofBytes (cs.map Prod.snd) < 2 ^ tyBits f.ty := by
    have := ofBytes_lt (cs.map Prod.snd)
    rwa [List.length_map, hlen, h8] at this
  have hlane : ∀ v : Vec, BitVec.ofNat (tyBits f.ty) (lane (tyBits f.ty) v 0) = elem (tyBits f.ty) v 0 := fun v => (extract_eq_lane ..).symm
  have hwide : ∀ v : Vec, BitVec.ofNat 64 (lane (tyBits f.ty) v 0) = (elem (tyBits f.ty) v 0).setWidth 64 := fun v => by
    rw [lane_eq_toNat, BitVec.ofNat_toNat]
    rfl
  have hnew : BitVec.ofNat (tyBits f.ty)
      (amoNew op f.ty (ofBytes (cs.map Prod.snd)) (lane (tyBits f.ty) c.ops.vb 0) (lane (tyBits f.ty) c.ops.vc 0)).1 = new := by
    rw [amoNew_of_ofNat hold (lane_lt ..) (lane_lt ..), hlane, hlane]
  unfold amoFire
  dsimp only
  rw [amoAddr_eq, elBytes, hc]
  simp only [hstores, hmay, ho', Bool.not_true, Bool.or_self, Bool.false_eq_true, if_false, hl', h8, hwide]
  rw [cellsAt_leBytes h8, hnew, violate_none hy']
  rfl

theorem exec_atomic_fills {p : (FmtA → Instr) × AmoOp} (hp : p ∈ Claims.atomics) {f : FmtA} {s : State} {c : Firing} {u : Thread} {w w' : W}
    {cs : List Host.Cell} (h : Fires f.pr s c) (hu : s.dev.thr c.x.thr = some u) (hty : f.ty.toNat ≤ 11)
    (hc : s.toW.storeCheck c u (amoAddr f c) (tyBits f.ty / 8) (tyBits f.ty / 8) (rR ||| rW) = .ok w)
    (hs : ∀ j < f.lsid.toNat, c.code.storeMask.testBit j = true → j ∈ c.x.lsids)
    (hd : w.deviceOrdered u (amoAddr f c) = false ∨ w.d.isOldest c.x = true)
    (ho : c.x.owed c.code f.lsid.toNat (addrs (amoAddr f c) (tyBits f.ty / 8)) = false)
    (hl : w.loadCells c.x u f.lsid.toNat (addrs (amoAddr f c) (tyBits f.ty / 8)) = (.ok cs, w'))
    (hy : w'.d.youngLoads c.x.thr c.x.seq none (addrs (amoAddr f c) (tyBits f.ty / 8)) = []) (hfree : f.lsid.toNat ∉ c.x.lsids) :
    let b := elem (tyBits f.ty) c.ops.vb 0
    let k := elem (tyBits f.ty) c.ops.vc 0
    let new := newValue p.2 f.ty (BitVec.ofNat _ (ofBytes (cs.map Prod.snd))) b k
    exec (p.1 f) s = .next { stored s w'.d { c with x := c.x.noted f } f.lsid.toNat
        [.amo p.2 f.ty f.scope.toNat f.ord (amoAddr f c) (b.setWidth 64) (k.setWidth 64)]
        [⟨f.lsid.toNat, c.idx, (List.range (tyBits f.ty / 8)).map (fun j => (amoAddr f c + j, new.extractLsb' (8 * j) 8)), true, none⟩] [] with
      mem := s.mem.writeAll w'.ov.reverse } := by
  intro b k new
  obtain ⟨hpr, hexec⟩ := exec_atomic hp f
  rw [hexec, run_fireStore (hpr ▸ h) hu, amoFire_fills hty hc hs hd ho hl hy]
  have hfree' : f.lsid.toNat ∉ (c.x.noted f).lsids := by rwa [Inst.noted_lsids]
  exact congrArg (fun t : State => Host.Outcome.next { t with mem := s.mem.writeAll w'.ov.reverse })
    (next_fillStore (c := { c with x := c.x.noted f }) s _ _ hfree')

end Sys2Proof.Machine
end

section
/-!
PROOFS, 08 memory access: atomics as they are performed early (`Atomics`).
-/

namespace Sys2Proof.Machine
open Claims

/-! ### A line that its home alone holds (08 R219, R226, 18 R476) -/

/-- A local line at a frame, whose addresses the translation cache holds, that no copy-on-write, snoop, host copy or bad byte concerns. -/
structure AtHome (w : W) (u : Thread) (line key : Nat) : Prop where
  here : ∀ a, a / 32 = line → w.isLocal a = true
  cached : ∀ a, a / 32 = line → w.d.tcFind a ≠ none
  mapped : ∀ a, a / 32 = line → ∃ w0, w.translate u.ctx (w.d.rnumOf u) a = .ok (key + a % 32) w0 ∧ entState w0 ≠ 7
  quiet : w.d.snooping line = false
  free : line ∉ w.d.hostHeld
  sound : ∀ p ∈ w.d.poison, p < key ∨ key + 32 ≤ p

theorem W.SameButLines.hostHeld {w w' : W} (h : w.SameButLines w') : w'.d.hostHeld = w.d.hostHeld := by
  obtain ⟨_, _, _, rfl⟩ := h.rest
  rfl

theorem AtHome.mono {w w' : W} {u : Thread} {line key : Nat} (h : AtHome w u line key) (hw : w.SameButLines w') : AtHome w' u line key := by
  obtain ⟨hl, hc, ht, hs, hf, hp⟩ := h
  refine ⟨fun a ha => by rw [hw.isLocal, hl a ha], fun a ha => by rw [hw.tcFind]; exact hc a ha, fun a ha => ?_, by rw [hw.snooping, hs],
    by rwa [hw.hostHeld], by rwa [hw.poison]⟩
  rw [hw.rnumOf, hw.translate]
  exact ht a ha

/-- A context set to what it was. -/
theorem W.translate_modCtx_same {w : W} {c : Nat} {f : Ctx → Ctx} (hf : f (w.d.ctx c) = w.d.ctx c) (k rnum x : Nat) :
    W.translate { w with d := w.d.modCtx c f } k rnum x = w.translate k rnum x := by
  have hctx : (w.d.modCtx c f).ctx k = w.d.ctx k := by
    by_cases h : k = c
    · subst h; rw [Dev.ctx_modCtx, hf]
    · exact Dev.ctx_modCtx_ne _ _ h
  have hwalk : W.walk { w with d := w.d.modCtx c f } x = w.walk x := rfl
  unfold W.translate W.mapped
  rw [hwalk, hctx]
  rfl

theorem AtHome.modCtx {w : W} {u : Thread} {line key c : Nat} {f : Ctx → Ctx} (h : AtHome w u line key) (hf : f (w.d.ctx c) = w.d.ctx c) :
    AtHome { w with d := w.d.modCtx c f } u line key := by
  obtain ⟨hl, hc, ht, hs, hfree, hp⟩ := h
  refine ⟨hl, hc, fun a ha => ?_, hs, hfree, hp⟩
  rw [W.translate_modCtx_same hf]
  exact ht a ha

theorem W.mapped_of_translate {w : W} {c rnum x key w0 : Nat} (h : w.translate c rnum x = .ok key w0) : w.mapped c rnum x = .ok key w0 := by
  unfold W.translate at h
  split at h
  · cases h
  · exact h

/-- An address that the translation cache holds is translated without the tables. -/
theorem W.translate_wr {w : W} {c rnum x : Nat} (h : w.d.tcFind x ≠ none) (k : Nat) (v : Byte) :
    (w.wr k v).translate c rnum x = w.translate c rnum x := by
  obtain ⟨e, he⟩ := Option.ne_none_iff_exists'.1 h
  have he' : (w.wr k v).d.tcFind x = some e := he
  unfold W.translate W.mapped
  rw [he, he']
  rfl

/-- Bytes whose addresses are cached reach their frames. -/
theorem W.homeWrite_cached {w : W} {c rnum : Nat} {key : Nat → Nat} {cs : List Host.Cell}
    (h : ∀ p ∈ cs, w.isLocal p.1 = true ∧ w.d.tcFind p.1 ≠ none ∧ ∃ w0, w.translate c rnum p.1 = .ok (key p.1) w0 ∧ entState w0 ≠ 7) :
    w.homeWrite c rnum cs = w.wrs (cs.map fun p => (key p.1, p.2)) := by
  induction cs generalizing w with
  | nil => rw [W.homeWrite]; rfl
  | cons p r ih =>
    obtain ⟨hlocal, hcached, w0, ht, hst⟩ := h p List.mem_cons_self
    have hcow : w.cow c rnum p.1 = w := by
      unfold W.cow
      rw [if_pos hlocal, ht]
      exact if_neg hst
    have hkey : w.writeKey c rnum p.1 = some (key p.1) := by
      unfold W.writeKey
      rw [W.mapped_of_translate ht]
    rw [W.homeWrite, hcow, hkey]
    refine ih (w := w.wr (key p.1) p.2) fun q hq => ?_
    obtain ⟨hl, hc, hm⟩ := h q (List.mem_cons_of_mem _ hq)
    exact ⟨hl, hc, by rwa [W.translate_wr hc]⟩

/-! ### The element read and written at its home (09 R274) -/

/-- An aligned element lies in one line. -/
theorem element_in_line {ty : BitVec 4} (hty : ty.toNat ≤ 11) {a : Nat} (ha : a % (tyBits ty / 8) = 0) :
    0 < tyBits ty / 8 ∧ a % 32 + tyBits ty / 8 ≤ 32 := by
  have hsize : ∀ ty : BitVec 4, ty.toNat ≤ 11 → tyBits ty / 8 = 1 ∨ tyBits ty / 8 = 2 ∨ tyBits ty / 8 = 4 ∨ tyBits ty / 8 = 8 := by decide
  rcases hsize ty hty with h | h | h | h
  all_goals rw [h] at ha ⊢; omega

theorem linesOf_of_line {cs : List Host.Cell} {line : Nat} (hne : cs ≠ []) (h : ∀ p ∈ cs, p.1 / 32 = line) : linesOf cs = [line] := by
  obtain ⟨p, r, rfl⟩ := List.exists_cons_of_ne_nil hne
  have hp : lineOf p.1 = line := h p List.mem_cons_self
  have hr : (r.map fun c => lineOf c.1).filter (fun b => !b == line) = [] := List.filter_eq_nil_iff.2 fun l hl => by
    obtain ⟨c, hc, rfl⟩ := List.mem_map.1 hl
    simp [show lineOf c.1 = line from h c (List.mem_cons_of_mem _ hc)]
  rw [linesOf, List.map_cons, hp, List.eraseDups_cons, hr]
  rfl

/-- Buffers that hold none of the bytes picked stay as they are. -/
theorem W.flushPicked_none {w : W} {n : Nat} {u : Thread} {pick : Host.Cell → Bool} (hu : w.d.thr n = some u)
    (h : ∀ p ∈ u.streams, ∀ e ∈ p.2.buffer, pick e = false) : w.flushPicked n pick = w := by
  unfold W.flushPicked
  rw [hu]
  refine List.foldlRecOn u.streams _ (motive := fun e : W => e = w) rfl fun e he p hp => ?_
  rw [he, if_neg]
  simpa using h p hp

/-- The access grid needs nothing made ready for a line that its L1 does not hold. -/
theorem W.amoReady_miss {w : W} {n rnum : Nat} {u : Thread} {q : AmoReq} (hscope : q.scope = 2) (hrels : ∀ r ∈ w.d.rels, r.thr ≠ n)
    (hu : w.d.thr n = some u) (hbuf : ∀ p ∈ u.streams, ∀ e ∈ p.2.buffer, e.1 / 32 ≠ q.addr / 32)
    (hmiss : (w.d.grid (u.accessGrid q.addr)).l1Find (q.addr / 32) ((w.d.ctx u.ctx).ridOf rnum q.addr) = none) :
    w.amoReady n u rnum q = { w with
      d := w.d.modGrid (u.accessGrid q.addr) fun g => g.l1Drop (lineOf q.addr) ((w.d.ctx u.ctx).ridOf rnum q.addr) } := by
  have hflush : w.flushPicked n (fun b => lineOf b.1 == lineOf q.addr) = w :=
    W.flushPicked_none hu fun p hp e he => by simpa [lineOf] using hbuf p hp e he
  have hmiss' : (w.d.grid (u.accessGrid q.addr)).l1Find (lineOf q.addr) ((w.d.ctx u.ctx).ridOf rnum q.addr) = none := hmiss
  unfold W.amoReady
  rw [W.performRelsOf_none hrels, hflush, hscope]
  simp [hmiss']

/-- What an atomic of PACKAGE scope reads at the home of its line. -/
theorem W.amoPeek_atHome {w : W} {n key : Nat} {u : Thread} {q : AmoReq} {fwd : Nat → Option Byte} (h : AtHome w u (q.addr / 32) key)
    (hscope : q.scope = 2) (hty : q.ty.toNat ≤ 11) (hal : q.addr % (tyBits q.ty / 8) = 0) (hrels : ∀ r ∈ w.d.rels, r.thr ≠ n)
    (hu : w.d.thr n = some u) (hbuf : ∀ p ∈ u.streams, ∀ e ∈ p.2.buffer, e.1 / 32 ≠ q.addr / 32)
    (hmiss : (w.d.grid (u.accessGrid q.addr)).l1Find (q.addr / 32) ((w.d.ctx u.ctx).ridOf (w.d.rnumOf u) q.addr) = none)
    (hfwd : ∀ j < tyBits q.ty / 8, fwd (q.addr + j) = none) :
    let old := ofBytes ((List.range (tyBits q.ty / 8)).map fun j => w.rd (key + q.addr % 32 + j))
    let r := amoNew q.op q.ty old q.b q.c
    ∃ w', w.amoPeek n u (w.d.rnumOf u) q fwd = (.ok (old, r.1, r.2), w') ∧ w.SameButLines w' := by
  intro old r
  obtain ⟨-, hfits⟩ := element_in_line hty hal
  have hready := W.amoReady_miss hscope hrels hu hbuf hmiss
  generalize hw1 : w.amoReady n u (w.d.rnumOf u) q = w1 at hready
  have hsame1 : w.SameButLines w1 := hready ▸ ⟨⟨_, _, _, rfl⟩⟩
  have hfirst : 32 * (q.addr / 32) / 32 = q.addr / 32 := Nat.mul_div_cancel_left _ (by decide)
  have h1 := h.mono hsame1
  obtain ⟨w0, ht, -⟩ := h1.mapped _ hfirst
  rw [Nat.mul_mod_right, Nat.add_zero, hsame1.rnumOf] at ht
  have hhome := home_local h1.quiet ht (h1.here _ hfirst) h1.sound
  obtain ⟨hsame2, -⟩ := l2Use_of_cached (w := w1) (c := u.ctx)
    (rid := (w1.d.ctx u.ctx).ridOf (w.d.rnumOf u) (32 * (q.addr / 32))) (h1.cached _ hfirst)
  have hline : w1.amoLine u (w.d.rnumOf u) q = w1.home u.ctx (w.d.rnumOf u) (q.addr / 32) := by
    rw [W.amoLine, if_neg (by omega)]
    rfl
  have hbytes : (span q.addr (elBytes q.ty)).map (fun a => (fwd a).getD ((w1.rds key 32).getD (a % 32) 0#8)) =
      (List.range (tyBits q.ty / 8)).map fun j => w.rd (key + q.addr % 32 + j) := by
    rw [span, List.map_map]
    refine List.map_congr_left fun j hj => ?_
    have hj' : j < tyBits q.ty / 8 := List.mem_range.1 hj
    have hmod : (q.addr + j) % 32 = q.addr % 32 + j := by omega
    rw [Function.comp_apply, hfwd j hj', Option.getD_none, hmod, W.rds_getD _ _ _ (by omega), hsame1.rd, Nat.add_assoc]
  refine ⟨_, ?_, hsame1.trans hsame2⟩
  unfold W.amoPeek
  rw [hw1]
  simp only [hline, hhome, hbytes]
  rfl

theorem W.loggedWrite_plain {w : W} {c rnum seq who : Nat} {cs : List Host.Cell} (h : (w.d.ctx c).logging = false) :
    w.loggedWrite c rnum seq who cs = w.pkgWrite c rnum cs := by
  unfold W.loggedWrite
  rw [h]
  rfl

theorem W.pkgWriteLine_local {w : W} {c rnum line : Nat} {p : Host.Cell} {r : List Host.Cell} (hl : w.isLocal p.1 = true)
    (hf : line ∉ w.d.hostHeld) :
    w.pkgWriteLine c rnum line (p :: r) = W.homeWrite (w.l2Use c ((w.d.ctx c).ridOf rnum p.1) line) c rnum (p :: r) := by
  have hmay : w.d.hostMay line = false := by simpa [Dev.hostMay] using hf
  unfold W.pkgWriteLine
  dsimp only
  rw [if_pos hl, hmay]

/-- Bytes of one line written at its home. -/
theorem W.pkgWrite_atHome {w : W} {u : Thread} {line key : Nat} {cs : List Host.Cell} (h : AtHome w u line key) (hne : cs ≠ [])
    (hline : ∀ p ∈ cs, p.1 / 32 = line) :
    (w.pkgWrite u.ctx (w.d.rnumOf u) cs).ov = (cs.map fun p => (key + p.1 % 32, p.2)).reverse ++ w.ov := by
  have hin : cellsIn line cs = cs := List.filter_eq_self.2 fun p hp => beq_iff_eq.2 (hline p hp)
  unfold W.pkgWrite
  rw [linesOf_of_line hne hline]
  obtain ⟨p, r, rfl⟩ := List.exists_cons_of_ne_nil hne
  obtain ⟨hsame, -⟩ := l2Use_of_cached (w := w) (c := u.ctx) (rid := (w.d.ctx u.ctx).ridOf (w.d.rnumOf u) p.1)
    (h.cached (32 * line) (Nat.mul_div_cancel_left _ (by decide)))
  have h1 := h.mono hsame
  have hmapped := h1.mapped
  rw [hsame.rnumOf] at hmapped
  simp only [List.foldl_cons, List.foldl_nil, hin]
  rw [W.pkgWriteLine_local (h.here _ (hline p List.mem_cons_self)) h.free, W.homeWrite_cached (key := fun a => key + a % 32) fun q hq =>
    ⟨h1.here _ (hline q hq), h1.cached _ (hline q hq), hmapped _ (hline q hq)⟩, W.wrs_ov, hsame.ov]

/-- What an atomic of PACKAGE scope writes at the home of its line. -/
theorem W.amoPut_atHome {w : W} {key seq : Nat} {u : Thread} {q : AmoReq} {bs : List Byte} (h : AtHome w u (q.addr / 32) key)
    (hscope : q.scope = 2) (hne : bs ≠ []) (hfits : q.addr % 32 + bs.length ≤ 32) (hlog : (w.d.ctx u.ctx).logging = false) :
    (w.amoPut u (w.d.rnumOf u) q seq (cellsAt q.addr bs)).ov = (cellsAt (key + q.addr % 32) bs).reverse ++ w.ov ∧
      w.Moves (w.amoPut u (w.d.rnumOf u) q seq (cellsAt q.addr bs)) := by
  have hput : w.amoPut u (w.d.rnumOf u) q seq (cellsAt q.addr bs) = w.pkgWrite u.ctx (w.d.rnumOf u) (cellsAt q.addr bs) := by
    unfold W.amoPut
    rw [if_neg (by omega), W.loggedWrite_plain hlog, hscope]
    simp
  have hkeys : (cellsAt q.addr bs).map (fun p => (key + p.1 % 32, p.2)) = cellsAt (key + q.addr % 32) bs := by
    unfold cellsAt
    rw [List.map_map]
    refine List.map_congr_left fun p hp => ?_
    have hlt := List.snd_lt_of_mem_zipIdx hp
    have hmod : (q.addr + p.2) % 32 = q.addr % 32 + p.2 := by omega
    rw [Function.comp_apply, hmod, Nat.add_assoc]
  rw [hput, ← hkeys]
  refine ⟨W.pkgWrite_atHome h (fun h0 => hne ?_) fun p hp => ?_, .pkgWrite ..⟩
  · simpa [cellsAt] using h0
  · obtain ⟨j, hj, rfl⟩ := mem_cellsAt.1 hp
    dsimp only
    omega

end Sys2Proof.Machine
end

section
/-!
PROOFS, 08 memory access: atomics as they are performed early (`Atomics`), continued.
-/

namespace Sys2Proof.Machine
open Claims

/-! ### What an atomic that has been performed leaves of its instance (08 R258) -/

/-- A recorded access without the bytes that an atomic has written after it; that of the atomic itself has the bytes written. -/
def Access.overwritten (idx l : Nat) (cs : List Host.Cell) (a : Access) : Access :=
  if a.isStore && a.scratch.isNone && a.lsid < l then { a with bytes := a.bytes.filter (fun c => (cellAt cs c.1).isNone) }
  else if a.idx == idx then { a with bytes := cs } else a

/-- An effect that waits for the commit, likewise; the atomic is done. -/
def effOverwritten (idx l : Nat) (cs : List Host.Cell) (e : Nat × Nat × Eff) : Nat × Nat × Eff :=
  match e.2.2 with
  | .store bs r => if e.1 < l then (e.1, e.2.1, Eff.store (bs.filter (fun c => (cellAt cs c.1).isNone)) r) else e
  | .amo _ _ sc od _ _ _ => if e.2.1 == idx then (e.1, e.2.1, Eff.amoDone sc od) else e
  | _ => e

/-- The instance, with the flags of the atomic and its event. -/
def Inst.performed (x : Inst) (idx l : Nat) (cs : List Host.Cell) (fl : BitVec 6) (ev : List (Nat × Nat × Eff)) : Inst :=
  { x with accs := x.accs.map (Access.overwritten idx l cs), effs := x.effs.map (effOverwritten idx l cs) ++ ev, flags := x.flags ||| fl
           atomics := x.atomics + 1, acquires := x.acquires.filter (fun k => k != l) }

/-- The atomic `q` of LSID l and index `idx` of an instance may be performed now, at PACKAGE scope and with no order. -/
structure EarlyTurn (w : W) (iid idx : Nat) (x : Inst) (b : Block) (u : Thread) (l : Nat) (q : AmoReq) (i : Instr) : Prop where
  inst : w.d.inst iid = some x
  code : x.code = some b
  thr : w.d.thr x.thr = some u
  held : x.amoAt idx = some (l, q)
  instr : b.instr idx = some i
  early : q.early i = true
  oldest : w.d.isOldest x = true
  resolved : x.resolved b l = true
  stores : x.storesBelow b l = true
  pend : x.pend = none
  runs : w.d.stopped x.grid = false
  sound : w.loadFault x b u = none
  turn : x.amoTurn idx l q = (idx, l, q)
  ord : q.ord = 0#2
  scope : q.scope = 2
  rels : ∀ r ∈ w.d.rels, r.thr ≠ x.thr
  unlogged : (w.d.ctx u.ctx).undoEn = false

/-- The work area with the log that the gate of a context gives back, which is the one it has. -/
def W.gated (w : W) (c : Nat) : W := { w with d := w.d.modCtx c fun k => { k with log := (w.d.ctx c).log } }

theorem amoEarly_performs {w w1 w2 : W} {iid idx : Nat} {x : Inst} {b : Block} {u : Thread} {l : Nat} {q : AmoReq} {i : Instr} {old new : Nat}
    {fl : BitVec 6} (h : EarlyTurn w iid idx x b u l q i)
    (hpeek : (w.gated u.ctx).amoPeek x.thr u (w.d.rnumOf u) q (storeByte x l none) = (.ok (old, new, fl), w1))
    (hclean : x.misread l (cellsAt q.addr (leBytes (tyBits q.ty / 8) new)) = false)
    (hput : w1.amoPut u (w.d.rnumOf u) q (u.commitSeq + 1) (cellsAt q.addr (leBytes (tyBits q.ty / 8) new)) = w2)
    (hyoung : ∀ ev, w2.d.misreadYoung (x.performed idx l (cellsAt q.addr (leBytes (tyBits q.ty / 8) new)) fl ev)
      (cellsAt q.addr (leBytes (tyBits q.ty / 8) new)) = w2.d) :
    let n := tyBits q.ty / 8
    let val := ofLanes (8 * n) (List.replicate (512 / (8 * n)) old)
    let ev := if (targets i).any (fun t => tgtKind t != 0) then w2.d.event u.ctx l idx 6 (BitVec.ofNat 64 q.addr) val else []
    w.amoEarly iid idx = { w2 with
      d := { w2.d.setInst iid (x.performed idx l (cellsAt q.addr (leBytes n new)) fl ev) with
        flight := w2.d.flight ++ sends iid idx ((targets i).map (fun t => (t, .val val))) } } := by
  intro n val ev
  obtain ⟨hinst, hcode, hthr, hheld, hinstr, hearly, holdest, hresolved, hstores, hpend, hruns, hsound, hturn, hord, hscope, hrels, hlog⟩ := h
  have hgate : ∀ es, (w.d.ctx u.ctx).logGate es = .ok (w.d.ctx u.ctx).log := fun es => by
    rw [Ctx.logGate, Ctx.logging, hlog]
    rfl
  have hunlogged : ((w.gated u.ctx).d.ctx u.ctx).logging = false := by
    rw [W.gated, Dev.ctx_modCtx, Ctx.logging, hlog]
    rfl
  have hpending : w.relPending x.thr 2 u.grids = false := by
    rw [W.relPending, W.relWaits_package _ _ (Nat.le_refl 2), Bool.false_or]
    exact List.any_eq_false.2 fun r hr h => hrels r hr (beq_iff_eq.1 (Bool.and_eq_true_iff.1 h).1)
  unfold W.amoEarly
  simp only [hinst, hcode, hthr, hheld, hinstr, Option.getD_some, hearly, holdest, hresolved, hstores, hpend, Option.isSome_none, hruns,
    Bool.not_true, Bool.or_self, Bool.false_eq_true, if_false, hord, BitVec.getLsbD_zero, hscope, Nat.le_refl, if_true, decide_true,
    Bool.true_and, hpending, hsound, hturn, hgate]
  unfold W.gated at hpeek hunlogged
  simp only [hunlogged, Bool.false_eq_true, if_false, hpeek, elBytes, hclean, Bool.and_false, hput,
    Nat.lt_irrefl, decide_false, Bool.false_and]
  rw [← hcode, ← hpend]
  exact congrArg (fun d : Dev => { w2 with
    d := { d.setInst iid (x.performed idx l (cellsAt q.addr (leBytes n new)) fl ev) with
      flight := d.flight ++ sends iid idx ((targets i).map (fun t => (t, .val val))) } }) (hyoung ev)

theorem amoEarly_waits {w : W} {iid idx : Nat} {x : Inst} {b : Block} {u : Thread} {l : Nat} {q : AmoReq} {i : Instr}
    (hinst : w.d.inst iid = some x) (hcode : x.code = some b) (hthr : w.d.thr x.thr = some u) (hheld : x.amoAt idx = some (l, q))
    (hinstr : b.instr idx = some i)
    (h : q.early i = false ∨ w.d.isOldest x = false ∨ x.resolved b l = false ∨ x.storesBelow b l = false ∨ x.pend ≠ none ∨
      w.d.stopped x.grid = true) : w.amoEarly iid idx = w := by
  have hblocked : (!q.early i || !w.d.isOldest x || !x.resolved b l || !x.storesBelow b l || x.pend.isSome || w.d.stopped x.grid) = true := by
    rcases h with h | h | h | h | h | h
    · simp [h]
    · simp [h]
    · simp [h]
    · simp [h]
    · simp [Option.isSome_iff_ne_none.2 h]
    · simp [h]
  unfold W.amoEarly
  simp only [hinst, hcode, hthr, hheld, hinstr, Option.getD_some]
  exact if_pos hblocked

/-- No load has a byte of these cells. -/
def Inst.Unread (x : Inst) (cs : List Host.Cell) : Prop := ∀ r ∈ x.accs, r.isStore = true ∨ ∀ e ∈ r.bytes, cellAt cs e.1 = none

theorem Inst.Unread.cellAt {x : Inst} {cs : List Host.Cell} (h : x.Unread cs) {r : Access} (hr : r ∈ x.accs) (hload : (!r.isStore) = true)
    {e : Host.Cell} (he : e ∈ r.bytes) : cellAt cs e.1 = none :=
  (h r hr).elim (fun hst => by rw [hst] at hload; cases hload) fun hno => hno e he

theorem Inst.Unread.misread {x : Inst} {cs : List Host.Cell} (h : x.Unread cs) (l : Nat) : x.misread l cs = false := by
  unfold Inst.misread
  refine List.any_eq_false.2 fun r hr hbad => ?_
  obtain ⟨hload, hany⟩ := Bool.and_eq_true_iff.1 hbad
  obtain ⟨e, he, hcell⟩ := List.any_eq_true.1 hany
  rw [h.cellAt hr (Bool.and_eq_true_iff.1 (Bool.and_eq_true_iff.1 hload).1).1 he] at hcell
  exact Bool.false_ne_true hcell

theorem Dev.misreadYoung_unread {d : Dev} {x : Inst} {cs : List Host.Cell} (h : ∀ y ∈ d.insts, y.2.thr = x.thr → y.2.Unread cs) :
    d.misreadYoung x cs = d := by
  unfold Dev.misreadYoung
  dsimp only
  rw [List.find?_eq_none.2]
  intro y hy hbad
  obtain ⟨hmem, hthr, -⟩ := Dev.mem_instsOf.1 (List.mem_filter.1 hy).1
  obtain ⟨r, hr, hbad⟩ := List.any_eq_true.1 hbad
  obtain ⟨hload, hany⟩ := Bool.and_eq_true_iff.1 hbad
  obtain ⟨e, he, hcell⟩ := List.any_eq_true.1 hany
  rw [(h y hmem hthr).cellAt hr (Bool.and_eq_true_iff.1 hload).1 he] at hcell
  exact Bool.false_ne_true hcell

theorem cellAt_cellsAt_outside {k a : Nat} {bs : List Byte} (h : a < k ∨ k + bs.length ≤ a) : cellAt (cellsAt k bs) a = none :=
  cellAt_eq_none fun c hc => by
    obtain ⟨j, hj, rfl⟩ := mem_cellsAt.1 hc
    dsimp only
    omega

/-- The effect of an atomic of index idx is not one to be performed any more. -/
theorem amoOf_effOverwritten {idx l : Nat} {cs : List Host.Cell} {e : Nat × Nat × Eff} (h : (effOverwritten idx l cs e).2.1 = idx) :
    amoOf (effOverwritten idx l cs e).2.2 = none := by
  obtain ⟨k, j, eff⟩ := e
  cases eff with
  | store bs r =>
    unfold effOverwritten
    dsimp only
    split
    · rfl
    · rfl
  | amo op ty sc od a b c =>
    by_cases hj : j = idx
    · simp [effOverwritten, hj, amoOf]
    · simp [effOverwritten, hj] at h
  | _ => rfl

theorem Dev.event_amoOf {d : Dev} {c key idx kind : Nat} {source : Word} {v : Vec} : ∀ e ∈ d.event c key idx kind source v, amoOf e.2.2 = none := by
  unfold Dev.event
  split
  · exact fun e he => by rw [List.mem_singleton.1 he]; rfl
  · exact fun e he => nomatch he

theorem Inst.performed_amoAt (x : Inst) (idx l : Nat) (cs : List Host.Cell) (fl : BitVec 6) {ev : List (Nat × Nat × Eff)}
    (hev : ∀ e ∈ ev, amoOf e.2.2 = none) : (x.performed idx l cs fl ev).amoAt idx = none := by
  have hfind : (x.performed idx l cs fl ev).effs.find? (fun e => e.2.1 == idx && (amoOf e.2.2).isSome) = none :=
    List.find?_eq_none.2 fun e he h => by
      rw [Bool.and_eq_true, beq_iff_eq] at h
      obtain ⟨hidx, hsome⟩ := h
      rcases List.mem_append.1 he with hold | hnew
      · obtain ⟨e0, -, rfl⟩ := List.mem_map.1 hold
        rw [amoOf_effOverwritten hidx] at hsome
        exact Bool.false_ne_true hsome
      · rw [hev e hnew] at hsome
        exact Bool.false_ne_true hsome
  rw [Inst.amoAt, hfind]
  rfl

theorem exec_atomicEarlyPerform (s : State) : exec .atomicEarlyPerform s = run (fun w => w.amoEarly w.d.arg.a w.d.arg.b) s := rfl

end Sys2Proof.Machine
end

section
/-!
PROOFS, 08 memory access: atomics as they are performed early (`Atomics`), put together.
-/

namespace Sys2Proof.Machine
open Claims

/-- The gate of a context that does not log changes nothing of a line at home. -/
theorem AtHome.gated {w : W} {u : Thread} {line key : Nat} (h : AtHome w u line key) (c : Nat) : AtHome (w.gated c) u line key := h.modCtx rfl

theorem W.gated_ctx (w : W) (c : Nat) : (w.gated c).d.ctx c = w.d.ctx c := Dev.ctx_modCtx ..

theorem sends_val (iid idx : Nat) (ts : List Target) (v : Vec) :
    sends iid idx (ts.map fun g => (g, .val v)) = (ts.filter fun g => tgtKind g != 0).map fun g => ⟨iid, some idx, g, .val v⟩ := by
  rw [sends, List.filter_map, List.map_map]
  rfl

/-- The outcome of an early performance: the element at its frame, the tokens on their way, the instance. -/
theorem exec_atomicEarlyPerform_performs {s : State} {x : Inst} {b : Block} {u : Thread} {l key : Nat} {q : AmoReq} {i : Instr}
    (h : EarlyTurn s.toW s.dev.arg.a s.dev.arg.b x b u l q i) (hhome : AtHome s.toW u (q.addr / 32) key) (hwf : s.mem.wf = true)
    (hty : q.ty.toNat ≤ 11) (hal : q.addr % (tyBits q.ty / 8) = 0) (hbuf : ∀ p ∈ u.streams, ∀ e ∈ p.2.buffer, e.1 / 32 ≠ q.addr / 32)
    (hmiss : (s.dev.grid (u.accessGrid q.addr)).l1Find (q.addr / 32) ((s.dev.ctx u.ctx).ridOf (s.dev.rnumOf u) q.addr) = none)
    (hown : ∀ r ∈ x.accs, r.isStore = true → r.lsid < l → ∀ y ∈ r.bytes, y.1 < q.addr ∨ q.addr + tyBits q.ty / 8 ≤ y.1)
    (hloads : ∀ y ∈ s.dev.insts, y.2.thr = x.thr → ∀ r ∈ y.2.accs, r.isStore = true ∨
      ∀ e ∈ r.bytes, e.1 < q.addr ∨ q.addr + tyBits q.ty / 8 ≤ e.1) :
    let n := tyBits q.ty / 8
    let at_ := key + q.addr % 32
    let old := memValue s.mem at_ n
    let r := amoNew q.op q.ty old q.b q.c
    ∃ t, exec .atomicEarlyPerform s = .next t ∧
      (∀ j < n, t.mem.read (at_ + j) = BitVec.ofNat 8 (r.1 / 2 ^ (8 * j))) ∧
      (∀ k, k < at_ ∨ at_ + n ≤ k → t.mem.read k = s.mem.read k) ∧
      (∃ v : Vec, (∀ k < 512 / (8 * n), elem (8 * n) v k = BitVec.ofNat (8 * n) old) ∧
        t.dev.flight = s.dev.flight ++ ((targets i).filter (fun g => tgtKind g != 0)).map (fun g => ⟨s.dev.arg.a, some s.dev.arg.b, g, .val v⟩)) ∧
      (∃ y, t.dev.inst s.dev.arg.a = some y ∧ y.flags = x.flags ||| r.2 ∧ y.atomics = x.atomics + 1 ∧ y.fired = x.fired ∧
        y.amoAt s.dev.arg.b = none ∧ y.st = x.st) := by
  intro n at_ old r
  obtain ⟨hpos, hfits⟩ := element_in_line hty hal
  have hlen : (leBytes n r.1).length = n := by rw [leBytes, List.length_map, List.length_range]
  have hmiss' : ((s.toW.gated u.ctx).d.grid (u.accessGrid q.addr)).l1Find (q.addr / 32)
      (((s.toW.gated u.ctx).d.ctx u.ctx).ridOf ((s.toW.gated u.ctx).d.rnumOf u) q.addr) = none := by
    rw [W.gated_ctx]
    exact hmiss
  have hfwd : ∀ j < n, storeByte x l none (q.addr + j) = none := fun j hj => storeByte_none fun a ha ⟨hst, _, hlt, hsome⟩ => by
    rw [cellAt_eq_none fun y hy hya => ?_] at hsome
    · cases hsome
    · have := hown a ha hst hlt y hy
      omega
  obtain ⟨w1, hpeek, hsame⟩ := W.amoPeek_atHome (hhome.gated u.ctx) h.scope hty hal h.rels h.thr hbuf hmiss' hfwd
  have hhome1 := (hhome.gated u.ctx).mono hsame
  have hlog1 : (w1.d.ctx u.ctx).logging = false := by
    rw [hsame.ctx, W.gated_ctx, Ctx.logging, h.unlogged]
    rfl
  obtain ⟨hov, hmoves⟩ := W.amoPut_atHome (seq := u.commitSeq + 1) (bs := leBytes n r.1) hhome1 h.scope
    (List.ne_nil_of_length_pos (by omega)) (by omega) hlog1
  rw [hsame.rnumOf] at hov hmoves
  generalize hw2 : w1.amoPut u ((s.toW.gated u.ctx).d.rnumOf u) q (u.commitSeq + 1) (cellsAt q.addr (leBytes n r.1)) = w2 at hov hmoves
  have hinsts : w2.d.insts = s.dev.insts := hmoves.dev.insts.trans hsame.insts
  have hunread : ∀ y ∈ w2.d.insts, y.2.thr = x.thr → y.2.Unread (cellsAt q.addr (leBytes n r.1)) := fun y hy hthr a ha =>
    (hloads y (hinsts ▸ hy) hthr a ha).imp_right fun hno e he => cellAt_cellsAt_outside (by rw [hlen]; exact hno e he)
  have hx : (s.dev.arg.a, x) ∈ w2.d.insts := hinsts ▸ Tbl.mem_of_look h.inst
  have hdone := amoEarly_performs h hpeek ((hunread _ hx rfl).misread l) hw2 fun ev => Dev.misreadYoung_unread hunread
  have hexec := (run_eq (fun w => w.amoEarly w.d.arg.a w.d.arg.b) s).trans
    (congrArg (fun w : W => Host.Outcome.next ({ s with dev := w.d, mem := s.mem.writeAll w.ov.reverse } : State)) hdone)
  have hcells : w2.ov.reverse = cellsAt at_ (leBytes n r.1) := by
    rw [hov, hsame.ov]
    exact (List.reverse_append ..).trans (List.reverse_reverse _)
  refine ⟨_, (exec_atomicEarlyPerform s).trans hexec, fun j hj => ?_, fun k hk => ?_, 
    ⟨ofLanes (8 * n) (List.replicate (512 / (8 * n)) old), fun k hk => ?_, ?_⟩, _, Dev.inst_setInst .., rfl, rfl, rfl,
    Inst.performed_amoAt _ _ _ _ _ ?_, rfl⟩
  · have hbyte : cellAt (cellsAt at_ (leBytes n r.1)) (at_ + j) = some (BitVec.ofNat 8 (r.1 / 2 ^ (8 * j))) := by
      rw [cellAt_cellsAt (by rw [hlen]; exact hj), leBytes, getD_map_range _ _ hj]
    refine (Memory.read_writeAll_reverse hwf w2.ov _).trans ?_
    rw [← List.reverse_reverse w2.ov, hcells]
    have hread := ovRead_wrs (w := s.toW) (m := s.mem) hbyte
    rw [W.wrs_ov] at hread
    exact (congrArg (fun ov => ovRead ov s.mem (at_ + j)) (List.append_nil _)).symm.trans hread
  · dsimp only
    rw [hcells]
    refine Memory.read_writeAll_ne _ _ fun c hc => ?_
    obtain ⟨j, hj, rfl⟩ := mem_cellsAt.1 hc
    dsimp only
    omega
  · rw [elem_ofLanes _ _ hk, List.getD_replicate _ hk]
  · dsimp only
    rw [sends_val, hmoves.dev.flight, hsame.flight]
    rfl
  · split
    · exact Dev.event_amoOf
    · exact fun e he => nomatch he

theorem exec_atomicEarlyPerform_waits {s : State} (h : s.toW.amoEarly s.dev.arg.a s.dev.arg.b = s.toW) :
    exec .atomicEarlyPerform s = .next s :=
  congrArg (fun w : W => Host.Outcome.next ({ s with dev := w.d, mem := s.mem.writeAll w.ov.reverse } : State)) h

/-- Settles O56: an atomic that fires fills its LSID, and one whose turn it is reads and writes the frame of its line. -/
theorem atomics : Obligations.Atomics := by
  unfold Obligations.Atomics
  refine ⟨fun p hp f s c u h hu hty => ?_, fun s x b u l q i key => ?_⟩
  · intro l n a b k w w' cs hc hs hd ho hl hy hfree
    exact exec_atomic_fills hp h hu hty hc hs hd ho hl hy hfree
  · intro iid idx n line hinst hcode hthr hheld hinstr
    refine ⟨fun hno => ?_, ?_⟩
    · exact exec_atomicEarlyPerform_waits (amoEarly_waits hinst hcode hthr hheld hinstr hno)
    · intro hearly holdest hresolved hstores hpend hruns hwf hlog hord hscope hty hal hsound hturn hrels hbuf _ hquiet hfree hpoison hline hmiss
        hown hloads
      have hready : EarlyTurn s.toW iid idx x b u l q i := ⟨hinst, hcode, hthr, hheld, hinstr, hearly, holdest, hresolved, hstores, hpend, hruns,
        hsound, hturn, hord, hscope, hrels, hlog⟩
      have hhome : AtHome s.toW u line key := ⟨fun a ha => (hline a ha).1, fun a ha => (hline a ha).2.1, fun a ha => (hline a ha).2.2, hquiet,
        hfree, hpoison⟩
      exact exec_atomicEarlyPerform_performs hready hhome hwf hty hal hbuf hmiss hown hloads

end Sys2Proof.Machine
end
